-- ==== Sys2Proof/Word.lean ====
section
/-!
DEFINITION. Word types of the LZ9-256 model and the plain containers its state is made of.
Registers, addresses and encoded fields are bit vectors, as 00_scope.md R1 to R5 and the layouts of every chapter
give them; unit numbers are `Fin` or `Nat`; sparse data is a list of key and value pairs.
-/
namespace Sys2Proof

/-- One byte. -/
abbrev Byte := BitVec 8
abbrev W16 := BitVec 16
abbrev W32 := BitVec 32
abbrev W64 := BitVec 64
abbrev W128 := BitVec 128
/-- The 64 bytes of one sector or slot, byte i at bits 8i to 8i + 7 (R24: little-endian). -/
abbrev W512 := BitVec 512

/-- Sparse data by key: a list of (key, value) pairs with strictly rising keys. The accessors of
`Machine/Table.lean` are its only readers and writers. -/
abbrev Tbl (α : Type) := List (Nat × α)

/-- Byte-addressed contents: strictly rising addresses, and no entry equal to the zero byte that an unlisted
address reads as. -/
abbrev Memory := List Host.Cell

/-- Bytes that travel with a message or wait in a buffer: explicit (offset, byte) pairs, zero bytes included. -/
abbrev Bytes := List (Nat × Byte)

end Sys2Proof
end

