-- ==== Sys2Proof/Syntax.lean ====
section
/-!
DEFINITION. The commands of the LZ9-256 block: one constructor of `Instr` for each row of spec/opcode_table.json,
with the operands that the rule of the row names. An instruction command carries the issuing core and face and every
field of its format (R139, R164, R169), the reserved ones included, so that the checks of R137, R138 and R170 can be
made. An event command carries the unit it concerns and whatever reaches the device from outside.
-/
namespace Sys2Proof

/-- The face that issues an instruction: the control core, or the group of caravan `v` that R115 picks. -/
inductive Face where
  | cc
  | cv (v : Fin 32)
  deriving DecidableEq, Repr

/-- A die-to-die link (R9): CDd–HD, or one of the ring links CD0–CD1, CD1–CD3, CD3–CD2, CD2–CD0 in that order. -/
inductive DieLink where
  | hub (d : Fin 4)
  | ring (i : Fin 4)
  deriving DecidableEq, Repr

/-- Fields of an RRR instruction (R139); `w` is FN[7] for INT. -/
structure RrrOp where
  core : Fin 256
  face : Face
  w : Bool
  rd : BitVec 6
  ra : BitVec 6
  rb : BitVec 6
  deriving DecidableEq, Repr

/-- Fields of an RRI instruction (R139). -/
structure RriOp where
  core : Fin 256
  face : Face
  rd : BitVec 6
  ra : BitVec 6
  imm : BitVec 14
  deriving DecidableEq, Repr

/-- Fields of SHI (R143): reserved [11:7], W [6], amount [5:0]. -/
structure ShiOp where
  core : Fin 256
  face : Face
  rd : BitVec 6
  ra : BitVec 6
  rsv : BitVec 5
  w : Bool
  amt : BitVec 6
  deriving DecidableEq, Repr

/-- Fields of an RI instruction (R139). -/
structure RiOp where
  core : Fin 256
  face : Face
  rd : BitVec 6
  imm : BitVec 20
  deriving DecidableEq, Repr

/-- Fields of a B instruction (R139). -/
structure BrOp where
  core : Fin 256
  face : Face
  ra : BitVec 6
  rb : BitVec 6
  off : BitVec 14
  deriving DecidableEq, Repr

/-- Fields of an FP32 or FP64 instruction (R146); `dbl` selects opcode 0x12. -/
structure FpOp where
  core : Fin 256
  face : Face
  dbl : Bool
  rd : BitVec 6
  ra : BitVec 6
  rb : BitVec 6
  rm : BitVec 2
  deriving DecidableEq, Repr

/-- Fields of CVT (R147). -/
structure CvtOp where
  core : Fin 256
  face : Face
  rd : BitVec 6
  ra : BitVec 6
  dst : BitVec 5
  src : BitVec 5
  rm : BitVec 2
  sat : Bool
  rsv : Bool
  deriving DecidableEq, Repr

/-- Fields of LDS and STS (R149): size code [13:11], signed offset [10:0]. -/
structure SpaOp where
  core : Fin 256
  face : Face
  rd : BitVec 6
  ra : BitVec 6
  size : BitVec 3
  off : BitVec 11
  deriving DecidableEq, Repr

/-- Fields of AMO (R153): width, space, AQ, RL; the operation is the row's. -/
structure AmoOp where
  core : Fin 256
  face : Face
  rd : BitVec 6
  ra : BitVec 6
  rb : BitVec 6
  w : Bool
  space : Bool
  aq : Bool
  rl : Bool
  deriving DecidableEq, Repr

/-- Fields of LD.ACQ and ST.REL (R158). -/
structure AcqOp where
  core : Fin 256
  face : Face
  rd : BitVec 6
  ra : BitVec 6
  size : BitVec 3
  scope : Bool
  off : BitVec 10
  deriving DecidableEq, Repr

/-- Fields of an ORD instruction (R156); `fn0` is FN[0], the scope of REL. -/
structure OrdOp where
  core : Fin 256
  face : Face
  rd : BitVec 6
  ra : BitVec 6
  rb : BitVec 6
  fn0 : Bool
  deriving DecidableEq, Repr

/-- Fields of a BAR instruction (R159). -/
structure BarOp where
  core : Fin 256
  face : Face
  rd : BitVec 6
  ra : BitVec 6
  rb : BitVec 6
  bar : Fin 16
  deriving DecidableEq, Repr

/-- Fields of CV.LAUNCH and CV.WAIT (R163). -/
structure LaunchOp where
  core : Fin 256
  face : Face
  rd : BitVec 6
  ra : BitVec 6
  rb : BitVec 6
  fn : BitVec 8
  deriving DecidableEq, Repr

/-- Fields of CV.MMA (R164). -/
structure MmaOp where
  core : Fin 256
  face : Face
  xfmt : BitVec 5
  wfmt : BitVec 5
  zero : Bool
  rsvHi : BitVec 21
  xb : BitVec 6
  wb : BitVec 6
  cb : BitVec 6
  sb : BitVec 6
  rsvLo : BitVec 2
  deriving DecidableEq, Repr

/-- Fields of VEC, VSUM and VMEM (R169); FN is the row's. -/
structure VecOp where
  core : Fin 256
  face : Face
  rm : BitVec 2
  sat : Bool
  sd : BitVec 5
  rsvHi : BitVec 16
  vd : BitVec 5
  va : BitVec 5
  vb : BitVec 5
  vm : BitVec 5
  maskEn : Bool
  rsvLo : BitVec 5
  deriving DecidableEq, Repr

/-- The place a vector instruction executes in: the queue head, or a gather/scatter channel (R196). -/
inductive VeUnit where
  | queue
  | chan (c : Fin 2)
  deriving DecidableEq, Repr

/-- An agent that sends requests to a home (R286). -/
inductive Agent where
  | l2 (c : Fin 32)
  | dma (e : Fin 64)
  | hub
  deriving DecidableEq, Repr

/-- A protected structure with ways (R298). -/
inductive WayStruct where
  | l1
  | l2
  | dir
  deriving DecidableEq, Repr

/-- Where a corrected error was found (R297, R473). -/
inductive EccPlace where
  | way (st : WayStruct) (unit : Fin 256) (way : Fin 16)
  | frame (f : BitVec 27)
  deriving DecidableEq, Repr

/-- Core-private structures whose uncorrectable error is a core fault of cause 0x06 (R473). -/
inductive CoreStruct where
  | scratchpad
  | slotTag
  | ringDescriptor
  | threadRegister
  | accumulator
  deriving DecidableEq, Repr

/-- Those of cause 0x07 (R473). -/
inductive ParityStruct where
  | weight
  | shadow
  | queue
  | descriptor
  deriving DecidableEq, Repr

/-- Where an uncorrectable error was found (R297, R473). -/
inductive UncPlace where
  | l1Sector (core : Fin 256) (set : Fin 64) (way : Fin 8) (sector : Fin 4)
  | l1Tag (core : Fin 256) (set : Fin 64) (way : Fin 8)
  | l2Sector (cluster : Fin 32) (set : Fin 1024) (way : Fin 16) (sector : Fin 4)
  | l2Tag (cluster : Fin 32) (set : Fin 1024) (way : Fin 16)
  | dirEntry (die : Fin 4)
  | hbm (sector : BitVec 33)
  | coreTlb (core : Fin 256) (ctx : BitVec 12) (vpn : BitVec 52)
  | clusterTlb (cluster : Fin 32) (ctx : BitVec 12) (vpn : BitVec 52)
  | dmaTlb (engine : Fin 64) (ctx : BitVec 12) (vpn : BitVec 52)
  | walkCache (cluster : Fin 32) (entry : Fin 64)
  | coreState (core : Fin 256) (st : CoreStruct)
  | coreParity (core : Fin 256) (st : ParityStruct)
  deriving DecidableEq, Repr

/-- A principal of the dictionary (R425): fabric manager, host administrator, tenant of virtual function `vf`. -/
inductive Principal where
  | fm
  | ha
  | tenant (vf : Byte)
  deriving DecidableEq, Repr

/-- A path by which Kedal frames arrive (R432). -/
inductive KPath where
  | field
  | window (slot : Fin 16)
  | fabric
  deriving DecidableEq, Repr

/-- A hello frame (R333). -/
structure Hello where
  digest : BitVec 256
  node : BitVec 20
  port : Fin 32
  maxWidth : BitVec 2
  deriving DecidableEq, Repr

/-- What the receiver's checks of R330 said of a flit. -/
inductive FlitCheck where
  | good
  | fec
  | crc
  | tag
  | tagNextKey
  deriving DecidableEq, Repr

/-- A flit as the receiver sees it after correction and decryption (R328): its control word and the 28 units of its
packet space, each a unit of a packet or nothing. -/
structure FlitIn where
  check : FlitCheck
  ctrl : W64
  units : List (Option W64)
  fixed : Bool
  deriving DecidableEq, Repr

/-- A packet: four header words and whole 8-byte payload units (R336, R337). -/
structure Packet where
  w0 : W64
  w1 : W64
  w2 : W64
  w3 : W64
  body : List W64
  deriving DecidableEq, Repr

/-- The measured quantities that the edge of a beacon uses: mean input power and the mean power of the ungated
consumers as FP64 bits (R515), the same power in W and the voltage in 0.1 V (R517), and the difference between the
measured edge and the timer's edge in 0.25 ns (R366). -/
structure EdgeIn where
  p : W64
  base : W64
  inputW : BitVec 12
  inputDv : BitVec 10
  temps : List Byte
  skew : Int
  deriving DecidableEq, Repr

/-- Fields of PART_CMD CREATE (R379). -/
structure PartCreate where
  q : Fin 32
  clusters : W32
  hbmMap : W512
  vcFirst : BitVec 2
  vcLast : BitVec 2
  slice : Byte
  keySlot : Byte
  deriving DecidableEq, Repr

/-- Fields of KEY_CMD and KEY_CLAIM (R453, R454) with the principal that signed or framed the command. -/
structure KeyCmd where
  slot : Byte
  principal : BitVec 2
  rsv : BitVec 14
  digest : BitVec 256
  proof : W128
  signer : Principal
  path : KPath
  deriving DecidableEq, Repr

/-- Fields of FW_UPDATE (R461). -/
structure FwCmd where
  rsv : BitVec 24
  len : W32
  svn : W32
  rsv2 : W32
  digest : BitVec 256
  deriving DecidableEq, Repr

/-- Fields of SELFTEST_CMD (R478); OP is the row's. -/
structure TestCmd where
  target : BitVec 4
  rsv : BitVec 4
  unit : W16
  flags : Byte
  start : BitVec 40
  tag : W32
  deriving DecidableEq, Repr

/-- Fields of the write of a counter through 0x7020:01 (R484). -/
structure CtrWrite where
  n : W16
  setCount : Bool
  rsv : BitVec 15
  ctl : W64
  count : W64
  deriving DecidableEq, Repr

/-- A containment domain (R463), in the order of its codes. -/
inductive Domain where
  | laneGroup
  | port
  | core
  | cluster
  | channel
  | die
  | module
  deriving DecidableEq, Repr

/-- What a start-up step reports (R518): whether it succeeded, the dies and HBM channels that failed in it, the
PUF's state read in step 5, the link mode of step 10, and whether the stage that steps 3, 4 and 7 check matches its digest (R446). -/
structure StepIn where
  ok : Bool
  diesFailed : BitVec 4
  linkSpeed : BitVec 4
  linkWidth : BitVec 5
  linkFlit : Bool
  pufOk : Bool
  stageOk : Bool
  channelsFailed : List (Fin 256)
  deriving DecidableEq, Repr

/-- What a host write names that has no row of its own (R410): an offset of BAR0 or of BAR4, or in configuration space VF Enable and the
MSI-X message control word, its enable in bit 15 and its function mask in bit 14. -/
inductive HostReg where
  | bar0 (off : BitVec 26)
  | bar4 (off : BitVec 16)
  | vfEnable
  | msixControl
  deriving DecidableEq, Repr

/-- Where a request of the host comes from: the function that it is for, and the IDE stream that carries it (R409). -/
structure HostReq where
  fn : Byte
  stream : Option (Fin 9)
  deriving DecidableEq, Repr

/-- A write of GO to a slot of the PCIe window (R437), and the IDE stream that carries it. -/
structure SlotGo where
  slot : Fin 16
  stream : Option (Fin 9)
  deriving DecidableEq, Repr

/-- The sender of a Kedal frame: its MAC address or path, its node ID, and the EtherType of a frame of the field network (R433, R435). -/
structure KSender where
  src : W64
  node : BitVec 20
  etype : BitVec 16
  deriving DecidableEq, Repr

/-- An event that leaves its die for a trace port (R495): the buffer, and how many entries the sink writes behind it. -/
structure TraceIn where
  buf : Fin 5
  sunk : BitVec 11
  deriving DecidableEq, Repr

/-- The cause of a fault, and the other faults of its cycle: domain, unit and cause of each (R467). -/
structure FaultCauses where
  cause : Byte
  also : List (Domain × BitVec 10 × Byte)
  deriving DecidableEq, Repr

/-- An SPDM message on the PF DOE mailbox (R458): a session request with the requester's algorithms, a request for the certificate chain or
the measurements, or the programming of an IDE stream by IDE_KM: its address associations, a key of one of the three sub-streams (4 ×
sub-stream + 2 × direction + key set), and its start. -/
inductive Spdm where
  | session (slhDsa128s : Bool) (mlKem768 : Bool)
  | certificates
  | measurements
  | ideKey (stream : Fin 9) (slot : Fin 12) (key : BitVec 256)
  | ideProgram (stream : Fin 9) (assoc : List (W64 × W64))
  | ideGo (stream : Fin 9)
  deriving DecidableEq, Repr

/-- A tensor in memory: element format code, extents (innermost last), packed element bytes and block exponents. -/
structure Tensor where
  fmt : BitVec 5
  ext : List Nat
  data : List Byte
  scale : List Byte
  deriving DecidableEq, Repr

/-- What a Thehus call names besides its tensors (R526, R528, R532, R534): the device, the output format, rounding and
saturation where the program sets them, whether the program passed a fixed tiling, the tiling record, whose fields the order of addition
uses, where Thehus has placed each member's share of each output (HBM OFFSET of its elements and of its block exponents), and the cause
with which a member on another module has been torn down (R538). -/
structure CallOpt where
  dev : Nat
  outFmt : BitVec 5
  rm : Option (BitVec 2)
  sat : Option Bool
  fixedTiling : Bool
  tiling : List W64
  place : List (List (BitVec 39 × BitVec 39))
  torn : Option Nat
  deriving DecidableEq, Repr

/-- The reductions and maps that REDUCE, SCAN and EXCHANGE name (R527). -/
inductive RedOp where
  | sum
  | sumsq
  | norm
  | min
  | max
  deriving DecidableEq, Repr

/-- An operand of a function of ELEMENTWISE: the result of function `k` of the sequence, or operand tensor `k` of the call. -/
inductive ElemSrc where
  | result (k : Nat)
  | operand (k : Nat)
  deriving DecidableEq, Repr

/-- One function of a fused ELEMENTWISE sequence (R527): a code of R187 or R188, what it takes as VA, VB, the old VD and the mask VM of VSEL,
and its scalar operand. -/
structure ElemFn where
  fn : Byte
  a : ElemSrc
  b : ElemSrc
  d : ElemSrc
  m : ElemSrc
  s : W64
  deriving DecidableEq, Repr

/-- The exchanges of R527. -/
inductive ExchOp where
  | allReduce
  | reduceScatter
  | allGather
  | broadcast (root : Nat)
  | send (src dst : Nat)
  deriving DecidableEq, Repr

/-- A member named at DEVICE_OPEN (R524, R525): its module and context, the HBM OFFSET of the exchange area that Thehus has allocated for it,
whether the test read and the test write of every other member reach that area, and of a member on another module its
partition, width and class, and the cause where it is gone. -/
structure MemberIn where
  node : BitVec 20
  ctx : BitVec 12
  area : BitVec 39
  reached : Bool
  part : BitVec 5
  width : Nat
  lc : Bool
  gone : Option Nat
  deriving DecidableEq, Repr

/-- Geometry of a convolution (R527), per spatial dimension from z to x: kernel, stride, dilation, padding. -/
structure ConvGeom where
  kernel : List Nat
  stride : List Nat
  dilation : List Nat
  pad : List Nat
  deriving DecidableEq, Repr

/-- The commands of the block, in the order of spec/opcode_table.json; the rule of each row stands beside it. -/
inductive Instr where
  | pllLossOfLock (n : Fin 40)  -- R20
  | ucieModuleOutOfService (l : DieLink) (m : Fin 16)  -- R13
  | linkReplayComplete (i : Fin 4)  -- R14
  | add (o : RrrOp)  -- R141
  | sub (o : RrrOp)  -- R141
  | iand (o : RrrOp)  -- R141
  | ior (o : RrrOp)  -- R141
  | ixor (o : RrrOp)  -- R141
  | sll (o : RrrOp)  -- R141
  | srl (o : RrrOp)  -- R141
  | sra (o : RrrOp)  -- R141
  | slt (o : RrrOp)  -- R141
  | sltu (o : RrrOp)  -- R141
  | imin (o : RrrOp)  -- R141
  | imax (o : RrrOp)  -- R141
  | minu (o : RrrOp)  -- R141
  | maxu (o : RrrOp)  -- R141
  | mul (o : RrrOp)  -- R141
  | mulh (o : RrrOp)  -- R141
  | mulhu (o : RrrOp)  -- R141
  | div (o : RrrOp)  -- R142
  | divu (o : RrrOp)  -- R142
  | rem (o : RrrOp)  -- R142
  | remu (o : RrrOp)  -- R142
  | popc (o : RrrOp)  -- R142
  | clz (o : RrrOp)  -- R142
  | ctz (o : RrrOp)  -- R142
  | addi (o : RriOp)  -- R143
  | andi (o : RriOp)  -- R143
  | ori (o : RriOp)  -- R143
  | xori (o : RriOp)  -- R143
  | slti (o : RriOp)  -- R143
  | shiSll (o : ShiOp)  -- R143
  | shiSrl (o : ShiOp)  -- R143
  | shiSra (o : ShiOp)  -- R143
  | lui (o : RiOp)  -- R143
  | beq (o : BrOp)  -- R145
  | bne (o : BrOp)  -- R145
  | blt (o : BrOp)  -- R145
  | bge (o : BrOp)  -- R145
  | bltu (o : BrOp)  -- R145
  | bgeu (o : BrOp)  -- R145
  | jal (o : RiOp)  -- R145
  | jalr (o : RriOp)  -- R145
  | fadd (o : FpOp)  -- R146
  | fsub (o : FpOp)  -- R146
  | fmul (o : FpOp)  -- R146
  | fma (o : FpOp)  -- R146
  | fnma (o : FpOp)  -- R146
  | fdiv (o : FpOp)  -- R146
  | fsqrt (o : FpOp)  -- R146
  | fmin (o : FpOp)  -- R146
  | fmax (o : FpOp)  -- R146
  | feq (o : FpOp)  -- R146
  | flt (o : FpOp)  -- R146
  | fle (o : FpOp)  -- R146
  | fabs (o : FpOp)  -- R146
  | fneg (o : FpOp)  -- R146
  | frcp (o : FpOp)  -- R146
  | cvt (o : CvtOp)  -- R147
  | lb (o : RriOp)  -- R148
  | lbu (o : RriOp)  -- R148
  | lh (o : RriOp)  -- R148
  | lhu (o : RriOp)  -- R148
  | lw (o : RriOp)  -- R148
  | lwu (o : RriOp)  -- R148
  | ld (o : RriOp)  -- R148
  | lq (o : RriOp)  -- R148
  | sb (o : RriOp)  -- R148
  | sh (o : RriOp)  -- R148
  | sw (o : RriOp)  -- R148
  | sd (o : RriOp)  -- R148
  | sq (o : RriOp)  -- R148
  | lds (o : SpaOp)  -- R149
  | sts (o : SpaOp)  -- R149
  | swap (o : AmoOp)  -- R154
  | cas (o : AmoOp)  -- R154
  | amoAdd (o : AmoOp)  -- R154
  | amoAnd (o : AmoOp)  -- R154
  | amoOr (o : AmoOp)  -- R154
  | amoXor (o : AmoOp)  -- R154
  | amoMin (o : AmoOp)  -- R154
  | amoMax (o : AmoOp)  -- R154
  | amoMinu (o : AmoOp)  -- R154
  | amoMaxu (o : AmoOp)  -- R154
  | ldAcq (o : AcqOp)  -- R158
  | stRel (o : AcqOp)  -- R158
  | rel (o : OrdOp)  -- R155
  | acqA (o : OrdOp)  -- R157
  | acqR (o : OrdOp)  -- R157
  | barSync (o : BarOp)  -- R159
  | barArrive (o : BarOp)  -- R159
  | cacheInvp (o : RrrOp)  -- R175
  | srRd (o : RriOp)  -- R171
  | srWr (o : RriOp)  -- R172
  | mxChainWrite (o : RriOp)  -- R91
  | veFlagsAccess (o : RriOp) (wr : Bool)  -- R199
  | trcMark (o : RriOp)  -- R494
  | nop (o : RrrOp)  -- R161
  | ctlEnd (o : RrrOp)  -- R161
  | kernelEnd (k : Fin 256)  -- R272
  | exit (o : RrrOp)  -- R161
  | cvYield (o : RrrOp)  -- R117
  | cvConv (o : RrrOp)  -- R123
  | brk (o : RrrOp)  -- R162
  | cvLaunch (o : LaunchOp)  -- R111
  | cvWait (o : LaunchOp)  -- R111
  | cvMma (o : MmaOp)  -- R123
  | collectiveConverge (k : Fin 256) (v : Fin 32)  -- R123
  | collectiveGrant (k : Fin 256)  -- R81
  | collectiveSectionFree (k : Fin 256) (sec : Fin 16)  -- R80
  | collectiveCReadable (k : Fin 256) (v : Fin 32)  -- R126
  | yieldWindowEnd (k : Fin 256)  -- R83
  | arrayStreamExit (k : Fin 256)  -- R83
  | mtWr (o : RrrOp)  -- R165
  | mtRdl (o : RrrOp)  -- R165
  | mtRdh (o : RrrOp)  -- R165
  | mxPass (o : RrrOp)  -- R66
  | mxDrain (o : RrrOp)  -- R166
  | passValidate (k : Fin 256)  -- R72
  | weightBandWrite (k : Fin 256)  -- R69
  | weightFrontStart (k : Fin 256)  -- R71
  | passLastVector (k : Fin 256)  -- R72
  | accumulatorWrite (k : Fin 256)  -- R63
  | passDone (k : Fin 256)  -- R72
  | xRecordRelease (k : Fin 256)  -- R60
  | drainRowWrite (k : Fin 256)  -- R78
  | chainStepCompare (k : Fin 256)  -- R93
  | chainStepStart (k : Fin 256)  -- R94
  | chainMemberFrontStart (k : Fin 256)  -- R94
  | vadd (o : VecOp)  -- R187
  | vsub (o : VecOp)  -- R187
  | vmul (o : VecOp)  -- R187
  | vfma (o : VecOp)  -- R187
  | vfnma (o : VecOp)  -- R187
  | vdiv (o : VecOp)  -- R187
  | vsqrt (o : VecOp)  -- R187
  | vmin (o : VecOp)  -- R187
  | vmax (o : VecOp)  -- R187
  | vabs (o : VecOp)  -- R187
  | vneg (o : VecOp)  -- R187
  | vrcp (o : VecOp)  -- R187
  | vadds (o : VecOp)  -- R187
  | vmuls (o : VecOp)  -- R187
  | vfmas (o : VecOp)  -- R187
  | vmov (o : VecOp)  -- R187
  | vbcast (o : VecOp)  -- R187
  | vand (o : VecOp)  -- R187
  | vor (o : VecOp)  -- R187
  | vxor (o : VecOp)  -- R187
  | vsll (o : VecOp)  -- R187
  | vsrl (o : VecOp)  -- R187
  | vsra (o : VecOp)  -- R187
  | vsel (o : VecOp)  -- R187
  | viota (o : VecOp)  -- R187
  | vceq (o : VecOp)  -- R188
  | vcne (o : VecOp)  -- R188
  | vclt (o : VecOp)  -- R188
  | vcle (o : VecOp)  -- R188
  | vcltu (o : VecOp)  -- R188
  | vcleu (o : VecOp)  -- R188
  | vcnan (o : VecOp)  -- R188
  | vmand (o : VecOp)  -- R188
  | vmor (o : VecOp)  -- R188
  | vmxor (o : VecOp)  -- R188
  | vmnot (o : VecOp)  -- R188
  | vcvt (o : VecOp)  -- R189
  | vcvtBexp (o : VecOp)  -- R190
  | vpmerge (o : VecOp)  -- R192
  | vAny (o : VecOp)  -- R193
  | vAll (o : VecOp)  -- R193
  | vCount (o : VecOp)  -- R193
  | vFirst (o : VecOp)  -- R193
  | vsumMin (o : VecOp)  -- R193
  | vsumMax (o : VecOp)  -- R193
  | vSum (o : VecOp)  -- R194
  | vNorm (o : VecOp)  -- R194
  | vgather (o : VecOp) (ch : Fin 2)  -- R195
  | vscatter (o : VecOp) (ch : Fin 2)  -- R195
  | vwWr0 (o : VecOp)  -- R182
  | vwWr1 (o : VecOp)  -- R182
  | vwRd0 (o : VecOp)  -- R182
  | vwRd1 (o : VecOp)  -- R182
  | vlSet (o : VecOp)  -- R182
  | vlGet (o : VecOp)  -- R182
  | vectorQueueHead (k : Fin 256)  -- R203
  | vectorComplete (k : Fin 256) (u : VeUnit)  -- R183
  | dmaSub (o : RrrOp)  -- R167
  | dmaWait (o : RrrOp)  -- R167
  | spPmap (o : RrrOp)  -- R210
  | spRingWr (o : RrrOp)  -- R218
  | spRingRd (o : RrrOp) (word1 : Bool)  -- R168
  | spTagFull (o : RrrOp)  -- R215
  | spTagEmpty (o : RrrOp)  -- R215
  | transitEnd (k : Fin 256) (g : Fin 8)  -- R210
  | tagWaitRetry (k : Fin 256)  -- R216
  | ringSlotReturn (k : Fin 256) (slot : BitVec 15)  -- R219
  | dmaDispatch (e : Fin 64)  -- R229
  | dmaTranslationDone (k : Fin 256) (seq : W64)  -- R235
  | dmaFirstRequest (k : Fin 256) (seq : W64)  -- R238
  | dmaComplete (k : Fin 256) (seq : W64)  -- R242
  | rdS (c : Fin 32) (line : BitVec 31)  -- R286
  | rdX (c : Fin 32) (line : BitVec 31)  -- R286
  | upg (c : Fin 32) (line : BitVec 31)  -- R286
  | sf (c : Fin 32) (line : BitVec 31)  -- R286
  | wt (c : Fin 32) (line : BitVec 31)  -- R290
  | ucRd (c : Fin 32) (line : BitVec 31)  -- R286
  | ucWr (c : Fin 32) (line : BitVec 31)  -- R290
  | amoH (c : Fin 32) (line : BitVec 31)  -- R290
  | wb (c : Fin 32) (line : BitVec 31)  -- R287
  | evc (c : Fin 32) (line : BitVec 31)  -- R287
  | dmaRd (a : Agent) (line : BitVec 31)  -- R290
  | dmaWr (a : Agent) (line : BitVec 31)  -- R290
  | homeTransactionStart (line : BitVec 31)  -- R287
  | dataS (c : Fin 32) (line : BitVec 31)  -- R286
  | dataE (c : Fin 32) (line : BitVec 31)  -- R286
  | dataX (c : Fin 32) (line : BitVec 31)  -- R291
  | gnt (c : Fin 32) (line : BitVec 31)  -- R286
  | dataU (a : Agent) (line : BitVec 31)  -- R286
  | ack (a : Agent) (line : BitVec 31)  -- R279
  | invMsg (c : Fin 32) (line : BitVec 31)  -- R286
  | fwdS (c : Fin 32) (line : BitVec 31)  -- R286
  | fwdX (c : Fin 32) (line : BitVec 31)  -- R286
  | fwdR (c : Fin 32) (line : BitVec 31)  -- R286
  | invAck (c : Fin 32) (line : BitVec 31)  -- R287
  | fwdData (c : Fin 32) (line : BitVec 31)  -- R287
  | nohold (c : Fin 32) (line : BitVec 31)  -- R293
  | homeTimeout (line : BitVec 31) (c : Fin 32)  -- R294
  | correctedError (p : EccPlace)  -- R298
  | wayOutOfService (st : WayStruct) (unit : Fin 256) (way : Fin 16)  -- R298
  | eccUncorrectable (p : UncPlace)  -- R297
  | pageWalk (c : Fin 32) (ctx : BitVec 12) (vpn : BitVec 52)  -- R313
  | translationCommandDoorbell (f : HostReq) (tail : W64)  -- R322
  | invRange (f : Byte) (cmd : List W64)  -- R323
  | invCtx (f : Byte) (cmd : List W64)  -- R323
  | resolve (f : Byte) (cmd : List W64)  -- R321
  | invalidationDrainComplete (f : Byte)  -- R323
  | laneSignalDetect (p : Fin 32) (groups : BitVec 4)  -- R333
  | trainComplete (p : Fin 32) (groups : BitVec 4) (peerWidth : BitVec 2)  -- R334
  | helloFrame (p : Fin 32) (h : Hello)  -- R333
  | secureComplete (p : Fin 32) (peer : BitVec 256)  -- R456
  | rangeComplete (p : Fin 32) (rtt : W32)  -- R363
  | portStateTimeout (p : Fin 32)  -- R333
  | portRetry (p : Fin 32)  -- R333
  | laneGroupLoss (p : Fin 32) (g : Fin 4)  -- R334
  | widthComplete (p : Fin 32)  -- R334
  | flitArrival (p : Fin 32) (f : FlitIn)  -- R330
  | packetForward (input : Fin 33) (vc : BitVec 3)  -- R341
  | rdReq  -- R353
  | rdRsp  -- R338
  | wrReq  -- R353
  | wrAck  -- R354
  | mgmt  -- R438
  | eventPkt  -- R351
  | fabTxnTimeout (id : W16)  -- R352
  | eventFlush  -- R351
  | linkKeySwitch (p : Fin 32)  -- R457
  | beaconEdge (i : EdgeIn)  -- R370
  | holdWindowStart  -- R371
  | rangingProbe (p : Fin 32) (token : BitVec 7)  -- R363
  | rangingFrameSend (p : Fin 32)  -- R359
  | rangingFrame (p : Fin 32) (w0 w1 w2 w3 : W64)  -- R360
  | missedSymbol  -- R368
  | holdoverExpiry  -- R368
  | periodChange (v : W64) (untilUs : W32)  -- R369
  | partCreate (c : PartCreate)  -- R381
  | partDestroy (q : Fin 32)  -- R383
  | partCreateDone (q : Fin 32)  -- R381
  | partDestroyDone (q : Fin 32)  -- R383
  | sliceWrite (q : Fin 32) (v : Byte)  -- R382
  | vfBindingWrite (vf : Byte) (v : Byte)  -- R384
  | ctxCreate (f : Byte) (entry : List W64)  -- R386
  | ctxDestroy (f : Byte) (entry : List W64)  -- R401
  | teardownComplete (n : BitVec 12)  -- R400
  | contextQuiescent (k : Fin 256)  -- R393
  | contextSaved (n : BitVec 12)  -- R394
  | contextRestored (n : BitVec 12)  -- R395
  | perstAssert  -- R407
  | perstRelease  -- R520
  | hotReset  -- R522
  | vfFlr (vf : Byte)  -- R408
  | pfFlr  -- R408
  | submissionDoorbell (f : HostReq) (off : BitVec 24) (size : Nat) (v : W64)  -- R411
  | adminSubmissionDoorbell (f : HostReq) (tail : W64)  -- R412
  | completionHeadDoorbell (f : HostReq) (ring : Fin 3) (head : W64)  -- R414
  | registerWrite (f : HostReq) (reg : HostReg) (v : W64)  -- R412
  | launch (n : BitVec 12) (hostEntry : List W64)  -- R416
  | submissionNop (n : BitVec 12) (hostEntry : List W64)  -- R416
  | kernelDoneRecord (n : BitVec 12)  -- R417
  | coalesceTimerExpiry (n : BitVec 12)  -- R419
  | spdmMessage (m : Spdm)  -- R458
  | ideStreamInsecure (stream : Fin 9)  -- R421
  | kedalFrameArrival (path : KPath) (src : KSender) (bcast : Bool) (frame : List Byte)  -- R430
  | kdSlotGo (go : SlotGo) (frame : List Byte)  -- R437
  | kRead  -- R427
  | kWrite  -- R429
  | kCwrite  -- R441
  | nodeIdWrite (v : W32)  -- R346
  | routeCommit (v : W64)  -- R347
  | routeCommitCancel (v : W64)  -- R347
  | portEnWrite (p : Fin 32) (v : W32)  -- R350
  | portDataWrite (p : Fin 32) (v : W32)  -- R350
  | keyEstablish (c : KeyCmd)  -- R453
  | keyRetire (c : KeyCmd)  -- R453
  | keyGenerate (c : KeyCmd)  -- R453
  | keyClaim (c : KeyCmd)  -- R454
  | quoteReq (who : Principal) (kind : Byte) (part : BitVec 5) (rsv : BitVec 3) (nonce : BitVec 256)  -- R459
  | quoteSigned  -- R460
  | fwBegin (c : FwCmd)  -- R461
  | fwChunk (data : List Byte)  -- R461
  | fwCommit (c : FwCmd)  -- R461
  | fwAbort (c : FwCmd)  -- R461
  | setMinSvn (c : FwCmd)  -- R461
  | resetFull  -- R521
  | resetRecovery  -- R521
  | resetEnterStandby  -- R521
  | resetLeaveStandby  -- R521
  | pwrCapWrite (v : W32)  -- R514
  | testLogic (c : TestCmd)  -- R478
  | testMemory (c : TestCmd)  -- R478
  | testBoth (c : TestCmd)  -- R478
  | testOpticalCal (c : TestCmd)  -- R480
  | testCancel (c : TestCmd)  -- R478
  | selftestStart (tag : W32)  -- R479
  | selftestEnd (tag : W32) (pass : Bool) (failing : List Nat) (passing : List Nat)  -- R481
  | freezeTriggerWrite (v : W64)  -- R488
  | freezeRelease (v : Byte)  -- R488
  | counterWrite (w : CtrWrite)  -- R484
  | trcCtrlWrite (b : Fin 5) (v : W64)  -- R491
  | traceEvent (b : TraceIn)  -- R495
  | trcDrain (b : Fin 5) (bus : W64) (first : BitVec 25) (rsv : BitVec 7) (count : BitVec 25) (rsv2 : BitVec 7)  -- R499
  | trcDrainDone (b : Fin 5)  -- R499
  | waitForGraphRequest (scope : BitVec 2) (rsv : BitVec 6) (id : BitVec 12) (tag : W32)  -- R500
  | watchdog (n : BitVec 12)  -- R500
  | graphPublish  -- R501
  | dbgStop (who : Principal) (rsv : BitVec 12) (n : BitVec 12)  -- R503
  | dbgResume (who : Principal) (rsv : BitVec 12) (n : BitVec 12)  -- R503
  | faultDetect (d : Domain) (unit : BitVec 10) (cause : FaultCauses)  -- R467
  | recoveryComplete (d : Domain) (unit : BitVec 10) (ok : Bool) (us : W32)  -- R464
  | moduleRecoveryTimeout  -- R469
  | agentSilentTimeout (d : Domain) (unit : BitVec 10)  -- R470
  | inputTurnOn  -- R506
  | inputUndervoltage  -- R506
  | inputOvervoltage  -- R506
  | presentOpen  -- R507
  | powerSample (mw : W32) (dv : BitVec 10)  -- R514
  | fastCut  -- R516
  | thermalTrip (die : Fin 5) (t : Byte)  -- R511
  | coreArrayDomainStop (d : Fin 4)  -- R513
  | coreArrayRelock (d : Fin 4)  -- R513
  | startupStepComplete (i : StepIn)  -- R518
  | startupStepTimeout  -- R518
  | thOpen (dev : Nat) (members : List MemberIn) (exchBytes : W64)  -- R524
  | thMatmul (c : CallOpt) (a b : Tensor) (acc : Option Tensor)  -- R527
  | thBatched (c : CallOpt) (entries : List (Tensor × Tensor × Option Tensor))  -- R527
  | thConv (c : CallOpt) (x w : Tensor) (g : ConvGeom)  -- R527
  | thAttention (c : CallOpt) (q k v : Tensor) (scale : Option W32) (mask : Option Tensor)  -- R531
  | thReduce (c : CallOpt) (op : RedOp) (x : Tensor) (axis : Nat)  -- R529
  | thScan (c : CallOpt) (inclusive : Bool) (x : Tensor) (axis : Nat)  -- R530
  | thElementwise (c : CallOpt) (fns : List ElemFn) (x : Tensor) (xs : List Tensor)  -- R527
  | thFft (c : CallOpt) (inverse : Bool) (re im : Tensor)  -- R527
  | thStencil (c : CallOpt) (x : Tensor) (offsets : List (List Int)) (weights : List W64)  -- R527
  | thGather (c : CallOpt) (x idx : Tensor)  -- R527
  | thScatter (c : CallOpt) (x idx y : Tensor) (accum : Bool)  -- R527
  | thConvert (c : CallOpt) (x : Tensor)  -- R527
  | thExchange (c : CallOpt) (op : ExchOp) (shares : List Tensor) (late : Nat)  -- R535
  | pcieCompletion (tag : W16) (data : List Byte)  -- R251
  | pcieLinkRetrain (speed : BitVec 4) (width : BitVec 5) (flit : Bool)  -- R407
  | fwVerifyDone  -- R461
  deriving DecidableEq, Repr

end Sys2Proof
end

