-- ==== Sys2Proof/Decode.lean ====
section
/-!
DEFINITION. What words spell. The opcode table of this block gives no row any bits, so no word of it spells a command: commands reach the
block as the events of 95_what_each_step_holds.md, with their operands beside them. The instruction words of 06 (R136, R139, R140) are
decoded here too: the row that a word spells for a core and a face, with every field, the reserved ones included.
-/
namespace Sys2Proof

/-- The command spelled by the `nbits` bits of `w`: none, because no row of spec/opcode_table.json gives bits. -/
def decodeTableWord (_nbits _w : Nat) : Option Instr := none

/-- Bits [hi:lo] of an instruction word, as a bit vector. -/
def wordBits (w : W64) (lo n : Nat) : BitVec n := (w >>> lo).setWidth n

/-- R136: the major opcode. -/
def wordOp (w : W64) : Nat := (wordBits w 26 6).toNat

/-- R136: opcodes 0x38–0x3F mark a 64-bit instruction; its length in bytes. -/
def wordLen (w : W64) : Nat := if 0x38 ≤ wordOp w then 8 else 4

/-- The FN field of a 32-bit word. -/
def wordFn (w : W64) : BitVec 8 := wordBits w 0 8

/-- The formats of R139, and those of the classes that lay out FN or IMM14 themselves. -/
def rrrOf (k : Fin 256) (f : Face) (w : W64) : RrrOp := ⟨k, f, (wordFn w).getLsbD 7, wordBits w 20 6, wordBits w 14 6, wordBits w 8 6⟩
def rriOf (k : Fin 256) (f : Face) (w : W64) : RriOp := ⟨k, f, wordBits w 20 6, wordBits w 14 6, wordBits w 0 14⟩
def riOf (k : Fin 256) (f : Face) (w : W64) : RiOp := ⟨k, f, wordBits w 20 6, wordBits w 0 20⟩
def brOf (k : Fin 256) (f : Face) (w : W64) : BrOp := ⟨k, f, wordBits w 20 6, wordBits w 14 6, wordBits w 0 14⟩
def shiOf (k : Fin 256) (f : Face) (w : W64) : ShiOp :=
  ⟨k, f, wordBits w 20 6, wordBits w 14 6, wordBits w 7 5, w.getLsbD 6, wordBits w 0 6⟩
def fpOf (k : Fin 256) (f : Face) (dbl : Bool) (w : W64) : FpOp :=
  ⟨k, f, dbl, wordBits w 20 6, wordBits w 14 6, wordBits w 8 6, wordBits w 0 2⟩
def cvtOf (k : Fin 256) (f : Face) (w : W64) : CvtOp :=
  ⟨k, f, wordBits w 20 6, wordBits w 14 6, wordBits w 9 5, wordBits w 4 5, wordBits w 2 2, w.getLsbD 1, w.getLsbD 0⟩
def spaOf (k : Fin 256) (f : Face) (w : W64) : SpaOp := ⟨k, f, wordBits w 20 6, wordBits w 14 6, wordBits w 11 3, wordBits w 0 11⟩
def amoOf (k : Fin 256) (f : Face) (w : W64) : AmoOp :=
  ⟨k, f, wordBits w 20 6, wordBits w 14 6, wordBits w 8 6, w.getLsbD 3, w.getLsbD 2, w.getLsbD 1, w.getLsbD 0⟩
def acqOf (k : Fin 256) (f : Face) (w : W64) : AcqOp :=
  ⟨k, f, wordBits w 20 6, wordBits w 14 6, wordBits w 11 3, w.getLsbD 10, wordBits w 0 10⟩
def ordOf (k : Fin 256) (f : Face) (w : W64) : OrdOp := ⟨k, f, wordBits w 20 6, wordBits w 14 6, wordBits w 8 6, w.getLsbD 0⟩
def barOf (k : Fin 256) (f : Face) (w : W64) : BarOp :=
  ⟨k, f, wordBits w 20 6, wordBits w 14 6, wordBits w 8 6, (wordBits w 0 4).toFin⟩
def launchOf (k : Fin 256) (f : Face) (w : W64) : LaunchOp := ⟨k, f, wordBits w 20 6, wordBits w 14 6, wordBits w 8 6, wordFn w⟩
def mmaOf (k : Fin 256) (f : Face) (w : W64) : MmaOp :=
  ⟨k, f, wordBits w 59 5, wordBits w 54 5, w.getLsbD 53, wordBits w 32 21, wordBits w 20 6, wordBits w 14 6, wordBits w 8 6, wordBits w 2 6,
    wordBits w 0 2⟩
def vecOf (k : Fin 256) (f : Face) (w : W64) : VecOp :=
  ⟨k, f, wordBits w 54 2, w.getLsbD 53, wordBits w 48 5, wordBits w 32 16, wordBits w 21 5, wordBits w 16 5, wordBits w 11 5, wordBits w 6 5,
    w.getLsbD 5, wordBits w 0 5⟩

/-- INT by FN[6:0] (R141). -/
def intWord (o : RrrOp) (fn : Nat) : Option Instr :=
  match fn with
  | 0x00 => some (.add o)
  | 0x01 => some (.sub o)
  | 0x02 => some (.iand o)
  | 0x03 => some (.ior o)
  | 0x04 => some (.ixor o)
  | 0x05 => some (.sll o)
  | 0x06 => some (.srl o)
  | 0x07 => some (.sra o)
  | 0x08 => some (.slt o)
  | 0x09 => some (.sltu o)
  | 0x0A => some (.imin o)
  | 0x0B => some (.imax o)
  | 0x0C => some (.minu o)
  | 0x0D => some (.maxu o)
  | 0x0E => some (.mul o)
  | 0x0F => some (.mulh o)
  | 0x10 => some (.mulhu o)
  | 0x11 => some (.div o)
  | 0x12 => some (.divu o)
  | 0x13 => some (.rem o)
  | 0x14 => some (.remu o)
  | 0x15 => some (.popc o)
  | 0x16 => some (.clz o)
  | 0x17 => some (.ctz o)
  | _ => none

/-- FP32 and FP64 by FN[7:2] (R146). -/
def fpWord (o : FpOp) (fn : Nat) : Option Instr :=
  match fn with
  | 0x00 => some (.fadd o)
  | 0x01 => some (.fsub o)
  | 0x02 => some (.fmul o)
  | 0x03 => some (.fma o)
  | 0x04 => some (.fnma o)
  | 0x05 => some (.fdiv o)
  | 0x06 => some (.fsqrt o)
  | 0x07 => some (.fmin o)
  | 0x08 => some (.fmax o)
  | 0x09 => some (.feq o)
  | 0x0A => some (.flt o)
  | 0x0B => some (.fle o)
  | 0x0C => some (.fabs o)
  | 0x0D => some (.fneg o)
  | 0x0E => some (.frcp o)
  | _ => none

/-- AMO by FN[7:4] (R153). -/
def amoWord (o : AmoOp) (fn : Nat) : Option Instr :=
  match fn with
  | 0x00 => some (.swap o)
  | 0x01 => some (.cas o)
  | 0x02 => some (.amoAdd o)
  | 0x03 => some (.amoAnd o)
  | 0x04 => some (.amoOr o)
  | 0x05 => some (.amoXor o)
  | 0x06 => some (.amoMin o)
  | 0x07 => some (.amoMax o)
  | 0x08 => some (.amoMinu o)
  | 0x09 => some (.amoMaxu o)
  | _ => none

/-- VEC by FN (R187–R192). -/
def vecWord (o : VecOp) (fn : Nat) : Option Instr :=
  match fn with
  | 0x00 => some (.vadd o)
  | 0x01 => some (.vsub o)
  | 0x02 => some (.vmul o)
  | 0x03 => some (.vfma o)
  | 0x04 => some (.vfnma o)
  | 0x05 => some (.vdiv o)
  | 0x06 => some (.vsqrt o)
  | 0x07 => some (.vmin o)
  | 0x08 => some (.vmax o)
  | 0x09 => some (.vabs o)
  | 0x0A => some (.vneg o)
  | 0x0B => some (.vrcp o)
  | 0x0C => some (.vadds o)
  | 0x0D => some (.vmuls o)
  | 0x0E => some (.vfmas o)
  | 0x0F => some (.vmov o)
  | 0x10 => some (.vbcast o)
  | 0x11 => some (.vand o)
  | 0x12 => some (.vor o)
  | 0x13 => some (.vxor o)
  | 0x14 => some (.vsll o)
  | 0x15 => some (.vsrl o)
  | 0x16 => some (.vsra o)
  | 0x17 => some (.vsel o)
  | 0x18 => some (.viota o)
  | 0x40 => some (.vceq o)
  | 0x41 => some (.vcne o)
  | 0x42 => some (.vclt o)
  | 0x43 => some (.vcle o)
  | 0x44 => some (.vcltu o)
  | 0x45 => some (.vcleu o)
  | 0x46 => some (.vcnan o)
  | 0x48 => some (.vmand o)
  | 0x49 => some (.vmor o)
  | 0x4A => some (.vmxor o)
  | 0x4B => some (.vmnot o)
  | 0x60 => some (.vcvt o)
  | 0x61 => some (.vcvtBexp o)
  | 0x70 => some (.vpmerge o)
  | _ => none

/-- VSUM by FN (R193). -/
def vsumWord (o : VecOp) (fn : Nat) : Option Instr :=
  match fn with
  | 0x00 => some (.vAny o)
  | 0x01 => some (.vAll o)
  | 0x02 => some (.vCount o)
  | 0x03 => some (.vFirst o)
  | 0x04 => some (.vsumMin o)
  | 0x05 => some (.vsumMax o)
  | 0x06 => some (.vSum o)
  | 0x07 => some (.vNorm o)
  | _ => none

/-- VMEM by FN (R182, R195). -/
def vmemWord (o : VecOp) (fn : Nat) : Option Instr :=
  match fn with
  | 0x00 => some (.vgather o 0)
  | 0x01 => some (.vscatter o 0)
  | 0x02 => some (.vgather o 1)
  | 0x03 => some (.vscatter o 1)
  | 0x10 => some (.vwWr0 o)
  | 0x11 => some (.vwWr1 o)
  | 0x12 => some (.vwRd0 o)
  | 0x13 => some (.vwRd1 o)
  | 0x14 => some (.vlSet o)
  | 0x15 => some (.vlGet o)
  | _ => none

/-- SHI by the kind in bits [13:12] (R143). -/
def shiWord (o : ShiOp) (kind : Nat) : Option Instr :=
  match kind with
  | 0 => some (.shiSll o)
  | 1 => some (.shiSrl o)
  | 2 => some (.shiSra o)
  | _ => none

/-- Classes of one face whose FN picks the instruction (R161, R165, R167, R168, R175); bit 7 of FN stays in the operands. -/
def fnWord (o : RrrOp) (op fn : Nat) : Option Instr :=
  match op, fn with
  | 0x28, 0x00 => some (.cacheInvp o)
  | 0x2B, 0x00 => some (.nop o)
  | 0x2B, 0x01 => some (.ctlEnd o)
  | 0x2B, 0x02 => some (.exit o)
  | 0x2B, 0x03 => some (.cvYield o)
  | 0x2B, 0x04 => some (.cvConv o)
  | 0x2B, 0x05 => some (.brk o)
  | 0x2E, 0x00 => some (.mtWr o)
  | 0x2E, 0x01 => some (.mtRdl o)
  | 0x2E, 0x02 => some (.mtRdh o)
  | 0x2E, 0x03 => some (.mxPass o)
  | 0x2E, 0x04 => some (.mxDrain o)
  | 0x2F, 0x00 => some (.dmaSub o)
  | 0x2F, 0x01 => some (.dmaWait o)
  | 0x30, 0x00 => some (.spPmap o)
  | 0x30, 0x01 => some (.spRingWr o)
  | 0x30, 0x02 => some (.spRingRd o false)
  | 0x30, 0x03 => some (.spRingRd o true)
  | 0x30, 0x04 => some (.spTagFull o)
  | 0x30, 0x05 => some (.spTagEmpty o)
  | _, _ => none

/-- The instruction that a word spells on a face of a core (R140); none where its opcode or function code is reserved. -/
def decodeWord (k : Fin 256) (f : Face) (w : W64) : Option Instr :=
  let fn := (wordFn w).toNat
  match wordOp w with
  | 0x01 => intWord (rrrOf k f w) (fn % 128)
  | 0x02 => some (.addi (rriOf k f w))
  | 0x03 => some (.andi (rriOf k f w))
  | 0x04 => some (.ori (rriOf k f w))
  | 0x05 => some (.xori (rriOf k f w))
  | 0x06 => shiWord (shiOf k f w) (wordBits w 12 2).toNat
  | 0x07 => some (.lui (riOf k f w))
  | 0x08 => some (.slti (rriOf k f w))
  | 0x09 => some (.beq (brOf k f w))
  | 0x0A => some (.bne (brOf k f w))
  | 0x0B => some (.blt (brOf k f w))
  | 0x0C => some (.bge (brOf k f w))
  | 0x0D => some (.bltu (brOf k f w))
  | 0x0E => some (.bgeu (brOf k f w))
  | 0x0F => some (.jal (riOf k f w))
  | 0x10 => some (.jalr (rriOf k f w))
  | 0x11 => fpWord (fpOf k f false w) (fn / 4)
  | 0x12 => fpWord (fpOf k f true w) (fn / 4)
  | 0x13 => some (.cvt (cvtOf k f w))
  | 0x14 => some (.lb (rriOf k f w))
  | 0x15 => some (.lbu (rriOf k f w))
  | 0x16 => some (.lh (rriOf k f w))
  | 0x17 => some (.lhu (rriOf k f w))
  | 0x18 => some (.lw (rriOf k f w))
  | 0x19 => some (.lwu (rriOf k f w))
  | 0x1A => some (.ld (rriOf k f w))
  | 0x1B => some (.lq (rriOf k f w))
  | 0x1C => some (.sb (rriOf k f w))
  | 0x1D => some (.sh (rriOf k f w))
  | 0x1E => some (.sw (rriOf k f w))
  | 0x1F => some (.sd (rriOf k f w))
  | 0x20 => some (.sq (rriOf k f w))
  | 0x21 => some (.lds (spaOf k f w))
  | 0x22 => some (.sts (spaOf k f w))
  | 0x23 => amoWord (amoOf k f w) (fn / 16)
  | 0x24 => some (.ldAcq (acqOf k f w))
  | 0x25 => some (.stRel (acqOf k f w))
  | 0x26 => (match fn / 2 with
    | 0 => some (.rel (ordOf k f w))
    | 1 => some (.acqA (ordOf k f w))
    | 2 => some (.acqR (ordOf k f w))
    | _ => none)
  | 0x27 => (match fn / 16 with
    | 0 => some (.barSync (barOf k f w))
    | 1 => some (.barArrive (barOf k f w))
    | _ => none)
  | 0x29 => some (.srRd (rriOf k f w))
  | 0x2A => some (.srWr (rriOf k f w))
  | 0x2C => some (.cvLaunch (launchOf k f w))
  | 0x2D => some (.cvWait (launchOf k f w))
  | 0x38 => some (.cvMma (mmaOf k f w))
  | 0x39 => vecWord (vecOf k f w) (wordBits w 56 8).toNat
  | 0x3A => vsumWord (vecOf k f w) (wordBits w 56 8).toNat
  | 0x3B => vmemWord (vecOf k f w) (wordBits w 56 8).toNat
  | op => fnWord (rrrOf k f w) op (fn % 128)

end Sys2Proof
end

