-- ==== Sys2Proof/Config.lean ====
section
/-!
DEFINITION. What the spec leaves open (log 6) and the primitives that it names by standard only (log 7). Each is an opaque
constant: no proof can learn a value of it, so a statement about it holds for every value.
-/
namespace Sys2Proof.Config

/-- A value that the spec does not state, drawn by the state's counter. -/
opaque freeValue : Nat → W64

/-- Bytes of a die-to-die message besides the data that it carries (R485): the spec gives no message format. -/
opaque dieHeader : Nat

/-- The FP32 exponential that Thehus evaluates for ATTENTION: R531 fixes its accuracy and not its bits. -/
opaque exp32 : W32 → W32

/-- Element (row, column) of the DFT matrix of a length, real and imaginary parts in a format: R527 names the matrix and
not the rounding of its entries. -/
opaque dftRe : (fmt len row col : Nat) → W64
opaque dftIm : (fmt len row col : Nat) → W64

/-- Version of the running Thehus library, major in the upper half (R532, R534). -/
opaque libVersion : W32

/-- A pair of ATTENTION's running sum or partial output times an FP32 factor: R531 names the step and not its rounding. -/
opaque attnScale : (wide : Bool) → W128 → W32 → W128

/-- Element `i` of a result that the spec does not state: a STENCIL point with a neighbour outside the tensor, a GATHER of an index outside
it. It is a function of the tiling record, the tensors (format, extents, bytes) and the points, so that runs of one tiling on one
library version give identical bits (R7, R534). -/
opaque openElem : (tiling : List W64) → (operands : List (Nat × List Nat × List Byte)) → (points : List (List Int × W64)) → (i : Nat) → W64

/-- The range of the receiver's data region that Thehus assigns to a push of a call, by the call's tiling record and the source member
(R525): its offset and length in bytes. -/
opaque pushRange : (tiling : List W64) → (src : Nat) → Nat × Nat

/-- Where Thehus cuts an axis of `n` into `parts` segments that are not of one length: R529 says contiguous and no more. -/
opaque cutPoint : (n parts p : Nat) → Nat

/-- The root seed that the PUF of this module yields (R447), and the info byte of HKDF by which the identity key pair (0), the ML-KEM-768
key pair (1) and the storage key (2) are derived from it: the spec gives none of their values. -/
opaque rootSeed : BitVec 256
opaque seedInfo : Nat → Byte

/-- ML-KEM-768: the encapsulation key of a seed (1,184 bytes), decapsulation under a seed's key pair (R453, R456), and encapsulation to a
key with 32 random bytes: the ciphertext, 1,088 bytes, and the secret (R456). -/
opaque kemPublic : (seed : List Byte) → BitVec 9472
opaque kemDecaps : (seed text : List Byte) → BitVec 256
opaque kemEncaps : (key : List Byte) → (random : BitVec 256) → BitVec 8704 × BitVec 256

/-- Whether an SLH-DSA-SHA2-256s signature verifies over a message under a public key (R446). -/
opaque slhVerify : (key msg sig : List Byte) → Bool

/-- SLH-DSA-SHA2-128s: the public key of a seed, the signature of its private key over a message (7,856 bytes; R460), and whether a
signature verifies (R456). -/
opaque slhPublic : (seed : List Byte) → BitVec 256
opaque slhSign : (seed msg : List Byte) → BitVec 62848
opaque slhVerify128 : (key msg sig : List Byte) → Bool

/-- The device CA's certificate and its public key, 64 bytes, as stage 1 holds it (R456, R458). -/
opaque caCert : List Byte
opaque caKey : W512

/-- The transcript that the two ends of a link check (R456), from what the end with the lower identity digest and the other have sent: its
form is not stated. -/
opaque transcript : (low high : List Byte) → List Byte

/-- The authentication key of the replay-protected block, which is derived from the storage key, and the nonce that wraps a kept key there
(R449): neither derivation is stated. -/
opaque blockKey : (storage : List Byte) → BitVec 256
opaque wrapNonce : (slot writes : Nat) → List Byte

/-- Parity of one RS(128,124) codeword over GF(2^8) (R328): field and generator are not stated. -/
opaque rsParity : List Byte → W32

/-- The packet space of a hello frame (R333), whose layout is not stated, and the tag of a flit that is not encrypted. -/
opaque helloSpace : (digest : BitVec 256) → (node port width : Nat) → List Byte
opaque plainTag : (ctrl space : List Byte) → W64

/-- The digest in the mask ROM (R446). -/
opaque romDigest : BitVec 256

/-- What the manufacture of this module yields (R448): the manufacture stamp, and the device CA's signature over the certificate (29,792
bytes). -/
opaque mfgStamp : W64
opaque caSig : BitVec 238336

/-- The n-th 64 bytes that the DRBG draws after it has been seeded for the k-th time (R450, R453). -/
opaque drbg : (k n : Nat) → W512

end Sys2Proof.Config
end

