-- ==== Sys2Proof/Machine/CoreState.lean ====
section
/-!
DEFINITION. The state of one core (05 R134): its control core and caravans, its matrix array, vector engine and
scratchpad, its DMA queue, its accesses in flight, and the words that the scheduler and the governor keep for it.
Every structure is plain data; a table entry that is missing reads as the default that `Machine/Access.lean` names.
-/
namespace Sys2Proof.Machine

/-- R114. -/
inductive ThreadState where
  | idle
  | ready
  | waitOperand
  | waitMemory
  | waitFault
  | parked
  deriving DecidableEq, Repr

/-- What a face, or a thread, waits for (R114, R112, R502). -/
inductive Wait where
  | none
  | operand
  | queue
  | summary
  | tag (slot : Nat) (full : Bool)
  | barrier (b : Nat)
  | hold (seq : Option Nat)
  | entry
  | credit
  | bound
  | walk (vpn : Nat)
  | fault (vpn : Nat)
  | order
  | dma (seq : Nat)
  | caravans
  | kernelEnd
  | transit
  | ring
  | chain
  | capture
  deriving DecidableEq, Repr

/-- An agent of a core that makes accesses (R253): control core, thread, gather/scatter channel, DMA.SUB's read of a
descriptor, the matrix array's own accesses never leave the scratchpad. -/
inductive Req where
  | cc
  | thread (v lane : Nat)
  | chan (ch : Nat)
  | desc
  deriving DecidableEq, Repr

/-- The operation of an atomic (R153). -/
inductive AmoKind where
  | swap
  | cas
  | add
  | and
  | or
  | xor
  | min
  | max
  | minu
  | maxu
  deriving DecidableEq, Repr

/-- What an access does when it is performed. -/
inductive AccOp where
  | load (signed : Bool)
  | store
  | amo (k : AmoKind)
  | desc
  deriving DecidableEq, Repr

/-- How an access in flight is served: by a line that its cluster awaits, by a message of its own to the home (WT, UC,
AMO_H), over the fabric, or by the host. -/
inductive Via where
  | cache
  | home
  | fabric
  | host
  deriving DecidableEq, Repr

/-- An access to translated memory that has issued and is not yet performed (R251): requester, address of its
instruction, operation, size in bytes, virtual and physical address, write policy and remote attribute of its page,
destination register, store data or operand, compare value, whether later accesses wait for it (AQ, LD.ACQ), how it is
served, its number and that of the issue that it belongs to (R253), its transaction entry (R129), and the element index of a
gather or scatter. -/
structure Access where
  req : Req
  pc : W64
  op : AccOp
  size : Nat
  va : W64
  pa : W64
  wp : Nat
  rem : Bool
  dst : Nat
  data : W128
  cmp : W64
  acq : Bool
  via : Via
  id : Nat
  issue : Nat
  entry : Nat
  elem : Nat
  deriving DecidableEq, Repr

/-- An access through the C port (R149, R154, R214), an atomic where `amo` names one, that waits on a tag, a transit or a place in the
list, with the map it is bound to (R210) and its place in issue order (R253). -/
structure SpAccess where
  req : Req
  map : W32
  pc : W64
  store : Bool
  code : Nat
  addr : Nat
  dst : Nat
  data : W128
  cmp : W64
  amo : Option AmoKind
  ord : Nat
  deriving DecidableEq, Repr

/-- A CV.MMA from convergence to the moment its C is readable (R125, R126). `phase`: 1 converged, 2 granted,
3 section free. `frag` holds the registers read at the grant, register r of lane l at key 64 l + r. -/
structure Coll where
  phase : Nat
  op : MmaOp
  pc : W64
  sec : Nat
  frag : Tbl W32
  deriving DecidableEq, Repr

/-- One caravan (R113–R127). Register tr of lane l is at key 64 l + r. -/
structure Caravan where
  regs : Tbl W32
  pcs : Tbl W64
  st : Tbl ThreadState
  waits : Tbl Wait
  served : W32
  flags : W32
  parkPc : W64
  parkOp : Option MmaOp
  coll : Option Coll
  deriving DecidableEq, Repr

/-- One barrier (R159): count, arrivals, and who waits on it. -/
structure Barrier where
  count : Nat
  arrived : Nat
  waiters : List Req
  deriving DecidableEq, Repr

/-- The four words of CORE_FAULT (R133). -/
structure CoreFault where
  w0 : W64
  w1 : W64
  w2 : W64
  w3 : W64
  deriving DecidableEq, Repr

/-- R72; a DRAIN is `queued` until it starts its first row and `running` from there on. -/
inductive PassState where
  | queued
  | loading
  | ready
  | running
  | flushing
  deriving DecidableEq, Repr

/-- An entry of the matrix queue (R66, R67): a PASS with its captured descriptor, or a DRAIN with its two words; the
issuing PC, the port map it is bound to (R210), its chain step number (R93) and how far it has come. `wimg` and `wexp`
hold the shadow registers written so far, `ximg` the X records taken at the front, `vec` the next vector to
accumulate, `xrel` the X records released, `row` the next drain row, `ord` its place in issue order (R253). `agreed`: a
drain has passed its checks, or a chain step's passes agree (R93); `wide`: the rows are P64x2; `go`: its chain step has
started (R94). -/
structure MxCmd where
  ord : Nat
  drain : Bool
  desc : W128
  pc : W64
  map : W32
  step : Nat
  agreed : Bool
  wide : Bool
  go : Bool
  state : PassState
  bands : Nat
  wimg : Memory
  wexp : Memory
  ximg : Memory
  xslots : List Nat
  vec : Nat
  xrel : Nat
  row : Nat
  fronted : Bool
  deriving DecidableEq, Repr

/-- R82. -/
inductive ArrayMode where
  | idle
  | stream
  | sections
  | toStream
  deriving DecidableEq, Repr

/-- The matrix array of a core (03, 04). Accumulator slot row j, column n is at key 128 j + n; `link` holds the column
results that the previous chain member has sent, vector m, column n at key 128 m + n of the step. -/
structure Matrix where
  mt : Tbl W128
  queue : List MxCmd
  acc : Tbl W64
  tags : Tbl Bool
  flags : W32
  fault : W32
  arb : W32
  chain : W32
  mode : ArrayMode
  sections : Tbl Nat
  converged : List Nat
  run : Nat
  window : Bool
  stepIn : Nat
  link : Tbl W64
  deriving DecidableEq, Repr

/-- An entry of the vector queue, or an instruction in a gather/scatter channel (R183, R196): opcode, FN, fields, the
scalar read at issue, issuing PC, bound map, whether its head checks have passed, the index below which every element
is done, the slots it holds of each ring-bound window (65,536 × role + ordinal, slot), the slots taken per role, the 64
lane pairs and running value of a summary, the index below which every element has been read with the results not yet
written (in `lanes`), the data that a channel's access returned, its place in issue order (R253), and the descriptors and
VE_VL that it uses from its start on (R182). -/
structure VeInstr where
  ord : Nat
  win : Tbl W64
  vl : Nat
  op : Nat
  fn : Nat
  rm : BitVec 2
  sat : Bool
  sd : Nat
  vd : Nat
  va : Nat
  vb : Nat
  vm : Nat
  maskEn : Bool
  s : W64
  pc : W64
  map : W32
  started : Bool
  idx : Nat
  rd : Nat
  slots : List (Nat × Nat)
  taken : Tbl Nat
  lanes : Tbl W128
  folded : W64
  seen : Tbl Nat
  got : Tbl W128
  issue : Nat
  done : Bool
  deriving DecidableEq, Repr

/-- The vector engine of a core (07). Window w's words 0 and 1 are at keys 2 w and 2 w + 1. -/
structure VecEng where
  win : Tbl W64
  vl : Nat
  flags : W32
  fault : W64
  queue : List VeInstr
  chans : Tbl VeInstr
  parked : Tbl Nat
  deriving DecidableEq, Repr

/-- Who waits in the tag wait list (R216): a face's access, the vector queue's head, a channel, a DMA command of the core, or one of
core `k` whose request this core's scratchpad window serves (R241). -/
inductive TagWho where
  | face (a : SpAccess)
  | vector
  | chan (ch : Nat)
  | dma (seq : Nat)
  | window (k seq : Nat)
  deriving DecidableEq, Repr

/-- An entry of the tag wait list: the slot, the tag state awaited, the waiter, and for a ring take the ring and side. -/
structure TagWait where
  slot : Nat
  full : Bool
  who : TagWho
  ring : Option (Nat × Bool)
  deriving DecidableEq, Repr

/-- A ring slot that has been taken and not yet returned (R219): slot, ring, whether the taker produces, and whether
its last byte has been read or written. -/
structure Taken where
  slot : Nat
  ring : Nat
  producer : Bool
  finished : Bool
  deriving DecidableEq, Repr

/-- The scratchpad of a core (08). Ring r's words 0 and 1 are at keys 2 r and 2 r + 1. `transit` maps a group in
transit to its old field. `waits` holds the blocked accesses and takes in the order in which they began to wait; the first 128 are the
entries of the tag wait list (R216), the rest wait for one. `moving` holds the accesses of the faces that are bound to the new field of a
group in transit (R210), and `behind` those that are bound and wait for a lower lane of their instruction (R151). -/
structure Scratch where
  data : Memory
  full : Tbl Bool
  pmap : W32
  transit : Tbl (BitVec 4)
  fault : W64
  rings : Tbl W64
  taken : List Taken
  waits : List TagWait
  moving : List SpAccess
  behind : List SpAccess
  deriving DecidableEq, Repr

/-- How far a DMA command has come (R229–R242). -/
inductive DmaStage where
  | queued
  | dispatched
  | waitXlate
  | translated
  | moving
  | recording
  deriving DecidableEq, Repr

/-- A translation that a command holds (R236): page base and log2 size, the leaf, and HI_HOST_WIN as it stood then (R412). -/
structure Held where
  base : Nat
  log2 : Nat
  leaf : W64
  win : W64
  deriving DecidableEq, Repr

/-- How a page of a DMA command fails (R235): not mapped, at the level where V is 0; a protection cause of R325, with the level of the
leaf that maps it where one does; or a poisoned table line. -/
inductive PageFail where
  | unmapped (level : Nat)
  | prot (cause : Nat) (level : Option Nat)
  | poison
  deriving DecidableEq, Repr

/-- A DMA command (R230–R242): its captured descriptor, sequence number, issuing PC, bound map, stage, engine, the
stream bytes requested and the stream bytes written, bytes read and not yet written (keyed by stream offset), the
transactions in flight as (id, stream offset, length, write), the translations held, the pages that failed in the present
translation, ring positions taken on each side,
slots in hand, whether it waits on a tag or ring, whether a host write still needs its zero-length read, what sides it
reached, the page whose fault it waits on, and its place in issue order (R253). `skip` counts the half bytes of the stream that are
written though their destination unit is not whole (R249), `asked` says that a window request has been issued, and `tries` counts how
often its translations were given up. -/
structure DmaCmd where
  ord : Nat
  words : List W64
  seq : Nat
  pc : W64
  map : W32
  stage : DmaStage
  engine : Nat
  rd : Nat
  wr : Nat
  buf : Bytes
  reqs : List (Nat × Nat × Nat × Bool)
  held : List Held
  failed : List (Nat × PageFail)
  slots : List (Nat × Nat × Bool)
  tookSrc : Nat
  tookDst : Nat
  waitTag : Bool
  waitMap : Bool
  partRd : List Nat
  partWr : List Nat
  skip : Nat
  asked : Bool
  tries : Nat
  hostLast : Option W64
  remote : Bool
  host : Bool
  doomed : Nat
  page : Nat
  deriving DecidableEq, Repr

/-- The DMA queue of a core and its registers (R245). -/
structure DmaQueue where
  queue : List DmaCmd
  issued : Nat
  done : Nat
  finished : List Nat
  fault0 : W64
  fault1 : W64
  deriving DecidableEq, Repr

/-- State of a cache line (R282, R283). -/
inductive LineState where
  | i
  | s
  | e
  | m
  | w
  | rem
  deriving DecidableEq, Repr

/-- A sector held in a cache (R276): 64 bytes, dirty, poison, and the byte-dirty mask of a REM sector. -/
structure Sector where
  data : W512
  dirty : Bool
  poison : Bool
  mask : W64
  deriving DecidableEq, Repr

/-- A cache line: physical line address PA[63:8], state, valid sectors by number, and for an L2 the L1 sharers. -/
structure CLine where
  line : Nat
  st : LineState
  sec : Tbl Sector
  shar : BitVec 8
  deriving DecidableEq, Repr

/-- A cache (R276, R278, R298): line of way w of set x at key x × ways + w, pseudo-LRU bits per set, ways out of
service, ways leaving service with the count and the window of R300, and corrected errors per way in the present window. -/
structure Cache where
  lines : Tbl CLine
  plru : Tbl Nat
  out : List Nat
  leaving : Tbl (Nat × Nat)
  errs : Tbl Nat
  deriving DecidableEq, Repr

/-- A TLB entry (R315, R316): context, first page number and log2 of the 4 KiB pages it covers, log2 of the page size,
and the leaf of its first page. -/
structure TlbEnt where
  ctx : Nat
  vpn : Nat
  log2 : Nat
  page : Nat
  leaf : W64
  deriving DecidableEq, Repr

/-- A TLB: entries by position, pseudo-LRU bits per set. -/
structure Tlb where
  ents : Tbl TlbEnt
  plru : Tbl Nat
  deriving DecidableEq, Repr

/-- A host store that is not performed yet (R251): its requester, address of its instruction, virtual address and size, bus address,
number, and place in issue order (R253). -/
structure HostStore where
  req : Req
  pc : W64
  va : W64
  size : Nat
  addr : W64
  id : Nat
  ord : Nat
  deriving DecidableEq, Repr

/-- Who waits for a transaction entry (R130): a face or channel, a DMA command, a write-back of the core's L1, or the zero-length read
behind a face's host stores (R251). -/
inductive EntryWho where
  | req (r : Req)
  | dma (seq : Nat)
  | wb (id : Nat)
  | fence (face : Nat)
  deriving DecidableEq, Repr

/-- A write-back to another module that waits for an entry (R130, R258): its number, physical line address, sectors, bytes,
poison, and the context whose write it is. -/
structure WaitWb where
  id : Nat
  pa : W64
  mask : Nat
  bytes : Bytes
  poison : Nat
  ctx : Nat
  deriving DecidableEq, Repr

/-- A core (R134) with its transaction entries' waiters in the order in which they began to wait (R130), the place in issue order from
which each release of CORE scope counts (R155), the caravans in order of least recent issue (R116), and what the scheduler keeps for
it: the context on it and its index, whether its faces are stopped and its pre-emption steps are complete, its progress through a
kernel end (1 at END, 2 complete or no kernel yet, 3 the context is not loaded yet) and its residency tag (R396). -/
structure Core where
  sregs : Tbl W64
  pc : W64
  flags : W32
  wait : Wait
  sPend : List Nat
  cvs : Tbl Caravan
  fault : CoreFault
  bars : Tbl Barrier
  mx : Matrix
  ve : VecEng
  sp : Scratch
  dma : DmaQueue
  l1 : Cache
  tlb : Tlb
  acc : List Access
  hostSt : List HostStore
  entryQ : List EntryWho
  wbs : List WaitWb
  rels : List (Req × Nat)
  order : List Nat
  root : W64
  tctx : W32
  privOff : W64
  pcause : W32
  ctx : Option (Nat × Nat)
  stopped : Bool
  quiet : Bool
  kend : Nat
  resid : Option (Nat × Nat)
  deriving DecidableEq, Repr

/-- What the governor keeps for a core (R515, R516), and whether anything issued since the last beacon (R500). -/
structure Budget where
  mx : Nat
  ve : Nat
  carry : Nat
  spent : Bool
  progress : Bool
  deriving DecidableEq, Repr

end Sys2Proof.Machine
end

