-- ==== Sys2Proof/Machine/MemState.lean ====
section
/-!
DEFINITION. The memory system beyond the cores: clusters with their L2, TLB, walker and DMA engines (09, 11, 12), the
home directories and the messages in flight (11), HBM (R302), and the die-to-die links (01).
-/
namespace Sys2Proof.Machine

/-- The requests of R286, with the hub die's and the engines' DMA_RD and DMA_WR. -/
inductive ReqKind where
  | rdS
  | rdX
  | upg
  | sf
  | wt
  | ucRd
  | ucWr
  | amo (k : AmoKind)
  | dmaRd
  | dmaWr
  deriving DecidableEq, Repr

/-- A message of R286 in flight: kind, the agent at the cluster's or hub's end, line OFFSET[38:8], sector mask, bytes
(offset in the line, byte), poisoned sectors, transaction number, operand size, operand and compare value. -/
inductive MsgKind where
  | req (k : ReqKind)
  | wb
  | evc
  | dataS
  | dataE
  | dataX
  | gnt
  | dataU
  | ack
  | inv
  | fwdS
  | fwdX
  | fwdR
  | invAck
  | fwdData
  | nohold
  deriving DecidableEq, Repr

structure Msg where
  kind : MsgKind
  who : Agent
  line : Nat
  mask : Nat
  bytes : Bytes
  poison : Nat
  id : Nat
  size : Nat
  val : W64
  cmp : W64
  deriving DecidableEq, Repr

/-- A directory entry (R284): X or S, and the sharers. Its BUSY bit is 1 while `Home.active` names the line. -/
structure DirEnt where
  line : Nat
  x : Bool
  shar : W32
  deriving DecidableEq, Repr

/-- A transaction being served at a home (R287): its request, the clusters whose answers are awaited, and for the eviction of a
victim the line whose request waits for the entry (R292). -/
structure HomeTxn where
  msg : Msg
  await : List Nat
  evict : Option Nat
  deriving DecidableEq, Repr

/-- A home directory (R276, R284–R292). Entry of way w of set x is at key 16 x + w. -/
structure Home where
  dir : Tbl DirEnt
  plru : Tbl Nat
  out : List Nat
  leaving : Tbl (Nat × Nat)
  errs : Tbl Nat
  queue : List Msg
  active : List HomeTxn
  late : List (Nat × Nat)
  deriving DecidableEq, Repr

/-- Who waits for a walk (R317): a face or channel of a core, or a DMA command of a core. -/
inductive Walker where
  | face (k : Nat) (r : Req)
  | dma (k : Nat) (seq : Nat)
  deriving DecidableEq, Repr

/-- A walk in flight: context, 4 KiB page number, and per requester what it needs (bit 2 read, bit 1 write, bit 0 fetch)
and the address it accesses. -/
structure Walk where
  ctx : Nat
  vpn : Nat
  who : List (Walker × Nat × W64)
  deriving DecidableEq, Repr

/-- A walk-cache entry (R314): context, level of the table it leads to, index prefix, entry. -/
structure WalkEnt where
  ctx : Nat
  level : Nat
  pre : Nat
  ent : W64
  deriving DecidableEq, Repr

/-- A cluster: L2, requests of the L2 in flight as (line, request kind, mask), those of them whose data are stale before they come
(R157, R258), L2 TLB, walk cache and walks, the TLBs of
its two engines, the core whose queue was served last (R229), and the last four contexts that ran on it (R396). -/
structure Cluster where
  l2 : Cache
  open_ : List (Nat × ReqKind × Nat)
  stale : List Nat
  tlb : Tlb
  wcache : Tbl WalkEnt
  wplru : Nat
  walks : List Walk
  dtlb : Tbl Tlb
  served : Nat
  recent : List Nat
  deriving DecidableEq, Repr

/-- The state of a CD–CD link (R14). -/
inductive LinkState where
  | inUse
  | replaying
  | lost
  deriving DecidableEq, Repr

/-- A fault record (R319, R320): id, context, VA[63:12], first VA, level, access bits, joins, engines, cores, stamp, and who has joined
with the address of each. -/
structure FaultRec where
  id : Nat
  ctx : Nat
  vpn : Nat
  va : W64
  level : Nat
  access : Nat
  joins : Nat
  engines : W64
  cores : BitVec 256
  stamp : W64
  who : List (Walker × W64)
  deriving DecidableEq, Repr

/-- What waits for an answer from outside the module: a fabric transaction or a host read. `cq` is the read of word 0 of an entry of a
context's completion ring, by which the device learns that it is free (R414). -/
inductive Owner where
  | access (k : Nat) (id : Nat)
  | dma (k : Nat) (seq : Nat) (id : Nat)
  | fence (k face id : Nat)
  | dmaFence (k : Nat) (seq : Nat)
  | wb (k : Nat)
  | fill (c : Nat) (key : Nat)
  | cq (n i : Nat)
  deriving DecidableEq, Repr

/-- An open fabric transaction (R352): its packet, its owner, the context that issued it, beacons passed, and whether it
has been sent again. -/
structure FabTxn where
  id : Nat
  pkt : Packet
  owner : Owner
  ctx : Nat
  age : Nat
  retry : Bool
  deriving DecidableEq, Repr

/-- An open read of host memory (R251, R269): tag, bus address, length (0 for the fence read), owner, and the function whose
Requester ID it carries (R420). -/
structure HostRead where
  tag : Nat
  addr : W64
  len : Nat
  owner : Owner
  fn : Nat
  deriving DecidableEq, Repr

/-- HBM and everything between the cores and it. `hbm` is keyed by OFFSET[38:0]. `badUnits` lists the 1 GiB units whose sectors are
poisoned as a whole (R465), and `poison`, by OFFSET[38:6], the sectors whose poison differs from their unit's. `hbmErrs` counts
corrected errors per 4 KiB frame. -/
structure Mem where
  hbm : Memory
  poison : List Nat
  badUnits : List Nat
  clusters : Tbl Cluster
  homes : Tbl Home
  msgs : List Msg
  hbmErrs : Tbl Nat
  recs : List FaultRec
  nextRec : Nat
  noRec : List (Nat × Nat × Walker)
  fab : List FabTxn
  hostRd : List HostRead
  nextId : Nat
  cdcd : Tbl LinkState
  ucieOut : List (Nat × Nat)
  domains : Tbl W32
  recovering : List Nat
  deriving DecidableEq, Repr

end Sys2Proof.Machine
end

