-- ==== Sys2Proof/Machine/FabricState.lean ====
section
/-!
DEFINITION. The state of the Xaler fabric (13), of the beacon unit and of the stamp unit (14).
-/
namespace Sys2Proof.Machine

/-- R333. -/
inductive PortState where
  | disabled
  | down
  | train
  | hello
  | secure
  | range
  | activeM
  | active
  | retrain
  | width
  deriving DecidableEq, Repr

/-- A flit held for replay (R331): its number, its packet space, whether the packet that ends in it is aborted (R336), and the hello frame
that it carries (R333). -/
structure HeldFlit where
  seq : Nat
  units : List W64
  abt : Bool
  hello : Option Hello
  deriving DecidableEq, Repr

/-- A packet that an output has begun before all of it has arrived (R342): its input, the units still to come, and the units of the
output that go before it. -/
structure Feed where
  input : Nat
  owed : Nat
  start : Nat
  deriving DecidableEq, Repr

/-- A flit as a port sends it (R328): control word, packet space or hello frame, slot and key epoch (none: not encrypted). -/
structure FlitOut where
  ctrl : W64
  units : List W64
  hello : Option Hello
  slot : Nat
  epoch : Option Nat
  deriving DecidableEq, Repr

/-- The link layer of a port (R329–R332, R336, R340, R357): next and acknowledged transmit numbers, flits held for replay, next
expected number, whether NAK is set, consecutive bad replays, tag failures in this period, receive buffers per VC, units of a packet
being received, credits held per VC, credits to return per VC, symbols to send, units that wait for the next flit, a packet among them
that is still arriving, the place of an aborted one, the place in `replay` of the next flit to send again, and the edges that a VC has
seen without the credits of a waiting packet (R348); the slots since SECURE, the slot at which the epoch sent began, the epochs, and
the keys; and what SECURE exchanges (R456): the units still to send, those received, the ciphertext sent with its secret, and whether
the transcript check has been sent. -/
structure LinkLayer where
  txSeq : BitVec 12
  replay : List HeldFlit
  rxSeq : BitVec 12
  nak : Bool
  badRun : Nat
  tagFails : Nat
  asm : List W64
  credits : Tbl Nat
  returns : Tbl Nat
  symbols : List (BitVec 3 × BitVec 11)
  txUnits : List W64
  feed : Option Feed
  abort : Option (Nat × Nat)
  resend : Option Nat
  dry : Tbl Nat
  slots : Nat
  epochAt : Nat
  epochTx : Nat
  epochRx : Nat
  prk : BitVec 256
  keyed : Bool
  text : List W64
  heard : List W64
  secret : Option (BitVec 8704 × BitVec 256)
  proved : Bool
  deriving DecidableEq, Repr

/-- A port (R333–R335, R340, R341, R350, R363): state and the state before WIDTH, width, groups, retrains, peer fields,
control word, retry timer, hello run, VC allocation pending and in force, link layer, packets received, the output that takes the packet
now arriving (with its virtual channel and the units still to come), the flit sent last, the virtual channel served last of each class,
the flits that each best-effort packet of an input and virtual channel (8 × input + VC) has waited, hop delay and its samples, candidate frame,
and its error counters (R504). -/
structure Port where
  st : PortState
  back : PortState
  width : BitVec 2
  groups : BitVec 4
  retrains : Nat
  peerPort : Nat
  peerValid : Bool
  peerNode : BitVec 20
  peerDigest : Option (BitVec 256)
  ctrl : W32
  mayTry : Bool
  helloLast : Option Hello
  helloRun : Nat
  alloc : List Nat
  allocNew : List Nat
  link : LinkLayer
  rx : List Packet
  cut : Option (Nat × Nat × Nat)
  tx : Option FlitOut
  lastVc : Tbl Nat
  beWait : Tbl (List Nat)
  hop : Nat
  samples : List Nat
  probeAt : Option (BitVec 7)
  cand : Option (W64 × W64 × W64 × W64)
  errs : List Nat
  deriving DecidableEq, Repr

/-- An event that the switch keeps or sends (R351). -/
structure EventRec where
  w0 : W64
  w1 : W64
  w2 : W64
  w3 : W64
  deriving DecidableEq, Repr

/-- Route commit (R347). -/
structure Commit where
  target : BitVec 40
  status : Byte
  deriving DecidableEq, Repr

/-- The switch and the fabric endpoint (R343–R355). Route entries by number; fallback of input p at key p and of the
endpoint at key 32; export entry e of partition q at key 64 q + e, in force and pending. -/
structure Fabric where
  ports : Tbl Port
  node : BitVec 20
  nodeNew : Option (BitVec 20)
  fmNode : BitVec 20
  timeout : Nat
  fallback : Tbl Byte
  shadow : Tbl W64
  routes : Tbl W64
  commit : Commit
  expo : Tbl W128
  expoNew : Tbl W128
  kept : List EventRec
  dropped : Nat
  losses : List (List Byte)
  lossTotal : Nat
  epIn : List (Packet × Option Nat)
  epOut : List Packet
  held : List Packet
  atHome : List (Nat × Packet × Option Nat)
  events : List EventRec
  deriving DecidableEq, Repr

/-- R375. -/
inductive BcnState where
  | keeper
  | locked
  | acquire
  | holdover
  deriving DecidableEq, Repr

/-- The beacon unit and the stamp unit (14): number, state, upstream, depth, offset, priority, the keeper followed, the
number to take at the next edge, BNUM of the upstream's symbol in ACQUIRE since the last edge, whether a change of keeper, another
upstream and the upstream's number are wanted, period object and period in force, cutoff, hold window, misses in a row, edges off and
good edges in a row, periods spent in HOLDOVER, the five counters of 0x4500:07, and the register s of R374. -/
structure Beacon where
  num : BitVec 40
  st : BcnState
  up : Option Nat
  depth : Nat
  offset : Nat
  prio : Byte
  prioNew : Option Byte
  keyPrio : Byte
  keyDigest : BitVec 56
  take : Option (BitVec 40)
  sym : Option (BitVec 11)
  changeKeeper : Bool
  lost : Bool
  wantNum : Bool
  target : BitVec 40
  periodObj : Nat
  pend : Bool
  pendTarget : BitVec 40
  pendPeriod : Nat
  pstatus : Byte
  period : Nat
  cutoff : Nat
  cutoffNew : Option Nat
  holding : Bool
  misses : Nat
  offEdges : Nat
  goodEdges : Nat
  holdPeriods : Nat
  deriving DecidableEq, Repr

/-- Counters of 0x4500:07 and the stamp register (R374, R375). -/
structure Stamps where
  missed : Nat
  numErrs : Nat
  lateWrites : Nat
  upChanges : Nat
  keeperChanges : Nat
  s : W64
  deriving DecidableEq, Repr

end Sys2Proof.Machine
end

