-- ==== Sys2Proof/Machine/HostState.lean ====
section
/-!
DEFINITION. The state of partitions and contexts (15), of the host interface (16), of the dictionary (17) and of the
security engine (18).
-/
namespace Sys2Proof.Machine

/-- R382. -/
inductive PartState where
  | none
  | creating
  | active
  | destroying
  deriving DecidableEq, Repr

/-- A partition (R378, R382) with its export and slice changes pending and the stamp of its creation (R460). -/
structure Partition where
  st : PartState
  clusters : W32
  hbmMap : W512
  slice : Nat
  sliceNew : Option Nat
  vcFirst : Nat
  vcLast : Nat
  keySlot : Nat
  stamp : W64
  deriving DecidableEq, Repr

/-- R387. -/
inductive CtxState where
  | free
  | idle
  | waiting
  | restoring
  | running
  | holding
  | saving
  | stopped
  | teardown
  | dead
  deriving DecidableEq, Repr

/-- A context (R385–R388): its status fields, descriptor words, cores, what follows its save (`toStop`), the functions and the tags of
the CTX_DESTROYs that wait for its teardown, its rings (R411, R415–R419), the kernel that runs (word 0 of its entry). `sqTail` is the
doorbell's value, `sqHead` the next entry, `consumed` the entries taken, and `cqKnown` how many entries from `cqTail` on the device has
read as free where the completion ring does not lie in this module's HBM (R414, R417). `next` is a placement it has been given and
whose cores it waits for (R390); `resumed` says that a debugger has resumed it since its save (R503); `savedOn` the cores its save
areas were written from; `kept` holds, per core index, what a stopped core carries beside the bytes of its save area: the program
counters of queued commands and the like (log 18). -/
structure Ctx where
  st : CtxState
  desc : List W64
  fn : Byte
  cause : Nat
  cores : List Nat
  used : Nat
  fresh : Bool
  lastRun : BitVec 40
  toStop : Bool
  expired : Bool
  destroyReq : List (Nat × W32)
  sqTail : Nat
  sqHead : Nat
  cqTail : Nat
  cqKnown : Nat
  kernel : Option W64
  sinceIrq : Nat
  timer : Bool
  idlePeriods : Nat
  consumed : Nat
  next : Option (List Nat)
  resumed : Bool
  savedOn : List Nat
  kept : Tbl Core
  deriving DecidableEq, Repr

/-- One of the five rings of a function (R412): base, control, head, tail, and entries held for room. -/
structure Ring where
  base : W64
  ctrl : W64
  head : Nat
  tail : Nat
  held : List (List W64)
  deriving DecidableEq, Repr

/-- The drain of an invalidation (R323): the tag of its command, and what still uses a dropped translation: accesses and DMA commands
by core, number and how often they had begun to translate, write-backs by transaction, or by core and number while they wait for an
entry, host stores by core and number. -/
structure Drain where
  tag : W32
  accs : List (Nat × Nat)
  cmds : List (Nat × Nat × Nat)
  wbs : List Nat
  late : List (Nat × Nat)
  hosts : List (Nat × Nat)
  deriving DecidableEq, Repr

/-- An entry of a function's MSI-X table (R410, R419): message address and data, and the vector's mask. -/
structure MsixVec where
  addr : W64
  data : W32
  mask : Bool
  deriving DecidableEq, Repr

/-- A function (R408, R412): host window, dropped doorbells, rings admin submission and completion, translation
submission and completion, fault, the invalidation being drained, and its MSI-X capability with enable and function mask, table and
pending bits (R410, R419). -/
structure HostFn where
  win : W64
  dropped : Nat
  adminSq : Ring
  adminCq : Ring
  xlatSq : Ring
  xlatCq : Ring
  faultRing : Ring
  drain : Option Drain
  msixEn : Bool
  msixMask : Bool
  vecs : Tbl MsixVec
  pba : List Nat
  deriving DecidableEq, Repr

/-- An IDE stream (R409): secure, the ranges its address associations cover, and its keys (R450), by sub-stream, direction and key set
(4 × sub-stream + 2 × direction + set). -/
structure IdeStream where
  secure : Bool
  assoc : List (W64 × W64)
  keys : Tbl (BitVec 256)
  deriving DecidableEq, Repr

/-- What the device posts to the host, with the function whose Requester ID it carries (R414, R419, R420): a write, an MSI-X message
with what its table entry holds, or Device Readiness Status (R407). -/
inductive HostOut where
  | write (fn : Nat) (addr : W64) (bytes : List Byte)
  | msix (fn vec : Nat) (addr : W64) (data : W32)
  | ready
  deriving DecidableEq, Repr

/-- The host interface: link (R407), VF Enable, functions, IDE, the answers that the DOE mailbox has given (R458), and what has gone to
the host, oldest first: PCIe keeps posted requests in that order (R414). -/
structure HostIf where
  perst : Bool
  speed : BitVec 4
  width : BitVec 5
  flit : Bool
  refForce : Bool
  refSel : Byte
  retrains : Nat
  ready : Bool
  vfEnable : Bool
  fns : Tbl HostFn
  ide : Tbl IdeStream
  ideReq : Byte
  doe : List (List Byte)
  posted : List HostOut
  deriving DecidableEq, Repr

/-- The writes that have gone to the host: address and bytes. -/
def HostIf.writes (h : HostIf) : List (W64 × List Byte) :=
  h.posted.filterMap (fun o => match o with | .write _ a b => some (a, b) | _ => none)

/-- The MSI-X messages that have gone to the host: function and vector. -/
def HostIf.msix (h : HostIf) : List (Nat × Nat) :=
  h.posted.filterMap (fun o => match o with | .msix f v _ _ => some (f, v) | _ => none)

/-- A Kedal request in the queue (R430): path, where its response goes, frame bytes, the source that its response is kept for (R433), and
whether the response is discarded because a PF FLR has cleared its window slot (R437). -/
structure KReq where
  path : KPath
  src : W64
  frame : List Byte
  sender : W64
  dropped : Bool
  deriving DecidableEq, Repr

/-- A slot of the PCIe window (R437): request and response frames, and control word. -/
structure KSlot where
  req : List Byte
  rsp : List Byte
  ctrl : W32
  deriving DecidableEq, Repr

/-- The dictionary (17): request queue, responses sent (path, destination, bytes; on the field network from the EtherType on), kept
responses (source, request, response, beacon), window slots, change count per object (index × 256 + sub), the value of each as the last
READ or write left it, error counts per path, the field network's objects, whether module flash fails to store, and whether start-up
step 6 has made the dictionary reachable. -/
structure Kedal where
  queue : List KReq
  sent : List (KPath × W64 × List Byte)
  kept : List (W64 × List Byte × List Byte × BitVec 40)
  slots : Tbl KSlot
  changes : Tbl Nat
  stats : Tbl Nat
  seen : Tbl (List Byte)
  field : Tbl Nat
  flashBad : Bool
  up : Bool
  deriving DecidableEq, Repr

/-- An image bank (R445, R446, R461). -/
structure Bank where
  image : Memory
  valid : Bool
  pending : Bool
  version : W32
  svn : W32
  d0 : BitVec 256
  d1 : BitVec 256
  d2 : BitVec 256
  deriving DecidableEq, Repr

/-- A key slot (R450, R451): key (64 bytes for memory keys, 32 for dictionary keys) and last accepted counter; BOUND is read from the partitions. -/
structure KeySlot where
  inUse : Bool
  principal : BitVec 2
  key : W512
  counter : W64
  deriving DecidableEq, Repr

/-- R461. -/
inductive FwState where
  | idle
  | receiving
  | verifying
  | pending
  | failed
  deriving DecidableEq, Repr

/-- A quote in progress (R459). -/
structure Quote where
  who : Principal
  kind : Byte
  part : Nat
  nonce : BitVec 256
  deriving DecidableEq, Repr

/-- The security engine and module flash (18). Banks A and B at keys 0 and 1; `results` by principal: 0 FM, 1 HA,
256 + VF for a tenant. `seeds` counts how often the DRBG has been seeded, and `drawn` its draws since (R450); `blockWrites` is the write
counter of the replay-protected block (R449). -/
structure Security where
  banks : Tbl Bank
  running : Nat
  minSvn : W32
  digest : BitVec 256
  slots : Tbl KeySlot
  stage : Tbl (List Byte)
  keyStatus : Byte
  verified : List (BitVec 256)
  quotes : List Quote
  quoteBusy : Option (Principal × List Byte)
  results : Tbl (List Byte)
  fw : FwState
  fwLen : Nat
  fwDigest : BitVec 256
  received : Nat
  session : Bool
  seeds : Nat
  drawn : Nat
  blockWrites : Nat
  deriving DecidableEq, Repr

end Sys2Proof.Machine
end

