-- ==== Sys2Proof/Machine/OpsState.lean ====
section
/-!
DEFINITION. The state of reliability (19), of counters, trace and debug (20), of power and start-up (21) and of the
Thehus library (22).
-/
namespace Sys2Proof.Machine

/-- R472. -/
inductive UnitState where
  | inService
  | recovering
  | outOfService
  | testing
  deriving DecidableEq, Repr

/-- A running recovery (R464, R467): `detect` and `since` are the stamp and the module's time in µs at its detection, `was` the state of
the unit before it. -/
structure Recov where
  dom : Domain
  unit : Nat
  cause : Nat
  chain : Nat
  level : Nat
  detect : W64
  since : Nat
  was : UnitState
  deriving DecidableEq, Repr

/-- A fault record of 0x6100:00 (R471). -/
structure RelRec where
  dom : Domain
  unit : Nat
  cause : Nat
  action : Nat
  level : Nat
  chain : Nat
  detect : W64
  fin : W64
  us : W32
  deriving DecidableEq, Repr

/-- The reliability event of a home timeout (R294): line OFFSET[38:8], home and cluster. -/
structure HomeTimeout where
  line : Nat
  home : Nat
  cluster : Nat
  deriving DecidableEq, Repr

/-- R476. -/
inductive ModState where
  | starting
  | operational
  | moduleRecovery
  | halted
  deriving DecidableEq, Repr

/-- A self-test request or running test (R478, R479); `op` is the code of OP, `was` the state of its unit before it. -/
structure Test where
  op : Nat
  cmd : TestCmd
  was : UnitState
  deriving DecidableEq, Repr

/-- A way record (R300). -/
structure WayRec where
  str : Nat
  unit : Nat
  way : Nat
  action : Nat
  count : Nat
  window : Nat
  stamp : W64
  deriving DecidableEq, Repr

/-- A self-test result (R481). -/
structure TestRes where
  tag : W32
  op : Nat
  target : Nat
  unit : Nat
  res : Nat
  stamp : W64
  deriving DecidableEq, Repr

/-- A retired frame (R475). -/
structure Retired where
  stack : Nat
  frame : Nat
  unc : Bool
  stamp : W64
  deriving DecidableEq, Repr

/-- Reliability (19). Unit states by byte offset scheme of R472: key 4 B + u; faults per unit in the present window;
fault records with the number ever added; retired frames as (stack, frame, reason, stamp), the records ever added to each page of their
list, and the frames, OFFSET[38:12], that were retired while it was full. -/
structure Rel where
  units : Tbl UnitState
  running : List Recov
  nextChain : Nat
  faults : Tbl Nat
  uncs : Tbl Nat
  records : List RelRec
  recTotal : Nat
  modState : ModState
  starts : Nat
  operUs : Nat
  downUs : Nat
  exclUs : Nat
  modRecs : Nat
  svcFaults : Nat
  retired : List Retired
  overflow : Nat
  lostUnits : List Nat
  lostFrames : List Nat
  retAdded : Tbl Nat
  wayRecs : List WayRec
  wayTotal : Nat
  tests : List Test
  testing : List Test
  testStatus : Byte
  results : List TestRes
  resTotal : Nat
  winStart : BitVec 40
  timeouts : List HomeTimeout
  deriving DecidableEq, Repr

/-- A trace entry or an event on its way to one (R492). -/
structure TraceEnt where
  w0 : W64
  stamp : W64
  a0 : W64
  a1 : W64
  deriving DecidableEq, Repr

/-- What a trace queue holds (R495, R496): an event, or how many were lost at that place; `trig` marks the event that matched the trigger,
or the loss of it. -/
inductive TraceItem where
  | event (e : TraceEnt) (trig : Bool)
  | lost (n : Nat) (trig : Bool)
  deriving DecidableEq, Repr

/-- A trace buffer (R490–R499): objects :01–:08; events on their way to the trace port, without a stamp, and stamped ones at it; drops
since the last entry that the sink wrote, with the stamp of that entry; whether the trigger has matched since EN was set, whether its
index T is still to come, and whether it is the entry of those drops. -/
structure TraceBuf where
  ctrl : W64
  base : W64
  state : Nat
  wrapped : Bool
  next : Nat
  trig : Nat
  kinds : W64
  trigger : W64
  offered : Nat
  written : Nat
  dropped : Nat
  after : Nat
  dieQ : List TraceItem
  port : List TraceItem
  drops : Nat
  lastStamp : W64
  matched : Bool
  trigOpen : Bool
  trigGap : Bool
  drainState : Nat
  drainN : Nat
  drainBus : W64
  drainFirst : Nat
  drainCount : Nat
  deriving DecidableEq, Repr

/-- A counter (R483, R484). -/
structure Counter where
  ctl : W64
  count : W64
  frozen : W64
  deriving DecidableEq, Repr

/-- An edge of the wait-for graph (R502). -/
structure Edge where
  w0 : W64
  w1 : W64
  w2 : W64
  w3 : W64
  deriving DecidableEq, Repr

/-- Counters, freeze, trace, graph and debug (20); `graphAdded` counts the records ever added to each page of the graph (R424), and
`watchAt` is the beacon at which a watchdog last had one assembled (R505). -/
structure Dbg where
  ctrs : Tbl Counter
  freezeTrig : W64
  freezeBcn : BitVec 40
  freezeSt : Nat
  missed : Nat
  result : Byte
  trigHit : List Nat
  bufs : Tbl TraceBuf
  watchLen : Byte
  watchAt : Option (BitVec 40)
  graphSt : Nat
  trunc : Bool
  graphId : Nat
  graphNew : List Edge
  graph : List Edge
  graphAdded : Tbl Nat
  dbgResult : Byte
  deriving DecidableEq, Repr

/-- R512. -/
inductive PowerState where
  | off
  | standby
  | idle
  | active
  deriving DecidableEq, Repr

/-- Power and start-up (21): power state, cap and pending cap, governor's words, measured values, temperatures of
CD0–CD3 and HD, samples of the present period (sum, count, sum of voltages), clocks of the core arrays stopped by R513 and idle dies. -/
structure Power where
  st : PowerState
  input : Bool
  cap : Nat
  capNew : Option Nat
  fPrev : W64
  gatePrev : Tbl Nat
  gate : Nat
  inputW : BitVec 12
  inputDv : BitVec 10
  sampleMw : Nat
  sampleN : Nat
  sampleDv : Nat
  capUnmet : Bool
  fastCut : Bool
  cutNow : Bool
  thermal : Bool
  temps : Tbl Byte
  idleDies : Tbl Nat
  relocking : List Nat
  start : Byte
  tries : Nat
  badBanks : List Nat
  failed : BitVec 4
  failedCh : List Nat
  resetStatus : Byte
  byCommand : Bool
  budgets : Tbl Budget
  deriving DecidableEq, Repr

/-- A member of a device (R524): its module, its context, and its partition. -/
structure Member where
  node : BitVec 20
  ctx : Nat
  part : Nat
  deriving DecidableEq, Repr

/-- A push of a call (R525): source and receiving member, and the range of the receiver's data region assigned to it. -/
structure Push where
  src : Nat
  dst : Nat
  off : Nat
  len : Nat
  deriving DecidableEq, Repr

/-- An open device (R524): its members and their width, the size of their exchange areas and the HBM OFFSET of each (R525), the pushes of its last
EXCHANGE, and its counter EXCH_LATE (R537). -/
structure Device where
  members : List Member
  width : Nat
  exchBytes : Nat
  areas : List Nat
  pushes : List Push
  late : Nat
  deriving DecidableEq, Repr

/-- What a Thehus call returned (R538, R539): status, output tensors, flags. -/
structure CallResult where
  status : Byte
  out : List Tensor
  flags : BitVec 5
  cause : Nat
  deriving DecidableEq, Repr

/-- The Thehus library (22). -/
structure Thehus where
  devs : Tbl Device
  last : CallResult
  deriving DecidableEq, Repr

end Sys2Proof.Machine
end

