-- ==== Sys2Proof/Machine/State.lean ====
section
/-!
DEFINITION. The state of the LZ9-256 block, its reset value, and the reasons a step can stop. State holds everything
that INVENTORY.md lists under '## State', the queue of waiting commands, and the counter that free values are drawn by.
-/
namespace Sys2Proof.Machine

/-- Reasons a step can stop with a fault. The device's own faults (R131) are state changes; none stops the block. -/
inductive Fault where
  /-- Raised by a command of a unit the device does not have (a ring link or a port number beyond R1); safe: the
  step stops. No meaning raises it now, since unit numbers are `Fin`. -/
  | noSuchUnit
  deriving DecidableEq, Repr

/-- Reasons a step can refuse a command. -/
inductive Refusal where
  /-- A command that has no meaning in the model yet, by mnemonic; safe: the step stops. -/
  | notModelled (mnemonic : String)
  deriving DecidableEq, Repr

/-- The LZ9-256 module. `cores` and the tables inside it are sparse: a missing entry is a unit in its reset state. -/
structure State where
  cores : Tbl Core
  mem : Mem
  fab : Fabric
  bcn : Beacon
  stamps : Stamps
  parts : Tbl Partition
  ctxs : Tbl Ctx
  bindings : Tbl Byte
  partStatus : Byte
  host : HostIf
  kedal : Kedal
  sec : Security
  rel : Rel
  dbg : Dbg
  pwr : Power
  lib : Thehus
  freeCtr : Nat
  pending : List Instr
  deriving DecidableEq, Repr

/-- The home, cluster, link-layer and other tables of a module out of reset are empty (every unit in its reset state). -/
def Mem.reset : Mem where
  hbm := []
  poison := []
  badUnits := []
  clusters := []
  homes := []
  msgs := []
  hbmErrs := []
  recs := []
  nextRec := 0
  noRec := []
  fab := []
  hostRd := []
  nextId := 0
  cdcd := []
  ucieOut := []
  domains := []
  recovering := []

/-- R344, R346, R347, R351, R352: unassigned node, default timeout, no commit. -/
def Fabric.reset : Fabric where
  ports := []
  node := 0xFFFFF#20
  nodeNew := none
  fmNode := 0xFFFFF#20
  timeout := 4
  fallback := []
  shadow := []
  routes := []
  commit := ⟨0, 0⟩
  expo := []
  expoNew := []
  kept := []
  dropped := 0
  losses := []
  lossTotal := 0
  epIn := []
  epOut := []
  held := []
  atHome := []
  events := []

/-- R369, R371, R375: beacon 0, keeper, priority 0x80, period 250 µs, cutoff 2,000 ns. -/
def Beacon.reset : Beacon where
  num := 0
  st := .keeper
  up := none
  depth := 0
  offset := 0
  prio := 0x80#8
  prioNew := none
  keyPrio := 0x80#8
  keyDigest := 0
  take := none
  sym := none
  changeKeeper := false
  lost := false
  wantNum := false
  target := 0
  periodObj := 250
  pend := false
  pendTarget := 0
  pendPeriod := 250
  pstatus := 0
  period := 250
  cutoff := 2000
  cutoffNew := none
  holding := false
  misses := 0
  offEdges := 0
  goodEdges := 0
  holdPeriods := 0

/-- R374, R375. -/
def Stamps.reset : Stamps where
  missed := 0
  numErrs := 0
  lateWrites := 0
  upChanges := 0
  keeperChanges := 0
  s := 0

/-- R407, R409, R412: link down, edge clock selected, no function set up. PERST# starts asserted (R520's rule for the
integrator; DESIGN CHOICE, log 4). -/
def HostIf.reset : HostIf where
  perst := true
  speed := 0
  width := 0
  flit := false
  refForce := true
  refSel := 1
  retrains := 0
  ready := false
  vfEnable := false
  fns := []
  ide := []
  ideReq := 0
  doe := []
  posted := []

/-- R430, R433, R436, R437. -/
def Kedal.reset : Kedal where
  queue := []
  sent := []
  kept := []
  slots := []
  changes := []
  stats := []
  seen := []
  field := []
  flashBad := false
  up := false

/-- Bank A as the factory leaves it: a valid image of FW_VERSION 0 and SVN 0 (PRESUMED, log 46). -/
def factoryBank : Bank := ⟨[], true, false, 0, 0, 0, 0, 0⟩

/-- R450, R451, R461: slot 0 reads IN_USE after each start; the other slots hold what the protected store kept. -/
def Security.reset : Security where
  banks := [(0, factoryBank)]
  running := 0
  minSvn := 0
  digest := 0
  slots := []
  stage := []
  keyStatus := 0
  verified := []
  quotes := []
  quoteBusy := none
  results := []
  fw := .idle
  fwLen := 0
  fwDigest := 0
  received := 0
  session := false
  seeds := 0
  drawn := 0
  blockWrites := 0

/-- R471–R481: every unit in service, module STARTING. -/
def Rel.reset : Rel where
  units := []
  running := []
  nextChain := 0
  faults := []
  uncs := []
  records := []
  recTotal := 0
  modState := .starting
  starts := 0
  operUs := 0
  downUs := 0
  exclUs := 0
  modRecs := 0
  svcFaults := 0
  retired := []
  overflow := 0
  lostUnits := []
  lostFrames := []
  retAdded := []
  wayRecs := []
  wayTotal := 0
  tests := []
  testing := []
  testStatus := 0
  results := []
  resTotal := 0
  winStart := 0
  timeouts := []

/-- R483, R488, R490, R500. -/
def Dbg.reset : Dbg where
  ctrs := []
  freezeTrig := 0
  freezeBcn := 0
  freezeSt := 0
  missed := 0
  result := 0
  trigHit := []
  bufs := []
  watchLen := 8
  watchAt := none
  graphSt := 0
  trunc := false
  graphId := 0
  graphNew := []
  graph := []
  graphAdded := []
  dbgResult := 0

/-- R514, R515, R517, R518: cap 1,500 W, f_prev 1, GATE 4,096. The input starts absent (DESIGN CHOICE, log 4). -/
def Power.reset : Power where
  st := .off
  input := false
  cap := 1500
  capNew := none
  fPrev := 0x3FF0000000000000#64
  gatePrev := []
  gate := 4096
  inputW := 0
  inputDv := 0
  sampleMw := 0
  sampleN := 0
  sampleDv := 0
  capUnmet := false
  fastCut := false
  cutNow := false
  thermal := false
  temps := []
  idleDies := []
  relocking := []
  start := 0
  tries := 0
  badBanks := []
  failed := 0
  failedCh := []
  resetStatus := 0
  byCommand := false
  budgets := []

/-- No device is open and no call has returned. -/
def Thehus.reset : Thehus where
  devs := []
  last := ⟨0, [], 0, 0⟩

/-- The module right after reset: every register at the value the spec states, every other one at the value that log
entry 2 names, memory with nothing listed, and no command waiting. -/
def State.reset : State where
  cores := []
  mem := Mem.reset
  fab := Fabric.reset
  bcn := Beacon.reset
  stamps := Stamps.reset
  parts := []
  ctxs := []
  bindings := []
  partStatus := 0
  host := HostIf.reset
  kedal := Kedal.reset
  sec := Security.reset
  rel := Rel.reset
  dbg := Dbg.reset
  pwr := Power.reset
  lib := Thehus.reset
  freeCtr := 0
  pending := []

end Sys2Proof.Machine
end

