-- ==== Sys2Proof/Machine/Table.lean ====
section
/-!
DEFINITION. The accessors of sparse tables and of byte-addressed contents, and the bit-field and byte-order helpers. A
table holds its keys strictly rising. `tset` also drops an entry equal to the default, so that equal contents are equal
data.
-/
namespace Sys2Proof.Machine

/-- The value at key `k`, or `d` where the table has none. -/
def tget {α : Type} (d : α) (t : Tbl α) (k : Nat) : α :=
  match t with
  | [] => d
  | (j, v) :: r => if j = k then v else tget d r k

def tfind {α : Type} (t : Tbl α) (k : Nat) : Option α :=
  match t with
  | [] => none
  | (j, v) :: r => if j = k then some v else tfind r k

/-- Write `v` at key `k`, keeping the keys rising. -/
def tput {α : Type} (t : Tbl α) (k : Nat) (v : α) : Tbl α :=
  match t with
  | [] => [(k, v)]
  | (j, w) :: r => if k < j then (k, v) :: (j, w) :: r else if j = k then (k, v) :: r else (j, w) :: tput r k v

/-- Remove key `k`. -/
def tdel {α : Type} (t : Tbl α) (k : Nat) : Tbl α :=
  match t with
  | [] => []
  | (j, w) :: r => if j = k then tdel r k else (j, w) :: tdel r k

/-- Write `v` at key `k` of a table whose missing entries read `d`. -/
def tset {α : Type} [DecidableEq α] (d : α) (t : Tbl α) (k : Nat) (v : α) : Tbl α :=
  if v = d then tdel t k else tput t k v

/-- Canonical form: keys strictly rising above `lo`, no entry equal to the default. -/
def twfFrom {α : Type} [DecidableEq α] (d : α) : Option Nat → Tbl α → Bool
  | _, [] => true
  | lo, (j, v) :: r => (match lo with | none => true | some l => decide (l < j)) && decide (v ≠ d) && twfFrom d (some j) r

/-- The canonical form of byte contents: addresses strictly rising, no zero byte listed. -/
def Memory.wf (m : Memory) : Bool := twfFrom 0#8 none m

/-- A byte of contents; an unlisted address reads zero. -/
def mget (m : Memory) (a : Nat) : Byte := tget 0#8 m a

def mset (m : Memory) (a : Nat) (b : Byte) : Memory := tset 0#8 m a b

/-- `n` bytes from `a` up, little-endian (R24). -/
def mread (m : Memory) (a n : Nat) : Nat :=
  match n with
  | 0 => 0
  | k + 1 => (mget m a).toNat + 256 * mread m (a + 1) k

/-- Store the low `n` bytes of `v` from `a` up. -/
def mwrite (m : Memory) (a n v : Nat) : Memory :=
  match n with
  | 0 => m
  | k + 1 => mwrite (mset m a (BitVec.ofNat 8 v)) (a + 1) k (v / 256)

def mbytes (m : Memory) (a : Nat) : Nat → List Byte
  | 0 => []
  | k + 1 => mget m a :: mbytes m (a + 1) k

def mwriteBytes (m : Memory) (a : Nat) : List Byte → Memory
  | [] => m
  | b :: r => mwriteBytes (mset m a b) (a + 1) r

/-- Zero every byte of [lo, hi). -/
def mclear (m : Memory) (lo hi : Nat) : Memory := m.filter (fun c => decide (c.1 < lo) || decide (hi ≤ c.1))

/-- Little-endian value of a byte list. -/
def leNat : List Byte → Nat
  | [] => 0
  | b :: r => b.toNat + 256 * leNat r

/-- The low `n` bytes of a value, lowest first. -/
def leBytes : Nat → Nat → List Byte
  | 0, _ => []
  | k + 1, v => BitVec.ofNat 8 v :: leBytes k (v / 256)

/-- Bits [hi:lo] of a word as a number. -/
def fld {w : Nat} (x : BitVec w) (hi lo : Nat) : Nat := x.toNat / 2 ^ lo % 2 ^ (hi + 1 - lo)

def bit {w : Nat} (x : BitVec w) (i : Nat) : Bool := x.getLsbD i

/-- `x` with bits [hi:lo] replaced by `v`. -/
def setFld {w : Nat} (x : BitVec w) (hi lo v : Nat) : BitVec w :=
  let n := 2 ^ (hi + 1 - lo)
  BitVec.ofNat w (x.toNat - x.toNat / 2 ^ lo % n * 2 ^ lo + v % n * 2 ^ lo)

def setBit {w : Nat} (x : BitVec w) (i : Nat) (b : Bool) : BitVec w := setFld x i i (if b then 1 else 0)

/-- A field at `lo`, for building words. -/
def at_ {w : Nat} (lo v : Nat) : BitVec w := BitVec.ofNat w (v * 2 ^ lo)

def b2n (b : Bool) : Nat := if b then 1 else 0

/-- Count that holds at a maximum. -/
def holdInc (max n : Nat) : Nat := if n < max then n + 1 else max

/-- Byte `i` of a wide value. -/
def byteOf {w : Nat} (x : BitVec w) (i : Nat) : Byte := BitVec.ofNat 8 (x.toNat / 256 ^ i)

def setByte {w : Nat} (x : BitVec w) (i : Nat) (b : Byte) : BitVec w := setFld x (8 * i + 7) (8 * i) b.toNat

/-- Replace the first element that meets `p`. -/
def updFirst {α : Type} (p : α → Bool) (f : α → α) : List α → List α
  | [] => []
  | x :: r => if p x then f x :: r else x :: updFirst p f r

/-- Split off the first element that meets `p`. -/
def takeFirst {α : Type} (p : α → Bool) : List α → Option (α × List α)
  | [] => none
  | x :: r => if p x then some (x, r) else (takeFirst p r).map (fun (y, t) => (y, x :: t))

/-- Fold over 0, 1, …, n − 1. -/
def forUp {σ : Type} (n : Nat) (f : Nat → σ → σ) (s : σ) : σ := (List.range n).foldl (fun s i => f i s) s

def ceilDiv (a b : Nat) : Nat := (a + b - 1) / b

/-- Next bits of a tree pseudo-LRU of 2^k ways after a use of `way` (R278): each bit on the path points away from it. -/
def plruTouch : (k node way bits : Nat) → Nat
  | 0, _, _, bits => bits
  | k + 1, node, way, bits =>
    let right := way / 2 ^ k % 2 = 1
    let cleared := if bits / 2 ^ node % 2 = 1 then bits - 2 ^ node else bits
    plruTouch k (2 * node + 1 + b2n right) way (if right then cleared else cleared + 2 ^ node)

/-- The way that a tree pseudo-LRU points to among the eligible ones (R278). -/
def plruVictim : (k node lo bits : Nat) → (Nat → Bool) → Nat
  | 0, _, lo, _, _ => lo
  | k + 1, node, lo, bits, ok =>
    let side := bits / 2 ^ node % 2
    let has (s : Nat) : Bool := (List.range (2 ^ k)).any (fun i => ok (lo + s * 2 ^ k + i))
    let s := if has side then side else 1 - side
    plruVictim k (2 * node + 1 + s) (lo + s * 2 ^ k) bits ok

end Sys2Proof.Machine
end

