-- ==== Sys2Proof/Machine/Access.lean ====
section
/-!
DEFINITION. Reading and writing the parts of State: the reset value of every unit that a table may leave out, the one
reader and writer of each, order stamps (R374), counters (R483) and trace events (R493).
-/
namespace Sys2Proof.Machine

def Caravan.dflt : Caravan := ⟨[], [], [], [], 0, 0, 0, none, none⟩

def Matrix.dflt : Matrix where
  mt := []
  queue := []
  acc := []
  tags := []
  flags := 0
  fault := 0
  arb := 0x100F0000#32
  chain := 0
  mode := .idle
  sections := []
  converged := []
  run := 0
  window := false
  stepIn := 0
  link := []

def VecEng.dflt : VecEng := ⟨[], 0, 0, 0, [], [], []⟩

/-- R209, R227. -/
def Scratch.dflt : Scratch := ⟨[], [], 0x44221133#32, [], 0, [], [], [], [], []⟩

def DmaQueue.dflt : DmaQueue := ⟨[], 0, 0, [], 0, 0⟩

def Cache.dflt : Cache := ⟨[], [], [], [], []⟩

def Core.dflt : Core where
  sregs := []
  pc := 0
  flags := 0
  wait := .none
  sPend := []
  cvs := []
  fault := ⟨0, 0, 0, 0⟩
  bars := []
  mx := Matrix.dflt
  ve := VecEng.dflt
  sp := Scratch.dflt
  dma := DmaQueue.dflt
  l1 := Cache.dflt
  tlb := ⟨[], []⟩
  acc := []
  hostSt := []
  entryQ := []
  wbs := []
  rels := []
  order := []
  root := 0
  tctx := 0
  privOff := 0
  pcause := 0
  ctx := none
  stopped := false
  quiet := false
  kend := 0
  resid := none

/-- Before the first edge a core has the budgets of the reset gate value 4,096 and period 250 µs (R515; log 13). -/
def Budget.dflt : Budget := ⟨275000, 275000, 0, false, false⟩

def Cluster.dflt : Cluster := ⟨Cache.dflt, [], [], ⟨[], []⟩, [], 0, [], [], 0, []⟩

def Home.dflt : Home := ⟨[], [], [], [], [], [], [], []⟩

/-- The first flit that is expected is number 1: ACK_SEQ reads 0 before any (R329; log 34). -/
def LinkLayer.dflt : LinkLayer where
  txSeq := 0
  replay := []
  rxSeq := 1
  nak := false
  badRun := 0
  tagFails := 0
  asm := []
  credits := []
  returns := []
  symbols := []
  txUnits := []
  feed := none
  abort := none
  resend := none
  dry := []
  slots := 0
  epochAt := 0
  epochTx := 0
  epochRx := 0
  prk := 0
  keyed := false
  text := []
  heard := []
  secret := none
  proved := false

/-- R340. -/
def allocDefault : List Nat := [1536, 1536, 7680, 7680, 7680, 7680, 7680, 7680]

/-- R335, R340, R350, R504. -/
def Port.dflt : Port where
  st := .down
  back := .down
  width := 0
  groups := 0
  retrains := 0
  peerPort := 0
  peerValid := false
  peerNode := 0
  peerDigest := none
  ctrl := 0xB0000000#32
  mayTry := true
  helloLast := none
  helloRun := 0
  alloc := allocDefault
  allocNew := allocDefault
  link := LinkLayer.dflt
  rx := []
  cut := none
  tx := none
  lastVc := []
  beWait := []
  hop := 0
  samples := []
  probeAt := none
  cand := none
  errs := [0, 0, 0, 0, 0]

def Partition.dflt : Partition := ⟨.none, 0, 0, 0, none, 0, 0, 0, 0⟩

def Ctx.dflt : Ctx where
  st := .free
  desc := []
  fn := 0
  cause := 0
  cores := []
  used := 0
  fresh := false
  lastRun := 0
  toStop := false
  expired := false
  destroyReq := []
  sqTail := 0
  sqHead := 0
  cqTail := 0
  cqKnown := 0
  kernel := none
  sinceIrq := 0
  timer := false
  idlePeriods := 0
  consumed := 0
  next := none
  resumed := false
  savedOn := []
  kept := []

def Ring.dflt : Ring := ⟨0, 0, 0, 0, []⟩

def HostFn.dflt : HostFn := ⟨0, 0, Ring.dflt, Ring.dflt, Ring.dflt, Ring.dflt, Ring.dflt, none, false, false, [], []⟩

/-- The vectors of a table are masked until software unmasks them (PRESUMED: the PCIe specification's reset value; log 98). -/
def MsixVec.dflt : MsixVec := ⟨0, 0, true⟩

def IdeStream.dflt : IdeStream := ⟨false, [], []⟩

def KSlot.dflt : KSlot := ⟨[], [], 0⟩

def Bank.dflt : Bank := ⟨[], false, false, 0, 0, 0, 0, 0⟩

def KeySlot.dflt : KeySlot := ⟨false, 0, 0, 0⟩

/-- R490: TRC_CTRL, TRC_BASE and TRC_KINDS defaults. -/
def trcBase (b : Nat) : W64 := BitVec.ofNat 64 ((if b = 4 then 0 else 2 * b + 1) * 2 ^ 36 + 63 * 2 ^ 30)

def TraceBuf.dflt (b : Nat) : TraceBuf where
  ctrl := at_ 56 28
  base := trcBase b
  state := 0
  wrapped := false
  next := 0
  trig := 0
  kinds := 0xFFFFFFFFFFFFFFFF#64
  trigger := 0
  offered := 0
  written := 0
  dropped := 0
  after := 0
  dieQ := []
  port := []
  drops := 0
  lastStamp := 0
  matched := false
  trigOpen := false
  trigGap := false
  drainState := 0
  drainN := 0
  drainBus := 0
  drainFirst := 0
  drainCount := 0

/-- R19: RUN 0, LOCK 0, LOL_COUNT 0 and the domain's number. -/
def domainDflt (n : Nat) : W32 := BitVec.ofNat 32 n

namespace State

def core (s : State) (k : Nat) : Core := tget Core.dflt s.cores k
def setCore (s : State) (k : Nat) (c : Core) : State := { s with cores := tput s.cores k c }
def updCore (s : State) (k : Nat) (f : Core → Core) : State := s.setCore k (f (s.core k))

def cluster (s : State) (c : Nat) : Cluster := tget Cluster.dflt s.mem.clusters c
def setCluster (s : State) (c : Nat) (x : Cluster) : State :=
  { s with mem := { s.mem with clusters := tput s.mem.clusters c x } }

def home (s : State) (d : Nat) : Home := tget Home.dflt s.mem.homes d
def setHome (s : State) (d : Nat) (h : Home) : State := { s with mem := { s.mem with homes := tput s.mem.homes d h } }

def port (s : State) (p : Nat) : Port := tget Port.dflt s.fab.ports p
def setPort (s : State) (p : Nat) (x : Port) : State := { s with fab := { s.fab with ports := tput s.fab.ports p x } }

def part (s : State) (q : Nat) : Partition := tget Partition.dflt s.parts q
def setPart (s : State) (q : Nat) (x : Partition) : State := { s with parts := tput s.parts q x }

def ctx (s : State) (n : Nat) : Ctx := tget Ctx.dflt s.ctxs n
def setCtx (s : State) (n : Nat) (x : Ctx) : State := { s with ctxs := tput s.ctxs n x }

def fn (s : State) (f : Nat) : HostFn := tget HostFn.dflt s.host.fns f
def setFn (s : State) (f : Nat) (x : HostFn) : State := { s with host := { s.host with fns := tput s.host.fns f x } }

def buf (s : State) (b : Nat) : TraceBuf := tget (TraceBuf.dflt b) s.dbg.bufs b
def setBuf (s : State) (b : Nat) (x : TraceBuf) : State := { s with dbg := { s.dbg with bufs := tput s.dbg.bufs b x } }

def budget (s : State) (k : Nat) : Budget := tget Budget.dflt s.pwr.budgets k
def setBudget (s : State) (k : Nat) (b : Budget) : State :=
  { s with pwr := { s.pwr with budgets := tput s.pwr.budgets k b } }

/-- The core issues an instruction or one of its engines completes a command (R500). -/
def working (s : State) (k : Nat) : State := s.setBudget k { s.budget k with progress := true }

def keySlot (s : State) (k : Nat) : KeySlot :=
  tget (if k = 0 then { KeySlot.dflt with inUse := true } else KeySlot.dflt) s.sec.slots k
def setKeySlot (s : State) (k : Nat) (x : KeySlot) : State := { s with sec := { s.sec with slots := tput s.sec.slots k x } }

def bank (s : State) (b : Nat) : Bank := tget Bank.dflt s.sec.banks b
def setBank (s : State) (b : Nat) (x : Bank) : State := { s with sec := { s.sec with banks := tput s.sec.banks b x } }

def kslot (s : State) (k : Nat) : KSlot := tget KSlot.dflt s.kedal.slots k
def setKslot (s : State) (k : Nat) (x : KSlot) : State := { s with kedal := { s.kedal with slots := tput s.kedal.slots k x } }

def domain (s : State) (n : Nat) : W32 := tget (domainDflt n) s.mem.domains n
def setDomain (s : State) (n : Nat) (w : W32) : State := { s with mem := { s.mem with domains := tput s.mem.domains n w } }

/-- A value that the spec leaves open, and the counter moved on. -/
def free (s : State) : W64 × State := (Config.freeValue s.freeCtr, { s with freeCtr := s.freeCtr + 1 })

/-- The next number in issue order (R253). -/
def newId (s : State) : Nat × State := (s.mem.nextId, { s with mem := { s.mem with nextId := s.mem.nextId + 1 } })

end State

/-- R362: b is later than a. -/
def bcnLater (a b : BitVec 40) : Bool :=
  let d := (b - a).toNat
  if d = 2 ^ 39 then decide (b.toNat > a.toNat) else decide (0 < d) && decide (d < 2 ^ 39)

/-- A target that has not passed and lies less than 2^38 beacons ahead (R362). -/
def bcnAhead (now t : BitVec 40) : Bool :=
  let d := (t - now).toNat
  decide (0 < d) && decide (d < 2 ^ 38)

def stampBcn (x : W64) : BitVec 40 := BitVec.ofNat 40 (x.toNat / 2 ^ 24)

/-- The later of two stamps in the order of R362. -/
def stampMax (x y : W64) : W64 :=
  if bcnLater (stampBcn x) (stampBcn y) then y
  else if stampBcn x = stampBcn y then (if x.toNat ≤ y.toNat then y else x)
  else x

/-- The stamp that a request receives when the unit holds `s` (R374). -/
def nextStamp (bcn : BitVec 40) (s : W64) : W64 :=
  let next := if s.toNat % 2 ^ 24 = 2 ^ 24 - 1 then s else s + 1
  stampMax next (BitVec.ofNat 64 (bcn.toNat * 2 ^ 24))

namespace State

/-- Fixed counters of a core (R485). -/
def fixedEvent (j : Nat) : Nat :=
  match j with
  | 16 => 0x01
  | 17 => 0x02
  | 18 => 0x04
  | _ => 0x07

/-- CTL out of reset: zero, or the constants of a fixed core counter (R484). -/
def ctrDflt (n : Nat) : Counter :=
  if n < 5120 ∧ 16 ≤ n % 20 then
    ⟨at_ 63 1 ||| at_ 62 1 ||| at_ 48 (fixedEvent (n % 20)) ||| at_ 32 0xFFFF, 0, 0⟩
  else ⟨0, 0, 0⟩

def ctr (s : State) (n : Nat) : Counter := tget (ctrDflt n) s.dbg.ctrs n
def setCtr (s : State) (n : Nat) (c : Counter) : State := { s with dbg := { s.dbg with ctrs := tput s.dbg.ctrs n c } }

/-- Whether a counter counts event `ev` with sub-event mask `um`, for a unit on which context `cx` runs. -/
def ctrCounts (c : Counter) (ev um : Nat) (cx : Option Nat) : Bool :=
  bit c.ctl 63 && fld c.ctl 55 48 == ev && (fld c.ctl 47 32 &&& um) != 0 &&
    (!bit c.ctl 31 || cx == some (fld c.ctl 27 16))

/-- Add `n` to every counter of [lo, hi) that counts the event (R483, R485). -/
def bump (s : State) (lo hi ev um n : Nat) (cx : Option Nat) : State :=
  { s with dbg := { s.dbg with ctrs := s.dbg.ctrs.map (fun e =>
      if lo ≤ e.1 ∧ e.1 < hi ∧ ctrCounts e.2 ev um cx then (e.1, { e.2 with count := e.2.count + BitVec.ofNat 64 n }) else e) } }

def touchCtr (s : State) (n : Nat) : State := if (tfind s.dbg.ctrs n).isSome then s else s.setCtr n (ctrDflt n)

/-- An event of core `k`: its fixed counter and its programmable ones. -/
def bumpCore (s : State) (k ev um n : Nat) : State :=
  let s := if ev = 2 then s.touchCtr (20 * k + 17) else if ev = 4 then s.touchCtr (20 * k + 18)
    else if ev = 7 then s.touchCtr (20 * k + 19) else s
  s.bump (20 * k) (20 * k + 20) ev um n ((s.core k).ctx.map Prod.fst)

def bumpCluster (s : State) (c ev um n : Nat) : State := s.bump (5120 + 16 * c) (5136 + 16 * c) ev um n none

def bumpDie (s : State) (d ev um n : Nat) : State := s.bump (5632 + 64 * d) (5696 + 64 * d) ev um n none

/-- A hub event named by a mask (PCIe direction, buffer). -/
def bumpHub (s : State) (ev um n : Nat) : State := s.bump 5888 6016 ev um n none

/-- A hub event of port `p` (and virtual channel `vc` for event 0x04): UMASK names the port, or bit 15 all. -/
def bumpPort (s : State) (ev p vc n : Nat) : State :=
  { s with dbg := { s.dbg with ctrs := s.dbg.ctrs.map (fun e =>
      let u := fld e.2.ctl 47 32
      if 5888 ≤ e.1 ∧ bit e.2.ctl 63 ∧ fld e.2.ctl 55 48 = ev ∧
          (u / 2 ^ 15 = 1 ∨ (u % 32 = p ∧ (ev ≠ 4 ∨ u / 256 % 8 = vc))) then
        (e.1, { e.2 with count := e.2.count + BitVec.ofNat 64 n }) else e) } }

/-- Take an order stamp (R374); hub event 0x06 counts it. -/
def stamp (s : State) : W64 × State :=
  let v := nextStamp s.bcn.num s.stamps.s
  (v, { s with stamps := { s.stamps with s := v } }.bumpHub 6 0xFFFF 1)

/-- A stamp arrives in a fabric packet (R374). -/
def absorb (s : State) (r : W64) : State := { s with stamps := { s.stamps with s := stampMax s.stamps.s r } }

/-- Word 0 of a trace entry (R492). -/
def traceW0 (kind src unit ctx info : Nat) : W64 :=
  at_ 58 kind ||| at_ 55 src ||| at_ 46 (unit % 512) ||| at_ 34 (ctx % 4096) ||| at_ 0 (info % 2 ^ 32)

/-- R498: whether an event matches a buffer's TRC_TRIGGER. -/
def trigMatch (trig w0 : W64) : Bool :=
  bit trig 63 && fld w0 63 58 == fld trig 62 57 &&
    (!bit trig 56 || fld w0 54 46 == fld trig 55 47) &&
    (!bit trig 46 || fld w0 45 34 == fld trig 45 34) &&
    (!bit trig 33 || fld w0 31 0 == fld trig 31 0)

/-- The trigger's first match since EN was set, tested on every event that reaches the trace port, written or dropped (R498): TRIGGERED
where the buffer records; it serves an armed freeze, and one that meets a held freeze is missed (R487, R505). The flag says whether the
event is that match. -/
def testTrig (s : State) (b : Nat) (w0 : W64) : State × Bool :=
  let t := s.buf b
  if t.matched || !trigMatch t.trigger w0 then (s, false)
  else
    let s := s.setBuf b { t with matched := true, state := if t.state = 1 then 2 else t.state, trigOpen := t.state == 1 }
    let mine := fld s.dbg.freezeTrig 23 20 == 2 && fld s.dbg.freezeTrig 19 17 == b
    (if !mine then s
     else if s.dbg.freezeSt = 2 then { s with dbg := { s.dbg with missed := holdInc 255 s.dbg.missed } }
     else { s with dbg := { s.dbg with trigHit := if s.dbg.trigHit.contains b then s.dbg.trigHit else s.dbg.trigHit ++ [b] } }, true)

/-- Events of a trace queue; losses take no entry in it. -/
def queuedEvents (l : List TraceItem) : Nat := l.countP (fun i => match i with | .event .. => true | _ => false)

/-- A loss behind everything that is queued (R496): the GAP entry that covers it stands at its place. -/
def loseEvent (l : List TraceItem) (trig : Bool) : List TraceItem :=
  match l.getLast? with
  | some (.lost n t) => l.dropLast ++ [.lost (n + 1) (t || trig)]
  | _ => l ++ [.lost 1 trig]

/-- A dropped event is counted (R485, R497). -/
def countDrops (s : State) (b n : Nat) : State :=
  if n = 0 then s
  else (s.setBuf b { s.buf b with dropped := min 0xFFFFFFFF ((s.buf b).dropped + n) }).bumpHub 8 (2 ^ b) n

/-- An event sets out for buffer `b` (R493, R495): dropped and counted when a compute die's queue of 512 is full. The hub die's events wait
for their port alone (log 104). -/
def emit (s : State) (b kind unit ctx info : Nat) (a0 a1 : W64) : State :=
  let t := s.buf b
  if !bit t.ctrl 63 || !(bit t.kinds kind) then s
  else
    let t := { t with offered := holdInc 0xFFFFFFFF t.offered }
    if b ≠ 4 ∧ 512 ≤ queuedEvents t.dieQ then countDrops (s.setBuf b { t with dieQ := loseEvent t.dieQ false }) b 1
    else s.setBuf b { t with dieQ := t.dieQ ++ [.event ⟨traceW0 kind b unit ctx info, 0, a0, a1⟩ false] }

end State

/-- Key of a unit's state in `rel.units` (R472): four times the domain's base plus the unit. -/
def unitKey (d : Domain) (u : Nat) : Nat :=
  match d with
  | .core => u
  | .cluster => 256 + u
  | .die => 288 + u
  | .channel => 320 + u
  | .port => 576 + u
  | .laneGroup => if 0x200 ≤ u then 736 + (u - 0x200) else 608 + u
  | .module => 1000

def unitSt (s : State) (d : Domain) (u : Nat) : UnitState := tget .inService s.rel.units (unitKey d u)

def setUnit (s : State) (d : Domain) (u : Nat) (x : UnitState) : State :=
  { s with rel := { s.rel with units := tset .inService s.rel.units (unitKey d u) x } }

/-- A selective or link IDE stream (R409). -/
def ideStream (s : State) (n : Nat) : IdeStream := tget IdeStream.dflt s.host.ide n

def setIde (s : State) (n : Nat) (x : IdeStream) : State := { s with host := { s.host with ide := tput s.host.ide n x } }

/-- A die that is being recovered or is out of service: its directory and both of its stacks answer nothing (R465; for a die out of
service DEDUCED from R464). -/
def dieDown (s : State) (d : Nat) : Bool := unitSt s .die d == .recovering || unitSt s .die d == .outOfService

/-- Cluster and die of a core (R1: 8 cores per cluster, 8 clusters per die). -/
def clusterOf (k : Nat) : Nat := k / 8
def dieOfCore (k : Nat) : Nat := k / 64
def dieOfCluster (c : Nat) : Nat := c / 8

/-- A target beacon has come: it is the present one, or the number has gone past it (log 41). -/
def bcnReached (now t : BitVec 40) : Bool := !bcnLater now t

/-- An outcome that goes on. -/
abbrev Out := Host.Outcome State Fault Refusal

end Sys2Proof.Machine
end

