-- ==== Sys2Proof/Machine/Crypto.lean ====
section
/-!
DEFINITION. SHA-256 (FIPS 180-4), HMAC (RFC 2104) and HKDF (RFC 5869) with SHA-256, which 18 names for digests, the dictionary
check and key derivation; AES-256 (FIPS 197) and its GCM (SP 800-38D), which R332 and R449 name.
-/
namespace Sys2Proof.Machine

/-- The 64 round constants, in four parts. -/
def shaK0 : List W32 := [
  0x428a2f98#32, 0x71374491#32, 0xb5c0fbcf#32, 0xe9b5dba5#32, 0x3956c25b#32, 0x59f111f1#32, 0x923f82a4#32, 0xab1c5ed5#32,
  0xd807aa98#32, 0x12835b01#32, 0x243185be#32, 0x550c7dc3#32, 0x72be5d74#32, 0x80deb1fe#32, 0x9bdc06a7#32, 0xc19bf174#32]
def shaK1 : List W32 := [
  0xe49b69c1#32, 0xefbe4786#32, 0x0fc19dc6#32, 0x240ca1cc#32, 0x2de92c6f#32, 0x4a7484aa#32, 0x5cb0a9dc#32, 0x76f988da#32,
  0x983e5152#32, 0xa831c66d#32, 0xb00327c8#32, 0xbf597fc7#32, 0xc6e00bf3#32, 0xd5a79147#32, 0x06ca6351#32, 0x14292967#32]
def shaK2 : List W32 := [
  0x27b70a85#32, 0x2e1b2138#32, 0x4d2c6dfc#32, 0x53380d13#32, 0x650a7354#32, 0x766a0abb#32, 0x81c2c92e#32, 0x92722c85#32,
  0xa2bfe8a1#32, 0xa81a664b#32, 0xc24b8b70#32, 0xc76c51a3#32, 0xd192e819#32, 0xd6990624#32, 0xf40e3585#32, 0x106aa070#32]
def shaK3 : List W32 := [
  0x19a4c116#32, 0x1e376c08#32, 0x2748774c#32, 0x34b0bcb5#32, 0x391c0cb3#32, 0x4ed8aa4a#32, 0x5b9cca4f#32, 0x682e6ff3#32,
  0x748f82ee#32, 0x78a5636f#32, 0x84c87814#32, 0x8cc70208#32, 0x90befffa#32, 0xa4506ceb#32, 0xbef9a3f7#32, 0xc67178f2#32]

def shaK : List W32 := shaK0 ++ shaK1 ++ shaK2 ++ shaK3

def shaInit : List W32 := [
  0x6a09e667#32, 0xbb67ae85#32, 0x3c6ef372#32, 0xa54ff53a#32, 0x510e527f#32, 0x9b05688c#32, 0x1f83d9ab#32, 0x5be0cd19#32]

/-- The message schedule: `w` holds the last 16 words, latest first. -/
def shaNext (w : List W32) : W32 :=
  let x := w.getD 1 0
  let y := w.getD 14 0
  (x.rotateRight 17 ^^^ x.rotateRight 19 ^^^ x >>> 10) + w.getD 6 0 + (y.rotateRight 7 ^^^ y.rotateRight 18 ^^^ y >>> 3) + w.getD 15 0

def shaSchedule : Nat → List W32 → List W32
  | 0, w => w
  | n + 1, w => shaSchedule n (shaNext w :: w)

/-- One round of the compression. -/
def shaRound (h : List W32) (k w : W32) : List W32 :=
  match h with
  | [a, b, c, d, e, f, g, x] =>
    let t1 := x + (e.rotateRight 6 ^^^ e.rotateRight 11 ^^^ e.rotateRight 25) + ((e &&& f) ^^^ (~~~e &&& g)) + k + w
    let t2 := (a.rotateRight 2 ^^^ a.rotateRight 13 ^^^ a.rotateRight 22) + ((a &&& b) ^^^ (a &&& c) ^^^ (b &&& c))
    [t1 + t2, a, b, c, d + t1, e, f, g]
  | _ => h

/-- Sixteen big-endian words of a block. -/
def beWords : List Byte → List W32
  | a :: b :: c :: d :: r =>
    BitVec.ofNat 32 (a.toNat * 2 ^ 24 + b.toNat * 2 ^ 16 + c.toNat * 2 ^ 8 + d.toNat) :: beWords r
  | _ => []

def shaBlock (h : List W32) (block : List Byte) : List W32 :=
  let ws := (shaSchedule 48 (beWords block).reverse).reverse
  let r := (List.zip shaK ws).foldl (fun h e => shaRound h e.1 e.2) h
  List.zipWith (· + ·) h r

/-- The big-endian bytes of a value. -/
def beBytes (n v : Nat) : List Byte := (leBytes n v).reverse

def shaBlocks : Nat → List W32 → List Byte → List W32
  | 0, h, _ => h
  | n + 1, h, m => shaBlocks n (shaBlock h (m.take 64)) (m.drop 64)

def sha256 (m : List Byte) : List Byte :=
  let pad := (119 - m.length % 64) % 64
  let p := m ++ [0x80#8] ++ List.replicate pad 0#8 ++ beBytes 8 (8 * m.length)
  (shaBlocks (p.length / 64) shaInit p).flatMap (fun w => beBytes 4 w.toNat)

/-- HMAC-SHA-256. -/
def hmac (key msg : List Byte) : List Byte :=
  let k0 := if 64 < key.length then sha256 key else key
  let k := k0 ++ List.replicate (64 - k0.length) 0#8
  sha256 (k.map (· ^^^ 0x5c#8) ++ sha256 (k.map (· ^^^ 0x36#8) ++ msg))

def hkdfExtract (salt ikm : List Byte) : List Byte := hmac salt ikm

/-- HKDF-Expand of at most `n` blocks of 32 bytes. -/
def hkdfBlocks (prk info : List Byte) : (n i : Nat) → List Byte → List Byte
  | 0, _, _ => []
  | n + 1, i, prev =>
    let t := hmac prk (prev ++ info ++ [BitVec.ofNat 8 i])
    t ++ hkdfBlocks prk info n (i + 1) t

def hkdfExpand (prk info : List Byte) (len : Nat) : List Byte := (hkdfBlocks prk info (ceilDiv len 32) 1 []).take len

/-- The bytes of a digest or key, first byte first. -/
def digBytes (d : BitVec 256) : List Byte := leBytes 32 d.toNat

def digOf (l : List Byte) : BitVec 256 := BitVec.ofNat 256 (leNat (l.take 32))

/-- GF(2^8) of AES. -/
def aesDouble (b : Byte) : Byte := (b <<< 1) ^^^ (if bit b 7 then 0x1B#8 else 0#8)

def aesMul (a b : Byte) : Byte :=
  ((List.range 8).foldl (fun (e : Byte × Byte) i => (if bit b i then e.1 ^^^ e.2 else e.1, aesDouble e.2)) (0#8, a)).1

/-- The inverse, as the power 254, and the affine map. -/
def aesSub (b : Byte) : Byte :=
  let i := ((List.range 7).foldl (fun (e : Byte × Byte) _ => (aesMul e.1 (aesMul e.2 e.2), aesMul e.2 e.2)) (1#8, b)).1
  i ^^^ i.rotateLeft 1 ^^^ i.rotateLeft 2 ^^^ i.rotateLeft 3 ^^^ i.rotateLeft 4 ^^^ 0x63#8

def xorBytes (a b : List Byte) : List Byte := List.zipWith (· ^^^ ·) a b

/-- Words of the key schedule, the latest first: `i` is the number of the next one. -/
def aesExpand : (n i : Nat) → List (List Byte) → List (List Byte)
  | 0, _, ws => ws
  | n + 1, i, ws =>
    let t := ws.headD []
    let t := if i % 8 = 0 then xorBytes ((t.rotateLeft 1).map aesSub) [1#8 <<< (i / 8 - 1), 0#8, 0#8, 0#8]
      else if i % 8 = 4 then t.map aesSub else t
    aesExpand n (i + 1) (xorBytes (ws.getD 7 []) t :: ws)

/-- The 15 round keys of a key of 32 bytes. -/
def aesKeys (key : List Byte) : List (List Byte) :=
  let ws := (aesExpand 52 8 ((List.range 8).map (fun i => (key.drop (4 * i)).take 4)).reverse).reverse
  (List.range 15).map (fun r => ((ws.drop (4 * r)).take 4).flatten)

def aesShift (b : List Byte) : List Byte := (List.range 16).map (fun i => b.getD (i % 4 + 4 * ((i / 4 + i % 4) % 4)) 0)

def aesMix (b : List Byte) : List Byte :=
  (List.range 16).map (fun i =>
    let at_ (j : Nat) : Byte := b.getD (i / 4 * 4 + (i + j) % 4) 0
    aesMul 2 (at_ 0) ^^^ aesMul 3 (at_ 1) ^^^ at_ 2 ^^^ at_ 3)

/-- AES-256 on one block of 16 bytes. -/
def aesBlock (key block : List Byte) : List Byte :=
  let ks := aesKeys key
  let mid := ((ks.drop 1).take 13).foldl (fun b k => xorBytes (aesMix (aesShift (b.map aesSub))) k) (xorBytes block (ks.headD []))
  xorBytes (aesShift (mid.map aesSub)) (ks.getD 14 [])

def beNat (l : List Byte) : Nat := leNat l.reverse

/-- Product in the field of GHASH: bit 127 of a block is the coefficient of 1. -/
def ghashMul (x y : W128) : W128 :=
  ((List.range 128).foldl (fun (e : W128 × W128) i =>
    (if bit x (127 - i) then e.1 ^^^ e.2 else e.1, (e.2 >>> 1) ^^^ (if bit e.2 0 then 0xE1#128 <<< 120 else 0#128))) (0#128, y)).1

/-- Blocks of 16 bytes, the last one padded with zeros. -/
def blocks16 (l : List Byte) : List (List Byte) :=
  (List.range (ceilDiv l.length 16)).map (fun i => ((l.drop (16 * i)).take 16 ++ List.replicate 16 0#8).take 16)

def ghash (h : W128) (l : List Byte) : W128 :=
  (blocks16 l).foldl (fun y b => ghashMul (y ^^^ BitVec.ofNat 128 (beNat b)) h) 0#128

/-- Text under AES-256-GCM with a nonce of 12 bytes: encryption and decryption are one. -/
def gcmText (key nonce text : List Byte) : List Byte :=
  ((blocks16 text).zipIdx.flatMap (fun e => xorBytes e.1 (aesBlock key (nonce ++ beBytes 4 (e.2 + 2))))).take text.length

/-- The 16-byte tag of a ciphertext and its additional data. -/
def gcmTag (key nonce aad cipher : List Byte) : List Byte :=
  let h : W128 := BitVec.ofNat 128 (beNat (aesBlock key (List.replicate 16 0#8)))
  let pad (l : List Byte) : List Byte := l ++ List.replicate ((16 - l.length % 16) % 16) 0#8
  let s := ghash h (pad aad ++ pad cipher ++ beBytes 8 (8 * aad.length) ++ beBytes 8 (8 * cipher.length))
  xorBytes (beBytes 16 s.toNat) (aesBlock key (nonce ++ [0#8, 0#8, 0#8, 1#8]))

end Sys2Proof.Machine
end

