-- ==== Sys2Proof/Machine/Identity.lean ====
section
/-!
DEFINITION. The identity of the module (18 R447–R450, R456): what is derived from the root seed, what publishes it, and what the DRBG
draws.
-/
namespace Sys2Proof.Machine

/-- HKDF of the root seed with an info byte of its own (R447). -/
def rootDerive (i len : Nat) : List Byte := hkdfExpand (hkdfExtract [] (digBytes Config.rootSeed)) [Config.seedInfo i] len

def identSeed : List Byte := rootDerive 0 48
def kemSeed : List Byte := rootDerive 1 64

/-- The storage key, 256 bits (R447). -/
def storageKey : List Byte := rootDerive 2 32

/-- The identity public key, and the identity digest (R448): SHA-256 of it. -/
def identKey : BitVec 256 := Config.slhPublic identSeed
def identDigest : BitVec 256 := digOf (sha256 (digBytes identKey))

/-- "LZ9-256" (R444). -/
def partNumber : List Byte := [0x4C#8, 0x5A#8, 0x39#8, 0x2D#8, 0x32#8, 0x35#8, 0x36#8]

/-- The 96 bytes that the device CA signs (R448), and the certificate, 29,888 bytes. -/
def certSigned (key : BitVec 256) : List Byte := digBytes key ++ leBytes 8 Config.mfgStamp.toNat ++ partNumber ++ List.replicate 49 0#8
def certificate : List Byte := certSigned identKey ++ leBytes 29792 Config.caSig.toNat

/-- The encapsulation key, and the REC of 0x8030:01, 9,040 bytes (R448). -/
def kemBytes : List Byte := leBytes 1184 (Config.kemPublic kemSeed).toNat
def kemRec : List Byte := kemBytes ++ leBytes 7856 (Config.slhSign identSeed kemBytes).toNat

/-- What a module sends of itself in SECURE (R456): certificate, identity public key, and the REC of 0x8030:01: 38,960 bytes. -/
def bundle : List Byte := certificate ++ digBytes identKey ++ kemRec

/-- The DRBG draws 64 bytes (R450). -/
def drawBytes (s : State) : W512 × State :=
  (Config.drbg s.sec.seeds s.sec.drawn, { s with sec := { s.sec with drawn := s.sec.drawn + 1 } })

/-- A write of the replay-protected block (R449) moves its write counter on. -/
def blockWrite (s : State) : State := { s with sec := { s.sec with blockWrites := s.sec.blockWrites + 1 } }

/-- A kept key as the block holds it (R449): AES-256-GCM under the storage key, then the tag. -/
def wrappedKey (s : State) (slot : Nat) : List Byte :=
  let n := Config.wrapNonce slot s.sec.blockWrites
  let c := gcmText storageKey n (leBytes (if slot < 0x40 then 64 else 32) (s.keySlot slot).key.toNat)
  c ++ gcmTag storageKey n [] c

/-- The authentication key of the block's writes (R449). -/
def blockAuthKey : BitVec 256 := Config.blockKey storageKey

end Sys2Proof.Machine
end

