-- ==== Sys2Proof/Machine/Num.lean ====
section
/-!
DEFINITION. Exact values and their rounding (02 R25–R55): the IEEE-type formats, the logarithmic formats, integers, and the
five flags. A value is computed exactly as a dyadic number and narrowed once.
-/
namespace Sys2Proof.Machine

/-- Flags in the places that R127 gives them. -/
abbrev Flags := BitVec 5

def fInvalid : Flags := 0x10#5
def fDivZero : Flags := 0x08#5
def fOverflow : Flags := 0x04#5
def fUnderflow : Flags := 0x02#5
def fInexact : Flags := 0x01#5

def flagIf (b : Bool) (f : Flags) : Flags := if b then f else 0

def orFlags (l : List Flags) : Flags := l.foldl (· ||| ·) 0

/-- A value of any format: NaN (signalling or not), an infinity, or (−1)^neg × a × 2^e. -/
inductive Num where
  | nan (sig : Bool)
  | inf (neg : Bool)
  | fin (neg : Bool) (a : Nat) (e : Int)
  deriving DecidableEq, Repr

/-- m × 2^e. -/
structure Dy where
  m : Int
  e : Int
  deriving DecidableEq, Repr

def shl (n : Nat) (k : Int) : Nat := n * 2 ^ k.toNat

def signed (neg : Bool) (a : Nat) : Int := if neg then -(a : Int) else a

def Dy.add (x y : Dy) : Dy :=
  if x.e ≤ y.e then ⟨x.m + y.m * (2 ^ (y.e - x.e).toNat : Nat), x.e⟩
  else ⟨x.m * (2 ^ (x.e - y.e).toNat : Nat) + y.m, y.e⟩

def Dy.neg (x : Dy) : Dy := ⟨-x.m, x.e⟩

def Dy.mul (x y : Dy) : Dy := ⟨x.m * y.m, x.e + y.e⟩

def Dy.scale (x : Dy) (k : Int) : Dy := ⟨x.m, x.e + k⟩

/-- x < y, exactly. -/
def Dy.lt (x y : Dy) : Bool := decide ((x.add y.neg).m < 0)

def Dy.eq (x y : Dy) : Bool := (x.add y.neg).m == 0

def Dy.zero : Dy := ⟨0, 0⟩

def Num.isNan : Num → Bool
  | .nan _ => true
  | _ => false

def Num.isSig : Num → Bool
  | .nan s => s
  | _ => false

def Num.isInf : Num → Bool
  | .inf _ => true
  | _ => false

def Num.isFin : Num → Bool
  | .fin .. => true
  | _ => false

def Num.isNeg : Num → Bool
  | .nan _ => false
  | .inf n => n
  | .fin n _ _ => n

def Num.isZero : Num → Bool
  | .fin _ a _ => a == 0
  | _ => false

/-- The exact value of a finite number; zero for the others. -/
def Num.dy : Num → Dy
  | .fin n a e => ⟨signed n a, e⟩
  | _ => Dy.zero

def Dy.num (x : Dy) : Num := .fin (decide (x.m < 0)) x.m.natAbs x.e

def Num.scale (k : Int) : Num → Num
  | .fin n a e => .fin n a (e + k)
  | x => x

/-- An IEEE-type format (R33–R35): exponent bits, fraction bits, bias, and whether it has infinities (`ieee`), only NaNs
(`e4m3`) or neither (`e2m1`). -/
inductive Specials where
  | ieee
  | e4m3
  | e2m1
  deriving DecidableEq, Repr

structure FFmt where
  ew : Nat
  fw : Nat
  bias : Nat
  sp : Specials
  deriving DecidableEq, Repr

def fp64 : FFmt := ⟨11, 52, 1023, .ieee⟩
def fp32 : FFmt := ⟨8, 23, 127, .ieee⟩
def fp16 : FFmt := ⟨5, 10, 15, .ieee⟩
def bf16 : FFmt := ⟨8, 7, 127, .ieee⟩
def e4m3 : FFmt := ⟨4, 3, 7, .e4m3⟩
def e5m2 : FFmt := ⟨5, 2, 15, .ieee⟩
def e2m1 : FFmt := ⟨2, 1, 1, .e2m1⟩

def FFmt.top (f : FFmt) : Nat := 2 ^ f.ew - 1

/-- Bits of a finite value: exponent field and fraction. -/
def FFmt.pack (f : FFmt) (neg : Bool) (field frac : Nat) : Nat :=
  (if neg then 2 ^ (f.ew + f.fw) else 0) + field * 2 ^ f.fw + frac

/-- Bits of the largest finite magnitude. -/
def FFmt.maxBits (f : FFmt) : Nat :=
  match f.sp with
  | .ieee => f.pack false (f.top - 1) (2 ^ f.fw - 1)
  | .e4m3 => f.pack false f.top (2 ^ f.fw - 2)
  | .e2m1 => f.pack false f.top (2 ^ f.fw - 1)

def FFmt.infBits (f : FFmt) (neg : Bool) : Nat := f.pack neg f.top 0

/-- R37: the canonical NaN. -/
def FFmt.nanBits (f : FFmt) : Nat :=
  match f.sp with
  | .ieee => f.pack false f.top (2 ^ (f.fw - 1))
  | .e4m3 => f.pack false f.top (2 ^ f.fw - 1)
  | .e2m1 => 0

/-- The value of a bit pattern (R33–R36). -/
def FFmt.dec (f : FFmt) (b : Nat) : Num :=
  let neg := (b / 2 ^ (f.ew + f.fw)) % 2 == 1
  let field := (b / 2 ^ f.fw) % 2 ^ f.ew
  let frac := b % 2 ^ f.fw
  let fin := if field = 0 then Num.fin neg frac (1 - (f.bias : Int) - f.fw)
    else Num.fin neg (2 ^ f.fw + frac) ((field : Int) - f.bias - f.fw)
  match f.sp with
  | .ieee =>
    if field = f.top then
      if frac = 0 then .inf neg else .nan (frac < 2 ^ (f.fw - 1))
    else fin
  | .e4m3 => if field = f.top ∧ frac = 2 ^ f.fw - 1 then .nan false else fin
  | .e2m1 => fin

/-- Whether a magnitude with discarded part `rem` of `2^d` rounds away from zero (R47). -/
def roundUp (rm : BitVec 2) (neg : Bool) (n rem half : Nat) : Bool :=
  match rm.toNat with
  | 0 => decide (rem > half) || (decide (rem = half) && decide (half ≠ 0) && n % 2 == 1)
  | 1 => false
  | 2 => neg && decide (rem ≠ 0)
  | _ => !neg && decide (rem ≠ 0)

/-- a × 2^e as a multiple of 2^q, rounded: the multiple and whether it is exact. -/
def quantise (rm : BitVec 2) (neg : Bool) (a : Nat) (e q : Int) : Nat × Bool :=
  if q ≤ e then (a * 2 ^ (e - q).toNat, true)
  else
    let d := (q - e).toNat
    let n := a / 2 ^ d
    let rem := a % 2 ^ d
    (if roundUp rm neg n rem (2 ^ d / 2) then n + 1 else n, rem == 0)

/-- How an overflow is written (R49, R50). -/
def overflowBits (f : FFmt) (rm : BitVec 2) (sat neg : Bool) : Nat :=
  let top := f.maxBits + (if neg then 2 ^ (f.ew + f.fw) else 0)
  match f.sp with
  | .e2m1 => top
  | .e4m3 => if sat then top else f.nanBits
  | .ieee =>
    if sat then top
    else match rm.toNat with
      | 0 => f.infBits neg
      | 1 => top
      | 2 => if neg then f.infBits neg else top
      | _ => if neg then top else f.infBits neg

/-- One rounding of the exact value (−1)^neg × a × 2^e to a format, with the flags of R55. -/
def roundFin (f : FFmt) (rm : BitVec 2) (sat neg : Bool) (a : Nat) (e : Int) : Nat × Flags :=
  if a = 0 then (f.pack neg 0 0, 0)
  else
    let qmin : Int := 1 - (f.bias : Int) - f.fw
    let q0 : Int := (Nat.log2 a : Int) + e - f.fw
    let q := if q0 < qmin then qmin else q0
    let (n, exact) := quantise rm neg a e q
    let carry := n ≥ 2 ^ (f.fw + 1)
    let n' := if carry then n / 2 else n
    let q' := if carry then q + 1 else q
    let normal := n' ≥ 2 ^ f.fw
    let field : Nat := if normal then (q' + f.fw + f.bias).toNat else 0
    let frac := n' % 2 ^ f.fw
    let tooBig := f.pack false field frac > f.maxBits
    if tooBig then (overflowBits f rm sat neg, fOverflow ||| fInexact)
    else
      let small := match f.sp with
        | .e2m1 => n' == 0
        | _ => !normal
      (f.pack neg field frac, flagIf (!exact) fInexact ||| flagIf (!exact && small) fUnderflow)

/-- Conversion of a value into an IEEE-type format (R48–R50, R54, R55). -/
def roundTo (f : FFmt) (rm : BitVec 2) (sat : Bool) : Num → Nat × Flags
  | .nan s =>
    match f.sp with
    | .e2m1 => (0, fInvalid)
    | _ => (f.nanBits, flagIf s fInvalid)
  | .inf neg =>
    let top := f.maxBits + (if neg then 2 ^ (f.ew + f.fw) else 0)
    match f.sp with
    | .ieee => if sat then (top, fInvalid) else (f.infBits neg, 0)
    | .e4m3 => (if sat then top else f.nanBits, fInvalid)
    | .e2m1 => (top, fInvalid)
  | .fin neg a e => roundFin f rm sat neg a e

/-- An exact sum that is zero: its sign (IEEE 754), then one rounding. -/
def roundSum (f : FFmt) (rm : BitVec 2) (n1 n2 : Bool) (x : Dy) : Nat × Flags :=
  if x.m = 0 then
    (f.pack (if n1 == n2 then n1 else rm == 2#2) 0 0, 0)
  else roundFin f rm false (decide (x.m < 0)) x.m.natAbs x.e

def sigFlag (xs : List Num) : Flags := flagIf (xs.any Num.isSig) fInvalid

/-- IEEE 754 addition (R146). -/
def fadd (f : FFmt) (rm : BitVec 2) (x y : Num) : Nat × Flags :=
  if x.isNan || y.isNan then (f.nanBits, sigFlag [x, y])
  else match x, y with
    | .inf a, .inf b => if a == b then (f.infBits a, 0) else (f.nanBits, fInvalid)
    | .inf a, _ => (f.infBits a, 0)
    | _, .inf b => (f.infBits b, 0)
    | _, _ => roundSum f rm x.isNeg y.isNeg (x.dy.add y.dy)

def Num.negate : Num → Num
  | .nan s => .nan s
  | .inf n => .inf (!n)
  | .fin n a e => .fin (!n) a e

def fsub (f : FFmt) (rm : BitVec 2) (x y : Num) : Nat × Flags := fadd f rm x y.negate

/-- Exact product, with its special values (R40): the value and invalid when ∞ × 0. -/
def mulNum (x y : Num) : Num × Flags :=
  if x.isNan || y.isNan then (.nan false, sigFlag [x, y])
  else match x, y with
    | .fin a m e, .fin b n d => (.fin (a != b) (m * n) (e + d), 0)
    | .inf a, z => if z.isZero then (.nan false, fInvalid) else (.inf (a != z.isNeg), 0)
    | z, .inf b => if z.isZero then (.nan false, fInvalid) else (.inf (b != z.isNeg), 0)
    | _, _ => (.nan false, 0)

def fmul (f : FFmt) (rm : BitVec 2) (x y : Num) : Nat × Flags :=
  let (p, fl) := mulNum x y
  let (b, fl') := roundTo f rm false p
  (b, fl ||| fl')

/-- z + x × y with one rounding; `neg` subtracts the product. -/
def ffma (f : FFmt) (rm : BitVec 2) (neg : Bool) (z x y : Num) : Nat × Flags :=
  let (p0, fl) := mulNum x y
  let p := if neg then p0.negate else p0
  let (b, fl') := fadd f rm z p
  (b, fl ||| fl')

/-- Quotient of magnitudes with 130 guard bits and a sticky bit, as mantissa and exponent. -/
def divMag (a : Nat) (e : Int) (b : Nat) (d : Int) : Nat × Int :=
  let k := 130 + Nat.log2 b
  let n := a * 2 ^ k
  (n / b * 2 + (if n % b = 0 then 0 else 1), e - d - k - 1)

def fdiv (f : FFmt) (rm : BitVec 2) (x y : Num) : Nat × Flags :=
  if x.isNan || y.isNan then (f.nanBits, sigFlag [x, y])
  else match x, y with
    | .inf _, .inf _ => (f.nanBits, fInvalid)
    | .inf a, z => (f.infBits (a != z.isNeg), 0)
    | z, .inf b => (f.pack (b != z.isNeg) 0 0, 0)
    | .fin a m e, .fin b n d =>
      if n = 0 then
        if m = 0 then (f.nanBits, fInvalid) else (f.infBits (a != b), fDivZero)
      else if m = 0 then (f.pack (a != b) 0 0, 0)
      else
        let (q, g) := divMag m e n d
        roundFin f rm false (a != b) q g
    | _, _ => (f.nanBits, 0)

/-- Integer square root, one bit a step from bit `k` down. -/
def isqrtGo : Nat → Nat → Nat → Nat
  | 0, _, r => r
  | k + 1, n, r =>
    let t := r + 2 ^ k
    isqrtGo k n (if t * t ≤ n then t else r)

def isqrt (n : Nat) : Nat := isqrtGo (Nat.log2 n / 2 + 1) n 0

/-- Square root of a × 2^e with guard bits and a sticky bit. -/
def sqrtMag (a : Nat) (e : Int) : Nat × Int :=
  let odd := e % 2 ≠ 0
  let a' := if odd then a * 2 else a
  let e' := if odd then e - 1 else e
  let n := a' * 2 ^ 260
  let s := isqrt n
  (s * 2 + (if s * s = n then 0 else 1), e' / 2 - 131)

def fsqrt (f : FFmt) (rm : BitVec 2) : Num → Nat × Flags
  | .nan s => (f.nanBits, flagIf s fInvalid)
  | .inf n => if n then (f.nanBits, fInvalid) else (f.infBits false, 0)
  | .fin n a e =>
    if a = 0 then (f.pack n 0 0, 0)
    else if n then (f.nanBits, fInvalid)
    else
      let (s, g) := sqrtMag a e
      roundFin f rm false false s g

/-- Order of two numbers that are not NaN; infinities at the ends, zeros equal. -/
def Num.lt (x y : Num) : Bool :=
  match x, y with
  | .inf a, .inf b => a && !b
  | .inf a, _ => a
  | _, .inf b => !b
  | _, _ => x.dy.lt y.dy

def Num.eq (x y : Num) : Bool :=
  match x, y with
  | .inf a, .inf b => a == b
  | .fin .., .fin .. => x.dy.eq y.dy
  | _, _ => false

/-- FEQ, FLT, FLE and their flags (R146). -/
def fcmpEq (x y : Num) : Bool × Flags := (!x.isNan && !y.isNan && x.eq y, sigFlag [x, y])

def fcmpLt (x y : Num) : Bool × Flags :=
  if x.isNan || y.isNan then (false, fInvalid) else (x.lt y, 0)

def fcmpLe (x y : Num) : Bool × Flags :=
  if x.isNan || y.isNan then (false, fInvalid) else (x.lt y || x.eq y, 0)

/-- The order of FMIN: −0 below +0. -/
def fminBefore (x y : Num) : Bool :=
  x.lt y || (x.isZero && y.isZero && x.isNeg && !y.isNeg)

/-- FMIN and FMAX on bits (R146): the other operand when one is NaN, invalid for a signalling NaN. -/
def fminBits (f : FFmt) (mx : Bool) (a b : Nat) : Nat × Flags :=
  let x := f.dec a
  let y := f.dec b
  let fl := sigFlag [x, y]
  if x.isNan && y.isNan then (f.nanBits, fl)
  else if x.isNan then (b, fl)
  else if y.isNan then (a, fl)
  else if mx then (if fminBefore x y then b else a, fl)
  else (if fminBefore y x then b else a, fl)

/-- FABS and FNEG (R146, R37). -/
def fabsBits (f : FFmt) (a : Nat) : Nat × Flags :=
  let x := f.dec a
  if x.isNan then (f.nanBits, sigFlag [x]) else (a % 2 ^ (f.ew + f.fw), 0)

def fnegBits (f : FFmt) (a : Nat) : Nat × Flags :=
  let x := f.dec a
  if x.isNan then (f.nanBits, sigFlag [x])
  else
    let h := 2 ^ (f.ew + f.fw)
    (if a / h % 2 = 1 then a - h else a % h + h, 0)

/-- Conversion to an integer of the range lo to hi (R52, R55). -/
def roundInt (lo hi : Int) (rm : BitVec 2) : Num → Int × Flags
  | .nan _ => (0, fInvalid)
  | .inf n => (if n then lo else hi, fInvalid)
  | .fin neg a e =>
    let (n, exact) := quantise rm neg a e 0
    let v := signed neg n
    if v < lo then (lo, fOverflow ||| fInexact)
    else if hi < v then (hi, fOverflow ||| fInexact)
    else (v, flagIf (!exact) fInexact ||| flagIf (!exact && n == 0) fUnderflow)

/-- R25. -/
def t8 : Nat → Nat
  | 0 => 0x800000
  | 1 => 0x8B95C2
  | 2 => 0x9837F0
  | 3 => 0xA5FED7
  | 4 => 0xB504F3
  | 5 => 0xC5672A
  | 6 => 0xD744FD
  | _ => 0xEAC0C7

/-- Magnitude of an L4 code in units of 2^−23 (R26). -/
def l4Mag (c : Nat) : Nat := if c = 0 then 0 else t8 (4 * ((c - 1) % 2)) * 2 ^ ((c - 1) / 2)

/-- Magnitude of an L8 code in units of 2^−31 (R27). -/
def l8Mag (c : Nat) : Nat := if c = 0 then 0 else t8 (c % 8) * 2 ^ (c / 8)

/-- The element of a log format with magnitudes `mag` in units of 2^u (R28: code 0 reads +0). -/
def logDec (mag : Nat → Nat) (u : Int) (neg : Bool) (c : Nat) : Num :=
  if c = 0 then .fin false 0 0 else .fin neg (mag c) u

/-- Code nearest to a × 2^e (R51), with the flags of R55; `over` is the overflow threshold of R55 doubled. -/
def logRound (mag : Nat → Nat) (top : Nat) (u : Int) (limit : Nat) : Num → Bool × Nat × Flags
  | .nan _ => (false, 0, fInvalid)
  | .inf n => (n, top, fInvalid)
  | .fin neg a e =>
    let x : Dy := ⟨a, e⟩
    let above (c : Nat) : Bool :=
      let mid : Dy := ⟨(mag (c - 1) + mag c : Nat), u - 1⟩
      mid.lt x || (mid.eq x && c % 2 == 0)
    let c := ((List.range top).filter (fun i => above (i + 1))).length
    let ovf := !(x.lt ⟨limit, u - 1⟩)
    let exact := x.eq ⟨mag c, u⟩
    (neg && c != 0, c,
      flagIf ovf fOverflow ||| flagIf (!exact) fInexact ||| flagIf (!exact && c == 0) fUnderflow)

/-- L4 code of a value after removal of the block scale. -/
def l4Round (x : Num) : Nat × Flags :=
  let (n, c, fl) := logRound l4Mag 7 (-23) (8 * 0x800000 + 8 * 0xB504F3) x
  ((if n then 8 else 0) + c, fl)

/-- L8 code of a value after removal of the block scale. -/
def l8Round (x : Num) : Nat × Flags :=
  let (n, c, fl) := logRound l8Mag 127 (-31) ((128 * 0xEAC0C7 + 256 * 0x800000) * 256) x
  ((if n then 128 else 0) + c, fl)

end Sys2Proof.Machine
end

