-- ==== Sys2Proof/Machine/Formats.lean ====
section
/-!
DEFINITION. The format codes of R23 and what is done in them: decoding an element, converting one value or one block
(R46–R54), accumulator pairs (R42–R46), and the products of a matrix cell (R38–R41).
-/
namespace Sys2Proof.Machine

/-- The element encodings of R23. -/
inductive EKind where
  | flt (f : FFmt)
  | int (w : Nat)
  | l4
  | l8
  | pair (f : FFmt)
  | reserved
  deriving DecidableEq, Repr

/-- R23. -/
def ekind : Nat → EKind
  | 0x00 => .flt fp64
  | 0x01 => .flt fp32
  | 0x02 => .flt fp16
  | 0x03 => .flt bf16
  | 0x04 => .flt e4m3
  | 0x05 => .flt e5m2
  | 0x06 => .int 32
  | 0x07 => .int 64
  | 0x08 => .l4
  | 0x09 => .l4
  | 0x0A => .l8
  | 0x0B => .l8
  | 0x0C => .l8
  | 0x0D => .int 4
  | 0x0E => .int 4
  | 0x0F => .int 8
  | 0x10 => .int 8
  | 0x11 => .flt e2m1
  | 0x12 => .flt e4m3
  | 0x13 => .flt e5m2
  | 0x14 => .flt e2m1
  | 0x15 => .flt e4m3
  | 0x16 => .flt e5m2
  | 0x18 => .pair fp32
  | 0x19 => .pair fp64
  | _ => .reserved

/-- Elements that share one block exponent; 0 for none (R23). -/
def blockSize : Nat → Nat
  | 0x08 => 16
  | 0x09 => 32
  | 0x0A => 16
  | 0x0B => 32
  | 0x0D => 16
  | 0x0E => 32
  | 0x0F => 16
  | 0x10 => 32
  | 0x11 => 32
  | 0x12 => 32
  | 0x13 => 32
  | 0x14 => 16
  | 0x15 => 16
  | 0x16 => 16
  | _ => 0

def isBlock (fmt : Nat) : Bool := blockSize fmt != 0

def fmtOk (fmt : Nat) : Bool := decide (ekind fmt ≠ .reserved)

/-- Element bits (R23). -/
def ebits (fmt : Nat) : Nat :=
  match ekind fmt with
  | .flt f => 1 + f.ew + f.fw
  | .int w => w
  | .l4 => 4
  | .l8 => 8
  | .pair f => 2 * (1 + f.ew + f.fw)
  | .reserved => 0

def FFmt.bits (f : FFmt) : Nat := 1 + f.ew + f.fw

def intOf (w b : Nat) : Int := if b % 2 ^ w < 2 ^ (w - 1) then (b % 2 ^ w : Nat) else (b % 2 ^ w : Nat) - (2 ^ w : Nat)

def ofInt (w : Nat) (v : Int) : Nat := (v % (2 ^ w : Nat)).toNat

/-- Head and error term of a pair word (R42). -/
def pairParts (f : FFmt) (b : Nat) : Nat × Nat := (b % 2 ^ f.bits, b / 2 ^ f.bits % 2 ^ f.bits)

def pairPack (f : FFmt) (h e : Nat) : Nat := h + e * 2 ^ f.bits

/-- The value h + e of a pair (R48), special values included. -/
def pairNum (f : FFmt) (b : Nat) : Num :=
  let (hb, eb) := pairParts f b
  let h := f.dec hb
  let e := f.dec eb
  if h.isNan || e.isNan then .nan (h.isSig || e.isSig)
  else match h, e with
    | .inf a, .inf c => if a == c then .inf a else .nan true
    | .inf a, _ => .inf a
    | _, .inf c => .inf c
    | _, _ =>
      let s := h.dy.add e.dy
      if s.m = 0 then .fin (h.isNeg && e.isNeg) 0 0 else s.num

/-- The value of an element before its block exponent. -/
def elemNum (fmt b : Nat) : Num :=
  match ekind fmt with
  | .flt f => f.dec b
  | .int w => (Dy.mk (intOf w b) 0).num
  | .l4 => logDec l4Mag (-23) (b / 8 % 2 == 1) (b % 8)
  | .l8 => logDec l8Mag (-31) (b / 128 % 2 == 1) (b % 128)
  | .pair f => pairNum f b
  | .reserved => .nan false

/-- The value of an element in a block with exponent `e` (R29); formats without exponents ignore it. -/
def elemVal (fmt b e : Nat) : Num :=
  if isBlock fmt then
    if e = 0xFF then .nan false else (elemNum fmt b).scale ((e : Int) - 127)
  else elemNum fmt b

/-- Range of an integer target (R32, R52). -/
def intRange (w : Nat) : Int × Int :=
  if w ≤ 8 then (-(2 ^ (w - 1) - 1 : Nat), (2 ^ (w - 1) - 1 : Nat)) else (-(2 ^ (w - 1) : Nat), (2 ^ (w - 1) - 1 : Nat))

/-- split of an exact value (R43), as component bits; flags by R55. -/
def splitDy (f : FFmt) (x : Dy) : Nat × Flags :=
  if x.m = 0 then (0, 0)
  else
    let (h, fl) := roundFin f 0 false (decide (x.m < 0)) x.m.natAbs x.e
    let hn := f.dec h
    if hn.isFin then
      let r := x.add hn.dy.neg
      let (e, _) := if r.m = 0 then (0, 0) else roundFin f 0 false (decide (r.m < 0)) r.m.natAbs r.e
      let v := hn.dy.add (f.dec e).dy
      let exact := v.eq x
      let small := Dy.lt ⟨v.m.natAbs, v.e⟩ ⟨1, 1 - (f.bias : Int)⟩
      (pairPack f h e, flagIf (!exact) fInexact ||| flagIf (!exact && small) fUnderflow)
    else (pairPack f h 0, fl)

def pairNan (f : FFmt) : Nat := pairPack f f.nanBits 0

/-- split of a value (R43, R45): the head of −0 is −0. A group sum of zero comes as +0. -/
def splitNum (f : FFmt) : Num → Nat × Flags
  | .nan s => (pairNan f, flagIf s fInvalid)
  | .inf n => (pairPack f (f.infBits n) 0, 0)
  | .fin n a e => if a = 0 then (pairPack f (f.pack n 0 0) 0, 0) else splitDy f ⟨signed n a, e⟩

/-- ts (R43): rounded sum and exact remainder, with the flags of the addition. -/
def twoSum (f : FFmt) (a b : Nat) : Nat × Nat × Flags :=
  let x := f.dec a
  let y := f.dec b
  let (s, fl) := fadd f 0 x y
  let sn := f.dec s
  if sn.isFin then
    let r := (x.dy.add y.dy).add sn.dy.neg
    let t := if r.m = 0 then 0 else (roundFin f 0 false (decide (r.m < 0)) r.m.natAbs r.e).1
    (s, t, fl)
  else (s, 0, fl)

/-- A pair whose error term is infinite or NaN beside a finite head: R45 has it merged step by step. -/
def pairOpen (h e : Num) : Bool := h.isFin && !e.isFin

/-- pair_merge (R43, R45, R55). The flags of the steps are those of the result where R45 says so, where a finite sum overflows, and, for a
sum of infinities of both signs, invalid alone. Error terms that are finite one by one and sum to the infinity opposite to that of an
overflowing sum of heads follow the pseudocode of R43 to NaN, not the second bullet of R45 (log 75, DEDUCED). -/
def pairMerge (f : FFmt) (p q : Nat) : Nat × Flags :=
  let (phb, peb) := pairParts f p
  let (qhb, qeb) := pairParts f q
  let ph := f.dec phb
  let pe := f.dec peb
  let qh := f.dec qhb
  let qe := f.dec qeb
  let ns := [ph, pe, qh, qe]
  let stepwise := pairOpen ph pe || pairOpen qh qe
  if ns.any Num.isNan && !stepwise then (pairNan f, sigFlag ns)
  else
    let (s, t, f1) := twoSum f phb qhb
    let (u, f2) := fadd f 0 pe qe
    let (v, f3) := fadd f 0 (f.dec t) (f.dec u)
    let (h, e, f4) := twoSum f s v
    let hn := f.dec h
    let steps := (f1 ||| f2 ||| f3 ||| f4) &&& (fInvalid ||| fOverflow ||| fInexact)
    let headInf := ph.isInf || qh.isInf
    if hn.isNan then (pairNan f, if headInf && !stepwise then fInvalid else steps)
    else if hn.isInf then (pairPack f h 0, if headInf then 0 else steps)
    else
      let exactIn := (ph.dy.add pe.dy).add (qh.dy.add qe.dy)
      let v := hn.dy.add (f.dec e).dy
      let exact := v.eq exactIn
      let small := decide (exactIn.m ≠ 0) && Dy.lt ⟨v.m.natAbs, v.e⟩ ⟨1, 1 - (f.bias : Int)⟩
      (pairPack f h e, flagIf (!exact) fInexact ||| flagIf (!exact && small) fUnderflow)

/-- Conversion of a value into a target without block exponents, or an element of a block whose exponent has been taken
out (R46–R52). `sat` is the instruction's bit; FP8 and FP4 block elements always saturate (R50). -/
def convElem (dst : Nat) (rm : BitVec 2) (sat : Bool) (x : Num) : Nat × Flags :=
  match ekind dst with
  | .flt f =>
    match f.ew * 100 + f.fw with
    | 403 => roundTo f rm (sat || isBlock dst) x
    | 502 => roundTo f rm (sat || isBlock dst) x
    | _ => roundTo f rm false x
  | .int w =>
    let (lo, hi) := intRange w
    let (v, fl) := roundInt lo hi rm x
    (ofInt w v, fl)
  | .l4 => l4Round x
  | .l8 => l8Round x
  | .pair f => splitNum f x
  | .reserved => (0, 0)

/-- P32x2 to P64x2 is ts(h, e) in FP64, which is exact (R46): only ∞ + (−∞) raises a flag. -/
def widenPair (b : Nat) : Nat × Flags :=
  let (h, e) := pairParts fp32 b
  let x := fp32.dec h
  let y := fp32.dec e
  let hb := (roundTo fp64 0 false x).1
  let eb := (roundTo fp64 0 false y).1
  let (s, t, fl) := twoSum fp64 hb eb
  if x.isNan || y.isNan then (pairNan fp64, sigFlag [x, y]) else (pairPack fp64 s t, fl &&& fInvalid)

/-- Conversion of one element between formats without blocks on either side. The same format copies the bits (R37). -/
def convOne (src dst : Nat) (rm : BitVec 2) (sat : Bool) (b : Nat) : Nat × Flags :=
  if src = dst then (b, 0)
  else if src = 0x18 ∧ dst = 0x19 then widenPair b
  else convElem dst rm sat (elemNum src b)

/-- R53: the octave that the largest element is put in. -/
def kTop (fmt : Nat) : Int :=
  match ekind fmt with
  | .l4 => 2
  | .l8 => 6
  | .int 4 => 2
  | .int _ => 6
  | .flt f => match f.ew * 100 + f.fw with
    | 201 => 2
    | 403 => 8
    | _ => 15
  | _ => 0

/-- Largest finite value of a format's elements (R53 for an infinite source). R53 does not say whether that of a block format takes the
block's exponent in: it does not here, 57,344 for E5M2 (log 76, DESIGN CHOICE). -/
def fmtMax (fmt : Nat) : Dy :=
  match ekind fmt with
  | .flt f => (f.dec f.maxBits).dy
  | .pair f => (f.dec f.maxBits).dy
  | _ => Dy.zero

/-- The magnitude that a source value counts with in R53. -/
def blockMag (src : Nat) : Num → Dy
  | .fin _ a e => ⟨a, e⟩
  | .inf _ => fmtMax src
  | .nan _ => Dy.zero

def dyMax (x y : Dy) : Dy := if x.lt y then y else x

/-- R53: the exponent of a block. -/
def blockExp (src dst : Nat) (xs : List Num) : Nat :=
  if xs.any Num.isNan then 0xFF
  else
    let m := (xs.map (blockMag src)).foldl dyMax Dy.zero
    if m.m = 0 then 127
    else
      let e : Int := (Nat.log2 m.m.natAbs : Int) + m.e - kTop dst + 127
      if e < 0 then 0 else if 254 < e then 254 else e.toNat

/-- Whether a block element format has a NaN element (R54, R55). -/
def hasNanElem (fmt : Nat) : Bool :=
  match ekind fmt with
  | .flt f => f.ew != 2
  | _ => false

/-- Conversion of one block with an exponent (R50–R54, R190): elements and flags. A block whose exponent 0xFF was chosen for a NaN
raises invalid where the format has no NaN (R54) and for an infinity that it takes in (R55); its finite elements raise nothing (log 69,
DEDUCED). One that was given 0xFF converts nothing (R190, log 69; log 115). -/
def convBlockWith (dst : Nat) (rm : BitVec 2) (chosen : Bool) (e : Nat) (xs : List Num) : List Nat × Flags :=
  if e = 0xFF then
    (xs.map (fun _ => 0), (xs.map (fun x => flagIf (x.isSig ||
      (chosen && (x.isInf || (x.isNan && !hasNanElem dst)))) fInvalid)).foldl (· ||| ·) 0)
  else
    let rs := xs.map (fun x =>
      if x.isNan && !hasNanElem dst then (0, fInvalid) else convElem dst rm true (x.scale (127 - (e : Int))))
    (rs.map Prod.fst, (rs.map Prod.snd).foldl (· ||| ·) 0)

/-- Conversion of one block with the exponent of R53: exponent, elements, flags. -/
def convBlock (src dst : Nat) (rm : BitVec 2) (xs : List Num) : Nat × List Nat × Flags :=
  let e := blockExp src dst xs
  let (bs, fl) := convBlockWith dst rm true e xs
  (e, bs, fl)

/-- The product of two L4 codes or two L8 codes (R38). -/
def logProd (l8 : Bool) (x w : Nat) : Num :=
  if l8 then
    let a := x % 128
    let b := w % 128
    if a = 0 ∨ b = 0 then .fin false 0 0
    else
      let s := a + b
      .fin (x / 128 % 2 != w / 128 % 2) (t8 (s % 8)) ((s / 8 : Nat) - 16 - 23)
  else
    let a := x % 8
    let b := w % 8
    if a = 0 ∨ b = 0 then .fin false 0 0
    else
      let s := a + b - 2
      .fin (x / 8 % 2 != w / 8 % 2) (t8 (4 * (s % 2))) ((s / 2 : Nat) - 23)

/-- An element before its block's scale: NaN in a NaN block, whatever its bits (R29). -/
def blkElem (fmt e b : Nat) : Num := if isBlock fmt && e == 0xFF then .nan false else elemNum fmt b

/-- A product before block scaling (R38–R40): the value, and its flags. -/
def cellProduct (xf wf x w : Nat) : Num × Flags :=
  match ekind xf, ekind wf with
  | .l4, _ => (logProd false x w, 0)
  | .l8, _ => (logProd true x w, 0)
  | _, _ => mulNum (elemNum xf x) (elemNum wf w)

/-- The flags of a product group that lies in a NaN block: every product is NaN, and a signalling NaN of the other operand raises
invalid (R37, R40). -/
def nanBlkFlags (xf wf : Nat) (xs : List ((Nat × Nat) × Nat × Nat)) : Flags :=
  orFlags (xs.map (fun p => sigFlag [blkElem xf p.1.2 p.1.1, blkElem wf p.2.2 p.2.1]))

/-- Sum inside a product group (R44, R61): NaN with NaN or with infinities of both signs. A NaN that comes before the second infinity
keeps its sum from raising invalid: R45 and R61 leave that open (log 77, DESIGN CHOICE). -/
def groupAdd (x y : Num) : Num × Flags :=
  match x, y with
  | .nan _, _ => (.nan false, 0)
  | _, .nan _ => (.nan false, 0)
  | .inf a, .inf b => if a == b then (.inf a, 0) else (.nan false, fInvalid)
  | .inf a, _ => (.inf a, 0)
  | _, .inf b => (.inf b, 0)
  | _, _ => ((x.dy.add y.dy).num, 0)

/-- R41: the class of an operand; equal classes pair. 0 means not accepted at all. -/
def pairClass (fmt : Nat) : Nat :=
  match fmt with
  | 0x08 => 1
  | 0x09 => 2
  | 0x0A => 3
  | 0x0B => 4
  | 0x0C => 5
  | 0x0D => 6
  | 0x0F => 6
  | 0x0E => 7
  | 0x10 => 7
  | 0x11 => 8
  | 0x14 => 9
  | 0x12 => 10
  | 0x13 => 10
  | 0x15 => 11
  | 0x16 => 11
  | 0x04 => 12
  | 0x05 => 12
  | 0x03 => 13
  | 0x02 => 14
  | 0x01 => 15
  | 0x00 => 16
  | _ => 0

def pairAccepted (x w : Nat) : Bool := pairClass x != 0 && pairClass x == pairClass w

/-- The accumulator component of an accepted pair (R41): FP64 for FP32 and FP64 operands. -/
def accWide (x : Nat) : Bool := x == 0 || x == 1

def accFmt (wide : Bool) : FFmt := if wide then fp64 else fp32

/-- R56, R57: reduction indices per cell, cycles per vector, rows per product group. -/
def geomD (x w : Nat) : Nat :=
  match ekind x, ekind w with
  | .l4, _ => 4
  | .l8, _ => 2
  | .int 4, .int 4 => 2
  | .flt f, _ => if f.ew = 2 then 2 else 1
  | _, _ => 1

def geomR (x : Nat) : Nat :=
  match x with
  | 0x00 => 16
  | 0x01 => 8
  | 0x02 => 2
  | 0x03 => 2
  | _ => 1

def geomGroup (x w : Nat) : Nat :=
  if x = 0x0C then 16
  else if isBlock x then blockSize x / geomD x w else 1

/-- A product group of R61 for which the operands' elements and exponents are given: its scaled sum and flags. -/
def groupSum (xf wf : Nat) (ex ew : Nat) (prods : List (Nat × Nat)) : Num × Flags :=
  let nanBlk := (isBlock xf && ex == 0xFF) || (isBlock wf && ew == 0xFF)
  if nanBlk then (.nan false, nanBlkFlags xf wf (prods.map (fun p => ((p.1, ex), (p.2, ew)))))
  else
    let (g, fl) := prods.foldl (fun (acc : Num × Flags) (p : Nat × Nat) =>
      let (v, f1) := cellProduct xf wf p.1 p.2
      let (s, f2) := groupAdd acc.1 v
      (s, acc.2 ||| f1 ||| f2)) (Num.fin false 0 0, 0)
    let kx : Int := if isBlock xf then (ex : Int) - 127 else 0
    let kw : Int := if isBlock wf then (ew : Int) - 127 else 0
    (g.scale (kx + kw), fl)

end Sys2Proof.Machine
end

