-- ==== Sys2Proof/Machine/Ops.lean ====
section
/-!
DEFINITION. What every instruction command shares: reading and writing registers of a face, the group that R115 picks, the
checks before an instruction issues (R137, R138, R110, R126), the precise fault of a face (R131–R133), and the first step
of a teardown (R400).
-/
namespace Sys2Proof.Machine

/-- The threads for which an instruction issues: the control core (`cv` none, the one lane 0), or a group of a caravan. -/
structure Grp where
  k : Nat
  cv : Option Nat
  lanes : List Nat
  pc : W64
  served : W32
  deriving DecidableEq, Repr

namespace State

def updCv (s : State) (k v : Nat) (f : Caravan → Caravan) : State :=
  s.updCore k (fun c => { c with cvs := tput c.cvs v (f (tget Caravan.dflt c.cvs v)) })

end State

def Core.cv (c : Core) (v : Nat) : Caravan := tget Caravan.dflt c.cvs v

/-- s0 reads zero (R109). -/
def Core.sreg (c : Core) (r : Nat) : W64 := if r = 0 then 0 else tget 0 c.sregs r

def Core.setSreg (c : Core) (r : Nat) (v : W64) : Core := if r = 0 then c else { c with sregs := tset 0 c.sregs r v }

def Caravan.treg (x : Caravan) (lane r : Nat) : W32 := tget 0 x.regs (64 * lane + r)

def Caravan.setTreg (x : Caravan) (lane r : Nat) (v : W32) : Caravan :=
  { x with regs := tset 0 x.regs (64 * lane + r) v }

def Caravan.state (x : Caravan) (lane : Nat) : ThreadState := tget .idle x.st lane

def Caravan.pc (x : Caravan) (lane : Nat) : W64 := tget 0 x.pcs lane

/-- A caravan is idle when every thread is (R111). -/
def Caravan.isIdle (x : Caravan) : Bool := (List.range 32).all (fun l => decide (x.state l = .idle))

/-- Move lanes to a thread state, and say what they wait for. -/
def Caravan.setState (x : Caravan) (lanes : List Nat) (st : ThreadState) (w : Wait) : Caravan :=
  { x with
    st := lanes.foldl (fun t l => tset .idle t l st) x.st
    waits := lanes.foldl (fun t l => tset Wait.none t l w) x.waits }

/-- The register of lane `lane` as a value of 32 bits, or of 64 bits from a pair (R113); 64 bits on the control core. -/
def rdReg (s : State) (g : Grp) (lane r : Nat) (wide : Bool) : W64 :=
  match g.cv with
  | none => (s.core g.k).sreg r
  | some v =>
    let x := (s.core g.k).cv v
    if wide then BitVec.ofNat 64 ((x.treg lane r).toNat + 2 ^ 32 * (x.treg lane (r + 1)).toNat)
    else (x.treg lane r).setWidth 64

/-- Write a register of a lane. -/
def wrReg (s : State) (g : Grp) (lane r : Nat) (wide : Bool) (v : W64) : State :=
  match g.cv with
  | none => s.updCore g.k (fun c => c.setSreg r v)
  | some cv => s.updCv g.k cv (fun x =>
      let x := x.setTreg lane r (v.setWidth 32)
      if wide then x.setTreg lane (r + 1) (BitVec.ofNat 32 (v.toNat / 2 ^ 32)) else x)

/-- Write a 32-bit result. A control core register is 64 bits wide and the spec does not state what the upper half holds
then: it is a free value (log 6). -/
def wrLow (s : State) (g : Grp) (lane r : Nat) (v : W32) : State :=
  match g.cv with
  | none =>
    let (x, s) := s.free
    wrReg s g lane r true (BitVec.ofNat 64 (v.toNat + 2 ^ 32 * (x.toNat / 2 ^ 32)))
  | some _ => wrReg s g lane r false (v.setWidth 64)

/-- Four registers from `r` (R138), lowest first. -/
def rdQuad (s : State) (g : Grp) (lane r : Nat) : W128 :=
  BitVec.ofNat 128 ((rdReg s g lane r true).toNat + 2 ^ 64 * (rdReg s g lane (r + 2) true).toNat)

def wrQuad (s : State) (g : Grp) (lane r : Nat) (v : W128) : State :=
  wrReg (wrReg s g lane r true (v.setWidth 64)) g lane (r + 2) true (BitVec.ofNat 64 (v.toNat / 2 ^ 64))

/-- OR flags into CC_FLAGS or the caravan's CV_FLAGS (R127, R146). -/
def raiseFlags (s : State) (g : Grp) (fl : Flags) : State :=
  match g.cv with
  | none => s.updCore g.k (fun c => { c with flags := c.flags ||| fl.setWidth 32 })
  | some v => s.updCv g.k v (fun x => { x with flags := x.flags ||| fl.setWidth 32 })

/-- A register operand: first register, number of 32-bit registers it holds on a caravan, and whether it is written. -/
structure RegUse where
  r : Nat
  n : Nat
  wr : Bool
  deriving DecidableEq, Repr

/-- R138, R113: on the control core a register number below 32; on a caravan a base aligned to the operand. -/
def regOk (f : Face) (u : RegUse) : Bool :=
  match f with
  | .cc => decide (u.r < 32)
  | .cv _ => u.r % u.n == 0

/-- Registers of an access in flight that its completion will write. -/
def Access.writes (a : Access) : List Nat :=
  match a.op with
  | .store => []
  | .desc => []
  | _ => match a.req with
    | .thread .. => (List.range (ceilDiv a.size 4)).map (a.dst + ·)
    | _ => [a.dst]

/-- s registers that are pending: summaries (R110) and loads of the control core. -/
def Core.pendS (c : Core) : List Nat :=
  (c.sPend ++ (c.acc.filter (fun a => a.req == .cc)).flatMap Access.writes).filter (· != 0)

/-- Registers of the X and W fragments of a collective (R119). -/
def mmaXn (o : MmaOp) : Nat := ebits o.xfmt.toNat / 2
def mmaWn (o : MmaOp) : Nat := ebits o.wfmt.toNat

/-- Whether register `r` of a lane is pending: a load or atomic in flight, the C range of an outstanding collective, or,
for a write, its X and W registers before the grant, and its scale register where its format has block exponents (R126). -/
def Core.pendT (c : Core) (v lane r : Nat) (wr : Bool) : Bool :=
  (c.acc.filter (fun a => a.req == .thread v lane)).any (fun a => a.writes.contains r) ||
  (match (c.cv v).coll with
   | none => false
   | some q =>
     let inR (b n : Nat) : Bool := decide (b ≤ r) && decide (r < b + n)
     inR q.op.cb.toNat 32 ||
       (wr && q.phase == 1 &&
         (inR q.op.xb.toNat (mmaXn q.op) || inR q.op.wb.toNat (mmaWn q.op) ||
           (isBlock q.op.xfmt.toNat && r == q.op.sb.toNat))))

/-- The lanes of a group that an operand keeps waiting. -/
def blockedLanes (s : State) (g : Grp) (us : List RegUse) : List Nat :=
  let c := s.core g.k
  match g.cv with
  | none => if us.any (fun u => c.pendS.contains u.r) then [0] else []
  | some v => g.lanes.filter (fun l =>
      us.any (fun u => (List.range u.n).any (fun i => c.pendT v l (u.r + i) u.wr)))

/-- A face waits: what the wait-for graph reports, and the thread state of R114. -/
def setWait (s : State) (g : Grp) (lanes : List Nat) (st : ThreadState) (w : Wait) : State :=
  match g.cv with
  | none => s.updCore g.k (fun c => { c with wait := w })
  | some v => s.updCv g.k v (fun x => x.setState lanes st w)

/-- Waits whose cause is looked at afresh when the instruction is sent again. -/
def Wait.again : Wait → Bool
  | .operand => true
  | .hold _ => true
  | .entry => true
  | .credit => true
  | .order => true
  | .queue => true
  | .summary => true
  | .dma _ => true
  | .caravans => true
  | .kernelEnd => true
  | .transit => true
  | .ring => true
  | .chain => true
  | .capture => true
  | _ => false

/-- Threads that waited for something of the kind `p` are READY again. -/
def Core.wake (c : Core) (p : Wait → Bool) : Core :=
  { c with
    wait := if p c.wait then .none else c.wait
    cvs := c.cvs.map (fun e =>
      let ls := (e.2.waits.filter (fun w => p w.2)).map Prod.fst
      (e.1, e.2.setState ls .ready .none)) }

def wakeCore (s : State) (k : Nat) : State := s.updCore k (fun c => c.wake Wait.again)

/-- Whether the context of a core is RUNNING and the core has not been stopped (R128, R393). -/
def coreRuns (s : State) (k : Nat) : Bool :=
  let c := s.core k
  match c.ctx with
  | none => false
  | some (n, _) => decide ((s.ctx n).st = .running) && !c.stopped

/-- Whether the control core waits for something that will end the wait itself. -/
def Wait.holds : Wait → Bool
  | .tag .. => true
  | .bound => true
  | .barrier _ => true
  | .walk _ => true
  | .fault _ => true
  | _ => false

/-- Threads that may be offered: the READY ones; only where there is none, those whose wait is looked at afresh. -/
def Caravan.offered (x : Caravan) : List Nat :=
  let ready := (List.range 32).filter (fun l => decide (x.state l = .ready))
  if ready.isEmpty then
    (List.range 32).filter (fun l => decide (x.state l ≠ .idle) && (tget Wait.none x.waits l).again)
  else ready

def maskOf (lanes : List Nat) : W32 := BitVec.ofNat 32 ((lanes.map (fun l => 2 ^ l)).foldl (· + ·) 0)

/-- The better of two groups: more threads, then the lower program counter (R115). -/
def betterGroup (a b : W64 × List Nat) : W64 × List Nat :=
  if a.2.length < b.2.length then b
  else if b.2.length < a.2.length then a
  else if b.1.toNat < a.1.toNat then b else a

/-- pick_group of R115: the group and the served mask after it issues. -/
def Caravan.pick (x : Caravan) : Option (W64 × List Nat × W32) :=
  let ready := x.offered
  let groups := ready.map (fun l => (x.pc l, ready.filter (fun j => x.pc j == x.pc l)))
  let fresh := groups.filter (fun g => (maskOf g.2 &&& ~~~x.served) != 0)
  let (cand, served) := if fresh.isEmpty then (groups, 0#32) else (fresh, x.served)
  match cand with
  | [] => none
  | g :: gs =>
    let b := gs.foldl betterGroup g
    some (b.1, b.2, served ||| maskOf b.2)

/-- Who issues when an instruction command names this face: nobody while the core's context does not run, while the
control core waits or stands at its END (R112), or while the caravan has no thread to offer. -/
def offer (s : State) (k : Nat) (f : Face) : Option Grp :=
  if !coreRuns s k then none
  else
    let c := s.core k
    match f with
    | .cc => if c.wait.holds || c.kend != 0 then none else some ⟨k, none, [0], c.pc, 0⟩
    | .cv v => (c.cv v).pick.map (fun (pc, ls, sv) => ⟨k, some v.val, ls, pc, sv⟩)

/-- Step 1 of R400 on one core: nothing issues any more, what has started in the array completes, DMA commands stay only
to receive the answers to their requests, and everything else of the queues is discarded. -/
def Core.discard (c : Core) : Core :=
  { c with
    stopped := true
    wait := .none
    sPend := []
    entryQ := c.entryQ.filter (fun w => match w with | .wb _ => true | _ => false)
    rels := []
    mx := { c.mx with
      queue := c.mx.queue.filter (fun q => q.fronted || q.go || (q.drain && q.state == .running))
      converged := [] }
    ve := { c.ve with queue := [], chans := [], parked := [] }
    dma := { c.dma with queue := (c.dma.queue.filter (fun q => !q.reqs.isEmpty)).map (fun q => { q with doomed := 1 }) }
    sp := { c.sp with waits := [], moving := [], behind := [] }
    cvs := c.cvs.map (fun e => (e.1, match e.2.coll with
      | some q => if q.phase = 1 then { e.2 with coll := none } else e.2
      | none => e.2)) }

/-- A teardown of context `n` begins (R400); one that has begun goes on with its first cause. -/
def startTeardown (s : State) (n cause : Nat) : State :=
  let x := s.ctx n
  match x.st with
  | .free => s
  | .dead => s
  | .teardown => s
  | _ =>
    let s := s.setCtx n { x with st := .teardown, cause := cause, kernel := none }
    { s with cores := s.cores.map (fun e =>
        if e.2.ctx.map Prod.fst = some n then (e.1, e.2.discard) else e) }

/-- A pre-emption of context `n` begins (R393): both faces of its cores stop issuing (R128). One that is not RUNNING or HOLDING
is left as it is. `halt` says that it enters STOPPED after its save (R402). -/
def preempt (s : State) (n : Nat) (halt : Bool) : State :=
  let x := s.ctx n
  if x.st = .running ∨ x.st = .holding then
    let s := s.setCtx n { x with st := .saving, toStop := halt }
    { s with cores := s.cores.map (fun e =>
        if e.2.ctx.map Prod.fst = some n then (e.1, { e.2 with stopped := true }) else e) }
  else s

/-- Word 0 of CORE_FAULT (R133). -/
def coreFaultW0 (code src cv thread : Nat) (mask : W32) : W64 :=
  at_ 63 1 ||| at_ 56 code ||| at_ 53 src ||| at_ 48 cv ||| at_ 43 thread ||| mask.setWidth 64

/-- A fault of R131 that leads to teardown: recorded in CORE_FAULT (a later one only sets OVERRUN), traced, and the
context of the core torn down with cause FAULT. SOURCE: 0 control core, 1 caravan, 2 matrix, 3 vector, 4 DMA. -/
def faultCore (s : State) (k code src cv thread : Nat) (mask : W32) (pc addr : W64) : State :=
  let c := s.core k
  let s :=
    if bit c.fault.w0 63 then s.updCore k (fun c => { c with fault := { c.fault with w0 := setBit c.fault.w0 62 true } })
    else
      let (st, s) := s.stamp
      s.updCore k (fun c => { c with fault := ⟨coreFaultW0 code src cv thread mask, pc, addr, st⟩ })
  let cx := c.ctx.map Prod.fst
  let s := s.emit (dieOfCore k) 0x0A k (cx.getD 0xFFF) (code + 64 * src) pc addr
  match cx with
  | some n => startTeardown s n 1
  | none => s

/-- A precise fault of the threads `lanes` of a group, at its instruction (R132). -/
def faultGrp (s : State) (g : Grp) (code : Nat) (lanes : List Nat) (addr : W64) : State :=
  match g.cv with
  | none => faultCore s g.k code 0 0 0 0 g.pc addr
  | some v => faultCore s g.k code 1 v (lanes.headD 0) (maskOf lanes) g.pc addr

/-- What issuing did: executed (the program counter moves on), the same with every thread of the
caravan marked as served (R117), executed for some lanes of the group only, executed with the
program counters set, waiting without any effect, or a precise fault. -/
inductive Did where
  | ok (s : State)
  | yield (s : State)
  | part (s : State) (done : List Nat)
  | moved (s : State)
  | wait (w : Wait)
  | fault (code : Nat) (lanes : List Nat) (addr : W64)

/-- The program counter of the lanes moves on by the instruction's length. -/
def advance (s : State) (g : Grp) (lanes : List Nat) (len : Nat) : State :=
  match g.cv with
  | none => s.updCore g.k (fun c => { c with pc := c.pc + BitVec.ofNat 64 len })
  | some v => s.updCv g.k v (fun x =>
      { x with pcs := lanes.foldl (fun t l => tset 0 t l (tget 0 t l + BitVec.ofNat 64 len)) x.pcs })

/-- The bookkeeping of an instruction that issues: the served mask (R115), the counters of R485 (a caravan instruction
counts in slot 0, log 8), the order of least recent issue (R116; log 87), and that the core makes progress (R500). -/
def issued (s : State) (g : Grp) : State :=
  let s := s.working g.k
  match g.cv with
  | none => s.bumpCore g.k 2 0xFFFF 1
  | some v =>
    let s := s.updCore g.k (fun c => { c with order := c.order.filter (· != v) ++ [v] })
    ((s.updCv g.k v (fun x => { x with served := g.served })).bumpCore g.k 3 1 1).bumpCore g.k 4 1 g.lanes.length

/-- The threads of the group wait for nothing any more. -/
def unwait (s : State) (g : Grp) : State := setWait s g g.lanes .ready .none

/-- Issue one instruction of length `len` on a face. `legal` says whether its fields are (R137), `us` are its register
operands; `body` is its own effect. An instruction that cannot issue now leaves the state as it is, but for the wait that
the wait-for graph reports. -/
def issue (s : State) (k : Nat) (f : Face) (len : Nat) (legal : Bool) (us : List RegUse) (body : Grp → State → Did) :
    Out :=
  match offer s k f with
  | none => .next s
  | some g =>
    if !(legal && us.all (regOk f)) then .next (faultGrp s g 1 g.lanes 0)
    else
      let late := blockedLanes s g us
      if !late.isEmpty then .next (setWait s g late .waitOperand .operand)
      else match body g (unwait s g) with
        | .ok t => .next (advance (issued t g) g g.lanes len)
        | .yield t => .next (advance (issued t { g with served := BitVec.allOnes 32 }) g g.lanes len)
        | .part t done => .next (if done.isEmpty then t else advance (issued t { g with lanes := done }) g done len)
        | .moved t => .next (issued t g)
        | .wait w => .next (setWait s g g.lanes .waitMemory w)
        | .fault code ls addr => .next (faultGrp s g code ls addr)

/-- The group that is about to issue, where nothing keeps it from doing so. -/
def mayIssue (s : State) (k : Nat) (f : Face) (legal : Bool) (us : List RegUse) : Option Grp :=
  match offer s k f with
  | none => none
  | some g => if legal && us.all (regOk f) && (blockedLanes s g us).isEmpty then some g else none

/-- Lane by lane, each result written before the next lane is read. -/
def eachLane (g : Grp) (f : Nat → State → State) (s : State) : State := g.lanes.foldl (fun s l => f l s) s

/-- Whether the context on a core is privileged (R173). -/
def privileged (s : State) (k : Nat) : Bool :=
  match (s.core k).ctx with
  | none => false
  | some (n, _) => bit ((s.ctx n).desc.headD 0) 62

/-- A privileged instruction (R174): in a context that is not privileged it raises 0x02 before every other check. -/
def issuePriv (s : State) (k : Nat) (f : Face) (len : Nat) (legal : Bool) (us : List RegUse) (body : Grp → State → Did) :
    Out :=
  if privileged s k then issue s k f len legal us body
  else match offer s k f with
    | none => .next s
    | some g => .next (faultGrp s g 2 g.lanes 0)

def isCc (f : Face) : Bool := f == .cc

/-- Width of an integer operation: 64 bits on the control core or with W on a caravan (R141). -/
def wideOp (f : Face) (w : Bool) : Bool := isCc f || w

/-- A register operand of an operation of the given width. -/
def useOf (r : BitVec 6) (wide wr : Bool) : RegUse := ⟨r.toNat, if wide then 2 else 1, wr⟩

end Sys2Proof.Machine
end

