-- ==== Sys2Proof/Machine/Outward.lean ====
section
/-!
DEFINITION. What leaves the module: packets of the fabric endpoint (R336–R339), reads and posted writes of host memory
(R251, R269, R420), the IDE condition of R409, and MSI-X messages (R414).
-/
namespace Sys2Proof.Machine

/-- The fields of a physical address (R301). -/
def paNode (pa : W64) : Nat := fld pa 63 44
def paSpace (pa : W64) : Nat := fld pa 43 40
def paOff (pa : W64) : Nat := fld pa 39 0

/-- All ones, or the module's own assigned node ID, names this module (R301). -/
def nodeHere (s : State) (n : Nat) : Bool := n == 0xFFFFF || (n == s.fab.node.toNat)

def isLocalHbm (s : State) (pa : W64) : Bool := nodeHere s (paNode pa) && paSpace pa == 0

def isRemote (s : State) (pa : W64) : Bool := !nodeHere s (paNode pa)

/-- Word `i` of a context descriptor (R385). -/
def Ctx.word (c : Ctx) (i : Nat) : W64 := c.desc.getD i 0

def Ctx.partNo (c : Ctx) : Nat := fld (c.word 0) 60 56
def Ctx.lc (c : Ctx) : Bool := bit (c.word 0) 63
def Ctx.width (c : Ctx) : Nat := fld (c.word 0) 55 48 + 1
def Ctx.debug (c : Ctx) : Bool := bit (c.word 0) 61

def ctxOf (s : State) (k : Nat) : Nat := ((s.core k).ctx.map Prod.fst).getD 0xFFF

/-- Word 0 of a packet header (R337). -/
def hdr0 (dst src vc tc type len : Nat) : W64 :=
  at_ 44 dst ||| at_ 24 src ||| at_ 21 vc ||| at_ 19 tc ||| at_ 13 type ||| at_ 7 len

/-- Virtual channel and traffic class of a context's requests (R339). -/
def ctxVc (s : State) (n : Nat) : Nat × Nat :=
  let x := s.ctx n
  let p := s.part x.partNo
  if x.lc then (2 * p.vcFirst, 0) else (2 * p.vcLast, 1)

/-- Eight bytes to a unit. -/
def unitsOf : List Byte → List W64
  | a :: b :: c :: d :: e :: f :: g :: h :: r => BitVec.ofNat 64 (leNat [a, b, c, d, e, f, g, h]) :: unitsOf r
  | [] => []
  | r => [BitVec.ofNat 64 (leNat r)]

def bytesOf (us : List W64) : List Byte := us.flatMap (fun u => leBytes 8 u.toNat)

/-- Sectors (bit s) that a set of line offsets lies in. -/
def sectorMask (offs : List Nat) : Nat := ((List.range 4).map (fun q => if offs.any (fun o => o / 64 == q) then 2 ^ q else 0)).foldl (· + ·) 0

def sectorsOf (mask : Nat) : List Nat := (List.range 4).filter (fun q => mask / 2 ^ q % 2 == 1)

def byteIn (bs : Bytes) (o : Nat) : Byte := tget 0 bs o

/-- Payload of a WR_REQ (R337, R338): a byte mask when a named sector is not written whole, then the sectors. -/
def writeBody (mask : Nat) (bs : Bytes) : Bool × List W64 :=
  let has (o : Nat) : Bool := (tfind bs o).isSome
  let whole := (sectorsOf mask).all (fun q => (List.range 64).all (fun i => has (64 * q + i)))
  let data := (sectorsOf mask).flatMap (fun q => (List.range 8).map (fun u =>
    BitVec.ofNat 64 (leNat ((List.range 8).map (fun i => byteIn bs (64 * q + 8 * u + i))))))
  let msk := (List.range 4).map (fun u =>
    BitVec.ofNat 64 (((List.range 64).map (fun i => if has (64 * u + i) then 2 ^ i else 0)).foldl (· + ·) 0))
  if whole then (false, data) else (true, msk ++ data)

/-- A transaction entry of core `k` that nothing uses (R129). -/
def freeEntry (s : State) (k : Nat) : Nat :=
  let c := s.core k
  let used := c.acc.map Access.entry ++ c.dma.queue.flatMap (fun q => q.reqs.map Prod.fst) ++
    (s.mem.fab.filter (fun t => t.id / 256 == k)).map (fun t => t.id % 256)
  ((List.range 256).find? (fun e => !used.contains e)).getD 255

/-- Hand a packet of the endpoint to the switch; a WR_REQ waits in the hold window (R371), and an unassigned module sends
only path-routed packets (R346). -/
def fabOut (s : State) (p : Packet) : State :=
  if s.fab.node = 0xFFFFF#20 then s
  else if s.bcn.holding && fld p.w0 18 13 == 3 then { s with fab := { s.fab with held := s.fab.held ++ [p] } }
  else { s with fab := { s.fab with epOut := s.fab.epOut ++ [p] } }

/-- Send a request of context `n` for one line of another module's memory: `write` with bytes by line offset, or a read of `mask`. -/
def fabSendFor (s : State) (n k entry : Nat) (owner : Owner) (write : Bool) (pa : W64) (mask : Nat) (bs : Bytes) (poison : Nat) :
    State :=
  let (vc, tc) := ctxVc s n
  let (st, s) := s.stamp
  let (masked, body) := if write then writeBody mask bs else (false, [])
  let p : Packet := {
    w0 := hdr0 (paNode pa) s.fab.node.toNat vc tc (if write then 3 else 1) body.length
    w1 := at_ 59 (s.ctx n).partNo ||| at_ 0 (paOff pa / 256 * 256)
    w2 := st
    w3 := at_ 48 (256 * k + entry) ||| at_ 44 mask ||| at_ 43 (b2n masked) ||| at_ 38 poison
    body := body }
  let s := { s with mem := { s.mem with fab := s.mem.fab ++ [⟨256 * k + entry, p, owner, n, 0, false⟩] } }
  fabOut s p

/-- The same of the context that holds the core. -/
def fabSend (s : State) (k entry : Nat) (owner : Owner) (write : Bool) (pa : W64) (mask : Nat) (bs : Bytes) (poison : Nat) : State :=
  fabSendFor s (ctxOf s k) k entry owner write pa mask bs poison

/-- A request that has just been sent takes in the bytes or sectors of further lanes of its instruction (R129): `bs` holds all it
writes. -/
def fabJoin (s : State) (id mask : Nat) (bs : Bytes) : State :=
  match s.mem.fab.find? (fun t => t.id == id) with
  | none => s
  | some t =>
    let m := fld t.pkt.w3 47 44 ||| mask
    let (masked, body) := if fld t.pkt.w0 18 13 = 3 then writeBody m bs else (false, [])
    let p : Packet := { t.pkt with
      w0 := setFld t.pkt.w0 12 7 body.length, w3 := setFld (setFld t.pkt.w3 47 44 m) 43 43 (b2n masked), body := body }
    let sw (x : Packet) : Packet := if x = t.pkt then p else x
    { s with
      mem := { s.mem with fab := s.mem.fab.map (fun x => if x.id = id then { x with pkt := p } else x) }
      fab := { s.fab with held := s.fab.held.map sw, epOut := s.fab.epOut.map sw } }

/-- The function that owns a context, and its host window (R412). -/
def fnOf (s : State) (n : Nat) : Nat := (s.ctx n).fn.toNat
def hostWin (s : State) (n : Nat) : W64 := (s.fn (fnOf s n)).win

/-- Bus address of a host-space physical address under a host window (R302, R420). -/
def busIn (win pa : W64) : W64 := at_ 40 (fld win 63 40) ||| at_ 0 (paOff pa)

/-- The same for a translation that a context makes now. -/
def busAddr (s : State) (n : Nat) (pa : W64) : W64 := busIn (hostWin s n) pa

/-- Whether the context's function has its host window enabled (R412). -/
def hostWinOn (s : State) (n : Nat) : Bool := bit (hostWin s n) 0

/-- R409: with IDE_REQUIRED a request needs a secure selective stream (1 to 8; 0 is the link stream) whose association covers it. -/
def ideOk (s : State) (addr : W64) (len : Nat) : Bool :=
  s.host.ideReq == 0 ||
  s.host.ide.any (fun e => e.1 != 0 && e.2.secure && e.2.assoc.any (fun r =>
    decide (r.1.toNat ≤ addr.toNat) && decide (addr.toNat + len ≤ r.2.toNat + 1)))

/-- Tag of a new host read; none while 768 are outstanding (R406). -/
def freeTag (s : State) : Option Nat := (List.range 768).find? (fun t => !s.mem.hostRd.any (fun r => r.tag == t))

/-- A read of host memory with the Requester ID of function `f` (R420). -/
def hostRead (s : State) (f tag : Nat) (addr : W64) (len : Nat) (o : Owner) : State :=
  { s with mem := { s.mem with hostRd := s.mem.hostRd ++ [⟨tag, addr, len, o, f⟩] } }

/-- What the device posts to the host goes out in order (R414). -/
def post (s : State) (o : HostOut) : State := { s with host := { s.host with posted := s.host.posted ++ [o] } }

/-- A posted write to host memory by function `f`. -/
def hostWrite (s : State) (f : Nat) (addr : W64) (bs : List Byte) : State :=
  (post s (.write f addr bs)).bumpHub 5 2 bs.length

/-- Vectors of a function's MSI-X table (R419). -/
def msixTable (f : Nat) : Nat := if f = 0 then 2048 else 64

def HostFn.vec (h : HostFn) (v : Nat) : MsixVec := tget MsixVec.dflt h.vecs v

/-- A message of the vector may go out: MSI-X enabled, neither function nor vector masked, and a stream that covers it where IDE is
required (R419, R409). A capability that is not enabled sends nothing (PRESUMED: the PCIe specification; log 98). -/
def msixOpen (s : State) (f v : Nat) : Bool :=
  let h := s.fn f
  h.msixEn && !h.msixMask && !(h.vec v).mask && ideOk s (h.vec v).addr 4

/-- A vector of a function is raised (R414, R419): the message goes out, or its pending bit is set. A vector beyond the table is none
(log 98). -/
def msix (s : State) (f v : Nat) : State :=
  let h := s.fn f
  if msixTable f ≤ v then s
  else if msixOpen s f v then post s (.msix f v (h.vec v).addr (h.vec v).data)
  else s.setFn f { h with pba := if h.pba.contains v then h.pba else h.pba ++ [v] }

/-- Pending vectors of a function that may go out do (R419). -/
def msixPump (s : State) (f : Nat) : State :=
  (s.fn f).pba.foldl (fun s v =>
    if msixOpen s f v then msix (s.setFn f { s.fn f with pba := (s.fn f).pba.filter (· != v) }) f v else s) s

/-- Requesters that may use transaction entries (R129): faces of the control core kind, caravans, DMA. -/
inductive EntryClass where
  | cc
  | caravan
  | dma
  deriving DecidableEq, Repr

def Req.cls : Req → EntryClass
  | .thread .. => .caravan
  | _ => .cc

/-- The class of the zero-length read behind a face's stores: that of the face. -/
def fenceCls (face : Nat) : EntryClass := if face = 1 then .caravan else .cc

/-- Zero-length reads of a class that are open (R251). -/
def fencesOpen (s : State) (k : Nat) (c : EntryClass) : Nat :=
  (s.mem.hostRd.filter (fun r => match r.owner with
    | .fence j face _ => j == k && decide (fenceCls face = c)
    | .dmaFence j _ => j == k && decide (c = .dma)
    | _ => false)).length

/-- Entries a class uses: distinct entries of its accesses, or the DMA requests of the core's queue, and its zero-length reads.
Write-backs count with the control core (R129 names no class for them; log 88). A posted write has no response: its entry is free as
soon as it has left (log 99). -/
def entriesUsed (s : State) (k : Nat) (c : EntryClass) : Nat :=
  let x := s.core k
  fencesOpen s k c + (match c with
  | .dma => (x.dma.queue.map (fun q => q.reqs.length)).foldl (· + ·) 0
  | _ => (((x.acc.filter (fun a => decide (a.req.cls = c))).map Access.entry).eraseDups).length +
    (if c = .cc then (s.mem.fab.filter (fun t => t.owner == .wb k)).length else 0))

def reserved (c : EntryClass) : Nat := if c = .cc then 32 else 64

/-- R129: a requester first takes its reserved entries, then shared ones. -/
def entryFree (s : State) (k : Nat) (c : EntryClass) : Bool :=
  let beyond (d : EntryClass) : Nat := entriesUsed s k d - reserved d
  decide (entriesUsed s k c < reserved c) || decide (beyond .cc + beyond .caravan + beyond .dma < 96)

def EntryWho.cls : EntryWho → EntryClass
  | .req r => r.cls
  | .dma _ => .dma
  | .wb _ => .cc
  | .fence face => fenceCls face

/-- An entry is free for a requester, and nobody who has waited longer could take one (R130). -/
def mayEnter (s : State) (k : Nat) (w : EntryWho) : Bool :=
  entryFree s k w.cls && ((s.core k).entryQ.takeWhile (· != w)).all (fun v => !entryFree s k v.cls)

/-- A requester begins to wait for an entry, or goes on waiting; and waits no longer. -/
def waitEntry (s : State) (k : Nat) (w : EntryWho) : State :=
  s.updCore k (fun c => { c with entryQ := if c.entryQ.contains w then c.entryQ else c.entryQ ++ [w] })

def leaveEntry (s : State) (k : Nat) (w : EntryWho) : State :=
  if (s.core k).entryQ.contains w then s.updCore k (fun c => { c with entryQ := c.entryQ.filter (· != w) }) else s

/-- A write of core `k` behind its caches to another module's line: sent where it has an entry, else it waits for one (R130). -/
def sendWbFor (s : State) (n k : Nat) (pa : W64) (mask : Nat) (bs : Bytes) (poison : Nat) : State :=
  let (id, s) := s.newId
  if mayEnter s k (.wb id) then fabSendFor s n k (freeEntry s k) (.wb k) true pa mask bs poison
  else waitEntry (s.updCore k (fun c => { c with wbs := c.wbs ++ [⟨id, pa, mask, bs, poison, n⟩] })) k (.wb id)

/-- The same of the context that holds the core. -/
def sendWb (s : State) (k : Nat) (pa : W64) (mask : Nat) (bs : Bytes) (poison : Nat) : State := sendWbFor s (ctxOf s k) k pa mask bs poison

/-- The write-backs that wait take the entries that have come free, oldest first. -/
def retryWb (s : State) (k : Nat) : State :=
  (s.core k).wbs.foldl (fun s w =>
    if mayEnter s k (.wb w.id) then
      let s := fabSendFor s w.ctx k (freeEntry s k) (.wb k) true w.pa w.mask w.bytes w.poison
      leaveEntry (s.updCore k (fun c => { c with wbs := c.wbs.filter (fun x => x.id != w.id) })) k (.wb w.id)
    else s) s

/-- The face of a requester, or its channel, as R272 counts them: 0 control core, 1 caravans, 2 and 3 the channels. -/
def Req.faceNo : Req → Nat
  | .thread .. => 1
  | .chan ch => 2 + ch
  | _ => 0

/-- SOURCE, CARAVAN and the lanes of the instruction of a host store (R133), among the stores `xs` of the core. -/
def HostStore.source (h : HostStore) (xs : List HostStore) : Nat × Nat × List Nat :=
  match h.req with
  | .thread v _ => (1, v, (List.range 32).filter (fun l => xs.any (fun x => x.req == .thread v l && x.pc == h.pc)))
  | .chan _ => (3, 0, [])
  | _ => (0, 0, [])

/-- A zero-length read behind the last host store of a face, where none covers it yet (R251, R272). It takes an entry as any request
does, or waits for one (R129, R130). One that no secure stream covers is not sent: a protection fault (R409, R421). -/
def fenceFace (s : State) (k face : Nat) : State :=
  let none' (s : State) : State := leaveEntry s k (.fence face)
  match ((s.core k).hostSt.filter (fun h => h.req.faceNo == face)).getLast? with
  | none => none' s
  | some h =>
    if s.mem.hostRd.any (fun r => r.owner == .fence k face h.id) then none' s
    else if !ideOk s h.addr 0 then
      let (src, v, ls) := h.source (s.core k).hostSt
      let s := (none' s).updCore k (fun c => { c with hostSt := c.hostSt.filter (fun h => h.req.faceNo != face) })
      faultCore s k 5 src v (ls.headD 0) (maskOf ls) h.pc h.va
    else if !mayEnter s k (.fence face) then waitEntry s k (.fence face)
    else match freeTag s with
      | some t => hostRead (none' s) (fnOf s (ctxOf s k)) t h.addr 0 (.fence k face h.id)
      | none => none' s

/-- Zero-length reads that waited for an entry go out as entries come free. -/
def retryFence (s : State) (k : Nat) : State :=
  ((s.core k).entryQ.filterMap (fun w => match w with | .fence f => some f | _ => none)).foldl (fun s f => fenceFace s k f) s

/-- The read of a face has returned: its host stores before the read are performed (R251). -/
def fenceBack (s : State) (k face id : Nat) : State :=
  wakeCore (retryFence (s.updCore k (fun c => { c with hostSt := c.hostSt.filter (fun h => !(h.req.faceNo == face && decide (h.id ≤ id))) })) k) k

end Sys2Proof.Machine
end

