-- ==== Sys2Proof/Machine/Coherence.lean ====
section
/-!
DEFINITION. Caches and the coherent contents of this module's HBM (11): lines, replacement, what a cluster does to its own
L1s and L2, and the one view that the module's own readers and writers share (R259).
-/
namespace Sys2Proof.Machine

/-- Key of a line in the caches: PA[38:8] for this module's HBM, a number above 2^56 for another module's line. -/
def lineKey (s : State) (pa : W64) : Nat := if isLocalHbm s pa then fld pa 38 8 else 2 ^ 56 + pa.toNat / 256

/-- Physical address of a line key. -/
def keyPa (key : Nat) : W64 :=
  if key < 2 ^ 56 then at_ 44 0xFFFFF ||| BitVec.ofNat 64 (key * 256) else BitVec.ofNat 64 ((key - 2 ^ 56) * 256)

def isRem (key : Nat) : Bool := decide (2 ^ 56 ≤ key)

/-- Home die of a line of this module (R1, R250). -/
def homeOf (line : Nat) : Nat := line / 2 ^ 29 % 4

/-- Stack of a line, as the sub-event bit of its home die (R485). -/
def stackBit (line : Nat) : Nat := 2 ^ (line / 2 ^ 28 % 2)

/-- Set and ways of the structures of R276. -/
def l1Set (key : Nat) : Nat := key % 64
def l2Set (key : Nat) : Nat := (key % 1024) ^^^ (key / 1024 % 1024)
def dirSet (line : Nat) : Nat := (line % 65536) ^^^ (line / 65536 % 65536)

/-- Position of a line in a cache of `ways` ways, in its set. -/
def Cache.find (c : Cache) (ways set key : Nat) : Option Nat :=
  ((List.range ways).map (ways * set + ·)).find? (fun p =>
    match tfind c.lines p with
    | some l => l.line == key && decide (l.st ≠ LineState.i)
    | none => false)

def CLine.dflt : CLine := ⟨0, .i, [], 0⟩

def Cache.get (c : Cache) (p : Nat) : CLine := tget CLine.dflt c.lines p

/-- Point the replacement bits away from a way (R278). -/
def Cache.touch (c : Cache) (k ways p : Nat) : Cache :=
  { c with plru := tset 0 c.plru (p / ways) (plruTouch k 0 (p % ways) (tget 0 c.plru (p / ways))) }

/-- A hit of a line (R278). -/
def Cache.used (c : Cache) (k ways set key : Nat) : Cache :=
  match c.find ways set key with
  | some p => c.touch k ways p
  | none => c

def Cache.put (c : Cache) (p : Nat) (l : CLine) : Cache :=
  { c with lines := if l.st = LineState.i then tdel c.lines p else tput c.lines p l }

/-- The position a new line takes (R278): the lowest invalid way in service, else the pseudo-LRU one. None where no way is in
service. -/
def Cache.victim (c : Cache) (k ways set : Nat) : Option Nat :=
  let elig (w : Nat) : Bool := !c.out.contains w && (tfind c.leaving w).isNone
  let empty (w : Nat) : Bool := decide ((c.get (ways * set + w)).st = LineState.i)
  match (List.range ways).find? (fun w => elig w && empty w) with
  | some w => some (ways * set + w)
  | none =>
    if (List.range ways).any elig then some (ways * set + plruVictim k 0 0 (tget 0 c.plru set) elig) else none

def coresOf (c : Nat) : List Nat := (List.range 8).map (8 * c + ·)

def l1Line (s : State) (k key : Nat) : Option CLine :=
  let c := (s.core k).l1
  (c.find 8 (l1Set key) key).map c.get

def l2Line (s : State) (c key : Nat) : Option CLine :=
  let x := (s.cluster c).l2
  (x.find 16 (l2Set key) key).map x.get

namespace State

def updL1 (s : State) (k : Nat) (f : Cache → Cache) : State := s.updCore k (fun c => { c with l1 := f c.l1 })

def updL2 (s : State) (c : Nat) (f : Cache → Cache) : State := s.setCluster c { s.cluster c with l2 := f (s.cluster c).l2 }

end State

/-- Change a line that a cache holds. -/
def Cache.upd (c : Cache) (ways set key : Nat) (f : CLine → CLine) : Cache :=
  match c.find ways set key with
  | some p => c.put p (f (c.get p))
  | none => c

def updL1Line (s : State) (k key : Nat) (f : CLine → CLine) : State := s.updL1 k (fun c => c.upd 8 (l1Set key) key f)

def updL2Line (s : State) (c key : Nat) (f : CLine → CLine) : State := s.updL2 c (fun x => x.upd 16 (l2Set key) key f)

/-- A hit of the core's L1, and of the cluster's L2 (R278). -/
def usedL1 (s : State) (k key : Nat) : State := s.updL1 k (fun c => c.used 3 8 (l1Set key) key)

def usedL2 (s : State) (c key : Nat) : State := s.updL2 c (fun x => x.used 4 16 (l2Set key) key)

/-- HBM sector `q` of a line, and its poison bit (R295). -/
def hbmSector (s : State) (line q : Nat) : W512 := BitVec.ofNat 512 (mread s.mem.hbm (256 * line + 64 * q) 64)

def storedPoison (s : State) (line q : Nat) : Bool := s.mem.poison.contains (4 * line + q) != s.mem.badUnits.contains (line / 2 ^ 22)

/-- The channel of a line (R302), numbered as R463 gives. -/
def channelOf (line : Nat) : Nat := 32 * (line / 2 ^ 28) + ((line % 32) ^^^ (line / 32 % 32))

/-- A channel out of service reads every sector of its lines as poisoned (R466). -/
def hbmPoison (s : State) (line q : Nat) : Bool :=
  storedPoison s line q || (!s.rel.units.isEmpty && unitSt s .channel (channelOf line) == .outOfService)

def setPoison (s : State) (line q : Nat) (p : Bool) : State :=
  let rest := s.mem.poison.filter (· != 4 * line + q)
  { s with mem := { s.mem with poison := if p != s.mem.badUnits.contains (line / 2 ^ 22) then (4 * line + q) :: rest else rest } }

/-- The one writer of HBM bytes. -/
def hbmWrite (s : State) (off n v : Nat) : State := { s with mem := { s.mem with hbm := mwrite s.mem.hbm off n v } }

def hbmPutSector (s : State) (line q : Nat) (x : Sector) : State :=
  setPoison (hbmWrite s (256 * line + 64 * q) 64 x.data.toNat) line q x.poison

/-- Store bytes by line offset. -/
def hbmBytes (s : State) (line : Nat) (bs : Bytes) : State :=
  bs.foldl (fun s b => hbmWrite s (256 * line + b.1) 1 b.2.toNat) s

/-- Bytes of a sector by line offset. -/
def sectorBytes (q : Nat) (x : W512) : Bytes := (List.range 64).map (fun i => (64 * q + i, byteOf x i))

/-- Sector `q` as the bytes by line offset give it. -/
def sectorOf (bs : Bytes) (q : Nat) : W512 := BitVec.ofNat 512 (leNat ((List.range 64).map (fun i => byteIn bs (64 * q + i))))

def poisonMask (xs : Tbl Sector) : Nat := ((xs.filter (fun e => e.2.poison)).map (fun e => 2 ^ e.1)).foldl (· + ·) 0

def sectorsMask (xs : Tbl Sector) : Nat := (xs.map (fun e => 2 ^ e.1)).foldl (· + ·) 0

/-- An open fill of a remote-attribute line brings data that are stale by now: they are not installed (R157, R258; log 89). -/
def voidFill (s : State) (c key : Nat) : State :=
  let x := s.cluster c
  if isRem key && x.open_.any (fun o => o.1 == key) && !x.stale.contains key then s.setCluster c { x with stale := x.stale ++ [key] }
  else s

/-- A write-back of core `k` to a line of another module is on its way, or waits for an entry (R258). -/
def wbOpen (s : State) (k key : Nat) : Bool :=
  isRem key && (s.mem.fab.any (fun t => t.owner == .wb k && (fld t.pkt.w1 39 0) / 256 == (fld (keyPa key) 39 0) / 256 &&
    fld t.pkt.w0 63 44 == paNode (keyPa key)) || (s.core k).wbs.any (fun w => w.pa == keyPa key))

/-- The same of any core of a cluster: a fill of the line would bring the bytes that it overwrites (log 89). -/
def clusterWb (s : State) (c key : Nat) : Bool := isRem key && (coresOf c).any (fun k => wbOpen s k key)

/-- Write a dirty sector of a remote-attribute line back to its home module (R258, R281); the L2's copy takes the bytes. -/
def flushSector (s : State) (k key q : Nat) : State :=
  match l1Line s k key with
  | none => s
  | some l =>
    match tfind l.sec q with
    | none => s
    | some x =>
      if !x.dirty then s
      else
        let bs := (sectorBytes q x.data).filter (fun b => bit x.mask (b.1 % 64))
        let s := updL1Line s k key (fun l => { l with sec := tput l.sec q { x with dirty := false, mask := 0 } })
        let s := updL2Line s (clusterOf k) key (fun l2 =>
          match tfind l2.sec q with
          | some y => { l2 with sec := tput l2.sec q { y with
              data := bs.foldl (fun d b => setByte d (b.1 % 64) b.2) y.data, poison := y.poison || x.poison } }
          | none => l2)
        sendWb (voidFill s (clusterOf k) key) k (keyPa key) (2 ^ q) bs (if x.poison then 2 ^ q else 0)

def flushLine (s : State) (k key : Nat) : State := (List.range 4).foldl (fun s q => flushSector s k key q) s

/-- Take the dirty sectors of a W copy into the cluster's L2 (R285). -/
def mergeUp (s : State) (k key : Nat) : State :=
  match l1Line s k key with
  | none => s
  | some l =>
    let dirty := l.sec.filter (fun e => e.2.dirty)
    let s := updL2Line s (clusterOf k) key (fun x =>
      { x with
        sec := dirty.foldl (fun t e => tput t e.1 e.2) x.sec
        st := if dirty.isEmpty then x.st else .m })
    updL1Line s k key (fun l => { l with sec := l.sec.map (fun e => (e.1, { e.2 with dirty := false })) })

/-- Discard a line from one L1: dirty bytes go to the L2 (W) or to the home module (REM). -/
def dropL1 (s : State) (k key : Nat) : State :=
  match l1Line s k key with
  | none => s
  | some l =>
    let s := match l.st with
      | .w => mergeUp s k key
      | .rem => flushLine s k key
      | _ => s
    let s := updL1Line s k key (fun l => { l with st := LineState.i })
    updL2Line s (clusterOf k) key (fun x => { x with shar := setBit x.shar (k % 8) false })

/-- A W copy becomes a readable one (R282). -/
def downgradeL1 (s : State) (k key : Nat) : State :=
  match l1Line s k key with
  | some l => if l.st = LineState.w then updL1Line (mergeUp s k key) k key (fun l => { l with st := .s }) else s
  | none => s

def dropOthers (s : State) (c key keep : Nat) : State :=
  (coresOf c).foldl (fun s j => if j = keep then s else dropL1 s j key) s

def dropAllL1 (s : State) (c key : Nat) : State := (coresOf c).foldl (fun s j => dropL1 s j key) s

/-- Put a message in flight. -/
def sendMsg (s : State) (m : Msg) : State := { s with mem := { s.mem with msgs := s.mem.msgs ++ [m] } }

def Msg.bare (kind : MsgKind) (who : Agent) (line : Nat) : Msg := ⟨kind, who, line, 0, [], 0, 0, 0, 0, 0⟩

def agentL2 (c : Nat) : Agent := .l2 (Fin.ofNat _ c)

/-- The dirty sectors of a line of the L2, with the bytes and poison that a message carries. -/
def dirtyLoad (l : CLine) (mask : Nat) : Nat × Bytes × Nat :=
  let ds := l.sec.filter (fun e => e.2.dirty && mask / 2 ^ e.1 % 2 == 1)
  (sectorsMask ds, ds.flatMap (fun e => sectorBytes e.1 e.2.data), poisonMask ds)

/-- The L2 gives up a line (R285): L1 copies first, then WB, EVC, or nothing for a REM line. With `discard` no sector is
written back (R175). -/
def releaseL2 (s : State) (c key : Nat) (discard : Bool) : State :=
  let s := if discard then
      (coresOf c).foldl (fun s j => updL1Line s j key (fun l => { l with st := LineState.i })) s
    else dropAllL1 s c key
  match l2Line s c key with
  | none => s
  | some l =>
    let s := updL2Line s c key (fun l => { l with st := LineState.i })
    let (mask, bs, poison) := if discard then (0, [], 0) else dirtyLoad l 0xF
    match l.st with
    | .s => sendMsg s (Msg.bare .evc (agentL2 c) key)
    | .e => sendMsg s { Msg.bare .wb (agentL2 c) key with mask := mask, bytes := bs, poison := poison }
    | .m => (sendMsg s { Msg.bare .wb (agentL2 c) key with mask := mask, bytes := bs, poison := poison }).bumpCluster c 3 0xFFFF 1
    | _ => s

/-- The position that a new line takes in the L2. -/
def victimL2 (s : State) (c key : Nat) : Option Nat := (s.cluster c).l2.victim 4 16 (l2Set key)

/-- The L2 holds the line or has a way for it; until then a grant waits (R278). -/
def roomL2 (s : State) (c key : Nat) : Bool := (l2Line s c key).isSome || (victimL2 s c key).isSome

/-- Make room for a line in the L2 and put it there, or leave the state as it is where no way is eligible. -/
def placeL2 (s : State) (c key : Nat) (l : CLine) : State :=
  match victimL2 s c key with
  | none => s
  | some p =>
    let old := (s.cluster c).l2.get p
    let s := if old.st = LineState.i then s else releaseL2 s c old.line false
    s.updL2 c (fun x => (x.put p l).touch 4 16 p)

/-- The L1 takes a sector of a line that its L2 holds, in state `st` where it is new (R277). -/
def fillL1 (s : State) (k key q : Nat) (st : LineState) (x : Sector) : State :=
  let s := match l1Line s k key with
    | some _ => updL1Line s k key (fun l => { l with sec := tput l.sec q x })
    | none =>
      match (s.core k).l1.victim 3 8 (l1Set key) with
      | none => s
      | some p =>
        let old := (s.core k).l1.get p
        let s := if old.st = LineState.i then s else dropL1 s k old.line
        s.updL1 k (fun c => c.put p ⟨key, st, [(q, x)], 0⟩)
  let s := usedL1 s k key
  updL2Line s (clusterOf k) key (fun l => { l with shar := setBit l.shar (k % 8) true })

/-- The newest copy of a sector that the module holds (R259): the owner's, one on its way to the home, or HBM's. -/
def cohSector (s : State) (line q : Nat) : Sector :=
  let owner := (List.range 32).find? (fun c => match l2Line s c line with
    | some l => l.st == .e || l.st == .m
    | none => false)
  let inHome : Sector :=
    match s.mem.msgs.find? (fun m => m.line == line && (m.kind == .wb || m.kind == .fwdData) && m.mask / 2 ^ q % 2 == 1) with
    | some m => ⟨sectorOf m.bytes q, true, m.poison / 2 ^ q % 2 == 1, 0⟩
    | none => ⟨hbmSector s line q, false, hbmPoison s line q, 0⟩
  match owner with
  | none => inHome
  | some c =>
    let inL1 := (coresOf c).find? (fun k => match l1Line s k line with
      | some l => match tfind l.sec q with
        | some x => x.dirty
        | none => false
      | none => false)
    match inL1 with
    | some k => match l1Line s k line with
      | some l => tget ⟨0, false, false, 0⟩ l.sec q
      | none => inHome
    | none => match l2Line s c line with
      | some l => match tfind l.sec q with
        | some x => x
        | none => inHome
      | none => inHome

/-- Byte of this module's HBM as its own agents read it. -/
def cohByte (s : State) (off : Nat) : Byte := byteOf (cohSector s (off / 256) (off / 64 % 4)).data (off % 64)

def cohRead (s : State) (off n : Nat) : List Byte := (List.range n).map (fun i => cohByte s (off + i))

/-- An 8-byte word, which mostly lies in one sector. -/
def cohWord (s : State) (off : Nat) : W64 :=
  if off % 64 ≤ 56 then BitVec.ofNat 64 ((cohSector s (off / 256) (off / 64 % 4)).data.toNat / 256 ^ (off % 64))
  else BitVec.ofNat 64 (leNat (cohRead s off 8))

def cohPoison (s : State) (off : Nat) : Bool := (cohSector s (off / 256) (off / 64 % 4)).poison

def patchSectors (xs : Tbl Sector) (q i : Nat) (b : Byte) : Tbl Sector :=
  match tfind xs q with
  | some x => tput xs q { x with data := setByte x.data i b }
  | none => xs

def patchCache (c : Cache) (line q i : Nat) (b : Byte) : Cache :=
  { c with lines := c.lines.map (fun e =>
      if e.2.line = line ∧ e.2.st ≠ LineState.i then (e.1, { e.2 with sec := patchSectors e.2.sec q i b }) else e) }

/-- Whether a message carries data of HBM on its way to or from a cache. -/
def MsgKind.holdsData : MsgKind → Bool
  | .wb => true
  | .fwdData => true
  | .dataS => true
  | .dataE => true
  | .dataX => true
  | _ => false

/-- A write by an agent of the hub die itself (completion records, save areas, trace, zeroing): it takes its place in the
coherence order at once, in every copy the module holds (log 9). -/
def cohPut (s : State) (off : Nat) (b : Byte) : State :=
  let line := off / 256
  let q := off / 64 % 4
  let i := off % 64
  let s := hbmWrite s off 1 b.toNat
  { s with
    cores := s.cores.map (fun e => (e.1, { e.2 with l1 := patchCache e.2.l1 line q i b }))
    mem := { s.mem with
      clusters := s.mem.clusters.map (fun e => (e.1, { e.2 with l2 := patchCache e.2.l2 line q i b }))
      msgs := s.mem.msgs.map (fun m =>
        if m.line = line ∧ m.kind.holdsData ∧ m.mask / 2 ^ q % 2 = 1 then { m with bytes := tput m.bytes (off % 256) b } else m) } }

def cohWrite (s : State) (off : Nat) : List Byte → State
  | [] => s
  | b :: r => cohWrite (cohPut s off b) (off + 1) r

end Sys2Proof.Machine
end

