-- ==== Sys2Proof/Machine/Upstream.lean ====
section
/-!
DEFINITION. Whose beacon a module follows (14 R360, R363, R367, R368): the candidates and their ranks, and what follows when the upstream
is lost.
-/
namespace Sys2Proof.Machine

/-- KEY_DIGEST of R359: the first 56 bits of the identity digest, little-endian as every field is (R24). -/
def keyDigestOf (d : BitVec 256) : BitVec 56 := d.setWidth 56

/-- A module's own key (R360). -/
def ownKey (s : State) : Nat := s.bcn.prio.toNat * 2 ^ 56 + (keyDigestOf s.sec.digest).toNat

/-- The keeper that a key names: a keeper keeps its identity when its priority changes (R359). -/
def keeperOf (key : Nat) : Nat := key % 2 ^ 56

/-- A candidate of R360: its port, the keeper's key, and the offset it would give. -/
structure Cand where
  port : Nat
  key : Nat
  offset : Nat
  depth : Nat
  deriving DecidableEq, Repr

/-- The last frame of a port, where R360 accepts it. -/
def candOf (x : Port) (p : Nat) : Option Cand :=
  match x.cand with
  | none => none
  | some (w0, _, w2, _) =>
    if (x.st = .activeM ∨ x.st = .active) ∧ fld w2 23 22 ≤ 1 ∧ !bit w2 21 then
      some ⟨p, w0.toNat, fld w2 63 32 + x.hop, fld w2 31 24 + 1⟩
    else none

def candidates (s : State) : List Cand := s.fab.ports.filterMap (fun e => candOf e.2 e.1)

/-- R360: the ranking of candidates. -/
def candLt (a b : Cand) : Bool :=
  decide (a.key < b.key) || (a.key == b.key && (decide (a.offset < b.offset) || (a.offset == b.offset && decide (a.port < b.port))))

def bestOf (l : List Cand) : Option Cand :=
  l.foldl (fun (b : Option Cand) c => match b with
    | none => some c
    | some x => if candLt c x then some c else some x) none

/-- A candidate that the module follows rather than stand as keeper (R360): priority 0xFF offers nothing while one exists. -/
def beatsOwn (s : State) (c : Cand) : Bool := decide (c.key < ownKey s) || s.bcn.prio == 0xFF#8

/-- A candidate of the keeper that the module follows (R368). -/
def Cand.same (s : State) (c : Cand) : Bool := keeperOf c.key == s.bcn.keyDigest.toNat

/-- Take the beacon from a candidate; the keeper's key comes with it. Misses in a row are counted on while the upstream stays (R368). -/
def follow (s : State) (c : Cand) : State :=
  let changed := s.bcn.up != some c.port
  { s with
    bcn := { s.bcn with
      up := some c.port, depth := min 255 c.depth, offset := c.offset % 2 ^ 32, misses := if changed then 0 else s.bcn.misses
      keyPrio := BitVec.ofNat 8 (c.key / 2 ^ 56), keyDigest := BitVec.ofNat 56 c.key
      lost := s.bcn.lost && !changed, sym := if changed then none else s.bcn.sym }
    stamps := { s.stamps with upChanges := if changed then holdInc 0xFFFFFFFF s.stamps.upChanges else s.stamps.upChanges } }

/-- Take the beacon from a module of another keeper (R367): ACQUIRE. -/
def followKeeper (s : State) (c : Cand) : State :=
  let s := follow s c
  { s with
    bcn := { s.bcn with st := .acquire, goodEdges := 0, offEdges := 0, holdPeriods := 0 }
    stamps := { s.stamps with keeperChanges := holdInc 0xFFFFFFFF s.stamps.keeperChanges } }

/-- Stand as keeper (R360, R368): the beacon numbers go on. -/
def standKeeper (s : State) : State :=
  if s.bcn.st = .keeper then s
  else
    { s with
      bcn := { s.bcn with
        st := .keeper, up := none, depth := 0, offset := 0, misses := 0, offEdges := 0, goodEdges := 0, holdPeriods := 0, lost := false, sym := none
        keyPrio := s.bcn.prio, keyDigest := keyDigestOf s.sec.digest }
      stamps := { s.stamps with
        upChanges := holdInc 0xFFFFFFFF s.stamps.upChanges
        keeperChanges := holdInc 0xFFFFFFFF s.stamps.keeperChanges } }

/-- R360: candidates are ranked again on every frame. A keeper changes only at the next beacon, the upstream at once and only for a
strictly better rank, which any candidate has over an upstream that is none; an upstream that is lost is left at the next edge (R368). -/
def reRank (s : State) : State :=
  match bestOf (candidates s) with
  | none => s
  | some b =>
    let later : State := { s with bcn := { s.bcn with changeKeeper := true } }
    if !beatsOwn s b then (if s.bcn.st = .keeper then s else later)
    else if !b.same s then later
    else match s.bcn.st with
      | .keeper => s
      | .holdover =>
        let s := follow s b
        { s with bcn := { s.bcn with st := .locked, goodEdges := 0, offEdges := 0, holdPeriods := 0 } }
      | _ => match s.bcn.up.bind (fun p => candOf (s.port p) p) with
        | some c => if b.port = c.port ∨ candLt b c then follow s b else s
        | none => if s.bcn.lost then s else follow s b

/-- Action of an edge: a change of keeper that a frame has asked for (R360). -/
def changeKeeperNow (s : State) : State :=
  if !s.bcn.changeKeeper then s
  else
    let s := { s with bcn := { s.bcn with changeKeeper := false } }
    match bestOf (candidates s) with
    | none => s
    | some b =>
      if !beatsOwn s b then standKeeper s
      else if !b.same s then followKeeper s b
      else s

/-- The best candidate of the same keeper beside the upstream itself (R368). -/
def spareUp (s : State) : Option Cand := bestOf ((candidates s).filter (fun c => c.same s && some c.port != s.bcn.up))

/-- HOLDOVER: the module has no upstream (R368, log 39). -/
def holdOver (s : State) : State :=
  { s with bcn := { s.bcn with st := .holdover, up := none, holdPeriods := 0, misses := 0, lost := false, sym := none } }

/-- The upstream is lost (R368): the next edge moves to another of the same keeper; without one the module is in HOLDOVER. -/
def loseUpstream (s : State) : State :=
  match s.bcn.st with
  | .keeper => s
  | .holdover => s
  | _ => if (spareUp s).isSome then { s with bcn := { s.bcn with lost := true } } else holdOver s

/-- Port `p` carries no symbols of an upstream any more (R368): it has left ACTIVE_M and ACTIVE. -/
def upstreamLeft (s : State) (p : Nat) : State :=
  if s.bcn.up = some p ∧ (s.port p).st ≠ .activeM ∧ (s.port p).st ≠ .active then loseUpstream s else s

/-- Action of an edge: the move to another upstream of the same keeper (R368). -/
def moveUpstream (s : State) : State :=
  if !s.bcn.lost then s
  else match spareUp s with
    | some c => follow s c
    | none => holdOver s

/-- The offset is the upstream's OFFSET plus the hop delay of its port (R363). -/
def reOffset (s : State) : State :=
  match s.bcn.up with
  | none => s
  | some p => match (s.port p).cand with
    | some (_, _, w2, _) => { s with bcn := { s.bcn with offset := (fld w2 63 32 + (s.port p).hop) % 2 ^ 32 } }
    | none => s

end Sys2Proof.Machine
end

