-- ==== Sys2Proof/Machine/Ports.lean ====
section
/-!
DEFINITION. What the switch shares (13): the routes of a packet (R343–R345), the changes of a port's state (R333, R350,
R352), and the events that the switch sends to the fabric manager or keeps for it (R351).
-/
namespace Sys2Proof.Machine

def PortState.code : PortState → Nat
  | .disabled => 0
  | .down => 1
  | .train => 2
  | .hello => 3
  | .secure => 4
  | .range => 5
  | .activeM => 6
  | .active => 7
  | .retrain => 8
  | .width => 9

def pkDst (p : Packet) : Nat := fld p.w0 63 44
def pkSrc (p : Packet) : Nat := fld p.w0 43 24
def pkVc (p : Packet) : Nat := fld p.w0 23 21
def pkTc (p : Packet) : Nat := fld p.w0 20 19
def pkType (p : Packet) : Nat := fld p.w0 18 13
def pkHops (p : Packet) : Nat := fld p.w0 6 1
def pkOff (p : Packet) : Nat := fld p.w1 39 0
def pkTxn (p : Packet) : Nat := fld p.w3 63 48
def pkMask (p : Packet) : Nat := fld p.w3 47 44
def pkPoison (p : Packet) : Nat := fld p.w3 41 38
def pkStatus (p : Packet) : Nat := fld p.w3 37 35
def pkPathed (p : Packet) : Bool := pkDst p == 0xFFFFE

/-- Units of a packet by its header (R336, R337). -/
def packetLen (w0 : W64) : Nat := 4 + fld w0 12 7

def pkUnits (p : Packet) : List W64 := [p.w0, p.w1, p.w2, p.w3] ++ p.body

namespace State

def updPort (s : State) (p : Nat) (f : Port → Port) : State := s.setPort p (f (s.port p))

/-- Count in a port's error counters (R504): 0 reserved fields, 1 routes, 2 bad flits, 3 replays, 4 tag failures. Key 32
counts for the endpoint. -/
def portErr (s : State) (p i : Nat) : State :=
  s.updPort p (fun x => { x with errs := x.errs.set i (holdInc 0xFFFFFFFF (x.errs.getD i 0)) })

end State

/-- Where a switch sends a packet: to its endpoint, to a port (with the header as it leaves), or nowhere; `kind` is the
counter of R504. -/
inductive Hop where
  | endpoint
  | port (p : Nat) (pkt : Packet)
  | drop (kind : Nat)
  deriving DecidableEq, Repr

/-- A port that can carry a packet now (R344). -/
def portCarries (s : State) (p : Nat) (pkt : Packet) : Bool :=
  match (s.port p).st with
  | .active => true
  | .activeM => pkTc pkt == 2
  | _ => false

def hop1 (pkt : Packet) : Packet := { pkt with w0 := setFld pkt.w0 6 1 (pkHops pkt + 1) }

/-- R345: the input port goes over entry 0, the 12 entries turn by one place, PATH_LEN counts down. -/
def pathStep (w1 : W64) (input : Nat) : W64 :=
  at_ 60 (fld w1 63 60 - 1) ||| at_ 55 (input % 32) ||| at_ 0 (fld w1 59 5)

/-- Prefix match of a route entry (R344). -/
def routeMatch (e : W64) (dst : Nat) : Bool :=
  let len := fld e 43 39
  bit e 38 && decide (len ≤ 20) && fld e 63 44 / 2 ^ (20 - len) == dst / 2 ^ (20 - len)

/-- The longest valid match of the active table (R343). -/
def routeFind (s : State) (dst : Nat) : Option W64 :=
  ((s.fab.routes.map Prod.snd).filter (fun e => routeMatch e dst)).foldl (fun (b : Option W64) e => match b with
    | none => some e
    | some x => if fld x 43 39 < fld e 43 39 then some e else some x) none

/-- R343–R345; `input` 32 is the endpoint, `fill` what stands for its input port number in a path. -/
def routeOf (s : State) (input fill : Nat) (pkt : Packet) : Hop :=
  if pkHops pkt ≥ 63 ∧ !(pkDst pkt == s.fab.node.toNat || (pkPathed pkt && fld pkt.w1 63 60 == 0)) then .drop 1
  else if pkPathed pkt then
    let n := fld pkt.w1 63 60
    if 13 ≤ n then .drop 0
    else if n = 0 then .endpoint
    else
      let p := fld pkt.w1 4 0
      match (s.port p).st with
      | .disabled => .drop 1
      | .down => .drop 1
      | _ => .port p { hop1 pkt with w1 := pathStep pkt.w1 (if input = 32 then fill else input) }
  else if s.fab.node = 0xFFFFF#20 ∨ pkDst pkt = 0xFFFFF then .drop 1
  else if pkDst pkt = s.fab.node.toNat then .endpoint
  else match routeFind s (pkDst pkt) with
    | some e =>
      let ps := (List.range 32).filter (fun p => bit e p && p != input && portCarries s p pkt)
      let off := if pkType pkt = 5 ∨ pkType pkt = 6 then 0 else pkOff pkt / 256 % 2 ^ 20
      if ps.isEmpty then .drop 1
      else .port (ps.getD ((pkSrc pkt ^^^ pkDst pkt ^^^ off) % ps.length) 0) (hop1 pkt)
    | none =>
      let f := tget 0x80#8 s.fab.fallback input
      if bit f 7 || !portCarries s (fld f 4 0) pkt then .drop 1 else .port (fld f 4 0) (hop1 pkt)

/-- The packet of an event (R351): VC 0, TC management, TYPE 0x06, four units. -/
def eventPacket (s : State) (e : EventRec) : Packet where
  w0 := hdr0 s.fab.fmNode.toNat s.fab.node.toNat 0 2 6 4
  w1 := 0
  w2 := e.w1
  w3 := 0
  body := [e.w0, e.w1, e.w2, e.w3]

/-- Whether a packet of the endpoint reaches the fabric manager's node. -/
def fmReached (s : State) : Bool :=
  s.fab.fmNode != 0xFFFFF#20 &&
    (match routeOf s 32 0 (eventPacket s ⟨0, 0, 0, 0⟩) with | .drop _ => false | _ => true)

/-- Keep an event: the oldest of more than 64 is dropped and counted. -/
def keepEvent (s : State) (e : EventRec) : State :=
  let l := s.fab.kept ++ [e]
  if 64 < l.length then { s with fab := { s.fab with kept := l.drop 1, dropped := holdInc 0xFFFFFFFF s.fab.dropped } }
  else { s with fab := { s.fab with kept := l } }

/-- Send an event, or keep it while nothing reaches the fabric manager or older ones wait (R351). -/
def postRec (s : State) (e : EventRec) : State :=
  if fmReached s && s.fab.kept.isEmpty then { s with fab := { s.fab with epOut := s.fab.epOut ++ [eventPacket s e] } }
  else keepEvent s e

def eventW0 (kind port state peer : Nat) : W64 := at_ 56 kind ||| at_ 51 port ||| at_ 47 state ||| at_ 27 peer

/-- An event of R351 with its order stamp. -/
def postEvent (s : State) (kind port state peer : Nat) (w2 w3 : W64) : State :=
  let (st, s) := s.stamp
  postRec s ⟨eventW0 kind port state peer, st, w2, w3⟩

/-- A port event with the port's present state and peer. -/
def portEvent (s : State) (kind p : Nat) (w2 : W64) : State :=
  let x := s.port p
  postEvent s kind p x.st.code x.peerNode.toNat w2 0

/-- R351: the kept events go out, oldest first, after one that counts the dropped ones. -/
def flushEvents (s : State) : State :=
  if !fmReached s || (s.fab.kept.isEmpty && s.fab.dropped == 0) then s
  else
    let kept := s.fab.kept
    let n := s.fab.dropped
    let s := { s with fab := { s.fab with kept := [], dropped := 0 } }
    let s := if n = 0 then s else postEvent s 0x0D 0 0 0 (BitVec.ofNat 64 n) 0
    kept.foldl postRec s

/-- R351: EVENT_FLUSH, the moment a route to the fabric manager exists again. -/
def execEventFlush (s : State) : Out := .next (flushEvents s)

def PortState.carries : PortState → Bool
  | .activeM => true
  | .active => true
  | .width => true
  | _ => false

/-- A port leaves for DOWN, RETRAIN or DISABLED: its replay buffer, keys and link state are gone (R333, R352), and DATA is 0
when it leaves ACTIVE or ACTIVE_M (R350; from WIDTH and for DISABLED DEDUCED from R480). -/
def Port.drop (x : Port) (st : PortState) : Port :=
  { x with
    st := st
    width := 0
    groups := if st = .retrain then x.groups else 0
    retrains := if st = .disabled then x.retrains else holdInc 255 x.retrains
    ctrl := if x.st.carries then setBit x.ctrl 30 false else x.ctrl
    helloLast := none
    helloRun := 0
    cut := none
    link := LinkLayer.dflt
    probeAt := none
    cand := none }

/-- The packet that an output takes from port `p` cannot be completed (R336): it ends with zero units, in a flit that carries ABT. -/
def endCut (s : State) (p : Nat) : State :=
  match (s.port p).cut with
  | none => s
  | some (q, _, n) => s.updPort q (fun x =>
      match x.link.feed with
      | some f => if f.input ≠ p then x else
          let us := x.link.txUnits ++ List.replicate n 0
          { x with link := { x.link with txUnits := us, feed := none, abort := some (f.start, us.length) } }
      | none => x)

/-- A port stops (R333, R336, R352, R368). -/
def stopPort (s : State) (p : Nat) (st : PortState) : State := upstreamLeft ((endCut s p).updPort p (fun x => x.drop st)) p

/-- What is not acknowledged is sent again (R331, R334). -/
def LinkLayer.again (l : LinkLayer) : LinkLayer := { l with resend := if l.replay.isEmpty then none else some 0 }

/-- SECURE begins: slots are counted from here (R332), and the bundle goes out (R456). -/
def LinkLayer.secure (l : LinkLayer) : LinkLayer :=
  { l with slots := 0, epochAt := 0, epochTx := 0, epochRx := 0, prk := 0, keyed := false, text := unitsOf bundle, secret := none, proved := false }

/-- R335. -/
def portWord (s : State) (p : Nat) : W64 :=
  let x := s.port p
  at_ 60 x.st.code ||| at_ 58 x.width.toNat ||| at_ 54 x.groups.toNat ||| at_ 46 x.retrains ||| at_ 41 x.peerPort |||
    at_ 40 (b2n x.peerValid) ||| at_ 20 x.peerNode.toNat

/-- A change of a port's state with its event (R333, R351). At a new width it replays what is unacknowledged (R334). -/
def portEnters (s : State) (p : Nat) (st : PortState) : State :=
  match st with
  | .down => portEvent (stopPort s p .down) 3 p 0
  | .retrain => portEvent (stopPort s p .retrain) 5 p 0
  | .disabled => stopPort s p .disabled
  | .width =>
    upstreamLeft (portEvent (s.updPort p (fun x =>
      { x with back := if x.st = .width then x.back else x.st, st := .width, link := x.link.again })) 4 p
      (BitVec.ofNat 64 (s.port p).width.toNat)) p
  | .activeM => portEvent (s.updPort p (fun x => { x with st := .activeM })) 1 p 0
  | .active => portEvent (s.updPort p (fun x => { x with st := .active })) 2 p 0
  | .train => s.updPort p (fun x => { x with st := .train, alloc := x.allocNew })
  | .hello => s.updPort p (fun x => { x with st := .hello, helloLast := none, helloRun := 0 })
  | .secure => s.updPort p (fun x => { x with st := .secure, link := x.link.secure })
  | .range => s.updPort p (fun x => { x with st := .range, samples := [] })

/-- A change of a port's state, traced (R493) where the state is a new one. -/
def enterPort (s : State) (p : Nat) (st : PortState) : State :=
  let t := portEnters s p st
  if (s.port p).st = st then t else t.emit 4 0x0D p 0xFFF st.code (portWord t p) 0

def packetOf : List W64 → Option Packet
  | a :: b :: c :: d :: r => some ⟨a, b, c, d, r⟩
  | _ => none

/-- R338: a packet with a reserved type, class, status, length or field. -/
def packetBad (p : Packet) : Bool :=
  let t := pkType p
  let resp := t == 2 || t == 4
  t == 0 || decide (6 < t) || pkTc p == 3 || decide (36 < fld p.w0 12 7) || bit p.w0 0 || fld p.w3 34 0 != 0 ||
    (resp && decide (2 < pkStatus p)) || (!pkPathed p && fld p.w1 58 44 != 0)

/-- The packet of which only a part has arrived, its header with it (R342). -/
def arriving (x : Port) : Option Packet := if x.cut.isSome then none else (packetOf x.link.asm).filter (fun p => !packetBad p)

/-- Packets that wait at an input: of a port, or of the endpoint (32). -/
def inputQueue (s : State) (i : Nat) : List Packet := if i = 32 then s.fab.epOut else (s.port i).rx ++ (arriving (s.port i)).toList

/-- The first packet of each virtual channel of each input (R341: one VC of one input keeps its order). -/
def heads (s : State) : List (Nat × Packet) :=
  (s.fab.ports.map Prod.fst ++ [32]).flatMap (fun i =>
    (List.range 8).filterMap (fun v => ((inputQueue s i).find? (fun p => pkVc p == v)).map (fun p => (i, p))))

/-- The heads that leave on a port, as they leave; `fill` as in `routeOf`. -/
def headsFor (s : State) (fill q : Nat) : List (Nat × Packet) :=
  (heads s).filterMap (fun e => match routeOf s e.1 fill e.2 with
    | .port r k => if r = q then some (e.1, k) else none
    | _ => none)

/-- A packet of another module or of this one reaches the fabric endpoint through a port; its stamp is absorbed there (R374). -/
def toEndpoint (s : State) (p : Packet) (input : Option Nat) : State :=
  { s.absorb p.w2 with fab := { s.fab with epIn := s.fab.epIn ++ [(p, input)] } }

end Sys2Proof.Machine
end

