-- ==== Sys2Proof/Machine/Flags.lean ====
section
/-!
DEFINITION. The sticky flag registers (R127, R199): their write-one-to-clear rule (R172) and what an instruction's flags do
to them.
-/
namespace Sys2Proof.Machine

/-- A write to a register of five W1C flags (R127). -/
def clearFlags (old w : W32) : W32 := old &&& ~~~(w &&& 0x1F#32)

/-- R172: a group that writes CV_FLAGS writes the OR of its threads' values. -/
def orLanes (s : State) (g : Grp) (r : Nat) (wide : Bool) : W64 :=
  (g.lanes.map (fun l => rdReg s g l r wide)).foldl (· ||| ·) 0

/-- The engine ORs flags into VE_FLAGS (R199). -/
def raiseVe (s : State) (k : Nat) (fl : Flags) : State :=
  s.updCore k (fun c => { c with ve := { c.ve with flags := c.ve.flags ||| fl.setWidth 32 } })

/-- The matrix array ORs flags into MX_FLAGS (R87). -/
def raiseMx (s : State) (k : Nat) (fl : Flags) : State :=
  s.updCore k (fun c => { c with mx := { c.mx with flags := c.mx.flags ||| fl.setWidth 32 } })

end Sys2Proof.Machine
end

