-- ==== Sys2Proof/Machine/Operands.lean ====
section
/-!
DEFINITION. The operand forms of the instruction formats (R138–R149, R158): immediates, register pairs, the size codes of
loads and stores, and the integer and floating-point operations lane by lane.
-/
namespace Sys2Proof.Machine

/-- Sign extension of an immediate to 64 bits. -/
def sx {w : Nat} (x : BitVec w) : W64 := x.signExtend 64

/-- Operands of an integer operation: 64 bits, or 32 with the result cut to 32. -/
def intOp (wide : Bool) (f : (w : Nat) → BitVec w → BitVec w → BitVec w) (x y : W64) : W64 :=
  if wide then f 64 x y else (f 32 (x.setWidth 32) (y.setWidth 32)).setWidth 64

/-- An integer operation on RA and RB into RD (R141). -/
def intRrr (o : RrrOp) (len : Nat) (twoSrc : Bool) (f : (w : Nat) → BitVec w → BitVec w → BitVec w) (s : State) : Out :=
  let wide := wideOp o.face o.w
  issue s o.core o.face len (!(isCc o.face && o.w) && (twoSrc || o.rb == 0))
    ([useOf o.rd wide true, useOf o.ra wide false] ++ (if twoSrc then [useOf o.rb wide false] else []))
    (fun g s => .ok (eachLane g (fun l s =>
      wrReg s g l o.rd.toNat wide (intOp wide f (rdReg s g l o.ra.toNat wide) (rdReg s g l o.rb.toNat wide))) s))

/-- An integer operation on RA and the immediate (R143): 64 bits on the control core, 32 on a caravan. -/
def intRri (o : RriOp) (f : (w : Nat) → BitVec w → BitVec w → BitVec w) (s : State) : Out :=
  let wide := isCc o.face
  issue s o.core o.face 4 true [useOf o.rd wide true, useOf o.ra wide false]
    (fun g s => .ok (eachLane g (fun l s =>
      wrReg s g l o.rd.toNat wide (intOp wide f (rdReg s g l o.ra.toNat wide) (sx o.imm))) s))

/-- A shift by an immediate (R143): an amount of 32 or more is reserved on a 32-bit operation. -/
def intShi (o : ShiOp) (f : (w : Nat) → BitVec w → Nat → BitVec w) (s : State) : Out :=
  let wide := wideOp o.face o.w
  issue s o.core o.face 4 (o.rsv == 0 && !(isCc o.face && o.w) && (wide || decide (o.amt.toNat < 32)))
    [useOf o.rd wide true, useOf o.ra wide false]
    (fun g s => .ok (eachLane g (fun l s =>
      wrReg s g l o.rd.toNat wide
        (intOp wide (fun w x _ => f w x o.amt.toNat) (rdReg s g l o.ra.toNat wide) 0)) s))

/-- R141: a compare's result. -/
def oneIf (w : Nat) (b : Bool) : BitVec w := if b then 1#w else 0#w

/-- R141: the low 5 or 6 bits of a shift amount. -/
def shAmt (w : Nat) (y : BitVec w) : Nat := y.toNat % w

def popcount {w : Nat} (x : BitVec w) : Nat := ((List.range w).filter (fun i => x.getLsbD i)).length

/-- Zeros above the highest one; the width for zero (R142). -/
def clz {w : Nat} (x : BitVec w) : Nat := if x = 0 then w else w - 1 - Nat.log2 x.toNat

/-- Zeros below the lowest one; the width for zero (R142). -/
def ctz {w : Nat} (x : BitVec w) : Nat := ((List.range w).find? (fun i => x.getLsbD i)).getD w

/-- R142: quotient toward zero; all ones by zero; the most negative value by −1 is itself. -/
def divS (w : Nat) (x y : BitVec w) : BitVec w := if y = 0 then BitVec.allOnes w else x.sdiv y

def divU (w : Nat) (x y : BitVec w) : BitVec w := if y = 0 then BitVec.allOnes w else x / y

/-- R142: the remainder has the sign of the dividend; by zero it is the dividend. -/
def remS (w : Nat) (x y : BitVec w) : BitVec w := if y = 0 then x else x.srem y

def remU (w : Nat) (x y : BitVec w) : BitVec w := if y = 0 then x else x % y

/-- The program counter of a lane. -/
def setPc (s : State) (g : Grp) (lane : Nat) (pc : W64) : State :=
  match g.cv with
  | none => s.updCore g.k (fun c => { c with pc := pc })
  | some v => s.updCv g.k v (fun x => { x with pcs := tset 0 x.pcs lane pc })

/-- Branch and jump targets have bits [1:0] zero (R136). -/
def target (x : W64) : W64 := x &&& 0xFFFFFFFFFFFFFFFC#64

/-- R145: a conditional branch on registers of the face's width. -/
def branch (o : BrOp) (cond : (w : Nat) → BitVec w → BitVec w → Bool) (s : State) : Out :=
  let wide := isCc o.face
  issue s o.core o.face 4 true [useOf o.ra wide false, useOf o.rb wide false]
    (fun g s => .moved (eachLane g (fun l s =>
      let x := rdReg s g l o.ra.toNat wide
      let y := rdReg s g l o.rb.toNat wide
      let taken := if wide then cond 64 x y else cond 32 (x.setWidth 32) (y.setWidth 32)
      setPc s g l (if taken then target (g.pc + sx o.off * 4) else g.pc + 4)) s))

/-- Format of an FP32 or FP64 instruction. -/
def fpFmt (dbl : Bool) : FFmt := if dbl then fp64 else fp32

/-- The value of an FP operand: the whole register or pair for FP64, the low 32 bits for FP32. -/
def fpBits (s : State) (g : Grp) (lane r : Nat) (dbl : Bool) : Nat :=
  if dbl then (rdReg s g lane r true).toNat else (rdReg s g lane r false).toNat % 2 ^ 32

/-- The operands of an FP instruction: how many sources, whether RD is a source too, and whether the result is one 32-bit
register (a compare). -/
structure FpShape where
  srcs : Nat
  rdSrc : Bool
  cmp : Bool
  exact : Bool

/-- An FP instruction (R146): the operation on the bits of RA, RB and RD. -/
def fpRun (o : FpOp) (sh : FpShape) (f : FFmt → Nat → Nat → Nat → Nat × Flags) (s : State) : Out :=
  let wide := o.dbl
  let rdWide := wide && !sh.cmp
  issue s o.core o.face 4 ((!sh.exact || o.rm == 0) && (decide (sh.srcs = 2) || o.rb == 0))
    ([useOf o.rd rdWide true, useOf o.ra wide false] ++ (if sh.srcs = 2 then [useOf o.rb wide false] else []))
    (fun g s => .ok (eachLane g (fun l s =>
      let (r, fl) := f (fpFmt o.dbl) (fpBits s g l o.ra.toNat wide) (fpBits s g l o.rb.toNat wide)
        (fpBits s g l o.rd.toNat wide)
      raiseFlags (if o.dbl || sh.cmp then wrReg s g l o.rd.toNat rdWide (BitVec.ofNat 64 r)
        else wrLow s g l o.rd.toNat (BitVec.ofNat 32 r)) g fl) s))

/-- Bytes that a size code of R149 moves. -/
def sizeBytes (c : BitVec 3) : Nat :=
  match c.toNat with
  | 0 => 1
  | 1 => 1
  | 2 => 2
  | 3 => 2
  | 4 => 4
  | 5 => 4
  | 6 => 8
  | _ => 16

/-- Whether a load of this size code extends its sign. -/
def sizeSigned (c : BitVec 3) : Bool := c == 0 || c == 2 || c == 4

/-- Whether a size code is legal for a load, or for a store, on a face (R149). -/
def sizeOk (f : Face) (store : Bool) (c : BitVec 3) : Bool :=
  (!store || c == 0 || c == 2 || c == 4 || c == 6 || c == 7) && !(isCc f && c == 7)

/-- The use of a data register of `n` bytes: one, two or four registers on a caravan. -/
def dataUse (r : BitVec 6) (n : Nat) (wr : Bool) : RegUse := ⟨r.toNat, if n ≤ 4 then 1 else n / 4, wr⟩

/-- A virtual address operand: a pair on a caravan (R138). -/
def addrUse (r : BitVec 6) : RegUse := ⟨r.toNat, 2, false⟩

/-- Data of a store from RD. -/
def storeData (s : State) (g : Grp) (lane r n : Nat) : W128 :=
  if n = 16 then rdQuad s g lane r
  else (rdReg s g lane r (decide (n = 8) || g.cv.isNone)).setWidth 128 &&& BitVec.ofNat 128 (2 ^ (8 * n) - 1)

/-- Write what a load of `n` bytes returned into RD (R148): extended to the register width. -/
def loadInto (s : State) (g : Grp) (lane r n : Nat) (sgn : Bool) (v : W128) : State :=
  if n = 16 then wrQuad s g lane r v
  else
    let x : W64 :=
      if sgn then
        match n with
        | 1 => (v.setWidth 8).signExtend 64
        | 2 => (v.setWidth 16).signExtend 64
        | 4 => (v.setWidth 32).signExtend 64
        | _ => v.setWidth 64
      else BitVec.ofNat 64 (v.toNat % 2 ^ (8 * n))
    wrReg s g lane r (decide (n = 8)) x

end Sys2Proof.Machine
end

