-- ==== Sys2Proof/Machine/MemOps.lean ====
section
/-!
DEFINITION. Accesses to translated memory (10 R250–R258, 11 R277–R285): what performing one does to its requester, when the
caches let it be performed, which request its cluster sends otherwise, and what a grant does.
-/
namespace Sys2Proof.Machine

/-- The value that an atomic stores (R153, R154); operands of `size` bytes. -/
def amoApply (op : AmoKind) (size old rb rd : Nat) : Nat :=
  let w := 8 * size
  let o := BitVec.ofNat w old
  let b := BitVec.ofNat w rb
  match op with
  | .swap => b.toNat
  | .cas => if o = BitVec.ofNat w rd then b.toNat else o.toNat
  | .add => (o + b).toNat
  | .and => (o &&& b).toNat
  | .or => (o ||| b).toNat
  | .xor => (o ^^^ b).toNat
  | .min => if b.slt o then b.toNat else o.toNat
  | .max => if o.slt b then b.toNat else o.toNat
  | .minu => if b.ult o then b.toNat else o.toNat
  | .maxu => if o.ult b then b.toNat else o.toNat

/-- VE_FAULT (R202) and the core fault of a vector instruction. -/
def veFault (s : State) (k cause window fn op elem code : Nat) (pc addr : W64) : State :=
  let s := s.updCore k (fun c =>
    if bit c.ve.fault 63 then c
    else { c with ve := { c.ve with
      fault := at_ 63 1 ||| at_ 56 cause ||| at_ 48 window ||| at_ 40 fn ||| at_ 34 op ||| at_ 17 elem } })
  faultCore s k code 3 0 0 0 pc addr

/-- The data window of a gather or scatter, whose element a cause 0x9 concerns (R202; log 107). -/
def VeInstr.gsWin (v : VeInstr) : Nat := if v.fn % 2 = 0 then v.vd else v.va

/-- A DMA command as DMA.SUB captures it (R167, R230). -/
def DmaCmd.fresh (ord : Nat) (words : List W64) (seq : Nat) (pc : W64) (map : W32) : DmaCmd where
  ord := ord
  words := words
  seq := seq
  pc := pc
  map := map
  stage := .queued
  engine := 0
  rd := 0
  wr := 0
  buf := []
  reqs := []
  held := []
  failed := []
  slots := []
  tookSrc := 0
  tookDst := 0
  waitTag := false
  waitMap := false
  partRd := []
  partWr := []
  skip := 0
  asked := false
  tries := 0
  hostLast := none
  remote := false
  host := false
  doomed := 0
  page := 0

/-- The group that stands for one requester. -/
def Req.grp (k : Nat) (pc : W64) : Req → Grp
  | .thread v l => ⟨k, some v, [l], pc, 0⟩
  | _ => ⟨k, none, [0], pc, 0⟩

def Req.lane : Req → Nat
  | .thread _ l => l
  | _ => 0

/-- The access with number `id` leaves the list. -/
def dropAccess (s : State) (k id : Nat) : State :=
  s.updCore k (fun c => { c with acc := c.acc.filter (fun a => a.id != id) })

/-- The accesses of its issue that share the line of `a` (R129), in lane order, `a` among them where it is listed. -/
def Access.line (a : Access) (xs : List Access) : List Access :=
  xs.filter (fun b => b.issue == a.issue && b.req.cls == a.req.cls && b.via == a.via && b.va.toNat / 256 == a.va.toNat / 256)

/-- The accesses of the other lanes of its instruction to the sector of `a`, `a` among them where it is listed. -/
def Access.mates (a : Access) (xs : List Access) : List Access :=
  match a.req with
  | .thread v _ => xs.filter (fun b => match b.req with
    | .thread u _ => u == v && b.pc == a.pc && b.pa.toNat / 64 == a.pa.toNat / 64
    | _ => false)
  | _ => []

/-- The lanes stand at the instruction with address `pc`. -/
def standAt (s : State) (k : Nat) (r : Req) (lanes : List Nat) (pc : W64) : State :=
  match r with
  | .thread v _ => s.updCv k v (fun x => { x with pcs := lanes.foldl (fun t l => tset 0 t l pc) x.pcs })
  | _ => s.updCore k (fun c => { c with pc := pc })

/-- A fault of an access that has been sent (R131, R198): the lanes of its instruction that touch its sector take it together, and
stand at that instruction (R132, log 71). -/
def accessFault (s : State) (k : Nat) (a : Access) (code : Nat) : State :=
  match a.req with
  | .chan ch =>
    let s := dropAccess s k a.id
    match tfind (s.core k).ve.chans ch with
    | some v => veFault s k 9 v.gsWin v.fn v.op a.elem code a.pc a.va
    | none => s
  | r =>
    let all := a :: a.mates (s.core k).acc
    let lanes := (List.range 32).filter (fun l => all.any (fun b => b.req.lane == l))
    let s := all.foldl (fun s b => dropAccess s k b.id) s
    let va := ((all.find? (fun b => b.req.lane == lanes.headD 0)).getD a).va
    faultGrp (standAt s k r lanes a.pc) (r.grp k a.pc) code lanes va

/-- An access is performed (R251) and returned the value `v` of its bytes; a poisoned sector faults instead (R296). -/
def deliver (s : State) (k : Nat) (a : Access) (v : Nat) (poison : Bool) : State :=
  if poison then accessFault s k a 6
  else
    let s := dropAccess s k a.id
    let g := a.req.grp k a.pc
    let s := match a.req, a.op with
      | .chan ch, _ => s.updCore k (fun c =>
          match tfind c.ve.chans ch with
          | some x => { c with ve := { c.ve with chans := tput c.ve.chans ch { x with got := tput x.got a.elem (BitVec.ofNat 128 v) } } }
          | none => c)
      | _, .load sg => loadInto s g a.req.lane a.dst a.size sg (BitVec.ofNat 128 v)
      | _, .amo _ =>
        if a.size = 8 then wrReg s g a.req.lane a.dst true (BitVec.ofNat 64 v)
        else wrLow s g a.req.lane a.dst (BitVec.ofNat 32 v)
      | _, .desc =>
        let (ord, s) := s.newId
        s.updCore k (fun c => { c with dma := { c.dma with
          queue := c.dma.queue ++ [DmaCmd.fresh ord (unitsOf (leBytes 64 v)) a.data.toNat a.pc (a.cmp.setWidth 32)] } })
      | _, .store => s
    wakeCore (retryFence (retryWb s k) k) k

/-- Line, sector and offset in the sector of an access. -/
def Access.key (s : State) (a : Access) : Nat := lineKey s a.pa
def Access.sec (a : Access) : Nat := fld a.pa 7 6
def Access.off (a : Access) : Nat := fld a.pa 5 0

/-- Bytes of a sector as a number. -/
def sectorVal (x : W512) (off n : Nat) : Nat := x.toNat / 2 ^ (8 * off) % 2 ^ (8 * n)

def sectorSet (x : W512) (off n v : Nat) : W512 := setFld x (8 * (off + n) - 1) (8 * off) v

def Access.isStore (a : Access) : Bool := a.op == .store
def Access.isAmo (a : Access) : Bool := match a.op with | .amo _ => true | _ => false

/-- Loads of a cluster wait for a write-through store of the cluster to the same bytes (R279). -/
def wtPending (s : State) (c : Nat) (a : Access) : Bool :=
  (coresOf c).any (fun k => (s.core k).acc.any (fun b =>
    b.via == .home && b.isStore && decide (b.pa.toNat < a.pa.toNat + a.size) && decide (a.pa.toNat < b.pa.toNat + b.size)))

def heldSector (l : Option CLine) (q : Nat) : Option Sector := l.bind (fun l => tfind l.sec q)

def l2Owns (s : State) (c key : Nat) : Bool :=
  match l2Line s c key with
  | some l => l.st == .e || l.st == .m
  | none => false

/-- Another L1 of the cluster holds the line in W. -/
def otherW (s : State) (k key : Nat) : Option Nat :=
  (coresOf (clusterOf k)).find? (fun j => j != k && (match l1Line s j key with | some l => l.st == .w | none => false))

/-- Let the L1 of core `k` have sector `q` of a line the L2 holds. -/
def pullL1 (s : State) (k key q : Nat) : State :=
  match heldSector (l1Line s k key) q with
  | some _ => s
  | none =>
    let s := match otherW s k key with
      | some j => downgradeL1 s j key
      | none => s
    match heldSector (l2Line s (clusterOf k) key) q with
    | some x => fillL1 (usedL2 s (clusterOf k) key) k key q (if isRem key then .rem else .s) { x with dirty := false, mask := 0 }
    | none => s

/-- An older access of the core to some of the same bytes is not performed: the agents of one core see their accesses in issue order
(R254), and none of them reads a location backwards (R259). An access over the fabric keeps its own order (R263). -/
def olderPending (s : State) (k : Nat) (a : Access) : Bool :=
  (s.core k).acc.any (fun b => decide (b.id < a.id) && b.via != .fabric && decide (b.pa.toNat < a.pa.toNat + a.size) &&
    decide (a.pa.toNat < b.pa.toNat + b.size))

/-- A copy of another module's line that the core's own write-back is about to overtake is not read (R254, R258). -/
def behindWb (s : State) (k key q : Nat) : Bool := clusterWb s (clusterOf k) key && (heldSector (l1Line s k key) q).isNone

/-- Perform a cached access where the caches allow it (R279, R282, R283); none where a request must come back first. -/
def tryCached (s : State) (k : Nat) (a : Access) : Option State :=
  let c := clusterOf k
  let key := a.key s
  let q := a.sec
  match a.op with
  | .store =>
    if isRem key then
      let s := if behindWb s k key q then s else pullL1 s k key q
      (heldSector (l1Line s k key) q).map (fun x =>
        if x.poison then deliver s k a 0 true
        else
          let y := { x with
            data := sectorSet x.data a.off a.size a.data.toNat
            dirty := true
            mask := x.mask ||| BitVec.ofNat 64 ((2 ^ a.size - 1) * 2 ^ a.off) }
          deliver (updL1Line (usedL1 s k key) k key (fun l => { l with sec := tput l.sec q y })) k a 0 false)
    else if !l2Owns s c key then none
    else
      let s := dropOthers s c key k
      let s := pullL1 s k key q
      (heldSector (l1Line s k key) q).map (fun x =>
        if x.poison then deliver s k a 0 true
        else
          let y := { x with data := sectorSet x.data a.off a.size a.data.toNat, dirty := true }
          let w : Bool := (match l1Line s k key with | some l => l.st == .w | none => false)
          let s := usedL1 (if w then s else usedL2 s c key) k key
          let s := updL1Line s k key (fun l => { l with st := .w, sec := tput l.sec q y })
          let s := updL2Line s c key (fun l => { l with st := .m })
          deliver s k a 0 false)
  | .amo op =>
    if !l2Owns s c key then none
    else
      let s := dropAllL1 s c key
      (heldSector (l2Line s c key) q).map (fun x =>
        if x.poison then deliver s k a 0 true
        else
          let old := sectorVal x.data a.off a.size
          let new := amoApply op a.size old a.data.toNat a.cmp.toNat
          let y := { x with data := sectorSet x.data a.off a.size new, dirty := true }
          deliver (updL2Line (usedL2 s c key) c key (fun l => { l with st := .m, sec := tput l.sec q y })) k a old false)
  | _ =>
    if wtPending s c a || olderPending s k a || behindWb s k key q then none
    else
      let s := pullL1 s k key q
      (heldSector (l1Line s k key) q).map (fun x =>
        deliver (usedL1 s k key) k a (sectorVal x.data a.off a.size) x.poison)

/-- The request that brings what an access lacks (R279, R286): its kind. -/
def lacks (s : State) (k : Nat) (a : Access) : ReqKind :=
  let c := clusterOf k
  let own := l2Owns s c (a.key s)
  let shared : Bool := (match l2Line s c (a.key s) with | some l => l.st == .s | none => false)
  if own then .sf
  else if a.isStore || a.isAmo then (if shared then .upg else .rdX)
  else .rdS

/-- The cluster asks for what an access lacks, unless a request for the line is open. A write-through page asks for a copy
never beyond S (log 10): `size` 1 in the message. -/
def askFor (s : State) (k : Nat) (a : Access) : State :=
  let c := clusterOf k
  let key := a.key s
  if (s.cluster c).open_.any (fun o => o.1 == key) then s
  else
    let mask := 2 ^ a.sec
    if isRem key then
      let s := s.setCluster c { s.cluster c with open_ := (s.cluster c).open_ ++ [(key, .rdS, mask)] }
      fabSend s k a.entry (.fill c key) false (keyPa key) mask [] 0
    else
      let kind := lacks s k a
      let s := s.setCluster c { s.cluster c with open_ := (s.cluster c).open_ ++ [(key, kind, mask)] }
      sendMsg s { Msg.bare (.req kind) (agentL2 c) key with mask := mask, size := b2n (a.wp == 1) }

/-- Insertion by rising number. -/
def insertById (x : Nat × Access) : List (Nat × Access) → List (Nat × Access)
  | [] => [x]
  | y :: r => if x.2.id < y.2.id then x :: y :: r else y :: insertById x r

/-- Accesses of a cluster that wait for a line, oldest first. -/
def waitingFor (s : State) (c key : Nat) : List (Nat × Access) :=
  ((coresOf c).flatMap (fun k =>
    ((s.core k).acc.filter (fun a => a.via == .cache && a.key s == key)).map (fun a => (k, a)))).foldl
    (fun l x => insertById x l) []

/-- Requests of a cluster, its L2 and its engines, that a home holds or that are on their way to it (R289). -/
def clusterOfAgent : Agent → Nat
  | .l2 c => c.val
  | .dma e => e.val / 2
  | .hub => 32

def MsgKind.isReq : MsgKind → Bool
  | .req _ => true
  | _ => false

def creditsUsed (s : State) (d who : Nat) : Nat :=
  let h := s.home d
  let own (m : Msg) : Bool := m.kind.isReq && clusterOfAgent m.who == who
  (s.mem.msgs.filter (fun m => own m && homeOf m.line == d)).length + (h.queue.filter own).length +
    (h.active.filter (fun t => t.evict.isNone && own t.msg)).length

/-- R289: 24 requests of each cluster, 256 of the hub die. -/
def hasCredit (s : State) (line who : Nat) : Bool := decide (creditsUsed s (homeOf line) who < (if who = 32 then 256 else 24))

/-- An access that waits for a line still lacks it: its sector, or the ownership. -/
def wants (s : State) (k : Nat) (a : Access) : Bool :=
  let c := clusterOf k
  let key := a.key s
  let held := (heldSector (l1Line s k key) a.sec).isSome || (heldSector (l2Line s c key) a.sec).isSome
  !held || ((a.isStore || a.isAmo) && !isRem key && !l2Owns s c key)

/-- The request of a waiting access, where it still lacks its line and its home has a credit for it (R289). -/
def askOne (s : State) (k : Nat) (a : Access) : State :=
  let key := a.key s
  if wants s k a && !clusterWb s (clusterOf k) key && (isRem key || hasCredit s key (clusterOf k)) then askFor s k a else s

/-- Requests of waiting accesses that waited for a credit, oldest first, after an answer has given one back (R289). -/
def askWaiting (s : State) (c : Nat) : State :=
  ((coresOf c).flatMap (fun k => ((s.core k).acc.filter (fun a => a.via == .cache)).map (fun a => (k, a)))).foldl
    (fun l x => insertById x l) [] |>.foldl (fun s x => askOne s x.1 x.2) s

/-- After a grant or an answer: the cluster performs its waiting accesses to the line, oldest first (R291), and asks for what the
rest lacks. -/
def retryLine (s : State) (c key : Nat) : State :=
  askWaiting ((waitingFor s c key).foldl (fun s x => (tryCached s x.1 x.2).getD s) s) c

/-- The bytes that a store carries, by line offset. -/
def Access.bytes (a : Access) : Bytes := (List.range a.size).map (fun i => (64 * a.sec + a.off + i, byteOf a.data i))

/-- What the stores of one issue write to one line together: a higher lane's bytes remain (R151). -/
def lineBytes (xs : List Access) : Bytes :=
  (xs.filter Access.isStore).foldl (fun t a => a.bytes.foldl (fun t b => tput t b.1 b.2) t) []

/-- A message of its own to the home: WT, UC_RD, UC_WR or AMO_H (R279). -/
def homeRequest (s : State) (k : Nat) (a : Access) (kind : ReqKind) : State :=
  let rd : Bool := (match kind with | .ucRd => true | _ => false)
  sendMsg s { Msg.bare (.req kind) (agentL2 (clusterOf k)) (a.key s) with
    mask := 2 ^ a.sec, bytes := if rd then [] else a.bytes, id := a.id, size := a.size, val := a.data.setWidth 64, cmp := a.cmp }

/-- The message that an earlier lane of the issue has just sent for the line takes in this lane too (R129); `xs` are all of them. -/
def homeJoin (s : State) (a : Access) (xs : List Access) : State :=
  let mine (m : Msg) : Bool := m.kind.isReq && m.id == (xs.headD a).id && m.line == a.key s
  let more (m : Msg) : Msg := { m with mask := m.mask ||| 2 ^ a.sec, bytes := lineBytes xs }
  { s with mem := { s.mem with msgs := updFirst mine more s.mem.msgs } }

/-- How an access to HBM is served (R279, R263): through the caches, by a message of its own, or over the fabric. A gather
or scatter element, and LD.ACQ of a remote-attribute line, read and write remote memory at its home (R158, R258). -/
def hbmRoute (s : State) (k : Nat) (a : Access) : Via × ReqKind :=
  if isRemote s a.pa then
    let direct : Bool := (match a.req with | .chan _ => true | _ => false)
    if a.rem && !direct && a.via == .cache then (.cache, .rdS) else (.fabric, .rdS)
  else
    let own := l2Owns s (clusterOf k) (a.key s)
    match a.op with
    | .store =>
      if a.wp = 0 ∨ (a.wp = 2 ∧ own) then (.cache, .rdX)
      else if a.wp = 3 then (.home, .ucWr) else (.home, .wt)
    | .amo op => if a.wp = 0 ∨ (a.wp = 2 ∧ own) then (.cache, .rdX) else (.home, .amo op)
    | _ => if a.wp = 3 then (.home, .ucRd) else (.cache, .rdS)

/-- The request for a line is open no longer. -/
def closeOpen (s : State) (c key : Nat) : State :=
  s.setCluster c { s.cluster c with
    open_ := (s.cluster c).open_.filter (fun o => o.1 != key), stale := (s.cluster c).stale.filter (· != key) }

/-- Install what a grant brings (R286), but for a fill whose data are stale: the state, and the sectors that the L2 does not hold yet. -/
def installGrant (s : State) (c key : Nat) (st : Option LineState) (mask : Nat) (bs : Bytes) (poison : Nat) : State :=
  let new : Tbl Sector := (sectorsOf mask).map (fun q => (q, ⟨sectorOf bs q, false, poison / 2 ^ q % 2 == 1, 0⟩))
  let old := (s.cluster c).stale.contains key
  let s := closeOpen s c key
  if old then s else match l2Line s c key with
  | some _ => usedL2 (updL2Line s c key (fun l =>
      { l with
        st := match st with
          | none => l.st
          | some x => if l.st = LineState.m then .m else x
        sec := new.foldl (fun t e => if (tfind t e.1).isSome then t else tput t e.1 e.2) l.sec })) c key
  | none =>
    match st with
    | none => s
    | some x => placeL2 s c key ⟨key, x, new, 0⟩

end Sys2Proof.Machine
end

