-- ==== Sys2Proof/Machine/Scratchpad.lean ====
section
/-!
DEFINITION. The scratchpad (08): placement, port classes and the map an access is bound to, tags and plain accesses, rings and
takes, SP_FAULT.
-/
namespace Sys2Proof.Machine

/-- R205. -/
def spGroup (a : Nat) : Nat := a / 2 ^ 18 % 8
def spSlot (a : Nat) : Nat := a / 64 % 2 ^ 15
def slotGroup (slot : Nat) : Nat := slot / 2 ^ 12 % 8

/-- Bank within the group (R205). -/
def spBank (a : Nat) : Nat := (a / 2 ^ 6 % 8 + a / 2 ^ 9 % 8 + a / 2 ^ 12 % 8 + a / 2 ^ 15 % 8) % 8

def spRow (a : Nat) : Nat := a / 2 ^ 9 % 2 ^ 9

/-- Class codes of R207. -/
def clsM : Nat := 1
def clsV : Nat := 2
def clsD : Nat := 3
def clsC : Nat := 4

/-- Field of group `g` in a map (R209): its class and whether it is tagged. -/
def mapField (m : W32) (g : Nat) : Nat := m.toNat / 2 ^ (4 * g) % 16
def mapClass (m : W32) (g : Nat) : Nat := mapField m g % 8
def mapTagged (m : W32) (g : Nat) : Bool := mapField m g / 8 == 1

/-- A command or access bound to map `m` waits for a group in transit unless it is bound to the group's old field (R210). -/
def inTransit (sp : Scratch) (m : W32) (g : Nat) : Bool :=
  match tfind sp.transit g with
  | some old => mapField m g != old.toNat
  | none => false

/-- The map in force for groups in transit (R210). -/
def oldMap (sp : Scratch) : W32 := sp.transit.foldl (fun m e => setFld m (4 * e.1 + 3) (4 * e.1) e.2.toNat) sp.pmap

def isFull (sp : Scratch) (slot : Nat) : Bool := tget false sp.full slot

def Scratch.setTag (sp : Scratch) (slot : Nat) (b : Bool) : Scratch := { sp with full := tset false sp.full slot b }

namespace State

def updSp (s : State) (k : Nat) (f : Scratch → Scratch) : State := s.updCore k (fun c => { c with sp := f c.sp })

end State

/-- SP_FAULT (R225): the first fault is kept, a later one sets OVERRUN. ADDR is 0 for causes 0x2 and 0x3, and an address at or above
2 MiB names no group. -/
def spFault (s : State) (k cause cls group ring addr : Nat) : State :=
  s.updSp k (fun sp =>
    if bit sp.fault 63 then { sp with fault := setBit sp.fault 62 true }
    else
      let group := if cause = 2 then 0 else group
      let addr := if cause = 2 ∨ cause = 3 then 0 else addr % 2 ^ 21
      { sp with fault := at_ 63 1 ||| at_ 58 cause ||| at_ 55 cls ||| at_ 52 group ||| at_ 46 ring ||| at_ 0 addr })

/-- Slots that the bytes [a, a + n) lie in. -/
def slotsOf (a n : Nat) : List Nat := (List.range ((a + n - 1) / 64 - a / 64 + 1)).map (fun i => (a / 64 + i) % 2 ^ 15)

/-- The tag state a plain access in a tagged group still waits for (R214): the first slot that blocks it. -/
def plainBlock (sp : Scratch) (m : W32) (read : Bool) (a n : Nat) : Option Nat :=
  (slotsOf a n).find? (fun q => mapTagged m (slotGroup q) && (isFull sp q != read))

/-- Tags after a plain access (R214): a slot whose byte 63 it touches goes EMPTY by a read and FULL by a write. -/
def plainTags (sp : Scratch) (m : W32) (read : Bool) (a n : Nat) : Scratch :=
  ((slotsOf a n).filter (fun q => mapTagged m (slotGroup q) && decide (64 * q + 63 < a + n) && decide (a ≤ 64 * q + 63))).foldl
    (fun sp q => sp.setTag q (!read)) sp

/-- The first of `n` bytes that lies beyond 2 MiB or in a group whose class in the bound map is not `cls` (R212). -/
def wrongClass (m : W32) (cls a n : Nat) : Option Nat :=
  let last := a + n - 1
  if 2 ^ 21 ≤ a then some a
  else if mapClass m (spGroup a) ≠ cls then some a
  else if 2 ^ 21 ≤ last then some (2 ^ 21)
  else if mapClass m (spGroup last) ≠ cls then some (last / 2 ^ 18 * 2 ^ 18)
  else none

/-- Ring descriptor words (R217). -/
def ringW0 (sp : Scratch) (r : Nat) : W64 := tget 0 sp.rings (2 * r)
def ringW1 (sp : Scratch) (r : Nat) : W64 := tget 0 sp.rings (2 * r + 1)
def ringValid (sp : Scratch) (r : Nat) : Bool := bit (ringW0 sp r) 63
def ringBase (sp : Scratch) (r : Nat) : Nat := fld (ringW0 sp r) 62 48
def ringSize (sp : Scratch) (r : Nat) : Nat := fld (ringW0 sp r) 47 32
def ringStride (sp : Scratch) (r : Nat) : Nat := fld (ringW0 sp r) 31 27
def ringHead (sp : Scratch) (r : Nat) : Nat := fld (ringW1 sp r) 30 16
def ringTail (sp : Scratch) (r : Nat) : Nat := fld (ringW1 sp r) 14 0
def ringSlot (sp : Scratch) (r pos : Nat) : Nat := ringBase sp r + ringStride sp r * pos

/-- Slots of a whole ring. -/
def ringSlots (sp : Scratch) (r : Nat) : List Nat := (List.range (ringSize sp r)).map (ringSlot sp r)

/-- The slot that the next take of a side gets. -/
def nextTake (sp : Scratch) (r : Nat) (producer : Bool) : Nat := ringSlot sp r (if producer then ringTail sp r else ringHead sp r)

def slotTaken (sp : Scratch) (slot : Nat) : Bool := sp.taken.any (fun t => t.slot == slot)

/-- A take of one slot (R219): HEAD or TAIL advances, and the slot keeps its tag until it is returned. -/
def Scratch.take (sp : Scratch) (r : Nat) (producer : Bool) : Scratch :=
  let slot := nextTake sp r producer
  let size := ringSize sp r
  let w := ringW1 sp r
  let w := if producer then setFld w 14 0 ((ringTail sp r + 1) % size) else setFld w 30 16 ((ringHead sp r + 1) % size)
  { sp with rings := tset 0 sp.rings (2 * r + 1) w, taken := sp.taken ++ [⟨slot, r, producer, false⟩] }

/-- A taken slot leaves the taker's hold with its tag unchanged (R203, R234). -/
def Scratch.release (sp : Scratch) (slot : Nat) : Scratch := { sp with taken := sp.taken.filter (fun t => t.slot != slot) }

/-- The taker has read or written the slot's last byte. -/
def Scratch.finish (sp : Scratch) (slot : Nat) : Scratch :=
  { sp with taken := sp.taken.map (fun t => if t.slot = slot then { t with finished := true } else t) }

/-- Whether two entries of the tag wait list are one entry (R216): threads of a caravan group on one slot. -/
def sameEntry (a b : TagWait) : Bool :=
  a.slot == b.slot && (match a.who, b.who with
    | .face x, .face y => x.pc == y.pc && (match x.req, y.req with
      | .thread v _, .thread w _ => v == w
      | .cc, .cc => true
      | _, _ => false)
    | .face _, _ => false
    | x, y => x == y)

/-- The entries of the tag wait list: the first 128 of what waits, threads that share an entry with it (R216). -/
def listed (sp : Scratch) : List TagWait :=
  let firsts := (sp.waits.foldl (fun (l : List TagWait) w => if l.any (sameEntry w) then l else l ++ [w]) []).take 128
  sp.waits.filter (fun w => firsts.any (sameEntry w))

/-- Entries in use (R216, R224). -/
def waitCount (sp : Scratch) : Nat :=
  ((listed sp).foldl (fun (l : List TagWait) w => if l.any (sameEntry w) then l else l ++ [w]) []).length

/-- One wait: the same entry, or the take of one waiter from one side of a ring, which waits for the slot at HEAD or TAIL as that
moves (R219). -/
def sameWait (a b : TagWait) : Bool := a == b || (a.ring.isSome && a.ring == b.ring && a.who == b.who)

/-- A waiter begins to wait, or goes on waiting in its place: in the list, or for an entry of it in the order in which it began (R216). -/
def addWait (sp : Scratch) (w : TagWait) : Scratch :=
  { sp with waits := if sp.waits.any (sameWait w) then sp.waits.map (fun x => if sameWait w x then w else x) else sp.waits ++ [w] }

/-- Waiters that were in the list before keep their places; new ones come after them (R216). -/
def orderWaits (s : State) (k : Nat) (old : List TagWait) : State :=
  s.updSp k (fun sp => { sp with
    waits := old.filterMap (fun w => sp.waits.find? (sameWait w)) ++ sp.waits.filter (fun w => !old.any (sameWait w)) })

/-- Another waiter that asked for a take of this ring and side before (R219). -/
def takeBehind (sp : Scratch) (r : Nat) (producer : Bool) (who : TagWho) : Bool :=
  match sp.waits.find? (fun w => w.ring == some (r, producer)) with
  | some w => w.who != who
  | none => false

/-- The value of `n` bytes of the scratchpad. -/
def spRead (sp : Scratch) (a n : Nat) : Nat := mread sp.data a n

def Scratch.write (sp : Scratch) (a n v : Nat) : Scratch := { sp with data := mwrite sp.data a n v }

/-- Whether bytes lie in a group in transit for an access bound to `m` (R210). -/
def transitBlock (sp : Scratch) (m : W32) (a n : Nat) : Bool :=
  inTransit sp m (spGroup a) || inTransit sp m (spGroup (a + n - 1))

end Sys2Proof.Machine
end

