-- ==== Sys2Proof/Machine/Footprint.lean ====
section
/-!
DEFINITION. What the commands of a core's queues still have to read and write, and the address-range hold of 10 R255: fields of
tile descriptors (R65), drain words (R166), window descriptors (R176) and DMA descriptors (R230, R231), and their ranges.
-/
namespace Sys2Proof.Machine

/-- `count` pieces of `size` bytes, `step` apart, in translated memory or in the scratchpad, read or written. -/
structure Run where
  mem : Bool
  base : Int
  step : Int
  size : Nat
  count : Nat
  wr : Bool
  deriving DecidableEq, Repr

/-- Whether a run shares a unit of R255 with the bytes [lo, lo + n), where at least one side writes. -/
def Run.hits (r : Run) (mem : Bool) (lo n : Nat) (wr : Bool) : Bool :=
  let u : Int := if mem then 256 else 64
  let first : Int := (lo : Int) / u
  let last : Int := ((lo + n - 1 : Nat) : Int) / u
  r.mem == mem && (r.wr || wr) && n != 0 && r.size != 0 &&
    (List.range r.count).any (fun i =>
      let b := r.base + i * r.step
      decide (b / u ≤ last) && decide (first ≤ (b + r.size - 1) / u))

/-- Window fields (R176). -/
structure Win where
  valid : Bool
  mask : Bool
  fmt : Nat
  ringed : Bool
  ring : Nat
  len : Nat
  base : Nat
  stride : Int
  sbase : Nat
  deriving DecidableEq, Repr

def winOf (w0 w1 : W64) : Win where
  valid := bit w0 63
  mask := bit w0 62
  fmt := fld w0 61 57
  ringed := bit w0 56
  ring := fld w0 55 50
  len := fld w0 49 33
  base := fld w0 32 12
  stride := intOf 16 (fld w1 63 48)
  sbase := fld w1 47 27

def VecEng.window (t : Tbl W64) (w : Nat) : Win := winOf (tget 0 t (2 * w)) (tget 0 t (2 * w + 1))

/-- Bits of one element of a window. -/
def Win.bits (w : Win) : Nat := if w.mask then 1 else ebits w.fmt

/-- Elements that share one byte. -/
def Win.perByte (w : Win) : Nat := if w.bits = 0 then 1 else if w.bits < 8 then 8 / w.bits else 1

def Win.size (w : Win) : Nat := (w.bits + 7) / 8

/-- Address of the first byte of element `i` of a strided window (R177). -/
def Win.addr (w : Win) (i : Nat) : Int :=
  if w.bits < 8 then w.base + (i / w.perByte : Nat) else w.base + i * w.stride * w.size

/-- Elements [from, to) of a strided window, with the block exponents of a block format. -/
def Win.runs (w : Win) (lo hi : Nat) (wr wrExp : Bool) : List Run :=
  if w.ringed || decide (hi ≤ lo) then []
  else
    let elems : Run :=
      if w.bits < 8 then
        let a := lo / w.perByte
        ⟨false, w.base + a, 1, (hi - 1) / w.perByte - a + 1, 1, wr⟩
      else ⟨false, w.addr lo, w.stride * w.size, w.size, hi - lo, wr⟩
    if !w.mask && isBlock w.fmt then
      let b := blockSize w.fmt
      [elems, ⟨false, w.sbase + (lo / b : Nat), 1, (hi - 1) / b - lo / b + 1, 1, wrExp⟩]
    else [elems]

/-- Windows that a vector function names (R187–R195): destination, first and second source, and whether VD is read. -/
structure Names where
  vd : Bool
  va : Bool
  vb : Bool
  vdRd : Bool
  deriving DecidableEq, Repr

def namesOf (op fn : Nat) : Names :=
  match op with
  | 0x39 =>
    if fn = 0x03 ∨ fn = 0x04 then ⟨true, true, true, true⟩
    else if fn = 0x10 ∨ fn = 0x18 then ⟨true, false, false, false⟩
    else if fn = 0x06 ∨ fn = 0x09 ∨ fn = 0x0A ∨ fn = 0x0B ∨ fn = 0x0C ∨ fn = 0x0D ∨ fn = 0x0F ∨ fn = 0x46 ∨ fn = 0x4B ∨
        fn = 0x60 ∨ fn = 0x61 then ⟨true, true, false, false⟩
    else ⟨true, true, true, false⟩
  | 0x3A => ⟨false, true, false, false⟩
  | _ =>
    match fn with
    | 0 => ⟨true, false, true, false⟩
    | 2 => ⟨true, false, true, false⟩
    | 1 => ⟨false, true, true, false⟩
    | 3 => ⟨false, true, true, false⟩
    | _ => ⟨false, false, false, false⟩

/-- Gather and scatter functions. -/
def VeInstr.isGs (v : VeInstr) : Bool := v.op == 0x3B && decide (v.fn < 4)
def VeInstr.isWindowOp (v : VeInstr) : Bool := v.op == 0x3B && decide (0x10 ≤ v.fn)
def VeInstr.isSummary (v : VeInstr) : Bool := v.op == 0x3A

def VeInstr.names (v : VeInstr) : Names := namesOf v.op v.fn

/-- Who the instruction is in the tag wait list: a gather or scatter is its channel (R196, R216). -/
def VeInstr.who (v : VeInstr) : TagWho := if v.isGs then .chan (v.fn / 2) else .vector

/-- Whether the instruction reads VM: as its mask, or as the selector of VSEL. -/
def VeInstr.readsVm (v : VeInstr) : Bool := v.maskEn && !v.isWindowOp

/-- Roles of windows: 0 destination, 1 first source, 2 second source, 3 destination as a source, 4 mask. -/
def VeInstr.roles (v : VeInstr) : List (Nat × Nat) :=
  let n := v.names
  (if n.vd then [(0, v.vd)] else []) ++ (if n.va then [(1, v.va)] else []) ++ (if n.vb then [(2, v.vb)] else []) ++
    (if n.vdRd then [(3, v.vd)] else []) ++ (if v.readsVm then [(4, v.vm)] else [])

/-- The window that a role names. -/
def VeInstr.winNo (v : VeInstr) (role : Nat) : Nat :=
  match role with
  | 0 => v.vd
  | 1 => v.va
  | 2 => v.vb
  | 3 => v.vd
  | _ => v.vm

def VeInstr.window (v : VeInstr) (t : Tbl W64) (role : Nat) : Win := VecEng.window t (v.winNo role)

/-- The role under which an operand's elements are read: a window that two operands name is read once (R179, R214). -/
def VeInstr.srcRole (v : VeInstr) (role : Nat) : Nat :=
  if role = 0 then 0 else ((v.roles.find? (fun r => r.1 != 0 && r.2 == v.winNo role && (r.1 == 4) == (role == 4))).map Prod.fst).getD role

/-- What an instruction still reads and writes, with the windows and VE_VL it uses. VCVT.BEXP reads its destination's
exponents (R190). -/
def VeInstr.runs (v : VeInstr) (t : Tbl W64) (vl : Nat) : List Run :=
  v.roles.flatMap (fun r =>
    let w := v.window t r.1
    if r.1 = 0 then w.runs v.idx vl true (decide (v.fn ≠ 0x61)) else w.runs v.rd vl false false)

/-- Windows and VE_VL after an instruction of the vector queue (R182). -/
def afterVe (x : Tbl W64 × Nat) (v : VeInstr) : Tbl W64 × Nat :=
  if v.op = 0x3B ∧ !v.done then
    match v.fn with
    | 0x10 => (tset 0 x.1 (2 * v.vd) (v.s &&& 0xFFFFFFFFFFFFF000#64), x.2)
    | 0x11 => (tset 0 x.1 (2 * v.vd + 1) (v.s &&& 0xFFFFFFFFF8000000#64), x.2)
    | 0x14 => (x.1, v.s.toNat % 2 ^ 17)
    | _ => x
  else x

/-- The queued vector instructions, each with the windows and VE_VL that those before it leave. -/
def queuedVe : (Tbl W64 × Nat) → List VeInstr → List (VeInstr × Tbl W64 × Nat)
  | _, [] => []
  | x, v :: r => (v, x.1, x.2) :: queuedVe (afterVe x v) r

def VecEng.views (e : VecEng) : List (VeInstr × Tbl W64 × Nat) := queuedVe (e.win, e.vl) e.queue

/-- The data window of a gather or scatter (R195). -/
def VeInstr.gsData (v : VeInstr) (t : Tbl W64) : Win := v.window t (if v.fn % 2 = 0 then 0 else 1)

/-- Virtual address of an element of a gather or scatter whose index is `raw` (R195). -/
def gsAddr (v : VeInstr) (t : Tbl W64) (raw : Nat) : W64 :=
  v.s + BitVec.ofInt 64 (intOf (8 * (v.window t 2).size) raw * (v.gsData t).size)

/-- The index element `i` cannot be read yet: it comes by a ring, or its slot of a tagged group is not FULL (R214). -/
def gsBlind (sp : Scratch) (v : VeInstr) (ix : Win) (i : Nat) : Bool :=
  ix.ringed || (let a := (ix.addr i).toNat
    mapTagged v.map (spGroup a) && !isFull sp (spSlot a))

/-- A gather or scatter still has to access a line of the bytes [lo, lo + n) (R255): by its indices once it is in its
channel; before that, and where an index is not there yet, its addresses are not known and every access that conflicts in kind waits. -/
def gsHits (sp : Scratch) (v : VeInstr) (t : Tbl W64) (vl : Nat) (inChan : Bool) (lo n : Nat) (wr : Bool) : Bool :=
  let writes := v.fn % 2 == 1
  let ix := v.window t 2
  (wr || writes) && (!inChan ||
    (List.range (vl - v.rd)).any (fun j => gsBlind sp v ix (v.rd + j) ||
      let a := gsAddr v t (spRead sp (ix.addr (v.rd + j)).toNat ix.size)
      (⟨true, (a.toNat : Int), 0, (v.gsData t).size, 1, writes⟩ : Run).hits true lo n wr))

/-- Fields of a tile descriptor (R65). -/
def mtX (d : W128) : Nat := fld d 127 123
def mtW (d : W128) : Nat := fld d 122 118
def mtM (d : W128) : Nat := fld d 117 109
def mtAcc (d : W128) : Nat := fld d 108 101
def mtAccMode (d : W128) : Nat := fld d 100 99
def mtTop (d : W128) : Nat := fld d 98 97
def mtRows (d : W128) : Nat := fld d 96 88
def mtImage (d : W128) : Bool := bit d 87
def mtRing (d : W128) : Nat := fld d 86 81
def mtXAddr (d : W128) : Nat := fld d 80 66
def mtXStride (d : W128) : Nat := fld d 65 55
def mtWAddr (d : W128) : Nat := fld d 54 40
def mtWStride (d : W128) : Nat := fld d 39 29
def mtWs (d : W128) : Nat := fld d 28 14
def mtTag (d : W128) : Nat := fld d 13 0

/-- Slots of one X record (R57, R58): the used rows' elements padded to a slot, and a scale slot for a block format. -/
def xSlots (d : W128) : Nat :=
  ceilDiv (mtRows d * geomD (mtX d) (mtW d) * ebits (mtX d)) 512 + b2n (isBlock (mtX d))

/-- Elements of K of a pass. -/
def mtK (d : W128) : Nat := mtRows d * geomD (mtX d) (mtW d)

/-- Bytes of one W column (R65). -/
def wColBytes (d : W128) : Nat := (mtK d * ebits (mtW d) + 7) / 8

/-- Block exponents of one W column. -/
def wColExps (d : W128) : Nat := if isBlock (mtW d) then mtK d / blockSize (mtW d) else 0

/-- Fields of a drain (R166): word B in [127:64], word A in [63:0]. -/
def drRows (d : W128) : Nat := fld d 63 55
def drAcc (d : W128) : Nat := fld d 54 47
def drCols (d : W128) : Nat := fld d 46 43
def drFmt (d : W128) : Nat := fld d 42 38
def drRm (d : W128) : BitVec 2 := BitVec.ofNat 2 (fld d 37 36)
def drSat (d : W128) : Bool := bit d 35
def drDst (d : W128) : Nat := fld d 34 20
def drStride (d : W128) : Nat := fld d 19 9
def drDs (d : W128) : Nat := fld d 78 64

/-- Columns that a drain selects, lowest first (R76). -/
def drColumns (d : W128) : List Nat := (List.range 128).filter (fun n => drCols d / 2 ^ (n / 32) % 2 == 1)

def drRowBytes (d : W128) : Nat := ((drColumns d).length * ebits (drFmt d) + 7) / 8

def drRowExps (d : W128) : Nat := if isBlock (drFmt d) then (drColumns d).length / blockSize (drFmt d) else 0

/-- What a matrix command still reads or writes (R68, R210). -/
def MxCmd.runs (q : MxCmd) : List Run :=
  if q.drain then
    [⟨false, ((64 * drDst q.desc + 64 * drStride q.desc * q.row : Nat) : Int), (64 * drStride q.desc : Nat), drRowBytes q.desc,
      drRows q.desc - q.row, true⟩,
     ⟨false, ((64 * drDs q.desc + drRowExps q.desc * q.row : Nat) : Int), 1, drRowExps q.desc * (drRows q.desc - q.row), 1, true⟩]
  else
    let d := q.desc
    let x : List Run :=
      if q.fronted || !mtImage d then []
      else [⟨false, ((64 * mtXAddr d : Nat) : Int), (64 * mtXStride d : Nat), 64 * xSlots d, mtM d, false⟩]
    let w : List Run :=
      if q.state = .queued ∨ q.state = .loading then
        [⟨false, ((64 * mtWAddr d : Nat) : Int), (64 * mtWStride d : Nat), wColBytes d, 128, false⟩,
         ⟨false, ((64 * mtWs d : Nat) : Int), 1, 128 * wColExps d, 1, false⟩]
      else []
    x ++ w

/-- Fields of a DMA descriptor (R230, R231). -/
def DmaCmd.word (q : DmaCmd) (i : Nat) : W64 := q.words.getD i 0
def DmaCmd.srcKind (q : DmaCmd) : Nat := fld (q.word 0) 63 62
def DmaCmd.dstKind (q : DmaCmd) : Nat := fld (q.word 0) 61 60
def DmaCmd.esize (q : DmaCmd) : Nat := fld (q.word 0) 59 57
def DmaCmd.transpose (q : DmaCmd) : Bool := bit (q.word 0) 56
def DmaCmd.inOrder (q : DmaCmd) : Bool := bit (q.word 0) 55
def DmaCmd.tag (q : DmaCmd) : Nat := fld (q.word 0) 31 0
def DmaCmd.n0 (q : DmaCmd) : Nat := fld (q.word 1) 63 42 + 1
def DmaCmd.n1 (q : DmaCmd) : Nat := fld (q.word 1) 41 26 + 1
def DmaCmd.n2 (q : DmaCmd) : Nat := fld (q.word 1) 25 10 + 1
def DmaCmd.crAddr (q : DmaCmd) : W64 := q.word 6

/-- Element size in half bytes. -/
def DmaCmd.nibbles (q : DmaCmd) : Nat :=
  match q.esize with
  | 0 => 1
  | 1 => 2
  | 2 => 4
  | 3 => 8
  | 4 => 16
  | 5 => 32
  | 6 => 128
  | _ => 2

/-- A side of a command: source or destination. -/
structure Side where
  dst : Bool
  kind : Nat
  addr : W64
  s1 : Int
  s2 : Int
  deriving DecidableEq, Repr

def DmaCmd.side (q : DmaCmd) (dst : Bool) : Side :=
  let w := q.word (if dst then 3 else 2)
  ⟨dst, if dst then q.dstKind else q.srcKind, q.word (if dst then 5 else 4), intOf 32 (fld w 63 32), intOf 32 (fld w 31 0)⟩

/-- R231: an SP side with RING_EN. -/
def Side.ringed (x : Side) : Bool := x.kind == 1 && bit x.addr 63
def Side.ring (x : Side) : Nat := fld x.addr 62 57

/-- Byte address that a side's offsets are counted from. -/
def Side.base (x : Side) : Nat := if x.kind = 1 then fld x.addr 20 0 else x.addr.toNat

/-- The contiguous count of a side and the count along its first stride (R232). -/
def DmaCmd.inner (q : DmaCmd) (dst : Bool) : Nat := if dst && q.transpose then q.n1 else q.n0
def DmaCmd.outer (q : DmaCmd) (dst : Bool) : Nat := if dst && q.transpose then q.n0 else q.n1

/-- The bounding span of a side (R234): lowest and highest byte. -/
def DmaCmd.span (q : DmaCmd) (dst : Bool) : Int × Int :=
  let x := q.side dst
  let a1 := x.s1 * (q.outer dst - 1 : Nat)
  let a2 := x.s2 * (q.n2 - 1 : Nat)
  let lo := x.base + (if a1 < 0 then a1 else 0) + (if a2 < 0 then a2 else 0)
  let hi := x.base + (if a1 < 0 then 0 else a1) + (if a2 < 0 then 0 else a2) + ((q.inner dst * q.nibbles + 1) / 2 : Nat) - 1
  (lo, hi)

/-- What a command covers for the hold (R238): its bounding spans; a ring endpoint has none. -/
def DmaCmd.runs (q : DmaCmd) : List Run :=
  [false, true].filterMap (fun dst =>
    let x := q.side dst
    if x.ringed || decide (1 < x.kind) then none
    else
      let (lo, hi) := q.span dst
      some ⟨x.kind == 0, lo, 1, (hi - lo + 1).toNat, 1, dst⟩)

/-- A host store that shares a unit with the bytes. -/
def HostStore.hits (h : HostStore) (lo n : Nat) : Bool := (⟨true, (h.va.toNat : Int), 0, h.size, 1, true⟩ : Run).hits true lo n true

/-- An access that host stores hold (R255) has the reads issued that perform them (R251; log 90). -/
def holdFences (s : State) (k ord lo n : Nat) : State :=
  [0, 1, 2, 3].foldl (fun s f =>
    if (s.core k).hostSt.any (fun h => h.req.faceNo == f && decide (h.ord < ord) && h.hits lo n) then fenceFace s k f else s) s

/-- The place of an access in issue order (R253): its number, and for an element of a gather or scatter that of its instruction. -/
def Core.accOrd (c : Core) (a : Access) : Nat :=
  match a.req with
  | .chan ch => ((tfind c.ve.chans ch).map VeInstr.ord).getD a.id
  | _ => a.id

/-- Whether something of core `k` issued before number `ord` still has to read or write bytes that conflict (R255). `self`
leaves out the vector queue, whose head does not hold itself. -/
def heldBy (s : State) (k ord : Nat) (self : Bool) (mem : Bool) (lo n : Nat) (wr : Bool) : Bool :=
  let c := s.core k
  let hit (rs : List Run) : Bool := rs.any (fun r => r.hits mem lo n wr)
  c.mx.queue.any (fun q => decide (q.ord < ord) && hit q.runs) ||
  c.dma.queue.any (fun q => decide (q.ord < ord) && q.doomed == 0 && hit q.runs) ||
  c.ve.chans.any (fun e => decide (e.2.ord < ord) &&
    (hit (e.2.runs e.2.win e.2.vl) || (mem && gsHits c.sp e.2 e.2.win e.2.vl true lo n wr))) ||
  (!self && c.ve.views.any (fun v => decide (v.1.ord < ord) &&
    (hit (v.1.runs v.2.1 v.2.2) || (mem && v.1.isGs && gsHits c.sp v.1 v.2.1 v.2.2 false lo n wr)))) ||
  (mem && c.acc.any (fun a => decide (c.accOrd a < ord) &&
    (⟨true, (a.va.toNat : Int), 0, a.size, 1, a.isStore || a.isAmo⟩ : Run).hits true lo n wr)) ||
  (mem && c.hostSt.any (fun h => decide (h.ord < ord) && h.hits lo n))

/-- The earliest DMA command that holds bytes for an access of number `ord` (R238). -/
def dmaHolder (s : State) (k ord : Nat) (mem : Bool) (lo n : Nat) (wr : Bool) : Option Nat :=
  ((s.core k).dma.queue.find? (fun q => decide (q.ord < ord) && q.doomed == 0 && q.runs.any (fun r => r.hits mem lo n wr))).map DmaCmd.seq

/-- The parts of the bytes [lo, lo + n) of the scratchpad in each bank group, as (first byte, length). -/
def groupParts (lo n : Nat) : List (Nat × Nat) :=
  if n = 0 then []
  else (List.range ((lo + n - 1) / 2 ^ 18 + 1 - lo / 2 ^ 18)).map (fun i =>
    let a := max lo (2 ^ 18 * (lo / 2 ^ 18 + i))
    (a, min (lo + n) (2 ^ 18 * (lo / 2 ^ 18 + i + 1)) - a))

/-- Bytes of the scratchpad in a tagged group are never held (R256); those in an untagged group may be. -/
def heldSp (s : State) (k ord : Nat) (self : Bool) (m : W32) (lo n : Nat) (wr : Bool) : Bool :=
  (groupParts lo n).any (fun p => !mapTagged m (spGroup p.1) && heldBy s k ord self false p.1 p.2 wr)

end Sys2Proof.Machine
end

