-- ==== Sys2Proof/Machine/Counters.lean ====
section
/-!
DEFINITION. Counter control words (20 R483–R485): which event codes a unit has, and how a control word is written.
-/
namespace Sys2Proof.Machine

/-- The kind of unit that counter `n` belongs to (R483): 0 core, 1 cluster, 2 compute die, 3 hub die. -/
def ctrUnit (n : Nat) : Nat := if n < 5120 then 0 else if n < 5632 then 1 else if n < 5888 then 2 else 3

/-- Highest event code of a unit (R485). -/
def lastEvent (u : Nat) : Nat :=
  match u with
  | 0 => 0x11
  | 1 => 7
  | 2 => 7
  | _ => 9

/-- Events whose UMASK selects a sub-event (R485). -/
def namedMask (u ev : Nat) : Bool :=
  match u with
  | 0 => ev == 3 || ev == 4 || ev == 5 || ev == 7 || ev == 0x0B || ev == 0x0C || ev == 0x0E
  | 1 => ev == 1 || ev == 2 || ev == 4
  | 2 => ev == 3 || ev == 4 || ev == 6 || ev == 7
  | _ => ev == 1 || ev == 2 || ev == 3 || ev == 4 || ev == 5 || ev == 7 || ev == 8

/-- A control word that counter `n` accepts (R484, R485): no reserved event code, and UMASK 0xFFFF where none is named. -/
def ctlOk (n : Nat) (w : W64) : Bool :=
  let u := ctrUnit n
  let ev := fld w 55 48
  ev == 0 || (decide (ev ≤ lastEvent u) && (namedMask u ev || fld w 47 32 == 0xFFFF))

/-- A fixed counter (R483). -/
def ctrFixed (n : Nat) : Bool := decide (n < 5120) && decide (16 ≤ n % 20)

/-- The control word after a write of `w`: constant and reserved fields keep what they read (R484). -/
def ctlAfter (n : Nat) (old w : W64) : W64 :=
  if ctrFixed n then (old &&& ~~~0x8FFF0000#64) ||| (w &&& 0x8FFF0000#64)
  else if n < 5120 then w &&& 0x80FFFFFF8FFF0000#64 else w &&& 0x80FFFFFF00000000#64

/-- Write CTL; a word that is refused changes nothing. A fixed counter's event is constant and not checked. -/
def writeCtl (s : State) (n : Nat) (w : W64) : State :=
  if ctrFixed n || ctlOk n w then
    let c := s.ctr n
    s.setCtr n { c with ctl := ctlAfter n c.ctl w }
  else s

end Sys2Proof.Machine
end

