-- ==== Sys2Proof/Machine/HostRing.lean ====
section
/-!
DEFINITION. The rings of a function in host memory (16 R412, R414): entries that the device writes, held while there is no
room, and the interrupt after each update.
-/
namespace Sys2Proof.Machine

/-- The three rings that the device produces into, as COMPLETION_HEAD_DOORBELL numbers them. -/
inductive RingId where
  | adminCq
  | xlatCq
  | fault
  deriving DecidableEq, Repr

def getRing (h : HostFn) : RingId → Ring
  | .adminCq => h.adminCq
  | .xlatCq => h.xlatCq
  | .fault => h.faultRing

def setRing (h : HostFn) (r : Ring) : RingId → HostFn
  | .adminCq => { h with adminCq := r }
  | .xlatCq => { h with xlatCq := r }
  | .fault => { h with faultRing := r }

/-- Bytes of one entry: 16 for completions (R322, R418), 64 for fault records (R320). -/
def RingId.bytes : RingId → Nat
  | .fault => 64
  | _ => 16

def Ring.on (r : Ring) : Bool := bit r.ctrl 63
def Ring.size (r : Ring) : Nat := 2 ^ fld r.ctrl 4 0
def Ring.full (r : Ring) : Bool := (r.tail + 1) % r.size == r.head

/-- Write the words of an entry, word 0 last (R414). -/
def putEntry (s : State) (f : Nat) (addr : W64) : List W64 → State
  | [] => s
  | w0 :: rest =>
    let s := if rest.isEmpty then s else hostWrite s f (addr + 8) (bytesOf rest)
    hostWrite s f addr (leBytes 8 w0.toNat)

/-- Write as many held entries as there is room for; true when one was written. An entry that no secure stream covers stays held as
one without room does (R409, R414: none is dropped). -/
def drainRing (f : Nat) (i : RingId) : Nat → State → Bool → State × Bool
  | 0, s, w => (s, w)
  | n + 1, s, w =>
    let r := getRing (s.fn f) i
    match r.held with
    | [] => (s, w)
    | e :: rest =>
      let addr := r.base + BitVec.ofNat 64 (r.tail * i.bytes)
      if !r.on || r.full || !ideOk s addr i.bytes then (s, w)
      else
        let s := putEntry s f addr e
        let s := s.setFn f (setRing (s.fn f) { r with tail := (r.tail + 1) % r.size, held := rest } i)
        drainRing f i n s true

/-- After an update of a ring: write what it holds, then one interrupt when its IRQ bit is 1 (R414). -/
def pumpRing (s : State) (f : Nat) (i : RingId) : State :=
  let (s, wrote) := drainRing f i (getRing (s.fn f) i).held.length s false
  let r := getRing (s.fn f) i
  if wrote && bit r.ctrl 9 then msix s f (fld r.ctrl 20 10) else s

/-- Hand an entry to a ring: it is held until there is room, never dropped (R414). -/
def pushEntry (s : State) (f : Nat) (i : RingId) (e : List W64) : State :=
  let r := getRing (s.fn f) i
  pumpRing (s.setFn f (setRing (s.fn f) { r with held := r.held ++ [e] } i)) f i

end Sys2Proof.Machine
end

