-- ==== Sys2Proof/Machine/KedalBase.lean ====
section
/-!
DEFINITION. Kedal frames (17 R426), the request queue shared by all paths (R430), and how a response leaves on each path (R433,
R437, R438).
-/
namespace Sys2Proof.Machine

def frByte (f : List Byte) (i : Nat) : Nat := (f.getD i 0).toNat
def frNat (f : List Byte) (i n : Nat) : Nat := leNat ((f.drop i).take n)
def frVer (f : List Byte) : Nat := frByte f 0 / 16
def frOp (f : List Byte) : Nat := frByte f 0 % 16
def frBodyLen (f : List Byte) : Nat := frNat f 2 2
def frIndex (f : List Byte) : Nat := frNat f 8 2
def frSub (f : List Byte) : Nat := frByte f 10
def frType (f : List Byte) : Nat := frByte f 11
def frOffset (f : List Byte) : Nat := frNat f 12 2
def frPrincipal (f : List Byte) : Nat := frByte f 14
def frVf (f : List Byte) : Nat := frByte f 15
def frKey (f : List Byte) : Nat := frByte f 16
def frArg (f : List Byte) : Nat := frNat f 20 8
def frBody (f : List Byte) : List Byte := (f.drop 32).take (frBodyLen f)

/-- A RESPONSE to a request (R426, R428): REQ_ID, INDEX, SUB and TYPE are echoed. -/
def response (req : List Byte) (status : Nat) (arg : Nat) (body : List Byte) : List Byte :=
  [0x14#8, BitVec.ofNat 8 status] ++ leBytes 2 body.length ++ (req.drop 4).take 8 ++ List.replicate 8 0#8 ++ leBytes 8 arg ++
    List.replicate 4 0#8 ++ body

/-- Which of the three paths (R432): field network, window, fabric. -/
def pathNo : KPath → Nat
  | .field => 0
  | .window _ => 1
  | .fabric => 2

/-- KD_STATS (R444): 0 bad tags, 1 replays, 2 busy refusals, 3 malformed frames. -/
def kdStat (s : State) (p : KPath) (i : Nat) : State :=
  let k := 4 * pathNo p + i
  { s with kedal := { s.kedal with stats := tset 0 s.kedal.stats k (holdInc 0xFFFFFFFF (tget 0 s.kedal.stats k)) } }

/-- Payload units of a frame, padded with zero (R438). -/
def frameUnits (f : List Byte) : List W64 := unitsOf f

/-- A MGMT packet that answers `src`: a node ID, or the first header word of a reversed path (R345, R438). -/
def mgmtPacket (s : State) (src : W64) (f : List Byte) (st : W64) : Packet :=
  let us := frameUnits f
  let pathed := decide (2 ^ 60 ≤ src.toNat)
  { w0 := hdr0 (if pathed then 0xFFFFE else src.toNat) s.fab.node.toNat 0 2 5 us.length
    w1 := if pathed then src else 0
    w2 := st
    w3 := 0
    body := us }

/-- The source that a response is kept for (R433): a MAC address of the field network, or a node ID of the fabric, which the SRC_NODE of a
path-routed request names too. -/
def senderOf (p : KPath) (src : W64) (node : BitVec 20) : W64 :=
  match p with
  | .field => setBit src 56 true
  | .fabric => node.setWidth 64
  | .window _ => 0

/-- EtherType of Kedal frames (R436). -/
def etherType (s : State) : Nat := tget 0x88B5 s.kedal.field 5

/-- PLCA runs on the field network (R436): it is enabled and the module has a node ID. -/
def plcaOn (s : State) : Bool := tget 0 s.kedal.field 1 == 1 && tget 0xFF s.kedal.field 2 != 0xFF

/-- The node count that the module sends in the PLCA beacon, as the coordinator (R436). -/
def plcaBeacon (s : State) : Option Nat := if plcaOn s && tget 0xFF s.kedal.field 2 == 0 then some (tget 8 s.kedal.field 3) else none

/-- A response on the field network, from its EtherType on, padded to the 46-byte minimum (R435). -/
def fieldFrame (etype : Nat) (f : List Byte) : List Byte := beBytes 2 etype ++ f ++ List.replicate (46 - f.length) 0#8

/-- A response goes to its destination, on the field network under an EtherType. -/
def sendResponse (s : State) (p : KPath) (src : W64) (etype : Nat) (rsp : List Byte) : State :=
  match p with
  | .window k =>
    let x := s.kslot k.val
    let s := s.setKslot k.val { x with rsp := rsp, ctrl := setBit (setBit x.ctrl 30 false) 29 true }
    if bit x.ctrl 9 then msix s 0 (fld x.ctrl 20 10) else s
  | .field => { s with kedal := { s.kedal with sent := s.kedal.sent ++ [(p, src, fieldFrame etype rsp)] } }
  | .fabric =>
    let (st, s) := s.stamp
    { s with
      kedal := { s.kedal with sent := s.kedal.sent ++ [(p, src, rsp)] }
      fab := { s.fab with epOut := s.fab.epOut ++ [mgmtPacket s src rsp st] } }

/-- The field network and the fabric keep the last 16 responses per source (R433). -/
def keepResponse (s : State) (q : KReq) (rsp : List Byte) : State :=
  match q.path with
  | .window _ => s
  | _ =>
    let mine := s.kedal.kept.filter (fun e => e.1 == q.sender)
    let rest := s.kedal.kept.filter (fun e => e.1 != q.sender)
    { s with kedal := { s.kedal with kept := rest ++ ((mine ++ [(q.sender, q.frame, rsp, s.bcn.num)]).drop (mine.length + 1 - 16)) } }

/-- A response leaves on the path of its request, under the EtherType in force, and is kept; that of a cleared slot is discarded (R437). -/
def respondAs (s : State) (q : KReq) (etype : Nat) (rsp : List Byte) : State :=
  if q.dropped then s else keepResponse (sendResponse s q.path q.src etype rsp) q rsp

def respond (s : State) (q : KReq) (rsp : List Byte) : State := respondAs s q (etherType s) rsp

/-- The kept response to a request repeated within 2 s, in beacon periods (R433; log 23). -/
def keptResponse (s : State) (q : KReq) : Option (List Byte) :=
  (s.kedal.kept.find? (fun e => e.1 == q.sender && e.2.1 == q.frame && decide ((s.bcn.num - e.2.2.2).toNat * s.bcn.period ≤ 2000000))).map
    (fun e => e.2.2.1)

/-- A request joins the queue, or answers 0x0B at once (R430). -/
def submit (s : State) (q : KReq) : State :=
  if 64 ≤ s.kedal.queue.length then respond (kdStat s q.path 2) q (response q.frame 0x0B 0 [])
  else { s with kedal := { s.kedal with queue := s.kedal.queue ++ [q] } }

/-- A frame repeated within its time gets the kept answer again (R433); any other is a request of the queue. -/
def kedalRequest (s : State) (q : KReq) : State :=
  match keptResponse s q with
  | none => submit s q
  | some r => sendResponse s q.path q.src (etherType s) r

/-- While 0x4000:02 holds a node ID, a fabric request of any other node is discarded (R438). -/
def fmAdmits (s : State) (q : KReq) : Bool :=
  match q.path with
  | .fabric => s.fab.fmNode == 0xFFFFF#20 || q.sender == s.fab.fmNode.setWidth 64
  | _ => true

/-- GO of a window slot (R437): ignored while BUSY. -/
def slotGo (s : State) (k : Fin 16) : State :=
  let x := s.kslot k.val
  if bit x.ctrl 30 then s
  else
    let req := (x.req ++ List.replicate 288 0#8).take (32 + min 256 (frBodyLen x.req))
    submit (s.setKslot k.val { x with ctrl := setBit x.ctrl 30 true }) ⟨.window k, 0, req, 0, false⟩

end Sys2Proof.Machine
end

