-- ==== Sys2Proof/Machine/Mmio.lean ====
section
/-!
DEFINITION. Registers in the BARs (16 R410–R414): the function register page, the dictionary window (17 R437) and the counters of
the hub die register space (20 R484), as the host and privileged contexts reach them (R413).
-/
namespace Sys2Proof.Machine

/-- The five rings of a function in the order of their registers (R412). -/
def ringAt (h : HostFn) (j : Nat) : Ring :=
  match j with
  | 0 => h.adminSq
  | 1 => h.adminCq
  | 2 => h.xlatSq
  | 3 => h.xlatCq
  | _ => h.faultRing

def putRingAt (h : HostFn) (j : Nat) (r : Ring) : HostFn :=
  match j with
  | 0 => { h with adminSq := r }
  | 1 => { h with adminCq := r }
  | 2 => { h with xlatSq := r }
  | 3 => { h with xlatCq := r }
  | _ => { h with faultRing := r }

/-- Rings that the device produces into. -/
def deviceRing (j : Nat) : Option RingId :=
  match j with
  | 1 => some .adminCq
  | 3 => some .xlatCq
  | 4 => some .fault
  | _ => none

/-- HI_FN_STATUS (R412). -/
def fnStatus (s : State) (f : Nat) : W64 :=
  let b := tget 0#8 s.bindings f
  at_ 0 f ||| at_ 8 (fld b 4 0) ||| at_ 13 (b2n (bit b 7)) ||| at_ 14 (b2n s.host.ready) ||| at_ 16 ((s.fn f).dropped)

/-- Read a register of the function page; a write-only doorbell gives no value (none). -/
def fnRead (s : State) (f off : Nat) : Option W64 :=
  let h := s.fn f
  if off = 0 then some (fnStatus s f)
  else if off = 8 then some h.win
  else if 0x10 ≤ off ∧ off < 0xB0 then
    let j := (off - 0x10) / 0x20
    let r := ringAt h j
    let prod := (deviceRing j).isSome
    match (off - 0x10) % 0x20 with
    | 0 => some r.base
    | 8 => some r.ctrl
    | 0x10 => none
    | _ => some (BitVec.ofNat 64 (if prod then r.tail else r.head))
  else some 0

/-- R412: CTRL; BASE and LOG2 may change only while EN is 0, and EN stays 0 with a reserved LOG2. A ring that is put in use
starts empty. -/
def ctrlWrite (r : Ring) (v : W64) : Ring :=
  let v := v &&& 0x80000000001FFE1F#64
  let v := if r.on then setFld v 4 0 (fld r.ctrl 4 0) else v
  let ok := decide (4 ≤ fld v 4 0) && decide (fld v 4 0 ≤ 16)
  let v := if ok then v else setBit v 63 false
  if !r.on && bit v 63 then { r with ctrl := v, head := 0, tail := 0 } else { r with ctrl := v }

/-- Write a register of the function page. -/
def fnWrite (s : State) (f off : Nat) (v : W64) : State :=
  let h := s.fn f
  if off = 8 then s.setFn f { h with win := v &&& 0xFFFFFF0000000001#64 }
  else if 0x10 ≤ off ∧ off < 0xB0 then
    let j := (off - 0x10) / 0x20
    let r := ringAt h j
    match (off - 0x10) % 0x20 with
    | 0 => if r.on then s else s.setFn f (putRingAt h j { r with base := v &&& 0xFFFFFFFFFFFFF000#64 })
    | 8 =>
      let s := s.setFn f (putRingAt h j (ctrlWrite r v))
      (match deviceRing j with
        | some i => pumpRing s f i
        | none => s)
    | 0x10 =>
      if !r.on || decide (r.size ≤ v.toNat) then s
      else (match deviceRing j with
        | some i => pumpRing (s.setFn f (putRingAt h j { r with head := v.toNat })) f i
        | none => s.setFn f (putRingAt h j { r with tail := v.toNat }))
    | _ => s
  else s

/-- KD_SLOT_CTRL (R437). -/
def slotCtrlWrite (s : State) (k : Fin 16) (v : W32) : State :=
  let x := s.kslot k.val
  let c := setFld (setBit x.ctrl 29 (bit x.ctrl 29 && !bit v 29)) 20 9 (fld v 20 9)
  let s := s.setKslot k.val { x with ctrl := c }
  if bit v 31 then slotGo s k else s

/-- A byte of the dictionary window. -/
def windowByte (s : State) (off : Nat) : Byte :=
  let k := off / 0x1000
  let o := off % 0x1000
  if 16 ≤ k then 0
  else
    let x := s.kslot k
    if o < 288 then x.req.getD o 0
    else if 0x400 ≤ o ∧ o < 0x400 + 288 then x.rsp.getD (o - 0x400) 0
    else if 0x800 ≤ o ∧ o < 0x804 then byteOf x.ctrl (o - 0x800)
    else 0

def setAt (l : List Byte) (i : Nat) (b : Byte) : List Byte := (l ++ List.replicate (i + 1 - l.length) 0#8).set i b

/-- Bytes written to the dictionary window; the control word acts as it stands after them. -/
def windowWrite (s : State) (off : Nat) (bs : List Byte) : State :=
  let k := off / 0x1000
  let o := off % 0x1000
  if 16 ≤ k then s
  else if o < 288 then
    let x := s.kslot k
    s.setKslot k { x with req := bs.zipIdx.foldl (fun l e => if o + e.2 < 288 then setAt l (o + e.2) e.1 else l) x.req }
  else if 0x800 ≤ o ∧ o < 0x804 then
    let old := setFld (s.kslot k).ctrl 29 29 0
    let w := bs.zipIdx.foldl (fun (w : W32) e => if o - 0x800 + e.2 < 4 then setByte w (o - 0x800 + e.2) e.1 else w) old
    slotCtrlWrite s (Fin.ofNat _ k) w
  else s

/-- The 8 bytes of a register at an offset of the PF's BAR0 (R410); none where the spec gives no value. -/
def barWord (s : State) (off : Nat) : Option W64 :=
  if off < 0x1000 then fnRead s 0 off
  else if 0x100000 ≤ off ∧ off < 0x200000 then
    some (BitVec.ofNat 64 (leNat ((List.range 8).map (fun i => windowByte s (off - 0x100000 + i)))))
  else if 0x1800000 ≤ off ∧ off < 0x1800000 + 6016 * 0x20 then
    let c := s.ctr ((off - 0x1800000) / 0x20)
    match (off - 0x1800000) % 0x20 / 8 with
    | 0 => some c.ctl
    | 1 => some c.count
    | 2 => some c.frozen
    | _ => some 0
  else if 0x1000000 ≤ off ∧ off < 0x3000000 then none
  else some 0

/-- A whole register of the PF's BAR0 is written. -/
def barPut (s : State) (off : Nat) (v : W64) : State :=
  if off < 0x1000 then fnWrite s 0 off v
  else if 0x1800000 ≤ off ∧ off < 0x1800000 + 6016 * 0x20 then
    let n := (off - 0x1800000) / 0x20
    match (off - 0x1800000) % 0x20 / 8 with
    | 0 => writeCtl s n v
    | 1 => s.setCtr n { s.ctr n with count := v }
    | _ => s
  else s

/-- The MSI-X table of a function as BAR4 holds it, 16 bytes a vector: address, then data with the vector's mask in the bit that follows
it (R410; the layout is the PCIe specification's, log 98). -/
def vecWrite (s : State) (f off : Nat) (v : W64) : State :=
  let i := off / 16
  if msixTable f ≤ i ∨ 0x8000 ≤ off then s
  else
    let h := s.fn f
    let x := h.vec i
    let y : MsixVec := if off % 16 < 8 then { x with addr := v &&& ~~~3#64 } else { x with data := v.setWidth 32, mask := bit v 32 }
    msixPump (s.setFn f { h with vecs := tset MsixVec.dflt h.vecs i y }) f

/-- The 8 bytes at an offset of BAR4: the table, and the pending bit array at 0x8000. -/
def vecRead (s : State) (f off : Nat) : W64 :=
  let h := s.fn f
  if off < 0x8000 then
    let x := h.vec (off / 16)
    if msixTable f ≤ off / 16 then 0 else if off % 16 < 8 then x.addr else at_ 0 x.data.toNat ||| at_ 32 (b2n x.mask)
  else
    (h.pba.filter (fun v => v / 64 == (off - 0x8000) / 8)).foldl (fun (w : W64) v => setBit w (v % 64) true) 0

/-- What a read of a function's BARs gives (R410, R411): BAR2 reads zero; none where the spec gives no value. -/
def barRead (s : State) (f bar off : Nat) : Option W64 :=
  match bar with
  | 0 => if f = 0 then barWord s off else fnRead s f off
  | 2 => some 0
  | _ => some (vecRead s f off)

/-- A read of `n` bytes of the PF's BAR0. -/
def mmioRead (s : State) (off n : Nat) : Nat × State :=
  let (x, s1) := s.free
  let word (i : Nat) : Option W64 := barWord s (off / 8 * 8 + 8 * i)
  let val := (List.range (n / 8 + 1)).foldl (fun (v : Nat) i => v + ((word i).getD x).toNat * 2 ^ (64 * i)) 0
  (val / 2 ^ (8 * (off % 8)) % 2 ^ (8 * n),
    if (List.range ((off % 8 + n + 7) / 8)).any (fun i => (word i).isNone) then s1 else s)

/-- A write of `n` bytes to the PF's BAR0. A write of part of a register keeps the bytes it does not name (log 24). -/
def mmioWrite (s : State) (off n v : Nat) : State :=
  let bs := leBytes n v
  if 0x100000 ≤ off ∧ off < 0x200000 then windowWrite s (off - 0x100000) bs
  else
    let base := off / 8 * 8
    (List.range ((off % 8 + n + 7) / 8)).foldl (fun s i =>
      let a := base + 8 * i
      let w := bs.zipIdx.foldl (fun (w : W64) e =>
        let o := off + e.2
        if a ≤ o ∧ o < a + 8 then setByte w (o - a) e.1 else w) ((barWord s a).getD 0)
      barPut s a w) s

end Sys2Proof.Machine
end

