-- ==== Sys2Proof/Machine/Home.lean ====
section
/-!
DEFINITION. The home directories and the protocol's messages (11 R276–R294): arrival at a home or a cluster, the transaction
that a home serves, its answers and its grant.
-/
namespace Sys2Proof.Machine

/-- Place of a compute die on the ring CD0, CD1, CD3, CD2 (R9). -/
def ringPos (die : Nat) : Nat := if die = 2 then 3 else if die = 3 then 2 else die

def ringDie (p : Nat) : Nat := ringPos (p % 4)

/-- Ring links between two dies for a line (R11, R14): the way round that R11 gives, or the other one when it meets a lost
link or a die that is down (R465). Traffic between CD0 and CD3, or CD1 and CD2, crosses one compute die and never the hub (R10). Where both
ways are unusable the spec names no path: the other one is taken all the same (log 82, DESIGN CHOICE). -/
def ringPath (s : State) (a b line : Nat) : List Nat :=
  let p := ringPos a
  let q := ringPos b
  let up (n : Nat) : List Nat := (List.range n).map (fun i => (p + i) % 4)
  let down (n : Nat) : List Nat := (List.range n).map (fun i => (p + 3 - i) % 4)
  let n := (q + 4 - p) % 4
  let first := if n = 2 then
      (if (ringDie (p + 1) < ringDie (p + 3)) = (line % 2 = 0) then up 2 else down 2)
    else if n = 3 then down 1 else up n
  let mid (l : List Nat) : List Nat :=
    if l = up l.length then (List.range (l.length - 1)).map (fun i => ringDie (p + 1 + i))
    else (List.range (l.length - 1)).map (fun i => ringDie (p + 3 - i))
  let lost (l : List Nat) : Bool :=
    l.any (fun i => decide (tget LinkState.inUse s.mem.cdcd i = .lost)) || (mid l).any (dieDown s)
  if lost first then (if first = up n then down (4 - n) else up n) else first

/-- While a failed link's transactions are replayed, traffic of the lines that used it is held (R14). -/
def linkHeld (s : State) (who : Agent) (line : Nat) : Bool :=
  match who with
  | .hub => false
  | _ => (ringPath s (dieOfCluster (clusterOfAgent who)) (homeOf line) line).any (fun i =>
      decide (tget LinkState.inUse s.mem.cdcd i = .replaying))

/-- Whether a message travels to the home. -/
def MsgKind.toHome : MsgKind → Bool
  | .req _ => true
  | .wb => true
  | .evc => true
  | .invAck => true
  | .fwdData => true
  | .nohold => true
  | _ => false

/-- Bytes that die `a` sends over the links of a path and the dies behind it pass on (R485): bit 1 of UMASK is the lower ring neighbour, bit 2
the higher. -/
def countHops (n : Nat) : (path : List Nat) → (a : Nat) → State → State
  | [], _, s => s
  | i :: r, a, s =>
    let b := if ringDie i = a then ringDie (i + 1) else ringDie i
    let other := if ringPos a = i then ringDie (ringPos a + 3) else ringDie (ringPos a + 1)
    countHops n r b (s.bumpDie a 6 (if b < other then 2 else 4) n)

/-- A message has crossed from die to die (R485, die 0x06): its data, and a header whose size the spec does not state. -/
def countMsg (s : State) (m : Msg) (toHome : Bool) : State :=
  let n := m.bytes.length + Config.dieHeader
  let h := homeOf m.line
  match m.who with
  | .hub => if toHome then s else s.bumpDie h 6 1 n
  | _ =>
    let c := dieOfCluster (clusterOfAgent m.who)
    let path := ringPath s c h m.line
    if toHome then countHops n path c s else countHops n path.reverse h s

/-- The first message in flight about a line between an agent and the home, one way (R286), if it is of the named kind: it
arrives. -/
def arrive (s : State) (who : Agent) (line : Nat) (toHome : Bool) (p : MsgKind → Bool) : Option (Msg × State) :=
  match takeFirst (fun m => m.who == who && m.line == line && m.kind.toHome == toHome) s.mem.msgs with
  | some (m, rest) =>
    if p m.kind && !linkHeld s who line then some (m, countMsg { s with mem := { s.mem with msgs := rest } } m toHome) else none
  | none => none

namespace State

def updHome (s : State) (d : Nat) (f : Home → Home) : State := s.setHome d (f (s.home d))

end State

/-- Position and entry of a line in its home directory. -/
def dirFind (h : Home) (line : Nat) : Option (Nat × DirEnt) :=
  ((List.range 16).map (16 * dirSet line + ·)).findSome? (fun p =>
    match tfind h.dir p with
    | some e => if e.line == line then some (p, e) else none
    | none => none)

def sharers (v : W32) : List Nat := (List.range 32).filter (fun c => bit v c)

def dirUpd (s : State) (line : Nat) (f : DirEnt → DirEnt) : State :=
  s.updHome (homeOf line) (fun h => match dirFind h line with
    | some (p, e) => { h with dir := tput h.dir p (f e) }
    | none => h)

def dirDel (s : State) (line : Nat) : State :=
  s.updHome (homeOf line) (fun h => match dirFind h line with
    | some (p, _) => { h with dir := tdel h.dir p }
    | none => h)

def homeBusy (h : Home) (line : Nat) : Bool := h.active.any (fun t => t.msg.line == line)

/-- Whether serving a request gives a cluster the line, so that an entry must exist. -/
def ReqKind.takes : ReqKind → Bool
  | .rdS => true
  | .rdX => true
  | .upg => true
  | .sf => true
  | _ => false

/-- The first request that waits for a line needs an entry. -/
def entryWanted (h : Home) (line : Nat) : Bool :=
  match h.queue.find? (fun m => m.line == line) with
  | some m => (match m.kind with | .req r => r.takes | _ => false)
  | none => false

/-- An entry that names no cluster and serves no transaction is free, unless it has been given to the request that waits (R292). -/
def dirTidy (s : State) (line : Nat) : State :=
  let h := s.home (homeOf line)
  match dirFind h line with
  | some (_, e) => if e.shar = 0 ∧ !homeBusy h line ∧ !entryWanted h line then dirDel s line else s
  | none => s

/-- What a home asks the holders of a line before it serves a request (R287, R290). -/
def probes (e : Option DirEnt) (kind : ReqKind) (c : Nat) : List (Nat × MsgKind) :=
  match e with
  | none => []
  | some e =>
    let all := sharers e.shar
    let others := all.filter (· != c)
    let takeBack := if e.x then all.map (fun j => (j, MsgKind.fwdX)) else all.map (fun j => (j, MsgKind.inv))
    match kind with
    | .rdS => if e.x then others.map (fun j => (j, .fwdS)) else []
    | .rdX => others.map (fun j => (j, if e.x then .fwdX else .inv))
    | .upg => others.map (fun j => (j, if e.x then .fwdX else .inv))
    | .sf => if e.x && all.contains c then [] else others.map (fun j => (j, if e.x then .fwdX else .inv))
    | .wt => if e.x then takeBack else others.map (fun j => (j, .inv))
    | .ucRd => if e.x then all.map (fun j => (j, .fwdR)) else []
    | .dmaRd => if e.x then all.map (fun j => (j, .fwdR)) else []
    | _ => takeBack

/-- Sectors of a line from HBM with their poison (counted as bytes read, R485). -/
def readSectors (s : State) (line mask : Nat) : Bytes × Nat :=
  ((sectorsOf mask).flatMap (fun q => sectorBytes q (hbmSector s line q)),
   ((sectorsOf mask).map (fun q => if hbmPoison s line q then 2 ^ q else 0)).foldl (· + ·) 0)

/-- Write bytes at the home (R296): a sector written whole by DMA loses its poison, a partly written one keeps it; a
poisoned sector of the writer poisons it (R295). -/
def dmaStore (s : State) (line : Nat) (bs : Bytes) (poison : Nat) : State :=
  let s := hbmBytes s line bs
  let s := (List.range 4).foldl (fun s q =>
    if (List.range 64).all (fun i => (tfind bs (64 * q + i)).isSome) then setPoison s line q false else s) s
  let s := (sectorsOf poison).foldl (fun s q => setPoison s line q true) s
  s.bumpDie (homeOf line) 4 (stackBit line) bs.length

/-- Send a grant or completion of a request. -/
def reply (s : State) (m : Msg) (kind : MsgKind) (mask : Nat) (bs : Bytes) (poison : Nat) (val : W64) : State :=
  sendMsg s ⟨kind, m.who, m.line, mask, bs, poison, m.id, m.size, val, 0⟩

def setShar (x : Bool) (v : W32) (e : DirEnt) : DirEnt := { e with x := x, shar := v }

def oneBit (c : Nat) : W32 := BitVec.ofNat 32 (2 ^ c)

/-- Grant X with data (R286). -/
def grantX (s : State) (m : Msg) (mask : Nat) : State :=
  let c := clusterOfAgent m.who
  let (bs, ps) := readSectors s m.line mask
  let s := dirUpd s m.line (setShar true (oneBit c))
  (reply s m .dataX mask bs ps 0).bumpDie (homeOf m.line) 3 (stackBit m.line) bs.length

/-- A victim has left the directory: its entry goes to the request that waited for it (R292), where that is still there. -/
def evicted (s : State) (line w : Nat) : State :=
  s.updHome (homeOf line) (fun h => match dirFind h line with
    | some (p, _) => { h with dir := if entryWanted h w ∧ dirSet w = dirSet line ∧ (dirFind h w).isNone then tput h.dir p ⟨w, false, 0⟩ else tdel h.dir p }
    | none => h)

/-- Everything the home awaited has come: it performs the request and sends its grant or completion (R286, R287, R290). -/
def finishTxn (s : State) (t : HomeTxn) : State :=
  let m := t.msg
  let d := homeOf m.line
  let c := clusterOfAgent m.who
  let s := s.updHome d (fun h => { h with active := h.active.filter (fun u => u.msg.line != m.line) })
  match t.evict with
  | some w => (evicted s m.line w).bumpDie d 2 0xFFFF 1
  | none =>
    let shar := ((dirFind (s.home d) m.line).map (fun e => e.2.shar)).getD 0
    let isX := ((dirFind (s.home d) m.line).map (fun e => e.2.x)).getD false
    let s := s.bumpDie d 1 0xFFFF 1
    let s := match m.kind with
      | .req .rdS =>
        let (bs, ps) := readSectors s m.line m.mask
        let s := s.bumpDie d 3 (stackBit m.line) bs.length
        if shar = 0 ∧ m.size = 0 then
          reply (dirUpd s m.line (setShar true (oneBit c))) m .dataE m.mask bs ps 0
        else reply (dirUpd s m.line (setShar false (shar ||| oneBit c))) m .dataS m.mask bs ps 0
      | .req .rdX => grantX s m m.mask
      | .req .upg =>
        if bit shar c then reply (dirUpd s m.line (setShar true (oneBit c))) m .gnt 0 [] 0 0 else grantX s m 0xF
      | .req .sf => if isX && bit shar c then
          let (bs, ps) := readSectors s m.line m.mask
          (reply s m .dataX m.mask bs ps 0).bumpDie d 3 (stackBit m.line) bs.length
        else grantX s m m.mask
      | .req .wt =>
        if (sectorsOf m.mask).any (fun q => hbmPoison s m.line q) then reply s m .ack m.mask [] m.mask 0
        else reply ((hbmBytes s m.line m.bytes).bumpDie d 4 (stackBit m.line) m.bytes.length) m .ack m.mask m.bytes 0 0
      | .req .ucWr =>
        if (sectorsOf m.mask).any (fun q => hbmPoison s m.line q) then reply s m .ack m.mask [] m.mask 0
        else reply ((hbmBytes s m.line m.bytes).bumpDie d 4 (stackBit m.line) m.bytes.length) m .ack m.mask [] 0 0
      | .req .dmaWr => reply (dmaStore s m.line m.bytes m.poison) m .ack m.mask [] 0 0
      | .req (.amo op) =>
        if (sectorsOf m.mask).any (fun q => hbmPoison s m.line q) then reply s m .ack m.mask [] m.mask 0
        else
          let base := (m.bytes.headD (0, 0)).1
          let old := mread s.mem.hbm (256 * m.line + base) m.size
          let new := amoApply op m.size old m.val.toNat m.cmp.toNat
          let s := (s.bumpDie d 3 (stackBit m.line) m.size).bumpDie d 4 (stackBit m.line) m.size
          reply (hbmWrite s (256 * m.line + base) m.size new) m .ack m.mask [] 0 (BitVec.ofNat 64 old)
      | .req .ucRd =>
        let (bs, ps) := readSectors s m.line m.mask
        (reply s m .dataU m.mask bs ps 0).bumpDie d 3 (stackBit m.line) bs.length
      | .req .dmaRd =>
        let (bs, ps) := readSectors s m.line m.mask
        (reply s m .dataU m.mask bs ps 0).bumpDie d 3 (stackBit m.line) bs.length
      | _ => s
    dirTidy s m.line

/-- Begin to serve: send the probes, or finish at once where nobody has to answer. -/
def beginTxn (s : State) (t : HomeTxn) (ps : List (Nat × MsgKind)) : State :=
  let d := homeOf t.msg.line
  let t := { t with await := ps.map Prod.fst }
  let s := s.updHome d (fun h => { h with active := h.active ++ [t] })
  let s := ps.foldl (fun s p => sendMsg s { Msg.bare p.2 (agentL2 p.1) t.msg.line with mask := t.msg.mask }) s
  if ps.isEmpty then finishTxn s t else s

/-- Where a new entry goes, as for a cache (R278): not a BUSY line's, nor one that is kept for a request that waits (R292). -/
def dirVictim (h : Home) (line : Nat) : Option (Nat × Option DirEnt) :=
  let set := dirSet line
  let elig (w : Nat) : Bool := !h.out.contains w && (tfind h.leaving w).isNone &&
    !(match tfind h.dir (16 * set + w) with | some e => homeBusy h e.line || (e.shar == 0 && entryWanted h e.line) | none => false)
  match (List.range 16).find? (fun w => elig w && (tfind h.dir (16 * set + w)).isNone) with
  | some w => some (16 * set + w, none)
  | none =>
    if (List.range 16).any elig then
      let p := 16 * set + plruVictim 4 0 0 (tget 0 h.plru set) elig
      some (p, tfind h.dir p)
    else none

def dirTouch (s : State) (line : Nat) : State :=
  s.updHome (homeOf line) (fun h => match dirFind h line with
    | some (p, _) => { h with plru := tset 0 h.plru (p / 16) (plruTouch 4 0 (p % 16) (tget 0 h.plru (p / 16))) }
    | none => h)

/-- A victim leaves the directory (R292), for a request to line `w`. -/
def evictEntry (s : State) (e : DirEnt) (w : Nat) : State :=
  beginTxn s ⟨{ Msg.bare (.req .dmaWr) .hub e.line with mask := 0xF }, [], some w⟩
    ((sharers e.shar).map (fun j => (j, if e.x then .fwdX else .inv)))

/-- R287: the first queued request of a line that is not BUSY starts; where it needs an entry in a full set, a victim is
evicted first, once, and the request waits for it. Requests to a channel that is being recovered wait (R464). -/
def startLine (s : State) (line : Nat) : State :=
  let d := homeOf line
  let h := s.home d
  if homeBusy h line || unitSt s .channel (channelOf line) == .recovering then s
  else match takeFirst (fun m => m.line == line) h.queue with
    | none => s
    | some (m, rest) =>
      match m.kind with
      | .req kind =>
        let go (s : State) : State :=
          let s := s.updHome d (fun h => { h with queue := rest })
          beginTxn (dirTouch s line) ⟨m, [], none⟩
            (probes ((dirFind (s.home d) line).map Prod.snd) kind (clusterOfAgent m.who))
        if kind.takes && (dirFind h line).isNone then
          if h.active.any (fun t => t.evict == some line) then s
          else match dirVictim h line with
          | none => s
          | some (p, none) => go (s.updHome d (fun h => { h with dir := tput h.dir p ⟨line, false, 0⟩ }))
          | some (_, some e) => evictEntry s e line
        else go s
      | _ => s

/-- A home whose die is down completes a request with every requested sector poisoned (R465); a DMA write is acknowledged and
its bytes are lost. -/
def poisonReply (s : State) (m : Msg) : State :=
  match m.kind with
  | .req .rdS => reply s m .dataS m.mask [] m.mask 0
  | .req .rdX => reply s m .dataX m.mask [] m.mask 0
  | .req .upg => reply s m .dataX 0xF [] 0xF 0
  | .req .sf => reply s m .dataX m.mask [] m.mask 0
  | .req .ucRd => reply s m .dataU m.mask [] m.mask 0
  | .req .dmaRd => reply s m .dataU m.mask [] m.mask 0
  | .req .dmaWr => reply s m .ack m.mask [] 0 0
  | .req _ => reply s m .ack m.mask [] m.mask 0
  | _ => s

/-- A request reaches its home and takes its place in the line's queue (R288). -/
def requestArrives (s : State) (who : Agent) (line : Nat) (p : ReqKind → Bool) : Out :=
  match arrive s who line true (fun k => match k with | .req r => p r | _ => false) with
  | some (m, s) =>
    if dieDown s (homeOf line) then .next (poisonReply s m)
    else .next (s.updHome (homeOf line) (fun h => { h with queue := h.queue ++ [m] }))
  | none => .next s

def execRdS (c : Fin 32) (line : BitVec 31) (s : State) : Out := requestArrives s (.l2 c) line.toNat (· == .rdS)
def execRdX (c : Fin 32) (line : BitVec 31) (s : State) : Out := requestArrives s (.l2 c) line.toNat (· == .rdX)
def execUpg (c : Fin 32) (line : BitVec 31) (s : State) : Out := requestArrives s (.l2 c) line.toNat (· == .upg)
def execSf (c : Fin 32) (line : BitVec 31) (s : State) : Out := requestArrives s (.l2 c) line.toNat (· == .sf)
def execWt (c : Fin 32) (line : BitVec 31) (s : State) : Out := requestArrives s (.l2 c) line.toNat (· == .wt)
def execUcRd (c : Fin 32) (line : BitVec 31) (s : State) : Out := requestArrives s (.l2 c) line.toNat (· == .ucRd)
def execUcWr (c : Fin 32) (line : BitVec 31) (s : State) : Out := requestArrives s (.l2 c) line.toNat (· == .ucWr)
def execAmoH (c : Fin 32) (line : BitVec 31) (s : State) : Out :=
  requestArrives s (.l2 c) line.toNat (fun k => match k with | .amo _ => true | _ => false)
def execDmaRd (a : Agent) (line : BitVec 31) (s : State) : Out := requestArrives s a line.toNat (· == .dmaRd)
def execDmaWr (a : Agent) (line : BitVec 31) (s : State) : Out := requestArrives s a line.toNat (· == .dmaWr)

/-- The sender leaves the sharer vector (R287). -/
def leaveLine (s : State) (line c : Nat) : State :=
  dirTidy (dirUpd s line (fun e => { e with shar := setBit e.shar c false })) line

/-- R287: a WB is applied when it arrives: its sectors go to HBM. One to a die that is down is discarded (R465). -/
def execWb (c : Fin 32) (line : BitVec 31) (s : State) : Out :=
  match arrive s (.l2 c) line.toNat true (· == .wb) with
  | some (m, s) =>
    let s := if dieDown s (homeOf m.line) then s else (sectorsOf m.mask).foldl (fun s q =>
      hbmPutSector s m.line q ⟨sectorOf m.bytes q, false, m.poison / 2 ^ q % 2 == 1, 0⟩) s
    .next ((leaveLine s m.line c.val).bumpDie (homeOf m.line) 4 (stackBit m.line) m.bytes.length)
  | none => .next s

/-- R287: an EVC is applied when it arrives. -/
def execEvc (c : Fin 32) (line : BitVec 31) (s : State) : Out :=
  match arrive s (.l2 c) line.toNat true (· == .evc) with
  | some (m, s) => .next (leaveLine s m.line c.val)
  | none => .next s

/-- R287, R292. -/
def execHomeTransactionStart (line : BitVec 31) (s : State) : Out := .next (startLine s line.toNat)

/-- A cluster's answer to a probe comes in, or does not (R294): the cluster is awaited no longer, and the transaction
finishes when nobody is. -/
def answered (s : State) (line c : Nat) : State :=
  let d := homeOf line
  match (s.home d).active.find? (fun t => t.msg.line == line) with
  | none => s
  | some t =>
    let t := { t with await := t.await.filter (· != c) }
    let s := s.updHome d (fun h => { h with active := updFirst (fun u => u.msg.line == line) (fun _ => t) h.active })
    if t.await.isEmpty then finishTxn s t else s

/-- An answer that comes after its timeout is discarded (R294). -/
def lateAnswer (s : State) (line c : Nat) : Option State :=
  let d := homeOf line
  if (s.home d).late.contains (line, c) then
    some (s.updHome d (fun h => { h with late := h.late.erase (line, c) }))
  else none

/-- How a probe that the active transaction of a line sent leaves its holder (R286). -/
def probeKeeps (s : State) (line : Nat) : Bool × Bool :=
  match (s.home (homeOf line)).active.find? (fun t => t.msg.line == line) with
  | none => (false, false)
  | some t => if t.evict.isSome then (false, false) else match t.msg.kind with
    | .req .rdS => (true, false)
    | .req .ucRd => (true, true)
    | .req .dmaRd => (true, true)
    | _ => (false, false)

/-- R287. -/
def execInvAck (c : Fin 32) (line : BitVec 31) (s : State) : Out :=
  match arrive s (.l2 c) line.toNat true (· == .invAck) with
  | none => .next s
  | some (m, s) => match lateAnswer s m.line c.val with
    | some s => .next s
    | none => .next (answered (dirUpd s m.line (fun e => { e with shar := setBit e.shar c.val false })) m.line c.val)

/-- The home awaits the answer of a cluster about a line. -/
def awaits (s : State) (line c : Nat) : Bool := (s.home (homeOf line)).active.any (fun t => t.msg.line == line && t.await.contains c)

/-- R287: the returned sectors are merged into HBM; the owner keeps S (FWD_S), keeps its state (FWD_R) or leaves. What a home that has been
reset since does not await any more is lost with its transactions (R465). -/
def execFwdData (c : Fin 32) (line : BitVec 31) (s : State) : Out :=
  match arrive s (.l2 c) line.toNat true (· == .fwdData) with
  | none => .next s
  | some (m, s) => match lateAnswer s m.line c.val with
    | some s => .next s
    | none =>
      if !awaits s m.line c.val then .next s else
      let s := (sectorsOf m.mask).foldl (fun s q =>
        hbmPutSector s m.line q ⟨sectorOf m.bytes q, false, m.poison / 2 ^ q % 2 == 1, 0⟩) s
      let s := s.bumpDie (homeOf m.line) 4 (stackBit m.line) m.bytes.length
      let (stays, keepsX) := probeKeeps s m.line
      let s := dirUpd s m.line (fun e =>
        { e with shar := if stays then e.shar else setBit e.shar c.val false, x := e.x && keepsX })
      .next (answered s m.line c.val)

/-- R293: the cluster had released the line before. -/
def execNohold (c : Fin 32) (line : BitVec 31) (s : State) : Out :=
  match arrive s (.l2 c) line.toNat true (· == .nohold) with
  | none => .next s
  | some (m, s) => match lateAnswer s m.line c.val with
    | some s => .next s
    | none => .next (answered s m.line c.val)

/-- A probe to a cluster, or its answer, is still on its way. -/
def answerComes (s : State) (line : Nat) (c : Fin 32) : Bool :=
  s.mem.msgs.any (fun m => m.who == .l2 c && m.line == line && (match m.kind with
    | .inv => true
    | .fwdS => true
    | .fwdX => true
    | .fwdR => true
    | .invAck => true
    | .fwdData => true
    | .nohold => true
    | _ => false))

/-- R294: 2.0 µs without an answer: the line is poisoned, the cluster leaves the vector, and the transaction goes on. -/
def homeTimeout (s : State) (line : BitVec 31) (c : Fin 32) : Option State :=
  let l := line.toNat
  let d := homeOf l
  if awaits s l c.val then
    let s := (List.range 4).foldl (fun s q => setPoison s l q true) s
    let s := dirUpd s l (fun e => { e with shar := setBit e.shar c.val false })
    let s := if answerComes s l c then s.updHome d (fun h => { h with late := h.late ++ [(l, c.val)] }) else s
    let s := { s with rel := { s.rel with timeouts := s.rel.timeouts ++ [⟨l, d, c.val⟩] } }
    some ((answered s l c.val).bumpDie d 5 0xFFFF 1)
  else none

/-- The home holds a line for a cluster (R284): its entry names the cluster, which has sent no WB or EVC since. A die that is down has no
entries, and answers all the same (R465). -/
def grantStands (s : State) (c : Fin 32) (line : Nat) : Bool :=
  dieDown s (homeOf line) ||
  (match dirFind (s.home (homeOf line)) line with
  | some (_, e) => bit e.shar c.val && !s.mem.msgs.any (fun m => m.who == .l2 c && m.line == line && (m.kind == .wb || m.kind == .evc))
  | none => false)

/-- A grant reaches its L2, or waits until a way is eligible (R278): the line is installed, and the accesses that waited for it are
performed (R291). A grant for a line that the cluster has given up after the home served the request brings nothing, and what still
waits asks again (R283, R284; log 86). -/
def grantArrives (s : State) (c : Fin 32) (line : BitVec 31) (kind : MsgKind) (st : Option LineState) : Out :=
  match arrive s (.l2 c) line.toNat false (· == kind) with
  | some (m, t) =>
    if !grantStands t c m.line then .next (retryLine (closeOpen t c.val m.line) c.val m.line)
    else if roomL2 s c.val m.line then .next (retryLine (installGrant t c.val m.line st m.mask m.bytes m.poison) c.val m.line)
    else .next s
  | none => .next s

def execDataS (c : Fin 32) (line : BitVec 31) (s : State) : Out := grantArrives s c line .dataS (some .s)
def execDataE (c : Fin 32) (line : BitVec 31) (s : State) : Out := grantArrives s c line .dataE (some .e)
def execDataX (c : Fin 32) (line : BitVec 31) (s : State) : Out := grantArrives s c line .dataX (some .e)

/-- R286: a GNT makes the S copy exclusive. -/
def execGnt (c : Fin 32) (line : BitVec 31) (s : State) : Out :=
  match arrive s (.l2 c) line.toNat false (· == .gnt) with
  | some (m, s) =>
    let s := closeOpen s c.val m.line
    .next (retryLine (updL2Line s c.val m.line (fun l => { l with st := if l.st = LineState.s then .e else l.st })) c.val m.line)
  | none => .next s

def answer (s : State) (c line : Nat) (kind : MsgKind) (mask : Nat) (bs : Bytes) (poison : Nat) : State :=
  sendMsg s { Msg.bare kind (agentL2 c) line with mask := mask, bytes := bs, poison := poison }

/-- R286 INV: drop an S copy; a line already released answers NOHOLD (R293). -/
def execInvMsg (c : Fin 32) (line : BitVec 31) (s : State) : Out :=
  match arrive s (.l2 c) line.toNat false (· == .inv) with
  | none => .next s
  | some (m, s) =>
    match l2Line s c.val m.line with
    | none => .next (answer s c.val m.line .nohold 0 [] 0)
    | some _ =>
      let s := updL2Line (dropAllL1 s c.val m.line) c.val m.line (fun l => { l with st := LineState.i })
      .next (answer s c.val m.line .invAck 0 [] 0)

/-- What a cluster does with a FWD: bring L1 dirty sectors up, send the named dirty ones, and keep what `after` says. -/
def forward (s : State) (c : Fin 32) (line : BitVec 31) (kind : MsgKind) (first : State → Nat → State)
    (named : Nat → Nat) (after : CLine → CLine) : Out :=
  match arrive s (.l2 c) line.toNat false (· == kind) with
  | none => .next s
  | some (m, s) =>
    if !l2Owns s c.val m.line then .next (answer s c.val m.line .nohold 0 [] 0)
    else
      let s := first s m.line
      match l2Line s c.val m.line with
      | none => .next s
      | some l =>
        let (mask, bs, poison) := dirtyLoad l (named m.mask)
        let s := updL2Line s c.val m.line (fun l =>
          after { l with sec := l.sec.map (fun e => (e.1, { e.2 with dirty := e.2.dirty && mask / 2 ^ e.1 % 2 == 0 })) })
        .next (answer s c.val m.line .fwdData mask bs poison)

/-- R286 FWD_S. -/
def execFwdS (c : Fin 32) (line : BitVec 31) (s : State) : Out :=
  forward s c line .fwdS (fun s l => (coresOf c.val).foldl (fun s k => downgradeL1 s k l) s) (fun _ => 0xF)
    (fun l => { l with st := .s })

/-- R286 FWD_X. -/
def execFwdX (c : Fin 32) (line : BitVec 31) (s : State) : Out :=
  forward s c line .fwdX (fun s l => dropAllL1 s c.val l) (fun _ => 0xF) (fun l => { l with st := LineState.i })

/-- R286 FWD_R. -/
def execFwdR (c : Fin 32) (line : BitVec 31) (s : State) : Out :=
  forward s c line .fwdR (fun s l => (coresOf c.val).foldl (fun s k => mergeUp s k l) s) id id

end Sys2Proof.Machine
end

