-- ==== Sys2Proof/Machine/Translate.lean ====
section
/-!
DEFINITION. Address translation (12): the table walk and its checks, the TLBs and the walk cache, merged entries, protection
(R303, R310, R311), and the shared fault records (R319, R320).
-/
namespace Sys2Proof.Machine

/-- log2 of the 4 KiB pages of a leaf's page (R307). -/
def pageLog (level : Nat) : Nat := 9 * (4 - level)

/-- A 4 KiB frame among the `len` bytes from `off` up has been retired (R474). -/
def retiredIn (s : State) (off len : Nat) : Bool :=
  let hit (a : Nat) : Bool := decide (off < a + 4096) && decide (a < off + len)
  s.rel.retired.any (fun r => hit (r.stack * 2 ^ 36 + r.frame * 4096)) || s.rel.lostFrames.any (fun f => hit (4096 * f))

/-- The `len` bytes of a frame belong to the partition of context `n` (R311, R378): its HBM unit does, and nothing of it is
retired. -/
def inPart (s : State) (n off len : Nat) : Bool :=
  decide (off < 2 ^ 39) && bit (s.part (s.ctx n).partNo).hbmMap (off / 2 ^ 30) && !retiredIn s off len

def eNode (e : W64) : Nat := fld e 63 44
def eSpace (e : W64) : Nat := fld e 43 40
def eFrame (e : W64) : Nat := fld e 39 12
def eWp (e : W64) : Nat := fld e 11 10
def eRem (e : W64) : Bool := bit e 9
def eX (e : W64) : Bool := bit e 8
def eW (e : W64) : Bool := bit e 7
def eRd (e : W64) : Bool := bit e 6
def eLeaf (e : W64) : Bool := bit e 1
def eV (e : W64) : Bool := bit e 0

/-- R302, R413: an offset that its space reserves; `frame` is the last that an entry names. -/
def offReserved (space frame : Nat) : Bool :=
  match space with
  | 0 => frame / 2 ^ 27 % 2 == 1
  | 1 => decide (2 ^ 17 ≤ frame)
  | 2 => decide (2 ^ 14 ≤ frame)
  | 3 => false
  | _ => true

/-- R309. -/
def malformed (s : State) (level : Nat) (e : W64) : Bool :=
  let here := nodeHere s (eNode e)
  (eLeaf e && level == 1) || (!eLeaf e && level == 4) ||
  (!eLeaf e && (!here || eSpace e != 0 || fld e 11 2 != 0)) ||
  (eLeaf e && level == 2 && eFrame e % 2 ^ 18 != 0) || (eLeaf e && level == 3 && eFrame e % 2 ^ 9 != 0) ||
  decide (3 < eSpace e) || offReserved (eSpace e) (eFrame e + (if eLeaf e then 2 ^ pageLog level - 1 else 0)) ||
  (eW e && !eRd e) || fld e 5 2 != 0 ||
  (eLeaf e && eSpace e == 0 && here && eRem e) ||
  (eLeaf e && eSpace e == 0 && !here && eWp e != 0) ||
  (eLeaf e && eSpace e != 0 && eSpace e ≤ 3 && (eWp e != 3 || eRem e || eX e))

/-- What a walk finds (R313, R318): a leaf at a level with the offset of its entry, V = 0 at a level, a protection cause of
R325 with the level of the leaf that maps the page where one does, or a poisoned table line. -/
inductive WalkRes where
  | leaf (level : Nat) (e : W64) (at_ : Nat)
  | invalid (level : Nat)
  | prot (cause : Nat) (level : Option Nat)
  | poison
  deriving DecidableEq, Repr

/-- R304. -/
def canonical (vpn : Nat) : Bool := let hi := vpn / 2 ^ 35; hi == 0 || hi == 2 ^ 17 - 1

/-- Index of a 4 KiB page number at a level (R307). -/
def levelIdx (vpn level : Nat) : Nat := vpn / 2 ^ (9 * (4 - level)) % 512

/-- Prefix of a page number that selects the entry of a level, for the walk cache. -/
def levelPre (vpn level : Nat) : Nat := vpn / 2 ^ (9 * (4 - level))

/-- Entry of a level: from the walk cache where it holds it, else read from the table through the L2 (R312, R317); a copy that the L2 was
given poisoned is. -/
def readEntry (s : State) (c n level table vpn : Nat) : W64 × Nat × Bool :=
  let off := table + 8 * levelIdx vpn level
  match (s.cluster c).wcache.find? (fun e => e.2.ctx == n && e.2.level == level && e.2.pre == levelPre vpn level) with
  | some e => (e.2.ent, off, false)
  | none => (cohWord s off, off, cohPoison s off || ((heldSector (l2Line s c (off / 256)) (off / 64 % 4)).map Sector.poison).getD false)

/-- The levels of a walk from a table on (R313 step 3); `fuel` is 4 at the root. -/
def walkFrom (s : State) (c n : Nat) (vpn : Nat) : (fuel level table : Nat) → WalkRes
  | 0, _, _ => .prot 2 none
  | f + 1, level, table =>
    if !inPart s n table 4096 then .prot 3 none
    else
      let (e, off, bad) := readEntry s c n level table vpn
      let mapped : Option Nat := if eLeaf e ∧ level ≠ 1 then some level else none
      if bad then .poison
      else if !eV e then .invalid level
      else if malformed s level e then .prot 2 mapped
      else if eLeaf e then
        if eSpace e = 0 ∧ nodeHere s (eNode e) ∧ !inPart s n (eFrame e * 4096) (2 ^ (12 + pageLog level)) then .prot 3 mapped
        else if !nodeHere s (eNode e) ∧ eSpace e ≠ 0 then .prot 5 mapped
        else .leaf level e off
      else walkFrom s c n vpn f (level + 1) (eFrame e * 4096)

/-- The level-1 table of a context. -/
def rootTable (s : State) (n : Nat) : Nat := fld ((s.ctx n).word 1) 39 12 * 4096

/-- A walk of context `n` for a 4 KiB page (R313). -/
def walk (s : State) (c n vpn : Nat) : WalkRes :=
  if !canonical vpn then .prot 4 none
  else if !bit ((s.ctx n).word 1) 0 then .prot 6 none
  else walkFrom s c n vpn 4 1 (rootTable s n)

/-- The table sectors that a walk reads from a table on, as (line, sectors): the entry's, and at a leaf the two sectors that hold its
group of 16 entries (R316). An entry that the walk cache holds is not read (R317). -/
def walkReads (s : State) (c n : Nat) (vpn : Nat) : (fuel level table : Nat) → List (Nat × Nat)
  | 0, _, _ => []
  | f + 1, level, table =>
    if !inPart s n table 4096 then []
    else
      let (e, off, bad) := readEntry s c n level table vpn
      let q := off / 64 % 4
      let hit := (s.cluster c).wcache.any (fun x => x.2.ctx == n && x.2.level == level && x.2.pre == levelPre vpn level)
      let here : List (Nat × Nat) := if hit then [] else [(off / 256, 2 ^ q)]
      if bad || !eV e || malformed s level e then here
      else if eLeaf e then here ++ [(off / 256, 3 * 2 ^ (q / 2 * 2))]
      else here ++ walkReads s c n vpn f (level + 1) (eFrame e * 4096)

/-- What a walk of a page reads. -/
def pageReads (s : State) (c n vpn : Nat) : List (Nat × Nat) :=
  if !canonical vpn || !bit ((s.ctx n).word 1) 0 then [] else walkReads s c n vpn 4 1 (rootTable s n)

/-- The walker reads through the cluster's L2 as a load would (R312): a dirty L1 copy comes up into the L2, and sectors that the L2 lacks
are asked for. None where all that it reads is in the L2. -/
def walkMiss (s : State) (c n vpn : Nat) : Option (Nat × Nat) :=
  (pageReads s c n vpn).findSome? (fun r =>
    let lack := ((sectorsOf r.2).filter (fun q => (heldSector (l2Line s c r.1) q).isNone)).map (2 ^ ·)
    if lack.isEmpty then none else some (r.1, lack.foldl (· + ·) 0))

/-- The request of a walk for what it lacks, unless one for the line is open or the home has no credit. -/
def walkAsk (s : State) (c line mask : Nat) : State :=
  if (s.cluster c).open_.any (fun o => o.1 == line) || !hasCredit s line c then s
  else
    let kind : ReqKind := if l2Owns s c line then .sf else .rdS
    let s := s.setCluster c { s.cluster c with open_ := (s.cluster c).open_ ++ [(line, kind, mask)] }
    sendMsg s { Msg.bare (.req kind) (agentL2 c) line with mask := mask }

/-- What the walk reads counts as a hit of the L2 (R278), and no L1 keeps a newer copy of it. -/
def walkRead (s : State) (c n vpn : Nat) : State :=
  (pageReads s c n vpn).foldl (fun s r => usedL2 ((coresOf c).foldl (fun s k => downgradeL1 s k r.1) s) c r.1) s

/-- Whether the aligned group of 2^j entries around a leaf may be merged (R316). Entries outside the partition do not take
part (R311, log 11). -/
def groupOk (s : State) (n level off j : Nat) (e : W64) : Bool :=
  let size := 2 ^ j
  let first := off / (8 * size) * (8 * size)
  let step := 2 ^ pageLog level
  let f0 := eFrame (cohWord s first)
  (f0 / step) % size == 0 &&
  (List.range size).all (fun i =>
    let x := cohWord s (first + 8 * i)
    !cohPoison s (first + 8 * i) && eV x && eLeaf x && !malformed s level x && setFld x 39 12 0 == setFld e 39 12 0 && eFrame x == f0 + i * step &&
      (eSpace x != 0 || !nodeHere s (eNode x) || inPart s n (eFrame x * 4096) (2 ^ (12 + pageLog level))))

/-- The TLB entry that a walk installs (R316): the largest mergeable group, else the single page. -/
def mergedEntry (s : State) (n level off vpn : Nat) (e : W64) : TlbEnt :=
  let j := ([4, 3, 2, 1].find? (fun j => groupOk s n level off j e)).getD 0
  let p := pageLog level
  let first := vpn / 2 ^ (p + j) * 2 ^ (p + j)
  ⟨n, first, p + j, p, if j = 0 then e else cohWord s (off / (8 * 2 ^ j) * (8 * 2 ^ j))⟩

def TlbEnt.hits (e : TlbEnt) (n vpn : Nat) : Bool := e.ctx == n && decide (e.vpn ≤ vpn) && decide (vpn < e.vpn + 2 ^ e.log2)

def Tlb.find (t : Tlb) (n vpn : Nat) : Option (Nat × TlbEnt) := t.ents.find? (fun e => e.2.hits n vpn)

def Tlb.touch (t : Tlb) (k ways p : Nat) : Tlb :=
  { t with plru := tset 0 t.plru (p / ways) (plruTouch k 0 (p % ways) (tget 0 t.plru (p / ways))) }

/-- Install an entry in a set of `ways` ways with the replacement of R278. -/
def Tlb.put (t : Tlb) (k ways set : Nat) (e : TlbEnt) : Tlb :=
  let free := (List.range ways).find? (fun w => match tfind t.ents (ways * set + w) with
    | none => true
    | some x => x.ctx == e.ctx && x.vpn == e.vpn && x.log2 == e.log2)
  let w := free.getD (plruVictim k 0 0 (tget 0 t.plru set) (fun _ => true))
  ({ t with ents := tput t.ents (ways * set + w) e }).touch k ways (ways * set + w)

/-- Set of the L2 TLB for a page size (R315). -/
def l2TlbSet (n page vpn : Nat) : Nat := (vpn / 2 ^ page / 16 % 512) ^^^ (n % 512)

/-- Fill the L1 TLB of a core, and the L2 TLB of its cluster. -/
def fillL1Tlb (s : State) (k : Nat) (e : TlbEnt) : State := s.updCore k (fun c => { c with tlb := c.tlb.put 6 64 0 e })

def fillL2Tlb (s : State) (c : Nat) (e : TlbEnt) : State :=
  s.setCluster c { s.cluster c with tlb := (s.cluster c).tlb.put 3 8 (l2TlbSet e.ctx e.page e.vpn) e }

def fillDmaTlb (s : State) (eng : Nat) (e : TlbEnt) : State :=
  let c := eng / 2
  let x := s.cluster c
  s.setCluster c { x with dtlb := tput x.dtlb eng ((tget ⟨[], []⟩ x.dtlb eng).put 7 128 0 e) }

/-- The physical address that an entry gives a virtual one (R301). -/
def TlbEnt.pa (e : TlbEnt) (va : W64) : W64 :=
  at_ 44 (eNode e.leaf) ||| at_ 40 (eSpace e.leaf) ||| at_ 0 (eFrame e.leaf * 4096 + (va.toNat - e.vpn * 4096))

def vpnOf (va : W64) : Nat := va.toNat / 4096

/-- Look a page up in the core's L1 TLB, then in its cluster's L2 TLB, which fills the L1 TLB (R314). -/
def lookup (s : State) (k n vpn : Nat) : Option TlbEnt × State :=
  match (s.core k).tlb.find n vpn with
  | some (p, e) => (some e, s.updCore k (fun c => { c with tlb := c.tlb.touch 6 64 p }))
  | none =>
    let cl := clusterOf k
    match (s.cluster cl).tlb.find n vpn with
    | some (p, e) =>
      (some e, fillL1Tlb (s.setCluster cl { s.cluster cl with tlb := (s.cluster cl).tlb.touch 3 8 p }) k e)
    | none => (none, s.bumpCluster cl 5 0xFFFF 1)

/-- Who accesses (R310). -/
inductive AccKind where
  | face
  | chan
  | dma
  deriving DecidableEq, Repr

/-- What an access needs of a page (R310). -/
inductive Need where
  | read
  | write
  | atomic
  | fetch
  deriving DecidableEq, Repr

/-- ACCESS of a fault record (R320). -/
def Need.bits : Need → Nat
  | .read => 4
  | .write => 2
  | .atomic => 6
  | .fetch => 1

/-- R310, R303, R154, R409, R412: the core fault code and the TLB_PCAUSE of an access that a page does not allow. -/
def denied (s : State) (k n : Nat) (kind : AccKind) (need : Need) (e : W64) (pa : W64) (len : Nat) : Option (Nat × Nat) :=
  let sp := eSpace e
  if need = .atomic ∧ !nodeHere s (eNode e) then some (0x0D, 0)
  else if (need = .read ∧ !eRd e) ∨ (need = .write ∧ !eW e) ∨ (need = .atomic ∧ !(eRd e && eW e)) ∨ (need = .fetch ∧ !eX e) then some (5, 1)
  else if (need = .atomic ∧ sp ≠ 0) ∨ (need = .fetch ∧ (sp ≠ 0 ∨ !nodeHere s (eNode e))) then some (5, 5)
  else match sp with
    | 0 => none
    | 1 =>
      if kind = .dma ∧ bit (s.part (s.ctx n).partNo).clusters (clusterOf (paOff pa / 2 ^ 21 % 256)) then none else some (5, 5)
    | 2 => if kind = .face ∧ privileged s k then none else some (5, 5)
    | _ =>
      if !hostWinOn s n then some (5, 5)
      else if !ideOk s (busAddr s n pa) len then some (5, 0)
      else none

/-- TLB_PCAUSE keeps the first cause (R325). -/
def setPcause (s : State) (k cause : Nat) : State :=
  if cause = 0 then s
  else s.updCore k (fun c => if c.pcause = 0 then { c with pcause := BitVec.ofNat 32 cause } else c)

/-- Word 0 of a fault record (R320). -/
def FaultRec.word0 (r : FaultRec) (part : Nat) : W64 :=
  at_ 63 1 ||| at_ 40 (r.id % 65536) ||| at_ 28 r.ctx ||| at_ 23 part ||| at_ 20 r.access ||| at_ 16 r.level |||
    at_ 8 r.joins

def FaultRec.words (r : FaultRec) (part : Nat) : List W64 :=
  [r.word0 part, r.va, r.engines, BitVec.ofNat 64 r.cores.toNat, BitVec.ofNat 64 (r.cores.toNat / 2 ^ 64),
    BitVec.ofNat 64 (r.cores.toNat / 2 ^ 128), BitVec.ofNat 64 (r.cores.toNat / 2 ^ 192), r.stamp]

/-- A requester joins a record: its bits, and what it accesses. -/
def FaultRec.join (r : FaultRec) (w : Walker) (eng need : Nat) (va : W64) : FaultRec :=
  { r with
    who := if r.who.any (fun x => x.1 == w) then r.who else r.who ++ [(w, va)]
    joins := holdInc 255 r.joins
    access := r.access ||| need
    engines := match w with | .dma _ _ => setBit r.engines eng true | _ => r.engines
    cores := match w with | .face k _ => setBit r.cores k true | _ => r.cores }

/-- Next RECORD_ID that is not open (R320). -/
def recordId (s : State) : Nat :=
  ((List.range 257).map (fun i => (s.mem.nextRec + i) % 65536)).find? (fun i => !s.mem.recs.any (fun r => r.id == i)) |>.getD 0

/-- R319: a translation fault joins the open record of its page, or opens one; with 256 open it waits without one. -/
def openFault (s : State) (n vpn level : Nat) (w : Walker) (eng need : Nat) (va : W64) : State :=
  let count (s : State) : State := match w with | .face k _ => s.bumpCore k 0x10 0xFFFF 1 | .dma k _ => s.bumpCore k 0x10 0xFFFF 1
  if s.mem.recs.any (fun r => r.ctx == n && r.vpn == vpn) then
    count { s with mem := { s.mem with recs := updFirst (fun r => r.ctx == n && r.vpn == vpn) (fun r => r.join w eng need va) s.mem.recs } }
  else if 256 ≤ s.mem.recs.length then
    if s.mem.noRec.contains (n, vpn, w) then s else { s with mem := { s.mem with noRec := s.mem.noRec ++ [(n, vpn, w)] } }
  else
    let id := recordId s
    let (st, s) := s.stamp
    let r : FaultRec := (⟨id, n, vpn, va, level, 0, 0, 0, 0, st, []⟩ : FaultRec).join w eng need va
    let s := count { s with mem := { s.mem with recs := s.mem.recs ++ [r], nextRec := (id + 1) % 65536 } }
    let s := s.emit 4 0x0B 0 n id va st
    pushEntry s (s.ctx n).fn.toNat .fault (r.words (s.ctx n).partNo)

/-- A requester parks on a translation fault (R114, R198). -/
def parkWalker (s : State) (vpn : Nat) : Walker → State
  | .face k (.chan ch) => s.updCore k (fun c => { c with ve := { c.ve with parked := tput c.ve.parked ch vpn } })
  | .face k r => setWait s (r.grp k 0) [r.lane] .waitFault (.fault vpn)
  | .dma _ _ => s

/-- A requester translates again (R321). -/
def wakeWalker (s : State) (vpn : Nat) : Walker → State
  | .face k (.chan ch) => s.updCore k (fun c =>
      if tfind c.ve.parked ch = some vpn then { c with ve := { c.ve with parked := tdel c.ve.parked ch } } else c)
  | .face k r =>
    match r with
    | .thread v l => s.updCv k v (fun x =>
        if tget Wait.none x.waits l = .walk vpn ∨ tget Wait.none x.waits l = .fault vpn then x.setState [l] .ready .none else x)
    | _ => s.updCore k (fun c => if c.wait = .walk vpn ∨ c.wait = .fault vpn then { c with wait := .none } else c)
  | .dma k seq => s.updCore k (fun c => { c with dma := { c.dma with
      queue := updFirst (fun q => q.seq == seq && q.stage == .waitXlate && q.page == vpn)
        (fun q => { q with stage := .dispatched, held := [], failed := [] }) c.dma.queue } })

/-- Whether a requester still waits on the walk of a page for context `n`: its core runs the context, which is not being torn down. -/
def waitsHere (s : State) (n vpn : Nat) (w : Walker) : Bool :=
  let here (k : Nat) : Bool := (s.core k).ctx.map Prod.fst == some n && decide ((s.ctx n).st ≠ .teardown)
  match w with
  | .face k (.chan _) => here k
  | .face k (.thread v l) => here k && tget Wait.none ((s.core k).cv v).waits l == .walk vpn
  | .face k _ => here k && (s.core k).wait == .walk vpn
  | .dma k seq => here k && (s.core k).dma.queue.any (fun q => q.seq == seq && q.stage == .dispatched)

/-- A fault of R131 that a walk gives to the requesters of one core (R318): the lanes of one caravan at one instruction take it
together, at the turn of the lowest. -/
def walkFault (s : State) (code cause : Nat) (va : W64) (w : Walker) (all : List Walker) : State :=
  match w with
  | .dma _ _ => s
  | .face k r =>
    let s := setPcause s k cause
    match r with
    | .chan ch =>
      match tfind (s.core k).ve.chans ch with
      | some v => veFault s k 9 v.gsWin v.fn v.op v.rd code v.pc va
      | none => s
    | .thread v l =>
      let x := (s.core k).cv v
      let lanes := (List.range 32).filter (fun j => j == l || (all.contains (.face k (.thread v j)) && x.pc j == x.pc l))
      if lanes.headD 0 = l then faultGrp s ⟨k, some v, lanes, x.pc l, 0⟩ code lanes va else s
    | _ => faultGrp s ⟨k, none, [0], (s.core k).pc, 0⟩ code [0] va

/-- Record a miss: a walk in flight for the page is joined, else one begins (R317). -/
def startWalk (s : State) (c n vpn : Nat) (w : Walker) (need : Nat) (va : W64) : State :=
  let x := s.cluster c
  let same (t : Walk) : Bool := t.ctx == n && t.vpn == vpn
  let join (t : Walk) : Walk := { t with who := if t.who.any (fun y => y.1 == w) then t.who else t.who ++ [(w, need, va)] }
  if x.walks.any same then s.setCluster c { x with walks := updFirst same join x.walks }
  else s.setCluster c { x with walks := x.walks ++ [⟨n, vpn, [(w, need, va)]⟩] }

/-- Non-leaf entries that a walk has read go into the walk cache (R314). -/
def cacheLevels (s : State) (c n vpn : Nat) : (fuel level table : Nat) → State
  | 0, _, _ => s
  | f + 1, level, table =>
    let (e, _, bad) := readEntry s c n level table vpn
    if bad || !eV e || eLeaf e || malformed s level e then s
    else
      let x := s.cluster c
      let ent : WalkEnt := ⟨n, level, levelPre vpn level, e⟩
      let p := ((List.range 64).find? (fun i => match tfind x.wcache i with
        | none => true
        | some y => y.ctx == n && y.level == level && y.pre == levelPre vpn level)).getD (plruVictim 6 0 0 x.wplru (fun _ => true))
      let s := s.setCluster c { x with wcache := tput x.wcache p ent, wplru := plruTouch 6 0 p x.wplru }
      cacheLevels s c n vpn f (level + 1) (eFrame e * 4096)

/-- The page that an entry maps a page number with: a held translation (R236), under the host window of its context (R412). -/
def heldOf (s : State) (e : TlbEnt) (vpn : Nat) : Held :=
  let base := vpn / 2 ^ e.page * 2 ^ e.page
  ⟨base, e.page, setFld e.leaf 39 12 (eFrame e.leaf + (base - e.vpn)), hostWin s e.ctx⟩

def DmaCmd.hold (q : DmaCmd) (h : Held) : DmaCmd := if q.held.contains h then q else { q with held := q.held ++ [h] }

/-- A DMA command keeps what a walk of one of its pages has found: a translation, or how the page fails (R235). -/
def tellDma (s : State) (vpn : Nat) (f : Held ⊕ PageFail) : Walker → State
  | .dma k seq =>
    let keep (q : DmaCmd) : DmaCmd := (match f with
      | .inl h => q.hold h
      | .inr x => { q with failed := q.failed ++ [(vpn, x)] })
    s.updCore k (fun c => { c with dma := { c.dma with queue := updFirst (fun q => q.seq == seq) keep c.dma.queue } })
  | _ => s

/-- Table reads of a walk (R485 cluster 0x06). -/
def walkCount (s : State) (c n vpn : Nat) : Nat := ((pageReads s c n vpn).map Prod.fst).eraseDups.length

/-- A walk that succeeds gives one of its requesters its translation. -/
def walkFound (s : State) (c v : Nat) (t : TlbEnt) (w : Walker) : State :=
  match w with
  | .face k _ => wakeWalker (fillL1Tlb s k t) v w
  | .dma k seq =>
    let eng := (((s.core k).dma.queue.find? (fun q => q.seq == seq)).map DmaCmd.engine).getD (2 * c)
    tellDma (fillDmaTlb s eng t) v (.inl (heldOf s t v)) w

/-- R313–R319: a walk whose table lines are in the L2 completes: its requesters translate again with the new TLB entry, park on a
fault record, or take a protection or poison fault. DMA commands keep the result until all of their pages have one (R235). Of the walks
recorded, the first 16 are in flight (R317). -/
def execPageWalk (c : Fin 32) (ctx : BitVec 12) (vpn : BitVec 52) (s : State) : Out :=
  let n := ctx.toNat
  let v := vpn.toNat
  let x := s.cluster c.val
  match takeFirst (fun t => t.ctx == n && t.vpn == v) (x.walks.take 16) with
  | none => .next s
  | some (w, rest) =>
    match walkMiss s c.val n v with
    | some (line, mask) => .next (walkAsk s c.val line mask)
    | none =>
      let reads := walkCount s c.val n v
      let s := walkRead (s.setCluster c.val { x with walks := rest ++ x.walks.drop 16 }) c.val n v
      let res := walk s c.val n v
      let s := s.bumpCluster c.val 6 0xFFFF reads
      let who := w.who.filter (fun y => waitsHere s n v y.1)
      let all := who.map Prod.fst
      let isDma (y : Walker) : Bool := (match y with | .dma _ _ => true | _ => false)
      let faces := who.filter (fun y => !isDma y.1)
      let tell (s : State) (f : PageFail) : State := all.foldl (fun s y => tellDma s v (.inr f) y) s
      let s := cacheLevels s c.val n v 3 1 (rootTable s n)
      match res with
      | .leaf level e off =>
        let t := mergedEntry s n level off v e
        .next (all.foldl (fun s y => walkFound s c.val v t y) (fillL2Tlb s c.val t))
      | .invalid level =>
        .next (faces.foldl (fun s y => parkWalker (openFault s n v level y.1 0 y.2.1 y.2.2) v y.1) (tell s (.unmapped level)))
      | .prot cause level => .next (faces.foldl (fun s y => walkFault s 5 cause y.2.2 y.1 all) (tell s (.prot cause level)))
      | .poison => .next (faces.foldl (fun s y => walkFault s 6 0 y.2.2 y.1 all) (tell s .poison))

end Sys2Proof.Machine
end

