-- ==== Sys2Proof/Machine/MemInstr.lean ====
section
/-!
DEFINITION. Loads, stores and atomics of the faces (06 R148–R154, R158), release and acquire (R155–R157), barriers (R159) and
cache maintenance (R175).
-/
namespace Sys2Proof.Machine

def Grp.req (g : Grp) (lane : Nat) : Req :=
  match g.cv with
  | none => .cc
  | some v => .thread v lane

/-- Why a requester may not make a further access yet: an access that later ones wait for (R154, R157, R158), or a DMA.SUB
that has not captured its descriptor (R167). -/
def orderBlock (s : State) (k : Nat) (r : Req) : Option Wait :=
  let c := s.core k
  if c.acc.any (fun a => a.req == r && a.acq) then some .order
  else if r == .cc && c.acc.any (fun a => a.op == .desc) then some .capture
  else none

/-- What a face instruction does with one lane's access. -/
inductive Lane where
  | done (s : State)
  | wait (s : State) (st : ThreadState) (w : Wait)
  | fault (code cause : Nat)

/-- An access that one lane asks for, before its translation. -/
structure Want where
  op : AccOp
  size : Nat
  va : W64
  dst : Nat
  data : W128
  cmp : W64
  acq : Bool
  direct : Bool

def Want.need (w : Want) : Need :=
  match w.op with
  | .store => .write
  | .amo _ => .atomic
  | _ => .read

/-- The L1 of core `k` holds a dirty sector of a line of another module. -/
def dirtyRem (s : State) (k key : Nat) : Bool :=
  match l1Line s k key with
  | some l => l.st == .rem && l.sec.any (fun e => e.2.dirty)
  | none => false

/-- A transaction entry for a request to the line of `a`: the one that another lane of its issue has taken for it, or a new one
(R129, R130). -/
def entryFor (s : State) (k : Nat) (a : Access) : Option Nat :=
  match (a.line ((s.core k).acc.map (fun b => { b with via := a.via }))).head? with
  | some b => some b.entry
  | none => if mayEnter s k (.req a.req) then some (freeEntry s k) else none

def pushAcc (s : State) (k : Nat) (a : Access) : State := s.updCore k (fun c => { c with acc := c.acc ++ [a] })

/-- An access that waits for its line joins the list, and its cluster asks for what it lacks. -/
def issueCached (s : State) (k : Nat) (a : Access) : State ⊕ Wait :=
  let key := a.key s
  if !(heldSector (l1Line s k key) a.sec).isSome && clusterWb s (clusterOf k) key then .inr (.hold none)
  else match entryFor s k { a with via := .cache } with
    | none => .inr .entry
    | some e =>
      let a := { a with entry := e, via := .cache }
      if (s.cluster (clusterOf k)).open_.any (fun o => o.1 == key) || !wants s k a then .inl (pushAcc s k a)
      else if isRem key || hasCredit s key (clusterOf k) then .inl (askFor (pushAcc s k a) k a)
      else .inr .credit

/-- An access to another module's memory at its home: one request for the lanes of an issue that share a line. -/
def issueFabric (s : State) (k : Nat) (a : Access) : State ⊕ Wait :=
  let key := a.key s
  if dirtyRem s k key || wbOpen s k key then .inr (.hold none)
  else match entryFor s k { a with via := .fabric } with
    | none => .inr .entry
    | some e =>
      let a := { a with entry := e, via := .fabric }
      let t := pushAcc s k a
      if (a.line (s.core k).acc).isEmpty then
        .inl (fabSend t k e (.access k a.id) a.isStore a.pa (2 ^ a.sec) (if a.isStore then a.bytes else []) 0)
      else .inl (fabJoin t (256 * k + e) (2 ^ a.sec) (lineBytes (a.line (t.core k).acc)))

/-- An access that its home serves by a message of its own: one for the lanes of an issue that share a line, but for atomics. -/
def issueHome (s : State) (k : Nat) (a : Access) (kind : ReqKind) : State ⊕ Wait :=
  match entryFor s k { a with via := .home } with
  | none => .inr .entry
  | some e =>
    let a := { a with entry := e, via := .home }
    let t := pushAcc s k a
    if !a.isAmo && !(a.line (s.core k).acc).isEmpty then .inl (homeJoin t a (a.line (t.core k).acc))
    else if hasCredit s (a.key s) (clusterOf k) then .inl (homeRequest t k a kind)
    else .inr .credit

/-- Where an access that issues finds its sector, counted as core events 0x0B and 0x0C and cluster events 0x01 and 0x02 (R485). A cached
store finds it where it may write: in an L1 in W, in an L2 that owns the line (log 8). -/
def countLookup (s : State) (k : Nat) (a : Access) (via : Via) (t : State) : State :=
  let c := clusterOf k
  let key := a.key s
  let cached := decide (via = .cache) && !isRem key
  let l1 : Bool := (match l1Line s k key with
    | some l => (tfind l.sec a.sec).isSome && !(a.isStore && cached && l.st != .w)
    | none => false)
  let l2 := (heldSector (l2Line s c key) a.sec).isSome && (!(cached && (a.isStore || a.isAmo)) || l2Owns s c key)
  let t := t.bumpCore k (if l1 then 0x0B else 0x0C) (if a.isAmo then 4 else if a.isStore then 2 else 1) 1
  if l1 then t
  else t.bumpCluster c (if l2 then 1 else 2) (if a.isStore && cached then 4 else if a.isStore || a.isAmo then 2 else 1) 1

/-- The same of an access that does issue. -/
def counted (s : State) (k : Nat) (a : Access) (via : Via) : State ⊕ Wait → State ⊕ Wait
  | .inl t => .inl (countLookup s k a via t)
  | .inr w => .inr w

/-- Issue a translated access to HBM of this or another module (R279, R263, R158), or say what it waits for. -/
def issueHbm (s : State) (k : Nat) (a : Access) : State ⊕ Wait :=
  match hbmRoute s k a with
  | (.cache, _) => counted s k a .cache (match tryCached s k a with
    | some t => .inl t
    | none => issueCached s k a)
  | (.fabric, _) => issueFabric s k a
  | (_, kind) => if a.wp = 3 then issueHome s k a kind else counted s k a .home (issueHome s k a kind)

/-- Issue a translated access (R263): to HBM, to MMIO (performed at once, R270), or to host memory (a read waits for its
completion, a store is posted and is not performed before a later read of its face returns, R251, R269). -/
def issueAccess (s : State) (k n : Nat) (a : Access) : State ⊕ Wait :=
  match paSpace a.pa with
  | 0 => issueHbm s k a
  | 2 =>
    if a.isStore then .inl (deliver (mmioWrite s (paOff a.pa) a.size a.data.toNat) k a 0 false)
    else
      let (v, s) := mmioRead s (paOff a.pa) a.size
      .inl (deliver s k a v false)
  | _ =>
    let addr := busAddr s n a.pa
    if a.isStore then
      if (entryFor s k { a with via := .host }).isNone then .inr .entry else
      let s := hostWrite s (fnOf s n) addr ((List.range a.size).map (byteOf a.data))
      let s := s.updCore k (fun c => { c with hostSt := c.hostSt ++ [⟨a.req, a.pc, a.va, a.size, addr, a.id, c.accOrd a⟩] })
      .inl (deliver s k a 0 false)
    else match entryFor s k { a with via := .host }, freeTag s with
      | none, _ => .inr .entry
      | some _, none => .inr .credit
      | some e, some t =>
        let a := { a with entry := e, via := .host }
        .inl (hostRead (pushAcc s k a) (fnOf s n) t addr a.size (.access k a.id))

/-- A requester that still waits for an entry keeps its place among those that do, and any other leaves them (R130). -/
def Lane.placed (k : Nat) (r : Req) : Lane → Lane
  | .done s => .done (leaveEntry s k (.req r))
  | .wait s st .entry => .wait (waitEntry s k (.req r)) st .entry
  | .wait s st w => .wait (leaveEntry s k (.req r)) st w
  | x => x

/-- One lane's access, of the issue with number `iss`: the hold (R255), translation (R314), protection (R310), and its issue. -/
def laneAccess (s : State) (g : Grp) (iss lane : Nat) (w : Want) : Lane :=
  let k := g.k
  let r := g.req lane
  (match orderBlock s k r with
  | some x => .wait s .waitMemory x
  | none =>
    let writes := w.need ≠ .read
    if heldBy s k iss false true w.va.toNat w.size writes then .wait (holdFences s k iss w.va.toNat w.size) .waitMemory (.hold (dmaHolder s k iss true w.va.toNat w.size writes))
    else
      let n := ctxOf s k
      match lookup s k n (vpnOf w.va) with
      | (none, s) =>
        .wait (startWalk s (clusterOf k) n (vpnOf w.va) (.face k r) w.need.bits w.va) .waitMemory (.walk (vpnOf w.va))
      | (some e, s) =>
        let pa := e.pa w.va
        match denied s k n .face w.need e.leaf pa w.size with
        | some (code, cause) => .fault code cause
        | none =>
          let (id, s) := s.newId
          let a : Access := {
            req := r, pc := g.pc, op := w.op, size := w.size, va := w.va, pa := pa, wp := eWp e.leaf,
            rem := eRem e.leaf, dst := w.dst, data := w.data, cmp := w.cmp, acq := w.acq,
            via := if w.direct then .fabric else .cache, id := id, issue := iss, entry := 0, elem := 0 }
          let key := a.key s
          if w.direct && eRem e.leaf && dirtyRem s k key then .wait (flushLine s k key) .waitMemory (.hold none)
          else match issueAccess s k n a with
            | .inl t => .done t
            | .inr x => .wait s .waitMemory x : Lane).placed k r

/-- Whether an access to HBM meets a poisoned sector as things stand (R296): in the L1, the L2, or wherever the newest copy is. -/
def meetsPoison (s : State) (k : Nat) (pa : W64) : Bool :=
  let key := lineKey s pa
  let q := paOff pa / 64 % 4
  if paSpace pa ≠ 0 then false
  else match heldSector (l1Line s k key) q, heldSector (l2Line s (clusterOf k) key) q with
    | some x, _ => x.poison
    | none, some x => x.poison
    | none, none => !isRem key && cohPoison s (paOff pa)

/-- The lanes that a precise fault takes, before anything is performed (R132): misalignment first (R150), then what the
translation of each lane that is already known refuses, then poison. -/
def laneFaults (s : State) (g : Grp) (want : Nat → Want) : Option (Nat × Nat × List Nat × W64) :=
  let bad := g.lanes.filter (fun l => (want l).va.toNat % (want l).size ≠ 0)
  if !bad.isEmpty then some (3, 0, bad, (want (bad.headD 0)).va)
  else
    let n := ctxOf s g.k
    let den (l : Nat) : Option (Nat × Nat) :=
      let w := want l
      if heldBy s g.k s.mem.nextId false true w.va.toNat w.size (w.need ≠ .read) then none
      else match (lookup s g.k n (vpnOf w.va)).1 with
        | some e => denied s g.k n .face w.need e.leaf (e.pa w.va) w.size
        | none => none
    match g.lanes.filterMap (fun l => (den l).map (fun d => (l, d))) with
    | [] =>
      let sick (l : Nat) : Bool :=
        let w := want l
        !w.direct && !heldBy s g.k s.mem.nextId false true w.va.toNat w.size (w.need ≠ .read) &&
          (match (lookup s g.k n (vpnOf w.va)).1 with
          | some e => meetsPoison s g.k (e.pa w.va)
          | none => false)
      match g.lanes.filter sick with
      | [] => none
      | l :: ls => some (6, 0, l :: ls, (want l).va)
    | (l, d) :: _ => some (d.1, d.2, g.lanes.filter (fun j => (den j).map Prod.fst == some d.1), (want l).va)

/-- Whether a lower lane has issued the group's instruction and still waits to perform it (R151). -/
def standsBehind (s : State) (g : Grp) (j : Nat) : Bool :=
  match g.cv with
  | none => false
  | some v =>
    let x := (s.core g.k).cv v
    (g.lanes.contains j || x.state j == .waitMemory || x.state j == .waitFault) && x.pc j == g.pc

/-- Run the lanes in increasing order (R151); each is done, or waits by itself. A lane whose access meets one of a lower lane that
waits (`clash`) waits behind it. -/
def runLanes (g : Grp) (clash : State → Nat → Nat → Bool) (f : Nat → State → Lane) (s : State) : Did :=
  let (s, done, bad) := g.lanes.foldl (fun (x : State × List Nat × Option (Nat × Nat)) l =>
    if (List.range l).any (fun j => standsBehind x.1 g j && !x.2.1.contains j && clash x.1 j l) then
      (setWait x.1 g [l] .waitMemory .order, x.2.1, x.2.2)
    else match f l x.1 with
    | .done t => (t, x.2.1 ++ [l], x.2.2)
    | .wait t st w => (setWait t g [l] st w, x.2.1, x.2.2)
    | .fault c p => (x.1, x.2.1, some (c, p))) (s, [], none)
  match bad with
  | some (c, _) => .fault c g.lanes 0
  | none => .part s done

/-- Lanes whose order does not matter. -/
def noClash (_ : State) (_ _ : Nat) : Bool := false

/-- Stores and atomics of two lanes to some of the same bytes. A lane whose page has no translation yet joins the walk whoever waits: it
performs nothing. -/
def wantClash (g : Grp) (want : State → Nat → Want) (s : State) (i j : Nat) : Bool :=
  let a := want s i
  let b := want s j
  (lookup s g.k (ctxOf s g.k) (vpnOf b.va)).1.isSome &&
  decide (a.need ≠ .read) && decide (a.va.toNat < b.va.toNat + b.size) && decide (b.va.toNat < a.va.toNat + a.size)

/-- A memory instruction of a group: precise faults first, then lane by lane; `first` is what a lane does before its access. -/
def memRunWith (first : Grp → Nat → Nat → (State → Lane) → State → Lane) (g : Grp) (want : State → Nat → Want) (s : State) : Did :=
  match laneFaults s g (want s) with
  | some (code, _, lanes, va) => .fault code lanes va
  | none =>
    let iss := s.mem.nextId
    runLanes g (wantClash g want) (fun l s => first g iss l (fun s => laneAccess s g iss l (want s l)) s) s

def memRun (g : Grp) (want : State → Nat → Want) (s : State) : Did := memRunWith (fun _ _ _ f s => f s) g want s

/-- The TLB hits of a group's lanes count as uses of their entries, the refused ones among them (R278, R314). -/
def touchLanes (s : State) (g : Grp) (want : Nat → Want) : State :=
  g.lanes.foldl (fun s l => match lookup s g.k (ctxOf s g.k) (vpnOf (want l).va) with
    | (some _, t) => t
    | _ => s) s

/-- A protection fault of an instruction that is about to issue leaves its cause in TLB_PCAUSE (R325). -/
def noteCause (s : State) (k : Nat) (f : Face) (legal : Bool) (us : List RegUse) (want : Grp → State → Nat → Want) : State :=
  match offer s k f with
  | none => s
  | some g =>
    if legal && us.all (regOk f) && (blockedLanes s g us).isEmpty then
      match laneFaults s g (want g s) with
      | some (code, c, _, _) => setPcause (if code = 3 then s else touchLanes s g (want g s)) k c
      | none => s
    else s

/-- Issue a load or store. -/
def issueMem (s : State) (k : Nat) (f : Face) (legal : Bool) (us : List RegUse) (want : Grp → State → Nat → Want) : Out :=
  issue (noteCause s k f legal us want) k f 4 legal us (fun g => memRun g (want g))

/-- The virtual address of a load or store. -/
def effAddr (s : State) (g : Grp) (lane : Nat) (ra : BitVec 6) (imm : W64) : W64 := rdReg s g lane ra.toNat true + imm

/-- R148: a load of `n` bytes. -/
def loadInstr (o : RriOp) (n : Nat) (sgn : Bool) (s : State) : Out :=
  issueMem s o.core o.face (!(isCc o.face && n == 16)) [dataUse o.rd n true, addrUse o.ra]
    (fun g s l => ⟨.load sgn, n, effAddr s g l o.ra (sx o.imm), o.rd.toNat, 0, 0, false, false⟩)

/-- R148: a store of `n` bytes. -/
def storeInstr (o : RriOp) (n : Nat) (s : State) : Out :=
  issueMem s o.core o.face (!(isCc o.face && n == 16)) [dataUse o.rd n false, addrUse o.ra]
    (fun g s l => ⟨.store, n, effAddr s g l o.ra (sx o.imm), 0, storeData s g l o.rd.toNat n, 0, false, false⟩)

/-- R148 LB. -/
def execLb (o : RriOp) (s : State) : Out := loadInstr o 1 true s
/-- R148 LBU. -/
def execLbu (o : RriOp) (s : State) : Out := loadInstr o 1 false s
/-- R148 LH. -/
def execLh (o : RriOp) (s : State) : Out := loadInstr o 2 true s
/-- R148 LHU. -/
def execLhu (o : RriOp) (s : State) : Out := loadInstr o 2 false s
/-- R148 LW. -/
def execLw (o : RriOp) (s : State) : Out := loadInstr o 4 true s
/-- R148 LWU. -/
def execLwu (o : RriOp) (s : State) : Out := loadInstr o 4 false s
/-- R148 LD. -/
def execLd (o : RriOp) (s : State) : Out := loadInstr o 8 false s
/-- R148 LQ, caravans only. -/
def execLq (o : RriOp) (s : State) : Out := loadInstr o 16 false s
/-- R148 SB. -/
def execSb (o : RriOp) (s : State) : Out := storeInstr o 1 s
/-- R148 SH. -/
def execSh (o : RriOp) (s : State) : Out := storeInstr o 2 s
/-- R148 SW. -/
def execSw (o : RriOp) (s : State) : Out := storeInstr o 4 s
/-- R148 SD. -/
def execSd (o : RriOp) (s : State) : Out := storeInstr o 8 s
/-- R148 SQ, caravans only. -/
def execSq (o : RriOp) (s : State) : Out := storeInstr o 16 s

/-- REL of THREAD scope for one requester (R155, R269): the zero-length read that its host stores need is issued, and the
answer says whether everything it covers is performed. Stores to another module's memory are not waited for. -/
def relThread (s : State) (k : Nat) (r : Req) : Bool × State :=
  let c := s.core k
  if c.hostSt.any (fun h => h.req == r) then (false, fenceFace s k r.faceNo)
  else (!c.acc.any (fun a => a.req == r && !(a.isStore && isRemote s a.pa)), s)

/-- Something that core `k` issued before number `b` is not performed or completed (R155; log 113). -/
def relPending (s : State) (k b : Nat) : Bool :=
  let c := s.core k
  c.acc.any (fun a => decide (a.id < b) && !(a.isStore && isRemote s a.pa)) || c.hostSt.any (fun h => decide (h.ord < b)) ||
    c.sp.waits.any (fun w => match w.who with | .face a => decide (a.ord < b) | _ => false) || (c.sp.moving ++ c.sp.behind).any (fun a => decide (a.ord < b)) ||
    c.ve.queue.any (fun v => decide (v.ord < b)) || c.ve.chans.any (fun e => decide (e.2.ord < b)) ||
    c.dma.queue.any (fun q => decide (q.ord < b))

/-- REL of CORE scope (R155): everything that any face issued, and every vector instruction and DMA command queued, before the
release was first sent, at number `iss`; that place is kept until the instruction completes. -/
def relCore (s : State) (k iss : Nat) (r : Req) : Bool × State :=
  let b := (((s.core k).rels.find? (fun x => x.1 == r)).map Prod.snd).getD iss
  let s := if (s.core k).rels.any (fun x => x.1 == r) then s else s.updCore k (fun c => { c with rels := c.rels ++ [(r, b)] })
  let s := [0, 1, 2, 3].foldl (fun s f =>
    if (s.core k).hostSt.any (fun h => h.req.faceNo == f && decide (h.ord < b)) then fenceFace s k f else s) s
  (!relPending s k b, s)

def relScope (s : State) (k iss : Nat) (core : Bool) (r : Req) : Bool × State := if core then relCore s k iss r else relThread s k r

/-- A release has completed. -/
def relDone (s : State) (k : Nat) (r : Req) : State :=
  if (s.core k).rels.any (fun x => x.1 == r) then s.updCore k (fun c => { c with rels := c.rels.filter (fun x => x.1 != r) }) else s

/-- A lane that first performs a release and then goes on (R154, R158). -/
def afterRel (rel : Bool) (core : Bool) (g : Grp) (iss l : Nat) (f : State → Lane) (s : State) : Lane :=
  if !rel then f s
  else match relScope s g.k iss core (g.req l) with
    | (true, s) => (match f s with
      | .done t => .done (relDone t g.k (g.req l))
      | x => x)
    | (false, s) => .wait s .waitMemory .order

/-- Offset of LD.ACQ and ST.REL, and the check of their size code. -/
def acqWant (o : AcqOp) (g : Grp) (s : State) (l : Nat) (store : Bool) : Want :=
  let va := effAddr s g l o.ra (sx o.off)
  let n := sizeBytes o.size
  if store then ⟨.store, n, va, 0, storeData s g l o.rd.toNat n, 0, false, false⟩
  else ⟨.load (sizeSigned o.size), n, va, o.rd.toNat, 0, 0, true, true⟩

/-- R158 LD.ACQ. -/
def execLdAcq (o : AcqOp) (s : State) : Out :=
  issueMem s o.core o.face (!o.scope && sizeOk o.face false o.size)
    [dataUse o.rd (sizeBytes o.size) true, addrUse o.ra] (fun g s l => acqWant o g s l false)

/-- R158 ST.REL. -/
def execStRel (o : AcqOp) (s : State) : Out :=
  let legal := sizeOk o.face true o.size
  let us := [dataUse o.rd (sizeBytes o.size) false, addrUse o.ra]
  let want (g : Grp) (s : State) (l : Nat) : Want := acqWant o g s l true
  issue (noteCause s o.core o.face legal us want) o.core o.face 4 legal us
    (fun g s => memRunWith (afterRel true o.scope) g (want g) s)

/-- A scratchpad address (R138, R149): one 32-bit register and an offset. -/
def spAddr (s : State) (g : Grp) (lane : Nat) (ra : BitVec 6) (off : W32) : Nat :=
  ((rdReg s g lane ra.toNat false).setWidth 32 + off).toNat

/-- Whether a C-port access faults (R149, R212): cause of SP_FAULT. -/
def cPortFault (sp : Scratch) (a : Nat) : Option Nat :=
  if 2 ^ 21 ≤ a then some 2 else if mapClass sp.pmap (spGroup a) ≠ clsC then some 1 else none

/-- The scratchpad part of a precise fault of lanes: SP_FAULT takes the first offending address. -/
def cPortBad (s : State) (g : Grp) (addr : Nat → Nat) (n : Nat) : Option (Nat × List Nat × Nat × Nat) :=
  let mis := g.lanes.filter (fun l => addr l % n ≠ 0)
  if !mis.isEmpty then some (3, mis, 0, addr (mis.headD 0))
  else
    let sp := (s.core g.k).sp
    let bad := g.lanes.filter (fun l => (cPortFault sp (addr l)).isSome)
    if bad.isEmpty then none
    else
      let a := addr (bad.headD 0)
      some (7, bad, (cPortFault sp a).getD 0, a)

/-- Bytes of a C-port access. -/
def SpAccess.bytes (x : SpAccess) : Nat := sizeBytes (BitVec.ofNat 3 x.code)

/-- Whether it writes. -/
def SpAccess.writes (x : SpAccess) : Bool := x.store || x.amo.isSome

/-- Perform a C-port access and update its tag (R214); an atomic leaves the tag as it is (R154). -/
def spPerform (s : State) (g : Grp) (lane : Nat) (x : SpAccess) : State :=
  let sp := (s.core g.k).sp
  let n := x.bytes
  match x.amo with
  | some op =>
    let old := spRead sp x.addr n
    let s := s.updSp g.k (fun sp => sp.write x.addr n (amoApply op n old x.data.toNat x.cmp.toNat))
    if n = 8 then wrReg s g lane x.dst true (BitVec.ofNat 64 old) else wrLow s g lane x.dst (BitVec.ofNat 32 old)
  | none =>
    let s :=
      if x.store then s.updSp g.k (fun sp => sp.write x.addr n x.data.toNat)
      else loadInto s g lane x.dst n (sizeSigned (BitVec.ofNat 3 x.code)) (BitVec.ofNat 128 (spRead sp x.addr n))
    s.updSp g.k (fun p => plainTags p x.map (!x.store) x.addr n)

/-- What a C-port access that is bound to its map meets: a transit (R210), a tag (R214; an atomic ignores it), or nothing. -/
inductive SpMeets where
  | transit
  | tag (slot : Nat)
  | nothing
  deriving DecidableEq, Repr

def spMeets (sp : Scratch) (x : SpAccess) : SpMeets :=
  if transitBlock sp x.map x.addr x.bytes then .transit
  else match (if x.amo.isSome then none else plainBlock sp x.map (!x.store) x.addr x.bytes) with
    | some slot => .tag slot
    | none => .nothing

/-- The accesses of the faces that are bound to their map and not performed (R210). -/
def spBound (sp : Scratch) : List SpAccess :=
  sp.waits.filterMap (fun w => match w.who with | .face a => some a | _ => none) ++ sp.moving ++ sp.behind

/-- A store or an atomic that meets a bound access of a lower lane of its instruction: it is performed after that one (R151). -/
def behindLower (sp : Scratch) (x : SpAccess) : Bool :=
  x.writes && (spBound sp).any (fun a => a.pc == x.pc && decide (a.addr < x.addr + x.bytes) && decide (x.addr < a.addr + a.bytes) &&
    (match a.req, x.req with
    | .thread v i, .thread w j => v == w && decide (i < j)
    | _, _ => false))

/-- One lane of LDS, STS or an atomic: the hold (R255) comes before its issue, which binds it to the map (R210). -/
def spLane (s : State) (g : Grp) (lane : Nat) (x : SpAccess) : Lane :=
  match orderBlock s g.k (g.req lane) with
  | some w => .wait s .waitMemory w
  | none =>
    if heldSp s g.k x.ord false x.map x.addr x.bytes x.writes then
      .wait s .waitMemory (.hold (dmaHolder s g.k x.ord false x.addr x.bytes x.writes))
    else if behindLower (s.core g.k).sp x then .wait (s.updSp g.k (fun sp => { sp with behind := sp.behind ++ [x] })) .waitMemory .bound
    else match spMeets (s.core g.k).sp x with
      | .transit => .wait (s.updSp g.k (fun sp => { sp with moving := sp.moving ++ [x] })) .waitMemory .bound
      | .tag slot => .wait (s.updSp g.k (fun sp => addWait sp ⟨slot, !x.store, .face x, none⟩)) .waitMemory (.tag slot (!x.store))
      | .nothing => .done (spPerform s g lane x)

/-- Register uses of an atomic (R153): RD and RB of the operand's width, RA a virtual or scratchpad address. -/
def amoUses (o : AmoOp) : List RegUse :=
  let n := if o.w then 2 else 1
  [⟨o.rd.toNat, n, true⟩, ⟨o.ra.toNat, if o.space then 1 else 2, false⟩, ⟨o.rb.toNat, n, false⟩]

/-- A register operand of an atomic. -/
def amoReg (s : State) (g : Grp) (l : Nat) (r : BitVec 6) (w : Bool) : Nat :=
  (rdReg s g l r.toNat (w || g.cv.isNone)).toNat % (if w then 2 ^ 64 else 2 ^ 32)

/-- The access of one lane of a C-port atomic (R154). -/
def amoSp (o : AmoOp) (op : AmoKind) (g : Grp) (s : State) (l : Nat) : SpAccess where
  req := g.req l
  map := (s.core g.k).sp.pmap
  pc := g.pc
  store := false
  code := if o.w then 6 else 4
  addr := spAddr s g l o.ra 0
  dst := o.rd.toNat
  data := BitVec.ofNat 128 (amoReg s g l o.rb o.w)
  cmp := BitVec.ofNat 64 (amoReg s g l o.rd o.w)
  amo := some op
  ord := s.newId.1

/-- The access of one lane of a virtual-memory atomic. -/
def amoWant (o : AmoOp) (op : AmoKind) (g : Grp) (s : State) (l : Nat) : Want :=
  ⟨.amo op, if o.w then 8 else 4, rdReg s g l o.ra.toNat true, o.rd.toNat, BitVec.ofNat 128 (amoReg s g l o.rb o.w),
    BitVec.ofNat 64 (amoReg s g l o.rd o.w), o.aq, false⟩

/-- A scratchpad port fault of an instruction that is about to issue is recorded in SP_FAULT (R225). -/
def noteSp (s : State) (k : Nat) (f : Face) (legal : Bool) (us : List RegUse) (addr : Grp → State → Nat → Nat) (n : Nat) : State :=
  match offer s k f with
  | none => s
  | some g =>
    if legal && us.all (regOk f) && (blockedLanes s g us).isEmpty then
      match cPortBad s g (addr g s) n with
      | some (7, _, cause, a) => spFault s k cause clsC (spGroup a) 0 a
      | _ => s
    else s

/-- Stores or atomics of two lanes to some of the same bytes of the scratchpad, while the lower one has not been bound to its map. -/
def spClash (g : Grp) (wr : Bool) (n : Nat) (addr : State → Nat → Nat) (s : State) (i j : Nat) : Bool :=
  wr && decide (addr s i < addr s j + n) && decide (addr s j < addr s i + n) && !(spBound (s.core g.k).sp).any (fun a => a.req == g.req i)

/-- LDS and STS (R149). -/
def spInstr (o : SpaOp) (store : Bool) (s : State) : Out :=
  let n := sizeBytes o.size
  let addr (g : Grp) (s : State) (l : Nat) : Nat := spAddr s g l o.ra (o.off.signExtend 32)
  let us := [dataUse o.rd n (!store), ⟨o.ra.toNat, 1, false⟩]
  let legal := sizeOk o.face store o.size
  issue (noteSp s o.core o.face legal us addr n) o.core o.face 4 legal us (fun g s =>
    match cPortBad s g (addr g s) n with
    | some (code, lanes, _, _) => .fault code lanes 0
    | none => runLanes g (spClash g store n (addr g)) (fun l s => spLane s.newId.2 g l
        ⟨g.req l, (s.core g.k).sp.pmap, g.pc, store, o.size.toNat, addr g s l, o.rd.toNat, if store then storeData s g l o.rd.toNat n else 0, 0,
          none, s.newId.1⟩) s)

/-- R149 LDS. -/
def execLds (o : SpaOp) (s : State) : Out := spInstr o false s
/-- R149 STS. -/
def execSts (o : SpaOp) (s : State) : Out := spInstr o true s

/-- AMO (R153, R154). -/
def amoInstr (o : AmoOp) (op : AmoKind) (s : State) : Out :=
  let n := if o.w then 8 else 4
  let us := amoUses o
  if o.space then
    let addr (g : Grp) (s : State) (l : Nat) : Nat := spAddr s g l o.ra 0
    issue (noteSp s o.core o.face true us addr n) o.core o.face 4 true us (fun g s =>
      match cPortBad s g (addr g s) n with
      | some (code, lanes, _, _) => .fault code lanes 0
      | none => runLanes g (spClash g true n (addr g)) (fun l s => afterRel o.rl false g s.mem.nextId l (fun s => spLane s.newId.2 g l (amoSp o op g s l)) s) s)
  else
    issue (noteCause s o.core o.face true us (amoWant o op)) o.core o.face 4 true us (fun g s =>
      memRunWith (afterRel o.rl false) g (amoWant o op g) s)

/-- R153 SWAP. -/
def execSwap (o : AmoOp) (s : State) : Out := amoInstr o .swap s
/-- R153 CAS. -/
def execCas (o : AmoOp) (s : State) : Out := amoInstr o .cas s
/-- R153 ADD. -/
def execAmoAdd (o : AmoOp) (s : State) : Out := amoInstr o .add s
/-- R153 AND. -/
def execAmoAnd (o : AmoOp) (s : State) : Out := amoInstr o .and s
/-- R153 OR. -/
def execAmoOr (o : AmoOp) (s : State) : Out := amoInstr o .or s
/-- R153 XOR. -/
def execAmoXor (o : AmoOp) (s : State) : Out := amoInstr o .xor s
/-- R153 MIN, signed. -/
def execAmoMin (o : AmoOp) (s : State) : Out := amoInstr o .min s
/-- R153 MAX, signed. -/
def execAmoMax (o : AmoOp) (s : State) : Out := amoInstr o .max s
/-- R153 MINU. -/
def execAmoMinu (o : AmoOp) (s : State) : Out := amoInstr o .minu s
/-- R153 MAXU. -/
def execAmoMaxu (o : AmoOp) (s : State) : Out := amoInstr o .maxu s

/-- R155 REL. -/
def execRel (o : OrdOp) (s : State) : Out :=
  issue s o.core o.face 4 (o.rd == 0 && o.ra == 0 && o.rb == 0) []
    (fun g s => match orderBlock s g.k (g.req (g.lanes.headD 0)) with
      | some .capture => .wait .capture
      | _ =>
        let iss := s.mem.nextId
        runLanes g noClash (fun l s => afterRel true o.fn0 g iss l .done s) s)

/-- Drop the clean sectors of a remote-attribute line from the core's L1 and the cluster's L2, and those that an open fill of the
cluster will bring (R157, R271). -/
def discardRem (s : State) (k key : Nat) : State :=
  let keep (l : CLine) : CLine :=
    let sec := l.sec.filter (fun e => e.2.dirty)
    { l with sec := sec, st := if sec.isEmpty then LineState.i else l.st }
  let s := voidFill s (clusterOf k) key
  let s := match l1Line s k key with
    | some l => if l.st = .rem then updL1Line s k key keep else s
    | none => s
  match l2Line s (clusterOf k) key with
  | some l => if l.st = .rem then updL2Line s (clusterOf k) key (fun l => { l with sec := [] }) else s
  | none => s

/-- Loads of a requester that are not performed. -/
def loadsPending (s : State) (k : Nat) (r : Req) : Bool :=
  (s.core k).acc.any (fun a => a.req == r && !a.isStore && decide (a.op ≠ .desc))

/-- Remote-attribute lines of a core's L1 and its cluster's L2, with those that an open fill will bring. -/
def remKeys (s : State) (k : Nat) : List Nat :=
  (((s.core k).l1.lines.filter (fun e => e.2.st == .rem)).map (fun e => e.2.line)) ++
    (((s.cluster (clusterOf k)).l2.lines.filter (fun e => e.2.st == .rem)).map (fun e => e.2.line)) ++
    (((s.cluster (clusterOf k)).open_.map Prod.fst).filter isRem)

/-- The first page of [base, base + len) whose walk ends in a protection or poison fault (R310, R318): its code, its cause, and the
first byte of the range on it. Only unmapped pages are skipped. -/
def rangeBad (s : State) (k base len : Nat) : Option (Nat × Nat × W64) :=
  if len = 0 then none
  else
    let p0 := base / 4096
    (List.range ((base + len - 1) / 4096 - p0 + 1)).findSome? (fun i =>
      let va := BitVec.ofNat 64 (max base (4096 * (p0 + i)))
      match walk s (clusterOf k) (ctxOf s k) (p0 + i) with
      | .prot c _ => some (5, c, va)
      | .poison => some (6, 0, va)
      | _ => none)

/-- Keys of the lines of [base, base + len) that are mapped with the remote attribute; unmapped pages are skipped. -/
def rangeKeys (s : State) (k base len : Nat) : List Nat :=
  if len = 0 then []
  else
    let n := ctxOf s k
    let l0 := base / 256
    (List.range ((base + len - 1) / 256 - l0 + 1)).filterMap (fun i =>
      let va := 256 * (l0 + i)
      match walk s (clusterOf k) n (va / 4096) with
      | .leaf level e off =>
        let t := mergedEntry s n level off (va / 4096) e
        if eRem t.leaf then some (lineKey s (t.pa (BitVec.ofNat 64 va))) else none
      | _ => none)

/-- R157: when the requester's earlier loads are performed, the clean remote-attribute copies go. -/
def acquire (g : Grp) (keys : State → Nat → List Nat) (s : State) : Did :=
  runLanes g noClash (fun l s =>
    match orderBlock s g.k (g.req l) with
    | some w => .wait s .waitMemory w
    | none =>
      if loadsPending s g.k (g.req l) then .wait s .waitMemory .order
      else .done ((keys s l).foldl (fun s key => discardRem s g.k key) s)) s

/-- R157 ACQ.A. -/
def execAcqA (o : OrdOp) (s : State) : Out :=
  issue s o.core o.face 4 (!o.fn0 && o.rd == 0 && o.ra == 0 && o.rb == 0) []
    (fun g s => acquire g (fun s _ => remKeys s g.k) s)

/-- The precise fault of ACQ.R: code, cause, the lanes whose range meets it first, and the address. -/
def acqFault (s : State) (g : Grp) (o : OrdOp) : Option (Nat × Nat × List Nat × W64) :=
  let bad (l : Nat) : Option (Nat × Nat × W64) := rangeBad s g.k (rdReg s g l o.ra.toNat true).toNat (rdReg s g l o.rb.toNat true).toNat
  match g.lanes.filterMap bad with
  | [] => none
  | x :: _ => some (x.1, x.2.1, g.lanes.filter (fun l => (bad l).map Prod.fst == some x.1), x.2.2)

/-- R157 ACQ.R. -/
def execAcqR (o : OrdOp) (s : State) : Out :=
  let legal := !o.fn0 && o.rd == 0
  let us := [useOf o.ra true false, useOf o.rb true false]
  let s := match (mayIssue s o.core o.face legal us).bind (fun g => acqFault s g o) with
    | some (_, c, _, _) => setPcause s o.core c
    | none => s
  issue s o.core o.face 4 legal us (fun g s =>
    match acqFault s g o with
    | some (code, _, lanes, va) => .fault code lanes va
    | none => acquire g (fun s l => rangeKeys s g.k (rdReg s g l o.ra.toNat true).toNat (rdReg s g l o.rb.toNat true).toNat) s)

/-- A barrier (R159). -/
def Core.bar (c : Core) (b : Nat) : Barrier := tget ⟨0, 0, []⟩ c.bars b

/-- Release the waiters of a barrier. -/
def freeWaiters (s : State) (k : Nat) (ws : List Req) : State :=
  ws.foldl (fun s r => match r with
    | .thread v l => s.updCv k v (fun x => x.setState [l] .ready .none)
    | _ => s.updCore k (fun c => { c with wait := .none })) s

/-- Arrivals of a group (R159). -/
def barArrive (s : State) (g : Grp) (b count : Nat) (wait : Bool) : State :=
  let x := (s.core g.k).bar b
  let x := if x.arrived = 0 then { x with count := count } else x
  let x := { x with arrived := x.arrived + g.lanes.length }
  if x.count ≤ x.arrived then
    freeWaiters (s.updCore g.k (fun c => { c with bars := tput c.bars b { x with arrived := 0, waiters := [] } })) g.k x.waiters
  else
    let x := if wait then { x with waiters := x.waiters ++ g.lanes.map g.req } else x
    let s := s.updCore g.k (fun c => { c with bars := tput c.bars b x })
    if wait then setWait s g g.lanes .waitMemory (.barrier b) else s

/-- BAR.SYNC and BAR.ARRIVE: a count of 1 to 1,025 in every thread, REL of THREAD scope, then the arrivals. -/
def barInstr (o : BarOp) (wait : Bool) (s : State) : Out :=
  let count (g : Grp) (s : State) (l : Nat) : Nat := (rdReg s g l o.ra.toNat false).toNat
  issue s o.core o.face 4 (o.rd == 0 && o.rb == 0) [⟨o.ra.toNat, 1, false⟩] (fun g s =>
    if g.lanes.any (fun l => count g s l = 0 || decide (1025 < count g s l)) then .fault 1 g.lanes 0
    else
      let (ok, s) := g.lanes.foldl (fun (x : Bool × State) l =>
        let (o, t) := relThread x.2 g.k (g.req l)
        (x.1 && o, t)) (true, s)
      if ok then .ok (barArrive s g o.bar.val (count g s (g.lanes.headD 0)) wait)
      else .part (setWait s g g.lanes .waitMemory .order) [])

/-- R159 BAR.SYNC. -/
def execBarSync (o : BarOp) (s : State) : Out := barInstr o true s
/-- R159 BAR.ARRIVE. -/
def execBarArrive (o : BarOp) (s : State) : Out := barInstr o false s

/-- R175 CACHE.INVP: lines of the range leave the cluster's caches without write-back. -/
def execCacheInvp (o : RrrOp) (s : State) : Out :=
  issuePriv s o.core o.face 4 (isCc o.face && !o.w && o.rd == 0) [useOf o.ra true false, useOf o.rb true false]
    (fun g s =>
      let len := (rdReg s g 0 o.rb.toNat true).toNat
      let pa := rdReg s g 0 o.ra.toNat true
      let first := lineKey s pa
      let last := first + (pa.toNat % 256 + len - 1) / 256
      let c := clusterOf g.k
      let keys := ((s.cluster c).l2.lines.map (fun e => e.2.line)).filter (fun x => len != 0 && decide (first ≤ x) && decide (x ≤ last))
      .ok (keys.foldl (fun s key => releaseL2 s c key true) s))

end Sys2Proof.Machine
end

