-- ==== Sys2Proof/Machine/VecElem.lean ====
section
/-!
DEFINITION. What the functions of the vector engine compute (07 R184–R194): elements, compares, masks, conversions and scalar
summaries, on the bits of elements.
-/
namespace Sys2Proof.Machine

def isFloatFmt (f : Nat) : Bool := decide (f < 4)
def isIntFmt (f : Nat) : Bool := f == 6 || f == 7
def isPairFmt (f : Nat) : Bool := f == 0x18 || f == 0x19

/-- The IEEE format of a float window. -/
def floatOf (f : Nat) : FFmt :=
  match ekind f with
  | .flt x => x
  | _ => fp64

/-- Formats that a function accepts in its data windows (R187, R188, R192, R193, R195); VB of a gather or scatter is its
index window. -/
def fmtAccepted (op fn role fmt : Nat) : Bool :=
  let fi := isFloatFmt fmt || isIntFmt fmt
  match op with
  | 0x39 =>
    if fn = 0x0F ∨ fn = 0x17 then !isBlock fmt
    else if fn = 0x03 ∨ fn = 0x04 ∨ fn = 0x06 ∨ fn = 0x0B ∨ fn = 0x0E ∨ fn = 0x46 then isFloatFmt fmt
    else if (0x11 ≤ fn ∧ fn ≤ 0x16) ∨ fn = 0x18 ∨ fn = 0x44 ∨ fn = 0x45 then isIntFmt fmt
    else if fn = 0x60 then true
    else if fn = 0x61 then (role != 0 || isBlock fmt)
    else if fn = 0x70 then isPairFmt fmt
    else fi
  | 0x3A =>
    match fn with
    | 6 => fi || isPairFmt fmt
    | 7 => isFloatFmt fmt
    | _ => fi
  | _ =>
    if role = 2 then isIntFmt fmt
    else fi || isPairFmt fmt || fmt == 4 || fmt == 5 || fmt == 0x0C

/-- Whether a role's window must be a mask window (R181, R188, R193). -/
def wantsMask (op fn role : Nat) : Bool :=
  if role = 4 then true
  else match op with
    | 0x39 => (decide (0x40 ≤ fn ∧ fn ≤ 0x46) && role == 0) || decide (0x48 ≤ fn ∧ fn ≤ 0x4B)
    | 0x3A => decide (fn ≤ 3)
    | _ => false

/-- Functions whose data windows must share one format (R187). -/
def sameFmt (op fn : Nat) : Bool := op == 0x39 && fn != 0x60 && fn != 0x61

/-- Element arithmetic on integers of width `w` (R187, R141, R142). -/
def intElem (w fn : Nat) (a b sc : BitVec w) (i : Nat) : BitVec w :=
  match fn with
  | 0x00 => a + b
  | 0x01 => a - b
  | 0x02 => a * b
  | 0x05 => divS w a b
  | 0x07 => if a.slt b then a else b
  | 0x08 => if a.slt b then b else a
  | 0x09 => if a.slt 0 then -a else a
  | 0x0A => -a
  | 0x0C => a + sc
  | 0x0D => a * sc
  | 0x10 => sc
  | 0x11 => a &&& b
  | 0x12 => a ||| b
  | 0x13 => a ^^^ b
  | 0x14 => a <<< (b.toNat % w)
  | 0x15 => a >>> (b.toNat % w)
  | 0x16 => a.sshiftRight (b.toNat % w)
  | 0x18 => BitVec.ofNat w i
  | _ => a

/-- Element arithmetic on floats (R187, R146): bits of the destination, sources and scalar (log 108). -/
def floatElem (f : FFmt) (fn : Nat) (rm : BitVec 2) (d a b sc : Nat) : Nat × Flags :=
  let x := f.dec a
  let y := f.dec b
  let z := f.dec sc
  match fn with
  | 0x00 => fadd f rm x y
  | 0x01 => fsub f rm x y
  | 0x02 => fmul f rm x y
  | 0x03 => ffma f rm false (f.dec d) x y
  | 0x04 => ffma f rm true (f.dec d) x y
  | 0x05 => fdiv f rm x y
  | 0x06 => fsqrt f rm x
  | 0x07 => fminBits f false a b
  | 0x08 => fminBits f true a b
  | 0x09 => fabsBits f a
  | 0x0A => fnegBits f a
  | 0x0B => fdiv f rm (.fin false 1 0) x
  | 0x0C => fadd f rm x z
  | 0x0D => fmul f rm x z
  | 0x0E => ffma f rm false y x z
  | 0x10 => (sc, 0)
  | _ => (a, 0)

/-- A compare (R188). -/
def cmpElem (fmt fn a b : Nat) : Bool × Flags :=
  if isIntFmt fmt then
    let w := ebits fmt
    let x := BitVec.ofNat w a
    let y := BitVec.ofNat w b
    match fn with
    | 0x40 => (x == y, 0)
    | 0x41 => (x != y, 0)
    | 0x42 => (x.slt y, 0)
    | 0x43 => (x.sle y, 0)
    | 0x44 => (x.ult y, 0)
    | _ => (x.ule y, 0)
  else
    let f := floatOf fmt
    let x := f.dec a
    let y := f.dec b
    match fn with
    | 0x40 => fcmpEq x y
    | 0x41 => let (r, fl) := fcmpEq x y; (!r, fl)
    | 0x42 => fcmpLt x y
    | 0x43 => fcmpLe x y
    | _ => (x.isNan, sigFlag [x])

/-- A mask operation on bits (R188). -/
def maskElem (fn a b : Nat) : Nat :=
  match fn with
  | 0x48 => b2n (a == 1 && b == 1)
  | 0x49 => b2n (a == 1 || b == 1)
  | 0x4A => b2n (a != b)
  | _ => b2n (a == 0)

/-- One element of a function of opcode 0x39 without a block-format destination: `ea` is the block exponent of a block-format
source, `m` the selector of VSEL, which copies bits and raises no flag as VMOV does (log 78, DEDUCED). -/
def vecElem (fn srcFmt dstFmt : Nat) (rm : BitVec 2) (sat : Bool) (d a b : Nat) (sc : W64) (m : Bool) (ea i : Nat) :
    Nat × Flags :=
  if fn = 0x60 ∨ fn = 0x61 then
    if srcFmt = dstFmt then (a, 0)
    else if isBlock srcFmt then convElem dstFmt rm sat (elemVal srcFmt a ea)
    else convOne srcFmt dstFmt rm sat a
  else if fn = 0x70 then pairMerge (if dstFmt = 0x18 then fp32 else fp64) a b
  else if fn = 0x0F then (a, 0)
  else if fn = 0x17 then (if m then a else b, 0)
  else if 0x48 ≤ fn ∧ fn ≤ 0x4B then (maskElem fn a b, 0)
  else if 0x40 ≤ fn ∧ fn ≤ 0x46 then
    let (r, fl) := cmpElem srcFmt fn a b
    (b2n r, fl)
  else
    let w := ebits dstFmt
    let s := sc.toNat % 2 ^ w
    if isIntFmt dstFmt then ((intElem w fn (BitVec.ofNat w a) (BitVec.ofNat w b) (BitVec.ofNat w s) i).toNat, 0)
    else floatElem (floatOf dstFmt) fn rm d a b s

/-- Conversion of a block (R189–R191): the raw source bits and exponent of each element, whether it is active, the source
format; the exponent (given for VCVT.BEXP), the elements, and the flags of the active elements. -/
def vecBlock (src dst : Nat) (rm : BitVec 2) (given : Option Nat) (xs : List (Nat × Nat × Bool)) : Nat × List Nat × Flags :=
  let nums := xs.map (fun x => elemVal src x.1 x.2.1)
  let e := match given with
    | some e => e
    | none => if src = dst then (xs.headD (0, 127, true)).2.1 else blockExp src dst nums
  let bits := if src = dst ∧ given = none then xs.map Prod.fst else (convBlockWith dst rm given.isNone e nums).1
  let act := ((xs.zip nums).filter (fun x => x.1.2.2)).map Prod.snd
  (e, bits, if src = dst ∧ given = none then 0 else (convBlockWith dst rm given.isNone e act).2)

/-- Where a summary's running value stands: the lane pairs at keys 0 to 63, the value of the others at key 64 once an active
element has been met. -/
def sumFold (fn fmt : Nat) (lanes : Tbl W128) (i x : Nat) : Tbl W128 × Flags :=
  let cur := tfind lanes 64
  let val := (cur.getD 0).toNat
  let put (v : Nat) : Tbl W128 := tput lanes 64 (BitVec.ofNat 128 v)
  match fn with
  | 0 => (if x = 1 then put 1 else lanes, 0)
  | 1 => (if x = 0 then put 1 else lanes, 0)
  | 2 => (if x = 1 then put (val + 1) else lanes, 0)
  | 3 => (if x = 1 ∧ cur = none then put i else lanes, 0)
  | 6 =>
    if isIntFmt fmt then (put ((BitVec.ofInt 64 (intOf (ebits fmt) x)).toNat + val), 0)
    else
      let (p, f1) : Nat × Flags :=
        if fmt = 0x19 then (x, 0)
        else if fmt = 0x18 then widenPair x
        else
          let (h, fl) := roundTo fp64 0 false ((floatOf fmt).dec x)
          (pairPack fp64 h 0, fl)
      let (q, f2) := pairMerge fp64 (tget 0 lanes (i % 64)).toNat p
      (tput lanes (i % 64) (BitVec.ofNat 128 q), f1 ||| f2)
  | 7 =>
    let n := (floatOf fmt).dec x
    let (sq, f0) := mulNum n n
    let (p, f1) := splitNum fp64 sq
    let (q, f2) := pairMerge fp64 (tget 0 lanes (i % 64)).toNat p
    (tput lanes (i % 64) (BitVec.ofNat 128 q), f0 ||| f1 ||| f2)
  | _ =>
    let mx := fn == 5
    if isIntFmt fmt then
      let w := ebits fmt
      let a := BitVec.ofNat w val
      let b := BitVec.ofNat w x
      (if cur = none then put x else if mx then put (if a.slt b then x else val) else put (if b.slt a then x else val), 0)
    else
      let (r, fl) := fminBits (floatOf fmt) mx (if cur = none then x else val) x
      (put r, fl)

/-- The lane pairs merged in the TREE order of R102 (R194). -/
def treeMerge (lanes : Tbl W128) : Nat × Flags :=
  let go (w : Nat) (x : List Nat × Flags) : List Nat × Flags :=
    (List.range 64).foldl (fun (x : List Nat × Flags) p =>
      if p % (2 * w) = 0 ∧ p + w < 64 then
        let (m, fl) := pairMerge fp64 (x.1.getD p 0) (x.1.getD (p + w) 0)
        (x.1.set p m, x.2 ||| fl)
      else x) x
  let (xs, fl) := [1, 2, 4, 8, 16, 32].foldl (fun x w => go w x) ((List.range 64).map (fun i => (tget 0 lanes i).toNat), (0 : Flags))
  (xs.headD 0, fl)

/-- The result of a summary (R193, R194). -/
def sumResult (fn fmt : Nat) (rm : BitVec 2) (lanes : Tbl W128) : W64 × Flags :=
  let cur := tfind lanes 64
  let val := (cur.getD 0).toNat
  let wide (b : Nat) : W64 := BitVec.ofNat 64 (roundTo fp64 0 false ((floatOf fmt).dec b)).1
  match fn with
  | 0 => (BitVec.ofNat 64 val, 0)
  | 1 => (if val = 1 then 0 else 1, 0)
  | 2 => (BitVec.ofNat 64 val, 0)
  | 3 => (if cur = none then BitVec.allOnes 64 else BitVec.ofNat 64 val, 0)
  | 6 =>
    if isIntFmt fmt then (BitVec.ofNat 64 val, 0)
    else
      let (p, f1) := treeMerge lanes
      let (r, f2) := roundTo fp64 rm false (pairNum fp64 p)
      (BitVec.ofNat 64 r, f1 ||| f2)
  | 7 =>
    let (p, f1) := treeMerge lanes
    let (r, f2) := fsqrt fp64 rm (pairNum fp64 p)
    (BitVec.ofNat 64 r, f1 ||| f2)
  | _ =>
    let mx := fn == 5
    if isIntFmt fmt then
      let w := ebits fmt
      let none_ : Int := if mx then -(2 ^ (w - 1) : Nat) else (2 ^ (w - 1) - 1 : Nat)
      (BitVec.ofInt 64 (if cur = none then none_ else intOf w val), 0)
    else (if cur = none then BitVec.ofNat 64 (fp64.infBits mx) else wide val, 0)

end Sys2Proof.Machine
end

