-- ==== Sys2Proof/Machine/Vector.lean ====
section
/-!
DEFINITION. The vector engine (07): issue of vector instructions, the checks at the queue head, element by element execution
with ring takes and tags, the gather/scatter channels, and completion.
-/
namespace Sys2Proof.Machine

/-- Register and field legality of a vector instruction (R170). -/
structure VecShape where
  op : Nat
  fn : Nat
  sdRd : Bool
  sdWr : Bool
  rm : Bool
  sat : Bool

def vecNamesVd (sh : VecShape) : Bool := (namesOf sh.op sh.fn).vd || (sh.op == 0x3B && (sh.fn == 0x10 || sh.fn == 0x11))
def vecNamesVa (sh : VecShape) : Bool := (namesOf sh.op sh.fn).va || (sh.op == 0x3B && (sh.fn == 0x12 || sh.fn == 0x13))

def vecLegal (o : VecOp) (sh : VecShape) : Bool :=
  isCc o.face && o.rsvHi == 0 && o.rsvLo == 0 && (vecNamesVd sh || o.vd == 0) && (vecNamesVa sh || o.va == 0) &&
    ((namesOf sh.op sh.fn).vb || o.vb == 0) && (sh.sdRd || sh.sdWr || o.sd == 0) &&
    (o.maskEn || o.vm == 0 || (sh.op == 0x39 && sh.fn == 0x17)) && (sh.rm || o.rm == 0) && (sh.sat || !o.sat)

/-- Entries of the vector queue in use: a gather or scatter keeps its entry until it has written its last element (R107). -/
def VecEng.count (e : VecEng) : Nat := e.queue.length + e.chans.length

/-- Enter the vector queue (R182, R184): the scalar is read at issue, a destination in an s register becomes pending (R110). -/
def vecIssue (o : VecOp) (sh : VecShape) (s : State) : Out :=
  issue s o.core o.face 8 (vecLegal o sh) (if sh.sdRd || sh.sdWr then [⟨o.sd.toNat, 1, sh.sdWr⟩] else []) (fun g s =>
    match orderBlock s g.k .cc with
    | some w => .wait w
    | none =>
      let c := s.core g.k
      if 32 ≤ c.ve.count then .wait .queue
      else
        let (ord, s) := s.newId
        let v : VeInstr := {
          ord := ord, win := [], vl := 0, op := sh.op, fn := sh.fn, rm := o.rm, sat := o.sat, sd := o.sd.toNat, vd := o.vd.toNat,
          va := o.va.toNat, vb := o.vb.toNat, vm := o.vm.toNat, maskEn := o.maskEn, s := c.sreg o.sd.toNat, pc := g.pc,
          map := c.sp.pmap, started := false, idx := 0, rd := 0, slots := [], taken := [], lanes := [], folded := 0, seen := [], got := [],
          issue := 0, done := false }
        .ok (s.updCore g.k (fun c => { c with
          sPend := if sh.sdWr then c.sPend ++ [o.sd.toNat] else c.sPend
          ve := { c.ve with queue := c.ve.queue ++ [v] } })))

/-- Shapes of the groups of R170. -/
def vArith (fn : Nat) : VecShape := ⟨0x39, fn, false, false, true, false⟩
def vExact (fn : Nat) : VecShape := ⟨0x39, fn, false, false, false, false⟩
def vScalar (fn : Nat) : VecShape := ⟨0x39, fn, true, false, true, false⟩
def vConv (fn : Nat) : VecShape := ⟨0x39, fn, false, false, true, true⟩
def vSumm (fn : Nat) (rm : Bool) : VecShape := ⟨0x3A, fn, false, true, rm, false⟩
def vMemr (fn : Nat) : VecShape := ⟨0x3B, fn, true, false, false, false⟩
def vRead (fn : Nat) : VecShape := ⟨0x3B, fn, false, true, false, false⟩

/-- R187 VADD. -/
def execVadd (o : VecOp) (s : State) : Out := vecIssue o (vArith 0x00) s
/-- R187 VSUB. -/
def execVsub (o : VecOp) (s : State) : Out := vecIssue o (vArith 0x01) s
/-- R187 VMUL. -/
def execVmul (o : VecOp) (s : State) : Out := vecIssue o (vArith 0x02) s
/-- R187 VFMA. -/
def execVfma (o : VecOp) (s : State) : Out := vecIssue o (vArith 0x03) s
/-- R187 VFNMA. -/
def execVfnma (o : VecOp) (s : State) : Out := vecIssue o (vArith 0x04) s
/-- R187 VDIV. -/
def execVdiv (o : VecOp) (s : State) : Out := vecIssue o (vArith 0x05) s
/-- R187 VSQRT. -/
def execVsqrt (o : VecOp) (s : State) : Out := vecIssue o (vArith 0x06) s
/-- R187 VMIN. -/
def execVmin (o : VecOp) (s : State) : Out := vecIssue o (vExact 0x07) s
/-- R187 VMAX. -/
def execVmax (o : VecOp) (s : State) : Out := vecIssue o (vExact 0x08) s
/-- R187 VABS. -/
def execVabs (o : VecOp) (s : State) : Out := vecIssue o (vExact 0x09) s
/-- R187 VNEG. -/
def execVneg (o : VecOp) (s : State) : Out := vecIssue o (vExact 0x0A) s
/-- R187 VRCP. -/
def execVrcp (o : VecOp) (s : State) : Out := vecIssue o (vArith 0x0B) s
/-- R187 VADDS. -/
def execVadds (o : VecOp) (s : State) : Out := vecIssue o (vScalar 0x0C) s
/-- R187 VMULS. -/
def execVmuls (o : VecOp) (s : State) : Out := vecIssue o (vScalar 0x0D) s
/-- R187 VFMAS. -/
def execVfmas (o : VecOp) (s : State) : Out := vecIssue o (vScalar 0x0E) s
/-- R187 VMOV. -/
def execVmov (o : VecOp) (s : State) : Out := vecIssue o (vExact 0x0F) s
/-- R187 VBCAST. -/
def execVbcast (o : VecOp) (s : State) : Out := vecIssue o { vScalar 0x10 with rm := false } s
/-- R187 VAND. -/
def execVand (o : VecOp) (s : State) : Out := vecIssue o (vArith 0x11) s
/-- R187 VOR. -/
def execVor (o : VecOp) (s : State) : Out := vecIssue o (vArith 0x12) s
/-- R187 VXOR. -/
def execVxor (o : VecOp) (s : State) : Out := vecIssue o (vArith 0x13) s
/-- R187 VSLL. -/
def execVsll (o : VecOp) (s : State) : Out := vecIssue o (vArith 0x14) s
/-- R187 VSRL. -/
def execVsrl (o : VecOp) (s : State) : Out := vecIssue o (vArith 0x15) s
/-- R187 VSRA. -/
def execVsra (o : VecOp) (s : State) : Out := vecIssue o (vArith 0x16) s
/-- R187 VSEL. -/
def execVsel (o : VecOp) (s : State) : Out := vecIssue o (vArith 0x17) s
/-- R187 VIOTA. -/
def execViota (o : VecOp) (s : State) : Out := vecIssue o (vExact 0x18) s
/-- R188 VCEQ. -/
def execVceq (o : VecOp) (s : State) : Out := vecIssue o (vExact 0x40) s
/-- R188 VCNE. -/
def execVcne (o : VecOp) (s : State) : Out := vecIssue o (vExact 0x41) s
/-- R188 VCLT. -/
def execVclt (o : VecOp) (s : State) : Out := vecIssue o (vExact 0x42) s
/-- R188 VCLE. -/
def execVcle (o : VecOp) (s : State) : Out := vecIssue o (vExact 0x43) s
/-- R188 VCLTU. -/
def execVcltu (o : VecOp) (s : State) : Out := vecIssue o (vExact 0x44) s
/-- R188 VCLEU. -/
def execVcleu (o : VecOp) (s : State) : Out := vecIssue o (vExact 0x45) s
/-- R188 VCNAN. -/
def execVcnan (o : VecOp) (s : State) : Out := vecIssue o (vExact 0x46) s
/-- R188 VMAND. -/
def execVmand (o : VecOp) (s : State) : Out := vecIssue o (vExact 0x48) s
/-- R188 VMOR. -/
def execVmor (o : VecOp) (s : State) : Out := vecIssue o (vExact 0x49) s
/-- R188 VMXOR. -/
def execVmxor (o : VecOp) (s : State) : Out := vecIssue o (vExact 0x4A) s
/-- R188 VMNOT. -/
def execVmnot (o : VecOp) (s : State) : Out := vecIssue o (vExact 0x4B) s
/-- R189 VCVT. -/
def execVcvt (o : VecOp) (s : State) : Out := vecIssue o (vConv 0x60) s
/-- R190 VCVT.BEXP. -/
def execVcvtBexp (o : VecOp) (s : State) : Out := vecIssue o (vConv 0x61) s
/-- R192 VPMERGE. -/
def execVpmerge (o : VecOp) (s : State) : Out := vecIssue o (vExact 0x70) s
/-- R193 ANY. -/
def execVAny (o : VecOp) (s : State) : Out := vecIssue o (vSumm 0 false) s
/-- R193 ALL. -/
def execVAll (o : VecOp) (s : State) : Out := vecIssue o (vSumm 1 false) s
/-- R193 COUNT. -/
def execVCount (o : VecOp) (s : State) : Out := vecIssue o (vSumm 2 false) s
/-- R193 FIRST. -/
def execVFirst (o : VecOp) (s : State) : Out := vecIssue o (vSumm 3 false) s
/-- R193 MIN. -/
def execVsumMin (o : VecOp) (s : State) : Out := vecIssue o (vSumm 4 false) s
/-- R193 MAX. -/
def execVsumMax (o : VecOp) (s : State) : Out := vecIssue o (vSumm 5 false) s
/-- R194 SUM. -/
def execVSum (o : VecOp) (s : State) : Out := vecIssue o (vSumm 6 true) s
/-- R194 NORM. -/
def execVNorm (o : VecOp) (s : State) : Out := vecIssue o (vSumm 7 true) s
/-- R195 VGATHER on channel `ch`. -/
def execVgather (o : VecOp) (ch : Fin 2) (s : State) : Out := vecIssue o (vMemr (2 * ch.val)) s
/-- R195 VSCATTER on channel `ch`. -/
def execVscatter (o : VecOp) (ch : Fin 2) (s : State) : Out := vecIssue o (vMemr (2 * ch.val + 1)) s
/-- R182 VW.WR0. -/
def execVwWr0 (o : VecOp) (s : State) : Out := vecIssue o (vMemr 0x10) s
/-- R182 VW.WR1. -/
def execVwWr1 (o : VecOp) (s : State) : Out := vecIssue o (vMemr 0x11) s
/-- R182 VW.RD0. -/
def execVwRd0 (o : VecOp) (s : State) : Out := vecIssue o (vRead 0x12) s
/-- R182 VW.RD1. -/
def execVwRd1 (o : VecOp) (s : State) : Out := vecIssue o (vRead 0x13) s
/-- R182 VL.SET. -/
def execVlSet (o : VecOp) (s : State) : Out := vecIssue o (vMemr 0x14) s
/-- R182 VL.GET. -/
def execVlGet (o : VecOp) (s : State) : Out := vecIssue o (vRead 0x15) s

namespace State

def updVe (s : State) (k : Nat) (f : VecEng → VecEng) : State := s.updCore k (fun c => { c with ve := f c.ve })

end State

/-- Byte ranges of a window's span (R177): its elements, and the block exponents of a block format. -/
def Win.spans (w : Win) (n : Nat) : List (Int × Int) :=
  if n = 0 then []
  else
    let e : Int × Int :=
      if w.bits < 8 then (w.base, w.base + ((n * w.bits + 7) / 8 : Nat))
      else
        let last := w.addr (n - 1)
        (if last < w.base then (last, (w.base : Int) + w.size) else ((w.base : Int), last + w.size))
    if !w.mask && isBlock w.fmt then [e, (w.sbase, w.sbase + (ceilDiv n (blockSize w.fmt) : Nat))] else [e]

/-- R178: whether a window is invalid for an instruction; `ringOk` whether the ring that it may name is valid, `dest` for its
destination (log 114). -/
def Win.invalid (w : Win) (ringOk : Bool) (dest : Bool) : Bool :=
  !w.valid || decide (65536 < w.len) ||
  (if w.mask then w.fmt != 0 || w.stride != 0 || w.ringed
   else
    !fmtOk w.fmt || (!w.ringed && w.base % w.size != 0) || ((w.bits < 8 || isBlock w.fmt) && w.stride != 1) ||
    (w.ringed && (isBlock w.fmt || decide (w.bits < 8) || !ringOk)) ||
    (dest && !w.ringed && w.stride == 0)) ||
  (!w.ringed && (w.spans w.len).any (fun r => decide (r.1 < 0) || decide ((2 ^ 21 : Nat) < r.2)))

/-- Byte ranges that R185 compares: a ring-bound window's are the slots of its ring (R203). -/
def Win.regions (w : Win) (sp : Scratch) : List (Int × Int) :=
  if w.ringed then (ringSlots sp w.ring).map (fun q => (((64 * q : Nat) : Int), ((64 * q + 64 : Nat) : Int))) else w.spans w.len

def rangesMeet (xs ys : List (Int × Int)) : Bool := xs.any (fun x => ys.any (fun y => decide (x.1 < y.2) && decide (y.1 < x.2)))

/-- R185: the windows are one. -/
def Win.same (x y : Win) : Bool :=
  x.ringed == y.ringed && x.base == y.base && x.stride == y.stride && x.fmt == y.fmt && (!x.ringed || x.ring == y.ring)

/-- The first byte of a window's span that lies in a group not of class V (R203). -/
def Win.badClass (w : Win) (m : W32) : Option Nat :=
  if w.ringed then none
  else (w.spans w.len).findSome? (fun r =>
    let lo := r.1.toNat
    let hi := r.2.toNat
    ((List.range (spGroup (hi - 1) - spGroup lo + 1)).map (· + spGroup lo)).findSome? (fun g =>
      if mapClass m g ≠ clsV then some (max lo (g * 2 ^ 18)) else none))

/-- What the checks at the queue head find: cause, core code, window, and for causes 0x5 and 0x6 what SP_FAULT records. -/
structure VeBad where
  cause : Nat
  code : Nat
  win : Nat
  sp : Option (Nat × Nat × Nat × Nat)

/-- The checks of R203 in their order; the windows in the order VD, VA, VB, VM (log 117). -/
def veCheck (sp : Scratch) (v : VeInstr) : Option VeBad :=
  let roles := (v.roles.map Prod.fst).filter (· != 3)
  let w (r : Nat) : Win := v.window v.win r
  let data := roles.filter (fun r => !wantsMask v.op v.fn r)
  let first (p : Nat → Bool) : Option Nat := roles.find? p
  if v.isWindowOp then
    if v.fn = 0x14 ∧ 65536 < v.s.toNat then some ⟨2, 0x0B, 0, none⟩ else none
  else match first (fun r => (w r).invalid (ringValid sp (w r).ring) (r == 0)) with
  | some r =>
    let x := w r
    -- DEDUCED (log 70): SP_FAULT (R225) takes the fault where the ring descriptor alone makes the window invalid.
    some ⟨5, 0x0E, v.winNo r, if x.invalid true (r == 0) then none else some (5, clsV, x.ring, 0)⟩
  | none =>
    let badVm := (v.op == 0x39 && v.fn == 0x17 && !v.maskEn) || (v.op == 0x39 && v.fn == 0x18 && v.maskEn)
    match (first (fun r => (w r).mask != wantsMask v.op v.fn r && !(r == 4 && badVm))).or (if badVm then some 4 else none) with
    | some r => some ⟨8, 0x0B, v.winNo r, none⟩
    | none => match data.find? (fun r => !fmtAccepted v.op v.fn r (w r).fmt) with
      | some r => some ⟨1, 0x0B, v.winNo r, none⟩
      | none => match (if sameFmt v.op v.fn then data.find? (fun r => (w r).fmt != (w (data.headD 0)).fmt) else none) with
        | some r => some ⟨4, 0x0B, v.winNo r, none⟩
        | none => match first (fun r => decide ((w r).len < v.vl) ||
            (!(w r).mask && isBlock (w r).fmt && v.vl % blockSize (w r).fmt != 0)) with
          | some r => some ⟨2, 0x0B, v.winNo r, none⟩
          | none =>
            if roles.contains 0 && roles.any (fun r => r != 0 && !(w 0).same (w r) && rangesMeet ((w 0).regions sp) ((w r).regions sp)) then
              some ⟨3, 0x0B, v.vd, none⟩
            else match first (fun r => ((w r).badClass v.map).isSome) with
              | some r =>
                let a := ((w r).badClass v.map).getD 0
                some ⟨6, 7, v.winNo r, some (1, clsV, 0, a)⟩
              | none =>
                let size := (w (if v.fn % 2 = 0 then 0 else 1)).size
                if v.isGs && v.vl != 0 && v.s.toNat % size != 0 then some ⟨7, 0x0B, if v.fn % 2 = 0 then v.vd else v.va, none⟩
                else none

/-- A vector instruction is rejected or faults (R202, R203). -/
def veReject (s : State) (k : Nat) (v : VeInstr) (b : VeBad) : State :=
  let s := match b.sp with
    | some (cause, cls, ring, a) => spFault s k cause cls (spGroup a) ring a
    | none => s
  veFault s k b.cause b.win v.fn v.op 0 b.code v.pc 0

/-- Outcome of a piece of an element's work: a value; the scratchpad and instruction after it; a wait with the tag wait that
it puts in the list; or a take that R203 refuses. -/
inductive Piece where
  | val (x : Nat) (sp : Scratch) (v : VeInstr)
  | stop (w : Option TagWait)
  | bad (b : VeBad)

/-- A PASS that names ring `r` in ring mode and has not started its front (R220). -/
def passWantsRing (c : Core) (r : Nat) : Bool := c.mx.queue.any (fun q => !q.drain && !q.fronted && !mtImage q.desc && mtRing q.desc == r)

def VeInstr.tookOf (v : VeInstr) (role : Nat) : Nat := tget 0 v.taken role

/-- Take the next slot of a ring-bound window (R179, R219); a take that is granted is checked for its class (R203). -/
def veTake (c : Core) (sp : Scratch) (v : VeInstr) (role : Nat) : Piece :=
  let w := v.window v.win role
  let producer := role == 0
  let slot := nextTake sp w.ring producer
  if (ringSlots sp w.ring).any (fun q => inTransit sp v.map (slotGroup q)) then .stop none
  else if isFull sp slot == producer || slotTaken sp slot || takeBehind sp w.ring producer v.who ||
      (!producer && passWantsRing c w.ring) then .stop (some ⟨slot, !producer, v.who, some (w.ring, producer)⟩)
  else if mapClass v.map (slotGroup slot) ≠ clsV then .bad ⟨6, 7, v.winNo role, some (1, clsV, 0, 64 * slot)⟩
  else
    let sp := sp.take w.ring producer
    let sp := { sp with waits := sp.waits.filter (fun x => !(x.who == v.who && x.ring == some (w.ring, producer))) }
    let n := v.tookOf role
    .val 0 sp { v with taken := tput v.taken role (n + 1), slots := v.slots ++ [(65536 * role + n, slot)] }

/-- The slot of element `i` of a ring-bound window, taken where it has not been. -/
def veSlot (c : Core) (sp : Scratch) (v : VeInstr) (role i : Nat) : Piece :=
  let w := v.window v.win role
  let n := i * w.size / 64
  let find (v : VeInstr) : Nat := ((v.slots.find? (fun e => e.1 == 65536 * role + n)).map Prod.snd).getD 0
  if n < v.tookOf role then .val (find v) sp v
  else match veTake c sp v role with
    | .val _ sp v => .val (find v) sp v
    | x => x

/-- Leave a ring slot after its last element: it is finished and will be returned (R179). -/
def veLeave (sp : Scratch) (v : VeInstr) (role i slot : Nat) : Scratch × VeInstr :=
  let w := v.window v.win role
  if (i + 1) * w.size % 64 = 0 ∨ i + 1 = v.vl then
    (sp.finish slot, { v with slots := v.slots.filter (fun e => e.1 != 65536 * role + i * w.size / 64) })
  else (sp, v)

/-- Whether a plain access of the engine has to wait (R210, R255, R214): the tag wait, where it is one. An element is one access: every
byte that it reads is tested against the tags as they are in `s`, before the element changes any. -/
def vePlainWait (s : State) (k : Nat) (v : VeInstr) (a n : Nat) (read : Bool) : Option (Option TagWait) :=
  let sp := (s.core k).sp
  if transitBlock sp v.map a n then some none
  else if heldSp s k v.ord true v.map a n (!read) then some none
  else match plainBlock sp v.map read a n with
    | some slot => some (some ⟨slot, read, v.who, none⟩)
    | none => none

/-- Keys of `seen`: byte `n` that elements of a role share, and the exponent of block `n` that VCVT.BEXP has read. -/
def byteKey (role n : Nat) : Nat := 2 ^ 20 * role + n
def bexpKey (n : Nat) : Nat := byteKey 5 n

/-- Read byte `n` of a window whose elements share bytes, once (R214); `first`: its access is made in the place of this element. -/
def veByte (s : State) (k : Nat) (sp : Scratch) (v : VeInstr) (role n : Nat) (first : Bool) : Piece :=
  let a := (v.window v.win role).base + n
  match tfind v.seen (byteKey role n) with
  | some x => .val x sp v
  | none =>
    match (if first then vePlainWait s k v a 1 true else none) with
    | some t => .stop t
    | none =>
      let x := spRead sp a 1
      .val x (if first then plainTags sp v.map true a 1 else sp) { v with seen := tput v.seen (byteKey role n) x }

/-- Read element `i` in a role; `first`: it is the lowest of the elements that share its byte (R214; log 116). -/
def veRead (s : State) (k : Nat) (sp : Scratch) (v : VeInstr) (role i : Nat) (active first : Bool) : Piece :=
  let w := v.window v.win role
  if w.ringed then
    match veSlot (s.core k) sp v role i with
    | .val slot sp v =>
      let x := spRead sp (64 * slot + i * w.size % 64) w.size
      let (sp, v) := veLeave sp v role i slot
      .val x sp v
    | p => p
  else if !active then .val 0 sp v
  else if w.bits < 8 then
    match veByte s k sp v role (i / w.perByte) first with
    | .val x sp v => .val (x / 2 ^ (w.bits * (i % w.perByte)) % 2 ^ w.bits) sp v
    | p => p
  else
    let a := (w.addr i).toNat
    match vePlainWait s k v a w.size true with
    | some t => .stop t
    | none => .val (spRead sp a w.size) (plainTags sp v.map true a w.size) v

/-- Read a list of roles at one element, all or none; two operands that name one window are one read. -/
def veReads (s : State) (k : Nat) (i : Nat) (active : Bool) (firstOf : Nat → Bool) :
    List Nat → Scratch → VeInstr → Tbl Nat → Piece × Tbl Nat
  | [], sp, v, acc => (.val 0 sp v, acc)
  | r :: rs, sp, v, acc =>
    match tfind acc (v.srcRole r) with
    | some x => veReads s k i active firstOf rs sp v (tput acc r x)
    | none => match veRead s k sp v r i active (firstOf r) with
      | .val x sp v => veReads s k i active firstOf rs sp v (tput acc r x)
      | p => (p, acc)

/-- Read the bytes of VM that hold the bits of `n` elements from `i`, in order, each once. -/
def veMask (s : State) (k : Nat) : Nat → Nat → Scratch → VeInstr → Piece
  | 0, _, sp, v => .val 0 sp v
  | n + 1, i, sp, v =>
    match veByte s k sp v 4 (i / 8) (i % 8 == 0) with
    | .val _ sp v => veMask s k n (i + 1) sp v
    | p => p

/-- Bit of VM of an element, from the byte that has been read. -/
def maskBit (v : VeInstr) (i : Nat) : Bool := tget 0 v.seen (byteKey 4 (i / 8)) / 2 ^ (i % 8) % 2 == 1

/-- R181: VSEL and VIOTA act on every element. -/
def VeInstr.isActive (v : VeInstr) (i : Nat) : Bool := !v.maskEn || (v.op == 0x39 && v.fn == 0x17) || maskBit v i

/-- Elements that a conversion into a block format takes together (R191), otherwise 1. -/
def VeInstr.blockOf (v : VeInstr) : Nat :=
  let w := v.window v.win 0
  if v.names.vd && !w.mask && isBlock w.fmt && v.op == 0x39 then blockSize w.fmt else 1

/-- Blocks of a block-format destination (R191): an element takes part when any element of its block is active. -/
def VeInstr.takesPart (v : VeInstr) (i : Nat) : Bool :=
  let b := v.blockOf
  (List.range b).any (fun j => v.isActive (i / b * b + j))

/-- How far reads may run ahead of writes, in elements (log 12). -/
def readAhead : Nat := 640

/-- Keys of `lanes` above which block exponents on their way to the destination stand, and above which those of source blocks stand
until a destination block that they belong to is converted. -/
def expKey : Nat := 2 ^ 20
def srcExpKey : Nat := 2 ^ 21

/-- Convert the block that has just been read whole (R189–R191). -/
def veBlockDone (s : State) (k : Nat) (v : VeInstr) (last : Nat) : State × VeInstr :=
  let d := v.window v.win 0
  let b := blockSize d.fmt
  let base := last / b * b
  let src := (v.window v.win 1).fmt
  let per := blockSize src
  let expOf (i : Nat) : Nat := (tget 0 v.lanes (srcExpKey + i / per)).toNat
  let gone := (List.range ((base + b) / per - base / per)).map (fun n => srcExpKey + base / per + n)
  match tfind v.lanes base with
  | none => (s, { v with lanes := gone.foldl (fun t n => tdel t n) v.lanes })
  | some _ =>
    let xs := (List.range b).map (fun j => ((tget 0 v.lanes (base + j)).toNat, expOf (base + j), v.isActive (base + j)))
    let given := if v.fn = 0x61 then some (tget 0 v.seen (bexpKey (base / b))) else none
    let (e, bits, fl) := vecBlock src d.fmt v.rm given xs
    let lanes := (List.range b).foldl (fun t j => tput t (base + j) (BitVec.ofNat 128 (bits.getD j 0))) v.lanes
    let lanes := if v.fn = 0x61 then lanes else tput lanes (expKey + base / b) (BitVec.ofNat 128 e)
    (raiseVe s k fl, { v with lanes := gone.foldl (fun t n => tdel t n) lanes })

/-- The exponents that element `i` needs: its source block's, read at the first element of the block, and its destination block's for
VCVT.BEXP, which is read as any other byte is (R190, R214). -/
def veExps (s : State) (k : Nat) (sp : Scratch) (v : VeInstr) (i : Nat) (part : Bool) : Piece :=
  let src := v.window v.win (if v.names.va then 1 else 0)
  let dst := v.window v.win 0
  let go (sp : Scratch) (v : VeInstr) (a : Option Nat) (keep : VeInstr → Nat → VeInstr) : Piece :=
    match a with
    | none => .val 0 sp v
    | some a => match vePlainWait s k v a 1 true with
      | some t => .stop t
      | none => .val 0 (plainTags sp v.map true a 1) (keep v (spRead sp a 1))
  let at_ (w : Win) : Nat := w.sbase + i / blockSize w.fmt
  match go sp v (if !src.mask && isBlock src.fmt && v.names.va && i % blockSize src.fmt == 0 then some (at_ src) else none)
      (fun v e => { v with folded := BitVec.ofNat 64 e }) with
  | .val _ sp v =>
    go sp v (if v.fn = 0x61 ∧ v.op = 0x39 ∧ i % blockSize dst.fmt = 0 ∧ part then some (at_ dst) else none)
      (fun v e => { v with seen := tput v.seen (bexpKey (i / blockSize dst.fmt)) e })
  | p => p

/-- Read the next element of the instruction and compute with it. -/
def veReadOne (s : State) (k : Nat) (v : VeInstr) : Piece × State :=
  let i := v.rd
  let dst := v.window v.win 0
  let src := v.window v.win (if v.names.va then 1 else 0)
  let roles := (v.roles.map Prod.fst).filter (· != 0)
  let block := v.blockOf
  let v := if i % 64 = 0 then { v with seen := [] } else v
  match (if roles.contains 4 then veMask s k (if i % block = 0 then block else 1) i (s.core k).sp v else .val 0 (s.core k).sp v) with
  | .val _ sp v =>
    let part := v.takesPart i
    let firstOf (r : Nat) : Bool := (List.range (i % (v.window v.win r).perByte)).all (fun d => !v.takesPart (i - d - 1))
    match veExps s k sp v i part with
    | .val _ sp v =>
      let (p, xs) := veReads s k i part firstOf (roles.filter (· != 4)) sp v []
      match p with
      | .val _ sp v =>
        let s1 := s.updSp k (fun _ => sp)
        let v := { v with rd := i + 1 }
        let a := tget 0 xs 1
        let b := tget 0 xs 2
        let d := tget 0 xs 3
        if v.isSummary then
          if !part then (.val 0 sp { v with idx := i + 1 }, s1)
          else
            let (lanes, fl) := sumFold v.fn src.fmt v.lanes i a
            (.val 0 sp { v with lanes := lanes, idx := i + 1 }, raiseVe s1 k fl)
        else if !dst.mask && isBlock dst.fmt && (v.fn == 0x60 || v.fn == 0x61) then
          let newExp := !src.mask && isBlock src.fmt && v.names.va && i % blockSize src.fmt == 0
          let v := if newExp then { v with lanes := tput v.lanes (srcExpKey + i / blockSize src.fmt) (v.folded.setWidth 128) } else v
          let v := if part then { v with lanes := tput v.lanes i (BitVec.ofNat 128 a) } else v
          if (i + 1) % blockSize dst.fmt = 0 then
            let (s2, v) := veBlockDone s1 k v i
            (.val 0 (s2.core k).sp v, s2)
          else (.val 0 sp v, s1)
        else if !part then (.val 0 sp v, s1)
        else
          let (r, fl) := vecElem v.fn src.fmt (if dst.mask then src.fmt else dst.fmt) v.rm v.sat d a b v.s (maskBit v i)
            (v.folded.toNat % 256) i
          (.val 0 sp { v with lanes := tput v.lanes i (BitVec.ofNat 128 r) }, raiseVe s1 k fl)
      | q => (q, s)
    | q => (q, s)
  | q => (q, s)

/-- Write the next unit of the destination: one element, or the elements that share one byte (R214). -/
def veWriteOne (s : State) (k : Nat) (v : VeInstr) : Piece :=
  let c := s.core k
  let sp := c.sp
  let w := v.window v.win 0
  let i := v.idx
  let per := w.perByte
  let u1 := min ((i / per + 1) * per) v.vl
  let unit := (List.range (u1 - i)).map (· + i)
  let vals := unit.filterMap (fun j => (tfind v.lanes j).map (fun x => (j, x.toNat)))
  let fin (v : VeInstr) : VeInstr := { v with idx := u1, lanes := unit.foldl (fun t j => tdel t j) v.lanes }
  if w.ringed then
    match veSlot c sp v 0 i with
    | .val slot sp v =>
      let sp := match vals with
        | (_, x) :: _ => sp.write (64 * slot + i * w.size % 64) w.size x
        | [] => sp
      let (sp, v) := veLeave sp v 0 i slot
      .val 0 sp (fin v)
    | p => p
  else if vals.isEmpty then .val 0 sp (fin v)
  else
    let a := (w.addr i).toNat
    let blk := i / blockSize w.fmt
    let ex := if w.mask then none else tfind v.lanes (expKey + blk)
    let exWait := ex.bind (fun _ => vePlainWait s k v (w.sbase + blk) 1 false)
    match exWait, vePlainWait s k v a w.size false with
    | some t, _ => .stop t
    | none, some t => .stop t
    | none, none =>
      let sp := match ex with
        | some e => plainTags (sp.write (w.sbase + blk) 1 e.toNat) v.map false (w.sbase + blk) 1
        | none => sp
      let sp :=
        if w.bits < 8 then
          sp.write a 1 ((vals.foldl (fun (x : BitVec 8) e =>
            setFld x (w.bits * (e.1 % per) + w.bits - 1) (w.bits * (e.1 % per)) e.2) (BitVec.ofNat 8 (spRead sp a 1))).toNat)
        else match vals with
          | (_, x) :: _ => sp.write a w.size x
          | [] => sp
      .val 0 (plainTags sp v.map false a w.size) { fin v with lanes := tdel (fin v).lanes (expKey + blk) }

/-- Whether the next unit has been read, and for a block-format destination its block converted. -/
def veWritable (v : VeInstr) : Bool :=
  let w := v.window v.win 0
  let unit := if !w.mask && isBlock w.fmt then blockSize w.fmt else w.perByte
  v.names.vd && decide (v.idx < v.vl) && decide (min ((v.idx / unit + 1) * unit) v.vl ≤ v.rd)

def veReadable (v : VeInstr) : Bool :=
  decide (v.rd < v.vl) && (v.isSummary || decide (v.rd < v.idx + readAhead))

/-- Elements per reading cycle, as a fraction (R186). -/
def VeInstr.rate (v : VeInstr) : Nat × Nat :=
  let src := v.window v.win (if v.names.va then 1 else 0)
  let dst := v.window v.win 0
  if src.mask then (4096, 1)
  else if v.isSummary then (64, 1)
  else
    let two := if src.bits = 64 then 64 else 128
    match v.fn with
    | 0x03 => (2 * two, 3)
    | 0x04 => (2 * two, 3)
    | 0x05 => (two / 4, 1)
    | 0x06 => (two / 4, 1)
    | 0x0B => (two / 4, 1)
    | 0x60 => (min 128 (4096 / max 1 (max src.bits dst.bits)), 1)
    | 0x61 => (min 128 (4096 / max 1 (max src.bits dst.bits)), 1)
    | 0x70 => (if src.bits = 64 then 64 else 32, 1)
    | _ => (two, 1)

/-- Whether reading the next element begins a new cycle in which the engine reads a stream (R516; log 14). -/
def VeInstr.newCycle (v : VeInstr) : Bool :=
  let (n, d) := v.rate
  (v.roles.any (fun r => r.1 != 0)) && (v.rd == 0 || v.rd * d / max 1 n != (v.rd - 1) * d / max 1 n)

/-- Whether the governor's budget admits the next read (R516). -/
def veAdmits (s : State) (k : Nat) (v : VeInstr) : Bool := !v.newCycle || decide (0 < (s.budget k).ve)

/-- The budget after the next read. -/
def veCharge (s : State) (k : Nat) (v : VeInstr) : State :=
  if v.newCycle then s.setBudget k { s.budget k with ve := (s.budget k).ve - 1 } else s

/-- Put the instruction back where it stands. -/
def putVe (s : State) (k : Nat) (v : VeInstr) : State :=
  s.updVe k (fun e => { e with queue := match e.queue with | [] => [] | _ :: r => v :: r })

/-- One waiter more, where a piece of work ends in a wait (R216). -/
def waitsOn (s : State) (k : Nat) (w : Option TagWait) : State :=
  match w with
  | some w => s.updSp k (fun sp => addWait sp w)
  | none => s

/-- The engine waits, for its write, for its read, or for both. -/
def veStop (s : State) (k : Nat) (v : VeInstr) (write read : Option TagWait) : State :=
  waitsOn (waitsOn (putVe s k v) k write) k read

/-- Run the head instruction as far as it can go: writes of what has been read, then the next read. -/
def vePump (k : Nat) : Nat → State → VeInstr → State
  | 0, s, v => putVe s k v
  | n + 1, s, v =>
    let w := if veWritable v then some (veWriteOne s k v) else none
    match w with
    | some (.val _ sp v) => vePump k n (s.updSp k (fun _ => sp)) v
    | some (.bad b) => veReject s k v b
    | x =>
      let t : Option TagWait := (match x with | some (.stop t) => t | _ => none)
      if veReadable v && !veAdmits s k v then veStop s k v t none
      else if veReadable v then
        match veReadOne (veCharge s k v) k v with
        | (.val _ _ v, s) => vePump k n s v
        | (.bad b, _) => veReject s k v b
        | (.stop t2, _) => veStop s k v t t2
      else if x.isSome then veStop s k v t none
      else putVe s k v

/-- The waits of the instruction end before it goes on; one for a ring take keeps the place of its first request (R219). -/
def veUnwait (s : State) (k : Nat) (who : TagWho) : State :=
  s.updSp k (fun sp => { sp with waits := sp.waits.filter (fun w => w.who != who || w.ring.isSome) })

/-- Run the head instruction; a wait that it was in and still is in keeps its place (R216). -/
def veRun (s : State) (k : Nat) (v : VeInstr) : State :=
  orderWaits (vePump k (2 * v.vl + 2) (veUnwait s k .vector) v) k (s.core k).sp.waits

/-- The results of the elements that an instruction has read are written, as far as nothing blocks them (R204). -/
def veFlush (k : Nat) : Nat → State → VeInstr → State × VeInstr
  | 0, s, v => (s, v)
  | n + 1, s, v =>
    if !veWritable v then (s, v)
    else match veWriteOne s k v with
      | .val _ sp v => veFlush k n (s.updSp k (fun _ => sp)) v
      | _ => (s, v)

/-- A window function acts at the head (R182). -/
def veWindowOp (s : State) (k : Nat) (v : VeInstr) : State :=
  let e := (s.core k).ve
  let give (s : State) (x : W64) : State :=
    wakeCore (s.updCore k (fun c => { c.setSreg v.sd x with sPend := c.sPend.erase v.sd })) k
  let s := match v.fn with
    | 0x12 => give s (tget 0 e.win (2 * v.va))
    | 0x13 => give s (tget 0 e.win (2 * v.va + 1))
    | 0x15 => give s (BitVec.ofNat 64 e.vl)
    | _ =>
      let x := afterVe (e.win, e.vl) v
      s.updVe k (fun e => { e with win := x.1, vl := x.2 })
  putVe s k { v with done := true }

/-- Make the access of element `v.rd` of a channel, whose index is `raw` (R195, R197): on the left it has been issued. -/
def chanAccess (s : State) (k ch : Nat) (v : VeInstr) (raw data : Nat) : State ⊕ State :=
  let size := (v.gsData v.win).size
  let va := gsAddr v v.win raw
  let n := ctxOf s k
  let store := v.fn % 2 == 1
  if heldBy s k v.ord true true va.toNat size store then .inr (holdFences s k v.ord va.toNat size)
  else match lookup s k n (vpnOf va) with
    | (none, s) =>
      -- R198: a walk may park the channel here, so every lower element is performed before it (log 106).
      .inr (if v.idx < v.rd then s else startWalk s (clusterOf k) n (vpnOf va) (.face k (.chan ch)) (if store then 2 else 4) va)
    | (some e, s) =>
      let pa := e.pa va
      match denied s k n .chan (if store then .write else .read) e.leaf pa size with
      | some (code, cause) => .inr (veFault (setPcause s k cause) k 9 v.gsWin v.fn v.op v.rd code v.pc va)
      | none =>
        let (id, s) := s.newId
        let a : Access := {
          req := .chan ch, pc := v.pc, op := if store then .store else .load false, size := size, va := va, pa := pa,
          wp := eWp e.leaf, rem := eRem e.leaf, dst := 0, data := BitVec.ofNat 128 data, cmp := 0, acq := false, via := .cache,
          id := id, issue := v.issue, entry := 0, elem := v.rd }
        if eRem e.leaf && dirtyRem s k (a.key s) then .inr (flushLine s k (a.key s))
        else
          let s := if store && eRem e.leaf then discardRem s k (a.key s) else s
          match issueAccess s k n a with
          | .inl t => .inl (leaveEntry t k (.req (.chan ch)))
          | .inr .entry => .inr (waitEntry s k (.req (.chan ch)))
          | .inr _ => .inr (leaveEntry s k (.req (.chan ch)))

def putChan (s : State) (k ch : Nat) (v : VeInstr) : State := s.updVe k (fun e => { e with chans := tput e.chans ch v })

/-- How one piece of a channel's work ends: done, blocked with the wait that it puts in the list, or at a fault of R203. -/
inductive ChanDid where
  | on (s : State)
  | stop (s : State) (w : Option TagWait)
  | bad (b : VeBad)

/-- Finish element `v.idx` of a channel, which has been issued: its answer is written, or its store has been performed (R196). -/
def chanFinish (s : State) (k ch : Nat) (v : VeInstr) : ChanDid :=
  let act := v.isActive v.idx
  match tfind v.got v.idx with
  | none =>
    if act || v.fn % 2 = 1 then (if act then .stop s none else .on (putChan s k ch { v with idx := v.idx + 1 }))
    else match veWriteOne s k v with
      | .val _ sp v => .on (putChan (s.updSp k (fun _ => sp)) k ch v)
      | .stop w => .stop s w
      | .bad b => .bad b
  | some x =>
    let rest := { v with got := tdel v.got v.idx }
    if v.fn % 2 = 1 then .on (putChan s k ch { rest with idx := v.idx + 1 })
    else match veWriteOne s k { rest with lanes := tput v.lanes v.idx x } with
      | .val _ sp v => .on (putChan (s.updSp k (fun _ => sp)) k ch v)
      | .stop w => .stop s w
      | .bad b => .bad b

/-- Issue element `v.rd` of a channel: its operands are read, all or none, and an active one makes its access (R195, R198). -/
def chanIssue (s : State) (k ch : Nat) (v0 : VeInstr) : ChanDid :=
  let i := v0.rd
  let v := if i % 64 = 0 then { v0 with seen := [] } else v0
  let roles := (v.roles.map Prod.fst).filter (fun r => r != 0 && r != 4)
  match (if v.maskEn then veMask s k 1 i (s.core k).sp v else .val 0 (s.core k).sp v) with
  | .val _ sp v =>
    let act := v.isActive i
    let (p, xs) := veReads s k i act (fun _ => true) roles sp v []
    match p with
    | .val _ sp v =>
      let s1 := putChan (s.updSp k (fun _ => sp)) k ch { v with rd := i + 1 }
      if !act then .on s1
      else match chanAccess s1 k ch v (tget 0 xs 2) (tget 0 xs 1) with
        | .inl t => .on t
        | .inr t =>
          let back (e : VecEng) : VecEng := if e.chans.isEmpty then e else { e with chans := tput e.chans ch v0 }
          .stop ((t.updSp k (fun _ => (s.core k).sp)).updVe k back) none
    | .stop w => .stop s w
    | .bad b => .bad b
  | .stop w => .stop s w
  | .bad b => .bad b

/-- Active elements among 32 consecutive indices go out together (R197). -/
def VeInstr.mayGo (v : VeInstr) : Bool := decide (v.rd < v.vl) && decide (v.rd < (v.idx / 32 + 1) * 32)

/-- The 32 elements that a channel takes together are read in one cycle, which costs 1 of the vector budget (R516; log 14). -/
def chanAdmits (s : State) (k : Nat) (v : VeInstr) : Bool := v.rd % 32 != 0 || decide (0 < (s.budget k).ve)

def chanCharge (s : State) (k : Nat) (v : VeInstr) : State :=
  if v.rd % 32 = 0 then s.setBudget k { s.budget k with ve := (s.budget k).ve - 1 } else s

/-- Run a channel as far as it can go; `go`: it may also issue (R204). -/
def chanPump (k ch : Nat) (go : Bool) : Nat → State → State
  | 0, s => s
  | n + 1, s =>
    match tfind (s.core k).ve.chans ch with
    | none => s
    | some v =>
      match (if v.idx < v.rd then chanFinish s k ch v else .stop s none) with
      | .on s => chanPump k ch go n s
      | .bad b => veReject s k v b
      | .stop s w =>
        if !go || !v.mayGo || (tfind (s.core k).ve.parked ch).isSome || !chanAdmits s k v then waitsOn s k w
        else match chanIssue s k ch v with
          | .on s => chanPump k ch go n (chanCharge s k v)
          | .bad b => veReject s k v b
          | .stop s x => waitsOn (waitsOn s k w) k x

/-- A channel goes on. Its accesses of one turn are one issue, whose elements in one line share an access (R197). -/
def chanRun (s : State) (k ch : Nat) : State :=
  let old := (s.core k).sp.waits
  let (id, s) := (veUnwait s k (.chan ch)).newId
  match tfind (s.core k).ve.chans ch with
  | none => s
  | some v => orderWaits (chanPump k ch true (2 * v.vl + 2) (putChan s k ch { v with issue := id })) k old

/-- R203, R182, R196: the head of the queue is checked and begins, or goes on where it waited. -/
def execVectorQueueHead (k : Fin 256) (s : State) : Out :=
  if !coreRuns s k.val then .next s
  else match (s.core k.val).ve.queue with
    | [] => .next s
    | v :: rest =>
      let e := (s.core k.val).ve
      if v.done then .next s
      else
        let v := if v.started then v else { v with win := e.win, vl := e.vl }
        match (if v.started then none else veCheck (s.core k.val).sp v) with
        | some b => .next (veReject s k.val v b)
        | none =>
          if v.isWindowOp then .next (veWindowOp s k.val { v with started := true })
          else if v.isGs then
            let ch := v.fn / 2
            if (tfind e.chans ch).isSome then .next s
            else
              .next (chanRun (s.updVe k.val (fun e => { e with queue := rest, chans := tput e.chans ch { v with started := true } })) k.val ch)
          else .next (veRun s k.val { v with started := true })

/-- Whether nothing is left to do but to deliver. -/
def VeInstr.finished (v : VeInstr) : Bool :=
  v.done || (v.started && decide (v.vl ≤ v.rd) && decide (v.vl ≤ v.idx))

/-- R183: an instruction that has written its last element, or its summary, leaves its entry; a channel's elements are served
before (R196). -/
def execVectorComplete (k : Fin 256) (u : VeUnit) (s : State) : Out :=
  if !coreRuns s k.val then .next s
  else match u with
    | .queue =>
      match (s.core k.val).ve.queue with
      | [] => .next s
      | v :: _ =>
        let s := if v.started && !v.done && !v.finished then veRun s k.val v else s
        match (s.core k.val).ve.queue with
        | [] => .next s
        | v :: rest =>
          if !v.finished then .next s
          else
            let s := s.updVe k.val (fun e => { e with queue := rest })
            let s := (if v.isWindowOp then s else s.bumpCore k.val 9 0xFFFF v.vl).working k.val
            if v.isSummary then
              let (x, fl) := sumResult v.fn (v.window v.win 1).fmt v.rm v.lanes
              let s := raiseVe s k.val fl
              .next (wakeCore (s.updCore k.val (fun c => { c.setSreg v.sd x with sPend := c.sPend.erase v.sd })) k.val)
            else .next (wakeCore s k.val)
    | .chan ch =>
      match tfind (s.core k.val).ve.chans ch.val with
      | none => .next s
      | some _ =>
        let s := chanRun s k.val ch.val
        match tfind (s.core k.val).ve.chans ch.val with
        | none => .next s
        | some v =>
          if v.idx < v.vl then .next s
          else
            let s := s.updVe k.val (fun e => { e with chans := tdel e.chans ch.val })
            .next (wakeCore ((s.working k.val).bumpCore k.val 9 0xFFFF v.vl) k.val)

end Sys2Proof.Machine
end

