-- ==== Sys2Proof/Machine/SpCtl.lean ====
section
/-!
DEFINITION. Scratchpad control (06 R168, 08 R209–R219): the port map and groups in transit, ring descriptors, tags set by software,
and the return of ring slots.
-/
namespace Sys2Proof.Machine

/-- Whether the bytes of a run lie partly in group `g`. -/
def Run.inGroup (r : Run) (g : Nat) : Bool :=
  !r.mem && r.size != 0 && (List.range r.count).any (fun i =>
    let lo := (r.base + i * r.step).toNat
    decide (spGroup lo ≤ g) && decide (g ≤ spGroup (lo + r.size - 1)))

/-- Slots that a ring-bound window or endpoint takes in all. -/
def slotsFor (bytes : Nat) : Nat := ceilDiv bytes 64

/-- Bytes of a tile (R232). -/
def DmaCmd.tileBytes (q : DmaCmd) : Nat := (q.n0 * q.n1 * q.n2 * q.nibbles + 1) / 2

def DmaCmd.took (q : DmaCmd) (dst : Bool) : Nat := if dst then q.tookDst else q.tookSrc

/-- A DMA command uses a group (R210): by the bytes that a fixed side moves, or by its ring's slots. -/
def DmaCmd.uses (q : DmaCmd) (sp : Scratch) (g : Nat) : Bool :=
  [false, true].any (fun dst =>
    let x := q.side dst
    if x.kind ≠ 1 then false
    else if x.ringed then
      if q.took dst < slotsFor q.tileBytes then (ringSlots sp x.ring).any (fun s => slotGroup s == g)
      else q.slots.any (fun s => s.2.2 == dst && slotGroup s.1 == g)
    else
      (List.range q.n2).any (fun i2 =>
        (⟨false, x.base + i2 * x.s2, x.s1, (q.inner dst * q.nibbles + 1) / 2, q.outer dst, dst⟩ : Run).inGroup g))

/-- A vector instruction uses a group (R210). -/
def VeInstr.uses (v : VeInstr) (t : Tbl W64) (vl : Nat) (sp : Scratch) (g : Nat) : Bool :=
  v.roles.any (fun r =>
    let w := v.window t r.1
    if w.ringed then
      let role := v.srcRole r.1
      if v.tookOf role < slotsFor (vl * w.size) then (ringSlots sp w.ring).any (fun s => slotGroup s == g)
      else v.slots.any (fun s => s.1 / 65536 == role && slotGroup s.2 == g)
    else (w.runs 0 vl true true).any (fun r => r.inGroup g))

/-- Slots of the X source of a pass in ring mode (R220) that passes before it keep `off` positions behind HEAD. -/
def xRingFrom (sp : Scratch) (d : W128) (off : Nat) : List Nat :=
  (List.range (mtM d * xSlots d)).map (fun i => ringSlot sp (mtRing d) ((ringHead sp (mtRing d) + off + i) % ringSize sp (mtRing d)))

/-- Slots of the X source of the next pass of its ring. -/
def xRingSlots (sp : Scratch) (d : W128) : List Nat := xRingFrom sp d 0

/-- Positions of ring `r` that passes of a queue have still to take. -/
def ringAhead (qs : List MxCmd) (r : Nat) : Nat :=
  ((qs.filter (fun q => !q.drain && !q.fronted && !mtImage q.desc && mtRing q.desc == r)).map (fun q => mtM q.desc * xSlots q.desc)).foldl (· + ·) 0

/-- A matrix command uses a group (R210), until it is DONE or has written its last row; `before`: the commands queued before it. -/
def MxCmd.uses (q : MxCmd) (before : List MxCmd) (sp : Scratch) (g : Nat) : Bool :=
  ({ q with fronted := false, state := .queued, row := 0 } : MxCmd).runs.any (fun r => r.inGroup g) ||
  (!q.drain && !mtImage q.desc &&
    (if q.fronted then q.xslots.any (fun s => slotGroup s == g) else (xRingFrom sp q.desc (ringAhead before (mtRing q.desc))).any (fun s => slotGroup s == g)))

/-- Something bound to the old field of group `g` still uses it (R210); a DMA command whose descriptor has not been captured may (log 74). -/
def transitUsed (c : Core) (g old : Nat) : Bool :=
  c.acc.any (fun a => a.op == .desc && mapField (a.cmp.setWidth 32) g == old) ||
  c.mx.queue.zipIdx.any (fun q => mapField q.1.map g == old && q.1.uses (c.mx.queue.take q.2) c.sp g) ||
  c.dma.queue.any (fun q => mapField q.map g == old && q.uses c.sp g) ||
  c.ve.views.any (fun v => mapField v.1.map g == old && v.1.uses (if v.1.started then v.1.win else v.2.1)
    (if v.1.started then v.1.vl else v.2.2) c.sp g) ||
  c.ve.chans.any (fun e => mapField e.2.map g == old && e.2.uses e.2.win e.2.vl c.sp g) ||
  (spBound c.sp).any (fun a => mapField a.map g == old && (spGroup a.addr == g || spGroup (a.addr + a.bytes - 1) == g))

/-- R168: SP instructions run on the control core only. -/
def spLegal (o : RrrOp) (rd rb : Bool) : Bool := isCc o.face && !o.w && (rd || o.rd == 0) && (rb || o.rb == 0)

/-- R210 SP.PMAP: a reserved class faults at once (R212); a group still in transit stalls; the groups whose field changes
enter transit. -/
def execSpPmap (o : RrrOp) (s : State) : Out :=
  let us : List RegUse := [⟨o.ra.toNat, 1, false⟩]
  let val (s : State) : W32 := ((s.core o.core).sreg o.ra.toNat).setWidth 32
  let badGroup (m : W32) : Option Nat := (List.range 8).find? (fun g => decide (4 < mapClass m g))
  let s := match offer s o.core o.face, badGroup (val s) with
    | some g, some b => if spLegal o false false && us.all (regOk o.face) && (blockedLanes s g us).isEmpty then
        spFault s o.core 3 0 b 0 0 else s
    | _, _ => s
  issue s o.core o.face 4 (spLegal o false false) us (fun g s =>
    let m := val s
    if (badGroup m).isSome then .fault 0x0E [0] 0
    else
      let sp := (s.core g.k).sp
      if !sp.transit.isEmpty then .wait .transit
      else
        let moved := (List.range 8).filter (fun g => mapField sp.pmap g != mapField m g)
        .ok (s.updSp g.k (fun sp => { sp with
          pmap := m
          transit := moved.map (fun g => (g, BitVec.ofNat 4 (mapField sp.pmap g))) })))

/-- A command queued before still has to take from ring `r` (R218); a DMA command enters the queue when its descriptor is captured (R253). -/
def ringWanted (c : Core) (r : Nat) : Bool :=
  passWantsRing c r ||
  c.dma.queue.any (fun q => [false, true].any (fun dst =>
    (q.side dst).ringed && (q.side dst).ring == r && decide (q.took dst < slotsFor q.tileBytes))) ||
  (c.ve.views ++ c.ve.chans.map (fun e => (e.2, e.2.win, e.2.vl))).any (fun v =>
    v.1.roles.any (fun x =>
      let w := v.1.window v.2.1 x.1
      w.ringed && w.ring == r && decide (v.1.tookOf (v.1.srcRole x.1) < slotsFor (v.2.2 * w.size))))

/-- Descriptor words that break R218. -/
def ringBad (w0 w1 : W64) : Bool :=
  let size := fld w0 47 32
  let stride := fld w0 31 27
  bit w0 63 && (size == 0 || decide (32768 < size) || stride == 0 || decide (16 < stride) || decide (size ≤ fld w1 30 16) ||
    decide (size ≤ fld w1 14 0) || decide (32767 < fld w0 62 48 + stride * (size - 1)))

/-- R217, R218 SP.RING.WR: the RD field is the ring. -/
def execSpRingWr (o : RrrOp) (s : State) : Out :=
  let us : List RegUse := [⟨o.ra.toNat, 1, false⟩, ⟨o.rb.toNat, 1, false⟩]
  let r := o.rd.toNat
  let w0 (s : State) : W64 := (s.core o.core).sreg o.ra.toNat
  let w1 (s : State) : W64 := (s.core o.core).sreg o.rb.toNat
  let s := match offer s o.core o.face with
    | some g => if spLegal o true true && us.all (regOk o.face) && (blockedLanes s g us).isEmpty && ringBad (w0 s) (w1 s) then
        spFault s o.core 4 0 0 r 0 else s
    | none => s
  issue s o.core o.face 4 (spLegal o true true) us (fun g s =>
    if ringBad (w0 s) (w1 s) then .fault 0x0E [0] 0
    else
      let c := s.core g.k
      if c.sp.taken.any (fun t => t.ring == r) || ringWanted c r then .wait .ring
      else .ok (s.updSp g.k (fun sp => { sp with
        rings := tset 0 (tset 0 sp.rings (2 * r) (w0 s &&& 0xFFFFFFFFF8000000#64)) (2 * r + 1) (w1 s &&& 0x7FFF7FFF#64) })))

/-- R168 SP.RING.RD: the RA field is the ring. -/
def execSpRingRd (o : RrrOp) (word1 : Bool) (s : State) : Out :=
  issue s o.core o.face 4 (spLegal o true false) [⟨o.rd.toNat, 1, true⟩] (fun g s =>
    let sp := (s.core g.k).sp
    .ok (wrReg s g 0 o.rd.toNat true (if word1 then ringW1 sp o.ra.toNat else ringW0 sp o.ra.toNat)))

/-- SP.TAG.FULL and SP.TAG.EMPTY (R215). -/
def spTag (o : RrrOp) (full : Bool) (s : State) : Out :=
  let us : List RegUse := [⟨o.ra.toNat, 1, false⟩]
  let a (s : State) : Nat := ((s.core o.core).sreg o.ra.toNat).toNat % 2 ^ 32
  let s := match offer s o.core o.face with
    | some g => if spLegal o false false && us.all (regOk o.face) && (blockedLanes s g us).isEmpty && decide (2 ^ 21 ≤ a s) then
        spFault s o.core 2 0 (spGroup (a s)) 0 (a s) else s
    | none => s
  issue s o.core o.face 4 (spLegal o false false) us (fun g s =>
    if 2 ^ 21 ≤ a s then .fault 7 [0] 0 else .ok (s.updSp g.k (fun sp => sp.setTag (spSlot (a s)) full)))

/-- R215 SP.TAG.FULL. -/
def execSpTagFull (o : RrrOp) (s : State) : Out := spTag o true s
/-- R215 SP.TAG.EMPTY. -/
def execSpTagEmpty (o : RrrOp) (s : State) : Out := spTag o false s

/-- The group of one thread, or the control core, that makes a C-port access. -/
def SpAccess.grp (x : SpAccess) (k : Nat) : Grp :=
  match x.req with
  | .thread v l => ⟨k, some v, [l], x.pc, 0⟩
  | _ => ⟨k, none, [0], x.pc, 0⟩

/-- A C-port access that waited is performed, and its thread goes on behind it. -/
def spGoesOn (s : State) (k : Nat) (x : SpAccess) : State :=
  let g := x.grp k
  wakeCore (advance (setWait ((spPerform s g (g.lanes.headD 0) x).working k) g g.lanes .ready .none) g g.lanes 4) k

/-- A C-port access that waited for a transit (R210) meets its tag, or is performed. -/
def spMoves (s : State) (k : Nat) (x : SpAccess) : State :=
  let hold (s : State) (w : Wait) : State := setWait s (x.grp k) (x.grp k).lanes .waitMemory w
  match spMeets (s.core k).sp x with
  | .transit => s.updSp k (fun sp => { sp with moving := sp.moving ++ [x] })
  | .tag slot => hold (s.updSp k (fun sp => addWait sp ⟨slot, !x.store, .face x, none⟩)) (.tag slot (!x.store))
  | .nothing => spGoesOn s k x

/-- Accesses that waited for a lower lane of their instruction go on, where none is left before them (R151). -/
def spFollow (s : State) (k : Nat) : State :=
  (s.core k).sp.behind.foldl (fun s x =>
    if behindLower { (s.core k).sp with behind := (s.core k).sp.behind.erase x } x then s
    else spMoves (s.updSp k (fun sp => { sp with behind := sp.behind.erase x })) k x) s

/-- R210: the transit of a group ends when nothing bound to its old field uses it, and the accesses that waited for it go on in order. -/
def execTransitEnd (k : Fin 256) (g : Fin 8) (s : State) : Out :=
  let c := s.core k.val
  match tfind c.sp.transit g.val with
  | none => .next s
  | some old =>
    if transitUsed c g.val old.toNat then .next s
    else
      let s := s.updSp k.val (fun sp => { sp with transit := tdel sp.transit g.val, moving := [] })
      .next (wakeCore (spFollow (c.sp.moving.foldl (fun s x => spMoves s k.val x) s) k.val) k.val)

/-- Return a taken slot (R219): a consumer leaves it EMPTY, a producer FULL. -/
def Scratch.giveBack (sp : Scratch) (slot : Nat) : Scratch :=
  match sp.taken.find? (fun t => t.slot == slot) with
  | some t => (sp.setTag slot t.producer).release slot
  | none => sp

/-- R219: a slot whose last byte has been read or written returns to the other side of its ring. -/
def execRingSlotReturn (k : Fin 256) (slot : BitVec 15) (s : State) : Out :=
  let sp := (s.core k.val).sp
  if sp.taken.any (fun t => t.slot == slot.toNat && t.finished) then
    .next (wakeCore (s.updSp k.val (fun sp => sp.giveBack slot.toNat)) k.val)
  else .next s

end Sys2Proof.Machine
end

