-- ==== Sys2Proof/Machine/Dma.lean ====
section
/-!
DEFINITION. DMA commands (09): capture, dispatch and its checks, translation before the move, the move itself unit by unit, and
completion with its record.
-/
namespace Sys2Proof.Machine

namespace State

def updDma (s : State) (k : Nat) (f : DmaQueue → DmaQueue) : State := s.updCore k (fun c => { c with dma := f c.dma })

end State

def dmaFind (s : State) (k seq : Nat) : Option DmaCmd := (s.core k).dma.queue.find? (fun q => q.seq == seq)

def dmaPut (s : State) (k : Nat) (q : DmaCmd) : State :=
  s.updDma k (fun d => { d with queue := updFirst (fun x => x.seq == q.seq) (fun _ => q) d.queue })

/-- DMA_FAULT (R247), the causes that also write SP_FAULT (R248), and the core fault: the command and every later one go. -/
def dmaFault (s : State) (k : Nat) (q : DmaCmd) (cause side addr ring spa : Nat) : State :=
  let code : Nat := match cause with
    | 0x8 => 0x07
    | 0x9 => 0x05
    | 0xA => 0x06
    | 0xB => 0x0E
    | _ => 0x0C
  let s := s.updDma k (fun d =>
    if bit d.fault0 63 then { d with fault0 := setBit d.fault0 62 true }
    else { d with
      fault0 := at_ 63 1 ||| at_ 58 cause ||| at_ 57 side ||| at_ 51 q.engine ||| at_ 0 (q.seq % 2 ^ 32)
      fault1 := BitVec.ofNat 64 addr })
  let s := if cause = 0x8 then spFault s k (if 2 ^ 21 ≤ spa then 2 else 1) clsD (spGroup spa) 0 spa
    else if cause = 0xB then spFault s k 5 clsD 0 ring 0 else s
  faultCore s k code 4 0 0 0 q.pc (if cause = 0x9 ∨ cause = 0xA then BitVec.ofNat 64 addr else 0)

/-- R167 DMA.SUB: the descriptor is read through the L1 and captured; RD receives the sequence number. -/
def execDmaSub (o : RrrOp) (s : State) : Out :=
  let us : List RegUse := [⟨o.rd.toNat, 1, true⟩, ⟨o.ra.toNat, 1, false⟩]
  let legal := spLegal o true false
  let want (g : Grp) (s : State) (_l : Nat) : Want :=
    let c := s.core g.k
    ⟨.desc, 64, rdReg s g 0 o.ra.toNat true, 0, BitVec.ofNat 128 (c.dma.issued + 1), c.sp.pmap.setWidth 64, false, false⟩
  issue (noteCause s o.core o.face legal us want) o.core o.face 4 legal us (fun g s =>
    let c := s.core g.k
    match laneFaults s g (want g s) with
    | some (code, _, lanes, va) => .fault code lanes va
    | none =>
      if 64 ≤ c.dma.queue.length then .wait .queue
      else runLanes g noClash (fun l s => match laneAccess s g s.mem.nextId l (want g s l) with
        | .done s => .done (wrReg (s.updDma g.k (fun d => { d with issued := d.issued + 1 })) g 0 o.rd.toNat true
            (BitVec.ofNat 64 (c.dma.issued + 1)))
        | x => x) s)

/-- R167 DMA.WAIT: until every issued command numbered at most RA has completed, one whose descriptor is still being read among them. -/
def execDmaWait (o : RrrOp) (s : State) : Out :=
  issue s o.core o.face 4 (spLegal o false false) [⟨o.ra.toNat, 1, false⟩] (fun g s =>
    let c := s.core g.k
    let n := (rdReg s g 0 o.ra.toNat true).toNat
    if c.acc.any (fun a => a.op == .desc && decide (a.data.toNat ≤ n)) || c.dma.queue.any (fun q => decide (q.seq ≤ n)) then
      .wait (.dma n)
    else .ok s)

/-- A check of the first stage that fails (R234): cause, side, address, ring. -/
structure DmaBad where
  cause : Nat
  side : Nat
  addr : Nat
  ring : Nat

/-- Base addresses of the contiguous rows of a side, with the row's place in move order. -/
def DmaCmd.rows (q : DmaCmd) (dst : Bool) : List (Int × Nat × Nat) :=
  let x := q.side dst
  (List.range q.n2).flatMap (fun (i2 : Nat) => (List.range (q.outer dst)).map (fun (i : Nat) =>
    ((x.base : Int) + (i2 : Int) * x.s2 + (i : Int) * x.s1, i2, i)))

def DmaCmd.rowBytes (q : DmaCmd) (dst : Bool) : Nat := (q.inner dst * q.nibbles + 1) / 2

/-- The first byte of an SP side that breaks R212 against the bound map. -/
def DmaCmd.badSp (q : DmaCmd) (dst : Bool) : Option Nat :=
  (q.rows dst).findSome? (fun r =>
    if r.1 < 0 then some (2 ^ 21)
    else
      let lo := r.1.toNat
      let last := lo + q.rowBytes dst - 1
      ((List.range (last / 2 ^ 18 - lo / 2 ^ 18 + 1)).map (· + lo / 2 ^ 18)).findSome? (fun g =>
        if 8 ≤ g ∨ mapClass q.map g ≠ clsD then some (max lo (g * 2 ^ 18)) else none))

/-- Multiple of the element size; 4-bit elements need whole bytes. -/
def DmaCmd.fits (q : DmaCmd) (x : Int) : Bool := q.nibbles == 1 || x % (q.nibbles / 2 : Nat) == 0

/-- The first stage of R234 in its order 0x1, 0x3, 0xB, 0x2, 0x4, 0x5, 0x8. -/
def dmaCheck (sp : Scratch) (q : DmaCmd) : Option DmaBad :=
  let src := q.side false
  let dst := q.side true
  let rsvSp (x : Side) : Bool := x.kind == 1 && fld x.addr 56 21 != 0
  let misuse (x : Side) : Bool := x.ringed && (x.s1 != 0 || x.s2 != 0 || fld x.addr 20 0 != 0 || q.transpose)
  let fixed (x : Side) : Bool := decide (x.kind ≤ 1) && !x.ringed
  let off (x : Side) : Bool := fixed x && (!q.fits x.base || !q.fits x.s1 || !q.fits x.s2)
  if src.kind = 3 ∨ dst.kind = 3 ∨ q.esize = 7 ∨ fld (q.word 0) 54 32 ≠ 0 ∨ fld (q.word 1) 9 0 ≠ 0 ∨ q.word 7 ≠ 0 ∨ rsvSp src ∨ rsvSp dst then
    some ⟨1, b2n (!(src.kind == 3 || rsvSp src) && (dst.kind == 3 || rsvSp dst)), 0, 0⟩
  else if misuse src then some ⟨3, 0, 0, 0⟩
  else if misuse dst ∨ dst.kind = 2 then some ⟨3, 1, 0, 0⟩
  else if src.ringed && !ringValid sp src.ring then some ⟨0xB, 0, 0, src.ring⟩
  else if dst.ringed && !ringValid sp dst.ring then some ⟨0xB, 1, 0, dst.ring⟩
  else if 2 ^ 20 < q.tileBytes ∨ (q.nibbles = 1 ∧ (q.n0 % 2 = 1 ∨ q.inner true % 2 = 1)) then some ⟨2, 0, 0, 0⟩
  else if off src then some ⟨4, 0, src.base, 0⟩
  else if off dst then some ⟨4, 1, dst.base, 0⟩
  else if q.crAddr.toNat % 32 ≠ 0 then some ⟨4, 1, q.crAddr.toNat, 0⟩
  else if fixed src && fixed dst && src.kind == dst.kind && decide ((q.span false).1 ≤ (q.span true).2) &&
      decide ((q.span true).1 ≤ (q.span false).2) then some ⟨5, 1, dst.base, 0⟩
  else
    let bad (x : Side) : Option Nat := if x.kind = 1 ∧ !x.ringed then q.badSp x.dst else none
    match bad src, bad dst with
    | some a, _ => some ⟨8, 0, a, 0⟩
    | none, some a => some ⟨8, 1, a, 0⟩
    | none, none => none

/-- Commands of a core that an engine holds. -/
def activeCount (c : Core) : Nat := (c.dma.queue.filter (fun q => decide (q.stage ≠ .queued))).length

/-- The command of a core that may be dispatched now (R229). -/
def nextDispatch (s : State) (k : Nat) : Option DmaCmd :=
  if !coreRuns s k then none
  else
    let c := s.core k
    match c.dma.queue.find? (fun q => decide (q.stage = .queued) && q.doomed == 0) with
    | none => none
    | some q => if q.inOrder && c.dma.queue.any (fun p => decide (p.seq < q.seq)) then none else some q

/-- R229, R234: the engine takes the next command in round-robin order of its cluster's cores and runs the first stage of
checks (log 118). -/
def execDmaDispatch (e : Fin 64) (s : State) : Out :=
  let c := e.val / 2
  let cores := coresOf c
  let load := (cores.map (fun k => ((s.core k).dma.queue.filter (fun q => decide (q.stage ≠ .queued) && q.engine == e.val)).length)).foldl (· + ·) 0
  let order := (List.range 8).map (fun i => 8 * c + ((s.cluster c).served + 1 + i) % 8)
  let ready := order.filter (fun k => (nextDispatch s k).isSome)
  let may (k : Nat) : Bool := decide (activeCount (s.core k) < 8) || ready.all (· == k)
  if 16 ≤ load then .next s
  else match ready.find? may with
    | none => .next s
    | some k => match nextDispatch s k with
      | none => .next s
      | some q =>
        let q := { q with stage := .dispatched, engine := e.val }
        let s := dmaPut (s.setCluster c { s.cluster c with served := k % 8 }) k q
        match dmaCheck (s.core k).sp q with
        | some b => .next (dmaFault s k q b.cause b.side b.addr b.ring b.addr)
        | none => .next s

/-- The 4 KiB pages of a MEM side with the move-order index of their earliest element (R235). -/
def DmaCmd.pages (q : DmaCmd) (dst : Bool) : Tbl Nat :=
  if (q.side dst).kind ≠ 0 then []
  else (q.rows dst).foldl (fun t (r : Int × Nat × Nat) =>
    let lo := (r.1 % ((2 ^ 64 : Nat) : Int)).toNat
    let n := q.rowBytes dst
    (List.range ((lo + n - 1) / 4096 - lo / 4096 + 1)).foldl (fun t i =>
      let p := lo / 4096 + i
      let inner := if p * 4096 ≤ lo then 0 else (p * 4096 - lo) * 2 / q.nibbles
      let j := if dst && q.transpose then (r.2.1 * q.n1 + inner) * q.n0 + r.2.2 else (r.2.1 * q.n1 + r.2.2) * q.n0 + inner
      match tfind t p with
      | some m => if j < m then tput t p j else t
      | none => tput t p j) t) []

/-- Stream nibble `t` (move order, R232) on a side: its address in half bytes. -/
def DmaCmd.nibAddr (q : DmaCmd) (dst : Bool) (t : Nat) : Nat :=
  let x := q.side dst
  if x.ringed then t
  else
    let j := t / q.nibbles
    let i0 := j % q.n0
    let i1 := j / q.n0 % q.n1
    let i2 := j / q.n0 / q.n1
    let (out, inn) := if dst && q.transpose then (i0, i1) else (i1, i0)
    let a : Int := 2 * ((x.base : Int) + i2 * x.s2 + out * x.s1) + inn * q.nibbles + t % q.nibbles
    (a % (2 ^ 65 : Nat)).toNat

/-- Bytes of the unit by which a side is accessed: a slot, or a line of translated memory. -/
def Side.unit (x : Side) : Nat := if x.kind = 0 then 256 else 64

def DmaCmd.nibs (q : DmaCmd) : Nat := q.n0 * q.n1 * q.n2 * q.nibbles

/-- Units of a side in the order of the first byte of each in move order (R237). -/
def DmaCmd.units (q : DmaCmd) (dst : Bool) : List Nat :=
  if (q.side dst).kind = 2 then []
  else ((List.range q.nibs).map (fun t => q.nibAddr dst t / (2 * (q.side dst).unit))).foldl
    (fun (l : List Nat) u => if l.getLast? = some u || l.contains u then l else l ++ [u]) []

/-- The pages that hold bytes a side has still to move: all of them, but for a command that goes on after a pre-emption (R249). -/
def DmaCmd.pagesLeft (q : DmaCmd) (dst : Bool) : Tbl Nat :=
  if q.rd == 0 && q.wr == 0 then q.pages dst
  else
    let left := (q.units dst).drop (if dst then q.wr else q.rd)
    (q.pages dst).filter (fun p => left.any (fun u => u / 16 == p.1))

/-- Translate one page for an engine (R235): its own TLB, then the cluster's; a hit of either counts there (R314). -/
def dmaLookup (s : State) (eng n vpn : Nat) : Option TlbEnt × State :=
  let c := eng / 2
  let x := s.cluster c
  match (tget ⟨[], []⟩ x.dtlb eng).find n vpn with
  | some (p, e) => (some e, s.setCluster c { x with dtlb := tput x.dtlb eng ((tget ⟨[], []⟩ x.dtlb eng).touch 7 128 p) })
  | none => match x.tlb.find n vpn with
    | some (p, e) => (some e, fillDmaTlb (s.setCluster c { x with tlb := x.tlb.touch 3 8 p }) eng e)
    | none => (none, s.bumpCluster c 5 0xFFFF 1)

/-- The translation of a page that the command holds. -/
def DmaCmd.heldPage (q : DmaCmd) (vpn : Nat) : Option Held :=
  q.held.find? (fun h => decide (h.base ≤ vpn) && decide (vpn < h.base + 2 ^ h.log2))

/-- Look up every page that the command has no result for yet; a miss joins a walk or begins one (R317). -/
def dmaFindPages (s : State) (k : Nat) (q : DmaCmd) (side : Nat) (ps : List Nat) : State × DmaCmd :=
  ps.foldl (fun (x : State × DmaCmd) p =>
    if (x.2.heldPage p).isSome || x.2.failed.any (fun f => f.1 == p) then x
    else match dmaLookup x.1 q.engine (ctxOf s k) p with
      | (some e, s) => (s, x.2.hold (heldOf s e p))
      | (none, s) => (startWalk s (clusterOf k) (ctxOf s k) p (.dma k q.seq) (if side = 0 then 4 else 2) (BitVec.ofNat 64 (4096 * p)), x.2))
    (s, q)

/-- A page of a command that fails: its place in move order, side (0, 1, or 2 for the record), page, and what failed. -/
structure DmaFail where
  order : Nat
  side : Nat
  vpn : Nat
  level : Option Nat
  cause : Nat
  pcause : Nat

/-- How many pages a side counts (R235): each mapped page at the size of its leaf, each unmapped one as 4 KiB; one that fails at a leaf
counts as that leaf's (log 91). -/
def DmaCmd.countPages (q : DmaCmd) (ps : List Nat) : Nat :=
  let leafOf (p : Nat) (l : Nat) : Nat × Nat := (p / 2 ^ pageLog l * 2 ^ pageLog l, pageLog l)
  ((ps.map (fun p => match q.heldPage p, q.failed.find? (fun f => f.1 == p) with
    | some h, _ => (h.base, h.log2)
    | none, some (_, .prot _ (some l)) => leafOf p l
    | none, _ => (p, 0))).eraseDups).length

/-- The pages of a side that fail. -/
def dmaSideFails (s : State) (k : Nat) (q : DmaCmd) (side : Nat) (ps : Tbl Nat) : List DmaFail :=
  let n := ctxOf s k
  let need : Need := if side = 0 then .read else .write
  ps.filterMap (fun p =>
    let bad (level : Option Nat) (cause pcause : Nat) : Option DmaFail :=
      some ⟨if side = 2 then 2 ^ 40 else 2 * p.2 + side, min side 1, p.1, level, cause, pcause⟩
    match q.failed.find? (fun f => f.1 == p.1), q.heldPage p.1 with
    | some (_, .unmapped l), _ => bad (some l) 4 0
    | some (_, .prot c _), _ => if side = 2 ∧ c = 5 then bad none 7 0 else bad none 9 c
    | some (_, .poison), _ => bad none 0xA 0
    | none, none => none
    | none, some h =>
      let pa := at_ 44 (eNode h.leaf) ||| at_ 40 (eSpace h.leaf) ||| at_ 0 ((eFrame h.leaf + (p.1 - h.base)) * 4096)
      if side = 2 ∧ (eSpace h.leaf ≠ 0 ∨ !nodeHere s (eNode h.leaf)) then bad none 7 0
      else match denied s k n .dma need h.leaf pa 4096 with
        | some (_, c) => bad none 9 c
        | none => none)

/-- Lowest address of a side's bytes on a page, for the fault's address. -/
def DmaCmd.firstOn (q : DmaCmd) (side vpn : Nat) : Nat :=
  let rs := (q.rows (side == 1)).filterMap (fun (r : Int × Nat × Nat) =>
    let lo := (r.1 % ((2 ^ 64 : Nat) : Int)).toNat
    if lo / 4096 ≤ vpn ∧ vpn ≤ (lo + q.rowBytes (side == 1) - 1) / 4096 then some (max lo (4096 * vpn)) else none)
  rs.headD (4096 * vpn)

/-- R235: the command's pages are translated, all or none. Pages that miss are walked, and the command goes on when every page has a
result. -/
def execDmaTranslationDone (k : Fin 256) (seq : W64) (s : State) : Out :=
  match dmaFind s k.val seq.toNat with
  | none => .next s
  | some q =>
    if q.stage ≠ .dispatched ∨ !coreRuns s k.val then .next s
    else
      let p0 := q.pagesLeft false
      let p1 := q.pagesLeft true
      let p2 : Tbl Nat := if q.crAddr = 0 then [] else [(vpnOf q.crAddr, 0)]
      let (s, q) := dmaFindPages s k.val q 0 (p0.map Prod.fst)
      let (s, q) := dmaFindPages s k.val q 1 (p1.map Prod.fst)
      let (s, q) := dmaFindPages s k.val q 2 (p2.map Prod.fst)
      let s := dmaPut s k.val q
      let known (p : Nat) : Bool := (q.heldPage p).isSome || q.failed.any (fun f => f.1 == p)
      if !((p0 ++ p1 ++ p2).all (fun p => known p.1)) then .next s
      else if 512 < q.countPages (p0.map Prod.fst) then .next (dmaFault s k.val q 6 0 0 0 0)
      else if 512 < q.countPages (p1.map Prod.fst) then .next (dmaFault s k.val q 6 1 0 0 0)
      else match dmaSideFails s k.val q 0 p0 ++ dmaSideFails s k.val q 1 p1 ++ dmaSideFails s k.val q 2 p2 with
        | [] => .next (dmaPut s k.val { q with stage := .translated })
        | f :: rest =>
          let d := rest.foldl (fun (a b : DmaFail) => if b.order < a.order then b else a) f
          let va := if d.order = 2 ^ 40 then q.crAddr.toNat else q.firstOn d.side d.vpn
          match d.level with
          | some l =>
            let s := dmaPut s k.val { q with stage := .waitXlate, page := d.vpn, held := [], failed := [], tries := q.tries + 1 }
            .next (openFault s (ctxOf s k.val) d.vpn l (.dma k.val q.seq) q.engine (if d.side = 0 then 4 else 2) (BitVec.ofNat 64 va))
          | none => .next (dmaFault (setPcause s k.val d.pcause) k.val q d.cause d.side va 0 0)

/-- Stream byte `m`, where it has been read (R232: a FILL source repeats its pattern). -/
def DmaCmd.byteAt (q : DmaCmd) (m : Nat) : Option Byte :=
  if q.srcKind = 2 then some (byteOf (q.word 4) (m % 8)) else tfind q.buf m

/-- Source bytes of unit `u` that arrive, those at the offsets `ok`: each stream byte that comes from them goes into the buffer. -/
def DmaCmd.takeIn (q : DmaCmd) (u : Nat) (ok : Nat → Bool) (f : Nat → Byte) : DmaCmd :=
  let n := (q.side false).unit
  { q with buf := (List.range ((q.nibs + 1) / 2)).foldl (fun t m =>
      let a := q.nibAddr false (2 * m) / 2
      if a / n = u ∧ ok (a % n) then tput t m (f (a % n)) else t) q.buf }

/-- The bytes of a whole unit arrive. -/
def DmaCmd.take (q : DmaCmd) (u : Nat) (f : Nat → Byte) : DmaCmd := q.takeIn u (fun _ => true) f

/-- Offsets in the unit that a side touches. -/
def DmaCmd.offsets (q : DmaCmd) (dst : Bool) (u : Nat) : List Nat :=
  let n := (q.side dst).unit
  ((List.range q.nibs).filterMap (fun t =>
    let a := q.nibAddr dst t / 2
    if a / n = u then some (a % n) else none)).eraseDups

/-- Bytes of the stream below half byte `upTo` that the command writes in destination unit `u`; none while one of them has not been read. -/
def DmaCmd.gatherTo (q : DmaCmd) (upTo u : Nat) : Option Bytes :=
  let n := (q.side true).unit
  (List.range upTo).foldl (fun (acc : Option Bytes) t =>
    match acc with
    | none => none
    | some bs =>
      let a := q.nibAddr true t
      if a / 2 / n ≠ u ∨ t < q.skip then some bs
      else match q.byteAt (t / 2) with
        | none => none
        | some b =>
          let o := a / 2 % n
          let old := tget 0 bs o
          some (tput bs o (setFld old (4 * (a % 2) + 3) (4 * (a % 2)) (b.toNat / 16 ^ (t % 2) % 16)))) (some [])

/-- All its bytes. -/
def DmaCmd.gather (q : DmaCmd) (u : Nat) : Option Bytes := q.gatherTo q.nibs u

/-- The physical address of a virtual one by the command's translations. -/
def DmaCmd.phys (q : DmaCmd) (va : Nat) : Option (W64 × W64) :=
  (q.heldPage (va / 4096)).map (fun h =>
    (at_ 44 (eNode h.leaf) ||| at_ 40 (eSpace h.leaf) ||| at_ 0 (eFrame h.leaf * 4096 + (va - h.base * 4096)), h.leaf))

/-- The bus address of a virtual address in host memory, under the window of its translation (R412, R420). -/
def DmaCmd.bus (q : DmaCmd) (va : Nat) (pa : W64) : W64 := busIn (((q.heldPage (va / 4096)).map Held.win).getD 0) pa

/-- A unit whose access uses the tags of the scratchpad: its read empties what it reads (R214, R219). -/
def DmaCmd.consumes (q : DmaCmd) (u : Nat) : Bool :=
  let x := q.side false
  x.ringed || (x.kind == 1 && mapTagged q.map (slotGroup u))

/-- The half byte of the stream before which every element of a destination unit is written once the bytes that have been read for unit
`u`, the next one, are (R249). -/
def DmaCmd.readyTo (q : DmaCmd) (u : Nat) : Nat :=
  let n := (q.side true).unit
  let old := (q.units true).take q.wr
  (List.range q.nibs).findIdx (fun t =>
    let v := q.nibAddr true t / (2 * n)
    !(decide (t < q.skip) || old.contains v || (v == u && (q.byteAt (t / 2)).isSome)))

/-- What one unit of a side came to. -/
inductive DmaMove where
  | moved (s : State) (q : DmaCmd)
  | stop (s : State) (q : DmaCmd)
  | bad (s : State) (cause side addr ring spa : Nat)

/-- The command waits on a tag or a ring (R237). -/
def dmaTagWait (s : State) (k : Nat) (q : DmaCmd) (w : TagWait) : DmaMove :=
  .stop (s.updSp k (fun sp => addWait sp w)) { q with waitTag := true }

/-- Take the next slot of a ring endpoint (R219, R234): its number, or what stops the command. -/
def dmaTake (s : State) (k : Nat) (q : DmaCmd) (dst : Bool) : Nat ⊕ DmaMove :=
  let sp := (s.core k).sp
  let r := (q.side dst).ring
  let slot := nextTake sp r dst
  if (ringSlots sp r).any (fun x => inTransit sp q.map (slotGroup x)) then .inr (.stop s { q with waitMap := true })
  else if isFull sp slot == dst || slotTaken sp slot || takeBehind sp r dst (.dma q.seq) || (!dst && passWantsRing (s.core k) r) then
    .inr (dmaTagWait s k q ⟨slot, !dst, .dma q.seq, some (r, dst)⟩)
  else if mapClass q.map (slotGroup slot) ≠ clsD then .inr (.bad s 8 (b2n dst) (64 * slot) 0 (64 * slot))
  else .inl slot

/-- After a take: the slot's bytes are moved at once, so it can be returned. -/
def dmaTook (s : State) (k : Nat) (q : DmaCmd) (dst : Bool) (slot : Nat) : State :=
  s.updSp k (fun sp =>
    let sp := (sp.take (q.side dst).ring dst).finish slot
    { sp with waits := sp.waits.filter (fun w => !(w.who == .dma q.seq && w.ring == some ((q.side dst).ring, dst))) })

/-- Tags after an access to the offsets of one slot (R214). -/
def unitTags (sp : Scratch) (m : W32) (read : Bool) (slot : Nat) (offs : List Nat) : Scratch :=
  if mapTagged m (slotGroup slot) && offs.contains 63 then sp.setTag slot (!read) else sp

/-- A scratchpad window (R241): the core that it names, when a request may be served there now; the cause when never. -/
def windowCore (s : State) (k : Nat) (pa : W64) : Option (Nat ⊕ Unit) :=
  let j := paOff pa / 2 ^ 21 % 256
  let n := ctxOf s k
  if !(s.ctx n).cores.contains j then some (.inr ())
  else if coreRuns s j && ctxOf s j == n then some (.inl j)
  else none

/-- What one slot of a window request comes to at the target: refused by the D class of its map in force (R241), blocked by its tag, or
served, with the tag as it is then. -/
inductive AtWindow where
  | refused
  | tag
  | served (sp : Scratch)

def windowServe (sp : Scratch) (slot : Nat) (read : Bool) (offs : List Nat) : AtWindow :=
  let m := oldMap sp
  if mapClass m (slotGroup slot) ≠ clsD then .refused
  else if mapTagged m (slotGroup slot) && (isFull sp slot != read) then .tag
  else .served (unitTags sp m read slot offs)

/-- The next slot of a window request of the command: the sectors `todo` of the 256 bytes at scratchpad address `base` of the window's
core, in order (R214); `act` moves the bytes of one sector at that core. -/
def windowUnit (s : State) (k : Nat) (q : DmaCmd) (pa : W64) (u : Nat) (read : Bool) (offs todo : List Nat)
    (act : State → Nat → Nat → State × DmaCmd) (last : DmaCmd → DmaCmd) : DmaMove :=
  let base := paOff pa % 2 ^ 21
  match windowCore s k pa with
  | some (.inr _) => .bad s 8 (b2n (!read)) (256 * u + offs.headD 0) 0 (base + offs.headD 0)
  | none => .stop s { q with waitTag := true, asked := true }
  | some (.inl j) =>
    match todo with
    | [] => .moved s (last q)
    | z :: rest =>
      let slot := base / 64 + z
      let here := (offs.filter (fun o => o / 64 == z)).map (· % 64)
      match windowServe (s.core j).sp slot read here with
      | .refused => .bad s 8 (b2n (!read)) (256 * u + 64 * z + here.headD 0) 0 (64 * slot + here.headD 0)
      | .tag =>
        let who : TagWho := if j = k then .dma q.seq else .window k q.seq
        .stop (s.updSp j (fun sp => addWait sp ⟨slot, read, who, none⟩)) { q with waitTag := true, asked := true }
      | .served sp =>
        let (t, q) := act (s.updSp j (fun _ => sp)) j z
        .moved t (if rest.isEmpty then last q else q)

/-- A transaction entry for a request of the command (R129). -/
def dmaEntry (s : State) (k seq : Nat) : Option Nat := if mayEnter s k (.dma seq) then some (freeEntry s k) else none

def agentDma (e : Nat) : Agent := .dma (Fin.ofNat _ e)

/-- Read the next source unit. -/
def dmaReadUnit (s : State) (k : Nat) (q : DmaCmd) (u : Nat) : DmaMove :=
  let x := q.side false
  let sp := (s.core k).sp
  let offs := q.offsets false u
  if x.ringed then
    match dmaTake s k q false with
    | .inr m => m
    | .inl slot =>
      .moved (dmaTook s k q false slot) { q.take u (fun o => mget sp.data (64 * slot + o)) with rd := q.rd + 1, tookSrc := q.tookSrc + 1 }
  else if x.kind = 1 then
    if inTransit sp q.map (slotGroup u) then .stop s { q with waitMap := true }
    else if mapTagged q.map (slotGroup u) && !isFull sp u then dmaTagWait s k q ⟨u, true, .dma q.seq, none⟩
    else .moved (s.updSp k (fun sp => unitTags sp q.map true u offs)) { q.take u (fun o => mget sp.data (64 * u + o)) with rd := q.rd + 1 }
  else match q.phys (256 * u) with
    | none => .stop s q
    | some (pa, _) =>
      let lo := offs.foldl min 255
      let hi := offs.foldl max 0
      let q1 := { q with rd := q.rd + 1 }
      match paSpace pa with
      | 1 =>
        windowUnit s k q pa u true offs ((sectorsOf (sectorMask offs)).filter (fun z => !q.partRd.contains z))
          (fun t j z => (t, { q.takeIn u (fun o => o / 64 == z) (fun o => mget (t.core j).sp.data (paOff pa % 2 ^ 21 + o)) with
            partRd := q.partRd ++ [z] })) (fun q => { q with rd := q.rd + 1, partRd := [] })
      | 0 =>
        match dmaEntry s k q.seq with
        | none => .stop (waitEntry s k (.dma q.seq)) q
        | some e =>
          let s := leaveEntry s k (.dma q.seq)
          let q2 := { q1 with reqs := q1.reqs ++ [(e, u, lo, false)] }
          let mask := sectorMask offs
          if isRemote s pa then
            .moved (fabSend (dmaPut s k q2) k e (.dma k q.seq e) false pa mask [] 0) { q2 with remote := true }
          else if hasCredit s (lineKey s pa) (clusterOf k) then
            .moved (sendMsg s { Msg.bare (.req .dmaRd) (agentDma q.engine) (lineKey s pa) with mask := mask, id := 256 * k + e }) q2
          else .stop s q
      | _ =>
        let addr := q.bus (256 * u) pa + BitVec.ofNat 64 lo
        if !ideOk s addr (hi + 1 - lo) then .bad s 9 0 (256 * u + lo) 0 0
        else match dmaEntry s k q.seq, freeTag s with
        | none, _ => .stop (waitEntry s k (.dma q.seq)) q
        | some e, some t =>
          let s := leaveEntry s k (.dma q.seq)
          .moved (hostRead s (fnOf s (ctxOf s k)) t addr (hi + 1 - lo) (.dma k q.seq e))
            { q1 with reqs := q1.reqs ++ [(e, u, lo, false)], host := true }
        | some _, none => .stop (leaveEntry s k (.dma q.seq)) q

/-- Write the next destination unit, whose bytes are there. -/
def dmaWriteUnit (s : State) (k : Nat) (q : DmaCmd) (u : Nat) (bs : Bytes) : DmaMove :=
  let x := q.side true
  let sp := (s.core k).sp
  let offs := bs.map Prod.fst
  let store (data : Memory) (base : Nat) : Memory := bs.foldl (fun m b => mset m (base + b.1) b.2) data
  let q1 := { q with wr := q.wr + 1 }
  if bs.isEmpty then .moved s q1
  else if x.ringed then
    match dmaTake s k q true with
    | .inr m => m
    | .inl slot =>
      let s := s.updSp k (fun sp => { sp with data := store (mclear sp.data (64 * slot) (64 * slot + 64)) (64 * slot) })
      .moved (dmaTook s k q true slot) { q1 with tookDst := q.tookDst + 1 }
  else if x.kind = 1 then
    if inTransit sp q.map (slotGroup u) then .stop s { q with waitMap := true }
    else if mapTagged q.map (slotGroup u) && isFull sp u then dmaTagWait s k q ⟨u, false, .dma q.seq, none⟩
    else .moved (s.updSp k (fun sp => unitTags { sp with data := store sp.data (64 * u) } q.map false u offs)) q1
  else match q.phys (256 * u) with
    | none => .stop s q
    | some (pa, leaf) =>
      let mask := sectorMask offs
      match paSpace pa with
      | 1 =>
        let base := paOff pa % 2 ^ 21
        windowUnit s k q pa u false offs ((sectorsOf mask).filter (fun z => !q.partWr.contains z))
          (fun t j z => (t.updSp j (fun sp => { sp with
            data := (bs.filter (fun b => b.1 / 64 == z)).foldl (fun m b => mset m (base + b.1) b.2) sp.data }), { q with partWr := q.partWr ++ [z] }))
          (fun q => { q with wr := q.wr + 1, partWr := [] })
      | 0 =>
        match dmaEntry s k q.seq with
        | none => .stop (waitEntry s k (.dma q.seq)) q
        | some e =>
          let s := leaveEntry s k (.dma q.seq)
          let q2 := { q1 with reqs := q1.reqs ++ [(e, u, 0, true)] }
          if isRemote s pa then
            let s := if eRem leaf then discardRem s k (lineKey s pa) else s
            .moved (fabSend (dmaPut s k q2) k e (.dma k q.seq e) true pa mask bs 0) { q2 with remote := true }
          else if hasCredit s (lineKey s pa) (clusterOf k) then
            .moved (sendMsg s { Msg.bare (.req .dmaWr) (agentDma q.engine) (lineKey s pa) with
              mask := mask, bytes := bs, id := 256 * k + e }) q2
          else .stop s q
      | _ =>
        let addr := q.bus (256 * u) pa
        let lo := offs.foldl min 255
        if !ideOk s (addr + BitVec.ofNat 64 lo) (offs.foldl max 0 + 1 - lo) then .bad s 9 1 (256 * u + lo) 0 0
        else if (dmaEntry s k q.seq).isNone then .stop (waitEntry s k (.dma q.seq)) q
        else
        let s := bs.foldl (fun s b => hostWrite s (fnOf s (ctxOf s k)) (addr + BitVec.ofNat 64 b.1) [b.2]) (leaveEntry s k (.dma q.seq))
        .moved s { q1 with hostLast := some (addr + BitVec.ofNat 64 ((offs.getLast?).getD 0)), host := true }

/-- Every unit has been read and written and every request answered. -/
def DmaCmd.idle (q : DmaCmd) : Bool := q.reqs.isEmpty

def DmaCmd.movedAll (q : DmaCmd) : Bool :=
  decide ((q.units false).length ≤ q.rd) && decide ((q.units true).length ≤ q.wr) && q.idle

/-- Move as far as entries, credits, tags and arrived data let the command (R232, R237). A unit whose read consumes it is not read while
the destination blocks, so that what has been taken can be written at a stop (R249; log 100). -/
def dmaPump (k : Nat) : Nat → State → DmaCmd → State
  | 0, s, q => dmaPut s k q
  | n + 1, s, q =>
    let w : Option DmaMove := match (q.units true)[q.wr]? with
      | none => none
      | some u => (q.gather u).map (fun bs => dmaWriteUnit s k q u bs)
    match w with
    | some (.moved s q) => dmaPump k n (dmaPut s k q) q
    | some (.bad s c side a r p) => dmaFault s k q c side a r p
    | x =>
      let (s, q) : State × DmaCmd := (match x with | some (.stop s q) => (s, q) | _ => (s, q))
      match (q.units false)[q.rd]? with
      | none => dmaPut s k q
      | some u => if x.isSome && q.consumes u then dmaPut s k q else match dmaReadUnit s k q u with
        | .moved s q => dmaPump k n (dmaPut s k q) q
        | .stop s q => dmaPut s k q
        | .bad s c side a r p => dmaFault s k q c side a r p

/-- The context of a core is being stopped: what moves bytes goes on (R249). -/
def coreSaves (s : State) (k : Nat) : Bool :=
  match (s.core k).ctx with
  | some (n, _) => decide ((s.ctx n).st = .saving)
  | none => false

/-- What the command has consumed for a unit of memory that is not whole is written, as far as the stream reaches (R249). -/
def dmaPartial (s : State) (k seq : Nat) : State :=
  match dmaFind s k seq with
  | none => s
  | some q =>
    let taken := ((q.units false).take q.rd).any q.consumes
    match (q.units true)[q.wr]? with
    | none => s
    | some u =>
      let upTo := q.readyTo u
      if (q.side true).kind ≠ 0 ∨ !taken ∨ upTo ≤ q.skip ∨ (q.phys (256 * u)).any (fun p => paSpace p.1 == 1) then s
      else match dmaWriteUnit s k q u ((q.gatherTo upTo u).getD []) with
        | .moved s t => dmaPut s k { t with wr := q.wr, skip := upTo }
        | .stop s t => dmaPut s k t
        | .bad s c side a r p => dmaFault s k q c side a r p

/-- A moving command has sent no request and moved nothing (R249, R399). -/
def DmaCmd.untouched (q : DmaCmd) : Bool :=
  !q.asked && q.rd == 0 && q.wr == 0 && q.partRd.isEmpty && q.partWr.isEmpty && q.skip == 0

/-- Run a moving command; its host writes are followed by a zero-length read (R240). -/
def dmaRun (s : State) (k seq : Nat) : State :=
  match dmaFind s k seq with
  | none => s
  | some q =>
    if q.stage ≠ .moving then s
    else if q.doomed ≠ 0 then
      if q.reqs.isEmpty then s.updDma k (fun d => { d with queue := d.queue.filter (fun x => x.seq != seq) }) else s
    else if !coreRuns s k && !(coreSaves s k && !q.untouched) then s
    else
      let q := { q with waitTag := false, waitMap := false }
      let cs := k :: (s.ctx (ctxOf s k)).cores.filter (fun j => j != k)
      let old := s
      let mine (j : Nat) (w : TagWait) : Bool := (j == k && w.who == .dma seq && w.ring.isNone) || w.who == .window k seq
      let s := cs.foldl (fun s j => s.updSp j (fun sp => { sp with waits := sp.waits.filter (fun w => !mine j w) })) s
      let s := dmaPump k (4 * ((q.units false).length + (q.units true).length) + 1) (dmaPut s k q) q
      let s := cs.foldl (fun s j => orderWaits s j (old.core j).sp.waits) s
      match dmaFind s k seq with
      | none => s
      | some q =>
        match q.hostLast with
        | none => s
        | some a =>
          if q.movedAll && q.doomed == 0 then
            if !ideOk s a 0 then dmaFault s k q 9 1 0 0 0
            else if (dmaEntry s k seq).isNone then waitEntry s k (.dma seq)
            else match freeTag s with
            | some t => hostRead (dmaPut (leaveEntry s k (.dma seq)) k { q with hostLast := none }) (fnOf s (ctxOf s k)) t a 0 (.dmaFence k seq)
            | none => leaveEntry s k (.dma seq)
          else s

/-- Dirty sectors of remote-attribute lines that the command reaches (R258). -/
def dmaDirty (s : State) (k : Nat) (q : DmaCmd) : List Nat :=
  let mine (key : Nat) : Bool := [false, true].any (fun dst =>
    (q.side dst).kind == 0 && (q.units dst).any (fun u => match q.phys (256 * u) with
      | some (pa, _) => isRem (lineKey s pa) && lineKey s pa == key
      | none => false))
  ((s.core k).l1.lines.map (fun e => e.2.line)).filter (fun key => dirtyRem s k key && mine key)

/-- A write-back of the core to a line that the command reaches is on its way. -/
def dmaWbOpen (s : State) (k : Nat) (q : DmaCmd) : Bool :=
  [false, true].any (fun dst => (q.side dst).kind == 0 && (q.units dst).any (fun u => match q.phys (256 * u) with
    | some (pa, _) => wbOpen s k (lineKey s pa)
    | none => false))

/-- R238: earlier accesses of the core that overlap are not all performed. Slots of a tagged group are not held (R256). -/
def dmaHeld (s : State) (k : Nat) (q : DmaCmd) : Bool :=
  q.runs.any (fun r =>
    if r.mem then heldBy s k q.ord false true r.base.toNat r.size r.wr
    else heldSp s k q.ord false q.map r.base.toNat r.size r.wr)

/-- The reads that perform the host stores which hold the command (R251). -/
def dmaFences (s : State) (k : Nat) (q : DmaCmd) : State :=
  q.runs.foldl (fun s r => if r.mem then holdFences s k q.ord r.base.toNat r.size else s) s

/-- R238: the first request of a translated command, once nothing holds it; a command that is moving goes on. -/
def execDmaFirstRequest (k : Fin 256) (seq : W64) (s : State) : Out :=
  match dmaFind s k.val seq.toNat with
  | none => .next s
  | some q =>
    if q.stage = .moving then .next (dmaRun s k.val q.seq)
    else if q.stage ≠ .translated ∨ !coreRuns s k.val then .next s
    else
      let dirty := dmaDirty s k.val q
      if !dirty.isEmpty then .next (dirty.foldl (fun s key => flushLine s k.val key) s)
      else if dmaHeld s k.val q then .next (dmaFences s k.val q)
      else if dmaWbOpen s k.val q then .next s
      else .next (dmaRun (dmaPut s k.val { q with stage := .moving }) k.val q.seq)

/-- DMA_DONE_SEQ after a command completes (R242, R245). -/
def DmaQueue.finish (d : DmaQueue) (seq : Nat) : DmaQueue :=
  let fin := d.finished ++ [seq]
  let rec go : Nat → Nat → Nat
    | 0, n => n
    | f + 1, n => if fin.contains (n + 1) then go f (n + 1) else n
  let done := go fin.length d.done
  { d with queue := d.queue.filter (fun q => q.seq != seq), done := done, finished := fin.filter (fun x => decide (done < x)) }

/-- The completion record (R243). -/
def DmaCmd.record (q : DmaCmd) (st : W64) : List W64 :=
  [at_ 63 1 ||| at_ 62 (b2n q.remote) ||| at_ 61 (b2n q.host) ||| at_ 48 q.engine ||| at_ 0 q.tag, BitVec.ofNat 64 q.seq, st,
    BitVec.ofNat 64 q.tileBytes]

/-- Whether the zero-length read of a command is open. -/
def dmaFenced (s : State) (k seq : Nat) : Bool := s.mem.hostRd.any (fun h => h.owner == .dmaFence k seq)

/-- R242: every write performed; the record is written and the command leaves the queue. -/
def execDmaComplete (k : Fin 256) (seq : W64) (s : State) : Out :=
  let s := dmaRun s k.val seq.toNat
  match dmaFind s k.val seq.toNat with
  | none => .next s
  | some q =>
    if q.stage ≠ .moving ∨ q.doomed ≠ 0 ∨ !q.movedAll ∨ q.hostLast.isSome ∨ dmaFenced s k.val q.seq then .next s
    else
      let (st, s) := s.stamp
      let s := match (if q.crAddr = 0 then none else q.phys q.crAddr.toNat) with
        | some (pa, _) => cohWrite s (paOff pa) (bytesOf (q.record st))
        | none => s
      let s := s.updDma k.val (fun d => d.finish q.seq)
      let s := s.bumpCluster (clusterOf k.val) 4 (2 ^ (q.engine % 2)) q.tileBytes
      let s := s.emit (dieOfCore k.val) 0x04 q.engine (ctxOf s k.val) q.tag (BitVec.ofNat 64 q.seq) st
      .next (wakeCore (s.working k.val) k.val)

/-- An answer to a request of the command arrives: bytes by offset in the line of a read, nothing for a write. A read of a poisoned
sector faults at the first byte of it that the command reads (R296). Copies of a remote-attribute line that were filled before the write
was performed go (R254). -/
def dmaAnswer (s : State) (k seq entry : Nat) (f : Nat → Byte) (poison : Nat) : State :=
  match dmaFind s k seq with
  | none => s
  | some q =>
    match q.reqs.find? (fun r => r.1 == entry) with
    | none => s
    | some r =>
      let q1 := { q with reqs := q.reqs.filter (fun x => x.1 != entry) }
      if q.doomed ≠ 0 then dmaRun (dmaPut s k q1) k seq
      else if poison ≠ 0 then
        let o := ((q.offsets false r.2.1).find? (fun o => poison / 2 ^ (o / 64) % 2 == 1)).getD r.2.2.1
        dmaFault (dmaPut s k q1) k q1 0xA 0 (256 * r.2.1 + o) 0 0
      else
        let q2 := if r.2.2.2 then q1 else q1.take r.2.1 f
        let s := (match r.2.2.2, q.phys (256 * r.2.1) with
          | true, some (pa, leaf) => if eRem leaf && isRemote s pa then discardRem s k (lineKey s pa) else s
          | _, _ => s)
        dmaRun (retryFence (retryWb (dmaPut s k q2) k) k) k seq

end Sys2Proof.Machine
end

