-- ==== Sys2Proof/Machine/Matrix.lean ====
section
/-!
DEFINITION. The streaming path of the matrix array (03, 04): tile descriptors, the matrix queue, validation, the weight loader, the
front, the accumulator, drains, and chains of cores.
-/
namespace Sys2Proof.Machine

namespace State

def updMx (s : State) (k : Nat) (f : Matrix → Matrix) : State := s.updCore k (fun c => { c with mx := f c.mx })

end State

/-- A tile descriptor index: the low 3 bits of a field whose upper 3 bits are reserved (R165). -/
def mtIndexOk (f : BitVec 6) : Bool := f.toNat / 8 == 0

def mxLegal (o : RrrOp) (rd ra rb : Bool) : Bool := isCc o.face && !o.w && (rd || o.rd == 0) && (ra || o.ra == 0) && (rb || o.rb == 0)

/-- R165 MT.WR. -/
def execMtWr (o : RrrOp) (s : State) : Out :=
  issue s o.core o.face 4 (mxLegal o true true true && mtIndexOk o.rd) [⟨o.ra.toNat, 1, false⟩, ⟨o.rb.toNat, 1, false⟩] (fun g s =>
    let c := s.core g.k
    let d : W128 := BitVec.ofNat 128 ((c.sreg o.ra.toNat).toNat + 2 ^ 64 * (c.sreg o.rb.toNat).toNat)
    .ok (s.updMx g.k (fun m => { m with mt := tset 0 m.mt (o.rd.toNat % 8) d })))

/-- MT.RDL and MT.RDH (R165). -/
def mtRead (o : RrrOp) (hi : Bool) (s : State) : Out :=
  issue s o.core o.face 4 (mxLegal o true true false && mtIndexOk o.ra) [⟨o.rd.toNat, 1, true⟩] (fun g s =>
    let d := tget 0#128 (s.core g.k).mx.mt (o.ra.toNat % 8)
    .ok (wrReg s g 0 o.rd.toNat true (BitVec.ofNat 64 (if hi then d.toNat / 2 ^ 64 else d.toNat))))

/-- R165 MT.RDL. -/
def execMtRdl (o : RrrOp) (s : State) : Out := mtRead o false s
/-- R165 MT.RDH. -/
def execMtRdh (o : RrrOp) (s : State) : Out := mtRead o true s

/-- The members of the chain that core `k` is configured in, head first (R90). -/
def chainOf (s : State) (k : Nat) : Option (List Nat) :=
  let w := (s.core k).mx.chain
  let h := fld w 5 3
  let t := fld w 2 0
  if bit w 31 ∧ h < t ∧ h ≤ k % 8 ∧ k % 8 ≤ t then some ((List.range (t - h + 1)).map (fun i => k / 8 * 8 + h + i)) else none

/-- A fresh entry of the matrix queue (R66, R67). -/
def MxCmd.fresh (ord : Nat) (drain : Bool) (desc : W128) (pc : W64) (map : W32) (step : Nat) : MxCmd where
  ord := ord
  drain := drain
  desc := desc
  pc := pc
  map := map
  step := step
  agreed := false
  wide := !drain && accWide (mtX desc)
  go := false
  state := .queued
  bands := 0
  wimg := []
  wexp := []
  ximg := []
  xslots := []
  vec := 0
  xrel := 0
  row := 0
  fronted := false

/-- Put a command in the matrix queue, or wait for a free entry (R67). -/
def mxEnter (g : Grp) (drain : Bool) (desc : W128) (s : State) : Did :=
  match orderBlock s g.k .cc with
  | some w => .wait w
  | none =>
    let c := s.core g.k
    if 16 ≤ c.mx.queue.length then .wait .queue
    else
      let member := (chainOf s g.k).isSome && !drain
      let (ord, s) := s.newId
      .ok (s.updMx g.k (fun m => { m with
        stepIn := if member then m.stepIn + 1 else m.stepIn
        queue := m.queue ++ [MxCmd.fresh ord drain desc g.pc c.sp.pmap (if member then m.stepIn + 1 else 0)] }))

/-- R66 PASS. -/
def execMxPass (o : RrrOp) (s : State) : Out :=
  issue s o.core o.face 4 (mxLegal o true false false && mtIndexOk o.rd) [] (fun g s =>
    mxEnter g false (tget 0#128 (s.core g.k).mx.mt (o.rd.toNat % 8)) s)

/-- R166 DRAIN. The reserved bits of its two words are not looked at (log 15). -/
def execMxDrain (o : RrrOp) (s : State) : Out :=
  let w (s : State) (r : BitVec 6) : W64 := (s.core o.core).sreg r.toNat
  issue s o.core o.face 4 (mxLegal o false true true)
    [⟨o.ra.toNat, 1, false⟩, ⟨o.rb.toNat, 1, false⟩] (fun g s =>
      mxEnter g true (BitVec.ofNat 128 ((w s o.ra).toNat + 2 ^ 64 * (w s o.rb).toNat)) s)

/-- Slot rows of `n` accumulator rows from `base` up (R73). -/
def slotRows (wide : Bool) (base n : Nat) : List Nat := (List.range (if wide then 2 * n else n)).map (base + ·)

/-- A pass that writes the accumulator bank: START or MERGE. -/
def MxCmd.toAcc (q : MxCmd) : Bool := !q.drain && mtAccMode q.desc != 2

def MxCmd.rows (q : MxCmd) : List Nat :=
  if q.drain then slotRows q.wide (drAcc q.desc) (drRows q.desc)
  else if q.toAcc then slotRows q.wide (mtAcc q.desc) (mtM q.desc) else []

/-- Slot rows that a drain has still to read, and those that a pass has still to write. -/
def MxCmd.unread (q : MxCmd) : List Nat :=
  if q.drain then slotRows q.wide (drAcc q.desc + (if q.wide then 2 * q.row else q.row)) (drRows q.desc - q.row) else []
def MxCmd.unwritten (q : MxCmd) : List Nat :=
  if q.toAcc then slotRows q.wide (mtAcc q.desc + (if q.wide then 2 * q.vec else q.vec)) (mtM q.desc - q.vec) else []

def meets (a b : List Nat) : Bool := a.any (fun r => b.contains r)

/-- The pair-format tag of a slot row after the commands before entry `i` of the queue (R74): true for P64x2. -/
def tagSeen (m : Matrix) (i row : Nat) : Bool :=
  (m.queue.take i).foldl (fun t q =>
    if q.toAcc && mtAccMode q.desc == 0 && q.state != .queued && q.rows.contains row then q.wide else t) (tget false m.tags row)

/-- The first byte of a run that is not in a group of a class in the map. -/
def Run.badClass (r : Run) (m : W32) (cls : Nat) : Option Nat :=
  if r.size = 0 then none else (List.range r.count).findSome? (fun (i : Nat) => wrongClass m cls (r.base + i * r.step).toNat r.size)

/-- Every byte of a run lies within the 2 MiB. -/
def Run.fits (r : Run) : Bool :=
  r.size == 0 || r.count == 0 || decide (r.base + ((r.count - 1 : Nat) : Int) * r.step + (r.size : Int) ≤ (2 ^ 21 : Nat))

/-- W image, W exponents and X image of a pass (R65). -/
def wRun (d : W128) : Run := ⟨false, ((64 * mtWAddr d : Nat) : Int), (64 * mtWStride d : Nat), wColBytes d, 128, false⟩
def wExpRun (d : W128) : Run := ⟨false, ((64 * mtWs d : Nat) : Int), 1, 128 * wColExps d, min 1 (wColExps d), false⟩
def xRun (d : W128) : Run := ⟨false, ((64 * mtXAddr d : Nat) : Int), (64 * mtXStride d : Nat), 64 * xSlots d, mtM d, false⟩

/-- The ring rules of R220 that cause 0x4 reports. -/
def xRingBad (sp : Scratch) (d : W128) : Bool :=
  let r := mtRing d
  let n := xSlots d
  !ringValid sp r || ringStride sp r != 1 || decide (ringSize sp r < mtM d * n) || ringSize sp r % n != 0 || ringHead sp r % n != 0

/-- Whether the modes of a pass are those of its core's place in a chain (R92). -/
def chainRoleOk (s : State) (k : Nat) (d : W128) : Bool :=
  match chainOf s k with
  | none => mtAccMode d != 2 && mtTop d != 1
  | some ms =>
    if ms.head? == some k then mtAccMode d == 2 && mtTop d == 0
    else if ms.getLast? == some k then (mtAccMode d == 0 || mtAccMode d == 1) && mtTop d == 1
    else mtAccMode d == 2 && mtTop d == 1

/-- Validation of the pass at place `i` of the queue (R65, R88, R92, R220): the cause of its rejection, and for cause 0x8 the
first offending byte. -/
def passBad (s : State) (k i : Nat) (q : MxCmd) : Option (Nat × Nat) :=
  let c := s.core k
  let d := q.desc
  let x := mtX d
  let w := mtW d
  let acc := mtAccMode d != 2
  if !(fmtOk x && fmtOk w) then some (2, 0)
  else if mtAccMode d = 3 ∨ 2 ≤ mtTop d then some (6, 0)
  else if !pairAccepted x w || (q.wide && (mtAccMode d == 2 || mtTop d == 1)) then some (1, 0)
  else if !chainRoleOk s k d then some (7, 0)
  else if mtM d = 0 ∨ 256 < mtM d ∨ (q.wide ∧ 128 < mtM d) ∨
      (acc ∧ ((q.wide ∧ mtAcc d % 2 = 1) ∨ 256 < mtAcc d + (if q.wide then 2 * mtM d else mtM d))) then some (3, 0)
  else if mtRows d = 0 ∨ 128 < mtRows d ∨ (isBlock x ∧ mtRows d % geomGroup x w ≠ 0) ∨ (mtImage d ∧ mtXStride d = 0) ∨
      mtWStride d = 0 ∨ !((wRun d).fits && (wExpRun d).fits) ∨ (mtImage d ∧ !(xRun d).fits) ∨
      (!mtImage d ∧ xRingBad c.sp d) then some (4, 0)
  else if mtAccMode d = 1 ∧ q.rows.any (fun r => tagSeen c.mx i r != q.wide) then some (5, 0)
  else
    let xBad : Option Nat :=
      if mtImage d then (xRun d).badClass q.map clsM
      else (xRingSlots c.sp d).findSome? (fun t => wrongClass q.map clsM (64 * t) 64)
    match (wRun d).badClass q.map clsM, (wExpRun d).badClass q.map clsM, xBad with
    | some a, _, _ => some (8, a)
    | none, some a, _ => some (8, a)
    | none, none, some a => some (8, a)
    | none, none, none => none

/-- Element and exponent destinations of a drain. -/
def drRun (d : W128) : Run :=
  ⟨false, ((64 * drDst d : Nat) : Int), (64 * drStride d : Nat), drRowBytes d, drRows d, true⟩
def drExpRun (d : W128) : Run := ⟨false, ((64 * drDs d : Nat) : Int), 1, drRowExps d * drRows d, 1, true⟩

/-- Whether the exponent bytes of a drain share a byte with its elements. -/
def drOverlap (d : W128) : Bool :=
  let e := drRowExps d * drRows d
  e != 0 && (List.range (drRows d)).any (fun i =>
    let a := 64 * drDst d + 64 * drStride d * i
    decide (a < 64 * drDs d + e) && decide (64 * drDs d < a + drRowBytes d))

/-- The checks of a drain at place `i` (R74, R76, R78, R88, R166). -/
def drainBad (c : Core) (i : Nat) (q : MxCmd) : Option Nat :=
  let d := q.desc
  let wide := tagSeen c.mx i (drAcc d)
  let rows := slotRows wide (drAcc d) (drRows d)
  if !fmtOk (drFmt d) then some 2
  else if drRows d = 0 ∨ 256 < drRows d ∨ (wide ∧ drAcc d % 2 = 1) ∨ 256 < drAcc d + rows.length then some 3
  else if rows.any (fun r => tagSeen c.mx i r != wide) then some 5
  else if drStride d = 0 ∨ !(drRun d).fits ∨ ((drRun d).badClass q.map clsV).isSome ∨
      (isBlock (drFmt d) ∧ (!(drExpRun d).fits ∨ ((drExpRun d).badClass q.map clsV).isSome ∨ drOverlap d)) then some 9
  else none

/-- MX_FAULT takes the first rejected command (R88). -/
def noteMx (s : State) (k cause : Nat) (q : MxCmd) : State :=
  s.updMx k (fun m =>
    if bit m.fault 31 then m
    else { m with fault := at_ 31 1 ||| at_ 24 cause ||| at_ 16 (b2n q.drain) ||| at_ 0 (if q.drain then 0 else mtTag q.desc) })

/-- Discard entry `i` of the queue and everything after it (R89). -/
def cutQueue (s : State) (k i : Nat) : State := s.updMx k (fun m => { m with queue := m.queue.take i })

/-- A matrix fault of core `k` (R89, R132). -/
def mxFault (s : State) (k code : Nat) (q : MxCmd) : State := faultCore s k code 2 0 0 0 q.pc 0

/-- The entries of step `n` in the queues of the other members of the chain (log 110). -/
def stepMates (s : State) (k n : Nat) : List (Nat × Nat × MxCmd) :=
  if n = 0 then []
  else ((chainOf s k).getD []).filterMap (fun j =>
    if j = k then none
    else
      let qs := (s.core j).mx.queue
      let i := qs.findIdx (fun q => q.step == n && !q.drain)
      (qs[i]?).map (fun q => (j, i, q)))

/-- Reject entry `i`: the command and every later one are discarded; on a chain every other member of the step records cause 0x7
(R93); the fault tears the context down (R89). -/
def mxReject (s : State) (k i cause addr : Nat) (q : MxCmd) : State :=
  let mates := stepMates s k q.step
  let s := cutQueue (noteMx s k cause q) k i
  let s := mates.foldl (fun s e => cutQueue (noteMx s e.1 7 e.2.2) e.1 e.2.1) s
  let s := if cause = 8 then spFault s k (if 2 ^ 21 ≤ addr then 2 else 1) clsM (spGroup addr) 0 addr else s
  let s := mxFault s k (if cause = 8 then 7 else 0x0A) q
  mates.foldl (fun s e => mxFault s e.1 0x0A e.2.2) s

/-- The first drain that has not been checked although every command before it has passed its checks (R74). -/
def nextCheck : List MxCmd → Nat → Option (Nat × MxCmd)
  | [], _ => none
  | q :: r, i =>
    if q.drain then (if q.agreed then nextCheck r (i + 1) else some (i, q))
    else if q.state == .queued then none
    else nextCheck r (i + 1)

/-- Check the drains that are due, in queue order; `none` where one was rejected, with the state after it. -/
def drainChecks (k : Nat) : Nat → State → State × Bool
  | 0, s => (s, true)
  | n + 1, s =>
    let c := s.core k
    match nextCheck c.mx.queue 0 with
    | none => (s, true)
    | some (i, q) =>
      match drainBad c i q with
      | some cause => (mxReject s k i cause 0 q, false)
      | none =>
        let q := { q with agreed := true, wide := tagSeen c.mx i (drAcc q.desc) }
        drainChecks k n (s.updMx k (fun m => { m with queue := m.queue.set i q }))

/-- The first pass whose front has not started, with its place. -/
def nextPass (c : Core) : Option (Nat × MxCmd) :=
  let i := c.mx.queue.findIdx (fun q => !q.drain && !q.fronted)
  (c.mx.queue[i]?).map (fun q => (i, q))

def putMx (s : State) (k i : Nat) (q : MxCmd) : State := s.updMx k (fun m => { m with queue := m.queue.set i q })

/-- R72 PASS_VALIDATE: the oldest pass not yet running is validated and enters LOADING. -/
def execPassValidate (k : Fin 256) (s : State) : Out :=
  if !coreRuns s k.val then .next s
  else match drainChecks k.val 17 s with
    | (s, false) => .next s
    | (s, true) =>
      match nextPass (s.core k.val) with
      | none => .next s
      | some (i, q) =>
        if q.state ≠ .queued then .next s
        else match passBad s k.val i q with
          | some (cause, addr) => .next (mxReject s k.val i cause addr q)
          | none => .next (putMx s k.val i { q with state := .loading })

/-- Whether a run of reads or writes of command `q` has to wait: for an access issued before (R255), or for a group in transit
under another map (R210). -/
def runWaits (s : State) (k : Nat) (q : MxCmd) (r : Run) : Bool :=
  r.size != 0 && (List.range r.count).any (fun (i : Nat) =>
    let a := (r.base + i * r.step).toNat
    transitBlock (s.core k).sp q.map a r.size || heldSp s k q.ord false q.map a r.size r.wr)

/-- A pass waits that may start its front as far as its state goes. -/
def readyPass (m : Matrix) : Bool := m.queue.any (fun q => !q.drain && !q.fronted && q.state == .ready)

/-- Collectives wait, and STREAM_RUN fronts have started since the array last left SECTIONS: it has to spend a window there (R83). -/
def Matrix.yields (m : Matrix) : Bool :=
  let stop := fld m.arb 31 24
  !m.converged.isEmpty && stop != 0 && decide (stop ≤ m.run)

/-- The array leaves SECTIONS or TO_STREAM for STREAM where it may (R83): a READY pass ends SECTIONS outside a yield window, and
TO_STREAM ends when no section is busy; SECTIONS without work is left for IDLE. -/
def Matrix.settle (m : Matrix) : Matrix :=
  let m := if m.window && m.converged.isEmpty then { m with window := false } else m
  match m.mode with
  | .idle => if readyPass m then { m with mode := .stream, run := m.run } else m
  | .sections =>
    if readyPass m then
      if m.window then m else if m.sections.isEmpty then { m with mode := .stream, run := 0 } else { m with mode := .toStream, run := 0 }
    else if m.sections.isEmpty && m.converged.isEmpty then { m with mode := .idle, run := 0 } else m
  | .toStream => if m.sections.isEmpty then { m with mode := .stream } else m
  | .stream => m

/-- Byte `off` of the W image of column `n` goes to shadow byte 1024 n + off, exponent h to 32 n + h. -/
def loadBand (sp : Scratch) (d : W128) (j : Nat) (q : MxCmd) : MxCmd :=
  let n := min 64 (wColBytes d - 64 * j)
  let w := (List.range 128).foldl (fun w c =>
    mwriteBytes w (1024 * c + 64 * j) (mbytes sp.data (64 * mtWAddr d + 64 * mtWStride d * c + 64 * j) n)) q.wimg
  let e := if j = 0 then (List.range 128).foldl (fun e c =>
    mwriteBytes e (32 * c) (mbytes sp.data (64 * mtWs d + wColExps d * c) (wColExps d))) q.wexp else q.wexp
  { q with wimg := w, wexp := e, bands := j + 1 }

/-- R69 WEIGHT_BAND_WRITE: the next band of the loading pass is read and written to the shadow registers; after the last one the
pass is READY (R72, R83). -/
def execWeightBandWrite (k : Fin 256) (s : State) : Out :=
  if !coreRuns s k.val then .next s
  else match nextPass (s.core k.val) with
    | none => .next s
    | some (i, q) =>
      if q.state ≠ .loading then .next s
      else
        let d := q.desc
        let j := q.bands
        let band : Run := ⟨false, ((64 * mtWAddr d + 64 * j : Nat) : Int), (64 * mtWStride d : Nat), min 64 (wColBytes d - 64 * j), 128, false⟩
        if runWaits s k.val q band || (j == 0 && runWaits s k.val q (wExpRun d)) then .next s
        else
          let q := loadBand (s.core k.val).sp d j q
          if 64 * q.bands < wColBytes d then .next (putMx s k.val i q)
          else .next ((putMx s k.val i { q with state := .ready }).updMx k.val Matrix.settle)

/-- Cost of a pass in budget units (R516). -/
def passCost (d : W128) : Nat := ceilDiv (geomR (mtX d) * mtM d * mtRows d) 128

/-- The whole budget of a core in the present period (R515). -/
def wholeBudget (s : State) (k : Nat) : Nat := tget 4096 s.pwr.gatePrev (dieOfCore k) * s.bcn.period * 1100 / 4096

/-- R516: whether the governor admits a pass start. `big` says that the period's whole-budget rule applies to the start. -/
def admitsPass (s : State) (k : Nat) (big : Bool) (d : W128) : Bool :=
  let b := s.budget k
  if big then !b.spent else decide (passCost d ≤ b.mx)

def chargePass (s : State) (k : Nat) (d : W128) : State :=
  let b := s.budget k
  let cost := passCost d
  s.setBudget k { b with mx := b.mx - cost, carry := b.carry + (cost - b.mx), spent := true }

/-- The pass costs more than the core's whole budget. -/
def bigPass (s : State) (k : Nat) (d : W128) : Bool := decide (wholeBudget s k < passCost d)

/-- A drain that has not started and whose destination is held or in transit. -/
def drainHeld (s : State) (k : Nat) (e : MxCmd) : Bool :=
  e.drain && e.state == .queued && (runWaits s k e (drRun e.desc) || runWaits s k e (drExpRun e.desc))

/-- A drain before place `i` whose rows the pass will write cannot run on by itself (R59, R68): it or a drain before it, which must write
first, is held. -/
def drainStuck (s : State) (k i : Nat) (q : MxCmd) : Bool :=
  let before := (s.core k).mx.queue.take i
  (List.range i).any (fun j => ((before[j]?).any (fun e => meets e.unread q.unwritten)) && (before.take (j + 1)).any (drainHeld s k))

/-- A pass behind place `i` whose front has started waits for the drain there, or for one after it (R59, R68): that drain starts even after
a pre-emption, so that the pass runs to completion (R85; log 79). -/
def drainOwed (m : Matrix) (i : Nat) : Bool :=
  (List.range m.queue.length).any (fun j => (m.queue[j]?).any (fun q => q.fronted &&
    ((m.queue.take j).drop i).any (fun e => meets e.unread q.unwritten)))

/-- A started drain waits for a row of an earlier pass whose front has not started. -/
def drainParted (m : Matrix) (i : Nat) (q : MxCmd) : Bool :=
  (m.queue.take i).any (fun e => e.toAcc && !e.fronted && !e.go && meets q.unread e.unwritten)

/-- The conditions of R71, but for the governor's and the chain's. -/
def frontReady (s : State) (k i : Nat) (q : MxCmd) : Bool :=
  let c := s.core k
  let m := c.mx
  q.state == .ready && m.mode == .stream &&
    (m.queue.take i).all (fun e => e.drain || e.state == .flushing) &&
    !m.yields &&
    !drainStuck s k i q &&
    (if mtImage q.desc then !runWaits s k q (xRun q.desc)
     else (xRingSlots c.sp q.desc).all (fun t => isFull c.sp t && !slotTaken c.sp t && !inTransit c.sp q.map (slotGroup t))) &&
    !([wRun q.desc, wExpRun q.desc].any (fun r => r.size != 0 && (List.range r.count).any (fun (j : Nat) =>
      transitBlock c.sp q.map (r.base + j * r.step).toNat r.size)))

/-- The X records of a pass, byte b of record m at 2048 m + b. -/
def takeX (sp : Scratch) (d : W128) : Memory × List Nat × Scratch :=
  let n := xSlots d
  if mtImage d then
    ((List.range (mtM d)).foldl (fun x m =>
      mwriteBytes x (2048 * m) (mbytes sp.data (64 * mtXAddr d + 64 * mtXStride d * m) (64 * n))) [], [], sp)
  else
    let slots := xRingSlots sp d
    let img := ((List.range slots.length).zip slots).foldl (fun x e =>
      mwriteBytes x (2048 * (e.1 / n) + 64 * (e.1 % n)) (mbytes sp.data (64 * e.2) 64)) []
    (img, slots, (List.range slots.length).foldl (fun sp _ => sp.take (mtRing d) false) sp)

/-- The weight front of a pass starts (R71): the shadow weights become active, the X records are taken (R219). -/
def startFront (s : State) (k i : Nat) (q : MxCmd) : State :=
  let (img, slots, sp) := takeX (s.core k).sp q.desc
  let s := s.updSp k (fun _ => sp)
  let s := putMx s k i { q with state := .running, fronted := true, ximg := img, xslots := slots }
  let s := s.updMx k (fun m => { m with run := m.run + 1 })
  let (t, s) := s.free
  s.emit (dieOfCore k) 1 k (((s.core k).ctx.map Prod.fst).getD 0xFFF) (mtTag q.desc) (BitVec.ofNat 64 (mtM q.desc)) t

/-- R71 WEIGHT_FRONT_START. A chain member's front starts with its step only (R94). -/
def execWeightFrontStart (k : Fin 256) (s : State) : Out :=
  if !coreRuns s k.val then .next s
  else match drainChecks k.val 17 s with
    | (s, false) => .next s
    | (s, true) =>
      match nextPass (s.core k.val) with
      | none => .next s
      | some (i, q) =>
        if q.step = 0 ∧ frontReady s k.val i q ∧ admitsPass s k.val (bigPass s k.val q.desc) q.desc then
          .next (startFront (chargePass s k.val q.desc) k.val i q)
        else .next s

/-- The first entry that meets `p`, with its place. -/
def findMx (c : Core) (p : MxCmd → Bool) : Option (Nat × MxCmd) :=
  let i := c.mx.queue.findIdx p
  (c.mx.queue[i]?).map (fun q => (i, q))

/-- R72 PASS_LAST_VECTOR: row 0 has driven vector M − 1. -/
def execPassLastVector (k : Fin 256) (s : State) : Out :=
  match findMx (s.core k.val) (fun q => !q.drain && q.state == .running) with
  | none => .next s
  | some (i, q) => .next (putMx s k.val i { q with state := .flushing })

/-- Element `i` of packed elements from byte `a` up (R24, R30). -/
def packedElem (m : Memory) (a fmt i : Nat) : Nat :=
  let b := ebits fmt
  if b < 8 then (mget m (a + i * b / 8)).toNat / 2 ^ (i * b % 8) % 2 ^ b else mread m (a + i * (b / 8)) (b / 8)

/-- column_result of R61 over `n` reduction indices: elements and block exponents by index, from the pair that enters at the
top. -/
def columnResult (xf wf n : Nat) (x w ex ew : Nat → Nat) (top : Nat) : Nat × Flags :=
  let f := accFmt (accWide xf)
  let gs := geomGroup xf wf * geomD xf wf
  (List.range (ceilDiv n gs)).foldl (fun (acc : Nat × Flags) i =>
    let len := min gs (n - i * gs)
    let (v, f1) := groupSum xf wf (ex i) (ew i) ((List.range len).map (fun j => (x (i * gs + j), w (i * gs + j))))
    let (p, f2) := splitNum f v
    let (r, f3) := pairMerge f acc.1 p
    (r, acc.2 ||| f1 ||| f2 ||| f3)) (top, 0)

/-- The result of column `n` for vector `m` of a pass. -/
def passColumn (q : MxCmd) (m n top : Nat) : Nat × Flags :=
  let d := q.desc
  columnResult (mtX d) (mtW d) (mtK d) (fun i => packedElem q.ximg (2048 * m) (mtX d) i)
    (fun i => packedElem q.wimg (1024 * n) (mtW d) i)
    (fun h => (mget q.ximg (2048 * m + 64 * (xSlots d - 1) + h)).toNat) (fun h => (mget q.wexp (32 * n + h)).toNat) top

/-- The pair in an accumulator row (R73). -/
def accPair (m : Matrix) (wide : Bool) (row n : Nat) : Nat :=
  (tget 0#64 m.acc (128 * row + n)).toNat + (if wide then 2 ^ 64 * (tget 0#64 m.acc (128 * (row + 1) + n)).toNat else 0)

def setAccPair (m : Matrix) (wide : Bool) (row n v : Nat) : Matrix :=
  let a := tset 0#64 m.acc (128 * row + n) (BitVec.ofNat 64 v)
  { m with acc := if wide then tset 0#64 a (128 * (row + 1) + n) (BitVec.ofNat 64 (v / 2 ^ 64)) else a }

/-- Key of a chain value on the link: step, vector, column. -/
def linkKey (step m n : Nat) : Nat := step * 2 ^ 15 + 128 * m + n

/-- The slot row where vector `m` of a pass goes. -/
def MxCmd.rowOf (q : MxCmd) (m : Nat) : Nat := mtAcc q.desc + (if q.wide then 2 * m else m)

/-- Apply column `n` of vector `m` to the accumulator (R63), or send it to the next member (R95). -/
def applyColumn (k m n : Nat) (q : MxCmd) (s : State) : State :=
  let mx := (s.core k).mx
  let f := accFmt q.wide
  let key := linkKey q.step m n
  let top := if mtTop q.desc = 1 then (tget 0#64 mx.link key).toNat else 0
  let (r, f1) := passColumn q m n top
  let s := if mtTop q.desc = 1 then s.updMx k (fun x => { x with link := tdel x.link key }) else s
  match mtAccMode q.desc with
  | 0 => (raiseMx s k f1).updMx k (fun x => setAccPair x q.wide (q.rowOf m) n r)
  | 1 =>
    let (v, f2) := pairMerge f (accPair mx q.wide (q.rowOf m) n) r
    (raiseMx s k (f1 ||| f2)).updMx k (fun x => setAccPair x q.wide (q.rowOf m) n v)
  | _ => (raiseMx s k f1).updMx (k + 1) (fun x => { x with link := tput x.link key (BitVec.ofNat 64 r) })

/-- R63 ACCUMULATOR_WRITE: the next vector of the oldest pass in the array leaves row 127 and enters the accumulator. -/
def execAccumulatorWrite (k : Fin 256) (s : State) : Out :=
  match findMx (s.core k.val) (fun q => !q.drain && q.fronted && decide (q.vec < mtM q.desc)) with
  | none => .next s
  | some (i, q) =>
    let c := s.core k.val
    let m := q.vec
    let rows := if q.toAcc then slotRows q.wide (q.rowOf m) 1 else []
    let unread := (c.mx.queue.take i).any (fun e => meets rows e.unread)
    let late := mtTop q.desc == 1 && (tfind c.mx.link (linkKey q.step m 127)).isNone
    if unread || late then .next s
    else
      let s := (List.range 128).foldl (fun s n => applyColumn k.val m n q s) s
      .next ((putMx s k.val i { q with vec := m + 1 }).bumpCore k.val 7 1 (128 * mtK q.desc))

/-- R60 X_RECORD_RELEASE: the slots of the next X record go back to the producer side. -/
def execXRecordRelease (k : Fin 256) (s : State) : Out :=
  match findMx (s.core k.val) (fun q => !q.drain && q.fronted && !q.xslots.isEmpty && decide (q.xrel < mtM q.desc)) with
  | none => .next s
  | some (i, q) =>
    let n := xSlots q.desc
    let slots := (q.xslots.drop (q.xrel * n)).take n
    .next (putMx (s.updSp k.val (fun sp => slots.foldl Scratch.giveBack sp)) k.val i { q with xrel := q.xrel + 1 })

/-- R72 PASS_DONE: the last accumulator row holds its value, and the entry frees. -/
def execPassDone (k : Fin 256) (s : State) : Out :=
  match findMx (s.core k.val) (fun q => !q.drain && q.fronted) with
  | none => .next s
  | some (i, q) =>
    if q.state ≠ .flushing ∨ q.vec < mtM q.desc ∨ (!q.xslots.isEmpty ∧ q.xrel < mtM q.desc) then .next s
    else
      let s := s.updMx k.val (fun m => { m with
        queue := m.queue.eraseIdx i
        tags := if q.toAcc && mtAccMode q.desc == 0 then q.rows.foldl (fun t r => tset false t r q.wide) m.tags else m.tags })
      let (t, s) := s.free
      let s := s.emit (dieOfCore k.val) 2 k.val (((s.core k.val).ctx.map Prod.fst).getD 0xFFF) (mtTag q.desc)
        (BitVec.ofNat 64 (mtM q.desc)) t
      .next (wakeCore (s.working k.val) k.val)

/-- One output row of a drain (R77): element bits, block exponents and flags. -/
def drainRow (m : Matrix) (wide : Bool) (d : W128) (row : Nat) : List Nat × List Nat × Flags :=
  let src := if wide then 0x19 else 0x18
  let dst := drFmt d
  let xs := (drColumns d).map (fun n => accPair m wide row n)
  if isBlock dst then
    let b := blockSize dst
    (List.range (xs.length / b)).foldl (fun (o : List Nat × List Nat × Flags) j =>
      let (e, bits, fl) := convBlock src dst (drRm d) (((xs.drop (j * b)).take b).map (pairNum (accFmt wide)))
      (o.1 ++ bits, o.2.1 ++ [e], o.2.2 ||| fl)) ([], [], 0)
  else
    let rs := xs.map (convOne src dst (drRm d) (drSat d))
    (rs.map Prod.fst, [], (rs.map Prod.snd).foldl (· ||| ·) 0)

/-- Elements packed in index order (R24, R30). -/
def packBits (b : Nat) : List Nat → Nat
  | [] => 0
  | x :: r => x % 2 ^ b + 2 ^ b * packBits b r

/-- R78 DRAIN_ROW_WRITE: the oldest drain writes its next output row. -/
def execDrainRowWrite (k : Fin 256) (s : State) : Out :=
  match drainChecks k.val (if coreRuns s k.val then 17 else 0) s with
  | (s, false) => .next s
  | (s, true) =>
    match findMx (s.core k.val) (fun q => q.drain) with
    | none => .next s
    | some (i, q) =>
      let c := s.core k.val
      let d := q.desc
      let slot := drAcc d + (if q.wide then 2 * q.row else q.row)
      let rows := slotRows q.wide slot 1
      let early := (c.mx.queue.take i).any (fun e => meets rows e.unwritten)
      let first := q.state == .queued
      if !q.agreed || early || (first && (!(coreRuns s k.val || drainOwed c.mx i) || drainHeld s k.val q)) then
        .next s
      else
        let (bits, exps, fl) := drainRow c.mx q.wide d slot
        let a := 64 * drDst d + 64 * drStride d * q.row
        let s := s.updSp k.val (fun sp =>
          let sp := sp.write a (drRowBytes d) (packBits (ebits (drFmt d)) bits)
          { sp with data := mwriteBytes sp.data (64 * drDs d + drRowExps d * q.row) (exps.map (BitVec.ofNat 8)) })
        let s := raiseMx s k.val fl
        if q.row + 1 < drRows d then .next (putMx s k.val i { q with state := .running, row := q.row + 1 })
        else .next (wakeCore ((s.working k.val).updMx k.val (fun m => { m with queue := m.queue.eraseIdx i })) k.val)

/-- R83 ARRAY_STREAM_EXIT: the last sum of the last started pass has left row 127, and no pass is READY or the array yields. -/
def execArrayStreamExit (k : Fin 256) (s : State) : Out :=
  let m := (s.core k.val).mx
  if m.mode ≠ .stream ∨ m.queue.any (fun q => !q.drain && (q.fronted || q.go) && decide (q.vec < mtM q.desc)) ∨ (readyPass m ∧ !m.yields) then
    .next s
  else if !m.converged.isEmpty then .next (s.updMx k.val (fun m => { m with mode := .sections, window := m.yields }))
  else .next (s.updMx k.val (fun m => { m with mode := .idle }))

/-- R83 YIELD_WINDOW_END. -/
def execYieldWindowEnd (k : Fin 256) (s : State) : Out :=
  if !(s.core k.val).mx.window then .next s
  else .next (s.updMx k.val (fun m => Matrix.settle { m with window := false }))

/-- The passes of step `n` on every member, with their places; none where a member has none in its queue. -/
def stepOf (s : State) (k n : Nat) : Option (List (Nat × Nat × MxCmd)) :=
  match chainOf s k with
  | none => none
  | some ms =>
    let l := ms.filterMap (fun j => (findMx (s.core j) (fun q => !q.drain && q.step == n)).map (fun e => (j, e)))
    if l.length = ms.length then some l else none

/-- The first step of core `k` whose passes have not been compared. -/
def firstStep (s : State) (k : Nat) (p : MxCmd → Bool) : Option Nat :=
  (findMx (s.core k) (fun q => !q.drain && q.step != 0 && p q)).map (fun e => e.2.step)

/-- R93 CHAIN_STEP_COMPARE: when every member's pass of the step has passed validation, the passes must agree. -/
def execChainStepCompare (k : Fin 256) (s : State) : Out :=
  if !coreRuns s k.val then .next s
  else match (firstStep s k.val (fun q => !q.agreed)).bind (stepOf s k.val) with
    | none => .next s
    | some l =>
      if l.any (fun e => e.2.2.state == .queued) then .next s
      else
        let same (f : W128 → Nat) : Bool := l.all (fun e => l.all (fun g => f e.2.2.desc == f g.2.2.desc))
        if same mtX && same mtW && same mtM then
          .next (l.foldl (fun s e => putMx s e.1 e.2.1 { e.2.2 with agreed := true }) s)
        else
          let s := l.foldl (fun s e => cutQueue (noteMx s e.1 7 e.2.2) e.1 e.2.1) s
          .next (l.foldl (fun s e => mxFault s e.1 0x0A e.2.2) s)

/-- R94 CHAIN_STEP_START: every member's pass meets every condition, and the head's front starts. R72 has no member load a step before its
front of the step before has started, so a step waits for every member's preceding pass (log 80). -/
def execChainStepStart (k : Fin 256) (s : State) : Out :=
  if !coreRuns s k.val then .next s
  else match (firstStep s k.val (fun q => !q.fronted)).bind (stepOf s k.val) with
    | none => .next s
    | some l =>
      let big := l.any (fun e => bigPass s e.1 e.2.2.desc)
      if l.all (fun e => e.2.2.agreed && !e.2.2.go && !e.2.2.fronted && frontReady s e.1 e.2.1 e.2.2 &&
          admitsPass s e.1 big e.2.2.desc) then
        let s := l.foldl (fun s e => putMx (chargePass s e.1 e.2.2.desc) e.1 e.2.1 { e.2.2 with go := true }) s
        let s := s.bumpCluster (clusterOf k.val) 7 0xFFFF 1
        match l with
        | [] => .next s
        | e :: _ => .next (startFront s e.1 e.2.1 { e.2.2 with go := true })
      else .next s

/-- R94 CHAIN_MEMBER_FRONT_START: the front of the next member, after the one before it. -/
def execChainMemberFrontStart (k : Fin 256) (s : State) : Out :=
  match findMx (s.core k.val) (fun q => !q.drain && q.go && !q.fronted) with
  | none => .next s
  | some (i, q) =>
    let before := (s.core (k.val - 1)).mx.queue.any (fun e => !e.drain && e.step == q.step && e.go && !e.fronted)
    if before then .next s else .next (startFront s k.val i q)

end Sys2Proof.Machine
end

