-- ==== Sys2Proof/Machine/Control.lean ====
section
/-!
DEFINITION. Control instructions (06 R161–R164), caravan launch and wait (R111), kernel end (R112, R272), collectives (R118–R126,
R80–R83), and the retries of the tag wait list (R216).
-/
namespace Sys2Proof.Machine

/-- CTL: the register fields are reserved (R161). -/
def ctlLegal (o : RrrOp) : Bool := !o.w && o.rd == 0 && o.ra == 0 && o.rb == 0

/-- R161 NOP. -/
def execNop (o : RrrOp) (s : State) : Out := issue s o.core o.face 4 (ctlLegal o) [] (fun _ s => .ok s)

/-- R161 END: the control core stalls at its END until KERNEL_END. -/
def execCtlEnd (o : RrrOp) (s : State) : Out :=
  issue s o.core o.face 4 (ctlLegal o && isCc o.face) [] (fun g s =>
    .moved (s.updCore g.k (fun c => { c with kend := 1, wait := .kernelEnd })))

/-- Lanes of a caravan that are parked. -/
def Caravan.parked (x : Caravan) : List Nat := (List.range 32).filter (fun l => decide (x.state l = .parked))

/-- The collective-divergence fault (R124) of a group that exits, or parks at an address where the parked threads are not. -/
def divergeFault (s : State) (g : Grp) (exits : Bool) : Option State :=
  match g.cv with
  | none => none
  | some v =>
    let x := (s.core g.k).cv v
    if x.parked.isEmpty || (!exits && x.parkPc == g.pc) then none
    else some (faultCore s g.k 8 1 v (g.lanes.headD 0) (maskOf x.parked) g.pc x.parkPc)

/-- R161 EXIT. -/
def execExit (o : RrrOp) (s : State) : Out :=
  let legal := ctlLegal o && !isCc o.face
  match (mayIssue s o.core o.face legal []).bind (fun g => divergeFault s g true) with
  | some t => .next t
  | none => issue s o.core o.face 4 legal [] (fun g s =>
      .moved (wakeCore (setWait s g g.lanes .idle .none) g.k))

/-- R117 CV.YIELD. -/
def execCvYield (o : RrrOp) (s : State) : Out :=
  issue s o.core o.face 4 (ctlLegal o && !isCc o.face) [] (fun _ s => .yield s)

/-- The group's threads park at their instruction (R123). -/
def park (s : State) (g : Grp) (op : Option MmaOp) : State :=
  match g.cv with
  | none => s
  | some v => s.updCv g.k v (fun x => { x.setState g.lanes .parked .none with parkPc := g.pc, parkOp := op })

/-- R123 CV.CONV. -/
def execCvConv (o : RrrOp) (s : State) : Out :=
  let legal := ctlLegal o && !isCc o.face
  match (mayIssue s o.core o.face legal []).bind (fun g => divergeFault s g false) with
  | some t => .next t
  | none => issue s o.core o.face 4 legal [] (fun g s => .moved (park s g none))

/-- R162 BRK: a debug stop in a context with the debug attribute, an illegal instruction in any other. -/
def execBrk (o : RrrOp) (s : State) : Out :=
  issue s o.core o.face 4 (ctlLegal o) [] (fun g s =>
    match (s.core g.k).ctx with
    | some (n, _) => if bit ((s.ctx n).desc.headD 0) 61 then .moved (preempt s n true) else .fault 1 g.lanes 0
    | none => .fault 1 g.lanes 0)

/-- Caravans of a mask. -/
def maskCvs (m : W32) : List Nat := (List.range 32).filter (fun v => bit m v)

/-- A launched caravan (R111, R115). A collective of it that is still outstanding stays and writes its C later (log 83, DESIGN CHOICE). -/
def launchCv (x : Caravan) (v : Nat) (entry arg : W64) : Caravan :=
  let lanes := List.range 32
  let regs := lanes.foldl (fun (t : Tbl W32) l =>
    let t := tset 0 t (64 * l) (BitVec.ofNat 32 l)
    let t := tset 0 t (64 * l + 1) (BitVec.ofNat 32 v)
    tset 0 (tset 0 t (64 * l + 2) (arg.setWidth 32)) (64 * l + 3) (BitVec.ofNat 32 (arg.toNat / 2 ^ 32))) []
  let x := { x with regs := regs, pcs := lanes.foldl (fun t l => tset 0 t l entry) [], served := 0, parkPc := 0, parkOp := none }
  x.setState lanes .ready .none

/-- R111 CV.LAUNCH. Bits [1:0] of the entry address are cleared as those of a jump target are (R136; log 84, DEDUCED). -/
def execCvLaunch (o : LaunchOp) (s : State) : Out :=
  issue s o.core o.face 4 (isCc o.face && o.fn == 0)
    [⟨o.rd.toNat, 1, false⟩, ⟨o.ra.toNat, 1, false⟩, ⟨o.rb.toNat, 1, false⟩] (fun g s =>
      let c := s.core g.k
      let vs := maskCvs ((c.sreg o.rd.toNat).setWidth 32)
      if vs.any (fun v => !(c.cv v).isIdle) then .fault 1 [0] 0
      else
        let entry := target (c.sreg o.ra.toNat)
        let arg := c.sreg o.rb.toNat
        .ok (vs.foldl (fun s v => s.updCv g.k v (fun x => launchCv x v entry arg)) s))

/-- R111 CV.WAIT. -/
def execCvWait (o : LaunchOp) (s : State) : Out :=
  issue s o.core o.face 4 (isCc o.face && o.fn == 0 && o.rd == 0 && o.rb == 0) [⟨o.ra.toNat, 1, false⟩] (fun g s =>
    let c := s.core g.k
    if (maskCvs ((c.sreg o.ra.toNat).setWidth 32)).all (fun v => (c.cv v).isIdle) then .ok s else .wait .caravans)

/-- Caravans idle and the three queues empty (R112). -/
def coreDrained (c : Core) : Bool :=
  c.cvs.all (fun e => e.2.isIdle) && c.mx.queue.isEmpty && c.ve.queue.isEmpty && c.ve.chans.isEmpty &&
    c.dma.queue.isEmpty

/-- Lines of other modules that are dirty in the core's L1 (R258). -/
def dirtyKeys (s : State) (k : Nat) : List Nat := (remKeys s k).filter (fun key => dirtyRem s k key)

/-- Steps 1 and 2 of R272: write back dirty remote-attribute sectors, and read behind the last host store of each face and
channel. -/
def flushCore (s : State) (k : Nat) : State :=
  let s := (dirtyKeys s k).foldl (fun s key => flushLine s k key) (retryFence (retryWb s k) k)
  [0, 1, 2, 3].foldl (fun s f => fenceFace s k f) s

/-- Every transaction of the core has its response (R112). -/
def coreQuiet (s : State) (k : Nat) : Bool :=
  let c := s.core k
  c.acc.isEmpty && c.hostSt.isEmpty && c.wbs.isEmpty && (dirtyKeys s k).isEmpty &&
    !(s.mem.fab.any (fun t => match t.owner with
      | .access j _ => j == k
      | .dma j _ _ => j == k
      | .wb j => j == k
      | _ => false)) &&
    !(s.mem.hostRd.any (fun h => match h.owner with
      | .access j _ => j == k
      | .dma j _ _ => j == k
      | .fence j _ _ => j == k
      | .dmaFence j _ => j == k
      | _ => false))

/-- R272 KERNEL_END: the conditions of R112 hold, what R272 writes back has been answered, and the kernel end is complete. -/
def execKernelEnd (k : Fin 256) (s : State) : Out :=
  let c := s.core k.val
  if !coreRuns s k.val || c.kend != 1 || !coreDrained c then .next s
  else
    let s := flushCore s k.val
    if coreQuiet s k.val then .next (s.updCore k.val (fun c => { c with kend := 2, wait := .none })) else .next s

/-- Registers of a fragment operand. -/
def regSpan (b n : Nat) (wr : Bool) : List RegUse := (List.range n).map (fun i => ⟨b + i, 1, wr⟩)

/-- R118, R122: formats and register ranges that CV.MMA accepts. -/
def mmaOk (o : MmaOp) : Bool :=
  let x := o.xfmt.toNat
  let inside (b n : Nat) : Bool := b % 2 == 0 && decide (b + n ≤ 64)
  let apart (b n : Nat) : Bool := decide (b + n ≤ o.cb.toNat) || decide (o.cb.toNat + 32 ≤ b)
  pairAccepted x o.wfmt.toNat && !accWide x && inside o.xb.toNat (mmaXn o) && inside o.wb.toNat (mmaWn o) && inside o.cb.toNat 32 &&
    apart o.xb.toNat (mmaXn o) && apart o.wb.toNat (mmaWn o) && (!isBlock x || (inside o.sb.toNat 1 && apart o.sb.toNat 1))

/-- R123 CV.MMA: the issuing threads park at it (log 112). -/
def execCvMma (o : MmaOp) (s : State) : Out :=
  let legal := !isCc o.face && o.rsvHi == 0 && o.rsvLo == 0
  let us := if mmaOk o then
      regSpan o.xb.toNat (mmaXn o) false ++ regSpan o.wb.toNat (mmaWn o) false ++ regSpan o.cb.toNat 32 true ++
        (if isBlock o.xfmt.toNat then regSpan o.sb.toNat 1 false else [])
    else []
  match (if mmaOk o then (mayIssue s o.core o.face legal us).bind (fun g => divergeFault s g false) else none) with
  | some t => .next t
  | none => issue s o.core o.face 8 legal us (fun g s => if mmaOk o then .moved (park s g (some o)) else .fault 9 g.lanes 0)

/-- The parked threads go on behind their instruction. -/
def Caravan.unpark (x : Caravan) (len : Nat) : Caravan :=
  let ls := x.parked
  let x := { x with pcs := ls.foldl (fun t l => tset 0 t l (tget 0 t l + BitVec.ofNat 64 len)) x.pcs, parkOp := none }
  x.setState ls .ready .none

/-- A converged collective moves an IDLE array to SECTIONS, with the window that a yield asks for (R83). -/
def Matrix.enter (m : Matrix) : Matrix := if m.mode = .idle then { m with mode := .sections, window := m.yields } else m

/-- R123 COLLECTIVE_CONVERGE: every thread that has not exited is parked at one address (log 111). -/
def execCollectiveConverge (k : Fin 256) (v : Fin 32) (s : State) : Out :=
  let x := (s.core k.val).cv v.val
  let all := (List.range 32).all (fun l => decide (x.state l = .idle) || decide (x.state l = .parked))
  if !coreRuns s k.val || x.parked.isEmpty || !all then .next s
  else match x.parkOp with
    | none => .next (s.updCv k.val v.val (fun x => x.unpark 4))
    | some op =>
      if x.coll.isSome then .next s
      else
        let s := s.updCv k.val v.val (fun x => { x.unpark 8 with coll := some ⟨1, op, x.parkPc, 0, []⟩ })
        .next (s.updMx k.val (fun m => Matrix.enter { m with converged := m.converged ++ [v.val] }))

/-- R81 COLLECTIVE_GRANT: the collective that converged first gets the lowest free section, its cost is spent (R516), and the
section reads the fragments of all 32 threads (R126). -/
def execCollectiveGrant (k : Fin 256) (s : State) : Out :=
  let c := s.core k.val
  match c.mx.converged with
  | [] => .next s
  | v :: rest =>
    match (c.cv v).coll, (List.range 16).find? (fun i => (tfind c.mx.sections i).isNone) with
    | some q, some sec =>
      let r := geomR q.op.xfmt.toNat
      let b := s.budget k.val
      if !coreRuns s k.val || c.mx.mode != .sections || decide (b.mx < r) then .next s
      else
        let s := s.setBudget k.val { b with mx := b.mx - r, spent := true }
        let s := s.updCv k.val v (fun x => { x with coll := some { q with phase := 2, sec := sec, frag := x.regs } })
        let s := s.updMx k.val (fun m => Matrix.settle { m with converged := rest, sections := tput m.sections sec v })
        .next (wakeCore (s.emit (dieOfCore k.val) 3 k.val ((c.ctx.map Prod.fst).getD 0xFFF) (v + 32 * sec) q.pc 0) k.val)
    | _, _ => .next s

/-- R80 COLLECTIVE_SECTION_FREE. -/
def execCollectiveSectionFree (k : Fin 256) (sec : Fin 16) (s : State) : Out :=
  match tfind (s.core k.val).mx.sections sec.val with
  | none => .next s
  | some v =>
    let s := s.updCv k.val v (fun x => { x with coll := x.coll.map (fun q => { q with phase := 3 }) })
    .next (s.updMx k.val (fun m => Matrix.settle { m with sections := tdel m.sections sec.val }))

/-- A register of the captured fragments. -/
def fragReg (q : Coll) (lane r : Nat) : Nat := (tget 0#32 q.frag (64 * lane + r)).toNat

/-- Element `p` of the registers from `b` of a lane (R119). -/
def fragElem (q : Coll) (lane b fmt p : Nat) : Nat :=
  let e := ebits fmt
  fragReg q lane (b + p * e / 32) / 2 ^ (p * e % 32) % 2 ^ e

/-- Byte `b` of the scale register across the caravan (R120). -/
def scaleByte (q : Coll) (b : Nat) : Nat := fragReg q (b / 4) q.op.sb.toNat / 2 ^ (8 * (b % 4)) % 256

/-- Row m, column n of a collective's result (R79, R121). -/
def collResult (q : Coll) (m n : Nat) : Nat × Flags :=
  let o := q.op
  let x := o.xfmt.toNat
  let w := o.wfmt.toNat
  let two := blockSize x == 16
  let top := if o.zero then 0 else fragReg q n (o.cb.toNat + 2 * m) + 2 ^ 32 * fragReg q n (o.cb.toNat + 2 * m + 1)
  columnResult x w 32 (fun i => fragElem q (2 * m + i / 16) o.xb.toNat x (i % 16)) (fun i => fragElem q n o.wb.toNat w i)
    (fun h => scaleByte q (if two then 2 * m + h else m)) (fun h => scaleByte q (if two then 32 + 2 * n + h else 32 + n)) top

/-- R126 COLLECTIVE_C_READABLE: the C registers take the result, and the collective is no longer outstanding. -/
def execCollectiveCReadable (k : Fin 256) (v : Fin 32) (s : State) : Out :=
  match ((s.core k.val).cv v.val).coll with
  | none => .next s
  | some q =>
    if q.phase ≠ 3 then .next s
    else
      let s := (List.range 32).foldl (fun s n => (List.range 16).foldl (fun s m =>
        let (r, fl) := collResult q m n
        s.updCv k.val v.val (fun x =>
          let x := (x.setTreg n (q.op.cb.toNat + 2 * m) (BitVec.ofNat 32 r)).setTreg n (q.op.cb.toNat + 2 * m + 1)
            (BitVec.ofNat 32 (r / 2 ^ 32))
          { x with flags := x.flags ||| fl.setWidth 32 })) s) s
      let s := s.updCv k.val v.val (fun x => { x with coll := none })
      .next (wakeCore (s.bumpCore k.val 7 2 16384) k.val)

/-- A blocked access of a face is made again (R216): performed, and its thread goes on. -/
def retryFace (s : State) (k : Nat) (w : TagWait) (a : SpAccess) : State :=
  if spMeets (s.core k).sp a = .nothing then spGoesOn (s.updSp k (fun sp => { sp with waits := sp.waits.erase w })) k a else s

/-- One entry of the list, where its slot has the state that it waits for. -/
def retryOne (s : State) (k : Nat) (w : TagWait) : State :=
  let c := s.core k
  if !(listed c.sp).contains w || isFull c.sp w.slot != w.full then s
  else match w.who with
    | .face a => retryFace s k w a
    | .vector => match c.ve.queue with
      | v :: _ => if v.started && !v.done then veRun s k v else s
      | [] => s
    | .chan ch => chanRun s k ch
    | .dma seq => dmaRun s k seq
    | .window j seq => dmaRun s j seq

/-- R216: the entries whose tag has come are retried, oldest first. -/
def execTagWaitRetry (k : Fin 256) (s : State) : Out :=
  if !coreRuns s k.val then .next s
  else .next (spFollow ((s.core k.val).sp.waits.foldl (fun s w => retryOne s k.val w) s) k.val)

end Sys2Proof.Machine
end

