-- ==== Sys2Proof/Machine/Save.lean ====
section
/-!
DEFINITION. The save area (15 R397–R399): what a stopped core writes to it and what a restore reads back; zeroing of memory by
the hub die's own agents.
-/
namespace Sys2Proof.Machine

/-- The poison list after [lo, hi) has been set free of poison: the sectors of a unit that is poisoned as a whole become
exceptions of it, unless the range takes in the whole unit. -/
def clearPoison (m : Mem) (lo hi : Nat) : List Nat × List Nat :=
  let kept := m.badUnits.filter (fun u => !(decide (lo ≤ u * 2 ^ 30) && decide ((u + 1) * 2 ^ 30 ≤ hi)))
  let rest := m.poison.filter (fun q => !(decide (lo ≤ 64 * q) && decide (64 * q < hi)))
  let part := kept.flatMap (fun u =>
    let a := max (u * 2 ^ 24) (lo / 64)
    (List.range (min ((u + 1) * 2 ^ 24) (hi / 64) - a)).map (a + ·))
  (kept, part ++ rest)

/-- Every copy of the bytes [lo, hi) of this module's HBM reads zero and is free of poison; whole sectors (R381, R474). -/
def cohZero (s : State) (lo hi : Nat) : State :=
  let inR (a : Nat) : Bool := decide (lo ≤ a) && decide (a < hi)
  let sec (line : Nat) (e : Nat × Sector) : Nat × Sector :=
    if inR (256 * line + 64 * e.1) then (e.1, { e.2 with data := 0, poison := false }) else e
  let cache (c : Cache) : Cache := { c with lines := c.lines.map (fun e => (e.1, { e.2 with sec := e.2.sec.map (sec e.2.line) })) }
  { s with
    cores := s.cores.map (fun e => (e.1, { e.2 with l1 := cache e.2.l1 }))
    mem := { s.mem with
      hbm := mclear s.mem.hbm lo hi
      badUnits := (clearPoison s.mem lo hi).1
      poison := (clearPoison s.mem lo hi).2
      clusters := s.mem.clusters.map (fun e => (e.1, { e.2 with l2 := cache e.2.l2 }))
      msgs := s.mem.msgs.map (fun m =>
        if m.kind.holdsData then
          { m with
            bytes := m.bytes.map (fun b => if inR (256 * m.line + b.1) then (b.1, 0#8) else b)
            poison := ((sectorsOf m.poison).filter (fun q => !inR (256 * m.line + 64 * q))).foldl (fun x q => x + 2 ^ q) 0 }
        else m) } }

/-- A piece of an image: offset, bytes, value. -/
abbrev Piece3 := Nat × Nat × Nat

def threadCode (x : Caravan) (l : Nat) : Nat :=
  match x.state l with
  | .idle => 0
  | .ready => 1
  | .waitOperand => 1
  | .waitMemory => (match tget Wait.none x.waits l with | .barrier b => 2 + 256 + 16 * b | _ => 2)
  | .waitFault => 3
  | .parked => 4

/-- Saved registers of the caravans (R397, R399). -/
def saveCaravans (c : Core) : List Piece3 :=
  c.cvs.flatMap (fun e =>
    let v := e.1
    let x := e.2
    let rank := (c.mx.converged.findIdx? (· == v)).getD 0
    let conv := c.mx.converged.contains v
    x.regs.map (fun r => (0x200000 + (32 * v + r.1 / 64) * 256 + 4 * (r.1 % 64), 4, r.2.toNat)) ++
      x.pcs.map (fun p => (0x280000 + (32 * v + p.1) * 8, 8, p.2.toNat)) ++
      (List.range 32).map (fun l => (0x282000 + 4 * (32 * v + l), 4, threadCode x l)) ++
      [(0x286000 + 64 * v, 4, x.flags.toNat),
       (0x286000 + 64 * v + 4, 4, b2n (!x.isIdle) + 2 * b2n conv + (if conv then 256 * rank else 0)),
       (0x286000 + 64 * v + 8, 8, x.parkPc.toNat)])

/-- A vector instruction's 64-bit encoding (R169). -/
def VeInstr.encode (v : VeInstr) : Nat :=
  v.fn * 2 ^ 56 + v.rm.toNat * 2 ^ 54 + b2n v.sat * 2 ^ 53 + v.sd * 2 ^ 48 + v.op * 2 ^ 26 + v.vd * 2 ^ 21 + v.va * 2 ^ 16 +
    v.vb * 2 ^ 11 + v.vm * 2 ^ 6 + b2n v.maskEn * 2 ^ 5

/-- Vector instructions of the queue and the channels in issue order. -/
def veOrder (e : VecEng) : List VeInstr :=
  (e.chans.map Prod.snd ++ e.queue).foldl (fun l v => (l.filter (fun x => x.ord < v.ord)) ++ [v] ++ l.filter (fun x => v.ord < x.ord)) []

/-- A progress word: queue position and index; 0xFF where nothing executes (log 19). -/
def progressWord (e : VecEng) (v : Option VeInstr) : Nat :=
  match v with
  | none => 0xFF * 2 ^ 56
  | some v => ((veOrder e).findIdx (fun x => x.ord == v.ord)) * 2 ^ 56 + v.idx

def saveVector (c : Core) : List Piece3 :=
  let e := c.ve
  let exe := match e.queue with | v :: _ => if v.started then some v else none | [] => none
  (veOrder e).zipIdx.flatMap (fun x => [(0x287300 + 16 * x.2, 8, x.1.encode), (0x287300 + 16 * x.2 + 8, 8, x.1.s.toNat)]) ++
    [(0x287500, 8, progressWord e exe), (0x287508, 8, progressWord e (tfind e.chans 0)),
     (0x287510, 8, progressWord e (tfind e.chans 1))] ++
    (match exe with
      | some v => if v.isSummary then (v.lanes.filter (fun x => decide (x.1 < 64))).map (fun x => (0x287600 + 16 * x.1, 16, x.2.toNat)) else []
      | none => []) ++
    e.win.map (fun w => (0x286C00 + 8 * w.1, 8, w.2.toNat)) ++
    [(0x2871C0, 4, e.vl), (0x2871C4, 4, e.flags.toNat), (0x2871C8, 8, e.fault.toNat)]

/-- A command's binding (R210): 1 where it is bound to the map in force before the present one. -/
def boundOld (c : Core) (m : W32) : Nat := b2n (m != c.sp.pmap)

def saveMatrix (c : Core) : List Piece3 :=
  c.mx.acc.map (fun a => (0x240000 + 8 * a.1, 8, a.2.toNat)) ++
    c.mx.queue.zipIdx.flatMap (fun q =>
      [(0x286E00 + 32 * q.2, 8, (if q.1.drain then 2 else 1) + 256 * boundOld c q.1.map), (0x286E00 + 32 * q.2 + 16, 16, q.1.desc.toNat)]) ++
    c.mx.mt.map (fun t => (0x287140 + 16 * t.1, 16, t.2.toNat)) ++
    [(0x287130, 4, c.mx.arb.toNat), (0x287134, 4, c.mx.chain.toNat), (0x287138, 4, c.mx.flags.toNat), (0x28713C, 4, c.mx.fault.toNat),
     (0x287280, 32, (c.mx.tags.map (fun t => if t.2 then 2 ^ t.1 else 0)).foldl (· + ·) 0)]

/-- The stream index of a command (R249): the elements before it have been written, and none from it on has. -/
def DmaCmd.streamIdx (q : DmaCmd) : Nat :=
  let left := (q.units true).drop q.wr
  let n := (q.side true).unit
  let unit (t : Nat) : Nat := q.nibAddr true t / (2 * n)
  let part (t : Nat) : Bool := left.head? == some (unit t) && q.partWr.contains (q.nibAddr true t / 2 % n / 64)
  ((List.range q.nibs).findIdx (fun t => left.contains (unit t) && decide (q.skip ≤ t) && !part t)) / q.nibbles

/-- How many units of a side hold nothing from element `i` on. -/
def DmaCmd.unitsBefore (q : DmaCmd) (dst : Bool) (i : Nat) : Nat :=
  if q.nibs ≤ i * q.nibbles then (q.units dst).length
  else (q.units dst).findIdx (fun u => u == q.nibAddr dst (i * q.nibbles) / (2 * (q.side dst).unit))

def saveDma (c : Core) : List Piece3 :=
  c.dma.queue.zipIdx.flatMap (fun q =>
    let b := 0x284000 + 128 * q.2
    q.1.words.zipIdx.map (fun w => (b + 8 * w.2, 8, w.1.toNat)) ++
      [(b + 64, 8, q.1.seq),
       (b + 72, 8, b2n (!q.1.untouched) * 2 ^ 63 + boundOld c q.1.map * 2 ^ 62 + q.1.streamIdx % 2 ^ 32)]) ++
    [(0x2871E0, 8, c.dma.done), (0x2871E8, 8, c.dma.issued), (0x2871F0, 8, c.dma.fault0.toNat), (0x2871F8, 8, c.dma.fault1.toNat)]

def saveScratch (c : Core) : List Piece3 :=
  let tags := (c.sp.full.filter (fun t => t.2)).map Prod.fst
  c.sp.data.map (fun b => (b.1, 1, b.2.toNat)) ++
    ((tags.map (· / 8)).eraseDups).map (fun q =>
      (0x283000 + q, 1, ((tags.filter (fun t => t / 8 == q)).map (fun t => 2 ^ (t % 8))).foldl (· + ·) 0)) ++
    c.sp.rings.map (fun r => (0x286800 + 8 * r.1, 8, r.2.toNat)) ++
    [(0x2871D0, 4, c.sp.pmap.toNat), (0x2871D4, 4, (oldMap c.sp).toNat), (0x2871D8, 8, c.sp.fault.toNat)]

/-- Fault registers in the control block (R398, R400 step 2). -/
def saveFaults (c : Core) : List Piece3 :=
  [(0x287110, 8, c.fault.w0.toNat), (0x287118, 8, c.fault.w1.toNat), (0x287120, 8, c.fault.w2.toNat), (0x287128, 8, c.fault.w3.toNat),
   (0x28713C, 4, c.mx.fault.toNat), (0x2871C8, 8, c.ve.fault.toNat), (0x2871D8, 8, c.sp.fault.toNat),
   (0x2871F0, 8, c.dma.fault0.toNat), (0x2871F8, 8, c.dma.fault1.toNat), (0x2872A0, 4, c.pcause.toNat)]

def saveControl (c : Core) : List Piece3 :=
  c.sregs.map (fun r => (0x287000 + 8 * r.1, 8, r.2.toNat)) ++ saveFaults c ++
    [(0x287100, 8, c.pc.toNat), (0x287108, 4, c.flags.toNat)] ++
    c.bars.map (fun b => (0x287200 + 8 * b.1, 8, b.2.count + b.2.arrived * 2 ^ 32))

/-- The non-zero pieces of a core's image (R397–R399). -/
def saveImage (c : Core) : List Piece3 :=
  saveScratch c ++ saveCaravans c ++ saveMatrix c ++ saveDma c ++ saveVector c ++ saveControl c

/-- Bytes of a save area that the device writes (R397). -/
def saveBytes : Nat := 0x288000

def putPieces (s : State) (base : Nat) (ps : List Piece3) : State :=
  ps.foldl (fun s p => cohWrite s (base + p.1) (leBytes p.2.1 p.2.2)) s

/-- Base of save area `i` of a context (R386). -/
def saveArea (x : Ctx) (i : Nat) : Nat := fld (x.word 3) 39 0 + i * 0x298000

/-- R394: core `k` writes the save area of its index. -/
def saveCore (s : State) (n i k : Nat) : State :=
  let base := saveArea (s.ctx n) i
  putPieces (cohZero s base (base + saveBytes)) base (saveImage (s.core k))

/-- Reading an image. -/
def imgNat (s : State) (base off n : Nat) : Nat := leNat (cohRead s (base + off) n)

def imgTbl {α : Type} [DecidableEq α] (d : α) (n : Nat) (f : Nat → α) : Tbl α :=
  (List.range n).filterMap (fun i => if f i = d then none else some (i, f i))

/-- What a skipped region leaves in place (R395). -/
def restoreScratch (s : State) (base : Nat) (kept phys : Core) (skip : Bool) : Scratch :=
  let pm : W32 := BitVec.ofNat 32 (imgNat s base 0x2871D0 4)
  let om : W32 := BitVec.ofNat 32 (imgNat s base 0x2871D4 4)
  { data := if skip then phys.sp.data else imgTbl 0#8 0x200000 (fun i => cohByte s (base + i))
    full := if skip then phys.sp.full else imgTbl false 0x8000 (fun q => bit (cohByte s (base + 0x283000 + q / 8)) (q % 8))
    pmap := pm
    transit := (List.range 8).filterMap (fun g => if mapField pm g = mapField om g ∧ (tfind kept.sp.transit g).isNone then none
      else some (g, BitVec.ofNat 4 (mapField om g)))
    fault := BitVec.ofNat 64 (imgNat s base 0x2871D8 8)
    rings := imgTbl 0#64 128 (fun i => BitVec.ofNat 64 (imgNat s base (0x286800 + 8 * i) 8))
    taken := kept.sp.taken
    waits := []
    moving := []
    behind := [] }

/-- Thread state and wait of a saved word (R399). -/
def threadOf (w : Nat) : ThreadState × Wait :=
  match w % 8 with
  | 0 => (.idle, .none)
  | 4 => (.parked, .none)
  | 2 => if w / 256 % 2 = 1 then (.waitMemory, .barrier (w / 16 % 16)) else (.ready, .none)
  | _ => (.ready, .none)

def restoreCaravan (s : State) (base v : Nat) (kept phys : Core) (skip : Bool) : Caravan :=
  let word (l : Nat) : Nat := imgNat s base (0x282000 + 4 * (32 * v + l)) 4
  let old := kept.cv v
  let conv := imgNat s base (0x286000 + 64 * v + 4) 4 / 2 % 2 == 1
  { regs := if skip then (phys.cv v).regs else
      imgTbl 0#32 2048 (fun i => BitVec.ofNat 32 (imgNat s base (0x200000 + (32 * v + i / 64) * 256 + 4 * (i % 64)) 4))
    pcs := imgTbl 0#64 32 (fun l => BitVec.ofNat 64 (imgNat s base (0x280000 + (32 * v + l) * 8) 8))
    st := imgTbl ThreadState.idle 32 (fun l => (threadOf (word l)).1)
    waits := imgTbl Wait.none 32 (fun l => (threadOf (word l)).2)
    served := 0
    flags := BitVec.ofNat 32 (imgNat s base (0x286000 + 64 * v) 4)
    parkPc := BitVec.ofNat 64 (imgNat s base (0x286000 + 64 * v + 8) 8)
    parkOp := old.parkOp
    coll := if conv then old.coll else none }

/-- Caravans marked CONVERGED, in the order of their ranks. -/
def convergedOrder (s : State) (base : Nat) : List Nat :=
  let word (v : Nat) : Nat := imgNat s base (0x286000 + 64 * v + 4) 4
  let cs := (List.range 32).filter (fun v => word v / 2 % 2 == 1)
  (List.range 256).flatMap (fun r => cs.filter (fun v => word v / 256 % 256 == r))

/-- Matrix queue of an image; a queued PASS of a chain member is a step again, counted from 1 (R99). -/
def restoreMatrix (s : State) (base : Nat) (kept phys : Core) (skip : Bool) (sp : Scratch) (shift : Nat) : Matrix :=
  let kind (i : Nat) : Nat := imgNat s base (0x286E00 + 32 * i) 8
  let chain : W32 := BitVec.ofNat 32 (imgNat s base 0x287134 4)
  let chain := setFld (setFld chain 5 3 (fld chain 5 3 + shift)) 2 0 (fld chain 2 0 + shift)
  let ents := (List.range 16).filterMap (fun i => if kind i % 256 = 0 then none else some i)
  let q : List MxCmd := ents.map (fun i =>
    let d : W128 := BitVec.ofNat 128 (imgNat s base (0x286E00 + 32 * i + 16) 16)
    let drain := kind i % 256 == 2
    let steps := (ents.filter (fun j => j ≤ i && kind j % 256 == 1)).length
    let old := kept.mx.queue[i]?
    MxCmd.fresh ((old.map MxCmd.ord).getD 0) drain d ((old.map MxCmd.pc).getD 0)
      (if kind i / 256 % 2 = 1 then oldMap sp else sp.pmap)
      (if drain || !(old.any (fun o => o.step != 0)) then 0 else steps))
  { mt := imgTbl 0#128 8 (fun i => BitVec.ofNat 128 (imgNat s base (0x287140 + 16 * i) 16))
    queue := q
    acc := if skip then phys.mx.acc else imgTbl 0#64 32768 (fun i => BitVec.ofNat 64 (imgNat s base (0x240000 + 8 * i) 8))
    tags := imgTbl false 256 (fun j => bit (cohByte s (base + 0x287280 + j / 8)) (j % 8))
    flags := BitVec.ofNat 32 (imgNat s base 0x287138 4)
    fault := BitVec.ofNat 32 (imgNat s base 0x28713C 4)
    arb := BitVec.ofNat 32 (imgNat s base 0x287130 4)
    chain := chain
    mode := if (convergedOrder s base).isEmpty then .idle else .sections
    sections := []
    converged := convergedOrder s base
    run := 0
    window := false
    stepIn := (q.filter (fun e => e.step != 0)).length
    link := [] }

/-- A vector instruction of an image, with what the stopped one carried. -/
def restoreVe (s : State) (base i : Nat) (kept : VecEng) (sp : Scratch) (win : Tbl W64) (vl : Nat) : VeInstr :=
  let w := imgNat s base (0x287300 + 16 * i) 8
  let old := (veOrder kept)[i]?
  let here (k : Nat) : Bool := imgNat s base k 8 / 2 ^ 56 == i
  let at3 : Option Nat := [0x287500, 0x287508, 0x287510].find? here
  let idx := match at3 with | some k => imgNat s base k 8 % 2 ^ 17 | none => 0
  let same := old.any (fun o => o.idx == idx)
  { ord := (old.map VeInstr.ord).getD 0
    win := (old.map VeInstr.win).getD win
    vl := (old.map VeInstr.vl).getD vl
    op := w / 2 ^ 26 % 64
    fn := w / 2 ^ 56 % 256
    rm := BitVec.ofNat 2 (w / 2 ^ 54)
    sat := w / 2 ^ 53 % 2 == 1
    sd := w / 2 ^ 48 % 32
    vd := w / 2 ^ 21 % 32
    va := w / 2 ^ 16 % 32
    vb := w / 2 ^ 11 % 32
    vm := w / 2 ^ 6 % 32
    maskEn := w / 2 ^ 5 % 2 == 1
    s := BitVec.ofNat 64 (imgNat s base (0x287300 + 16 * i + 8) 8)
    pc := (old.map VeInstr.pc).getD 0
    map := (old.map VeInstr.map).getD sp.pmap
    started := at3.isSome
    idx := idx
    rd := if same then (old.map VeInstr.rd).getD idx else idx
    slots := (old.map VeInstr.slots).getD []
    taken := (old.map VeInstr.taken).getD []
    lanes := if at3 = some 0x287500 ∧ w / 2 ^ 26 % 64 = 0x3A then
        imgTbl 0#128 64 (fun j => BitVec.ofNat 128 (imgNat s base (0x287600 + 16 * j) 16)) ++
          (if same then ((old.map VeInstr.lanes).getD []).filter (fun x => decide (64 ≤ x.1)) else [])
      else if same then (old.map VeInstr.lanes).getD [] else []
    folded := (old.map VeInstr.folded).getD 0
    seen := if same then (old.map VeInstr.seen).getD [] else []
    got := if same then (old.map VeInstr.got).getD [] else []
    issue := 0
    done := false }

def restoreVector (s : State) (base : Nat) (kept : Core) (sp : Scratch) : VecEng :=
  let win := imgTbl 0#64 64 (fun i => BitVec.ofNat 64 (imgNat s base (0x286C00 + 8 * i) 8))
  let vl := imgNat s base 0x2871C0 4
  let n := ((List.range 32).filter (fun i => imgNat s base (0x287300 + 16 * i) 8 != 0)).length
  let all := (List.range n).map (fun i => (i, restoreVe s base i kept.ve sp win vl))
  let pos (k : Nat) : Nat := imgNat s base k 8 / 2 ^ 56
  { win := win
    vl := vl
    flags := BitVec.ofNat 32 (imgNat s base 0x2871C4 4)
    fault := BitVec.ofNat 64 (imgNat s base 0x2871C8 8)
    queue := (all.filter (fun e => e.1 != pos 0x287508 && e.1 != pos 0x287510)).map Prod.snd
    chans := [0, 1].filterMap (fun c => ((all.find? (fun e => e.1 == pos (0x287508 + 8 * c))).map (fun e => (c, e.2))))
    parked := [] }

def restoreDma (s : State) (base : Nat) (kept : Core) (sp : Scratch) : DmaQueue :=
  let ent (i : Nat) : DmaCmd :=
    let b := 0x284000 + 128 * i
    let t := imgNat s base (b + 72) 8
    let old := kept.dma.queue[i]?
    let seq := imgNat s base (b + 64) 8
    let idx := if t / 2 ^ 63 = 1 then t % 2 ^ 32 else 0
    let fresh := DmaCmd.fresh ((old.map DmaCmd.ord).getD 0) ((List.range 8).map (fun j => BitVec.ofNat 64 (imgNat s base (b + 8 * j) 8))) seq
      ((old.map DmaCmd.pc).getD 0) (if t / 2 ^ 62 % 2 = 1 then oldMap sp else sp.pmap)
    let cut : DmaCmd := { fresh with rd := fresh.unitsBefore false idx, wr := fresh.unitsBefore true idx, skip := idx * fresh.nibbles }
    match old with
    | some o => if o.streamIdx = idx then
        { fresh with rd := o.rd, wr := o.wr, partRd := o.partRd, partWr := o.partWr, skip := o.skip, asked := o.asked, buf := o.buf, slots := o.slots, tookSrc := o.tookSrc, tookDst := o.tookDst,
                     hostLast := o.hostLast, remote := o.remote, host := o.host }
      else cut
    | none => cut
  let n := ((List.range 64).filter (fun i => imgNat s base (0x284000 + 128 * i + 64) 8 != 0)).length
  { queue := (List.range n).map ent
    issued := imgNat s base 0x2871E8 8
    done := imgNat s base 0x2871E0 8
    finished := kept.dma.finished
    fault0 := BitVec.ofNat 64 (imgNat s base 0x2871F0 8)
    fault1 := BitVec.ofNat 64 (imgNat s base 0x2871F8 8) }

/-- Barriers of an image, with the threads that its state words show waiting. -/
def restoreBars (s : State) (base : Nat) (kept : Core) : Tbl Barrier :=
  (List.range 16).filterMap (fun b =>
    let w := imgNat s base (0x287200 + 8 * b) 8
    let ws : List Req := (List.range 1024).filterMap (fun i =>
      if (threadOf (imgNat s base (0x282000 + 4 * i) 4)).2 = .barrier b then some (.thread (i / 32) (i % 32)) else none)
    let cc := if kept.wait = .barrier b then [Req.cc] else []
    if w = 0 then none else some (b, ⟨w % 2 ^ 11, w / 2 ^ 32 % 2 ^ 11, ws ++ cc⟩))

/-- Registers that the context descriptor loads (R395, R325). -/
def loadTlbRegs (x : Ctx) (n : Nat) (c : Core) : Core :=
  { c with
    root := x.word 1 &&& 0xFFFFFFF001#64
    tctx := at_ 12 x.partNo ||| at_ 0 n
    privOff := x.word 2 &&& 0xFFFFFFFFC0000000#64 }

/-- R395: the context part of a core as an image gives it. -/
def restoreCore (s : State) (base : Nat) (kept phys : Core) (skip : Bool) (shift : Nat) : Core :=
  let sp := restoreScratch s base kept phys skip
  { phys with
    sregs := imgTbl 0#64 32 (fun i => if i = 0 then 0 else BitVec.ofNat 64 (imgNat s base (0x287000 + 8 * i) 8))
    pc := BitVec.ofNat 64 (imgNat s base 0x287100 8)
    flags := BitVec.ofNat 32 (imgNat s base 0x287108 4)
    wait := match kept.wait with | .barrier b => .barrier b | _ => .none
    sPend := kept.sPend
    cvs := (List.range 32).map (fun v => (v, restoreCaravan s base v kept phys skip))
    fault := ⟨BitVec.ofNat 64 (imgNat s base 0x287110 8), BitVec.ofNat 64 (imgNat s base 0x287118 8),
      BitVec.ofNat 64 (imgNat s base 0x287120 8), BitVec.ofNat 64 (imgNat s base 0x287128 8)⟩
    bars := restoreBars s base kept
    mx := restoreMatrix s base kept phys skip sp shift
    ve := restoreVector s base kept sp
    sp := sp
    dma := restoreDma s base kept sp
    pcause := BitVec.ofNat 32 (imgNat s base 0x2872A0 4)
    kend := kept.kend }

/-- The context part of a core of a FRESH context (R227, R73, R176): no kernel runs yet. -/
def freshCore (phys : Core) : Core :=
  { Core.dflt with l1 := phys.l1, tlb := phys.tlb, resid := phys.resid, ctx := phys.ctx, kend := 2 }

/-- A core with the fault registers of another (R398). -/
def Core.withFaults (c f : Core) : Core :=
  { c with
    fault := f.fault
    pcause := f.pcause
    mx := { c.mx with fault := f.mx.fault }
    ve := { c.ve with fault := f.ve.fault }
    sp := { c.sp with fault := f.sp.fault }
    dma := { c.dma with fault0 := f.dma.fault0, fault1 := f.dma.fault1 } }

/-- The fault registers that an image gives (R398). -/
def loadFaults (s : State) (base : Nat) (c : Core) : Core :=
  let w (a n : Nat) : Nat := imgNat s base a n
  { c with
    fault := ⟨BitVec.ofNat 64 (w 0x287110 8), BitVec.ofNat 64 (w 0x287118 8), BitVec.ofNat 64 (w 0x287120 8), BitVec.ofNat 64 (w 0x287128 8)⟩
    pcause := BitVec.ofNat 32 (w 0x2872A0 4)
    mx := { c.mx with fault := BitVec.ofNat 32 (w 0x28713C 4) }
    ve := { c.ve with fault := BitVec.ofNat 64 (w 0x2871C8 8) }
    sp := { c.sp with fault := BitVec.ofNat 64 (w 0x2871D8 8) }
    dma := { c.dma with fault0 := BitVec.ofNat 64 (w 0x2871F0 8), fault1 := BitVec.ofNat 64 (w 0x2871F8 8) } }

/-- The assigned function codes of the vector opcodes (R170, R182, R187–R195). -/
def vecAssigned (op fn : Nat) : Bool :=
  match op with
  | 0x39 => decide (fn ≤ 0x18) || (decide (0x40 ≤ fn) && decide (fn ≤ 0x46)) || (decide (0x48 ≤ fn) && decide (fn ≤ 0x4B)) || fn == 0x60 ||
      fn == 0x61 || fn == 0x70
  | 0x3A => decide (fn ≤ 7)
  | 0x3B => decide (fn ≤ 3) || (decide (0x10 ≤ fn) && decide (fn ≤ 0x15))
  | _ => false

/-- A saved field with a reserved code (R399, R503): thread states, matrix commands, the maps, ring sizes and strides, functions of the
vector queue. -/
def badImage (s : State) (base : Nat) : Bool :=
  (List.range 1024).any (fun i => decide (5 ≤ imgNat s base (0x282000 + 4 * i) 4 % 8)) ||
    (List.range 16).any (fun i => decide (2 < imgNat s base (0x286E00 + 32 * i) 8 % 256)) ||
    [0x2871D0, 0x2871D4].any (fun a => (List.range 8).any (fun g => decide (4 < mapClass (BitVec.ofNat 32 (imgNat s base a 4)) g))) ||
    (List.range 64).any (fun r =>
      let w := BitVec.ofNat 64 (imgNat s base (0x286800 + 16 * r) 8)
      bit w 63 && (fld w 47 32 == 0 || decide (32768 < fld w 47 32) || fld w 31 27 == 0 || decide (16 < fld w 31 27))) ||
    (List.range 32).any (fun i =>
      let w := imgNat s base (0x287300 + 16 * i) 8
      w != 0 && !vecAssigned (w / 2 ^ 26 % 64) (w / 2 ^ 56 % 256))

/-- A tile descriptor with a reserved code that a program cannot have left in a queue or register by R5 alone (R65). -/
def badTile (d : W128) : Bool := !fmtOk (mtX d) || !fmtOk (mtW d) || mtAccMode d == 3 || decide (2 ≤ mtTop d)

/-- What a debugger may have written besides (R503): reserved codes in DMA descriptors, tile descriptors and data windows. -/
def badEdit (s : State) (base : Nat) : Bool :=
  (List.range 64).any (fun i =>
    let w : W64 := BitVec.ofNat 64 (imgNat s base (0x284000 + 128 * i) 8)
    imgNat s base (0x284000 + 128 * i + 64) 8 != 0 && (fld w 63 62 == 3 || fld w 61 60 == 3 || fld w 59 57 == 7)) ||
    (List.range 8).any (fun i => badTile (BitVec.ofNat 128 (imgNat s base (0x287140 + 16 * i) 16))) ||
    (List.range 16).any (fun i => imgNat s base (0x286E00 + 32 * i) 8 % 256 == 1 &&
      badTile (BitVec.ofNat 128 (imgNat s base (0x286E00 + 32 * i + 16) 16))) ||
    (List.range 32).any (fun i =>
      let w : W64 := BitVec.ofNat 64 (imgNat s base (0x286C00 + 16 * i) 8)
      bit w 63 && !bit w 62 && !fmtOk (fld w 61 57))

/-- Poison in what a restore reads (R395). -/
def poisonedImage (s : State) (base : Nat) (skip : Bool) : Bool :=
  (List.range (saveBytes / 64)).any (fun i =>
    (!skip || (decide (0x280000 ≤ 64 * i) && !(decide (0x283000 ≤ 64 * i) && decide (64 * i < 0x284000)))) &&
      cohPoison s (base + 64 * i))

end Sys2Proof.Machine
end

