-- ==== Sys2Proof/Machine/Sched.lean ====
section
/-!
DEFINITION. Contexts and the scheduler (15 R386–R402): placements, dispatch at a beacon and between beacons, pre-emption and
resume, teardown; and the records of a context's completion ring (16 R415, R417, R419).
-/
namespace Sys2Proof.Machine

/-- A core that no unit around it keeps out of service. -/
def coreIn (s : State) (k : Nat) : Bool :=
  unitSt s .core k != .outOfService && unitSt s .cluster (clusterOf k) != .outOfService && unitSt s .die (dieOfCore k) != .outOfService

/-- A core that can take a context now. -/
def coreUp (s : State) (k : Nat) : Bool :=
  unitSt s .core k == .inService && unitSt s .cluster (clusterOf k) == .inService && unitSt s .die (dieOfCore k) == .inService

/-- Every choice of `k` elements, in order. -/
def choose {α : Type} : Nat → List α → List (List α)
  | 0, _ => [[]]
  | _ + 1, [] => []
  | k + 1, x :: r => (choose k r).map (x :: ·) ++ choose (k + 1) r

/-- The placements of R386 among the cores that meet `ok`. -/
def placements (s : State) (x : Ctx) (ok : Nat → Bool) : List (List Nat) :=
  let w := x.width
  let pin := bit (x.word 4) 63
  let cl := (List.range 32).filter (fun c => bit (s.part x.partNo).clusters c && (!pin || bit (x.word 4) c))
  if w ≤ 8 then
    cl.flatMap (fun c => (List.range (8 / w)).filterMap (fun i =>
      let j := i * w
      let p := (List.range w).map (8 * c + j + ·)
      if (!pin || w == 8 || j == fld (x.word 4) 42 40) && p.all ok then some p else none))
  else (choose (w / 8) (cl.filter (fun c => (coresOf c).all ok))).map (fun cs => cs.flatMap coresOf)

/-- Cores that a context on other cores has been promised. -/
def promised (s : State) (k : Nat) : Bool := s.ctxs.any (fun e => match e.2.next with | some p => p.contains k | none => false)

def coreFree (s : State) (k : Nat) : Bool := (s.core k).ctx.isNone && !promised s k

/-- The keys of R391 for a placement of context `n`; smaller is better at each place. -/
def placeKeys (s : State) (n : Nat) (p : List Nat) : List Nat :=
  let x := s.ctx n
  let holders := (p.filterMap (fun k => (s.core k).ctx.map Prod.fst)).eraseDups.filter (· != n)
  let lists := ((p.map clusterOf).eraseDups.filter (fun c => (s.cluster c).recent.contains n)).length
  let home (e : Nat × Nat) : Bool := dieOfCore e.1 == saveArea x e.2 / 2 ^ 37
  [b2n (!(x.st == .running || x.st == .holding) || p != x.cores),
   b2n !(p.zipIdx.all (fun e => (s.core e.1).resid == some (n, e.2))),
   (holders.map (fun m => (s.ctx m).width)).foldl (· + ·) 0,
   32 - lists,
   256 - (p.zipIdx.filter home).length,
   p.headD 0]

def keysLt : List Nat → List Nat → Bool
  | x :: xs, y :: ys => if x < y then true else if y < x then false else keysLt xs ys
  | _, _ => false

/-- The placements that rank first (R391). -/
def firstRank (s : State) (n : Nat) (ps : List (List Nat)) : List (List Nat) :=
  ps.foldl (fun best p => match best with
    | [] => [p]
    | b :: _ => if keysLt (placeKeys s n p) (placeKeys s n b) then [p]
        else if placeKeys s n p = placeKeys s n b then best ++ [p] else best) []

/-- The placement a context takes among the available cores. The spec ranks placements of whole clusters that share their
first core no further: a free value chooses among them (log 20). -/
def bestPlacement (s : State) (n : Nat) (ok : Nat → Bool) : Option (List Nat) × State :=
  match firstRank s n (placements s (s.ctx n) (fun k => coreUp s k && ok k)) with
  | [] => (none, s)
  | [p] => (some p, s)
  | l =>
    let (v, s) := s.free
    (l[v.toNat % l.length]?, s)

/-- A context of a later dispatch; ties go to the lower number (R390). -/
def ctxBefore (s : State) (a b : Nat) : Bool :=
  let x := (s.ctx a).lastRun
  let y := (s.ctx b).lastRun
  bcnLater x y || (x == y && decide (a < b))

def insertCtx (s : State) (n : Nat) : List Nat → List Nat
  | [] => [n]
  | m :: r => if ctxBefore s n m then n :: m :: r else m :: insertCtx s n r

def sortCtx (s : State) (l : List Nat) : List Nat := l.foldl (fun acc n => insertCtx s n acc) []

/-- Contexts of partition `q` that meet `p`. -/
def ctxsOf (s : State) (q : Nat) (p : Ctx → Bool) : List Nat :=
  (s.ctxs.filter (fun e => decide (e.2.st ≠ .free) && e.2.partNo == q && p e.2)).map Prod.fst

def waitingCtx (x : Ctx) : Bool := decide (x.st = .waiting) && x.next.isNone

/-- Whether the core array clock of a die runs (R16, R19, R513). -/
def arrayRuns (s : State) (d : Nat) : Bool := bit (s.domain (7 * d)) 31

/-- Restart the core array domains of dies that stand still (R513), and say that these dies hold work. -/
def wakeDies (s : State) (ds : List Nat) : State :=
  { s with pwr := { s.pwr with
      idleDies := ds.foldl tdel s.pwr.idleDies
      relocking := s.pwr.relocking ++ ds.filter (fun d => !arrayRuns s d && !s.pwr.relocking.contains d) } }

/-- A restore begins once every promised core is free and its clock runs (R395, R513): the context holds the cores from now on, with its
own fault registers, and a residency tag of another context is cleared (R396). -/
def beginRestore (s : State) (n : Nat) : State :=
  let x := s.ctx n
  match x.next with
  | none => s
  | some p =>
    let ds := (p.map dieOfCore).eraseDups
    if x.st ≠ .waiting ∨ !(p.all (fun k => (s.core k).ctx.isNone)) then s
    else if !ds.all (arrayRuns s) then wakeDies s ds
    else
      let s := wakeDies s ds
      let s := s.setCtx n { x with st := .restoring, next := none, cores := p, toStop := false }
      p.zipIdx.foldl (fun s e => s.updCore e.1 (fun c =>
        { (if x.fresh then c.withFaults (freshCore c) else loadFaults s (saveArea x e.2) c) with
          ctx := some (n, e.2), stopped := false, quiet := false, kend := 3
          resid := if c.resid.map Prod.fst = some n then c.resid else none })) s

/-- Every context that has been promised cores looks whether they are free. -/
def beginRestores (s : State) : State := (s.ctxs.map Prod.fst).foldl beginRestore s

/-- A turn begins (R390): trace kind DISPATCH. -/
def dispatch (s : State) (n : Nat) (p : List Nat) : State :=
  let b := s.bcn.num
  let s := s.setCtx n { s.ctx n with next := some p, used := 0, lastRun := b }
  s.emit 4 7 (p.headD 0) n (s.ctx n).width (b.setWidth 64) 0

/-- A restore that a latency-critical context interrupts (R405). -/
def stopRestore (s : State) (n : Nat) : State :=
  let x := s.ctx n
  if x.st ≠ .restoring then s
  else
    let s := s.setCtx n { x with st := .waiting }
    { s with cores := s.cores.map (fun e =>
        let c := if e.2.ctx.map Prod.fst = some n then { e.2 with ctx := none } else e.2
        (e.1, if c.resid.map Prod.fst = some n then { c with resid := none } else c)) }

/-- The context is taken off the cores that it holds. -/
def displace (s : State) (n : Nat) : State :=
  match (s.ctx n).st with
  | .restoring => stopRestore s n
  | _ => preempt s n false

/-- The other holders of a placement. -/
def holdersOf (s : State) (n : Nat) (p : List Nat) : List Nat :=
  ((p.filterMap (fun k => (s.core k).ctx.map Prod.fst)).eraseDups).filter (· != n)

/-- A WAITING context that no placement fits any more is torn down (R400 cause 0x3). -/
def noFit (s : State) (n : Nat) : Bool := (placements s (s.ctx n) (coreIn s)).isEmpty

/-- Cores that a context may use between beacons (R392): free ones and those of HOLDING contexts, and with `force` those of
RUNNING or RESTORING best-effort ones. A latency-critical context is displaced by none (R390, R392). -/
def mayUse (s : State) (force : Bool) (k : Nat) : Bool :=
  match (s.core k).ctx with
  | none => !promised s k
  | some (m, _) => !promised s k && (match (s.ctx m).st with
    | .holding => !(s.ctx m).lc
    | .running => force && !(s.ctx m).lc
    | .restoring => force && !(s.ctx m).lc
    | _ => false)

/-- R392 for one WAITING context. -/
def offerTo (s : State) (n : Nat) : State :=
  let x := s.ctx n
  if !waitingCtx x then s
  else if noFit s n then startTeardown s n 3
  else
    let take (s : State) (p : List Nat) : State := (holdersOf s n p).foldl displace (dispatch s n p)
    match bestPlacement s n (mayUse s false) with
    | (some p, s) => take s p
    | (none, s) =>
      if x.lc then match bestPlacement s n (mayUse s true) with
        | (some p, s) => take s p
        | (none, s) => s
      else s

/-- The WAITING contexts in the order of R390. -/
def offerOrder (s : State) : List Nat :=
  (List.range 32).flatMap (fun q =>
    sortCtx s (ctxsOf s q (fun x => waitingCtx x && x.lc)) ++ sortCtx s (ctxsOf s q (fun x => waitingCtx x && !x.lc)))

/-- They are offered cores one by one, each once: a context that a latency-critical one has put back to WAITING is offered them after it. -/
def offerAll : Nat → List Nat → State → State
  | 0, _, s => s
  | f + 1, gone, s => match (offerOrder s).find? (fun n => !gone.contains n) with
    | none => s
    | some n => offerAll f (n :: gone) (offerTo s n)

/-- WAITING contexts are offered free cores in the order of R390 (R392). -/
def offerCores (s : State) : State := beginRestores (offerAll s.ctxs.length [] s)

/-- On cores with its turn over (R390); HOLDING counts as expired. -/
def isExpired (x : Ctx) : Bool := x.expired && (decide (x.st = .running) || decide (x.st = .holding))

/-- R390 for one partition. -/
def schedulePart (s : State) (q : Nat) : State :=
  if (s.part q).st ≠ .active then s
  else
    let held := ctxsOf s q (fun x => decide (x.st = .running) || decide (x.st = .holding))
    let s := held.foldl (fun s n => s.setCtx n { s.ctx n with used := holdInc 255 (s.ctx n).used }) s
    let expired (x : Ctx) : Bool := decide (x.st = .holding) || (decide (x.st = .running) && decide ((s.part q).slice ≤ x.used))
    let s := held.foldl (fun s n => s.setCtx n { s.ctx n with expired := expired (s.ctx n) }) s
    let grp (p : Ctx → Bool) : List Nat := sortCtx s (ctxsOf s q p)
    let cand := grp (fun x => waitingCtx x && x.lc) ++
      grp (fun x => isExpired x && x.lc) ++
      grp (fun x => waitingCtx x && !x.lc) ++
      grp (fun x => isExpired x && !x.lc)
    let avail (s : State) (k : Nat) : Bool := match (s.core k).ctx with
      | none => true
      | some (m, _) => isExpired (s.ctx m)
    let base := (List.range 256).filter (fun k => bit (s.part q).clusters (clusterOf k) && avail s k && !promised s k)
    let (s, _, given) := cand.foldl (fun (a : State × List Nat × List (Nat × List Nat)) n =>
      let (s, left, given) := a
      if waitingCtx (s.ctx n) && noFit s n then (startTeardown s n 3, left, given)
      else match bestPlacement s n (left.contains ·) with
        | (none, s) => (s, left, given)
        | (some p, s) =>
          let left := left.filter (fun k => !p.contains k)
          if p = (s.ctx n).cores ∧ isExpired (s.ctx n) then
            (s.setCtx n { s.ctx n with used := 0, lastRun := s.bcn.num, expired := false }, left, given)
          else (dispatch s n p, left, given ++ [(n, p)])) (s, base, [])
    let losers := (given.flatMap (fun g => holdersOf s g.1 g.2)).eraseDups
    let moved := (given.map Prod.fst).filter (fun n => isExpired (s.ctx n))
    (losers ++ moved).foldl displace s

/-- Beacon scheduling, action 8 of R370. -/
def scheduleAll (s : State) : State := beginRestores ((List.range 32).foldl schedulePart s)

/-- A context receives work (R387). -/
def getsWork (s : State) (n : Nat) : State :=
  let x := s.ctx n
  match x.st with
  | .idle => offerCores (s.setCtx n { x with st := .waiting })
  | .holding => if x.kernel.isSome then s else s.setCtx n { x with st := .running }
  | _ => s

def hasWork (x : Ctx) : Bool := x.sqHead != x.sqTail || x.kernel.isSome

/-- Array, vector engine and DMA have finished what they had started (R85, R99, R204, R249). A started drain that waits for a row of a
pass whose front has not started counts as stopped: it is saved, and begins again after the resume (log 79). -/
def enginesStopped (c : Core) : Bool :=
  (List.range c.mx.queue.length).all (fun i => (c.mx.queue[i]?).all (fun q =>
    if q.drain then q.state != .running || drainParted c.mx i q else !q.fronted && !q.go)) &&
    c.cvs.all (fun e => match e.2.coll with | some q => q.phase == 1 | none => true) &&
    c.dma.queue.all (fun q => q.reqs.isEmpty && (decide (q.stage ≠ .moving) || q.untouched || ((q.waitTag || q.waitMap) && !q.movedAll)))

/-- The queues of a core as they are saved: passes not started are queued again, active DMA commands are not started, and
waits on tags, rings and faults have ended (R85, R204, R227, R249). -/
def Core.settleQueues (c : Core) : Core :=
  { c with
    quiet := true
    entryQ := []
    rels := []
    mx := { c.mx with queue := c.mx.queue.map (fun q => { MxCmd.fresh q.ord q.drain q.desc q.pc q.map q.step with wide := q.wide }), mode :=
      if c.mx.converged.isEmpty then .idle else .sections }
    dma := { c.dma with queue := c.dma.queue.map (fun q => { q with stage := .queued, held := [], failed := [], tries := q.tries + 1, waitTag := false, waitMap := false }) }
    ve := { c.ve with parked := [] }
    sp := { c.sp with waits := [], moving := [], behind := [] } }

/-- The vector engine and its channels write the results of what they have read (R204). -/
def flushVector (s : State) (k : Nat) : State :=
  let s := (match (s.core k).ve.queue with
    | v :: _ => if v.started && !v.done && !v.isSummary then
        let (t, w) := veFlush k (v.vl + 1) s v
        putVe t k w
      else s
    | [] => s)
  (s.core k).ve.chans.foldl (fun s e => chanPump k e.1 false (e.2.vl + 1) s) s

/-- R393: a core of a context that is being pre-empted becomes quiescent when its five steps are complete. -/
def execContextQuiescent (k : Fin 256) (s : State) : Out :=
  match (s.core k.val).ctx with
  | none => .next s
  | some (n, _) =>
    if (s.ctx n).st ≠ .saving ∨ (s.core k.val).quiet then .next s
    else
      let s := flushVector ((s.core k.val).dma.queue.foldl (fun s q => dmaPartial (dmaRun s k.val q.seq) k.val q.seq) s) k.val
      let s := flushCore s k.val
      if enginesStopped (s.core k.val) && coreQuiet s k.val then .next (s.updCore k.val Core.settleQueues) else .next s

/-- Cores that a context holds, with their indices. -/
def heldCores (s : State) (n : Nat) : List (Nat × Nat) :=
  s.cores.filterMap (fun e => match e.2.ctx with
    | some (m, i) => if m = n then some (e.1, i) else none
    | none => none)

/-- A context leaves its cores. -/
def freeCores (s : State) (n : Nat) : State :=
  { s with cores := s.cores.map (fun e =>
      if e.2.ctx.map Prod.fst = some n then (e.1, { e.2 with ctx := none, stopped := false, quiet := false }) else e) }

/-- R394: every core's control block is written; the cores are free. -/
def execContextSaved (n : BitVec 12) (s : State) : Out :=
  let x := s.ctx n.toNat
  let held := heldCores s n.toNat
  if x.st ≠ .saving ∨ held.isEmpty ∨ !(held.all (fun e => (s.core e.1).quiet)) then .next s
  else
    let s := held.foldl (fun s e => saveCore s n.toNat e.2 e.1) s
    let kept := held.foldl (fun t e => tput t e.2 { s.core e.1 with l1 := Cache.dflt, tlb := ⟨[], []⟩, sp := { (s.core e.1).sp with data := [] } }) []
    let s := held.foldl (fun s e => s.updCore e.1 (fun c => { c with resid := some (n.toNat, e.2) })) s
    let s := freeCores s n.toNat
    let x := s.ctx n.toNat
    let st := if x.toStop then .stopped else if hasWork x then .waiting else CtxState.idle
    let s := s.setCtx n.toNat { x with
      st := st, fresh := false, toStop := false, expired := false, kept := kept, savedOn := x.cores
      next := if st = .waiting then x.next else none }
    let s := s.emit 4 8 (x.cores.headD 0) n.toNat 0 (s.bcn.num.setWidth 64) 0
    .next (offerCores (beginRestores s))

/-- R395: one core of a restore. -/
def restoreOne (s : State) (n i k shift : Nat) (moved : Bool) : State :=
  let x := s.ctx n
  let phys := s.core k
  let skip := phys.resid == some (n, i)
  let c := if x.fresh then freshCore phys
    else restoreCore s (saveArea x i) (tget Core.dflt x.kept i) phys skip shift
  let c := loadTlbRegs x n { c with ctx := some (n, i), stopped := false, quiet := false, resid := if skip then phys.resid else none }
  let s := s.setCore k c
  if moved then (remKeys s k).foldl (fun s key => discardRem s k key) s else s

/-- R395, R396: the context resumes on its cores. -/
def execContextRestored (n : BitVec 12) (s : State) : Out :=
  let x := s.ctx n.toNat
  let held := heldCores s n.toNat
  if x.st ≠ .restoring then .next s
  else
    let area (i : Nat) : Nat := saveArea x i
    let skip (e : Nat × Nat) : Bool := (s.core e.1).resid == some (n.toNat, e.2)
    if !x.fresh && held.any (fun e => poisonedImage s (area e.2) (skip e)) then .next (startTeardown s n.toNat 6)
    else if !x.fresh && held.any (fun e => badImage s (area e.2) || (x.resumed && badEdit s (area e.2))) then
      .next (faultCore s (x.cores.headD 0) 1 0 0 0 0 0 0)
    else
      let s := held.foldl (fun s e =>
        let was := x.savedOn.getD e.2 e.1
        restoreOne s n.toNat e.2 e.1 (if x.width < 8 ∧ !x.fresh then e.1 % 8 + 8 - was % 8 else 0)
          (!x.fresh && clusterOf was != clusterOf e.1)) s
      let cl := (held.map (fun e => clusterOf e.1)).eraseDups
      let s := cl.foldl (fun s c => s.setCluster c { s.cluster c with
        recent := (n.toNat :: (s.cluster c).recent.filter (· != n.toNat)).take 4 }) s
      let s := s.setCtx n.toNat { s.ctx n.toNat with st := .running, resumed := false }
      let x := s.ctx n.toNat
      .next (if hasWork x then s else s.setCtx n.toNat { x with st := .holding })

/-- A translation of the hub die for a context (R415): the physical address and the leaf. -/
def hubXlate (s : State) (n : Nat) (va : W64) : Option (W64 × W64) :=
  match walk s 32 n (vpnOf va) with
  | .leaf level e _ =>
    let p := pageLog level
    let t : TlbEnt := ⟨n, vpnOf va / 2 ^ p * 2 ^ p, p, p, e⟩
    some (t.pa va, e)
  | _ => none

/-- Where a word of a context's ring lies: in this module's HBM, in host memory, in another module, or nowhere that the
context may reach (R310, R415). -/
inductive RingPlace where
  | here (off : Nat)
  | host (addr : W64)
  | remote (pa : W64)
  | none
  deriving DecidableEq, Repr

def ringPlace (s : State) (n : Nat) (va : W64) (write : Bool) (len : Nat) : RingPlace :=
  match hubXlate s n va with
  | .none => .none
  | .some (pa, e) =>
    if (write && !eW e) || !eRd e then .none
    else if eSpace e = 0 then (if isRemote s pa then .remote pa else if cohPoison s (paOff pa) && !write then .none else .here (paOff pa))
    else if eSpace e = 3 ∧ hostWinOn s n ∧ ideOk s (busAddr s n pa) len then .host (busAddr s n pa)
    else .none

/-- The fault code of R131 of a ring access that fails. -/
def ringCode (s : State) (n : Nat) (va : W64) : Nat :=
  match walk s 32 n (vpnOf va) with
  | .invalid _ => 4
  | .poison => 6
  | .prot _ _ => 5
  | .leaf .. => match hubXlate s n va with
    | some (pa, e) => if eSpace e = 0 ∧ isLocalHbm s pa ∧ cohPoison s (paOff pa) then 6 else 5
    | none => 5

/-- Its cause in TLB_PCAUSE (R325), 0 where it has none. -/
def ringCause (s : State) (n : Nat) (va : W64) (write : Bool) : Nat :=
  match walk s 32 n (vpnOf va) with
  | .prot c _ => c
  | .leaf .. => (match hubXlate s n va with
    | some (_, e) => if (write && !eW e) || !eRd e then 1 else if eSpace e = 0 then 0 else if eSpace e = 3 ∧ hostWinOn s n then 0 else 5
    | none => 0)
  | _ => 0

def sqBase (x : Ctx) : W64 := x.word 5 &&& 0xFFFFFFFFFFFFF000#64
def sqSize (x : Ctx) : Nat := 2 ^ fld (x.word 5) 4 0
def cqBase (x : Ctx) : W64 := x.word 6 &&& 0xFFFFFFFFFFFFF000#64
def cqSize (x : Ctx) : Nat := 2 ^ fld (x.word 6) 4 0

def cqAddr (x : Ctx) (i : Nat) : W64 := cqBase x + BitVec.ofNat 64 (32 * (i % cqSize x))

/-- Whether entry `cqTail + d` of a completion ring is free: its word 0 reads zero (R414). In host memory or another module's the device
has to read it first: it knows this of the first `cqKnown` entries (log 21). None where the ring cannot be reached. -/
def cqFree (s : State) (n d : Nat) : Option Bool :=
  match ringPlace s n (cqAddr (s.ctx n) ((s.ctx n).cqTail + d)) true 32 with
  | .here off => some (cohWord s off == 0)
  | .none => none
  | _ => some (decide (d < (s.ctx n).cqKnown))

/-- Entries that a record looks at: its own, the one that separates tail from head, and for a record other than a teardown the entry
that is kept for one (R417). -/
def cqNeeds (teardown : Bool) : Nat := if teardown then 2 else 3

/-- Room for a record. -/
def cqRoom (s : State) (n : Nat) (teardown : Bool) : Option Bool :=
  let all := (List.range (cqNeeds teardown)).map (cqFree s n)
  if all.any (fun o => o.isNone) then none else some (all.all (fun o => o == some true))

/-- The device reads word 0 of the first entry of the ring that it does not know to be free, where the ring does not lie in this module's
HBM (R414, R417). -/
def cqProbe (s : State) (n : Nat) (teardown : Bool) : State :=
  let x := s.ctx n
  let i := (x.cqTail + x.cqKnown) % cqSize x
  let k := x.cores.headD 0
  let open_ := s.mem.hostRd.any (fun r => r.owner == .cq n i) || s.mem.fab.any (fun t => t.owner == .cq n i)
  if cqNeeds teardown ≤ x.cqKnown || open_ then s
  else match ringPlace s n (cqAddr x i) true 32 with
    | .host a => (match freeTag s with
      | some t => hostRead s x.fn.toNat t a 8 (.cq n i)
      | none => s)
    | .remote pa => if entryFree s k .cc then fabSendFor s n k (freeEntry s k) (.cq n i) false pa (2 ^ fld pa 7 6) [] 0 else s
    | _ => s

/-- An interrupt of the context after a record (R419). -/
def recordIrq (s : State) (n : Nat) (urgent : Bool) : State :=
  let x := s.ctx n
  let w := x.word 7
  let k := x.sinceIrq + 1
  let vec := fld w 42 32
  if urgent || (bit w 31 && decide (max 1 (fld w 23 16) ≤ k)) then
    msix (s.setCtx n { x with sinceIrq := 0, timer := false }) x.fn.toNat vec
  else s.setCtx n { x with sinceIrq := k, timer := x.timer || (bit w 31 && fld w 15 0 != 0) }

/-- Write a record at the tail of the completion ring (R417); none where the ring cannot be reached. -/
def writeRecord (s : State) (n kind cause : Nat) (tag : Nat) (urgent : Bool) : Option (State × W64) :=
  let x := s.ctx n
  let (st, s1) := s.stamp
  let w0 : W64 := at_ 63 1 ||| at_ 56 kind ||| at_ 52 cause ||| at_ 40 n ||| at_ 0 (tag % 2 ^ 32)
  let ws := [w0, BitVec.ofNat 64 (x.consumed % 65536), st, 0]
  let s2 := s1.setCtx n { x with cqTail := (x.cqTail + 1) % cqSize x, cqKnown := x.cqKnown - 1 }
  let done (s : State) : Option (State × W64) := some (recordIrq s n urgent, st)
  match ringPlace s n (cqAddr x x.cqTail) true 32 with
  | .here off => done (cohWrite s2 off (bytesOf ws))
  | .host a => done (putEntry s2 x.fn.toNat a ws)
  | .remote pa =>
    let k := x.cores.headD 0
    done (sendWbFor s2 n k (pa &&& ~~~0xFF#64) (2 ^ (fld pa 7 6))
      ((bytesOf ws).zipIdx.map (fun b => (fld pa 7 0 + b.2, b.1))) 0)
  | .none => none

/-- Entries of context `n` in the range of pages leave every TLB; its walk-cache entries all go (R323). -/
def dropXlate (s : State) (n lo hi : Nat) : State :=
  let cut (t : Tlb) : Tlb := { t with ents := t.ents.filter (fun e =>
    !(e.2.ctx == n && decide (e.2.vpn < hi) && decide (lo < e.2.vpn + 2 ^ e.2.log2))) }
  { s with
    cores := s.cores.map (fun e => (e.1, { e.2 with tlb := cut e.2.tlb }))
    mem := { s.mem with clusters := s.mem.clusters.map (fun e => (e.1, { e.2 with
      tlb := cut e.2.tlb
      dtlb := e.2.dtlb.map (fun d => (d.1, cut d.2))
      wcache := e.2.wcache.filter (fun w => w.2.ctx != n) })) } }

/-- Fault records that meet `p` close (R321): traced, and those who waited without a record translate again (R319). -/
def closeRecords (s : State) (p : FaultRec → Bool) : State :=
  let gone := s.mem.recs.filter p
  if gone.isEmpty then s
  else
    let s := gone.foldl (fun s r => s.emit 4 0x0B 0 r.ctx (r.id + 2 ^ 31) r.va r.stamp) s
    let ws := s.mem.noRec
    let s := { s with mem := { s.mem with recs := s.mem.recs.filter (fun r => !p r), noRec := [] } }
    ws.foldl (fun s w => wakeWalker s w.2.1 w.2.2) s

/-- A core of a torn-down context has nothing left to finish (R400 step 1). -/
def coreEnded (s : State) (k : Nat) : Bool :=
  let c := s.core k
  c.kend == 3 || (c.mx.queue.isEmpty && c.cvs.all (fun e => e.2.coll.isNone) && c.dma.queue.isEmpty && coreQuiet s k)

/-- An answer to an admin command (R418): 16 bytes, laid out as in R322. -/
def adminDone (s : State) (f status ctx : Nat) (tag : W32) : State :=
  let (st, s) := s.stamp
  pushEntry s f .adminCq [at_ 63 1 ||| at_ 56 status ||| at_ 44 ctx ||| at_ 0 tag.toNat, st]

/-- No core carries the residency tag of the context any more (R396). -/
def clearResid (s : State) (n : Nat) : State :=
  { s with cores := s.cores.map (fun e => if e.2.resid.map Prod.fst = some n then (e.1, { e.2 with resid := none }) else e) }

/-- Nor does a cluster's list or walker know it. -/
def forgetCtx (s : State) (n : Nat) : State :=
  let s := clearResid s n
  { s with mem := { s.mem with clusters := s.mem.clusters.map (fun e => (e.1, { e.2 with
      recent := e.2.recent.filter (· != n), walks := e.2.walks.filter (fun w => w.ctx != n) })) } }

/-- The number of a context becomes free (R401). -/
def freeCtx (s : State) (n : Nat) : State := clearResid { s with ctxs := tdel s.ctxs n } n

/-- The record of a teardown: in the completion ring, or as a notice in the admin completion ring (R417). -/
def teardownRecord (s : State) (n : Nat) : State :=
  let x := s.ctx n
  match (if cqRoom s n true = none then none else writeRecord s n 3 x.cause 0 true) with
  | some (s, _) => s
  | none =>
    let (st, s) := s.stamp
    pushEntry s x.fn.toNat .adminCq [at_ 63 1 ||| at_ 56 0x0B ||| at_ 44 n ||| at_ 40 x.cause, st]

/-- Every core of the clusters of a context's partition: it may have left clean remote-attribute copies in any of them (R273; log 92). -/
def partCoresAll (s : State) (n : Nat) : List Nat :=
  ((List.range 32).filter (fun c => bit (s.part (s.ctx n).partNo).clusters c)).flatMap coresOf

/-- Steps 2 to 5 of R400. -/
def finishTeardown (s : State) (n : Nat) : State :=
  let held := heldCores s n
  let s := held.foldl (fun s e => putPieces s (saveArea (s.ctx n) e.2) (saveFaults (s.core e.1))) s
  let s := (partCoresAll s n).foldl (fun s k => (remKeys s k).foldl (fun s key => discardRem s k key) s) s
  let s := closeRecords s (fun r => r.ctx == n)
  let s := dropXlate { s with mem := { s.mem with noRec := s.mem.noRec.filter (fun w => w.1 != n) } } n 0 (2 ^ 52)
  let s := forgetCtx s n
  let s := s.emit 4 9 ((s.ctx n).cores.headD 0) n (s.ctx n).cause 0 0
  let s := teardownRecord (s.setCtx n { s.ctx n with st := .dead, next := none, kernel := none, kept := [] }) n
  let s := freeCores s n
  let reqs := (s.ctx n).destroyReq
  let s := if reqs.isEmpty then s else reqs.foldl (fun s d => adminDone s d.1 0 n d.2) (freeCtx s n)
  offerCores (beginRestores s)

/-- R400 TEARDOWN_COMPLETE: what had started has run to completion, every transaction is answered, and the write-backs of R273
are performed. Where the host has left no room for the record, the teardown waits for it (R414; log 21). -/
def execTeardownComplete (n : BitVec 12) (s : State) : Out :=
  if (s.ctx n.toNat).st ≠ .teardown then .next s
  else
    let ks := (heldCores s n.toNat).map Prod.fst
    let s := ks.foldl (fun s k => if (s.core k).kend = 3 then s else
      flushCore ((s.core k).dma.queue.foldl (fun s q => dmaRun s k q.seq) s) k) s
    if !ks.all (coreEnded s) then .next s
    else if cqRoom s n.toNat true = some false then .next (cqProbe s n.toNat true)
    else .next (finishTeardown s n.toNat)

end Sys2Proof.Machine
end

