-- ==== Sys2Proof/Machine/Contexts.lean ====
section
/-!
DEFINITION. Partitions (15 R378–R384), the admin commands of a function (15 R385, R386, R401; 16 R418), and a context's
submission ring (16 R416, R417, R419).
-/
namespace Sys2Proof.Machine

/-- Dictionary statuses (R428) that a write of an object answers. -/
def kDone : Nat := 0x00
def kRefused : Nat := 0x05
def kBusy : Nat := 0x0B
def kEarly : Nat := 0x0E
def kDeferred : Nat := 0x0F

/-- A unit of HBM none of whose frames is left (R380, R466, R475). -/
def unitLost (s : State) (u : Nat) : Bool :=
  s.rel.lostUnits.contains u ||
    (List.range 32).any (fun c => unitSt s .channel (32 * (u / 64) + c) == .outOfService) ||
    decide (2 ^ 18 ≤ (s.rel.retired.filter (fun r => r.stack == u / 64 && r.frame / 2 ^ 18 == u % 64)).length)

/-- A cluster that a queued or running self-test names, itself or through a core (R479, R380). -/
def clusterTested (s : State) (c : Nat) : Bool :=
  (s.rel.tests ++ s.rel.testing).any (fun t =>
    (t.cmd.target == 2#4 && t.cmd.unit.toNat == c) || (t.cmd.target == 1#4 && t.cmd.unit.toNat / 8 == c))

def unitTested (s : State) (u : Nat) : Bool :=
  (s.rel.tests ++ s.rel.testing).any (fun t => t.cmd.target == 3#4 && t.cmd.unit.toNat == u)

/-- A unit with the carve-out of a trace buffer that records (R491). -/
def traceUnit (s : State) (u : Nat) : Bool := s.dbg.bufs.any (fun e => bit e.2.ctrl 63 && e.2.base.toNat / 2 ^ 30 == u)

/-- Partitions that hold anything. -/
def partsHeld (s : State) : List (Nat × Partition) := s.parts.filter (fun e => decide (e.2.st ≠ .none))

/-- R380: the status of a CREATE; an unfinished command of the partition is looked at before the rest (log 22). -/
def createStatus (s : State) (c : PartCreate) : Nat :=
  let p := s.part c.q.val
  let others := partsHeld s
  if p.st = .creating ∨ p.st = .destroying then 7
  else if c.keySlot.toNat = 0 ∨ 63 < c.keySlot.toNat then 1
  else if p.st ≠ .none then 2
  else if (List.range 32).any (fun i => bit c.clusters i &&
      (!(coresOf i).any (coreIn s) || others.any (fun e => bit e.2.clusters i) || clusterTested s i)) then 3
  else if (List.range 512).any (fun u => bit c.hbmMap u && (others.any (fun e => bit e.2.hbmMap u) || unitLost s u || unitTested s u || traceUnit s u)) then 4
  else if c.clusters = 0 ∨ c.hbmMap = 0 ∨ c.vcFirst = 0 ∨ c.vcLast.toNat < c.vcFirst.toNat ∨ c.slice = 0 then 5
  else if !(s.keySlot c.keySlot.toNat).inUse || others.any (fun e => e.2.keySlot == c.keySlot.toNat) then 6
  else 0

/-- The answer to a PART_CMD that is refused: busy while one of the partition is in progress (R442). -/
def partAnswer (st : Nat) : Nat := if st = 7 then kBusy else kRefused

/-- PART_CMD CREATE (R379–R381). -/
def partCreate (s : State) (c : PartCreate) : State × Nat :=
  let st := createStatus s c
  let s := { s with partStatus := BitVec.ofNat 8 st }
  if st ≠ 0 then (s, partAnswer st)
  else (s.setPart c.q.val {
    st := .creating, clusters := c.clusters, hbmMap := c.hbmMap, slice := c.slice.toNat, sliceNew := none,
    vcFirst := c.vcFirst.toNat, vcLast := c.vcLast.toNat, keySlot := c.keySlot.toNat, stamp := 0 }, kDone)

def execPartCreate (c : PartCreate) (s : State) : Out := .next (partCreate s c).1

/-- A cluster leaves every sharer vector (R465, R381). -/
def leaveHomes (s : State) (c : Nat) : State :=
  { s with mem := { s.mem with homes := s.mem.homes.map (fun e => (e.1, { e.2 with
      dir := (e.2.dir.map (fun d => (d.1, { d.2 with shar := setBit d.2.shar c false }))).filter
        (fun d => d.2.shar != 0 || homeBusy e.2 d.2.line || entryWanted e.2 d.2.line) })) } }

/-- Step 1 of R381 on one cluster: caches and TLBs are invalidated without write-back, scratchpads and accumulators set. -/
def clearCluster (s : State) (c : Nat) : State :=
  let s := leaveHomes s c
  let s := s.setCluster c { Cluster.dflt with l2 := { (s.cluster c).l2 with lines := [] }, served := (s.cluster c).served }
  (coresOf c).foldl (fun s k => s.updCore k (fun x => { x with
    l1 := { x.l1 with lines := [] }, tlb := ⟨[], []⟩, sp := Scratch.dflt, bars := [], resid := none
    mx := { x.mx with acc := [], tags := [] } })) s

def clustersOf (m : W32) : List Nat := (List.range 32).filter (fun c => bit m c)

/-- Every export entry of a partition becomes invalid (R381 step 4, R383 step 3). -/
def dropExports (s : State) (q : Nat) : State :=
  let mine (e : Nat × W128) : Bool := e.1 / 64 == q
  { s with fab := { s.fab with expo := s.fab.expo.filter (fun e => !mine e), expoNew := s.fab.expoNew.filter (fun e => !mine e) } }

/-- R381: the steps of a CREATE are complete. -/
def execPartCreateDone (q : Fin 32) (s : State) : Out :=
  let p := s.part q.val
  if p.st ≠ .creating then .next s
  else
    let s := (clustersOf p.clusters).foldl clearCluster s
    let s := (List.range 512).foldl (fun s u => if bit p.hbmMap u then cohZero s (u * 2 ^ 30) ((u + 1) * 2 ^ 30) else s) s
    let (st, s) := (dropExports s q.val).stamp
    .next (s.setPart q.val { p with st := .active, stamp := st })

/-- PART_CMD DESTROY (R383 step 1). -/
def partDestroy (s : State) (q : Nat) : State × Nat :=
  let p := s.part q
  let st := if p.st = .creating ∨ p.st = .destroying then 7 else if p.st = .none then 2 else 0
  let s := { s with partStatus := BitVec.ofNat 8 st }
  if st ≠ 0 then (s, partAnswer st)
  else
    let s := s.setPart q { p with st := .destroying }
    ((ctxsOf s q (fun _ => true)).foldl (fun s n => startTeardown s n 5) s, kDone)

def execPartDestroy (q : Fin 32) (s : State) : Out := .next (partDestroy s q.val).1

/-- The contents of a freed unit can be read under no key any more (R383): what its key encrypted is gone, and the unit reads as memory
that nothing has written (R403; log 7). -/
def eraseUnit (s : State) (u : Nat) : State :=
  { s with mem := { s.mem with hbm := mclear s.mem.hbm (u * 2 ^ 30) ((u + 1) * 2 ^ 30) } }

/-- R383: with every context torn down, the rest of a DESTROY. -/
def execPartDestroyDone (q : Fin 32) (s : State) : Out :=
  let p := s.part q.val
  if p.st ≠ .destroying || (ctxsOf s q.val (fun x => decide (x.st ≠ .dead))).isEmpty == false then .next s
  else
    let s := (clustersOf p.clusters).foldl clearCluster s
    let s := closeRecords s (fun r => (s.ctx r.ctx).partNo == q.val)
    let s := dropExports s q.val
    let s := { s with bindings := s.bindings.filter (fun e => !(bit e.2 7 && fld e.2 4 0 == q.val)) }
    let s := (List.range 512).foldl (fun s u => if bit p.hbmMap u then eraseUnit s u else s) s
    .next { s with parts := tdel s.parts q.val }

/-- 0x3100 + q:03 (R382): the slice length from the next beacon on. -/
def sliceWrite (s : State) (q : Nat) (v : Byte) : State × Nat :=
  let p := s.part q
  if v = 0 ∨ p.st = .none then (s, kRefused) else (s.setPart q { p with sliceNew := some v.toNat }, kDone)

def execSliceWrite (q : Fin 32) (v : Byte) (s : State) : Out := .next (sliceWrite s q.val v).1

def binding (s : State) (f : Nat) : Byte := tget 0 s.bindings f

/-- 0x3300:SS (R384). -/
def bindWrite (s : State) (vf : Nat) (v : Byte) : State × Nat :=
  let q := fld v 4 0
  if vf = 0 ∨ fld v 6 5 ≠ 0 ∨ (bit v 7 ∧ (s.part q).st ≠ .active) then (s, kRefused)
  else
    let old := binding s vf
    let s := { s with bindings := tset 0 s.bindings vf v }
    if bit old 7 ∧ (!bit v 7 ∨ fld old 4 0 ≠ q) then
      (((s.ctxs.filter (fun e => e.2.fn.toNat == vf)).map Prod.fst).foldl (fun s n => startTeardown s n 4) s, kDone)
    else (s, kDone)

def execVfBindingWrite (vf : Byte) (v : Byte) (s : State) : Out := .next (bindWrite s vf.toNat v).1

/-- Cores of an ACTIVE partition that are in service. -/
def partCores (s : State) (q : Nat) : List Nat :=
  if (s.part q).st = .active then (List.range 256).filter (fun k => bit (s.part q).clusters (clusterOf k) && coreIn s k) else []

/-- Reserved fields of a context descriptor (R385, R415). -/
def descReserved (d : List W64) : Bool :=
  let w (i : Nat) : W64 := d.getD i 0
  let width := fld (w 0) 55 48 + 1
  fld (w 0) 47 0 != 0 || !(width == 1 || width == 2 || width == 4 || width % 8 == 0) ||
    fld (w 1) 63 40 != 0 || fld (w 1) 11 1 != 0 || fld (w 2) 29 0 != 0 || fld (w 3) 14 0 != 0 ||
    fld (w 4) 62 43 != 0 || fld (w 4) 39 32 != 0 || (decide (8 ≤ width) && fld (w 4) 42 40 != 0) ||
    fld (w 5) 11 5 != 0 || fld (w 6) 11 5 != 0 || fld (w 7) 63 43 != 0 || fld (w 7) 30 24 != 0

/-- R415: ring words. -/
def ringWordsBad (f : Nat) (d : List W64) : Bool :=
  let w (i : Nat) : W64 := d.getD i 0
  let bad (x : W64) : Bool := fld x 63 47 != 2 ^ 17 - 1 || fld x 4 0 < 4 || 16 < fld x 4 0
  bad (w 5) || bad (w 6) || decide ((if f = 0 then 2048 else 64) ≤ fld (w 7) 42 32)

/-- Whether a save area lies in the partition's HBM (R386, R311). -/
def areaOk (s : State) (q : Nat) (base : W64) (i : Nat) : Bool :=
  let lo := paOff base + i * 0x298000
  let hi := lo + 0x298000 - 1
  nodeHere s (paNode base) && paSpace base == 0 && decide (hi < 2 ^ 39) &&
    (List.range (hi / 2 ^ 30 - lo / 2 ^ 30 + 1)).all (fun j => bit (s.part q).hbmMap (lo / 2 ^ 30 + j))

/-- The status of a CTX_CREATE in the order of R418. -/
def createCtxStatus (s : State) (f : Nat) (e d : List W64) : Nat :=
  let w (i : Nat) : W64 := d.getD i 0
  let q := fld (w 0) 60 56
  let width := fld (w 0) 55 48 + 1
  let x : Ctx := { Ctx.dflt with desc := d }
  if !s.host.ready then 0x0A
  else if fld (e.headD 0) 63 56 ≠ 1 ∨ fld (e.headD 0) 55 32 ≠ 0 ∨ ((e.drop 1).take 7).any (· != 0) ∨ descReserved d then 2
  else if f ≠ 0 ∧ (!bit (binding s f) 7 ∨ fld (binding s f) 4 0 ≠ q) then 8
  else if (partCores s q).length < width then 3
  else if bit (w 0) 62 ∧ f ≠ 0 then 4
  else if !((List.range width).all (areaOk s q (w 3))) then 5
  else if (placements s x (coreIn s)).isEmpty then 6
  else if !((List.range 4096).any (fun n => decide ((s.ctx n).st = .free))) then 7
  else if ringWordsBad f d then 9
  else 0

/-- The queue of admin commands of a function has one to run (R418: one at a time) that the device can read from host memory (R409). -/
def adminWaits (s : State) (f : Nat) : Bool :=
  let r := (s.fn f).adminSq
  r.on && r.head != r.tail && !s.ctxs.any (fun e => e.2.destroyReq.any (fun d => d.1 == f)) &&
    ideOk s (r.base + BitVec.ofNat 64 (128 * r.head)) 128

def adminTake (s : State) (f : Nat) : State :=
  let h := s.fn f
  s.setFn f { h with adminSq := { h.adminSq with head := (h.adminSq.head + 1) % h.adminSq.size } }

def admTag (e : List W64) : W32 := (e.headD 0).setWidth 32

/-- R385, R386, R418: CTX_CREATE; `entry` is the 128-byte entry that the device reads from host memory. -/
def execCtxCreate (f : Byte) (entry : List W64) (s : State) : Out :=
  let fn := f.toNat
  if !adminWaits s fn || fld (entry.headD 0) 63 56 == 2 then .next s
  else
    let s := adminTake s fn
    let d := (entry.drop 8).take 8
    let st := createCtxStatus s fn entry d
    if st ≠ 0 then .next (adminDone s fn st 0 (admTag entry))
    else
      let n := ((List.range 4096).find? (fun n => decide ((s.ctx n).st = .free))).getD 0
      let s := s.setCtx n { Ctx.dflt with st := .idle, desc := d, fn := f, fresh := true }
      .next (adminDone s fn 0 n (admTag entry))

/-- R401, R418: CTX_DESTROY. -/
def execCtxDestroy (f : Byte) (entry : List W64) (s : State) : Out :=
  let fn := f.toNat
  let w0 := entry.headD 0
  if !adminWaits s fn || fld w0 63 56 != 2 then .next s
  else
    let s := adminTake s fn
    let n := fld w0 55 44
    let x := s.ctx n
    if !s.host.ready then .next (adminDone s fn 0x0A 0 (admTag entry))
    else if fld w0 43 32 ≠ 0 ∨ (entry.drop 1).any (· != 0) then .next (adminDone s fn 2 0 (admTag entry))
    else if x.st = .free ∨ (fn ≠ 0 ∧ x.fn ≠ f) then .next (adminDone s fn 1 0 (admTag entry))
    else if x.st = .dead then .next (adminDone (freeCtx s n) fn 0 n (admTag entry))
    else
      let s := s.setCtx n { x with destroyReq := x.destroyReq ++ [(fn, admTag entry)] }
      .next (startTeardown s n 4)

/-- The submission entry at the head of a context's ring (R415, R416), where it can be reached; what the host holds comes with
the command. -/
def sqEntry (s : State) (n : Nat) (hostEntry : List W64) : Option (List W64) :=
  let x := s.ctx n
  match ringPlace s n (sqBase x + BitVec.ofNat 64 (64 * x.sqHead)) false 64 with
  | .here off => some ((List.range 8).map (fun i => cohWord s (off + 8 * i)))
  | .none => none
  | _ => some ((List.range 8).map (fun i => hostEntry.getD i 0))

/-- The device takes the next entry only while the context runs no kernel and owes no record (R416). -/
def mayTake (x : Ctx) : Bool := decide (x.st = .running) && x.kernel.isNone && x.sqHead != x.sqTail

def takeEntry (s : State) (n : Nat) : State :=
  let x := s.ctx n
  s.setCtx n { x with sqHead := (x.sqHead + 1) % sqSize x, consumed := (x.consumed + 1) % 65536 }

/-- The core fault of a context's ring or entry (R415, R416): cause FAULT with a code, on its first core. -/
def ctxFault (s : State) (n code cause : Nat) : State :=
  let k := (s.ctx n).cores.headD 0
  faultCore (setPcause s k cause) k code 0 0 0 0 0 0

/-- The same of an access to its submission or its completion ring, there at the first entry that cannot be reached. -/
def sqFault (s : State) (n : Nat) : State :=
  let va := sqBase (s.ctx n) + BitVec.ofNat 64 (64 * (s.ctx n).sqHead)
  ctxFault s n (ringCode s n va) (ringCause s n va false)

def cqFault (s : State) (n : Nat) : State :=
  let x := s.ctx n
  let va := cqAddr x (x.cqTail + ((List.range 3).find? (fun d => (cqFree s n d).isNone)).getD 0)
  ctxFault s n (ringCode s n va) (ringCause s n va true)

/-- Word 0 of entry `i` of a completion ring outside this module's HBM has been read (R414): a zero says that the entry is free, and the next
is looked at. A poisoned read faults as any access to the ring does (R415). -/
def cqRead (s : State) (n i w : Nat) (poison : Bool) : State :=
  let x := s.ctx n
  if x.st = .free ∨ x.st = .dead ∨ i ≠ (x.cqTail + x.cqKnown) % cqSize x then s
  else if poison then ctxFault s n 6 0
  else if w ≠ 0 then s
  else cqProbe (s.setCtx n { x with cqKnown := x.cqKnown + 1 }) n (decide (x.st = .teardown))

/-- A context with nothing left to do holds its cores (R387). -/
def settleCtx (s : State) (n : Nat) : State :=
  let x := s.ctx n
  if x.st = .running ∧ !hasWork x then offerCores (s.setCtx n { x with st := .holding }) else s

/-- Start of a kernel on one core (R416). -/
def startKernel (c : Core) (entry arg : W64) (i w : Nat) : Core :=
  let c := { c with sregs := [], pc := entry, kend := 0, wait := .none }
  ((c.setSreg 1 arg).setSreg 2 (BitVec.ofNat 64 i)).setSreg 3 (BitVec.ofNat 64 w)

/-- R416 LAUNCH; a reserved entry tears the context down. -/
def execLaunch (n : BitVec 12) (hostEntry : List W64) (s : State) : Out :=
  let c := n.toNat
  if !mayTake (s.ctx c) then .next s
  else match sqEntry s c hostEntry with
    | none => .next (sqFault s c)
    | some e =>
      let w0 := e.headD 0
      if fld w0 63 56 = 2 then .next s
      else if fld w0 63 56 ≠ 1 ∨ fld w0 55 33 ≠ 0 ∨ (e.drop 3).any (· != 0) then .next (ctxFault (takeEntry s c) c 1 0)
      else
        let s := takeEntry s c
        let s := s.setCtx c { s.ctx c with kernel := some w0 }
        let s := (heldCores s c).foldl (fun s h =>
          s.updCore h.1 (fun x => startKernel x (e.getD 1 0) (e.getD 2 0) h.2 (s.ctx c).width)) s
        .next (s.emit 4 5 ((s.ctx c).cores.headD 0) c (fld w0 31 0) (e.getD 1 0) 0)

/-- R416 NOP: its record is written at once. -/
def execSubmissionNop (n : BitVec 12) (hostEntry : List W64) (s : State) : Out :=
  let c := n.toNat
  if !mayTake (s.ctx c) then .next s
  else match sqEntry s c hostEntry with
    | none => .next (sqFault s c)
    | some e =>
      let w0 := e.headD 0
      if fld w0 63 56 ≠ 2 then .next s
      else if fld w0 55 33 ≠ 0 ∨ (e.drop 3).any (· != 0) then .next (ctxFault (takeEntry s c) c 1 0)
      else match cqRoom s c false with
        | none => .next (cqFault s c)
        | some false => .next (cqProbe s c false)
        | some true =>
          match writeRecord (takeEntry s c) c 2 0 (fld w0 31 0) (bit w0 32) with
          | some (s, _) => .next (settleCtx s c)
          | none => .next (cqFault s c)

/-- R417: every core has completed its kernel end: the record is written, or waits for room while the cores are HOLDING (R421). -/
def execKernelDoneRecord (n : BitVec 12) (s : State) : Out :=
  let c := n.toNat
  let x := s.ctx c
  let held := heldCores s c
  match x.kernel with
  | none => .next s
  | some w0 =>
    if !(x.st == .running || x.st == .holding) || held.isEmpty || !(held.all (fun h => (s.core h.1).kend == 2)) then .next s
    else match cqRoom s c false with
      | none => .next (cqFault s c)
      | some false => .next (cqProbe (offerCores (s.setCtx c { x with st := .holding })) c false)
      | some true =>
        match writeRecord s c 1 0 (fld w0 31 0) (bit w0 32) with
        | none => .next (cqFault s c)
        | some (s, st) =>
          let s := s.setCtx c { s.ctx c with kernel := none, st := .running }
          let s := s.emit 4 6 (x.cores.headD 0) c (fld w0 31 0) st 0
          .next (settleCtx s c)

/-- R419: COAL_US after the first record without an interrupt. -/
def execCoalesceTimerExpiry (n : BitVec 12) (s : State) : Out :=
  let x := s.ctx n.toNat
  if !x.timer || x.sinceIrq == 0 then .next s
  else .next (msix (s.setCtx n.toNat { x with sinceIrq := 0, timer := false }) x.fn.toNat (fld (x.word 7) 42 32))

end Sys2Proof.Machine
end

