-- ==== Sys2Proof/Machine/Answers.lean ====
section
/-!
DEFINITION. Answers to requests: from a home (11 R279, R286), from another module (13 R352–R355), and from the host (10 R251, R269).
-/
namespace Sys2Proof.Machine

/-- The access with a number, among the cores of a cluster. -/
def accOf (s : State) (ks : List Nat) (id : Nat) : Option (Nat × Access) :=
  ks.findSome? (fun k => ((s.core k).acc.find? (fun a => a.id == id)).map (fun a => (k, a)))

/-- The value of `n` bytes from line offset `o`. -/
def bytesVal (bs : Bytes) (o n : Nat) : Nat := leNat ((List.range n).map (fun i => byteIn bs (o + i)))

def Access.lineOff (a : Access) : Nat := 64 * a.sec + a.off

/-- The accesses that an answer to a core serves together: those of one issue to one line (R129), but an atomic by itself. -/
def served (s : State) (k : Nat) (a : Access) : List Access :=
  if a.isAmo then [a] else a.line (s.core k).acc

/-- Accesses that were served outside the caches come back with the bytes of their line, or as written, lane by lane. -/
def accessBack (s : State) (k id : Nat) (bs : Bytes) (poison : Nat) : State :=
  match accOf s [k] id with
  | some (k, a) => (served s k a).foldl (fun s b =>
      if (s.core k).acc.any (fun x => x.id == b.id) then
        let s := if b.isStore && b.rem then discardRem s k (b.key s) else s
        deliver s k b (if b.isStore then 0 else bytesVal bs b.lineOff b.size) (poison / 2 ^ b.sec % 2 == 1)
      else s) s
  | none => s

/-- The copies of a line in a cluster take the bytes that a write-through store has written (R279). -/
def updateCopies (s : State) (c key : Nat) (bs : Bytes) : State :=
  let put (l : CLine) : CLine := { l with sec := bs.foldl (fun t b => patchSectors t (b.1 / 64) (b.1 % 64) b.2) l.sec }
  (coresOf c).foldl (fun s k => usedL1 (updL1Line s k key put) k key) (usedL2 (updL2Line s c key put) c key)

/-- The core of the DMA command that a home's answer names: its number holds core and transaction entry. -/
def dmaBack (s : State) (id : Nat) (f : Nat → Byte) (poison : Nat) : State :=
  let k := id / 256
  match (s.core k).dma.queue.find? (fun q => q.reqs.any (fun r => r.1 == id % 256)) with
  | some q => dmaAnswer s k q.seq (id % 256) f poison
  | none => s

/-- A response packet of the endpoint (R338): it returns to the requester on the pair of its request, or along the reversed
path (R345). -/
def respPacket (s : State) (req : Packet) (port : Option Nat) (type status poison : Nat) (body : List W64) (st : W64) : Packet :=
  let k := pkHops req
  let ent (i : Nat) : Nat := fld req.w1 (5 * i + 4) (5 * i)
  let path : W64 := at_ 60 k ||| (List.range k).foldl (fun (w : W64) i =>
    w ||| at_ (5 * i) (if i = 0 then port.getD 0 else ent (12 - i))) 0
  { w0 := hdr0 (if pkPathed req then 0xFFFFE else pkSrc req) s.fab.node.toNat (2 * (pkVc req / 2) + 1) (pkTc req) type body.length
    w1 := if pkPathed req then path else at_ 0 (pkOff req)
    w2 := st
    w3 := at_ 48 (pkTxn req) ||| at_ 44 (pkMask req) ||| at_ 38 poison ||| at_ 35 status
    body := body }

/-- Units of the sectors of a mask, in increasing order (R338). -/
def sectorUnits (mask : Nat) (bs : Bytes) : List W64 :=
  (sectorsOf mask).flatMap (fun q => (List.range 8).map (fun u =>
    BitVec.ofNat 64 (leNat ((List.range 8).map (fun i => byteIn bs (64 * q + 8 * u + i))))))

/-- A remote write that is performed after the beacon that follows its own (R372). -/
def lateWrite (s : State) (p : Packet) : State :=
  if pkType p = 3 ∧ bcnLater (stampBcn p.w2) s.bcn.num then
    postEvent { s with stamps := { s.stamps with lateWrites := holdInc 0xFFFFFFFF s.stamps.lateWrites } } 0x0A 0 0 0
      (at_ 44 (pkSrc p) ||| at_ 0 (pkOff p)) p.w2
  else s

/-- The endpoint answers a remote request whose home transaction has completed (R338). -/
def endpointBack (s : State) (id : Nat) (bs : Bytes) (poison : Nat) : State :=
  match s.fab.atHome.find? (fun e => e.1 == id) with
  | none => s
  | some (_, p, port) =>
    let (st, s) := (lateWrite s p).stamp
    let s := { s with fab := { s.fab with atHome := s.fab.atHome.filter (fun e => e.1 != id) } }
    let r := if pkType p = 1 then respPacket s p port 2 0 poison (sectorUnits (pkMask p) bs) st else respPacket s p port 4 0 0 [] st
    { s with fab := { s.fab with epOut := s.fab.epOut ++ [r] } }

/-- R286 DATA_U: data for an uncached read, a DMA read or the hub die. -/
def execDataU (a : Agent) (line : BitVec 31) (s : State) : Out :=
  match arrive s a line.toNat false (· == .dataU) with
  | none => .next s
  | some (m, s) =>
    match a with
    | .l2 c => match accOf s (coresOf c.val) m.id with
      | some (k, x) => .next (retryLine (accessBack s k x.id m.bytes m.poison) c.val m.line)
      | none => .next (askWaiting s c.val)
    | .dma e => .next (askWaiting (dmaBack s m.id (byteIn m.bytes) m.poison) (e.val / 2))
    | .hub => .next (endpointBack s m.id m.bytes m.poison)

/-- R279, R286 ACK: a write or an atomic at the home has been performed. -/
def execAck (a : Agent) (line : BitVec 31) (s : State) : Out :=
  match arrive s a line.toNat false (· == .ack) with
  | none => .next s
  | some (m, s) =>
    match a with
    | .l2 c =>
      let s := if m.poison = 0 then updateCopies s c.val m.line m.bytes else s
      let s := match accOf s (coresOf c.val) m.id with
        | some (k, x) => if x.isAmo then deliver s k x m.val.toNat (m.poison != 0) else accessBack s k x.id [] m.poison
        | none => s
      .next (retryLine s c.val m.line)
    | .dma e => .next (askWaiting (dmaBack s m.id (fun _ => 0) m.poison) (e.val / 2))
    | .hub => .next (endpointBack s m.id [] 0)

/-- A record of 0x4300:00 (R355): 160 bits, padded to 24 bytes; the last 64 are kept. -/
def addLoss (s : State) (kind : Nat) (t : FabTxn) : State :=
  let (st, s) := s.stamp
  let v := kind + pkDst t.pkt * 2 ^ 8 + pkOff t.pkt * 2 ^ 28 + pkTxn t.pkt * 2 ^ 68 + t.ctx * 2 ^ 84 + st.toNat * 2 ^ 96
  let l := s.fab.losses ++ [leBytes 24 v]
  let s := { s with fab := { s.fab with losses := l.drop (l.length - 64), lossTotal := holdInc 0xFFFFFFFF s.fab.lossTotal } }
  postEvent s (if kind = 1 then 8 else 9) 0 0 0 (at_ 44 (pkDst t.pkt) ||| at_ 0 (pkOff t.pkt))
    (at_ 48 (pkTxn t.pkt) ||| at_ 36 t.ctx)

def closeTxn (s : State) (id : Nat) : State := { s with mem := { s.mem with fab := s.mem.fab.filter (fun t => t.id != id) } }

/-- SOURCE of R133 for the owner of a transaction: the issuer's core and kind, its caravan and lowest lane, and its lanes. -/
def issuerOf (s : State) : Owner → Nat × Nat × Nat × Nat × W32
  | .access k id => match accOf s [k] id with
    | some (_, a) => (match a.req with
      | .thread v _ =>
        let on := served s k a
        let lanes := (List.range 32).filter (fun l => on.any (fun b => b.req == .thread v l))
        (k, 1, v, lanes.headD 0, maskOf lanes)
      | .chan _ => (k, 3, 0, 0, 0)
      | _ => (k, 0, 0, 0, 0))
    | none => (k, 0, 0, 0, 0)
  | .dma k _ _ => (k, 4, 0, 0, 0)
  | .fence k _ _ => (k, 0, 0, 0, 0)
  | .dmaFence k _ => (k, 4, 0, 0, 0)
  | .wb k => (k, 0, 0, 0, 0)
  | .fill c _ => (8 * c, 0, 0, 0, 0)
  | .cq n _ => ((s.ctx n).cores.headD 0, 0, 0, 0, 0)

/-- A write-back of core `k` is over: those of its cluster that waited for the line go on (R258). -/
def lineFree (s : State) (k : Nat) (t : FabTxn) : State :=
  let c := clusterOf k
  let pa := at_ 44 (pkDst t.pkt) ||| at_ 0 (pkOff t.pkt)
  (coresOf c).foldl wakeCore (retryLine (retryFence (retryWb s k) k) c (lineKey s pa))

/-- R354: a remote write that was refused or lost tears its context down with a code. -/
def writeFailed (s : State) (t : FabTxn) (code : Nat) : State :=
  let (k, src, v, l, mask) := issuerOf s t.owner
  let s := match t.owner with
    | .access k id => (match accOf s [k] id with
      | some (_, a) => (served s k a).foldl (fun s b => dropAccess s k b.id) s
      | none => s)
    | .dma k seq _ => s.updDma k (fun d => { d with queue := d.queue.map (fun q => if q.seq = seq then { q with doomed := 1 } else q) })
    | .wb k => lineFree s k t
    | _ => s
  if (s.core k).ctx.map Prod.fst = some t.ctx then
    let s := faultCore s k code src v l mask 0 0
    (match t.owner with
      | .dma k seq e => dmaAnswer s k seq e (fun _ => 0) 0
      | _ => s)
  else startTeardown s t.ctx 1

/-- A remote read comes back: bytes by line offset, and the poisoned sectors. -/
def readBack (s : State) (t : FabTxn) (bs : Bytes) (poison : Nat) : State :=
  match t.owner with
  | .access k id => accessBack s k id bs poison
  | .dma k seq e => dmaAnswer s k seq e (byteIn bs) poison
  | .fill c key =>
    let s := installGrant s c key (some .rem) (pkMask t.pkt) bs poison
    retryLine s c key
  | .cq n i =>
    let o := fld (cqAddr (s.ctx n) i) 7 0
    cqRead s n i (bytesVal bs o 8) (poison != 0)
  | _ => s

/-- A remote write is acknowledged as done. -/
def writeBack (s : State) (t : FabTxn) : State :=
  match t.owner with
  | .access k id => accessBack s k id [] 0
  | .dma k seq e => dmaAnswer s k seq e (fun _ => 0) 0
  | .wb k => lineFree s k t
  | _ => s

/-- A transaction whose response does not come (R352): a read completes poisoned, a write is LOST. -/
def txnLost (s : State) (t : FabTxn) : State :=
  let s := closeTxn s t.id
  if pkType t.pkt = 1 then readBack s t [] (pkMask t.pkt)
  else writeFailed (addLoss s 2 t) t 6

/-- Bytes by line offset of the sectors in a payload. -/
def payloadBytes (mask : Nat) (body : List W64) : Bytes :=
  let flat := bytesOf body
  (sectorsOf mask).zipIdx.flatMap (fun e => (List.range 64).map (fun i => (64 * e.1 + i, flat.getD (64 * e.2 + i) 0)))

/-- The open transaction that a response answers (R352: any other response is discarded). -/
def txnOf (s : State) (p : Packet) : Option FabTxn := s.mem.fab.find? (fun t => t.id == pkTxn p)

/-- The answer to a fill waits while no way of its L2 is eligible (R278). -/
def fillWaits (s : State) (p : Packet) : Bool :=
  pkType p == 2 && (match txnOf s p with
    | some t => (match t.owner with | .fill c key => !roomL2 s c key | _ => false)
    | none => false)

/-- The oldest packet at the endpoint that does not wait, where it is of the type. -/
def takeEp (s : State) (type : Nat) : Option (Packet × Option Nat × State) :=
  match takeFirst (fun e => !fillWaits s e.1) s.fab.epIn with
  | some ((p, q), r) => if pkType p = type then some (p, q, { s with fab := { s.fab with epIn := r } }) else none
  | none => none

/-- R338, R353, R354: RD_RSP. -/
def execRdRsp (s : State) : Out :=
  match takeEp s 2 with
  | none => .next s
  | some (p, _, s) => match txnOf s p with
    | none => .next s
    | some t =>
      if pkType t.pkt ≠ 1 then .next s
      else
        let s := closeTxn s t.id
        let s := if pkStatus p = 1 then addLoss s 1 t else s
        let poison := if pkStatus p = 0 then pkPoison p else pkMask t.pkt
        .next (readBack s t (payloadBytes (pkMask t.pkt) p.body) poison)

/-- R338, R354: WR_ACK. -/
def execWrAck (s : State) : Out :=
  match takeEp s 4 with
  | none => .next s
  | some (p, _, s) => match txnOf s p with
    | none => .next s
    | some t =>
      if pkType t.pkt ≠ 3 then .next s
      else
        let s := closeTxn s t.id
        if pkStatus p = 0 then .next (writeBack s t)
        else
          let s := if pkStatus p = 1 then addLoss s 1 t else s
          .next (writeFailed s t 5)

/-- R352: FAB_TXN_TIMEOUT periods without a response: the request is sent once more, then it is given up. -/
def execFabTxnTimeout (id : W16) (s : State) : Out :=
  match s.mem.fab.find? (fun t => t.id == id.toNat) with
  | none => .next s
  | some t =>
    if t.age < s.fab.timeout then .next s
    else if t.retry then .next (txnLost s t)
    else
      let p := { t.pkt with w3 := setBit t.pkt.w3 42 true }
      let t := { t with pkt := p, age := 0, retry := true }
      let s := { s with mem := { s.mem with fab := s.mem.fab.map (fun x => if x.id = t.id then t else x) } }
      .next (fabOut s p)

/-- R251, R269: the completion of a host read, with its data. -/
def execPcieCompletion (tag : W16) (data : List Byte) (s : State) : Out :=
  match s.mem.hostRd.find? (fun r => r.tag == tag.toNat) with
  | none => .next s
  | some r =>
    let s := { s with mem := { s.mem with hostRd := s.mem.hostRd.filter (fun x => x.tag != r.tag) } }.bumpHub 5 1 data.length
    match r.owner with
    | .access k id => match accOf s [k] id with
      | some (k, a) => .next (deliver s k a (leNat (data.take a.size)) false)
      | none => .next s
    | .dma k seq e =>
      let lo := (((dmaFind s k seq).bind (fun q => q.reqs.find? (fun x => x.1 == e))).map (fun x => x.2.2.1)).getD 0
      .next (dmaAnswer s k seq e (fun o => data.getD (o - lo) 0) 0)
    | .fence k face id => .next (fenceBack s k face id)
    | .dmaFence k _ => .next (wakeCore (retryFence (retryWb s k) k) k)
    | .cq n i => .next (cqRead s n i (leNat (data.take 8)) false)
    | _ => .next s

end Sys2Proof.Machine
end

