-- ==== Sys2Proof/Machine/Resets.lean ====
section
/-!
DEFINITION. The resets (21 R521, R522): what a module reset, a power loss, a PCIe reset and a Function Level Reset (16 R408) clear
and keep, and what the power state reads (R512, R517).
-/
namespace Sys2Proof.Machine

/-- Ways out of service return when the memory self-test of a module reset passes them (R298). The spec does not say which it
passes: a free value names those that stay out (log 25). -/
def testWays (s : State) (out : List Nat) : List Nat × State :=
  if out.isEmpty then ([], s)
  else
    let (v, s) := s.free
    (out.filter (fun w => bit v (w % 64)), s)

/-- An empty cache that keeps what R298 counts of its ways. -/
def freshCache (c : Cache) : Cache := { c with lines := [], plru := [] }

/-- Every unit in its reset state, with the ways that stay out of service. -/
def resetUnits (s : State) : State :=
  let old := s
  let s := { s with cores := [], mem := { Mem.reset with nextId := s.mem.nextId } }
  let s := old.cores.foldl (fun s e =>
    let (w, s) := testWays s e.2.l1.out
    if w.isEmpty then s else s.setCore e.1 { Core.dflt with l1 := { Cache.dflt with out := w } }) s
  let s := old.mem.clusters.foldl (fun s e =>
    let (w, s) := testWays s e.2.l2.out
    if w.isEmpty then s else s.setCluster e.1 { Cluster.dflt with l2 := { Cache.dflt with out := w } }) s
  old.mem.homes.foldl (fun s e =>
    let (w, s) := testWays s e.2.out
    if w.isEmpty then s else s.setHome e.1 { Home.dflt with out := w }) s

/-- Port control and VC allocation are kept objects (R340, R350); DATA falls as the port leaves ACTIVE. -/
def resetPort (x : Port) : Port :=
  { Port.dflt with
    st := if bit x.ctrl 31 then .down else .disabled
    ctrl := setBit x.ctrl 30 false
    alloc := x.allocNew
    allocNew := x.allocNew }

/-- A kept partition waits for step 11 to be created again (R518); one that was being destroyed is gone (log 26). -/
def resetPart (p : Partition) : Partition :=
  match p.st with
  | .none => p
  | .destroying => Partition.dflt
  | _ => { p with st := .creating, sliceNew := none, stamp := 0, slice := p.sliceNew.getD p.slice }

/-- A running self-test ends with RESULT 0x3 when a module recovery starts (R482). -/
def endTests (s : State) (res : Nat) : State :=
  let (st, s) := s.stamp
  let add := s.rel.testing.map (fun t => (⟨t.cmd.tag, t.op, t.cmd.target.toNat, t.cmd.unit.toNat, res, st⟩ : TestRes))
  let l := s.rel.results ++ add
  { s with rel := { s.rel with
      testing := []
      results := l.drop (l.length - 64)
      resTotal := min 0xFFFFFFFF (s.rel.resTotal + add.length) } }

/-- The reset of the module but for its firmware bank (R522): kept objects, keys, counters of R441 and retired frames stay, and
everything else takes its reset value. What HBM holds outside the partitions cannot be read after it (R491); it reads as
memory that nothing has written (log 1). What has left the module has left it. -/
def resetModule (s : State) : State :=
  let s := endTests s 3
  let s := resetUnits s
  { s with
    fab := { Fabric.reset with
      timeout := s.fab.timeout
      ports := s.fab.ports.map (fun e => (e.1, resetPort e.2)) }
    bcn := { Beacon.reset with prio := s.bcn.prioNew.getD s.bcn.prio }
    stamps := Stamps.reset
    parts := (s.parts.map (fun e => (e.1, resetPart e.2))).filter (fun e => e.2 != Partition.dflt)
    ctxs := []
    partStatus := 0
    host := { HostIf.reset with
      perst := s.host.perst
      refSel := s.host.refSel
      refForce := s.host.refForce
      ideReq := s.host.ideReq
      posted := s.host.posted }
    kedal := { Kedal.reset with sent := s.kedal.sent, kept := s.kedal.kept, field := s.kedal.field, flashBad := s.kedal.flashBad, up := s.kedal.up }
    sec := { Security.reset with
      banks := s.sec.banks
      running := s.sec.running
      minSvn := s.sec.minSvn
      digest := s.sec.digest
      slots := tdel s.sec.slots 0
      seeds := s.sec.seeds + 1
      blockWrites := s.sec.blockWrites }
    rel := { Rel.reset with
      nextChain := s.rel.nextChain
      modState := s.rel.modState
      starts := s.rel.starts
      operUs := s.rel.operUs
      downUs := s.rel.downUs
      exclUs := s.rel.exclUs
      modRecs := s.rel.modRecs
      svcFaults := s.rel.svcFaults
      retired := s.rel.retired
      overflow := s.rel.overflow
      lostUnits := s.rel.lostUnits
      lostFrames := s.rel.lostFrames
      retAdded := s.rel.retAdded
      wayRecs := s.rel.wayRecs
      wayTotal := s.rel.wayTotal
      tests := s.rel.tests
      results := s.rel.results
      resTotal := s.rel.resTotal }
    dbg := { Dbg.reset with watchLen := s.dbg.watchLen }
    pwr := { Power.reset with
      st := s.pwr.st
      input := s.pwr.input
      cap := s.pwr.capNew.getD s.pwr.cap
      start := s.pwr.start
      badBanks := s.pwr.badBanks
      byCommand := s.pwr.byCommand
      thermal := s.pwr.thermal } }

/-- A bank that was being written is left invalid by a power loss or a reset; one that is pending stays so (R462). -/
def dropBank (s : State) : State :=
  match s.sec.fw with
  | .receiving => s.setBank (1 - s.sec.running) { s.bank (1 - s.sec.running) with valid := false }
  | .verifying => s.setBank (1 - s.sec.running) { s.bank (1 - s.sec.running) with valid := false }
  | _ => s

/-- The power-cycle of a FULL reset, and a power loss: the controller's memory goes too, tests waiting with it (R506, R522). -/
def resetAll (s : State) : State :=
  let s := resetModule (dropBank s)
  { s with
    kedal := { s.kedal with kept := [], up := false }
    sec := { s.sec with digest := 0 }
    rel := { s.rel with tests := [], starts := 0 }
    pwr := { s.pwr with badBanks := [], thermal := false, resetStatus := 0 } }

/-- RUN and LOCK of a clock domain (R19). -/
def setDomainRun (s : State) (n : Nat) (on : Bool) : State := s.setDomain n (setFld (s.domain n) 31 30 (if on then 3 else 0))

def setDomains (s : State) (ns : List Nat) (on : Bool) : State := ns.foldl (fun s n => setDomainRun s n on) s

/-- Domains of compute die `d` (R16). -/
def dieDomains (d : Nat) : List Nat := (List.range 7).map (7 * d + ·)

/-- IDLE or ACTIVE, as the core array domains run (R512). -/
def powerNow (s : State) : PowerState :=
  if s.pwr.start ≠ 0x0C#8 then s.pwr.st else if (List.range 4).any (arrayRuns s) then .active else .idle

def settlePower (s : State) : State := { s with pwr := { s.pwr with st := powerNow s } }

/-- STANDBY: the hub die and the compute dies are unpowered (R512). -/
def enterStandby (s : State) (trip : Bool) : State :=
  let keep := s.pwr.temps
  let s := resetModule (dropBank s)
  { s with
    pwr := { s.pwr with st := .standby, start := 0, tries := 0, byCommand := !trip && !s.pwr.thermal, thermal := trip || s.pwr.thermal, temps := keep }
    rel := { s.rel with modState := .starting, starts := 0 } }

/-- OFF (R506, R507): all state but module flash is lost. -/
def powerOff (s : State) : State :=
  let s := resetAll s
  { s with
    pwr := { s.pwr with st := .off, input := false, start := 0, tries := 0, byCommand := false }
    rel := { s.rel with modState := .starting } }

/-- A start from a step on (R518). -/
def startFrom (s : State) (step : Byte) : State :=
  { s with pwr := { s.pwr with start := step, tries := 0, failed := 0xF#4, st := .standby } }

/-- FULL (R521). -/
def resetFull (s : State) (cmd : Bool) : State :=
  let s := startFrom (resetAll s) 2
  { s with pwr := { s.pwr with byCommand := cmd }, rel := { s.rel with modState := .starting } }

/-- RECOVERY and LEAVE_STANDBY (R521): steps 4 to 11. -/
def resetRecovery (s : State) (st : ModState) (cmd : Bool) : State :=
  let s := startFrom (resetModule (dropBank s)) 4
  { s with pwr := { s.pwr with byCommand := cmd }, rel := { s.rel with modState := st } }

/-- Status of a RESET_CMD (R521, R511): 0 accepted. Only LEAVE_STANDBY ends the STANDBY of a thermal trip, so FULL is refused in it with the
code of a module in STANDBY (log 103). A LEAVE_STANDBY after a thermal trip waits for every die to read below 85 °C; that
refusal has no code of its own and answers 0x03 (log 27). -/
def resetStatusOf (s : State) (code : Nat) : Nat :=
  let standby := decide (s.pwr.st = .standby) && s.pwr.start == 0#8
  match code with
  | 1 => if standby && s.pwr.thermal then 4 else 0
  | 2 => if standby then 4 else 0
  | 3 => if (partsHeld s).isEmpty then 0 else 2
  | 4 => if !standby then 3 else if s.pwr.thermal && s.pwr.temps.any (fun t => decide (85 ≤ t.2.toNat)) then 3 else 0
  | _ => 1

/-- The reset that an accepted RESET_CMD begins (R431: after its response). -/
def doReset (s : State) (code : Nat) : State :=
  match code with
  | 1 => resetFull s true
  | 2 => resetRecovery s .starting true
  | 3 => enterStandby s false
  | _ => resetRecovery { s with pwr := { s.pwr with thermal := false } } .starting true

/-- A RESET_CMD: its status, and the state before the reset begins. -/
def resetCmd (s : State) (code : Nat) : State × Nat :=
  let st := resetStatusOf s code
  ({ s with pwr := { s.pwr with resetStatus := BitVec.ofNat 8 st } }, if st = 0 then kDone else kRefused)

/-- The command as the dictionary carries it out; nothing is served while the module is OFF (R512). -/
def runReset (s : State) (code : Nat) : Out :=
  let (t, st) := resetCmd s code
  if s.pwr.st = .off then .next s
  else .next (if st = 0 then doReset t code else t)

/-- R521 FULL. -/
def execResetFull (s : State) : Out := runReset s 1

/-- R521 RECOVERY. -/
def execResetRecovery (s : State) : Out := runReset s 2

/-- R521 ENTER_STANDBY. -/
def execResetEnterStandby (s : State) : Out := runReset s 3

/-- R521 LEAVE_STANDBY. -/
def execResetLeaveStandby (s : State) : Out := runReset s 4

/-- A function's contexts are torn down with cause DESTROYED (R408, R522). -/
def destroyCtxs (s : State) (p : Ctx → Bool) : State :=
  ((s.ctxs.filter (fun e => p e.2)).map Prod.fst).foldl (fun s n => startTeardown s n 4) s

/-- A function's rings are disabled, its commands discarded, and its window closed (R408). A drain that runs for it goes on
without a completion. -/
def resetFn (h : HostFn) : HostFn :=
  { HostFn.dflt with dropped := h.dropped }

/-- A CTX_DESTROY that waits for a teardown answers nobody any more. -/
def forgetDestroy (s : State) (p : Nat → Bool) : State :=
  { s with ctxs := s.ctxs.map (fun e => (e.1, { e.2 with destroyReq := e.2.destroyReq.filter (fun d => !p d.1) })) }

/-- A VF Function Level Reset (R408). -/
def vfReset (s : State) (f : Nat) : State :=
  let s := forgetDestroy (destroyCtxs s (fun x => x.fn.toNat == f)) (· == f)
  s.setFn f (resetFn (s.fn f))

/-- What a PF Function Level Reset does to every function (R408, R437). -/
def pfReset (s : State) : State :=
  let s := forgetDestroy (destroyCtxs s (fun _ => true)) (fun _ => true)
  { s with
    host := { s.host with vfEnable := false, fns := s.host.fns.map (fun e => (e.1, resetFn e.2)) }
    kedal := { s.kedal with
      slots := []
      queue := s.kedal.queue.map (fun q => match q.path with | .window _ => { q with dropped := true } | _ => q) } }

/-- The PF's SR-IOV capability (R408), and the routing function of virtual function `v`, under ARI. -/
def totalVfs : Nat := 255
def firstVfOffset : Nat := 1
def vfStride : Nat := 1
def vfFunction (v : Nat) : Nat := firstVfOffset + (v - 1) * vfStride

/-- R408: Function Level Reset of VF v. -/
def execVfFlr (vf : Byte) (s : State) : Out := if vf = 0 then .next s else .next (vfReset s (vfFunction vf.toNat))

/-- R408: Function Level Reset of the PF. -/
def execPfFlr (s : State) : Out := .next (pfReset s)

/-- The PCIe link, its configuration space and its IDE streams are reset (R522). -/
def pcieReset (s : State) : State :=
  let s := pfReset s
  { s with host := { s.host with speed := 0, width := 0, flit := false, ide := [] }, sec := { s.sec with session := false } }

/-- R407, R522: PERST# is asserted; the clock source changes here. -/
def execPerstAssert (s : State) : Out :=
  if s.host.perst then .next s
  else
    let s := pcieReset s
    .next { s with host := { s.host with perst := true, refForce := s.host.refSel == 1 } }

/-- R520: PERST# is released; the link trains when start-up has reached step 10. -/
def execPerstRelease (s : State) : Out := .next { s with host := { s.host with perst := false } }

/-- R522: a hot reset. -/
def execHotReset (s : State) : Out := .next (pcieReset s)

/-- A link mode of R406: one of the seven speeds with one of the five widths. -/
def linkMode (speed : BitVec 4) (width : BitVec 5) : Bool :=
  decide (1 ≤ speed.toNat) && decide (speed.toNat ≤ 7) && [1, 2, 4, 8, 16].contains width.toNat

/-- The link is up in a mode, in flit mode at 64 GT/s (code 6) and above (R406); a link that was down comes up with its configuration
space ready, and the device says so (R407). -/
def linkUp (s : State) (speed : BitVec 4) (width : BitVec 5) (flit : Bool) : State :=
  let s := if s.host.speed = 0 then post s .ready else s
  { s with host := { s.host with speed := speed, width := width, flit := flit || decide (6 ≤ speed.toNat) } }

/-- R407: at runtime, once step 10 of a start has let the link train (R520), the link goes down, or it has trained anew to a mode that both
ends and the channel allow. -/
def execPcieLinkRetrain (speed : BitVec 4) (width : BitVec 5) (flit : Bool) (s : State) : Out :=
  if s.host.perst || decide (s.pwr.start.toNat < 10) || decide (0x0C < s.pwr.start.toNat) then .next s
  else if speed = 0 ∧ width = 0 then .next { s with host := { s.host with speed := 0, width := 0, flit := false } }
  else if !linkMode speed width then .next s
  else
    let s := linkUp s speed width flit
    .next { s with host := { s.host with retrains := holdInc 255 s.host.retrains } }

end Sys2Proof.Machine
end

