-- ==== Sys2Proof/Machine/Reliab.lean ====
section
/-!
DEFINITION. Faults and recoveries (19 R463–R472): detection, absorption and escalation, what the start and the end of each
domain's recovery do, and the fault records. Loss of lock and the loss of UCIe modules and links (01 R13, R14, R20).
-/
namespace Sys2Proof.Machine

/-- R463. -/
def domCode : Domain → Nat
  | .laneGroup => 0
  | .port => 1
  | .core => 2
  | .cluster => 3
  | .channel => 4
  | .die => 5
  | .module => 6

def unitExists (d : Domain) (u : Nat) : Bool :=
  match d with
  | .laneGroup => decide (u < 128) || (decide (0x200 ≤ u) && decide (u < 0x280) && (decide (0x240 ≤ u) || decide (u % 16 < 10)))
  | .port => decide (u < 32)
  | .core => decide (u < 256)
  | .cluster => decide (u < 32)
  | .channel => decide (u < 256)
  | .die => decide (u < 4)
  | .module => u == 0

/-- The compute die that is the parent of a UCIe module of link `k` (R463, R470). -/
def linkDie (k : Nat) : Nat :=
  match k with
  | 4 => 0
  | 5 => 1
  | 6 => 2
  | 7 => 0
  | _ => k

/-- R463: the parent of a unit. -/
def parentOf (d : Domain) (u : Nat) : Domain × Nat :=
  match d with
  | .laneGroup => if 0x200 ≤ u then (.die, linkDie ((u - 0x200) / 16)) else (.port, u / 4)
  | .port => (.module, 0)
  | .core => (.cluster, clusterOf u)
  | .cluster => (.die, dieOfCluster u)
  | .channel => (.die, u / 64)
  | .die => (.module, 0)
  | .module => (.module, 0)

/-- R463: whether a unit encloses another one. -/
def encloses (d : Domain) (u : Nat) (e : Domain) (v : Nat) : Bool :=
  match d, e with
  | .module, .module => false
  | .module, _ => true
  | .die, .cluster => dieOfCluster v == u
  | .die, .core => dieOfCore v == u
  | .die, .channel => v / 64 == u
  | .cluster, .core => clusterOf v == u
  | .port, .laneGroup => decide (v < 128) && v / 4 == u
  | _, _ => false

/-- R351, word 2 of a FAULT event. -/
def faultWord (r : RelRec) : W64 :=
  at_ 60 (domCode r.dom) ||| at_ 50 r.unit ||| at_ 42 r.cause ||| at_ 38 r.action ||| at_ 36 r.level ||| at_ 20 r.chain

/-- A fault record with its EVENT (R471) and its trace entry (R493 kind 0x0E). -/
def addRecord (s : State) (r : Recov) (action : Nat) (fin : W64) (us : W32) : State :=
  let x : RelRec := ⟨r.dom, r.unit, r.cause, action, r.level, r.chain, r.detect, fin, us⟩
  let l := s.rel.records ++ [x]
  let s := { s with rel := { s.rel with records := l.drop (l.length - 256), recTotal := holdInc 0xFFFFFFFF s.rel.recTotal } }
  let s := postEvent s 0x0B 0 0 0 (faultWord x) x.detect
  s.emit 4 0x0E 0 0xFFF (domCode r.dom + 2 ^ 4 * r.unit + 2 ^ 14 * r.cause) r.detect fin

/-- The module's time in µs at its last beacon edge (R476). -/
def timeUs (s : State) : Nat := s.rel.operUs + s.rel.downUs + s.rel.exclUs

/-- The time from a recovery's detection to now, as R471 records it: less than a period away from what the edges between them say. Where in
their periods the two moments lie is a free value (log 6). -/
def elapsedUs (s : State) (r : Recov) : Nat × State :=
  let (v, s) := s.free
  (timeUs s - r.since - s.bcn.period + v.toNat % (min (timeUs s - r.since) s.bcn.period + s.bcn.period), s)

/-- The record of a recovery that ends by a later fault, or with a start of the module. -/
def endRecord (s : State) (r : Recov) (action : Nat) : State :=
  let (st, s) := s.stamp
  let (us, s) := elapsedUs s r
  addRecord s r action st (BitVec.ofNat 32 (min 0xFFFFFFFF us))

def dropRecov (s : State) (r : Recov) : State := { s with rel := { s.rel with running := s.rel.running.filter (· != r) } }

/-- A core is reset, and its private state is set as at context creation (R464). Ways out of service and ways that are leaving it stay so, and
errors stay counted (R298). -/
def resetCore (s : State) (k : Nat) : State :=
  let c := s.core k
  let s := s.setCore k { Core.dflt with
    ctx := c.ctx
    stopped := c.ctx.isSome
    kend := if c.ctx.isSome then 3 else 0
    l1 := freshCache c.l1 }
  { s with mem := { s.mem with
      fab := s.mem.fab.filter (fun t => t.id / 256 != k)
      hostRd := s.mem.hostRd.filter (fun r => (match r.owner with
        | .access j _ => j != k
        | .dma j _ _ => j != k
        | .fence j _ _ => j != k
        | .dmaFence j _ => j != k
        | _ => true)) } }

/-- Every sector of a line is poisoned. -/
def poisonLine (s : State) (line : Nat) : State := (List.range 4).foldl (fun s q => setPoison s line q true) s

/-- R465: the homes poison what the directory shows a cluster to hold in X, and take it from every sharer vector. -/
def homesDrop (s : State) (c : Nat) : State :=
  let lines := s.mem.homes.flatMap (fun e => (e.2.dir.filter (fun d => d.2.x && bit d.2.shar c)).map (fun d => d.2.line))
  leaveHomes (lines.foldl poisonLine s) c

/-- R464: the cores, L2, TLBs and DMA engines of a cluster are reset. Its messages are gone, and with them the answers that R294 would
discard. -/
def resetCluster (s : State) (c : Nat) : State :=
  let s := homesDrop s c
  let s := (coresOf c).foldl resetCore s
  let s := s.setCluster c { Cluster.dflt with l2 := freshCache (s.cluster c).l2 }
  let mine : Agent → Bool := fun a => (match a with
    | .l2 x => x.val == c
    | .dma e => e.val / 2 == c
    | .hub => false)
  { s with mem := { s.mem with
      msgs := s.mem.msgs.filter (fun m => !mine m.who)
      homes := s.mem.homes.map (fun e => (e.1, { e.2 with late := e.2.late.filter (fun x => x.2 != c) })) } }

/-- The lines of a home that the other dies hold are invalidated, and their dirty sectors discarded (R465). -/
def dropHomeLines (s : State) (d : Nat) : State :=
  let cut (c : Cache) : Cache := { c with lines := c.lines.filter (fun e => isRem e.2.line || homeOf e.2.line != d) }
  { s with
    cores := s.cores.map (fun e => (e.1, { e.2 with l1 := cut e.2.l1 }))
    mem := { s.mem with clusters := s.mem.clusters.map (fun e => (e.1, { e.2 with l2 := cut e.2.l2 })) } }

/-- A die is reset (R464, R465): what waited at its home completes poisoned. -/
def resetDie (s : State) (d : Nat) : State :=
  let s := ((List.range 8).map (8 * d + ·)).foldl resetCluster s
  let h := s.home d
  let s := s.setHome d { Home.dflt with out := h.out, leaving := h.leaving, errs := h.errs }
  let s := (h.queue ++ (h.active.filter (fun t => t.evict.isNone)).map HomeTxn.msg).foldl poisonReply s
  dropHomeLines s d

/-- HBM units of the stacks of a die. -/
def unitsOfDie (d : Nat) : List Nat := (List.range 128).map (128 * d + ·)

def partOnUnits (s : State) (q : Nat) (us : List Nat) : Bool := us.any (fun u => bit (s.part q).hbmMap u)

/-- Contexts that meet `p` are torn down with cause OUT_OF_SERVICE (R464). -/
def tearDownWhere (s : State) (p : Nat → Ctx → Bool) : State :=
  ((s.ctxs.filter (fun e => p e.1 e.2)).map Prod.fst).foldl (fun s n => startTeardown s n 2) s

def onCores (s : State) (n : Nat) (p : Nat → Bool) : Bool := (heldCores s n).any (fun e => p e.1)

/-- The widest width of a set of lane groups, coded as in R335. -/
def widthOf (gs : BitVec 4) : Nat :=
  let n := ((List.range 4).filter (fun g => bit gs g)).length
  if n = 4 then 3 else if 2 ≤ n then 2 else n

/-- A lane group of a port is lost (R334): the port changes width, or goes down with its last one. -/
def loseGroup (s : State) (p g : Nat) : State :=
  let x := s.port p
  let gs := setBit x.groups g false
  if !bit x.groups g then s
  else
    let s := s.setPort p { x with groups := gs, width := BitVec.ofNat 2 (min x.width.toNat (widthOf gs)) }
    if !x.st.carries then s else if gs = 0 then enterPort s p .down else enterPort s p .width

/-- A module recovery starts, or starts again (R464, R469): a RECOVERY reset. -/
def startModule (s : State) (r : Recov) : State :=
  let s := resetRecovery s .moduleRecovery false
  { s with rel := { s.rel with running := [r] } }

/-- The members of a core's chain (R90): every core of its range that is configured alike. -/
def chainMates (s : State) (k : Nat) : List Nat := ((chainOf s k).getD []).filter (fun j => chainOf s j == chainOf s k)

/-- What the start of a recovery does to its unit (R464, R465). A port retrains from DOWN, but for one whose fault is that it has gone to
RETRAIN (R333, R334). With a core of a chain every member's context is torn down, and every
member's matrix queue is discarded (R99). -/
def startEffects (s : State) (d : Domain) (u cause : Nat) : State :=
  match d with
  | .laneGroup => if u < 128 then loseGroup s (u / 4) (u % 4) else s
  | .port => (match (s.port u).st with
    | .disabled => s
    | .down => s
    | .retrain => if cause = 5 then s else enterPort s u .down
    | _ => enterPort s u .down)
  | .core =>
    let mates := chainMates s u
    let s := tearDownWhere s (fun n _ => onCores s n (fun j => j == u || mates.contains j))
    resetCore (mates.foldl (fun s j => s.updMx j (fun m => { m with queue := [], link := [] })) s) u
  | .cluster => resetCluster (tearDownWhere s (fun n _ => onCores s n (fun k => clusterOf k == u))) u
  | .channel => s
  | .die => resetDie (tearDownWhere s (fun n x => onCores s n (fun k => dieOfCore k == u) || partOnUnits s x.partNo (unitsOfDie u))) u
  | .module => s

/-- A unit under test fails its test; its recovery may still begin (R479, R482). -/
def testNames (d : Domain) (u : Nat) (t : Test) : Bool :=
  let v := t.cmd.unit.toNat
  match t.cmd.target with
  | 1#4 => (d == .core && u == v)
  | 2#4 => (d == .cluster && u == v) || (d == .core && clusterOf u == v)
  | 4#4 => (d == .port && u == v) || (d == .laneGroup && decide (u < 128) && u / 4 == v)
  | _ => false

/-- Domain and unit whose state shows a test (R472); an HBM unit has none. -/
def testUnit (t : Test) : Option (Domain × Nat) :=
  match t.cmd.target with
  | 1#4 => some (.core, t.cmd.unit.toNat)
  | 2#4 => some (.cluster, t.cmd.unit.toNat)
  | 4#4 => some (.port, t.cmd.unit.toNat)
  | _ => none

/-- A result of a test (R481). -/
def addResult (s : State) (t : Test) (res : Nat) : State :=
  let (st, s) := s.stamp
  let l := s.rel.results ++ [⟨t.cmd.tag, t.op, t.cmd.target.toNat, t.cmd.unit.toNat, res, st⟩]
  { s with rel := { s.rel with results := l.drop (l.length - 64), resTotal := holdInc 0xFFFFFFFF s.rel.resTotal } }

/-- A running test ends as FAIL: a core or a cluster goes out of service, a port returns to DOWN (R479, R480). -/
def failTest (s : State) (t : Test) : State :=
  let s := addResult { s with rel := { s.rel with testing := s.rel.testing.filter (· != t) } } t 1
  match testUnit t with
  | some (.port, u) => setUnit s .port u .inService
  | some (d, u) => setUnit s d u .outOfService
  | none => s

/-- Whether a channel or a die holds part of an HBM unit (R302, R463). -/
def onStack (d : Domain) (u hbm : Nat) : Bool :=
  match d with
  | .channel => u / 32 == hbm / 64
  | .die => u == hbm / 128
  | _ => false

/-- A recovery begins: the enclosed ones end absorbed (R468), the unit is RECOVERING, and its domain's effects take place. -/
def beginRecov (s : State) (r : Recov) : State :=
  let inner := s.rel.running.filter (fun x => encloses r.dom r.unit x.dom x.unit)
  let s := inner.foldl (fun s x => addRecord (setUnit (dropRecov s x) x.dom x.unit x.was) x 3 0 0) s
  let tests := s.rel.testing.filter (fun t => match testUnit t with
    | some (d, u) => (d == r.dom && u == r.unit) || (r.dom != .module && encloses r.dom r.unit d u)
    | none => onStack r.dom r.unit t.cmd.unit.toNat)
  let s := tests.foldl failTest s
  let r := { r with was := unitSt s r.dom r.unit }
  if r.dom = .module then
    let s := { s with rel := { s.rel with modRecs := holdInc 0xFFFFFFFF s.rel.modRecs, starts := 1 } }
    startModule s r
  else
    let s := setUnit { s with rel := { s.rel with running := s.rel.running ++ [r] } } r.dom r.unit .recovering
    offerCores (startEffects s r.dom r.unit r.cause)

/-- R469: a module recovery starts again; after its third start the module is HALTED. -/
def restartModule (s : State) : State :=
  match s.rel.running.find? (fun r => r.dom == .module) with
  | none => s
  | some r =>
    if 3 ≤ s.rel.starts then
      let s := endRecord s r 5
      { s with rel := { s.rel with modState := .halted, running := [], starts := 0 },
               pwr := { s.pwr with start := 0x80#8 ||| s.pwr.start } }
    else
      let n := s.rel.starts
      let s := endRecord (startModule s r) r 4
      { s with rel := { s.rel with starts := n + 1 } }

/-- R467: a second fault. The chain goes to the parent with its level raised; the third escalation starts a module recovery. A parent
that is recovering already goes on (R468). -/
def escalate (s : State) (r : Recov) : State :=
  let lv := r.level + 1
  let s := endRecord (setUnit (dropRecov s r) r.dom r.unit r.was) { r with level := lv } 2
  let (d, u) := if 3 ≤ lv then (Domain.module, 0) else parentOf r.dom r.unit
  if s.rel.running.any (fun x => x.dom == d && x.unit == u) then s
  else beginRecov s { r with dom := d, unit := u, cause := 0x0E, level := lv }

/-- R467: whether a fault of (d, u) is a second fault of a running recovery. -/
def isSecond (r : Recov) (d : Domain) (u cause : Nat) : Bool :=
  match r.dom with
  | .laneGroup =>
    d == .laneGroup && u != r.unit &&
      (if 0x200 ≤ r.unit then decide (0x200 ≤ u) && (u - 0x200) / 16 == (r.unit - 0x200) / 16 else decide (u < 128) && u / 4 == r.unit / 4)
  | .port => d == .port && u == r.unit && cause == 1
  | .module => false
  | _ => d == r.dom && u == r.unit

/-- A fault is counted against its unit (R466). -/
def countFault (s : State) (d : Domain) (u : Nat) : State :=
  let key := unitKey d u
  { s with rel := { s.rel with faults := tput s.rel.faults key (holdInc 255 (tget 0 s.rel.faults key)) } }

/-- A fault that no running recovery takes starts a chain of its own (R467, R468). -/
def newChain (s : State) (d : Domain) (u cause : Nat) (st : W64) : State :=
  let n := s.rel.nextChain
  let svc := d != .laneGroup && d != .port
  let s := { s with rel := { s.rel with
    nextChain := (n + 1) % 65536
    svcFaults := if svc then holdInc 0xFFFFFFFF s.rel.svcFaults else s.rel.svcFaults } }
  beginRecov s ⟨d, u, cause, n, 0, st, timeUs s, .inService⟩

/-- A fault inside a unit whose recovery is running is recorded, and starts nothing (R468). -/
def absorb (s : State) (r : Recov) (d : Domain) (u cause : Nat) : State :=
  let (st, s) := s.stamp
  addRecord s ⟨d, u, cause, r.chain, r.level, st, timeUs s, .inService⟩ 3 0 0

/-- A port fault that is the port's own change of state (R334): absorbed by a recovery of the port, else a chain of its own. -/
def portFaulted (s : State) (p : Nat) : State :=
  let s := countFault s .port p
  match s.rel.running.find? (fun r => (r.dom == .port && r.unit == p) || r.dom == .module) with
  | some r => absorb s r .port p 5
  | none =>
    let (st, s) := s.stamp
    newChain s .port p 5 st

/-- After its calibration a port that is enabled returns to DOWN, which is a port fault as every change to DOWN is (R480, R334). -/
def calEnded (s : State) (t : Test) : State :=
  match testUnit t with
  | some (.port, u) => if (s.port u).st = .disabled ∧ bit (s.port u).ctrl 31 then portFaulted (enterPort s u .down) u else s
  | _ => s

/-- R463–R469: a fault has been detected. It is counted against its unit; then it fails a test, restarts a module recovery,
escalates a chain, is absorbed, or starts a recovery. A module without its power detects nothing (R506, R512). -/
def faultDetect (s : State) (d : Domain) (u cause : Nat) : State :=
  if s.pwr.st = .off ∨ (s.pwr.st = .standby ∧ s.pwr.start = 0) then s
  else
  let s := countFault s d u
  match s.rel.testing.find? (testNames d u) with
  | some t => calEnded (failTest s t) t
  | none =>
    if s.rel.modState = .halted then s
    else if s.rel.modState = .moduleRecovery then restartModule s
    else match s.rel.running.find? (fun r => isSecond r d u cause) with
      | some r => escalate s r
      | none => match s.rel.running.find? (fun r => (r.dom == d && r.unit == u) || encloses r.dom r.unit d u) with
        | some r => absorb s r d u cause
        | none =>
          let (st, s) := s.stamp
          newChain s d u cause st

/-- A fault that one cycle brings. -/
structure FaultIn where
  dom : Domain
  unit : Nat
  cause : Nat
  deriving DecidableEq, Repr

/-- Whether a fault alone would be its chain's third escalation (R467). -/
def thirdEscalation (s : State) (f : FaultIn) : Bool :=
  match s.rel.running.find? (fun r => isSecond r f.dom f.unit f.cause) with
  | some r => decide (3 ≤ r.level + 1)
  | none => false

/-- The faults of one cycle in the order in which they act: a third escalation first (R482), then an enclosing unit before what it
encloses (R468). -/
def faultOrder (s : State) (fs : List FaultIn) : List FaultIn :=
  let (a, b) := fs.partition (thirdEscalation s)
  a ++ ([6, 5, 4, 3, 2, 1, 0].flatMap (fun n => b.filter (fun f => domCode f.dom == n)))

/-- Faults that are detected in the same cycle (R468, R482): one in a unit whose recovery, or that of a unit around it, another of them has
begun is absorbed by it. -/
def faultTogether (s : State) (fs : List FaultIn) : State :=
  let old := s.rel.running
  let was := s.rel.modState
  (faultOrder s fs).foldl (fun s f =>
    match s.rel.running.find? (fun r => (!old.contains r && ((r.dom == f.dom && r.unit == f.unit) || encloses r.dom r.unit f.dom f.unit)) ||
        (r.dom == .module && was != .moduleRecovery)) with
    | some r => absorb (countFault s f.dom f.unit) r f.dom f.unit f.cause
    | none => faultDetect s f.dom f.unit f.cause) s

/-- R467 FAULT_DETECT, with the other faults that the same cycle brings (R468, R482). -/
def execFaultDetect (d : Domain) (unit : BitVec 10) (cause : FaultCauses) (s : State) : Out :=
  .next (faultTogether s ((((d, unit, cause.cause) :: cause.also).map (fun f => (⟨f.1, f.2.1.toNat, f.2.2.toNat⟩ : FaultIn))).filter
    (fun f => unitExists f.dom f.unit)))

/-- Contexts that fit nowhere any more are torn down with cause NO_FIT (R466). -/
def tearDownNoFit (s : State) : State :=
  ((s.ctxs.filter (fun e => noFit s e.1)).map Prod.fst).foldl (fun s n => startTeardown s n 3) s

/-- The module without a compute die in service leaves OPERATIONAL (R476); the spec names no state for it: it is HALTED (log 28). -/
def checkDies (s : State) : State :=
  if s.rel.modState = .operational ∧ (List.range 4).all (fun d => unitSt s .die d == .outOfService) then
    { s with rel := { s.rel with modState := .halted } }
  else s

/-- Every sector of both stacks of a die is poisoned (R465). -/
def poisonStacks (s : State) (d : Nat) : State :=
  let us := unitsOfDie d
  { s with mem := { s.mem with
      badUnits := s.mem.badUnits.filter (fun u => !us.contains u) ++ us
      poison := s.mem.poison.filter (fun q => !us.contains (q / 2 ^ 24)) } }

/-- Clock domains that a recovery has stopped run again (R20): all seven of a die, a core array that R513 had stopped among them, and an
optical engine's with the first of its four ports that recovers, since a port trains on that clock (log 81). -/
def relock (s : State) (d : Domain) (u cause : Nat) : State :=
  match d with
  | .die => setDomains s (dieDomains u) true
  | .port => if cause = 1 then setDomainRun s (32 + u / 4) true else s
  | _ => s

/-- A recovery has ended; `out` says that its unit goes out of service. A core, cluster, channel or die that was out of service before stays
so: it returns by a self-test, a module recovery or a reset (R464, R479). The clocks of a die out of service stop (R512). -/
def finishRecov (s : State) (r : Recov) (out : Bool) (us : W32) : State :=
  let out := out || (r.was == .outOfService && r.dom != .laneGroup && r.dom != .port)
  let s := setUnit (dropRecov s r) r.dom r.unit (if out then .outOfService else .inService)
  let s := match r.dom with
    | .die => poisonStacks (dropHomeLines s r.unit) r.unit
    | .channel => if out then
        tearDownWhere s (fun _ x => partOnUnits s x.partNo ((List.range 64).map (64 * (r.unit / 32) + ·)))
      else s
    | _ => s
  let s := settlePower (if out then (if r.dom = .die then setDomains s (dieDomains r.unit) false else s) else relock s r.dom r.unit r.cause)
  let (st, s) := s.stamp
  let s := addRecord s r (if out then 1 else 0) st us
  if out then checkDies (tearDownNoFit s) else offerCores s

/-- Faults of its own domain that a unit has taken in the present window (R466). -/
def faultCount (s : State) (d : Domain) (u : Nat) : Nat := tget 0 s.rel.faults (unitKey d u)

/-- Every module of a die-to-die link is out of service; links 0 to 3 are the CD–HD links (R470), of 10 modules each (R10). -/
def linkLost (s : State) (k : Nat) : Bool :=
  decide ((if k < 4 then 10 else 16) ≤ (s.mem.ucieOut.filter (fun e => e.1 == k)).length)

/-- R464, R466 RECOVERY_COMPLETE: a die without its link to the hub is out of service (R14); a core or a cluster whose reset fails
escalates (R467); a port goes on trying; a module recovery ends with step 11 of its start (R518). -/
def execRecoveryComplete (d : Domain) (unit : BitVec 10) (ok : Bool) (us : W32) (s : State) : Out :=
  let u := unit.toNat
  match s.rel.running.find? (fun r => r.dom == d && r.unit == u) with
  | none => .next s
  | some r =>
    match d with
    | .module => .next s
    | .port => if ok then .next (finishRecov s r false us) else .next s
    | .laneGroup => .next (finishRecov s r (!ok || decide (0x200 ≤ u)) us)
    | .core => if ok then .next (finishRecov s r (r.cause == 0x0A || decide (3 ≤ faultCount s d u)) us) else .next (escalate s r)
    | .cluster => if ok then .next (finishRecov s r (r.cause == 0x0A || decide (3 ≤ faultCount s d u)) us) else .next (escalate s r)
    | .channel => .next (finishRecov s r (!ok || decide (3 ≤ faultCount s d u)) us)
    | .die => .next (finishRecov s r (!ok || r.cause == 0x0A || decide (3 ≤ faultCount s d u) || linkLost s u) us)

/-- R469. -/
def execModuleRecoveryTimeout (s : State) : Out :=
  if s.rel.modState = .moduleRecovery then .next (restartModule s) else .next s

/-- R470 cause 0x0D. -/
def execAgentSilentTimeout (d : Domain) (unit : BitVec 10) (s : State) : Out :=
  let u := unit.toNat
  if (d == .core || d == .cluster || d == .die) && unitExists d u then .next (faultDetect s d u 0x0D) else .next s

/-- R294, R470 cause 0x09: the home's timer has expired, and the cluster is recovered. -/
def execHomeTimeout (line : BitVec 31) (c : Fin 32) (s : State) : Out :=
  match homeTimeout s line c with
  | some s => .next (faultDetect s .cluster c.val 9)
  | none => .next s

/-- R20: the unit that a clock domain's loss of lock recovers. -/
def lockUnits (n : Nat) : List (Domain × Nat) :=
  if n < 28 then [(.die, n / 7)]
  else if n < 32 then [(.module, 0)]
  else (List.range 4).map (fun i => (.port, 4 * (n - 32) + i))

/-- R20: a running domain, or one that a recovery has stopped, loses lock. -/
def execPllLossOfLock (n : Fin 40) (s : State) : Out :=
  let w := s.domain n.val
  let us := lockUnits n.val
  let stopped := s.rel.running.any (fun r => us.contains (r.dom, r.unit))
  if !bit w 31 && !stopped then .next s
  else
    let s := s.setDomain n.val (setFld (setFld w 31 30 0) 23 16 (holdInc 255 (fld w 23 16)))
    .next (faultTogether (settlePower s) (us.map (fun u => ⟨u.1, u.2, 1⟩)))

/-- Number of a die-to-die link (R470), and how many UCIe modules it has (R9, R10). -/
def linkNum : DieLink → Nat
  | .hub d => d.val
  | .ring i => 4 + i.val

def linkModules : DieLink → Nat
  | .hub _ => 10
  | .ring _ => 16

/-- R13, R14: a UCIe module goes out of service; with the last one of a CD–HD link the die fails, and with the last one of a CD–CD
link its transactions are replayed the other way round. -/
def execUcieModuleOutOfService (l : DieLink) (m : Fin 16) (s : State) : Out :=
  let k := linkNum l
  if linkModules l ≤ m.val ∨ s.mem.ucieOut.contains (k, m.val) then .next s
  else
    let s := { s with mem := { s.mem with ucieOut := s.mem.ucieOut ++ [(k, m.val)] } }
    let lane : FaultIn := ⟨.laneGroup, 0x200 + 16 * k + m.val, 2⟩
    if !linkLost s k then .next (faultTogether s [lane])
    else match l with
      | .hub d => .next (faultTogether s [⟨.die, d.val, 3⟩, lane])
      | .ring i =>
        let s := faultTogether s [lane]
        .next { s with mem := { s.mem with cdcd := tput s.mem.cdcd i.val .replaying } }

/-- R14: the replay over the other intermediate die is complete. -/
def execLinkReplayComplete (i : Fin 4) (s : State) : Out :=
  if tget LinkState.inUse s.mem.cdcd i.val = .replaying then
    .next { s with mem := { s.mem with cdcd := tput s.mem.cdcd i.val .lost } }
  else .next s

end Sys2Proof.Machine
end

