-- ==== Sys2Proof/Machine/Bcn.lean ====
section
/-!
DEFINITION. The beacon unit (14 R357–R369, R375): symbols and ranging frames, the choice of the upstream and the keeper, missed
symbols and holdover, and period changes. The edge itself is in `Edge.lean`.
-/
namespace Sys2Proof.Machine

/-- States from RANGE on, in which control words carry symbols (R333, R363). -/
def PortState.symbols : PortState → Bool
  | .range => true
  | .activeM => true
  | .active => true
  | .width => true
  | _ => false

/-- A symbol waits for a control word of a port (R358). -/
def queueSym (s : State) (p : Nat) (sym : BitVec 3) (data : BitVec 11) : State :=
  s.updPort p (fun x => { x with link := { x.link with symbols := x.link.symbols ++ [(sym, data)] } })

/-- A beacon symbol goes out on every port in RANGE or later but the upstream (R363). -/
def sendBeacon (s : State) (n : BitVec 40) : State :=
  ((s.fab.ports.filter (fun e => e.2.st.symbols && some e.1 != s.bcn.up)).map Prod.fst).foldl (fun s p => queueSym s p 2 (n.setWidth 11)) s

/-- A beacon symbol from the upstream (R363, R366, R367): it is forwarded; one that does not name the module's own beacon counts a
number error, and the number is then taken from the upstream's next frame. In ACQUIRE the symbol tells the beacon that is taken at it. -/
def beaconSymbol (s : State) (p : Nat) (bnum : BitVec 11) : State :=
  if s.bcn.up ≠ some p then s
  else
    let s := ((s.fab.ports.filter (fun e => e.2.st.symbols && e.1 != p)).map Prod.fst).foldl (fun s q => queueSym s q 2 bnum) s
    let s := { s with bcn := { s.bcn with misses := 0 } }
    if s.bcn.st = .acquire then { s with bcn := { s.bcn with sym := some bnum } }
    else if s.bcn.st = .locked ∧ bnum ≠ s.bcn.num.setWidth 11 then
      { s with
        bcn := { s.bcn with wantNum := true }
        stamps := { s.stamps with numErrs := holdInc 0xFFFFFFFF s.stamps.numErrs } }
    else s

/-- STATE that frames advertise: HOLDOVER also below a module that does (R368). -/
def advertised (s : State) : Nat :=
  let below : Bool := match s.bcn.up.bind (fun p => (s.port p).cand) with
    | some (_, _, w2, _) => fld w2 23 22 == 3
    | none => false
  match s.bcn.st with
  | .keeper => 0
  | .locked => if below then 3 else 1
  | .acquire => if below then 3 else 2
  | .holdover => 3

/-- The ranging frame that a port sends (R359). -/
def frameWords (s : State) (p : Nat) : List W64 :=
  let b := s.bcn
  [at_ 56 b.keyPrio.toNat ||| at_ 0 b.keyDigest.toNat,
   at_ 24 b.num.toNat ||| at_ 10 b.period,
   at_ 32 b.offset ||| at_ 24 b.depth ||| at_ 22 (advertised s) ||| at_ 21 (b2n (b.up == some p)),
   if b.pend then at_ 24 b.pendTarget.toNat ||| at_ 10 b.pendPeriod ||| at_ 9 1 else 0]

/-- R363: a port sends a probe; at most one waits for its echo. -/
def execRangingProbe (p : Fin 32) (token : BitVec 7) (s : State) : Out :=
  if (s.port p.val).st.symbols then
    .next ((queueSym s p.val 3 (token.setWidth 11)).updPort p.val (fun x => { x with probeAt := some token }))
  else .next s

/-- R359: a port is to send a ranging frame: KIND 0b10, whose words are built when it goes out. -/
def execRangingFrameSend (p : Fin 32) (s : State) : Out :=
  if (s.port p.val).st.symbols then .next (queueSym s p.val 3 0x400#11) else .next s

/-- The beacon number that a frame of the upstream, or for a keeper of anybody, gives for the next edge (R361, R366, R367); of two
later ones the later. -/
def frameNumber (s : State) (p : Nat) (w1 : W64) : State :=
  let n : BitVec 40 := BitVec.ofNat 40 (fld w1 63 24)
  let take (s : State) : State := { s with bcn := { s.bcn with take := some (n + 1), wantNum := false } }
  let newer : Bool := match s.bcn.take with
    | some t => bcnLater t (n + 1)
    | none => true
  match s.bcn.st with
  | .keeper => if bcnLater s.bcn.num n && newer then take s else s
  | _ => if s.bcn.up = some p ∧ (s.bcn.wantNum ∨ s.bcn.st = .acquire) then take s else s

/-- The period change that a frame of the upstream tells (R369): one that is pending there, or one whose target this module has
passed, which it applies at its next edge. A frame of an earlier beacon than the module's own tells of nothing later. -/
def frameNext (s : State) (p : Nat) (w1 w3 : W64) : State :=
  let b := s.bcn
  let target : BitVec 40 := BitVec.ofNat 40 (fld w3 63 24)
  let learn (t : BitVec 40) (n : Nat) : State := { s with bcn := { b with pend := true, pendTarget := t, pendPeriod := n } }
  if b.up ≠ some p then s
  else if bit w3 9 && bcnLater b.num target then learn target (fld w3 23 10)
  else
    let now := if bit w3 9 then fld w3 23 10 else fld w1 23 10
    if b.pend ∨ now = b.period ∨ bcnLater (BitVec.ofNat 40 (fld w1 63 24)) b.num then s
    else learn b.num now

/-- R360: a ranging frame arrives. -/
def execRangingFrame (p : Fin 32) (w0 w1 w2 w3 : W64) (s : State) : Out :=
  if !(s.port p.val).st.symbols then .next s
  else
    let s := s.updPort p.val (fun x => { x with cand := some (w0, w1, w2, w3) })
    let s := reRank s
    let s := if s.bcn.up = some p.val then reOffset s else s
    .next (frameNext (frameNumber s p.val w1) p.val w1 w3)

/-- R368: the upstream's symbol is late; hub event 0x09. -/
def execMissedSymbol (s : State) : Out :=
  if s.bcn.st = .keeper ∨ s.bcn.st = .holdover then .next s
  else
    let m := s.bcn.misses + 1
    let s := { s with
      bcn := { s.bcn with misses := m }
      stamps := { s.stamps with missed := holdInc 0xFFFFFFFF s.stamps.missed } }.bumpHub 9 0xFFFF 1
    .next (if m = 3 then loseUpstream s else s)

/-- R368: eight periods in HOLDOVER with no candidate. -/
def execHoldoverExpiry (s : State) : Out :=
  if s.bcn.st = .holdover ∧ 8 ≤ s.bcn.holdPeriods ∧ (candidates s).isEmpty then .next (standKeeper s) else .next s

/-- A write of 0x4500:04 (R369); `us` is the time to this module's next edge, in µs. -/
def periodWrite (s : State) (v : W64) (us : Nat) : State × Nat :=
  let target : BitVec 40 := BitVec.ofNat 40 (fld v 63 24)
  let per := fld v 23 10
  let d := (target - s.bcn.num).toNat
  let refuse (n : Nat) : State × Nat := ({ s with bcn := { s.bcn with pstatus := BitVec.ofNat 8 n } }, kRefused)
  if bit v 9 then (s, kRefused)
  else if s.bcn.st ≠ .keeper then refuse 5
  else if per < 8 ∨ 16000 < per then refuse 4
  else if !bcnAhead s.bcn.num target ∨ d < 2 ∨ us + (d - 1) * s.bcn.period < 1000 then refuse 3
  else ({ s with bcn := { s.bcn with
      pend := true, pendTarget := target, pendPeriod := per, pstatus := 1, target := target, periodObj := per } }, kDone)

/-- R369 PERIOD_CHANGE. -/
def execPeriodChange (v : W64) (untilUs : W32) (s : State) : Out := .next (periodWrite s v untilUs.toNat).1

/-- R371: the hold window begins. -/
def execHoldWindowStart (s : State) : Out := .next { s with bcn := { s.bcn with holding := true } }

end Sys2Proof.Machine
end

