-- ==== Sys2Proof/Machine/Ecc.lean ====
section
/-!
DEFINITION. Error correction (11 R297–R300, 19 R473), page retirement (19 R474, R475) and self-test (19 R478–R481).
-/
namespace Sys2Proof.Machine

/-- A 4 KiB frame, OFFSET[38:12], is retired (R474, R475): written with zero, free of poison, listed; with the list full its whole
unit leaves allocation. -/
def retireFrame (s : State) (f : Nat) (unc : Bool) : State :=
  let stack := f / 2 ^ 24
  let frame := f % 2 ^ 24
  if s.rel.lostFrames.contains f || s.rel.retired.any (fun r => r.stack == stack && r.frame == frame) then s
  else
    let s := cohZero s (f * 4096) ((f + 1) * 4096)
    let (st, s) := s.stamp
    if s.rel.retired.length < 65536 then
      let page := s.rel.retired.length / 2048
      { s with rel := { s.rel with
          retired := s.rel.retired ++ [⟨stack, frame, unc, st⟩]
          retAdded := tput s.rel.retAdded page (holdInc 0xFFFFFFFF (tget 0 s.rel.retAdded page)) } }
    else
      let u := f / 2 ^ 18
      { s with rel := { s.rel with
          overflow := holdInc 65535 s.rel.overflow
          lostFrames := s.rel.lostFrames ++ [f]
          lostUnits := if s.rel.lostUnits.contains u then s.rel.lostUnits else s.rel.lostUnits ++ [u] } }

def wayCount : WayStruct → Nat
  | .l1 => 8
  | _ => 16

/-- Fewest ways that stay in service (R299). -/
def wayFloor : WayStruct → Nat
  | .l1 => 4
  | _ => 8

def wayUnits : WayStruct → Nat
  | .l1 => 256
  | .l2 => 32
  | .dir => 4

def structCode : WayStruct → Nat
  | .l1 => 0
  | .l2 => 1
  | .dir => 2

/-- The domain whose unit a way belongs to (R299). -/
def structDomain : WayStruct → Domain
  | .l1 => .core
  | .l2 => .cluster
  | .dir => .die

/-- What is kept for the ways of a structure: those out of service, those leaving it with their count and window (R300), and errors per
way in this window. -/
structure Ways where
  out : List Nat
  leaving : Tbl (Nat × Nat)
  errs : Tbl Nat
  deriving DecidableEq, Repr

def getWays (s : State) (st : WayStruct) (u : Nat) : Ways :=
  match st with
  | .l1 => let c := (s.core u).l1; ⟨c.out, c.leaving, c.errs⟩
  | .l2 => let c := (s.cluster u).l2; ⟨c.out, c.leaving, c.errs⟩
  | .dir => let h := s.home u; ⟨h.out, h.leaving, h.errs⟩

def putWays (s : State) (st : WayStruct) (u : Nat) (w : Ways) : State :=
  match st with
  | .l1 => s.updL1 u (fun c => { c with out := w.out, leaving := w.leaving, errs := w.errs })
  | .l2 => s.updL2 u (fun c => { c with out := w.out, leaving := w.leaving, errs := w.errs })
  | .dir => s.updHome u (fun h => { h with out := w.out, leaving := w.leaving, errs := w.errs })

/-- A way record (R300). -/
def addWayRec (s : State) (st : WayStruct) (u way action count window : Nat) : State :=
  let (t, s) := s.stamp
  { s with rel := { s.rel with
      wayRecs := s.rel.wayRecs ++ [⟨structCode st, u, way, action, min 255 count, window, t⟩]
      wayTotal := holdInc 0xFFFFFFFF s.rel.wayTotal } }

/-- Sub-event of corrected errors (R485 die event 0x07). -/
def eccBit : WayStruct → Nat
  | .l1 => 1
  | .l2 => 2
  | .dir => 4

def dieOfStruct (st : WayStruct) (u : Nat) : Nat :=
  match st with
  | .l1 => dieOfCore u
  | .l2 => dieOfCluster u
  | .dir => u

/-- A corrected error counts against its way; with the 17th of a window the way leaves service, or its unit does (R298, R299). What it
counts on in that window is in its record (R300). -/
def wayError (s : State) (st : WayStruct) (u way : Nat) : State :=
  let w := getWays s st u
  let n := holdInc 255 (tget 0 w.errs way)
  let s := (putWays s st u { w with errs := tput w.errs way n }).bumpDie (dieOfStruct st u) 7 (eccBit st) 1
  let win := s.rel.winStart.toNat
  match tfind w.leaving way with
  | some (_, x) => if x = win then putWays s st u { getWays s st u with leaving := tput w.leaving way (n, win) } else s
  | none =>
    if n ≠ 17 ∨ w.out.contains way then s
    else if wayCount st < wayFloor st + w.out.length + w.leaving.length + 1 then
      faultDetect (addWayRec s st u way 1 n win) (structDomain st) u 0x0A
    else putWays s st u { getWays s st u with leaving := tput w.leaving way (n, win) }

/-- R298, R474 CORRECTED_ERROR: a frame is retired with its 4th of a window. -/
def execCorrectedError (p : EccPlace) (s : State) : Out :=
  match p with
  | .way st unit way =>
    if wayUnits st ≤ unit.val ∨ wayCount st ≤ way.val then .next s else .next (wayError s st unit.val way.val)
  | .frame f =>
    let k := f.toNat
    let n := tget 0 s.mem.hbmErrs k + 1
    let s := { s with mem := { s.mem with hbmErrs := tput s.mem.hbmErrs k n } }.bumpDie (k / 2 ^ 25) 7 8 1
    .next (if n = 4 then retireFrame s k false else s)

/-- Step 2 of R298: the lines of a way leave it; a directory way needs the answers of its evictions. -/
def emptyWay (s : State) (st : WayStruct) (u way : Nat) : State :=
  match st with
  | .l1 => (((s.core u).l1.lines.filter (fun e => e.1 % 8 == way)).map (fun e => e.2.line)).foldl (fun s k => dropL1 s u k) s
  | .l2 => (((s.cluster u).l2.lines.filter (fun e => e.1 % 16 == way)).map (fun e => e.2.line)).foldl (fun s k => releaseL2 s u k false) s
  | .dir => (((s.home u).dir.filter (fun e => e.1 % 16 == way)).map Prod.snd).foldl (fun s e =>
      if homeBusy (s.home u) e.line then s else evictEntry s e e.line) s

def wayEmpty (s : State) (st : WayStruct) (u way : Nat) : Bool :=
  match st with
  | .l1 => (s.core u).l1.lines.all (fun e => e.1 % 8 != way)
  | .l2 => (s.cluster u).l2.lines.all (fun e => e.1 % 16 != way)
  | .dir => (s.home u).dir.all (fun e => e.1 % 16 != way)

/-- R298: a way that is leaving writes its data out and is then out of service. -/
def execWayOutOfService (st : WayStruct) (unit : Fin 256) (way : Fin 16) (s : State) : Out :=
  let u := unit.val
  let w := way.val
  match tfind (getWays s st u).leaving w with
  | none => .next s
  | some (count, window) =>
    let s := emptyWay s st u w
    if wayUnits st ≤ u || !wayEmpty s st u w then .next s
    else
      let x := getWays s st u
      let s := putWays s st u { x with out := w :: x.out, leaving := tdel x.leaving w }
      .next (addWayRec s st u w 0 count window)

/-- R297: an uncorrectable error in a sector of a cache: a clean one is dropped, a dirty one poisoned. -/
def sectorError (l : CLine) (q : Nat) : CLine :=
  match tfind l.sec q with
  | some x => if x.dirty then { l with sec := tput l.sec q { x with poison := true } } else { l with sec := tdel l.sec q }
  | none => l

def Cache.atPos (c : Cache) (p : Nat) (f : CLine → CLine) : Cache :=
  match tfind c.lines p with
  | some l => c.put p (f l)
  | none => c

/-- R297: an L1 tag is lost: the line goes, and where it was W its L2 poisons every sector of its copy. -/
def tagError (s : State) (k p : Nat) : State :=
  match tfind (s.core k).l1.lines p with
  | none => s
  | some l =>
    let s := s.updL1 k (fun c => { c with lines := tdel c.lines p })
    let w := decide (l.st = LineState.w)
    updL2Line s (clusterOf k) l.line (fun x => { x with
      shar := setBit x.shar (k % 8) false
      st := if w then .m else x.st
      sec := if w then x.sec.map (fun e => (e.1, { e.2 with dirty := true, poison := true })) else x.sec })

/-- The entries of a TLB that map a page are dropped, to be walked again (R473). -/
def Tlb.without (t : Tlb) (n vpn : Nat) : Tlb :=
  { t with ents := t.ents.filter (fun e => !(e.2.ctx == n && decide (e.2.vpn ≤ vpn) && decide (vpn < e.2.vpn + 2 ^ e.2.log2))) }

/-- R297, R473, R474 ECC_UNCORRECTABLE. An HBM sector is poisoned and its frame retired, which clears it (log 29); the 8th of a
window on one channel is a channel fault (R470). -/
def execEccUncorrectable (p : UncPlace) (s : State) : Out :=
  match p with
  | .l1Sector core set way sector => .next (s.updL1 core.val (fun c => c.atPos (8 * set.val + way.val) (fun l => sectorError l sector.val)))
  | .l1Tag core set way => .next (tagError s core.val (8 * set.val + way.val))
  | .l2Sector cl set way sector => .next (s.updL2 cl.val (fun c => c.atPos (16 * set.val + way.val) (fun l => sectorError l sector.val)))
  | .l2Tag cl _ _ => .next (faultDetect s .cluster cl.val 8)
  | .coreTlb k n vpn => .next (s.updCore k.val (fun c => { c with tlb := c.tlb.without n.toNat vpn.toNat }))
  | .clusterTlb cl n vpn => .next (s.setCluster cl.val { s.cluster cl.val with tlb := (s.cluster cl.val).tlb.without n.toNat vpn.toNat })
  | .dmaTlb e n vpn =>
    let x := s.cluster (e.val / 2)
    .next (s.setCluster (e.val / 2) { x with dtlb := tput x.dtlb e.val ((tget ⟨[], []⟩ x.dtlb e.val).without n.toNat vpn.toNat) })
  | .walkCache cl i => .next (s.setCluster cl.val { s.cluster cl.val with wcache := tdel (s.cluster cl.val).wcache i.val })
  | .coreState k _ => .next (faultDetect s .core k.val 6)
  | .coreParity k _ => .next (faultDetect s .core k.val 7)
  | .dirEntry d => .next (faultDetect s .die d.val 0x0B)
  | .hbm sec =>
    let line := sec.toNat / 4
    let ch := channelOf line
    let n := tget 0 s.rel.uncs ch + 1
    let s := setPoison s line (sec.toNat % 4) true
    let s := { s with rel := { s.rel with uncs := tput s.rel.uncs ch n } }
    let s := retireFrame s (sec.toNat / 64) true
    .next (if n = 8 then faultDetect s .channel ch 0x0C else s)

/-- R479: whether no partition holds the unit of a request. -/
def testFree (s : State) (c : TestCmd) : Bool :=
  let u := c.unit.toNat
  let held (p : Partition → Bool) : Bool := (partsHeld s).any (fun e => p e.2)
  match c.target with
  | 1#4 => !held (fun p => bit p.clusters (clusterOf u))
  | 2#4 => !held (fun p => bit p.clusters u)
  | 3#4 => !held (fun p => bit p.hbmMap u)
  | _ => true

/-- Whether a request can run now: its unit is free, not recovering, and not under test. -/
def testReady (s : State) (t : Test) : Bool :=
  let busy (d : Domain) (u : Nat) : Bool :=
    unitSt s d u == .recovering || unitSt s d u == .testing ||
      s.rel.running.any (fun r => encloses r.dom r.unit d u)
  let c3 := t.cmd.target != 3#4
  testFree s t.cmd && !s.rel.testing.any (fun x => x.cmd.target == t.cmd.target && x.cmd.unit == t.cmd.unit) &&
    (match testUnit t with
      | some (d, u) => !busy d u
      | none => c3 || !s.rel.running.any (fun r => onStack r.dom r.unit t.cmd.unit.toNat || r.dom == .module))

/-- A test starts (R479): its unit is TESTING, and its die holds work (R513). -/
def beginTest (s : State) (t : Test) : State :=
  match testUnit t with
  | some (d, u) =>
    let t := { t with was := unitSt s d u }
    let s := setUnit { s with rel := { s.rel with testing := s.rel.testing ++ [t] } } d u .testing
    (match d with
      | .core => wakeDies s [dieOfCore u]
      | .cluster => wakeDies s [dieOfCluster u]
      | _ => s)
  | none => { s with rel := { s.rel with testing := s.rel.testing ++ [t] } }

/-- Operations allowed on each target, and the units it has (R478). -/
def testAllowed (op : Nat) (c : TestCmd) : Bool :=
  let u := c.unit.toNat
  match c.target with
  | 1#4 => decide (1 ≤ op) && decide (op ≤ 3) && decide (u < 256)
  | 2#4 => decide (1 ≤ op) && decide (op ≤ 3) && decide (u < 32)
  | 3#4 => op == 2 && decide (u < 512)
  | 4#4 => op == 4 && decide (u < 32)
  | _ => false

/-- SELFTEST_CMD (R478, R479): the state and the dictionary status. -/
def selfTest (s : State) (op : Nat) (c : TestCmd) : State × Nat :=
  let status (s : State) (n : Nat) : State := { s with rel := { s.rel with testStatus := BitVec.ofNat 8 n } }
  let refuse (n : Nat) : State × Nat := (status s n, kRefused)
  if c.rsv ≠ 0 ∨ fld c.flags 7 1 ≠ 0 then refuse 1
  else if op = 5 then
    match s.rel.tests.find? (fun t => t.cmd.tag == c.tag) with
    | none => refuse 3
    | some t => (status (addResult { s with rel := { s.rel with tests := s.rel.tests.filter (· != t) } } t 2) 0, kDone)
  else if !testAllowed op c then refuse 1
  else if op = 4 ∧ c.start ≠ 0 ∧ !bcnAhead s.bcn.num c.start then refuse 4
  else
    let t : Test := ⟨op, if op = 4 ∧ c.start = 0 then { c with start := s.bcn.num + 1 } else c, .inService⟩
    if op ≠ 4 && testReady s t then (status (beginTest s t) 0, kDone)
    else if 64 ≤ s.rel.tests.length then refuse 2
    else (status { s with rel := { s.rel with tests := s.rel.tests ++ [t] } } 0, if op = 4 && testReady s t then kDone else kDeferred)

def execTestLogic (c : TestCmd) (s : State) : Out := .next (selfTest s 1 c).1
def execTestMemory (c : TestCmd) (s : State) : Out := .next (selfTest s 2 c).1
def execTestBoth (c : TestCmd) (s : State) : Out := .next (selfTest s 3 c).1
def execTestOpticalCal (c : TestCmd) (s : State) : Out := .next (selfTest s 4 c).1
def execTestCancel (c : TestCmd) (s : State) : Out := .next (selfTest s 5 c).1

/-- R479: a queued test starts when its unit has become free. -/
def execSelftestStart (tag : W32) (s : State) : Out :=
  match s.rel.tests.find? (fun t => t.cmd.tag == tag && t.op != 4) with
  | none => .next s
  | some t =>
    if testReady s t then .next (beginTest { s with rel := { s.rel with tests := s.rel.tests.filter (· != t) } } t) else .next s

/-- R480: at the edge of its START_BEACON a port to be calibrated is DISABLED; one that is recovering then, at the first edge after that
(R479). -/
def startCals (s : State) : State :=
  (s.rel.tests.filter (fun t => t.op == 4 && bcnReached s.bcn.num t.cmd.start)).foldl (fun s t =>
    if !testReady s t then s else
    let s := { s with rel := { s.rel with tests := s.rel.tests.filter (· != t) } }
    beginTest (enterPort s t.cmd.unit.toNat .disabled) t) s

/-- Whether the latest result of an operation on a unit is a pass. -/
def lastPassed (s : State) (t : Test) (op : Nat) : Bool :=
  match (s.rel.results.filter (fun r => r.target == t.cmd.target.toNat && r.unit == t.cmd.unit.toNat && r.op == op)).getLast? with
  | some r => r.res == 0
  | none => false

/-- State of a core or a cluster after a test that passed (R479): back in service once it has passed both. -/
def afterPass (s : State) (t : Test) : UnitState :=
  if t.op = 3 ∨ lastPassed s t (3 - t.op) then .inService else t.was

/-- A frame leaves the retired-frame list (R475, R479): each later page gives its first record to the page before it, which counts there as
one more added (log 102). -/
def unretire (s : State) (f : Nat) : State :=
  let l := s.rel.retired
  match l.findIdx? (fun r => r.stack * 2 ^ 24 + r.frame == f) with
  | none => s
  | some i =>
    let pages := (List.range 32).filter (fun p => decide (i / 2048 ≤ p) && decide (2048 * (p + 1) < l.length))
    { s with rel := { s.rel with
        retired := l.eraseIdx i
        retAdded := pages.foldl (fun t p => tput t p (holdInc 0xFFFFFFFF (tget 0 t p))) s.rel.retAdded } }

/-- An HBM unit after its test (R479): its poison is gone (R296) and its bytes read zero (log 30); failing frames are retired, and
with RETEST_RETIRED the retired ones that pass leave the list. Frames are named by OFFSET[38:12]. -/
def endUnitTest (s : State) (t : Test) (failing passing : List Nat) : State :=
  let u := t.cmd.unit.toNat
  let s := cohZero s (u * 2 ^ 30) ((u + 1) * 2 ^ 30)
  let mine (f : Nat) : Bool := f / 2 ^ 18 == u
  let s := (failing.filter mine).foldl (fun s f => retireFrame s f true) s
  if bit t.cmd.flags 0 then passing.foldl (fun s f => if mine f && !failing.contains f then unretire s f else s) s else s

/-- R479–R481 SELFTEST_END. -/
def execSelftestEnd (tag : W32) (pass : Bool) (failing passing : List Nat) (s : State) : Out :=
  match s.rel.testing.find? (fun t => t.cmd.tag == tag) with
  | none => .next s
  | some t =>
    let s := { s with rel := { s.rel with testing := s.rel.testing.filter (· != t) } }
    match testUnit t with
    | none => .next (addResult (endUnitTest s t failing passing) t (b2n !pass))
    | some (.port, u) => .next (calEnded (addResult (setUnit s .port u .inService) t (b2n !pass)) t)
    | some (d, u) =>
      let st := if pass then afterPass s t else .outOfService
      .next (addResult (setUnit s d u st) t (b2n !pass))

end Sys2Proof.Machine
end

