-- ==== Sys2Proof/Machine/Link.lean ====
section
/-!
DEFINITION. The optical link (13 R328–R335, R340, R350, R352; 18 R456, R457): bring-up of a port, the flits that arrive and leave,
replay, credits, and the width of a port.
-/
namespace Sys2Proof.Machine

/-- A width that both MAX_WIDTH fields allow (R334). -/
def agreedWidth (x : Port) (gs : BitVec 4) (peer : Nat) : Nat := min (widthOf gs) (min (fld x.ctrl 29 28) peer)

/-- R333: signal on the receive fibres of a port that is DOWN. -/
def execLaneSignalDetect (p : Fin 32) (groups : BitVec 4) (s : State) : Out :=
  let x := s.port p.val
  if x.st = .down ∧ x.mayTry ∧ groups ≠ 0 then .next (enterPort (s.setPort p.val { x with groups := groups }) p.val .train) else .next s

/-- R334: both ends have agreed a width. -/
def execTrainComplete (p : Fin 32) (groups : BitVec 4) (peerWidth : BitVec 2) (s : State) : Out :=
  let x := s.port p.val
  let w := agreedWidth x groups peerWidth.toNat
  if x.st ≠ .train ∨ w = 0 then .next s
  else .next (enterPort (s.setPort p.val { x with groups := groups, width := BitVec.ofNat 2 w }) p.val .hello)

/-- First 56 bits of an identity digest in an event (R351). -/
def digestWord (d : BitVec 256) : W64 := at_ 8 (keyDigestOf d).toNat

/-- Ports whose peer reported the same node ID under another identity (R356). -/
def conflicts (s : State) (p : Nat) : List Nat :=
  let x := s.port p
  (s.fab.ports.filter (fun e => e.1 != p && x.peerValid && e.2.peerValid && e.2.peerNode == x.peerNode &&
    e.2.peerDigest.isSome && e.2.peerDigest != x.peerDigest)).map Prod.fst

/-- What the third identical hello frame tells (R333, R351, R356). -/
def learnPeer (s : State) (p : Nat) (h : Hello) : State :=
  let x := s.port p
  let s := s.setPort p { x with
    peerPort := h.port.val, peerValid := h.node != 0xFFFFF#20, peerNode := h.node, peerDigest := some h.digest }
  let s := match x.peerDigest with
    | some d => if d = h.digest then s else postEvent s 6 p (s.port p).st.code h.node.toNat (digestWord h.digest) 0
    | none => s
  (conflicts s p).foldl (fun s q => postEvent s 7 p (s.port p).st.code h.node.toNat (digestWord h.digest) (BitVec.ofNat 64 q)) s

/-- R333: three identical hello frames in a row end HELLO. -/
def execHelloFrame (p : Fin 32) (h : Hello) (s : State) : Out :=
  let x := s.port p.val
  if x.st ≠ .hello then .next s
  else
    let n := if x.helloLast = some h then x.helloRun + 1 else 1
    let s := s.setPort p.val { x with helloLast := some h, helloRun := n }
    .next (if 3 ≤ n then enterPort (learnPeer s p.val h) p.val .secure else s)

/-- Key and salt of a direction and an epoch (R456), 32 bytes and 4. -/
def flitKey (prk : BitVec 256) (dir epoch : Nat) : List Byte := hkdfExpand (digBytes prk) (BitVec.ofNat 8 dir :: leBytes 4 epoch) 36

/-- Units of a bundle and of a ciphertext (R456; log 120). -/
def bundleUnits : Nat := 4870
def cipherUnits : Nat := 136

/-- What a peer's bundle says: certificate, identity public key, encapsulation key, and the signature over it (R448, R456). -/
structure Bundle where
  cert : List Byte
  key : List Byte
  kem : List Byte
  sig : List Byte

def bundleOf (us : List W64) : Bundle :=
  let bs := bytesOf (us.take bundleUnits)
  ⟨bs.take 29888, (bs.drop 29888).take 32, (bs.drop 29920).take 1184, (bs.drop 31104).take 7856⟩

/-- Step 2 of R456. The certificate is that of the identity key. -/
def Bundle.verifies (b : Bundle) : Bool :=
  b.cert.take 32 == b.key && Config.slhVerify (leBytes 64 Config.caKey.toNat) (b.cert.take 96) (b.cert.drop 96) &&
    Config.slhVerify128 b.key b.kem b.sig

/-- The module is the end with the lower identity digest. -/
def lowEnd (s : State) (peer : BitVec 256) : Bool := decide (s.sec.digest.toNat < peer.toNat)

/-- A peer's bundle has come: steps 1 to 3 of R456. A digest that has been verified skips step 2; a failed check, or an equal digest,
leaves the port as it is. -/
def takeBundle (s : State) (p : Nat) : State :=
  let x := s.port p
  let b := bundleOf x.link.heard
  let dig := digOf (sha256 b.key)
  let cached := s.sec.verified.contains dig
  if x.peerDigest ≠ some dig ∨ dig = s.sec.digest ∨ !(cached || b.verifies) then s
  else
    let s := { s with sec := { s.sec with verified := if cached then s.sec.verified else (s.sec.verified ++ [dig]).drop (s.sec.verified.length - 255) } }
    let (r, s) := drawBytes s
    let c := Config.kemEncaps b.kem (r.setWidth 256)
    s.updPort p (fun x => { x with link := { x.link with secret := some c, text := x.link.text ++ unitsOf (leBytes 1088 c.1.toNat) } })

/-- The PRK of a link (R456): salt and secrets in the order of the ends. -/
def linkPrk (s : State) (peer ours theirs : BitVec 256) : BitVec 256 :=
  let (lo, hi, a, b) := if lowEnd s peer then (s.sec.digest, peer, ours, theirs) else (peer, s.sec.digest, theirs, ours)
  digOf (hkdfExtract (digBytes lo ++ digBytes hi) (digBytes a ++ digBytes b))

/-- The check of the transcript that the low end or the high one sends: an HMAC under its epoch-0 key (R456), as units. -/
def proofUnits (s : State) (x : Port) (prk : BitVec 256) (low : Bool) : List W64 :=
  let ours := bundle ++ leBytes 1088 ((x.link.secret.map Prod.fst).getD 0).toNat
  let theirs := bytesOf (x.link.heard.take (bundleUnits + cipherUnits))
  let t := if lowEnd s (x.peerDigest.getD 0) then Config.transcript ours theirs else Config.transcript theirs ours
  unitsOf ((hmac ((flitKey prk (b2n (!low)) 0).take 32) t).take 16)

/-- The peer's ciphertext has come: step 4 of R456, and this end's check of the transcript. -/
def takeCipher (s : State) (p : Nat) (ours : BitVec 256) : State :=
  let x := s.port p
  let peer := x.peerDigest.getD 0
  let prk := linkPrk s peer ours (Config.kemDecaps kemSeed (bytesOf ((x.link.heard.drop bundleUnits).take cipherUnits)))
  s.setPort p { x with link := { x.link with prk := prk, proved := true, text := x.link.text ++ proofUnits s x prk (lowEnd s peer) } }

/-- What has been heard in SECURE is taken as soon as it is whole (R456). -/
def secureStep (s : State) (p : Nat) : State :=
  let x := s.port p
  if x.st ≠ .secure then s
  else
    let s := if x.link.secret.isNone && decide (bundleUnits ≤ x.link.heard.length) then takeBundle s p else s
    let x := s.port p
    match x.link.secret with
    | some c => if !x.link.proved && decide (bundleUnits + cipherUnits ≤ x.link.heard.length) then takeCipher s p c.2 else s
    | none => s

/-- The peer's check of the transcript has come, and agrees (R456). -/
def secureAgreed (s : State) (p : Nat) : Bool :=
  let x := s.port p
  decide (x.st = .secure) && x.link.proved &&
    (proofUnits s x x.link.prk (!lowEnd s (x.peerDigest.getD 0))).isPrefixOf (x.link.heard.drop (bundleUnits + cipherUnits))

/-- R456: the transcripts agree with the peer whose identity digest is `peer`, and RANGE begins under the keys. -/
def execSecureComplete (p : Fin 32) (peer : BitVec 256) (s : State) : Out :=
  if (s.port p.val).peerDigest ≠ some peer || !secureAgreed s p.val then .next s
  else .next ((enterPort s p.val .range).updPort p.val (fun x => { x with link := { x.link with keyed := true } }))

/-- H of R363 from a round trip, in units of 0.25 ns: half of it and the 5 ns of the beacon unit. -/
def hopOf (rtt : Nat) : Nat := (rtt / 2 + 20) % 2 ^ 32

/-- A flit slot in units of 0.25 ns: 256 bytes at 2.048 Tbit/s, and 2 or 4 of those at x8 and x4 (R328, R334). -/
def slotTime (x : Port) : Nat := if x.width = 1 then 16 else if x.width = 2 then 8 else 4

/-- R363: the delay of the link is known, from the smallest round trip. The sender's credits are
the port's own allocation (log 17). -/
def execRangeComplete (p : Fin 32) (rtt : W32) (s : State) : Out :=
  let x := s.port p.val
  if x.st ≠ .range then .next s
  else
    let s := s.setPort p.val { x with
      hop := hopOf rtt.toNat
      link := { x.link with credits := x.alloc.zipIdx.map (fun e => (e.2, e.1)) } }
    .next (enterPort s p.val .activeM)

/-- A port fault (R334) with the port's change of state; a recovery of the port that runs absorbs it (R468). -/
def portFault (s : State) (p : Nat) (st : PortState) : State := portFaulted (enterPort s p st) p

/-- A bring-up state that times out while the port recovers is part of that recovery, no fault of its own (R467). -/
def bringUpFails (s : State) (p : Nat) : State :=
  let s := if s.rel.running.any (fun r => r.dom == .port && r.unit == p) then enterPort s p .down else portFault s p .down
  s.updPort p (fun x => { x with mayTry := false })

/-- R333: a bring-up state has taken too long: DOWN, and a new attempt 1 ms later. -/
def execPortStateTimeout (p : Fin 32) (s : State) : Out :=
  match (s.port p.val).st with
  | .train => .next (bringUpFails s p.val)
  | .hello => .next (bringUpFails s p.val)
  | .secure => .next (bringUpFails s p.val)
  | .range => .next (bringUpFails s p.val)
  | _ => .next s

/-- R333: the 1 ms has passed; and RETRAIN goes on to TRAIN. -/
def execPortRetry (p : Fin 32) (s : State) : Out :=
  let x := s.port p.val
  match x.st with
  | .down => .next (s.setPort p.val { x with mayTry := true })
  | .retrain => .next (enterPort s p.val .train)
  | _ => .next s

/-- R334: the loss of one lane group of several is a fault of its own, and the port goes on in WIDTH. -/
def narrow (s : State) (p g : Nat) : State := loseGroup (faultDetect s .laneGroup (4 * p + g) 4) p g

/-- The last lane group of a port is lost (R334): the port goes DOWN. Where another of its groups recovers, this is the second fault that
escalates that chain to the port (R467). -/
def lastGroup (s : State) (p g : Nat) : State :=
  if s.rel.running.any (fun r => isSecond r .laneGroup (4 * p + g) 4) then
    (let s := faultDetect s .laneGroup (4 * p + g) 4
     if (s.port p).st = .down then s else enterPort s p .down)
  else portFault s p .down

/-- R334: a lane group goes out of service. With the last one the port goes DOWN; in TRAIN and RETRAIN the next width is narrower
(R356). -/
def execLaneGroupLoss (p : Fin 32) (g : Fin 4) (s : State) : Out :=
  let x := s.port p.val
  if !bit x.groups g.val then .next s
  else
    let rest := setBit x.groups g.val false
    match x.st with
    | .activeM => if rest = 0 then .next (lastGroup s p.val g.val) else .next (narrow s p.val g.val)
    | .active => if rest = 0 then .next (lastGroup s p.val g.val) else .next (narrow s p.val g.val)
    | .width => if rest = 0 then .next (lastGroup s p.val g.val) else .next (narrow s p.val g.val)
    | _ => .next (s.setPort p.val { x with groups := rest })

/-- R334: the width has changed: back to the state before (R351 tells of it). -/
def execWidthComplete (p : Fin 32) (s : State) : Out :=
  let x := s.port p.val
  if x.st ≠ .width then .next s else .next (enterPort s p.val x.back)

/-- Slots of the epoch that the port sends in (R457). -/
def epochSlots (l : LinkLayer) : Nat := l.slots - l.epochAt

/-- R457: after 2^35 slots of an epoch the sender is to move to the next one: a key-switch symbol waits for its flit. -/
def execLinkKeySwitch (p : Fin 32) (s : State) : Out :=
  let l := (s.port p.val).link
  if !l.keyed ∨ epochSlots l < 2 ^ 35 ∨ l.symbols.any (fun e => e.1 == 4) then .next s else .next (queueSym s p.val 4 0)

/-- A write of 0x4110:SS (R350). -/
def portCtrlWrite (s : State) (p : Nat) (v : W32) : State × Nat :=
  let x := s.port p
  if fld v 29 28 = 0 ∨ fld v 27 0 ≠ 0 then (s, kRefused)
  else
    let s := s.setPort p { x with ctrl := v }
    if !bit v 31 then (if x.st = .disabled then s else
      enterPort s p .disabled, kDone)
    else if x.st = .disabled && unitSt s .port p != .testing then (portFault s p .down, kDone)
    else (s, kDone)

/-- R350: a write of port control for its EN bit. -/
def execPortEnWrite (p : Fin 32) (v : W32) (s : State) : Out := .next (portCtrlWrite s p.val v).1

/-- R350: a write of port control for its DATA bit. -/
def execPortDataWrite (p : Fin 32) (v : W32) (s : State) : Out := .next (portCtrlWrite s p.val v).1

/-- Credits go back to the peer for units that have left a receive buffer (R340). -/
def giveBack (l : LinkLayer) (vc n : Nat) : LinkLayer := { l with returns := tput l.returns vc (tget 0 l.returns vc + n) }

/-- Units that have arrived of a packet that an output has begun go on there (R342); when it ends aborted, so does the output's (R336).
The flag says whether `abt` is still for a packet that follows. -/
def passUnits (s : State) (p : Nat) (abt : Bool) : State × Bool :=
  let x := s.port p
  match x.cut with
  | none => (s, abt)
  | some (q, vc, left) =>
    let us := x.link.asm.take left
    let n := us.length
    let s := s.setPort p { x with
      cut := if n = left then none else some (q, vc, left - n)
      link := giveBack { x.link with asm := x.link.asm.drop n } vc n }
    (s.updPort q (fun y =>
      match y.link.feed with
      | some f => if f.input ≠ p then y else
          let all := y.link.txUnits ++ us
          { y with link := { y.link with
            txUnits := all
            feed := if n = left then none else some { f with owed := left - n }
            abort := if n = left ∧ abt then some (f.start, all.length) else y.link.abort } }
      | none => y), abt && n != left)

/-- Complete packets leave the assembly and enter the receive buffer; `abt` says that the first that ends is aborted (R336). -/
def takePackets (s : State) (p : Nat) (abt : Bool) : Nat → State
  | 0 => s
  | n + 1 =>
    let x := s.port p
    match x.link.asm with
    | [] => s
    | w0 :: _ =>
      let len := packetLen w0
      if x.cut.isSome ∨ x.link.asm.length < len then s
      else
        let l := { x.link with asm := x.link.asm.drop len }
        match packetOf (x.link.asm.take len) with
        | none => s
        | some k =>
          let s := if abt then s.setPort p { x with link := giveBack l (pkVc k) len }
            else if packetBad k then (s.setPort p { x with link := giveBack l (pkVc k) len }).portErr p 0
            else s.setPort p { x with link := l, rx := x.rx ++ [k] }
          takePackets s p false n

/-- ACK_SEQ and NAK of an arriving control word (R331). -/
def ackFlits (l : LinkLayer) (ack : Nat) (nak : Bool) : LinkLayer :=
  let rest := match l.replay.findIdx? (fun e => e.seq == ack) with
    | some i => l.replay.drop (i + 1)
    | none => l.replay
  let gone := l.replay.length - rest.length
  let next := l.resend.bind (fun i => if gone ≤ i ∧ i - gone < rest.length then some (i - gone) else none)
  { l with replay := rest, resend := if nak && next.isNone && !rest.isEmpty then some 0 else next }

/-- Credit returns of an arriving control word (R340). -/
def addCredits (l : LinkLayer) (w : W64) : LinkLayer :=
  let add (l : LinkLayer) (vc n : Nat) : LinkLayer := if n = 0 then l else { l with credits := tput l.credits vc (tget 0 l.credits vc + n) }
  add (add l (fld w 38 36) (fld w 35 27)) (fld w 26 24) (fld w 23 15)

/-- A round trip of a probe gives one value of the hop delay (R363). The time is not part of the flit: a free value (log 6). -/
def echoSample (s : State) (p : Nat) (token : BitVec 7) (wait : Nat) : State :=
  if (s.port p).probeAt ≠ some token then s
  else
    let (v, s) := s.free
    s.updPort p (fun x => { x with
      probeAt := none
      samples := (x.samples ++ [hopOf (v.toNat % 2 ^ 32 - wait * slotTime x)]).drop (x.samples.length - 15) })

/-- A symbol of an arriving control word (R330, R357, R358); a key switch is the receiver's affair (R457). Frames come as
RANGING_FRAME, hello frames as HELLO_FRAME. -/
def symbolArrives (s : State) (p : Nat) (sym data : Nat) : State :=
  match sym with
  | 2 => beaconSymbol s p (BitVec.ofNat 11 data)
  | 3 =>
    if data / 2 ^ 9 = 0 then queueSym s p 3 (BitVec.ofNat 11 (2 ^ 9 + data % 2 ^ 7))
    else if data / 2 ^ 9 = 1 then echoSample s p (BitVec.ofNat 7 data) (data / 2 ^ 7 % 4)
    else s
  | _ => s

/-- Order of symbols that want one flit (R358): beacon, echo, key switch, probe, frame. -/
def symRank (e : BitVec 3 × BitVec 11) : Nat :=
  match e.1 with
  | 2#3 => 0
  | 4#3 => 2
  | 3#3 => if e.2.toNat / 2 ^ 9 = 1 then 1 else if e.2.toNat / 2 ^ 9 = 0 then 3 else 4
  | _ => 5

/-- The symbol that the next flit carries, and those that wait on. A frame waits for the packet in progress to end (R359). -/
def takeSym (l : LinkLayer) : Option (BitVec 3 × BitVec 11) × List (BitVec 3 × BitVec 11) :=
  let ok := l.symbols.filter (fun e => symRank e < 4 || (l.txUnits.isEmpty && l.feed.isNone && l.resend.isNone))
  match ok with
  | [] => (none, l.symbols)
  | e :: r =>
    let b := r.foldl (fun b x => if symRank x < symRank b then x else b) e
    (some b, l.symbols.erase b)

/-- WAIT of an echo counts the slots that it lost (R357, R358). -/
def ageEchoes (l : List (BitVec 3 × BitVec 11)) : List (BitVec 3 × BitVec 11) :=
  l.map (fun e => if symRank e = 1 then (e.1, setFld e.2 8 7 (min 3 (fld e.2 8 7 + 1))) else e)

/-- The symbol of the next flit. A link changes key before the count of its slots reaches 2^36 (R332). -/
def nextSym (l : LinkLayer) : Option (BitVec 3 × BitVec 11) × List (BitVec 3 × BitVec 11) :=
  if l.keyed && decide (2 ^ 36 ≤ epochSlots l + 1) then (some (4, 0), l.symbols.filter (fun e => e.1 != 4)) else takeSym l

/-- A flit that leaves: its packet space, and the control word built for it (R329). A key-switch symbol changes the key at its slot
(R332, R457). -/
def flitOut (s : State) (p : Nat) (h : HeldFlit) (l : LinkLayer) : State :=
  let x := s.port p
  let (sym, rest) := if h.hello.isSome then (some (1#3, 0#11), l.symbols) else nextSym l
  let (sy, dat) : BitVec 3 × BitVec 11 := sym.getD (0, 0)
  let rets := l.returns.filter (fun e => e.2 != 0)
  let a : Nat × Nat := rets.headD (0, 0)
  let b : Nat × Nat := (rets.drop 1).headD (0, 0)
  let na := min 511 a.2
  let nb := min 511 b.2
  let back (t : Tbl Nat) (e : Nat × Nat) (n : Nat) : Tbl Nat := if n = 0 then t else tput t e.1 (e.2 - n)
  let w : W64 := at_ 52 h.seq ||| at_ 40 ((l.rxSeq - 1).toNat) ||| at_ 39 (b2n l.nak) ||| at_ 36 a.1 ||| at_ 27 na |||
    at_ 24 b.1 ||| at_ 15 nb ||| at_ 12 sy.toNat ||| at_ 11 (b2n h.abt) ||| at_ 0 dat.toNat
  let l := { l with
    symbols := ageEchoes rest
    returns := back (back l.returns a na) b nb
    epochTx := if sy = 4 then l.epochTx + 1 else l.epochTx
    epochAt := if sy = 4 then l.slots else l.epochAt }
  s.setPort p { x with link := l, tx := some ⟨w, h.units, h.hello, l.slots, if l.keyed then some l.epochTx else none⟩ }

/-- The units of the next new flit, whether the packet that ends in it is aborted, and what waits on. An aborted packet ends in a flit in
which no other does. -/
def takeUnits (l : LinkLayer) : List W64 × Bool × LinkLayer :=
  let n := min l.txUnits.length (match l.abort with
    | some (a, e) => if 0 < a then min 28 a else min 28 e
    | none => 28)
  let abt : Bool := match l.abort with
    | some (a, e) => a == 0 && decide (e ≤ 28)
    | none => false
  (l.txUnits.take n, abt, { l with
    txUnits := l.txUnits.drop n
    feed := l.feed.map (fun f => { f with start := f.start - n })
    abort := if abt then none else l.abort.map (fun e => (e.1 - n, e.2 - n)) })

/-- Best-effort packets that wait for output `q`, by input and virtual channel (R341). -/
def beQueue (s : State) (q : Nat) : Tbl Nat :=
  (s.fab.ports.map Prod.fst ++ [32]).flatMap (fun i => (List.range 8).filterMap (fun v =>
    let n := ((inputQueue s i).filter (fun p => pkVc p == v && pkTc p == 1 &&
      (match routeOf s i 0 p with | .port r _ => r == q | _ => false))).length
    if n = 0 then none else some (8 * i + v, n)))

/-- A flit more that the best-effort packets for an output wait; 64 are enough to know (R341). -/
def ageWaits (s : State) (q : Nat) : State :=
  s.updPort q (fun x => { x with beWait := (beQueue s q).map (fun e =>
    (e.1, (List.range e.2).map (fun j => min 64 ((tget [] x.beWait e.1).getD j 0 + 1)))) })

/-- The packet space of the next new flit, with what waits on (R329, R333, R359, R456): a hello frame in HELLO, a part of what SECURE
exchanges, a ranging frame, or units of packets. -/
def nextFlit (s : State) (p : Nat) (l : LinkLayer) : HeldFlit × LinkLayer :=
  let x := s.port p
  let n := l.txSeq.toNat
  match x.st with
  | .train => (⟨n, [], false, none⟩, l)
  | .hello => (⟨n, [], false, some ⟨s.sec.digest, s.fab.node, ⟨p % 32, Nat.mod_lt _ (by decide)⟩, BitVec.ofNat 2 (fld x.ctrl 29 28)⟩⟩, l)
  | .secure => (⟨n, l.text.take 28, false, none⟩, { l with text := l.text.drop 28 })
  | _ =>
    let frame := match nextSym l with | (some e, _) => symRank e == 4 | _ => false
    let (units, abt, l) := if frame then (frameWords s p, false, l) else takeUnits l
    (⟨n, units, abt, none⟩, l)

/-- The flit that a port sends in a slot (R331, R334): one that is replayed, or a new one. Without a free place in the replay buffer, and in
WIDTH, no new flit is sent, and an echo waits one slot more (R358). -/
def sendSlot (s : State) (p : Nat) : State :=
  let s := ageWaits s p
  let x := s.port p
  let l := x.link
  match l.resend with
  | some i =>
    let l := { l with resend := if i + 1 < l.replay.length then some (i + 1) else none }
    ((flitOut s p (l.replay.getD i ⟨0, [], false, none⟩) l).portErr p 3).bumpPort 3 p 0 1
  | none =>
    if 2048 ≤ l.replay.length || x.st == .width then s.setPort p { x with link := { l with symbols := ageEchoes l.symbols } }
    else
      let (h, l) := nextFlit s p l
      let s := flitOut s p h { l with txSeq := l.txSeq + 1, replay := l.replay ++ [h] }
      if h.units.isEmpty then s else s.bumpPort 1 p 0 1

/-- A bad flit (R330, R331, R334): it is discarded whole and NAK is set; the 16th bad replay in a row of the flit that is awaited (log 33),
or the 9th tag failure of a period, retrains the link. -/
def badFlit (s : State) (p : Nat) (tag : Bool) (seq : Nat) : State :=
  let s := s.portErr p 2
  let s := if tag then s.portErr p 4 else s
  let x := s.port p
  let l := { x.link with
    nak := true
    badRun := if !x.link.nak then 0 else if seq = x.link.rxSeq.toNat then x.link.badRun + 1 else x.link.badRun
    tagFails := if tag then x.link.tagFails + 1 else x.link.tagFails }
  let s := s.setPort p { x with link := l }
  if (x.st = .active ∨ x.st = .activeM) ∧ (16 ≤ l.badRun ∨ 8 < l.tagFails) then portFault s p .retrain else s

/-- States in which flits are encrypted and may carry packets and symbols (R333). -/
def PortState.hears (st : PortState) : Bool := st.symbols

/-- A good flit (R330, R331): its control word takes effect; its packet space only where it is the one expected (log 34). The receiver moves
to its next epoch once, at a key switch, whose slot uses the new key, or at a flit that passes under the next key alone (R332, R457).
Before RANGE it carries no packet: what it holds belongs to SECURE (log 85). -/
def goodFlit (s : State) (p : Nat) (f : FlitIn) : State :=
  let s := s.bumpPort 2 p 0 1
  let x := s.port p
  let seq : BitVec 12 := BitVec.ofNat 12 (fld f.ctrl 63 52)
  let l := addCredits (ackFlits x.link (fld f.ctrl 51 40) (bit f.ctrl 39)) f.ctrl
  let sym := fld f.ctrl 14 12
  let l := if f.check = .tagNextKey ∨ sym = 4 then { l with epochRx := l.epochRx + 1 } else l
  let fresh := decide (seq = l.rxSeq)
  let isFrame := (sym == 3 && fld f.ctrl 10 9 == 2) || sym == 1
  let us := if isFrame then [] else f.units.filterMap id
  let l := if fresh then { l with
    rxSeq := l.rxSeq + 1, nak := false, badRun := 0
    asm := if x.st.hears then l.asm ++ us else l.asm
    heard := if x.st = .hello ∨ x.st = .secure then l.heard ++ us else l.heard } else l
  let s := s.setPort p { x with link := l }
  let s := if x.st.hears then symbolArrives s p sym (fld f.ctrl 10 0) else s
  if !fresh then s
  else if !x.st.hears then secureStep s p
  else
    let (s, abt) := passUnits s p (bit f.ctrl 11)
    takePackets s p abt 8

/-- What an arriving flit does (R330). -/
def flitArrives (s : State) (p : Nat) (f : FlitIn) : State :=
  match f.check with
  | .good => goodFlit s p f
  | .tagNextKey => goodFlit s p f
  | .tag => badFlit s p true (fld f.ctrl 63 52)
  | _ => badFlit s p false (fld f.ctrl 63 52)

/-- Slots are counted from SECURE on (R332). -/
def countSlot (s : State) (p : Nat) : State := s.updPort p (fun x => { x with link := { x.link with slots := x.link.slots + 1 } })

/-- R330 FLIT_ARRIVAL: the flit of the slot before leaves, with whatever has begun since its arrival, and a new one arrives. Every flit is
sequenced, from TRAIN on (R331). -/
def execFlitArrival (p : Fin 32) (f : FlitIn) (s : State) : Out :=
  let slot (s : State) : State := flitArrives (sendSlot s p.val) p.val f
  let counted (s : State) : State := flitArrives (countSlot (sendSlot s p.val) p.val) p.val f
  match (s.port p.val).st with
  | .train => .next (slot s)
  | .hello => .next (slot s)
  | .secure => .next (counted s)
  | .range => .next (counted s)
  | .activeM => .next (counted s)
  | .active => .next (counted s)
  | .width => .next (counted s)
  | _ => .next s

/-- CRC-64 with the ECMA-182 polynomial, most significant bit first (R328). -/
def crc64 (bs : List Byte) : W64 :=
  bs.foldl (fun c b => (List.range 8).foldl (fun (c : W64) _ => if bit c 63 then (c <<< 1) ^^^ 0x42F0E1EBA9EA3693#64 else c <<< 1)
    (c ^^^ at_ 56 b.toNat)) 0

/-- The 256 bytes of a flit on the fibres (R328, R332): control word, packet space, tag, CRC-64 and the parity of the codewords on the
even and on the odd bytes. -/
def flitWire (s : State) (p : Nat) (f : FlitOut) : List Byte :=
  let x := s.port p
  let ctrl := leBytes 8 f.ctrl.toNat
  let plain := match f.hello with
    | some h => (Config.helloSpace h.digest h.node.toNat h.port.val h.maxWidth.toNat ++ List.replicate 224 0).take 224
    | none => (bytesOf f.units ++ List.replicate 224 0).take 224
  let dir := if s.sec.digest.toNat < (x.peerDigest.getD 0).toNat then 0 else 1
  let (space, tag) : List Byte × List Byte := match f.epoch with
    | some e =>
      let k := flitKey x.link.prk dir e
      let nonce := k.drop 32 ++ leBytes 8 f.slot
      let c := gcmText (k.take 32) nonce plain
      (c, (gcmTag (k.take 32) nonce ctrl c).take 8)
    | none => (plain, leBytes 8 (Config.plainTag ctrl plain).toNat)
  let body := ctrl ++ space ++ tag
  let body := body ++ leBytes 8 (crc64 body).toNat
  let half (odd : Nat) : List Byte := leBytes 4 (Config.rsParity ((List.range 124).map (fun i => body.getD (2 * i + odd) 0))).toNat
  body ++ (List.range 4).flatMap (fun i => [(half 0).getD i 0, (half 1).getD i 0])

/-- A write of 0x4120:SS (R340): each value at least 40 units, at most 49,152 in all; in force from the next TRAIN. -/
def allocWrite (s : State) (p : Nat) (bs : List Byte) : State × Nat :=
  let vs := (List.range 8).map (fun i => leNat ((bs.drop (2 * i)).take 2))
  if vs.any (· < 40) ∨ 49152 < vs.foldl (· + ·) 0 then (s, kRefused)
  else (s.updPort p (fun x => { x with allocNew := vs }), kDone)

end Sys2Proof.Machine
end

