-- ==== Sys2Proof/Machine/Switch.lean ====
section
/-!
DEFINITION. The switch takes packets from its inputs (13 R341, R343–R345), the fabric endpoint serves remote requests (R353) and management
packets (17 R438), and the writes of the node ID and of route commits (R346, R347).
-/
namespace Sys2Proof.Machine

/-- The first packet of a virtual channel leaves an input; a port's peer gets its credits back (R340). -/
def leaveInput (s : State) (i vc : Nat) : State :=
  match takeFirst (fun p => pkVc p == vc) (if i = 32 then s.fab.epOut else (s.port i).rx) with
  | none => s
  | some (p, rest) =>
    if i = 32 then { s with fab := { s.fab with epOut := rest } }
    else s.updPort i (fun x => { x with rx := rest, link := giveBack x.link vc (4 + p.body.length) })

/-- Credits for every unit of a packet on its virtual channel (R340). -/
def creditsHeld (l : LinkLayer) (p : Packet) : Bool := decide (packetLen p.w0 ≤ tget 0 l.credits (pkVc p))

/-- Order of the classes at an output (R341): management, latency-critical, best-effort; a best-effort packet that has waited 64 flits
goes once before the latency-critical ones. -/
def classRank (late : Bool) (p : Packet) : Nat :=
  match pkTc p with
  | 2 => 0
  | 0 => 2
  | _ => if late then 1 else 3

/-- Place of a virtual channel after the one served last of the class (R341). -/
def vcTurn (last : Nat) (p : Packet) : Nat := (pkVc p + 7 - last) % 8

/-- A head of an input has waited 64 flits for the output. -/
def hasWaited (x : Port) (i : Nat) (p : Packet) : Bool := decide (64 ≤ (tget [] x.beWait (8 * i + pkVc p)).headD 0)

/-- R341: among the heads whose credits are held, none has a better class, or the same class and an earlier turn. Which input goes
first on one virtual channel the spec leaves to the command. -/
def mayBegin (s : State) (fill i q : Nat) (p : Packet) : Bool :=
  let x := s.port q
  let rank (i : Nat) (k : Packet) : Nat := 8 * classRank (hasWaited x i k) k + vcTurn (tget 0 x.lastVc (pkTc k)) k
  creditsHeld x.link p && (headsFor s fill q).all (fun e => !creditsHeld x.link e.2 || decide (rank i p ≤ rank e.1 e.2))

/-- A port that can begin a packet: data flows on it, the one before has all its units and is about to end, and no frame waits
(R336, R359). -/
def portOpen (x : Port) : Bool :=
  (decide (x.st = .active) || decide (x.st = .activeM)) && decide (x.link.txUnits.length < 28) && x.link.feed.isNone &&
    x.link.abort.isNone && !x.link.symbols.any (fun e => symRank e == 4)

/-- A packet of input `i` begins on an output, with the units of it that are there (R342). -/
def beginPacket (s : State) (i q : Nat) (p : Packet) : State :=
  let len := packetLen p.w0
  s.updPort q (fun x =>
    { x with
      lastVc := tput x.lastVc (pkTc p) (pkVc p)
      beWait := tput x.beWait (8 * i + pkVc p) ((tget [] x.beWait (8 * i + pkVc p)).drop 1)
      link := { x.link with
        txUnits := x.link.txUnits ++ pkUnits p
        feed := if 4 + p.body.length < len then some ⟨i, len - (4 + p.body.length), x.link.txUnits.length⟩ else none
        dry := tdel x.link.dry (pkVc p)
        credits := tput x.link.credits (pkVc p) (tget 0 x.link.credits (pkVc p) - len) } })

/-- The part that has arrived of the packet that port `i` is receiving leaves for output `q`; the rest follows it (R342). -/
def leaveArriving (s : State) (i q : Nat) (p : Packet) : State :=
  s.updPort i (fun x => { x with
    cut := some (q, pkVc p, packetLen p.w0 - x.link.asm.length)
    link := giveBack { x.link with asm := [] } (pkVc p) x.link.asm.length })

/-- A discarded packet (R343): counted at its input; a request of the endpoint ends as if it had timed out twice. -/
def discard (s : State) (i kind : Nat) (p : Packet) : State :=
  let s := s.portErr i kind
  if i = 32 ∧ (pkType p = 1 ∨ pkType p = 3) then
    match s.mem.fab.find? (fun t => t.id == pkTxn p) with
    | some t => txnLost s t
    | none => s
  else s

/-- R341 PACKET_FORWARD: the first packet of a virtual channel of an input (32: the endpoint) goes where it is routed; one that is
still arriving may begin on its output (R342). A packet that waits for credits is counted (R485 hub event 0x04; log 8). The number that
stands for the endpoint in a path is a free value (log 6). -/
def execPacketForward (input : Fin 33) (vc : BitVec 3) (s : State) : Out :=
  match (inputQueue s input.val).find? (fun p => pkVc p == vc.toNat) with
  | none => .next s
  | some p =>
    let whole := decide (packetLen p.w0 ≤ 4 + p.body.length)
    let (v, s1) := if input.val = 32 ∧ pkPathed p then s.free else (0, s)
    let fill := v.toNat % 32
    match routeOf s1 input.val fill p with
    | .endpoint =>
      if whole then .next (toEndpoint (leaveInput s1 input.val vc.toNat) p (if input.val = 32 then none else some input.val)) else .next s
    | .drop kind => if whole then .next (discard (leaveInput s1 input.val vc.toNat) input.val kind p) else .next s
    | .port q k =>
      if !creditsHeld (s1.port q).link k then .next (s.bumpPort 4 q vc.toNat 1)
      else if !(portOpen (s1.port q) && mayBegin s1 fill input.val q k) then .next s
      else if whole then .next (beginPacket (leaveInput s1 input.val vc.toNat) input.val q k)
      else .next (beginPacket (leaveArriving s1 input.val q p) input.val q k)

/-- The partition that the HBM of an offset is assigned to (R311, R353), a retired frame to none (R474). -/
def ownerPart (s : State) (off : Nat) : Option Nat :=
  if retiredIn s (off / 256 * 256) 256 then none
  else (s.parts.find? (fun e => decide (e.2.st ≠ .none) && bit e.2.hbmMap (off / 2 ^ 30 % 512))).map Prod.fst

/-- One export entry accepts a request (R353). -/
def exportAccepts (e : W128) (p : Packet) : Bool :=
  let len := fld e 43 39
  let page := pkOff p / 2 ^ 21
  bit e 30 && decide (len ≤ 20) && fld e 63 44 / 2 ^ (20 - len) == pkSrc p / 2 ^ (20 - len) &&
    (bit e 33 || fld e 38 34 == fld p.w1 63 59) &&
    decide (fld e 101 83 ≤ page) && decide (page < fld e 101 83 + fld e 82 64) &&
    (if pkType p = 1 then bit e 32 else bit e 31)

/-- R353: the entries in force of the owning partition. -/
def accepted (s : State) (p : Packet) : Bool :=
  match ownerPart s (pkOff p) with
  | none => false
  | some q => s.fab.expo.any (fun e => e.1 / 64 == q && exportAccepts e.2 p)

/-- STATUS of a request as it arrives (R338, R353); a path-routed one carries no space and no offset (log 40). -/
def reqStatus (s : State) (p : Packet) : Nat :=
  if pkPathed p || fld p.w1 43 40 != 0 || offReserved 0 (pkOff p / 4096) then 2 else if accepted s p then 0 else 1

/-- Units whose value the spec leaves open. -/
def freeUnits : Nat → State → List W64 × State
  | 0, s => ([], s)
  | n + 1, s =>
    let (v, s) := s.free
    let (r, s) := freeUnits n s
    (v :: r, s)

/-- A refused request is answered at once: a read with every requested sector poisoned, its data open (R353). -/
def refuseReq (s : State) (p : Packet) (port : Option Nat) (status : Nat) : State :=
  let (st, s) := s.stamp
  let (r, s) : Packet × State :=
    if pkType p = 1 then
      let (us, s) := freeUnits (8 * (sectorsOf (pkMask p)).length) s
      (respPacket s p port 2 status (pkMask p) us st, s)
    else (respPacket s p port 4 status 0 [] st, s)
  { s with fab := { s.fab with epOut := s.fab.epOut ++ [r] } }

/-- Bytes of a WR_REQ by line offset: with a byte mask only the ones that it names (R337). -/
def writeBytes (p : Packet) : Bytes :=
  if bit p.w3 43 then
    (payloadBytes (pkMask p) (p.body.drop 4)).filter (fun b => bit (p.body.getD (b.1 / 64) 0) (b.1 % 64))
  else payloadBytes (pkMask p) p.body

/-- An accepted request becomes a DMA_RD or DMA_WR of the hub die at the line's home (R338). -/
def serveReq (s : State) (p : Packet) (port : Option Nat) : State :=
  let (id, s) := s.newId
  let line := pkOff p / 256 % 2 ^ 31
  let m := Msg.bare (.req (if pkType p = 1 then .dmaRd else .dmaWr)) .hub line
  let m : Msg := { m with
    mask := pkMask p, id := id
    bytes := if pkType p = 1 then [] else writeBytes p
    poison := if pkType p = 1 then 0 else pkPoison p &&& pkMask p }
  sendMsg { s with fab := { s.fab with atHome := s.fab.atHome ++ [(id, p, port)] } } m

/-- A remote request at the head of the endpoint; it waits while the hub die has no credit at the home (R289). -/
def remoteReq (s : State) (type : Nat) : Out :=
  match takeEp s type with
  | none => .next s
  | some (p, port, s1) =>
    let status := reqStatus s1 p
    if status ≠ 0 then .next (refuseReq s1 p port status)
    else if hasCredit s1 (pkOff p / 256 % 2 ^ 31) 32 then .next (serveReq s1 p port)
    else .next s

/-- R353: a remote read. -/
def execRdReq (s : State) : Out := remoteReq s 1

/-- R353: a remote write. -/
def execWrReq (s : State) : Out := remoteReq s 3

/-- R438: a management packet. Its frame is a request of its source node, or of the path back to it; a RESPONSE frame is none (log 40). -/
def execMgmt (s : State) : Out :=
  match takeEp s 5 with
  | none => .next s
  | some (p, port, s) =>
    let bs := bytesOf p.body
    let req := bs.take (32 + frBodyLen bs)
    let src : W64 := if pkPathed p then (respPacket s p port 0 0 0 [] 0).w1 else BitVec.ofNat 64 (pkSrc p)
    let q : KReq := ⟨.fabric, src, req, senderOf .fabric src (BitVec.ofNat 20 (pkSrc p)), false⟩
    if !fmAdmits s q || frOp bs == 4 then .next s else .next (kedalRequest s q)

/-- R351: an event record arrives at the fabric manager's node. -/
def execEventPkt (s : State) : Out :=
  match takeEp s 6 with
  | none => .next s
  | some (p, _, s) =>
    match p.body with
    | a :: b :: c :: d :: _ => .next { s with fab := { s.fab with events := s.fab.events ++ [⟨a, b, c, d⟩] } }
    | _ => .next s

/-- A write of 0x4000:01 (R346): once, from the next beacon. -/
def nodeWrite (s : State) (v : W32) : State × Nat :=
  if s.fab.node ≠ 0xFFFFF#20 ∨ s.fab.nodeNew.isSome ∨ 0xFFFFD < v.toNat then (s, kRefused)
  else ({ s with fab := { s.fab with nodeNew := some (v.setWidth 20) } }, kDone)

/-- R346 NODE_ID_WRITE. -/
def execNodeIdWrite (v : W32) (s : State) : Out := .next (nodeWrite s v).1

/-- R347: two valid entries of the shadow with equal PREFIX and LEN, or bits beyond LEN set. -/
def shadowBad (s : State) : Bool :=
  let es := (s.fab.shadow.map Prod.snd).filter (fun e => bit e 38)
  es.any (fun e => fld e 63 44 % 2 ^ (20 - fld e 43 39) != 0) ||
    !decide (((es.map (fun e => fld e 63 39)).eraseDups).length = es.length)

/-- A write of 0x4220:00 (R347). A late or an invalid commit answers done; STATUS tells (log 37). -/
def routeCommit (s : State) (v : W64) : State × Nat :=
  let target : BitVec 40 := BitVec.ofNat 40 (fld v 63 24)
  let pend := s.fab.commit.status == 1#8
  let set (t : BitVec 40) (st : Byte) : State := { s with fab := { s.fab with commit := ⟨t, st⟩ } }
  if fld v 23 9 ≠ 0 then (s, kRefused)
  else if bit v 8 then
    if pend then (set s.fab.commit.target 5, kDone) else (s, kRefused)
  else if pend then
    if bcnAhead s.bcn.num target then (set target 1, kDone) else (s, kRefused)
  else if !bcnAhead s.bcn.num target then (set target 3, kDone)
  else if shadowBad s then (set target 4, kDone)
  else (set target 1, kDone)

/-- R347 ROUTE_COMMIT. -/
def execRouteCommit (v : W64) (s : State) : Out := .next (routeCommit s v).1

/-- R347 ROUTE_COMMIT_CANCEL: the same write, for its CANCEL bit. -/
def execRouteCommitCancel (v : W64) (s : State) : Out := .next (routeCommit s v).1

end Sys2Proof.Machine
end

