-- ==== Sys2Proof/Machine/Edge.lean ====
section
/-!
DEFINITION. The beacon edge (14 R370): its nine actions in their order, the governor (21 R514–R517) among them.
-/
namespace Sys2Proof.Machine

/-- The full number of an upstream's symbol: the one nearest to its last frame's that ends in BNUM (R357). -/
def symbolNumber (frame : BitVec 40) (bnum : BitVec 11) : BitVec 40 :=
  let d := (bnum - frame.setWidth 11).toNat
  if d < 2 ^ 10 then frame + BitVec.ofNat 40 d else frame - BitVec.ofNat 40 (2 ^ 11 - d)

/-- The number that the upstream gives for this edge: in ACQUIRE that of its symbol (R367), else what a frame has told. -/
def numberTaken (s : State) : Option (BitVec 40) :=
  match s.bcn.sym, s.bcn.up.bind (fun p => (s.port p).cand) with
  | some b, some (_, w1, _, _) => if s.bcn.st = .acquire then some (symbolNumber (BitVec.ofNat 40 (fld w1 63 24)) b) else s.bcn.take
  | _, _ => s.bcn.take

/-- The beacon number becomes n (R361, R366, R367): the one taken from the upstream where it is later, else the next. -/
def edgeNumber (s : State) : State :=
  let own := s.bcn.num + 1
  let n := match numberTaken s with
    | some t => if bcnLater s.bcn.num t then t else own
    | none => own
  { s with bcn := { s.bcn with num := n, take := none, sym := none } }

/-- ±20 ns in 0.25 ns units (R366, R367). -/
def aligned (skew : Int) : Bool := decide (-80 ≤ skew) && decide (skew ≤ 80)

/-- LOCKED to ACQUIRE after two edges off, and back after two good ones (R366, R367). -/
def edgeSkew (s : State) (skew : Int) : State :=
  let b := s.bcn
  match b.st with
  | .locked =>
    if aligned skew then { s with bcn := { b with offEdges := 0 } }
    else if 1 ≤ b.offEdges then { s with bcn := { b with st := .acquire, offEdges := 0, goodEdges := 0 } }
    else { s with bcn := { b with offEdges := b.offEdges + 1 } }
  | .acquire =>
    if !aligned skew then { s with bcn := { b with goodEdges := 0 } }
    else if 1 ≤ b.goodEdges then { s with bcn := { b with st := .locked, offEdges := 0, goodEdges := 0 } }
    else { s with bcn := { b with goodEdges := b.goodEdges + 1 } }
  | .holdover => { s with bcn := { b with holdPeriods := b.holdPeriods + 1 } }
  | .keeper => s

/-- Action 1. -/
def edgeBeacon (s : State) (skew : Int) : State :=
  let s := moveUpstream (changeKeeperNow (edgeSkew (edgeNumber s) skew))
  let s := match s.bcn.st with
    | .keeper => sendBeacon s s.bcn.num
    | .holdover => sendBeacon s s.bcn.num
    | _ => s
  s.emit 4 0x0C 0 0xFFF (advertised s * 2 ^ 22 + s.bcn.depth * 2 ^ 8) (s.bcn.num.setWidth 64) (BitVec.ofNat 64 s.bcn.offset)

/-- Whether the armed freeze takes place at this edge (R487). -/
def freezeDue (s : State) : Bool :=
  s.dbg.freezeSt == 1 &&
    (match fld s.dbg.freezeTrig 23 20 with
    | 1 => bcnReached s.bcn.num (BitVec.ofNat 40 (fld s.dbg.freezeTrig 63 24))
    | 2 => s.dbg.trigHit.contains (fld s.dbg.freezeTrig 19 17)
    | 3 => true
    | _ => false)

/-- Action 2: COUNT goes into FROZEN (R487, R488). -/
def edgeFreeze (s : State) : State :=
  if !freezeDue s then s
  else
    let s := { s with dbg := { s.dbg with
      freezeSt := 2
      freezeBcn := s.bcn.num
      trigHit := []
      ctrs := s.dbg.ctrs.map (fun (e : Nat × Counter) => (e.1, { e.2 with frozen := e.2.count })) } }
    s.emit 4 0x10 0 0xFFF 0 (s.bcn.num.setWidth 64) 0

/-- The mean of a port's values of its hop delay (R363). -/
def meanHop (x : Port) : Port :=
  if x.samples.isEmpty then x else { x with hop := x.samples.foldl (· + ·) 0 / x.samples.length }

/-- Action 3: a period change (R369) and the hop delays (R363); the flag says that a new period begins. -/
def edgePeriod (s : State) : State × Bool :=
  let s := reOffset { s with fab := { s.fab with ports := s.fab.ports.map (fun e => (e.1, meanHop e.2)) } }
  let b := s.bcn
  if b.pend && bcnReached b.num b.pendTarget then
    let late := b.pendTarget != b.num && (b.st == .locked)
    ({ s with bcn := { b with
        pend := false
        period := b.pendPeriod
        pstatus := 2
        st := if late then .acquire else b.st
        goodEdges := if late then 0 else b.goodEdges } }, true)
  else (s, false)

/-- DATA of a port (R350): ACTIVE where both ends have it (the peer's a free value, log 35) and no conflict of identities stands
(R356), else ACTIVE_M (log 36); both ports of a conflict are in ACTIVE_M. -/
def edgePort (s : State) (p : Nat) : State :=
  let x := s.port p
  match x.st with
  | .activeM =>
    if !bit x.ctrl 30 || !(conflicts s p).isEmpty then s
    else
      let (v, s) := s.free
      if bit v 0 then enterPort s p .active else s
  | .active => if bit x.ctrl 30 && (conflicts s p).isEmpty then s else enterPort s p .activeM
  | _ => s

/-- A route commit at its target (R347). -/
def edgeCommit (s : State) : State :=
  let c := s.fab.commit
  if c.status = 1 ∧ bcnReached s.bcn.num c.target then
    { s with fab := { s.fab with routes := s.fab.shadow, commit := { c with status := 2 } } }
  else s

/-- Action 4: node ID, route commit, port DATA, export entries, priority, cutoff (R370); the calibrations and slices whose beacon it is
(R480, R382). -/
def edgeObjects (s : State) : State :=
  let s := { s with fab := { s.fab with node := s.fab.nodeNew.getD s.fab.node, nodeNew := none } }
  let s := edgeCommit s
  let s := (s.fab.ports.map Prod.fst).foldl edgePort s
  let s := { s with
    fab := { s.fab with expo := s.fab.expoNew.foldl (fun t e => tput t e.1 e.2) s.fab.expo, expoNew := [] }
    parts := s.parts.map (fun e => (e.1, { e.2 with slice := e.2.sliceNew.getD e.2.slice, sliceNew := none }))
    bcn := { s.bcn with
      prio := s.bcn.prioNew.getD s.bcn.prio
      prioNew := none
      keyPrio := if s.bcn.st = .keeper then s.bcn.prioNew.getD s.bcn.prio else s.bcn.keyPrio
      cutoff := s.bcn.cutoffNew.getD s.bcn.cutoff
      cutoffNew := none } }
  startCals s

/-- Beacons in a window of corrected errors (R298). -/
def windowLen (period : Nat) : Nat := max 1 (ceilDiv 10000000 period)

/-- Every count of the window begins anew (R298, R474, R468). -/
def clearWindow (s : State) : State :=
  { s with
    cores := s.cores.map (fun e => (e.1, { e.2 with l1 := { e.2.l1 with errs := [] } }))
    mem := { s.mem with
      clusters := s.mem.clusters.map (fun e => (e.1, { e.2 with l2 := { e.2.l2 with errs := [] } }))
      homes := s.mem.homes.map (fun e => (e.1, { e.2 with errs := [] }))
      hbmErrs := [] }
    rel := { s.rel with faults := [], uncs := [], winStart := s.bcn.num } }

/-- Action 5: windows begin at multiples of their length, also where the number has skipped one, and where a period changes. -/
def edgeWindow (s : State) (before : BitVec 40) (newPeriod : Bool) : State :=
  let n := windowLen s.bcn.period
  if newPeriod || before.toNat / n != s.bcn.num.toNat / n then clearWindow s else s

/-- A held write begins: it is stamped now (R372), unless it is sent again under R352. -/
def releaseHeld (s : State) (p : Packet) : State :=
  let (st, s) := if bit p.w3 42 then (p.w2, s) else s.stamp
  let p := { p with w2 := st }
  { s with
    mem := { s.mem with fab := s.mem.fab.map (fun t => if t.id = pkTxn p then { t with pkt := p } else t) }
    fab := { s.fab with epOut := s.fab.epOut ++ [p] } }

/-- Action 6: held writes may begin, in their order of arrival (R371). -/
def edgeHold (s : State) : State :=
  s.fab.held.foldl releaseHeld { s with bcn := { s.bcn with holding := false }, fab := { s.fab with held := [] } }

def fpOf (b : W64) : Num := fp64.dec b.toNat

def fpNat (n : Nat) : Num := .fin false n 0

/-- x ≤ 0, as a comparison of doubles. -/
def fpLeZero (x : Num) : Bool := !x.isNan && !(Num.lt (fpNat 0) x)

/-- The gate fraction of R515, one FP64 operation at a time, and CAP_UNMET. -/
def gateFraction (p base cap fPrev : Num) : Num × Bool :=
  let gated := fp64.dec (fsub fp64 0 p base).1
  let room := fp64.dec (fsub fp64 0 cap base).1
  let low (x y : Num) : Num := fp64.dec (fminBits fp64 false (roundTo fp64 0 false x).1 (roundTo fp64 0 false y).1).1
  let f := if fpLeZero room then fpNat 0
    else if fpLeZero gated then fpNat 1
    else fp64.dec (fdiv fp64 0 (fp64.dec (fmul fp64 0 fPrev room).1) gated).1
  let rise := fp64.dec (fadd fp64 0 (fp64.dec (fmul fp64 0 (fpNat 2) fPrev).1) (.fin false 1 (-6))).1
  (low (low f rise) (fpNat 1), fpLeZero room)

/-- floor(f × 4,096), from 0 to 4,096. -/
def gateOf : Num → Nat
  | .fin false a e => min 4096 (if 0 ≤ e then a * 2 ^ e.toNat * 4096 else a * 4096 / 2 ^ (-e).toNat)
  | _ => 0

/-- Mean input power of the period: of its samples (R514), or, where none came, as the command gives it. -/
def meanPower (s : State) (i : EdgeIn) : Num × BitVec 12 × BitVec 10 :=
  let w := s.pwr
  if w.sampleN = 0 then (fpOf i.p, i.inputW, i.inputDv)
  else
    (fp64.dec (fdiv fp64 0 (fpNat w.sampleMw) (fpNat (1000 * w.sampleN))).1,
     BitVec.ofNat 12 (w.sampleMw / (1000 * w.sampleN)), BitVec.ofNat 10 (w.sampleDv / w.sampleN))

/-- The budgets of a core for the period (R515, R516): what is carried is deducted first. -/
def newBudget (b : Budget) (whole : Nat) : Budget :=
  { b with mx := whole - min b.carry whole, ve := whole, carry := b.carry - min b.carry whole, spent := decide (0 < b.carry) }

/-- Action 7: the governor (R511, R514–R517). -/
def edgeGovernor (s : State) (i : EdgeIn) : State :=
  let cap := s.pwr.capNew.getD s.pwr.cap
  let (p, inW, inDv) := meanPower s i
  let (f, unmet) := gateFraction p (fpOf i.base) (fpNat cap) (fpOf s.pwr.fPrev)
  let gate := gateOf f
  let temps : Tbl Byte := (i.temps.take 5).zipIdx.foldl (fun t e => tput t e.2 e.1) s.pwr.temps
  let hot (d : Nat) : Bool := decide (105 ≤ (tget 0 temps d).toNat) || decide (105 ≤ (tget 0 temps 4).toNat)
  let gateD (d : Nat) : Nat := if hot d then min gate (tget 4096 s.pwr.gatePrev d / 2) else gate
  let s := { s with pwr := { s.pwr with
    cap := cap
    capNew := none
    fPrev := BitVec.ofNat 64 (roundTo fp64 0 false f).1
    gatePrev := (List.range 4).map (fun d => (d, gateD d))
    gate := gate
    inputW := inW
    inputDv := inDv
    sampleMw := 0
    sampleN := 0
    sampleDv := 0
    capUnmet := unmet
    fastCut := s.pwr.cutNow
    cutNow := false
    temps := temps } }
  (List.range 256).foldl (fun s k =>
    s.setBudget k (newBudget (s.budget k) (gateD (dieOfCore k) * s.bcn.period * 1100 / 4096))) s

/-- A die on which no core holds a context and no self-test runs (R513). -/
def dieIdle (s : State) (d : Nat) : Bool :=
  s.cores.all (fun e => dieOfCore e.1 != d || e.2.ctx.isNone) &&
    s.rel.testing.all (fun t => match testUnit t with
      | some (x, u) => !encloses .die d x u && !(x == .die && u == d)
      | none => t.cmd.unit.toNat / 128 != d)

/-- Full periods that each die has been idle for: one more at this edge than edges in a row. -/
def edgeIdle (s : State) : State :=
  { s with pwr := { s.pwr with idleDies := (List.range 4).foldl (fun t d =>
      if dieIdle s d then tput t d (min 2 (tget 0 s.pwr.idleDies d + 1)) else t) [] } }

/-- Periods in which a RUNNING context made no progress (R500). -/
def edgeWatch (s : State) : State :=
  let busy (x : Ctx) : Bool := x.cores.any (fun k => (s.budget k).progress)
  { s with
    ctxs := s.ctxs.map (fun e => (e.1, { e.2 with
      idlePeriods := if e.2.st = .running ∧ !busy e.2 then holdInc 255 e.2.idlePeriods else 0 }))
    pwr := { s.pwr with budgets := s.pwr.budgets.map (fun e => (e.1, { e.2 with progress := false })) } }

/-- Seconds in service, down and excluded (R476), kept in microseconds: a period more at each edge. -/
def edgeTimes (s : State) : State :=
  let t := s.bcn.period
  if s.rel.modState = .operational then { s with rel := { s.rel with operUs := s.rel.operUs + t } }
  else if s.pwr.byCommand then { s with rel := { s.rel with exclUs := s.rel.exclUs + t } }
  else { s with rel := { s.rel with downUs := s.rel.downUs + t } }

/-- Virtual channels of a port on which a packet waits without its credits: edges in a row (R348). -/
def edgeDry (s : State) (p : Nat) : State :=
  let vcs := ((headsFor s 0 p).filter (fun e => !creditsHeld (s.port p).link e.2)).map (fun e => pkVc e.2)
  s.updPort p (fun x => { x with link := { x.link with
    dry := (List.range 8).foldl (fun (t : Tbl Nat) v => if vcs.contains v then tput t v (min 2 (tget 0 x.link.dry v + 1)) else t) [] } })

/-- Action 9: open transactions age (R352); tag failures are counted per period (R334). -/
def edgeAge (s : State) : State :=
  { s with
    mem := { s.mem with fab := s.mem.fab.map (fun t => { t with age := t.age + 1 }) }
    fab := { s.fab with ports := s.fab.ports.map (fun e => (e.1, { e.2 with link := { e.2.link with tagFails := 0 } })) } }

/-- R370 BEACON_EDGE: the actions in their order. -/
def execBeaconEdge (i : EdgeIn) (s : State) : Out :=
  let before := s.bcn.num
  let s := edgeTimes (edgeWatch s)
  let s := edgeFreeze (edgeBeacon s i.skew)
  let (s, newPeriod) := edgePeriod s
  let s := edgeObjects s
  let s := edgeWindow s before newPeriod
  let s := edgeGovernor (edgeHold s) i
  let s := scheduleAll s
  .next (edgeIdle (((s.fab.ports.map Prod.fst).foldl edgeDry (edgeAge s))))

end Sys2Proof.Machine
end

