-- ==== Sys2Proof/Machine/Startup.lean ====
section
/-!
DEFINITION. Power and start-up (21): the input (R506, R507), the governor's samples and cuts (R514, R516), thermal trips (R511), the
stopping of core array domains (R513), and the steps of a start (R518–R520).
-/
namespace Sys2Proof.Machine

/-- R506: the input rises above 39 V and start-up step 1 begins. -/
def execInputTurnOn (s : State) : Out :=
  if s.pwr.st ≠ .off ∨ s.pwr.input then .next s
  else .next { s with pwr := { s.pwr with input := true, start := 1, tries := 0, failed := 0xF#4 } }

/-- The input is lost: OFF at once (R506, R507). -/
def inputLost (s : State) : State := if s.pwr.input then powerOff s else s

/-- R506: below 37 V for 10 µs. -/
def execInputUndervoltage (s : State) : Out := .next (inputLost s)

/-- R506: above 63 V for 10 µs. -/
def execInputOvervoltage (s : State) : Out := .next (inputLost s)

/-- R507: PRESENT opens. -/
def execPresentOpen (s : State) : Out := .next (inputLost s)

/-- R514: input power, in mW, and voltage are measured. -/
def execPowerSample (mw : W32) (dv : BitVec 10) (s : State) : Out :=
  .next { s with pwr := { s.pwr with
    sampleMw := s.pwr.sampleMw + mw.toNat
    sampleN := s.pwr.sampleN + 1
    sampleDv := s.pwr.sampleDv + dv.toNat } }

/-- A write of 0x2000:01 (R514): 400 to 1,800 W, from the next edge. -/
def pwrCapWrite (s : State) (v : W32) : State × Nat :=
  if v.toNat < 400 ∨ 1800 < v.toNat then (s, kRefused)
  else ({ s with pwr := { s.pwr with capNew := some v.toNat } }, kDone)

/-- R514 PWR_CAP_WRITE. -/
def execPwrCapWrite (v : W32) (s : State) : Out := .next (pwrCapWrite s v).1

/-- R516: a fast cut: nothing begins until the next edge. -/
def execFastCut (s : State) : Out :=
  let s := { s with pwr := { s.pwr with cutNow := true } }
  .next ((List.range 256).foldl (fun s k => s.setBudget k { s.budget k with mx := 0, ve := 0, spent := true }) s)

/-- R511: a die reports its hottest junction; at 115 °C the module goes to STANDBY. A lower value is only recorded (log 45). -/
def execThermalTrip (die : Fin 5) (t : Byte) (s : State) : Out :=
  let s := { s with pwr := { s.pwr with temps := tput s.pwr.temps die.val t } }
  if t.toNat < 115 ∨ s.pwr.st = .off ∨ (s.pwr.st = .standby ∧ s.pwr.start = 0) then .next s
  else .next (enterStandby s true)

/-- Every L1 of a die is written back and invalidated through its L2, and every core TLB emptied (R513). -/
def emptyDie (s : State) (d : Nat) : State :=
  let mine := s.cores.filter (fun e => dieOfCore e.1 == d)
  let s := mine.foldl (fun s e =>
    (e.2.l1.lines.map (fun l => l.2.line)).foldl (fun s key => dropL1 s e.1 key) s) s
  mine.foldl (fun s e => s.updCore e.1 (fun c => { c with tlb := ⟨[], []⟩ })) s

/-- R513 CORE_ARRAY_DOMAIN_STOP: after one full period in which the die was idle. -/
def execCoreArrayDomainStop (d : Fin 4) (s : State) : Out :=
  if tget 0 s.pwr.idleDies d.val < 2 ∨ !dieIdle s d.val ∨ !arrayRuns s d.val then .next s
  else .next (settlePower (setDomainRun (emptyDie s d.val) (7 * d.val) false))

/-- R513 CORE_ARRAY_RELOCK: the domain runs again and the restores that waited begin. -/
def execCoreArrayRelock (d : Fin 4) (s : State) : Out :=
  if !s.pwr.relocking.contains d.val then .next s
  else
    let s := { s with pwr := { s.pwr with relocking := s.pwr.relocking.filter (· != d.val) } }
    .next (beginRestores (settlePower (setDomainRun s (7 * d.val) true)))

/-- R519: the start halts in the step in progress. A module recovery that it belonged to ends as halted. -/
def haltStart (s : State) : State :=
  let s := (s.rel.running.filter (fun r => r.dom == .module)).foldl (fun s r => endRecord (dropRecov s r) r 5) s
  { s with
    rel := { s.rel with modState := .halted, starts := 0 }
    pwr := { s.pwr with start := 0x80#8 ||| s.pwr.start, tries := 0, byCommand := false } }

def nextStep (s : State) : State :=
  { s with pwr := { s.pwr with start := s.pwr.start + 1, tries := 0, failed := 0xF#4, failedCh := [] } }

/-- The bank of step 3 (R446): the pending one, else the valid one with the higher FW_VERSION. -/
def chooseBank (s : State) : Option Nat :=
  let ok := (List.range 2).filter (fun b => (s.bank b).valid && !s.pwr.badBanks.contains b)
  match ok.find? (fun b => (s.bank b).pending) with
  | some b => some b
  | none => match ok with
    | [] => none
    | [b] => some b
    | a :: b :: _ => some (if (s.bank a).version.toNat < (s.bank b).version.toNat then b else a)

/-- A bank has failed its check: it is invalid for this start, which goes on from the other one, or halts (R446, R449). -/
def otherBank (s : State) (b : Nat) : State :=
  let s := { s with pwr := { s.pwr with badBanks := s.pwr.badBanks ++ [b], start := 3, tries := 0, failed := 0xF#4 } }
  if (chooseBank s).isNone then haltStart s else s

/-- A stage does not match its digest (R446): D0 of the bank chosen in step 3, D1 in step 4 and D2 in step 7 of the running one. -/
def failStage (s : State) : State :=
  match (if s.pwr.start = 3 then chooseBank s else some s.sec.running) with
  | none => haltStart s
  | some b => otherBank s b

def stepBank (s : State) : State :=
  match chooseBank s with
  | none => haltStart s
  | some b =>
    let s := s.setBank b { s.bank b with pending := false }
    nextStep { s with sec := { s.sec with running := b, fw := .idle, received := 0 } }

/-- The DRBG draws the module memory key (R450, R522). -/
def drawModuleKey (s : State) : State :=
  let (k, s) := drawBytes s
  s.setKeySlot 0 ⟨true, 0, k, 0⟩

/-- Step 5: identity, and MIN_SVN against the running image (R447, R449); the engine draws the module memory key. -/
def stepIdentity (s : State) : State :=
  if (s.bank s.sec.running).svn.toNat < s.sec.minSvn.toNat then otherBank s s.sec.running
  else
    let s := drawModuleKey s
    nextStep { s with sec := { s.sec with digest := identDigest }, bcn := { s.bcn with keyPrio := s.bcn.prio, keyDigest := keyDigestOf identDigest } }

/-- Steps 7 and 8: dies that fail go out of service, their clocks stopped (R512), and so do the HBM channels whose training fails; with no
die left the start halts (R518, R466). -/
def stepDies (s : State) (bad : BitVec 4) (chs : List Nat) : State :=
  let ds := List.range 4
  let s := (ds.filter (fun d => bit bad d)).foldl (fun s d => setDomains (setUnit s .die d .outOfService) (dieDomains d) false) s
  let s := chs.foldl (fun s c => setUnit s .channel c .outOfService) s
  let s := if s.pwr.start = 7 then
      (ds.filter (fun d => unitSt s .die d == .inService)).foldl (fun s d => setDomains s (dieDomains d) true) s
    else s
  if ds.all (fun d => unitSt s .die d == .outOfService) then haltStart s else nextStep s

/-- Step 10: the link is up, or a retrain counts (R407, R518). -/
def stepLink (s : State) (i : StepIn) (up : Bool) : State :=
  let h := s.host
  nextStep (if up && linkMode i.linkSpeed i.linkWidth then linkUp s i.linkSpeed i.linkWidth i.linkFlit
    else { s with host := { h with retrains := holdInc 255 h.retrains } })

/-- A kept partition is created again (R381 steps 1–4), or stays NONE with its values (R518). -/
def stepPart (ok : Bool) (s : State) (q : Nat) : State :=
  if ok then match execPartCreateDone (Fin.ofNat 32 q) s with
    | .next t => t
    | _ => s
  else s.setPart q { s.part q with st := .none }

/-- Step 11: the module is OPERATIONAL (R476, R518); a module recovery ends recovered. -/
def stepLast (s : State) (ok : Bool) : State :=
  let qs := (s.parts.filter (fun e => decide (e.2.st = .creating))).map Prod.fst
  let s := qs.foldl (stepPart ok) s
  let s := (s.rel.running.filter (fun r => r.dom == .module)).foldl (fun s r => endRecord (dropRecov s r) r 0) s
  settlePower { s with
    rel := { s.rel with modState := .operational, starts := 0 }
    host := { s.host with ready := true }
    pwr := { s.pwr with start := 0x0C#8, tries := 0, byCommand := false } }

/-- What a step that has succeeded leaves. -/
def stepDone (s : State) (i : StepIn) : State :=
  match s.pwr.start.toNat with
  | 1 => nextStep { s with pwr := { s.pwr with st := .standby } }
  | 3 => stepBank s
  | 4 => nextStep (setDomains s ((List.range 12).map (28 + ·)) true)
  | 5 => stepIdentity s
  | 6 => nextStep { s with kedal := { s.kedal with up := true } }
  | 7 => stepDies s 0 []
  | 8 => stepDies s 0 []
  | 10 => stepLink s i true
  | 11 => stepLast s true
  | _ => nextStep s

/-- The last column of R518: what a step does that has failed for good. -/
def stepFailed (s : State) (bad : BitVec 4) (chs : List Nat) : State :=
  match s.pwr.start.toNat with
  | 1 => { s with pwr := { s.pwr with start := 0, tries := 0, input := false } }
  | 3 => failStage s
  | 7 => stepDies s bad []
  | 8 => stepDies s bad chs
  | 9 => nextStep s
  | 10 => stepLink s ⟨false, 0, 0, 0, false, true, true, []⟩ false
  | 11 => stepLast s false
  | _ => haltStart s

/-- A step of a start is in progress; step 10 waits for PERST# (R520; log 44). -/
def stepRuns (s : State) : Bool :=
  let n := s.pwr.start.toNat
  decide (1 ≤ n) && decide (n ≤ 11) && !(n == 10 && s.host.perst)

/-- Dies that a try of step 7 or 8 leaves failing; in other steps every bit where the try failed. -/
def stepBad (s : State) (i : StepIn) : BitVec 4 :=
  if !i.ok then s.pwr.failed
  else if s.pwr.start = 7 ∨ s.pwr.start = 8 then s.pwr.failed &&& i.diesFailed
  else 0

/-- HBM channels that a try of step 8 leaves failing: in its repeat, those of the first try that fail again. A try that fails as a whole
leaves dies failing, not single channels. -/
def stepBadCh (s : State) (i : StepIn) : List Nat :=
  let now := (i.channelsFailed.map Fin.val).eraseDups
  if s.pwr.start ≠ 8 ∨ !i.ok then [] else if s.pwr.tries = 0 then now else now.filter s.pwr.failedCh.contains

/-- The steps in which a stage is checked (R446). -/
def checksStage (s : State) : Bool := s.pwr.start == 3 || s.pwr.start == 4 || s.pwr.start == 7

/-- R518 STARTUP_STEP_COMPLETE: a try of the step ends. One that fails is repeated once. A PUF that cannot be corrected halts at
once (R447), and a stage that does not match its digest leads to the other bank at once (R446; log 94). -/
def execStartupStepComplete (i : StepIn) (s : State) : Out :=
  if !stepRuns s then .next s
  else
    let bad := stepBad s i
    let chs := stepBadCh s i
    if s.pwr.start = 5 ∧ i.ok ∧ !i.pufOk then .next (haltStart s)
    else if checksStage s ∧ i.ok ∧ !i.stageOk then .next (failStage s)
    else if bad = 0 ∧ chs = [] then .next (stepDone s i)
    else if s.pwr.tries = 0 then .next { s with pwr := { s.pwr with tries := 1, failed := bad, failedCh := chs } }
    else .next (stepFailed s bad chs)

/-- R518 STARTUP_STEP_TIMEOUT. -/
def execStartupStepTimeout (s : State) : Out := if stepRuns s then .next (stepFailed s s.pwr.failed s.pwr.failedCh) else .next s

end Sys2Proof.Machine
end

