-- ==== Sys2Proof/Machine/Sec.lean ====
section
/-!
DEFINITION. The security engine (18): key slots (R451–R455), quotes (R459, R460), firmware update (R461, R446), SPDM and IDE (R458, R409,
R421).
-/
namespace Sys2Proof.Machine

/-- PRINCIPAL codes of R453. -/
def princCode : Principal → Nat
  | .fm => 1
  | .ha => 2
  | .tenant _ => 0

/-- The partition that uses a memory key (R451 BOUND). -/
def boundPart (s : State) (slot : Nat) : Option Nat := ((partsHeld s).find? (fun e => e.2.keySlot == slot)).map Prod.fst

def isMemSlot (n : Nat) : Bool := decide (1 ≤ n) && decide (n ≤ 0x3F)
def isDictSlot (n : Nat) : Bool := decide (0x40 ≤ n) && decide (n ≤ 0x4F)

/-- The staged ciphertext (R452), where every object of the stage is written. -/
def stagedText (s : State) : Option (List Byte) :=
  let parts := (List.range 5).map (fun i => tget [] s.sec.stage (i + 1))
  if parts.zipIdx.all (fun e => e.1.length == (if e.2 = 4 then 64 else 256)) then some parts.flatten else none

def nodeBytes (s : State) : List Byte := leBytes 4 s.fab.node.toNat

/-- The key that a staged ciphertext establishes (R453). -/
def derivedKey (s : State) (slot princ : Nat) (digest : BitVec 256) (ct : List Byte) : List Byte :=
  hkdfExpand (hkdfExtract (digBytes s.sec.digest) (digBytes (Config.kemDecaps kemSeed ct)))
    ([0x01#8, BitVec.ofNat 8 slot, BitVec.ofNat 8 princ] ++ digBytes digest) 32

/-- PROOF of R453. -/
def keyProof (s : State) (slot princ : Nat) (digest : BitVec 256) (key : List Byte) : Nat :=
  leNat ((hmac key (nodeBytes s ++ [BitVec.ofNat 8 slot, BitVec.ofNat 8 princ] ++ digBytes digest)).take 16)

/-- The last command's detail (R455): a status other than done answers 0x05. -/
def keyResult (s : State) (st : Nat) : State × Nat :=
  ({ s with sec := { s.sec with keyStatus := BitVec.ofNat 8 st } }, if st = 0 then kDone else kRefused)

/-- ESTABLISH and the claim (R453, R454): the checks in the order of the codes of R455 (log 47), but that a claim for a
principal that holds a key is refused as such whatever slot it names (R462). -/
def keyEstablish (s : State) (c : KeyCmd) (claim : Bool) : State × Nat :=
  let slot := c.slot.toNat
  let princ := c.principal.toNat
  let holds := s.sec.slots.any (fun e => isDictSlot e.1 && e.2.inUse && e.2.principal == c.principal)
  if c.rsv ≠ 0 ∨ !isDictSlot slot ∨ princ = 0 ∨ princ = 3 then keyResult s 1
  else if claim && holds then keyResult s 7
  else if (s.keySlot slot).inUse then keyResult s 2
  else match stagedText s with
    | none => keyResult s 3
    | some ct =>
      if digOf (sha256 ct) ≠ c.digest then keyResult s 3
      else
        let key := derivedKey s slot princ c.digest ct
        if keyProof s slot princ c.digest key ≠ c.proof.toNat then keyResult s 4
        else if princ ≠ princCode c.signer then keyResult s 5
        else if claim && c.path != .field then keyResult s 7
        else if s.kedal.flashBad then keyResult s 8
        else keyResult (blockWrite s |>.setKeySlot slot ⟨true, c.principal, BitVec.ofNat 512 (leNat key), 0⟩) 0

/-- The fields that only ESTABLISH uses are zero. -/
def keyPlain (c : KeyCmd) : Bool := c.rsv == 0 && c.principal == 0 && c.digest == 0 && c.proof == 0

/-- GENERATE (R453). -/
def keyGenerate (s : State) (c : KeyCmd) : State × Nat :=
  let slot := c.slot.toNat
  if !keyPlain c || !isMemSlot slot then keyResult s 1
  else if (s.keySlot slot).inUse then keyResult s 2
  else if s.kedal.flashBad then keyResult s 8
  else
    let (k, s) := drawBytes s
    keyResult (blockWrite s |>.setKeySlot slot ⟨true, 0, k, 0⟩) 0

/-- RETIRE (R453). -/
def keyRetire (s : State) (c : KeyCmd) : State × Nat :=
  let slot := c.slot.toNat
  if !keyPlain c || !(isMemSlot slot || isDictSlot slot) then keyResult s 1
  else if !(s.keySlot slot).inUse then keyResult s 2
  else if isDictSlot slot && (s.keySlot slot).principal.toNat != princCode c.signer then keyResult s 5
  else if isMemSlot slot && (boundPart s slot).isSome then keyResult s 6
  else if s.kedal.flashBad then keyResult s 8
  else keyResult (blockWrite s |>.setKeySlot slot KeySlot.dflt) 0

/-- R453 KEY_CMD ESTABLISH. -/
def execKeyEstablish (c : KeyCmd) (s : State) : Out := .next (keyEstablish s c false).1

/-- R453 KEY_CMD RETIRE. -/
def execKeyRetire (c : KeyCmd) (s : State) : Out := .next (keyRetire s c).1

/-- R453 KEY_CMD GENERATE. -/
def execKeyGenerate (c : KeyCmd) (s : State) : Out := .next (keyGenerate s c).1

/-- R454 KEY_CLAIM. -/
def execKeyClaim (c : KeyCmd) (s : State) : Out := .next (keyEstablish s c true).1

/-- Key status of a slot (R451). -/
def slotStatus (s : State) (k : Nat) : W32 :=
  let x := s.keySlot k
  let role := if k = 0 then 0 else if isMemSlot k then 1 else 2
  at_ 28 (b2n x.inUse) ||| at_ 24 role ||| at_ 22 x.principal.toNat |||
    (if isMemSlot k then match boundPart s k with | some q => at_ 21 1 ||| at_ 16 q | none => 0 else 0)

/-- CONFIG of R460. -/
def configDigest (s : State) : List Byte :=
  sha256 ((List.range 0x50).flatMap (fun k => leBytes 4 (slotStatus s k).toNat) ++
    (List.range 255).map (fun v => binding s (v + 1)) ++ [s.host.ideReq])

/-- The signed bytes of a quote (R460), taken as its request reaches the engine. -/
def quoteBytes (s : State) (q : Quote) (st : W64) : List Byte :=
  let b := s.bank s.sec.running
  let two := decide (q.kind = 2)
  let p := s.part q.part
  leBytes 2 1 ++ leBytes 2 q.kind.toNat ++ leBytes 4 s.fab.node.toNat ++ leBytes 8 st.toNat ++ digBytes q.nonce ++ digBytes s.sec.digest ++
    leBytes 4 b.version.toNat ++ leBytes 4 b.svn.toNat ++ leBytes 4 s.sec.minSvn.toNat ++ leBytes 4 0 ++
    digBytes b.d0 ++ digBytes b.d1 ++ digBytes b.d2 ++ configDigest s ++
    [if two then BitVec.ofNat 8 q.part else 0xFF#8, if two then BitVec.ofNat 8 p.keySlot else 0#8, 0#8, 0#8] ++
    leBytes 4 (if two then p.clusters.toNat else 0) ++ leBytes 8 (if two then p.stamp.toNat else 0) ++
    (if two then (sha256 (leBytes 64 p.hbmMap.toNat)).take 16 else List.replicate 16 0#8)

def startQuote (s : State) (q : Quote) : State :=
  let (st, s) := s.stamp
  { s with sec := { s.sec with quoteBusy := some (q.who, quoteBytes s q st) } }

/-- A QUOTE_REQ (R459). -/
def quoteReq (s : State) (q : Quote) (rsv : BitVec 3) : State × Nat :=
  let foreign := match q.who with
    | .tenant v => q.kind != 2 || !(bit (binding s v.toNat) 7) || fld (binding s v.toNat) 4 0 != q.part
    | _ => false
  let busy := s.sec.quotes.any (fun x => x.who == q.who) || s.sec.quoteBusy.map Prod.fst == some q.who
  if foreign then (s, 0x02)
  else if rsv ≠ 0 ∨ (q.kind ≠ 1 ∧ q.kind ≠ 2) then (s, kRefused)
  else if busy || decide (16 ≤ s.sec.quotes.length) then (s, kBusy)
  else if s.sec.quoteBusy.isNone then (startQuote s q, kDone)
  else ({ s with sec := { s.sec with quotes := s.sec.quotes ++ [q] } }, kDone)

/-- R459 QUOTE_REQ. -/
def execQuoteReq (who : Principal) (kind : Byte) (part : BitVec 5) (rsv : BitVec 3) (nonce : BitVec 256) (s : State) : Out :=
  .next (quoteReq s ⟨who, kind, part.toNat, nonce⟩ rsv).1

/-- Key of a principal's result object. -/
def resultKey : Principal → Nat
  | .fm => 0
  | .ha => 1
  | .tenant v => 256 + v.toNat

/-- R460: the engine has signed a quote; the next one of the queue reaches it. -/
def execQuoteSigned (s : State) : Out :=
  match s.sec.quoteBusy with
  | none => .next s
  | some (who, bs) =>
    let sig := leBytes 7856 (Config.slhSign identSeed bs).toNat
    let s := { s with sec := { s.sec with quoteBusy := none, results := tput s.sec.results (resultKey who) (bs ++ sig) } }
    match s.sec.quotes with
    | [] => .next s
    | q :: r => .next (startQuote { s with sec := { s.sec with quotes := r } } q)

def idleBank (s : State) : Nat := 1 - s.sec.running

def setFw (s : State) (st : FwState) : State := { s with sec := { s.sec with fw := st } }

/-- FW_UPDATE BEGIN (R461). -/
def fwBegin (s : State) (c : FwCmd) : State × Nat :=
  if c.rsv ≠ 0 ∨ c.rsv2 ≠ 0 ∨ 2 ^ 23 < c.len.toNat then (s, kRefused)
  else if s.sec.fw = .receiving ∨ s.sec.fw = .verifying then (s, kBusy)
  else
    let s := s.setBank (idleBank s) Bank.dflt
    ({ s with sec := { s.sec with fw := .receiving, fwLen := c.len.toNat, received := 0 } }, kDone)

/-- A chunk (R461). -/
def fwChunk (s : State) (bs : List Byte) : State × Nat :=
  let off := leNat (bs.take 8)
  let data := bs.drop 8
  if s.sec.fw ≠ .receiving ∨ data.isEmpty ∨ 248 < data.length ∨ s.sec.fwLen < off + data.length then (s, kRefused)
  else
    let b := s.bank (idleBank s)
    let s := s.setBank (idleBank s) { b with image := mwriteBytes b.image off data }
    ({ s with sec := { s.sec with received := max s.sec.received (off + data.length) } }, kDone)

/-- FW_UPDATE COMMIT (R461): the check runs, and FW_VERIFY_DONE ends it. -/
def fwCommit (s : State) (c : FwCmd) : State × Nat :=
  if c.rsv ≠ 0 ∨ c.rsv2 ≠ 0 then (s, kRefused)
  else if s.sec.fw = .verifying then (s, kBusy)
  else if s.sec.fw ≠ .receiving then (s, kRefused)
  else ({ s with sec := { s.sec with fw := .verifying, fwDigest := c.digest } }, kDone)

/-- FW_UPDATE ABORT (R461). -/
def fwAbort (s : State) (c : FwCmd) : State × Nat :=
  if c.rsv ≠ 0 ∨ c.rsv2 ≠ 0 ∨ s.sec.fw ≠ .receiving then (s, kRefused)
  else (setFw (s.setBank (idleBank s) { s.bank (idleBank s) with valid := false }) .idle, kDone)

/-- FW_UPDATE SET_MIN_SVN (R461). -/
def setMinSvn (s : State) (c : FwCmd) : State × Nat :=
  if c.rsv ≠ 0 ∨ c.rsv2 ≠ 0 ∨ (s.bank s.sec.running).svn.toNat < c.svn.toNat ∨ c.svn.toNat < s.sec.minSvn.toNat then (s, kRefused)
  else (blockWrite { s with sec := { s.sec with minSvn := c.svn } }, kDone)

/-- R461 BEGIN. -/
def execFwBegin (c : FwCmd) (s : State) : Out := .next (fwBegin s c).1

/-- R461: a chunk of the image. -/
def execFwChunk (data : List Byte) (s : State) : Out := .next (fwChunk s data).1

/-- R461 COMMIT. -/
def execFwCommit (c : FwCmd) (s : State) : Out := .next (fwCommit s c).1

/-- R461 ABORT. -/
def execFwAbort (c : FwCmd) (s : State) : Out := .next (fwAbort s c).1

/-- R461 SET_MIN_SVN. -/
def execSetMinSvn (c : FwCmd) (s : State) : Out := .next (setMinSvn s c).1

/-- R445, R446: the validity of an image. Bytes that no chunk has written read zero (log 49). -/
def imageValid (m : Memory) : Bool :=
  let len := mread m 12 4
  let key := mbytes m 112 64
  let sig := mbytes m 256 29792
  let stage (i : Nat) : Nat × Nat := (mread m (176 + 8 * i) 4, mread m (180 + 8 * i) 4)
  sha256 key == digBytes Config.romDigest && Config.slhVerify key (mbytes m 0 256) sig && mread m 0 4 == 1 && mread m 200 56 == 0 &&
    (List.range 3).all (fun i =>
      let (off, n) := stage i
      decide (off + n ≤ len) && decide (len ≤ 2 ^ 23) && sha256 (mbytes m off n) == mbytes m (16 + 32 * i) 32)

/-- R461: the COMMIT's checks are done: the bank is pending, or the update has failed. -/
def execFwVerifyDone (s : State) : Out :=
  if s.sec.fw ≠ .verifying then .next s
  else
    let n := idleBank s
    let m := (s.bank n).image
    let ok := digOf (sha256 (mbytes m 0 s.sec.fwLen)) == s.sec.fwDigest && imageValid m && decide (s.sec.minSvn.toNat ≤ mread m 8 4)
    if ok then
      let b : Bank := {
        image := m
        valid := true
        pending := true
        version := BitVec.ofNat 32 (mread m 4 4)
        svn := BitVec.ofNat 32 (mread m 8 4)
        d0 := BitVec.ofNat 256 (mread m 16 32)
        d1 := BitVec.ofNat 256 (mread m 48 32)
        d2 := BitVec.ofNat 256 (mread m 80 32) }
      .next (setFw (s.setBank n b) .pending)
    else .next (setFw (s.setBank n { s.bank n with valid := false }) .failed)

/-- R458: an SPDM message on the DOE mailbox. A session needs both of the device's algorithms, and IDE_KM needs a session. The certificate
chain and the measurements D0 to D2 are answered on the mailbox. A stream has at most four address association blocks (R409). -/
def execSpdmMessage (m : Spdm) (s : State) : Out :=
  let answer (bs : List Byte) : State := { s with host := { s.host with doe := s.host.doe ++ [bs] } }
  match m with
  | .session a b => if a && b then .next { s with sec := { s.sec with session := true } } else .next s
  | .certificates => .next (answer (Config.caCert ++ certificate))
  | .measurements =>
    let b := s.bank s.sec.running
    .next (answer (digBytes b.d0 ++ digBytes b.d1 ++ digBytes b.d2))
  | .ideProgram n assoc =>
    if s.sec.session ∧ assoc.length ≤ 4 then .next (setIde s n.val ⟨false, assoc, (ideStream s n.val).keys⟩) else .next s
  | .ideKey n slot key =>
    if s.sec.session ∧ (tfind s.host.ide n.val).isSome then
      .next (setIde s n.val { ideStream s n.val with keys := tput (ideStream s n.val).keys slot.val key })
    else .next s
  | .ideGo n =>
    if s.sec.session ∧ (tfind s.host.ide n.val).isSome then .next (setIde s n.val { ideStream s n.val with secure := true }) else .next s

/-- R421: a stream leaves the secure state: requests not yet sent fail from now on under R409. -/
def execIdeStreamInsecure (stream : Fin 9) (s : State) : Out :=
  .next (setIde s stream.val { ideStream s stream.val with secure := false })

end Sys2Proof.Machine
end

