-- ==== Sys2Proof/Machine/SysRegs.lean ====
section
/-!
DEFINITION. System registers (06 R171–R174): the number, width and faces of each, its read view and its write.
-/
namespace Sys2Proof.Machine

/-- R135. -/
def coreId (k : Nat) : Nat := 2 ^ 18 * dieOfCore k + 2 ^ 13 * clusterOf k + 2 ^ 5 * k + k % 8

/-- R72. -/
def headState (m : Matrix) : Nat :=
  match m.queue.find? (fun q => !q.drain) with
  | none => 0
  | some q => match q.state with
    | .queued => 1
    | .loading => 2
    | .ready => 3
    | .running => 4
    | .flushing => 5

def modeCode : ArrayMode → Nat
  | .idle => 0
  | .stream => 1
  | .sections => 2
  | .toStream => 3

/-- R86. -/
def mxStatus (m : Matrix) : W64 :=
  at_ 28 (modeCode m.mode) ||| at_ 23 m.queue.length ||| at_ 20 (headState m) |||
    at_ 0 ((m.sections.map (fun e => 2 ^ e.1)).foldl (· + ·) 0)

/-- R201. -/
def veStatus (e : VecEng) (sp : Scratch) : W64 :=
  let waits := sp.waits.any (fun w => match w.who with | .vector => true | .chan _ => true | _ => false)
  at_ 26 e.count ||| at_ 25 (b2n ((match e.queue with
    | v :: _ => v.started && !v.done
    | [] => false) || !e.chans.isEmpty)) ||| at_ 24 (b2n waits) ||| at_ 23 (b2n ((tfind e.parked 0).isSome)) |||
    at_ 22 (b2n ((tfind e.parked 1).isSome))

/-- R224. -/
def spStatus (sp : Scratch) : W64 :=
  at_ 24 ((sp.transit.map (fun e => 2 ^ e.1)).foldl (· + ·) 0) ||| at_ 0 (waitCount sp)

/-- A DMA command that waits on a translation fault: it waits, and no walk of it is in flight. -/
def dmaOnFault (s : State) (k : Nat) (q : DmaCmd) : Bool :=
  q.stage == .waitXlate && !((s.cluster (clusterOf k)).walks.any (fun w => w.who.any (fun e => e.1 == .dma k q.seq)))

/-- R246. -/
def dmaStatus (s : State) (k : Nat) : W64 :=
  let d := (s.core k).dma
  at_ 25 d.queue.length ||| at_ 19 (d.queue.filter (fun q => q.stage != .queued)).length |||
    at_ 18 (b2n (d.queue.any (dmaOnFault s k))) ||| at_ 17 (b2n (d.queue.any (fun q => q.waitTag)))

/-- A counter of the issuing core as a context sees it (R486). -/
def ctrView (s : State) (k j : Nat) (frozen : Bool) : W64 :=
  let c := s.ctr (20 * k + j)
  if privileged s k || (bit c.ctl 31 && some (fld c.ctl 27 16) == (s.core k).ctx.map Prod.fst) then
    (if frozen then c.frozen else c.count)
  else 0

/-- Whether register `n` is assigned and may be named on a face (R171, R200, R223, R245, R325, R486, R494). -/
def sregFace (n : Nat) (f : Face) : Bool :=
  let inR (lo hi : Nat) : Bool := decide (lo ≤ n) && decide (n ≤ hi)
  match f with
  | .cc => n == 1 || n == 2 || inR 0x10 0x13 || inR 0x120 0x13F || inR 0x200 0x204 || inR 0x300 0x302 || inR 0x400 0x402 ||
      inR 0x500 0x504 || inR 0x700 0x713 || inR 0x720 0x733 || inR 0x800 0x803 || inR 0x900 0x913 || n == 0x980
  | .cv _ => n == 2 || n == 0x100

/-- The value that SR.RD returns for register `n` (0x100 on the caravan `v`). What a read of
TRC_MARK returns is not stated: a free value (log 6). -/
def sregRead (s : State) (k v n : Nat) : W64 :=
  let c := s.core k
  if 0x120 ≤ n ∧ n ≤ 0x13F then (c.cv (n - 0x120)).flags.setWidth 64
  else if 0x700 ≤ n ∧ n ≤ 0x713 then ctrView s k (n - 0x700) false
  else if 0x720 ≤ n ∧ n ≤ 0x733 then ctrView s k (n - 0x720) true
  else if 0x900 ≤ n ∧ n ≤ 0x913 then (s.ctr (20 * k + (n - 0x900))).ctl
  else match n with
    | 0x001 => c.flags.setWidth 64
    | 0x002 => BitVec.ofNat 64 (coreId k)
    | 0x010 => c.fault.w0
    | 0x011 => c.fault.w1
    | 0x012 => c.fault.w2
    | 0x013 => c.fault.w3
    | 0x100 => (c.cv v).flags.setWidth 64
    | 0x200 => mxStatus c.mx
    | 0x201 => c.mx.flags.setWidth 64
    | 0x202 => c.mx.fault.setWidth 64
    | 0x203 => c.mx.arb.setWidth 64
    | 0x204 => c.mx.chain.setWidth 64
    | 0x300 => veStatus c.ve c.sp
    | 0x301 => c.ve.flags.setWidth 64
    | 0x302 => c.ve.fault
    | 0x400 => c.sp.pmap.setWidth 64
    | 0x401 => spStatus c.sp
    | 0x402 => c.sp.fault
    | 0x500 => dmaStatus s k
    | 0x501 => BitVec.ofNat 64 c.dma.done
    | 0x502 => c.dma.fault0
    | 0x503 => c.dma.fault1
    | 0x504 => BitVec.ofNat 64 c.dma.issued
    | 0x800 => c.root
    | 0x801 => c.tctx.setWidth 64
    | 0x802 => c.privOff
    | 0x803 => c.pcause.setWidth 64
    | _ => 0

/-- Clear the W1C bits of `mask` that are 1 in `w`. -/
def w1c {n : Nat} (old w mask : BitVec n) : BitVec n := old &&& ~~~(w &&& mask)

/-- The write of register `n` (R172); read-only registers and fields keep their value (log 109). -/
def sregWrite (s : State) (k v n : Nat) (w : W64) : State :=
  let lo : W32 := w.setWidth 32
  let up (f : Core → Core) : State := s.updCore k f
  let cvFlags (j : Nat) : State := s.updCv k j (fun x => { x with flags := clearFlags x.flags lo })
  let top : W64 := 0xC000000000000000#64
  if 0x120 ≤ n ∧ n ≤ 0x13F then cvFlags (n - 0x120)
  else if 0x900 ≤ n ∧ n ≤ 0x913 then writeCtl s (20 * k + (n - 0x900)) w
  else match n with
    | 0x001 => up (fun c => { c with flags := clearFlags c.flags lo })
    | 0x010 => up (fun c => { c with fault := { c.fault with w0 := w1c c.fault.w0 w top } })
    | 0x100 => cvFlags v
    | 0x201 => up (fun c => { c with mx := { c.mx with flags := w1c c.mx.flags lo 0x17#32 } })
    | 0x202 => up (fun c => { c with mx := { c.mx with fault := w1c c.mx.fault lo 0x80000000#32 } })
    | 0x203 => up (fun c => { c with mx := { c.mx with arb := lo &&& 0xFFFF0000#32 } })
    | 0x204 => up (fun c => { c with mx := { c.mx with chain := lo &&& 0x8000003F#32, stepIn := 0, link := [] } })
    | 0x301 => up (fun c => { c with ve := { c.ve with flags := clearFlags c.ve.flags lo } })
    | 0x302 => up (fun c => { c with ve := { c.ve with fault := w1c c.ve.fault w 0x8000000000000000#64 } })
    | 0x402 => up (fun c => { c with sp := { c.sp with fault := w1c c.sp.fault w top } })
    | 0x502 => up (fun c => { c with dma := { c.dma with fault0 := w1c c.dma.fault0 w top } })
    | 0x980 => s.emit (dieOfCore k) 0x0F k (((s.core k).ctx.map Prod.fst).getD 0xFFF) (w.toNat % 2 ^ 32) w 0
    | _ => s

/-- The register number of SR.RD and SR.WR: IMM14[11:0]. -/
def sregNo (o : RriOp) : Nat := o.imm.toNat % 2 ^ 12

/-- Why an access to a register has to wait: VE_FLAGS for the vector instructions issued before it (R199), a write of MX_CHAIN for
the matrix queue (R91). -/
def sregWait (c : Core) (n : Nat) (wr : Bool) : Option Wait :=
  if n = 0x301 ∧ !(c.ve.queue.isEmpty && c.ve.chans.isEmpty) then some .summary
  else if n = 0x204 ∧ wr ∧ !c.mx.queue.isEmpty then some .chain
  else none

def faceCv : Face → Nat
  | .cc => 0
  | .cv v => v.val

/-- Issue an access to a register: privileged numbers first (R174), then what R137 and R171 make illegal. -/
def sregIssue (o : RriOp) (legal : Bool) (us : List RegUse) (body : Grp → State → Did) (s : State) : Out :=
  let legal := legal && o.imm.toNat / 2 ^ 12 == 0 && sregFace (sregNo o) o.face
  if 0x800 ≤ sregNo o then issuePriv s o.core o.face 4 legal us body else issue s o.core o.face 4 legal us body

/-- SR.RD (R171): a 32-bit register is zero-extended on the control core (log 16). -/
def sregRd (o : RriOp) (s : State) : Out :=
  sregIssue o (o.ra == 0) [useOf o.rd (isCc o.face) true] (fun g s =>
    match sregWait (s.core g.k) (sregNo o) false with
    | some w => .wait w
    | none =>
      let (v, s) := if sregNo o = 0x980 then s.free else (sregRead s g.k (faceCv o.face) (sregNo o), s)
      .ok (eachLane g (fun l s => wrReg s g l o.rd.toNat (isCc o.face) v) s)) s

/-- SR.WR (R172). -/
def sregWr (o : RriOp) (s : State) : Out :=
  sregIssue o (o.rd == 0) [useOf o.ra (isCc o.face) false] (fun g s =>
    match sregWait (s.core g.k) (sregNo o) true with
    | some w => .wait w
    | none => .ok (sregWrite s g.k (faceCv o.face) (sregNo o) (orLanes s g o.ra.toNat (isCc o.face)))) s

/-- R171 SR.RD. -/
def execSrRd (o : RriOp) (s : State) : Out := sregRd o s
/-- R172 SR.WR. -/
def execSrWr (o : RriOp) (s : State) : Out := sregWr o s
/-- R91: SR.WR to MX_CHAIN. -/
def execMxChainWrite (o : RriOp) (s : State) : Out := sregWr o s
/-- R199: SR.RD or SR.WR of VE_FLAGS. -/
def execVeFlagsAccess (o : RriOp) (wr : Bool) (s : State) : Out := if wr then sregWr o s else sregRd o s
/-- R494: SR.WR to TRC_MARK. -/
def execTrcMark (o : RriOp) (s : State) : Out := sregWr o s

end Sys2Proof.Machine
end

