-- ==== Sys2Proof/Machine/Debug.lean ====
section
/-!
DEFINITION. Counters, the freeze, trace buffers, the wait-for graph and debug stops (20).
-/
namespace Sys2Proof.Machine

/-- A write of 0x7000:01 (R487, R488). -/
def freezeWrite (s : State) (v : W64) : State × Nat :=
  let src := fld v 23 20
  let st := if fld v 16 0 ≠ 0 ∨ 3 < src ∨ 4 < fld v 19 17 then 1
    else if src = 1 ∧ !bcnAhead s.bcn.num (BitVec.ofNat 40 (fld v 63 24)) then 2
    else if s.dbg.freezeSt = 2 then 3 else 0
  let s := { s with dbg := { s.dbg with result := BitVec.ofNat 8 st } }
  if st ≠ 0 then (s, kRefused)
  else ({ s with dbg := { s.dbg with freezeTrig := v, freezeSt := if src = 0 then 0 else 1, trigHit := [] } }, kDone)

/-- R488 FREEZE_TRIGGER_WRITE. -/
def execFreezeTriggerWrite (v : W64) (s : State) : Out := .next (freezeWrite s v).1

/-- A write of 0x7000:03 (R488): 1 releases a held snapshot. -/
def freezeRelease (s : State) (v : Byte) : State × Nat :=
  if v ≠ 1 then (s, kRefused)
  else if s.dbg.freezeSt = 2 then ({ s with dbg := { s.dbg with freezeSt := 0 } }, kDone) else (s, kDone)

/-- R488 FREEZE_RELEASE. -/
def execFreezeRelease (v : Byte) (s : State) : Out := .next (freezeRelease s v).1

/-- Reserved bits of CTL (R484). -/
def ctlReserved (n : Nat) : W64 := if n < 5120 then 0x3F0000007000FFFF#64 else 0x3F000000FFFFFFFF#64

/-- A write of 0x7020:01 (R484). -/
def counterWrite (s : State) (w : CtrWrite) : State × Nat :=
  let n := w.n.toNat
  if 6015 < n ∨ w.rsv ≠ 0 ∨ w.ctl &&& ctlReserved n ≠ 0 ∨ !(ctrFixed n || ctlOk n w.ctl) then (s, kRefused)
  else
    let s := writeCtl s n w.ctl
    (if w.setCount then s.setCtr n { s.ctr n with count := w.count } else s, kDone)

/-- R484 COUNTER_WRITE. -/
def execCounterWrite (w : CtrWrite) (s : State) : Out := .next (counterWrite s w).1

/-- Entries of a trace buffer (R491). -/
def trcCap (ctrl : W64) : Nat := 2 ^ fld ctrl 60 56 / 32

/-- R491: what EN needs: an aligned carve-out within one HBM unit that no partition holds, and in WINDOW mode room for both parts. -/
def trcMayEnable (s : State) (v base : W64) : Bool :=
  let size := 2 ^ fld v 60 56
  let a := base.toNat
  decide (a < 2 ^ 39) && a % size == 0 && decide (a / 2 ^ 30 = (a + size - 1) / 2 ^ 30) &&
    !(partsHeld s).any (fun e => bit e.2.hbmMap (a / 2 ^ 30)) &&
    (fld v 62 61 != 2 || decide ((fld v 55 32 + fld v 31 8) * 1024 ≤ trcCap v - 1))

/-- Where a trace begins when EN is set (R491). -/
def TraceBuf.begin (t : TraceBuf) (v : W64) : TraceBuf :=
  { t with
    ctrl := v, state := 1, wrapped := false, next := 0, trig := 0, offered := 0, written := 0, dropped := 0, after := 0
    dieQ := [], port := [], drops := 0, lastStamp := 0, matched := false, trigOpen := false, trigGap := false }

/-- Where it ends when EN is cleared: nothing waits any more, and no GAP is written (R505). -/
def TraceBuf.finish (t : TraceBuf) (v : W64) : TraceBuf :=
  { t with ctrl := v, state := 0, dieQ := [], port := [], drops := 0, trigOpen := false, trigGap := false }

/-- A write of 0x7100+b:01 (R490, R491): while EN is 1 only one that clears EN alone. Events that wait are then dropped and
counted (R505). -/
def trcCtrlWrite (s : State) (b : Nat) (v : W64) : State × Nat :=
  let t := s.buf b
  if bit t.ctrl 63 then
    if v = setBit t.ctrl 63 false then
      ((s.setBuf b (t.finish v)).countDrops b (State.queuedEvents t.dieQ + State.queuedEvents t.port), kDone)
    else (s, kRefused)
  else if fld v 7 0 ≠ 0 ∨ fld v 62 61 = 3 ∨ fld v 60 56 < 24 ∨ 30 < fld v 60 56 then (s, kRefused)
  else if !bit v 63 then (s.setBuf b { t with ctrl := v }, kDone)
  else if !trcMayEnable s v t.base then (s, kRefused)
  else (s.setBuf b (t.begin v), kDone)

/-- R491 TRC_CTRL_WRITE. -/
def execTrcCtrlWrite (b : Fin 5) (v : W64) (s : State) : Out := .next (trcCtrlWrite s b.val v).1

/-- What still waits at the port of a buffer that has stopped is counted as events after the stop (R497; log 104). -/
def stopTrace (t : TraceBuf) : TraceBuf :=
  { t with state := 3, after := min 0xFFFFFFFF (t.after + State.queuedEvents t.port), port := [], drops := 0, trigGap := false }

/-- The sink writes an entry (R492, R495, R497); `trig` says that it is the trigger's, whose index is T. -/
def sinkEntry (s : State) (b : Nat) (e : TraceEnt) (trig : Bool) : State :=
  let t := s.buf b
  let cap := trcCap t.ctrl
  let s := (cohWrite s (t.base.toNat + t.next % cap * 32) (bytesOf [e.w0, e.stamp, e.a0, e.a1])).bumpHub 7 (2 ^ b) 1
  let t := { t with
    next := t.next + 1
    written := holdInc 0xFFFFFFFF t.written
    wrapped := t.wrapped || decide (cap ≤ t.next + 1)
    lastStamp := e.stamp
    trig := if trig then t.next else t.trig
    trigOpen := t.trigOpen && !trig }
  let stop := match fld t.ctrl 62 61 with
    | 1 => t.next == cap
    | 2 => t.state == 2 && !t.trigOpen && t.next == t.trig + fld t.ctrl 31 8 * 1024 + 1
    | _ => false
  s.setBuf b (if stop then stopTrace t else t)

/-- The GAP entry that covers the drops since the last entry (R496, R498). It carries the stamp of the entry that follows. -/
def sinkGap (s : State) (b : Nat) (st : W64) : State :=
  let t := s.buf b
  if t.drops = 0 then s
  else sinkEntry (s.setBuf b { t with drops := 0, trigGap := false }) b ⟨State.traceW0 0x3F b 0 0xFFF (min 0xFFFFFFFF t.drops), st, t.lastStamp, st⟩ t.trigGap

/-- The oldest event on its way reaches the trace port (R495, R498): it is stamped and tested; one that finds the buffer stopped is
counted, and one that finds the port's 1,024 entries taken is dropped. -/
def portArrival (s : State) (b : Nat) : State :=
  match (s.buf b).dieQ with
  | [] => s
  | .lost n g :: r => s.setBuf b { s.buf b with dieQ := r, port := (s.buf b).port ++ [.lost n g] }
  | .event e _ :: r =>
    let (st, s) := s.stamp
    let (s, hit) := (s.setBuf b { s.buf b with dieQ := r }).testTrig b e.w0
    let t := s.buf b
    if t.state = 3 then s.setBuf b { t with after := holdInc 0xFFFFFFFF t.after }
    else if 1024 ≤ State.queuedEvents t.port then
      (s.setBuf b { t with port := State.loseEvent t.port (hit && t.trigOpen) }).countDrops b 1
    else s.setBuf b { t with port := t.port ++ [.event { e with stamp := st } (hit && t.trigOpen)] }

/-- The sink takes the oldest item of the port: a loss is kept for the GAP before the next entry (R496). -/
def sinkStep (s : State) (b : Nat) : State :=
  let t := s.buf b
  match t.port with
  | [] => s
  | .lost n g :: r => s.setBuf b { t with port := r, drops := t.drops + n, trigGap := t.trigGap || g }
  | .event e g :: r =>
    let s := sinkGap (s.setBuf b { t with port := r }) b e.stamp
    if (s.buf b).state = 3 then s.setBuf b { s.buf b with after := holdInc 0xFFFFFFFF (s.buf b).after } else sinkEntry s b e g

/-- R495 TRACE_EVENT: the oldest event of a buffer reaches its trace port, with the losses behind it, and the sink, which writes an entry
in each of its cycles, takes up to `sunk` items of the port (log 104). -/
def execTraceEvent (b : TraceIn) (s : State) : Out :=
  let s := portArrival s b.buf.val
  let s := match (s.buf b.buf.val).dieQ with
    | .lost .. :: _ => portArrival s b.buf.val
    | _ => s
  .next ((List.range b.sunk.toNat).foldl (fun s _ => sinkStep s b.buf.val) s)

/-- A write of 0x7100+b:07 (R499). -/
def trcDrain (s : State) (b : Nat) (bus : W64) (first rsv count rsv2 : Nat) : State × Nat :=
  let t := s.buf b
  let cap := trcCap t.ctrl
  if t.drainState = 1 then (s, kBusy)
  else if rsv ≠ 0 ∨ rsv2 ≠ 0 ∨ bus.toNat % 4096 ≠ 0 ∨ count = 0 ∨ cap < count ∨ !ideOk s bus (32 * count) then
    (s.setBuf b { t with drainState := 3, drainN := 0 }, kRefused)
  else (s.setBuf b { t with drainState := 1, drainN := 0, drainBus := bus, drainFirst := first, drainCount := count }, kDone)

/-- R499 TRC_DRAIN. -/
def execTrcDrain (b : Fin 5) (bus : W64) (first : BitVec 25) (rsv : BitVec 7) (count : BitVec 25) (rsv2 : BitVec 7) (s : State) : Out :=
  .next (trcDrain s b.val bus first.toNat rsv.toNat count.toNat rsv2.toNat).1

/-- R499: the entries have been copied to the PF's host memory, in index order; none is, where the secure stream has gone by then
(R409). -/
def execTrcDrainDone (b : Fin 5) (s : State) : Out :=
  let t := s.buf b.val
  if t.drainState ≠ 1 then .next s
  else if !ideOk s t.drainBus (32 * t.drainCount) then .next (s.setBuf b.val { t with drainState := 3 })
  else
    let cap := trcCap t.ctrl
    let s := (List.range t.drainCount).foldl (fun s i =>
      hostWrite s 0 (t.drainBus + BitVec.ofNat 64 (32 * i)) (cohRead s (t.base.toNat + (t.drainFirst + i) % cap * 32) 32)) s
    .next (s.setBuf b.val { t with drainState := 2, drainN := t.drainCount })

/-- Word 0 of an edge (R502). -/
def edgeW0 (kind wtype ctx unit cv : Nat) : W64 := at_ 60 kind ||| at_ 56 wtype ||| at_ 44 ctx ||| at_ 35 unit ||| at_ 30 cv

def mkEdge (kind wtype ctx unit cv mask a : Nat) (b : W64) : Edge := ⟨edgeW0 kind wtype ctx unit cv, at_ 32 mask ||| at_ 0 a, b, 0⟩

/-- WTYPE, caravan and thread mask of a requester. -/
def reqWaiter : Req → Nat × Nat × Nat
  | .cc => (3, 0, 0)
  | .thread v l => (2, v, 2 ^ l)
  | .chan _ => (5, 0, 0)
  | .desc => (3, 0, 0)

/-- One edge per group of threads that wait for the same: the masks of equal waits are joined. -/
def joinEdges (es : List Edge) : List Edge :=
  es.foldl (fun acc e =>
    let same (x : Edge) : Bool := x.w0 == e.w0 && x.w2 == e.w2 && fld x.w1 31 0 == fld e.w1 31 0
    if acc.any same then updFirst same (fun x => { x with w1 := x.w1 ||| e.w1 }) acc else acc ++ [e]) []

/-- Waits of the tag wait list (R502 kinds 1 and 2). -/
def tagEdges (c : Core) (n k : Nat) : List Edge :=
  (listed c.sp).map (fun w =>
    let (t, cv, m) : Nat × Nat × Nat := match w.who with
      | .face a => reqWaiter a.req
      | .vector => (5, 0, 0)
      | .chan _ => (5, 0, 0)
      | .dma _ => (6, 0, 0)
      | .window .. => (6, 0, 0)
    match w.ring with
    | some (r, p) => mkEdge 2 t n k cv m (r + 256 * b2n p) (tget 0 c.sp.rings (2 * r + 1))
    | none => mkEdge 1 t n k cv m (64 * w.slot + 2 ^ 31 * b2n w.full) 0)

/-- A pass in READY whose X records are not all present (R71). -/
def frontEdges (c : Core) (n k : Nat) : List Edge :=
  match c.mx.queue.filter (fun q => !q.drain && !q.fronted) with
  | [] => []
  | q :: _ =>
    if q.state == .ready && !mtImage q.desc && !(xRingSlots c.sp q.desc).all (isFull c.sp) then
      [mkEdge 2 4 n k 0 0 (mtRing q.desc) (tget 0 c.sp.rings (2 * mtRing q.desc + 1))]
    else []

/-- The edge of a wait for a DMA command of core `k` (R502 kind 5). -/
def dmaEdge (c : Core) (wtype ctx k cv mask seq : Nat) : Edge :=
  mkEdge 5 wtype ctx k cv mask (((c.dma.queue.find? (fun q => q.seq == seq)).map DmaCmd.engine).getD 0) (BitVec.ofNat 64 seq)

/-- The earlier command of its core that holds a DMA command (R238). -/
def dmaBehind (s : State) (k : Nat) (q : DmaCmd) : Option Nat :=
  q.runs.findSome? (fun r => dmaHolder s k q.ord r.mem r.base.toNat r.size r.wr)

/-- Waits of a face (R502 kinds 4 is its barrier's, 5 and 7). -/
def waitEdge (s : State) (c : Core) (n k : Nat) (r : Req) (w : Wait) : List Edge :=
  let (t, cv, m) := reqWaiter r
  match w with
  | .dma seq => [dmaEdge c t n k cv m seq]
  | .hold (some seq) => [dmaEdge c t n k cv m seq]
  | .kernelEnd => (match c.dma.queue.getLast? with
      | some q => [dmaEdge c t n k cv m q.seq]
      | none => [])
  | .fault vpn => (match s.mem.recs.find? (fun x => x.ctx == n && x.vpn == vpn) with
      | some x => [mkEdge 7 t n k cv m x.id x.va]
      | none => [])
  | _ => []

/-- Every wait of one core. -/
def coreEdges (s : State) (k : Nat) : List Edge :=
  let c := s.core k
  match c.ctx with
  | none => []
  | some (n, _) =>
    let threads := c.cvs.flatMap (fun e => (List.range 32).flatMap (fun l => waitEdge s c n k (.thread e.1 l) (tget .none e.2.waits l)))
    let parked := c.cvs.filterMap (fun e =>
      let m := (List.range 32).filter (fun l => decide (tget ThreadState.idle e.2.st l = .parked))
      if m.isEmpty then none else some (mkEdge 3 2 n k e.1 ((m.map (2 ^ ·)).foldl (· + ·) 0) 0 e.2.parkPc))
    let bars := c.bars.flatMap (fun e => e.2.waiters.map (fun r =>
      let (t, cv, m) := reqWaiter r
      mkEdge 4 t n k cv m (e.1 + 2 ^ 16 * e.2.count) (BitVec.ofNat 64 e.2.arrived)))
    let held := (c.dma.queue.filter (fun q => q.stage == .translated && dmaHeld s k q)).filterMap (fun q =>
      (dmaBehind s k q).map (dmaEdge c 6 n k 0 0))
    let recOf (vpn : Nat) (t : Nat) : List Edge := match s.mem.recs.find? (fun x => x.ctx == n && x.vpn == vpn) with
      | some x => [mkEdge 7 t n k 0 0 x.id x.va]
      | none => []
    let chans := c.ve.parked.flatMap (fun e => recOf e.2 5)
    let dmas := (c.dma.queue.filter (dmaOnFault s k)).flatMap (fun q => recOf q.page 6)
    tagEdges c n k ++ frontEdges c n k ++ waitEdge s c n k .cc c.wait ++ threads ++ parked ++ bars ++ held ++ chans ++ dmas

/-- Virtual channels without credits for a whole period (R348). -/
def creditEdges (s : State) : List Edge :=
  s.fab.ports.flatMap (fun e => (e.2.link.dry.filter (fun d => decide (2 ≤ d.2))).map (fun d =>
    mkEdge 6 7 0xFFF e.1 0 0 d.1 (at_ 59 e.2.peerPort ||| BitVec.ofNat 64 e.2.peerNode.toNat)))

/-- A context that waits for room in its completion ring (R421): at kernel end, or with a NOP as the next entry of its ring. -/
def ringFull (s : State) (n : Nat) (x : Ctx) : Bool :=
  let atEnd := x.kernel.isSome && x.cores.all (fun k => (s.core k).kend == 2)
  let nop := mayTake x && (match sqEntry s n [] with | some e => fld (e.headD 0) 63 56 == 2 | none => false)
  (atEnd || nop) && cqRoom s n false == some false

/-- Invalidations that drain (R323), and contexts whose completion ring is full (R421). -/
def queueEdges (s : State) : List Edge :=
  let drains := s.host.fns.flatMap (fun e => match e.2.drain with
    | some d => d.cmds.map (fun c => dmaEdge (s.core c.1) 8 0xFFF c.1 0 0 c.2.1)
    | none => [])
  let rings := (s.ctxs.filter (fun e => ringFull s e.1 e.2)).map (fun e => mkEdge 8 1 e.1 (e.2.cores.headD 0) 0 0 0 (cqBase e.2))
  drains ++ rings

/-- Every wait of the module, as one reading of the units finds it (R501). -/
def allEdges (s : State) : List Edge :=
  joinEdges ((s.cores.map Prod.fst).flatMap (coreEdges s) ++ creditEdges s ++ queueEdges s)

/-- SCOPE and ID of a request (R500). -/
def inScope (s : State) (scope id : Nat) (e : Edge) : Bool :=
  let n := fld e.w0 55 44
  match scope with
  | 0 => true
  | 1 => n != 0xFFF && (s.ctx n).partNo == id
  | _ => n == id

/-- Assembly begins with the first reading (R501). -/
def beginGraph (s : State) (scope id : Nat) : State × W64 :=
  let (st, s) := s.stamp
  let es := ((allEdges s).filter (inScope s scope id)).map (fun e => { e with w3 := st })
  ({ s with dbg := { s.dbg with graphSt := 1, trunc := false, graphId := (s.dbg.graphId + 1) % 65536, graphNew := es, graph := [] } }, st)

/-- A write of 0x7200:01 (R500, R501). -/
def graphRequest (s : State) (scope rsv id : Nat) : State × Nat :=
  if 3 ≤ scope ∨ rsv ≠ 0 then (s, kRefused)
  else if s.dbg.graphSt = 1 then (s, kBusy)
  else ((beginGraph s scope id).1, kDone)

/-- R500 WAIT_FOR_GRAPH_REQUEST. -/
def execWaitForGraphRequest (scope : BitVec 2) (rsv : BitVec 6) (id : BitVec 12) (_tag : W32) (s : State) : Out :=
  .next (graphRequest s scope.toNat rsv.toNat id.toNat).1

/-- A context whose watchdog fires (R500): it runs, and nothing of it has made progress for the watchdog's length. -/
def watchdogFires (s : State) (x : Ctx) : Bool :=
  decide (x.st = .running) && s.dbg.watchLen != 0 && decide (s.dbg.watchLen.toNat ≤ x.idlePeriods)

/-- R500 WATCHDOG: the context has made no progress for the watchdog's length. While a graph is assembled it is only traced
(R501), and so it is where a lower context fires in the same period, or another has (R505). The count of periods begins anew (log 50). -/
def execWatchdog (n : BitVec 12) (s : State) : Out :=
  let x := s.ctx n.toNat
  if !watchdogFires s x then .next s
  else
    let busy := decide (s.dbg.graphSt = 1) || s.dbg.watchAt == some s.bcn.num || s.ctxs.any (fun e => decide (e.1 < n.toNat) && watchdogFires s e.2)
    let s := s.setCtx n.toNat { x with idlePeriods := 0 }
    if busy then
      (let (st, s) := s.stamp
       .next (s.emit 4 0x11 0 n.toNat s.dbg.graphId st 0))
    else
      let (s, st) := beginGraph { s with dbg := { s.dbg with watchAt := some s.bcn.num } } 2 n.toNat
      let s := postEvent s 0x0C 0 0 0 (at_ 32 s.dbg.graphId ||| at_ 0 n.toNat) st
      .next (s.emit 4 0x11 0 n.toNat s.dbg.graphId st 0)

/-- The object that an edge waits on, apart from what changes while the wait goes on (R501, R502): the ring and side, the barrier. -/
def edgeObject (e : Edge) : Nat × W64 :=
  match fld e.w0 63 60 with
  | 2 => (fld e.w1 8 0, 0)
  | 4 => (fld e.w1 3 0, 0)
  | _ => (fld e.w1 31 0, e.w2)

/-- What the second reading leaves of an edge of the first (R501): the threads that wait on the same object in both, if any does. -/
def confirmEdge (now : List Edge) (e : Edge) : Option Edge :=
  match now.filter (fun x => x.w0 == e.w0 && edgeObject x == edgeObject e) with
  | [] => none
  | l =>
    let both := e.w1 &&& (l.foldl (fun (m : W64) x => m ||| x.w1) 0) &&& 0xFFFFFFFF00000000#64
    if fld e.w1 63 32 ≠ 0 ∧ both = 0 then none else some { e with w1 := both ||| at_ 0 (fld e.w1 31 0) }

/-- R501 GRAPH_PUBLISH: the second reading; a wait stays when the same waiter waits on the same object in both. -/
def execGraphPublish (s : State) : Out :=
  if s.dbg.graphSt ≠ 1 then .next s
  else
    let es := s.dbg.graphNew.filterMap (confirmEdge (allEdges s))
    let held := es.take 131008
    let added := (List.range 64).foldl (fun a p =>
      let n := min 2047 (held.length - 2047 * p)
      if n = 0 then a else tput a p (min 0xFFFFFFFF (tget 0 a p + n))) s.dbg.graphAdded
    .next { s with dbg := { s.dbg with
      graphSt := 2, graphNew := [], graph := held, graphAdded := added, trunc := decide (131008 < es.length) } }

/-- A DBG_CMD (R503): status of the dictionary. -/
def dbgCmd (s : State) (stop : Bool) (who : Principal) (rsv n : Nat) : State × Nat :=
  let x := s.ctx n
  let foreign : Bool := (match who with
    | .fm => true
    | .ha => false
    | .tenant v => x.fn != v || x.st == .free)
  let allowed := if stop then x.st == .running || x.st == .holding else x.st == .stopped
  let r := if rsv ≠ 0 then 1 else if !x.debug then 2 else if !allowed then 3 else 0
  if foreign then (s, 0x02)
  else
    let s := { s with dbg := { s.dbg with dbgResult := BitVec.ofNat 8 r } }
    if r ≠ 0 then (s, kRefused)
    else if stop then (preempt s n true, kDone)
    else (offerCores (s.setCtx n { x with st := .waiting, resumed := true }), kDone)

/-- R503 STOP. -/
def execDbgStop (who : Principal) (rsv : BitVec 12) (n : BitVec 12) (s : State) : Out := .next (dbgCmd s true who rsv.toNat n.toNat).1

/-- R503 RESUME. -/
def execDbgResume (who : Principal) (rsv : BitVec 12) (n : BitVec 12) (s : State) : Out := .next (dbgCmd s false who rsv.toNat n.toNat).1

end Sys2Proof.Machine
end

