-- ==== Sys2Proof/Machine/KedalObj.lean ====
section
/-!
DEFINITION. The object dictionary (17 R422–R425, R443, R444) with the objects of every chapter: each object's type, access, size,
criticality, storage and availability, and the value that a READ finds.
-/
namespace Sys2Proof.Machine

/-- Attributes of an object (R422): type code of R423, principals that may read and write (bit 0 FM, bit 1 HA, bit 2 tenants), whether
it is critical and kept, smallest and largest size of a value that is written, and the start-up step after which it is there. -/
structure Obj where
  ty : Nat
  rd : Nat
  wr : Nat
  crit : Bool
  kept : Bool
  lo : Nat
  hi : Nat
  step : Nat
  deriving DecidableEq, Repr

def ro (ty step : Nat) : Obj := ⟨ty, 3, 0, false, false, 0, 0, step⟩
def roAny (ty step : Nat) : Obj := ⟨ty, 7, 0, false, false, 0, 0, step⟩
def wo (ty size step : Nat) (crit : Bool) : Obj := ⟨ty, 0, 3, crit, false, size, size, step⟩
def rw (ty size step wr : Nat) (crit kept : Bool) : Obj := ⟨ty, 3, wr, crit, kept, size, size, step⟩

def inR (x lo hi : Nat) : Bool := decide (lo ≤ x) && decide (x ≤ hi)

def tU8 : Nat := 1
def tU16 : Nat := 2
def tU32 : Nat := 3
def tU64 : Nat := 4
def tStr : Nat := 8
def tBlob : Nat := 9
def tRec : Nat := 10

/-- RW objects that one principal alone may use: 1 FM, 2 HA. -/
def rwOnly (ty size step pr : Nat) (crit kept : Bool) : Obj := ⟨ty, pr, pr, crit, kept, size, size, step⟩

/-- Objects 0x1000 to 0x2FFF. -/
def objLow (i u : Nat) : Option Obj :=
  match i with
  | 0x1000 => if u = 1 then some (roAny tBlob 0) else if u = 2 then some (roAny tStr 0) else if u = 3 then some (roAny tU32 0) else none
  | 0x1020 => if u = 1 then some (wo tU8 1 0 true) else if u = 2 then some (ro tU8 0) else none
  | 0x1100 => if u = 1 then some (ro tRec 0) else none
  | 0x1110 => if inR u 1 0x10 then some (ro tU64 0) else none
  | 0x1210 => if u = 1 then some (ro tU32 10) else if u = 2 then some (rwOnly tU8 1 10 2 false true) else none
  | 0x1300 =>
    if inR u 1 4 then some (rw tU8 1 0 3 false true) else if u = 5 then some (rw tU16 2 0 3 false true)
    else if u = 6 then some (ro tU64 0) else none
  | 0x2000 => if u = 1 then some (rw tU32 4 0 3 true true) else if u = 2 then some (ro tU64 0) else none
  | 0x2100 => if inR u 1 0x28 then some (ro tU32 4) else none
  | 0x2200 => if inR u 1 4 then some (ro tU8 7) else if u = 5 then some (ro tU8 4) else none
  | 0x2F00 => if u = 1 then some (roAny tU8 0) else none
  | _ => none

/-- Objects 0x3000 to 0x3FFF: partitions and contexts. -/
def objPart (i u : Nat) : Option Obj :=
  if i = 0x3000 then (if u = 1 then some (wo tRec 80 11 true) else if u = 2 then some (ro tU8 11) else none)
  else if inR i 0x3100 0x311F then
    (if u = 1 then some (ro tU64 11) else if u = 2 then some (ro tBlob 11) else if u = 3 then some (rw tU8 1 11 3 false true) else none)
  else if i = 0x3300 then (if 1 ≤ u then some (rwOnly tU8 1 11 2 true true) else none)
  else if inR i 0x3400 0x340F then some (roAny tU64 11)
  else none

/-- Objects 0x4000 to 0x4FFF: the fabric and the beacon. -/
def objFab (i u : Nat) : Option Obj :=
  if i = 0x4000 then
    (if u = 1 then some (rwOnly tU32 4 4 1 false false) else if u = 2 then some (rw tU32 4 4 3 false false)
     else if u = 3 then some (rwOnly tU8 1 4 1 false true) else none)
  else if i = 0x4100 then (if inR u 1 32 then some (ro tU64 9) else none)
  else if i = 0x4110 then (if inR u 1 32 then some (rwOnly tU32 4 9 1 false true) else none)
  else if i = 0x4120 then (if inR u 1 32 then some (rwOnly tBlob 16 9 1 false true) else none)
  else if inR i 0x4200 0x420F then some (rwOnly tU64 8 4 1 false false)
  else if i = 0x4210 then (if inR u 1 33 then some (rwOnly tU8 1 4 1 false false) else none)
  else if i = 0x4220 then (if u = 0 then some (rwOnly tU64 8 4 1 false false) else none)
  else if i = 0x4300 then (if u = 0 then some (ro tRec 4) else none)
  else if inR i 0x4400 0x441F then (if inR u 1 64 then some (rwOnly tBlob 16 4 1 true false) else none)
  else if i = 0x4500 then
    (match u with
      | 1 => some (ro tU64 4)
      | 2 => some (ro tU32 4)
      | 3 => some (rwOnly tU8 1 4 1 false true)
      | 4 => some (rwOnly tU64 8 4 1 true false)
      | 6 => some (rwOnly tU32 4 4 1 false false)
      | 7 => some (ro tRec 4)
      | _ => none)
  else if i = 0x4510 then (if inR u 1 32 then some (ro tU32 9) else none)
  else none

/-- Objects 0x6000 to 0x7FFF: reliability, counters, trace, debug. -/
def objRel (i u : Nat) : Option Obj :=
  if i = 0x6000 then (if u = 1 then some (roAny tU8 0) else if u = 2 then some (ro tRec 0) else none)
  else if i = 0x6010 then (if u = 1 then some (ro tBlob 4) else none)
  else if i = 0x6100 then (if u = 0 then some (ro tRec 4) else none)
  else if i = 0x6120 then (if u = 0 then some (ro tRec 4) else none)
  else if i = 0x6130 then (if u = 0 then some (ro tU64 4) else if inR u 1 0x20 then some (ro tRec 4) else none)
  else if i = 0x6200 then
    (if u = 1 then some (wo tRec 16 4 true) else if u = 2 then some (ro tU8 4) else if u = 3 then some (ro tRec 4) else none)
  else if i = 0x7000 then
    (if u = 1 then some (rw tU64 8 4 3 false false) else if u = 2 then some (ro tU64 4) else if u = 3 then some (wo tU8 1 4 false) else none)
  else if i = 0x7010 then (if u = 1 then some (ro tRec 4) else none)
  else if i = 0x7020 then (if u = 1 then some (wo tRec 24 4 false) else none)
  else if inR i 0x7100 0x7104 then
    (match u with
      | 1 => some (rw tU64 8 4 3 false false)
      | 2 => some (rw tU64 8 4 3 false false)
      | 3 => some (ro tU64 4)
      | 4 => some (rw tU64 8 4 3 false false)
      | 5 => some (rw tU64 8 4 3 false false)
      | 6 => some (ro tRec 4)
      | 7 => some (wo tRec 16 4 false)
      | 8 => some (ro tU64 4)
      | _ => none)
  else if i = 0x7200 then
    (if u = 1 then some (wo tRec 8 4 false) else if u = 2 then some (rw tU8 1 4 3 false true) else if u = 3 then some (ro tU64 4)
     else if inR u 0x10 0x4F then some (ro tRec 4) else none)
  else if i = 0x7300 then
    (if u = 1 then some ⟨tRec, 0, 6, false, false, 8, 8, 11⟩ else if u = 2 then some ⟨tU8, 6, 0, false, false, 0, 0, 11⟩ else none)
  else if i = 0x7410 then (if inR u 1 32 then some (ro tRec 9) else none)
  else none

/-- Objects 0x8000 to 0x8FFF: the security engine. -/
def objSec (i u : Nat) : Option Obj :=
  match i with
  | 0x8000 => if u = 1 then some (wo tRec 56 5 true) else if u = 2 then some (wo tRec 56 5 false) else if u = 3 then some (ro tU8 5) else none
  | 0x8010 => if inR u 1 4 then some (wo tBlob 256 5 false) else if u = 5 then some (wo tBlob 64 5 false) else none
  | 0x8020 => if inR u 1 0x50 then some (ro tU32 5) else none
  | 0x8030 => if u = 1 then some (roAny tRec 5) else none
  | 0x8040 => if u = 1 then some (roAny tBlob 5) else if u = 2 then some (roAny tRec 5) else none
  | 0x8100 => if u = 1 then some (wo tRec 48 5 true) else if u = 2 then some (ro tU64 5) else if u = 3 then some (ro tU32 5) else none
  | 0x8110 => if u = 1 then some ⟨tBlob, 0, 3, false, false, 9, 256, 5⟩ else none
  | 0x8200 => if u = 1 then some (rwOnly tU8 1 10 2 true true) else none
  | 0x8300 =>
    if u = 1 then some ⟨tRec, 0, 7, false, false, 40, 40, 5⟩ else if u = 2 then some ⟨tRec, 1, 0, false, false, 0, 0, 5⟩
    else if u = 3 then some ⟨tRec, 2, 0, false, false, 0, 0, 5⟩ else none
  | 0x8310 => if 1 ≤ u then some ⟨tRec, 4, 0, false, false, 0, 0, 5⟩ else none
  | _ => none

/-- The dictionary: the object at an address (R444 and the owning chapters); from 0x9000 upward there is none. -/
def objOf (i u : Nat) : Option Obj :=
  match i / 4096 with
  | 1 => objLow i u
  | 2 => objLow i u
  | 3 => objPart i u
  | 4 => objFab i u
  | 6 => objRel i u
  | 7 => objRel i u
  | 8 => objSec i u
  | _ => none

/-- Start-up has passed a step (R443, R519); a start that has halted has not passed the step it halted in. -/
def stepPassed (s : State) (step : Nat) : Bool := step == 0 || s.pwr.start == 0x0C#8 || decide (step < s.pwr.start.toNat % 128)

/-- Bits, lowest first, as (width, value) fields: the packing of R424. -/
def packFields : List (Nat × Nat) → Nat
  | [] => 0
  | (w, v) :: r => v % 2 ^ w + 2 ^ w * packFields r

/-- A record of `size` bytes. -/
def recBytes (size : Nat) (fs : List (Nat × Nat)) : List Byte := leBytes size (packFields fs)

/-- A list of records with its header (R424). -/
def recList (size total : Nat) (rs : List (List Byte)) : List Byte :=
  leBytes 2 rs.length ++ leBytes 2 size ++ leBytes 4 (min total 0xFFFFFFFF) ++ rs.flatten

def PartState.code : PartState → Nat
  | .none => 0
  | .creating => 1
  | .active => 2
  | .destroying => 3

/-- Number of ones in a word. -/
def ones {w : Nat} (x : BitVec w) : Nat := ((List.range w).filter (fun i => bit x i)).length

/-- R382. -/
def partWord (s : State) (q : Nat) : W64 :=
  let p := s.part q
  at_ 60 p.st.code ||| at_ 28 p.clusters.toNat ||| at_ 20 p.slice ||| at_ 18 p.vcFirst ||| at_ 16 p.vcLast ||| at_ 6 (ones p.hbmMap)

def CtxState.code : CtxState → Nat
  | .free => 0
  | .idle => 1
  | .waiting => 2
  | .restoring => 3
  | .running => 4
  | .holding => 5
  | .saving => 6
  | .stopped => 7
  | .teardown => 8
  | .dead => 9

/-- R388. -/
def ctxWord (s : State) (n : Nat) : W64 :=
  let x := s.ctx n
  if x.st = .free then 0
  else
    let cores := if x.cores.isEmpty then x.savedOn else x.cores
    at_ 60 x.st.code ||| at_ 59 (b2n x.lc) ||| at_ 58 (fld (x.word 0) 62 62) ||| at_ 57 (b2n x.debug) ||| at_ 52 x.partNo |||
      at_ 44 x.fn.toNat ||| at_ 40 x.cause ||| at_ 32 (x.width - 1) ||| at_ 24 (cores.headD 0) ||| at_ 16 x.used |||
      at_ 15 (b2n x.fresh) ||| at_ 0 (x.lastRun.toNat % 2 ^ 15)

/-- R407. -/
def linkWord (s : State) : W32 :=
  let h := s.host
  at_ 28 h.speed.toNat ||| at_ 23 h.width.toNat ||| at_ 22 (b2n h.flit) ||| at_ 21 (b2n (h.refForce && !h.perst)) ||| at_ 13 h.retrains

def PowerState.code : PowerState → Nat
  | .off => 0
  | .standby => 1
  | .idle => 2
  | .active => 3

/-- R517. THERMAL also reads 1 while a die's gate value is limited by R511. -/
def pwrWord (s : State) : W64 :=
  let w := s.pwr
  let limited := w.gatePrev.any (fun e => decide (e.2 < w.gate))
  let hot := (w.temps.map (fun e => e.2.toNat)).foldl max 0
  at_ 52 w.inputW.toNat ||| at_ 42 w.inputDv.toNat ||| at_ 31 w.cap ||| at_ 18 w.gate ||| at_ 16 (powerNow s).code ||| at_ 15 (b2n w.capUnmet) |||
    at_ 14 (b2n w.fastCut) ||| at_ 13 (b2n (w.thermal || limited)) ||| at_ 5 hot

/-- R375. -/
def bcnWord (s : State) : W64 :=
  let b := s.bcn
  let st : Nat := match b.st with
    | .keeper => 0
    | .locked => 1
    | .acquire => 2
    | .holdover => 3
  at_ 24 b.num.toNat ||| at_ 22 st ||| at_ 17 (b.up.getD 0) ||| at_ 16 (b2n b.up.isSome) ||| at_ 8 b.depth

/-- R369. -/
def periodWord (s : State) : W64 :=
  let b := s.bcn
  let (t, p) := if b.pend then (b.pendTarget, b.pendPeriod) else (b.target, b.periodObj)
  at_ 24 t.toNat ||| at_ 10 p ||| at_ 8 (b2n b.pend) ||| at_ 0 b.pstatus.toNat

def UnitState.code : UnitState → Nat
  | .inService => 0
  | .recovering => 1
  | .outOfService => 2
  | .testing => 3

/-- R472: two bits for each unit of a domain. -/
def unitBytes (s : State) (d : Domain) (base n : Nat) : List Byte :=
  (List.range (n / 4)).map (fun i =>
    BitVec.ofNat 8 (packFields ((List.range 4).map (fun j => (2, (unitSt s d (base + 4 * i + j)).code)))))

def allUnits (s : State) : List Byte :=
  unitBytes s .core 0 256 ++ unitBytes s .cluster 0 32 ++ unitBytes s .die 0 4 ++ List.replicate 7 0#8 ++ unitBytes s .channel 0 256 ++
    unitBytes s .port 0 32 ++ unitBytes s .laneGroup 0 128 ++ unitBytes s .laneGroup 0x200 128

/-- R355. -/
def lossList (s : State) : List Byte := recList 24 s.fab.lossTotal s.fab.losses

/-- R471. -/
def faultRecBytes (r : RelRec) : List Byte :=
  recBytes 32 [(4, domCode r.dom), (10, r.unit), (8, r.cause), (4, r.action), (2, r.level), (16, r.chain), (64, r.detect.toNat),
    (64, r.fin.toNat), (32, r.us.toNat)]

/-- R300. -/
def wayRecBytes (r : WayRec) : List Byte :=
  recBytes 16 [(2, r.str), (8, r.unit), (4, r.way), (1, r.action), (8, r.count), (40, r.window), (64, r.stamp.toNat)]

/-- R475. -/
def retiredBytes (r : Retired) : List Byte := recBytes 16 [(3, r.stack), (24, r.frame), (1, b2n r.unc), (64, r.stamp.toNat)]

/-- R481. -/
def resultBytes (r : TestRes) : List Byte :=
  recBytes 16 [(32, r.tag.toNat), (8, r.op), (4, r.target), (16, r.unit), (4, r.res), (64, r.stamp.toNat)]

/-- R488. -/
def freezeWord (s : State) : W64 :=
  at_ 24 s.dbg.freezeBcn.toNat ||| at_ 22 s.dbg.freezeSt ||| at_ 14 s.dbg.missed ||| at_ 0 s.dbg.result.toNat

/-- R489. -/
def snapshot (s : State) : List Byte :=
  leBytes 8 (s.dbg.freezeBcn.toNat + 2 ^ 40 * b2n (s.dbg.freezeSt == 2)) ++
    (List.range 6016).flatMap (fun n => leBytes 8 (s.ctr n).frozen.toNat)

/-- R490, R497, R499. -/
def trcObj (s : State) (b u : Nat) : List Byte :=
  let t := s.buf b
  match u with
  | 1 => leBytes 8 t.ctrl.toNat
  | 2 => leBytes 8 t.base.toNat
  | 3 => leBytes 8 (packFields [(8, 0), (25, t.trig), (25, t.next), (3, 0), (1, b2n t.wrapped), (2, t.state)])
  | 4 => leBytes 8 t.kinds.toNat
  | 5 => leBytes 8 t.trigger.toNat
  | 6 => [t.offered, t.written, t.dropped, t.after].flatMap (leBytes 4)
  | _ => leBytes 8 (packFields [(25, t.drainN), (37, 0), (2, t.drainState)])

def edgeBytes (e : Edge) : List Byte := bytesOf [e.w0, e.w1, e.w2, e.w3]

/-- R501. -/
def graphWord (s : State) : W64 :=
  at_ 62 s.dbg.graphSt ||| at_ 61 (b2n s.dbg.trunc) ||| at_ 32 s.dbg.graphId ||| at_ 0 s.dbg.graph.length

/-- R461. -/
def fwWord (s : State) : W64 :=
  let st : Nat := match s.sec.fw with
    | .idle => 0
    | .receiving => 1
    | .verifying => 2
    | .pending => 3
    | .failed => 4
  at_ 60 st ||| at_ 59 s.sec.running ||| at_ 0 s.sec.received

def fieldDflt (u : Nat) : Nat :=
  match u with
  | 2 => 0xFF
  | 3 => 8
  | 4 => 0x20
  | 5 => 0x88B5
  | _ => 0

/-- 0x02 followed by the first 40 bits of the identity digest (R435). -/
def macWord (s : State) : W64 := at_ 40 2 ||| at_ 0 (s.sec.digest.toNat % 2 ^ 40)

/-- A result object of a quote (R459, R460): zero until a quote is written. -/
def quoteResult (s : State) (k : Nat) : List Byte := tget (List.replicate 8112 0#8) s.sec.results k

def valLow (s : State) (i u : Nat) : List Byte :=
  match i with
  | 0x1000 => if u = 1 then digBytes s.sec.digest else if u = 2 then partNumber else leBytes 4 (s.bank s.sec.running).version.toNat
  | 0x1020 => [s.pwr.resetStatus]
  | 0x1100 => (List.range 12).flatMap (fun j => leBytes 4 (tget 0 s.kedal.stats j))
  | 0x1110 => leBytes 8 (s.keySlot (0x3F + u)).counter.toNat
  | 0x1210 => if u = 1 then leBytes 4 (linkWord s).toNat else [s.host.refSel]
  | 0x1300 => if u = 6 then leBytes 8 (macWord s).toNat else leBytes (if u = 5 then 2 else 1) (tget (fieldDflt u) s.kedal.field u)
  | 0x2000 => if u = 1 then leBytes 4 (s.pwr.capNew.getD s.pwr.cap) else leBytes 8 (pwrWord s).toNat
  | 0x2100 => leBytes 4 (s.domain (u - 1)).toNat
  | 0x2200 => [tget 0 s.pwr.temps (u - 1)]
  | _ => [s.pwr.start]

def valPart (s : State) (i u : Nat) : List Byte :=
  if i = 0x3000 then [s.partStatus]
  else if i < 0x3300 then
    (let q := i - 0x3100
     if u = 1 then leBytes 8 (partWord s q).toNat else if u = 2 then leBytes 64 (s.part q).hbmMap.toNat
     else leBytes 1 ((s.part q).sliceNew.getD (s.part q).slice))
  else if i = 0x3300 then [binding s u]
  else leBytes 8 (ctxWord s ((i - 0x3400) * 256 + u)).toNat

def valFab (s : State) (i u : Nat) : List Byte :=
  if i = 0x4000 then
    (if u = 1 then leBytes 4 (s.fab.nodeNew.getD s.fab.node).toNat else if u = 2 then leBytes 4 s.fab.fmNode.toNat
     else leBytes 1 s.fab.timeout)
  else if i = 0x4100 then leBytes 8 (portWord s (u - 1)).toNat
  else if i = 0x4110 then leBytes 4 (s.port (u - 1)).ctrl.toNat
  else if i = 0x4120 then (s.port (u - 1)).allocNew.flatMap (leBytes 2)
  else if inR i 0x4200 0x420F then leBytes 8 (tget 0 s.fab.shadow ((i - 0x4200) * 256 + u)).toNat
  else if i = 0x4210 then [tget 0x80#8 s.fab.fallback (u - 1)]
  else if i = 0x4220 then leBytes 8 (s.fab.commit.target.toNat * 2 ^ 24 + s.fab.commit.status.toNat)
  else if i = 0x4300 then lossList s
  else if inR i 0x4400 0x441F then
    (let k := 64 * (i - 0x4400) + (u - 1)
     leBytes 16 (tget (tget 0 s.fab.expo k) s.fab.expoNew k).toNat)
  else if i = 0x4500 then
    (match u with
      | 1 => leBytes 8 (bcnWord s).toNat
      | 2 => leBytes 4 s.bcn.offset
      | 3 => [s.bcn.prioNew.getD s.bcn.prio]
      | 4 => leBytes 8 (periodWord s).toNat
      | 6 => leBytes 4 (s.bcn.cutoffNew.getD s.bcn.cutoff)
      | _ => recList 24 1 [([s.stamps.missed, s.stamps.numErrs, s.stamps.lateWrites, s.stamps.upChanges, s.stamps.keeperChanges].flatMap
          (leBytes 4)) ++ List.replicate 4 0#8])
  else leBytes 4 (s.port (u - 1)).hop

def ModState.code : ModState → Nat
  | .starting => 0
  | .operational => 1
  | .moduleRecovery => 2
  | .halted => 3

def valRel (s : State) (i u : Nat) : List Byte :=
  if i = 0x6000 then
    (if u = 1 then leBytes 1 s.rel.modState.code
     else leBytes 8 (s.rel.operUs / 1000000) ++ leBytes 8 (s.rel.downUs / 1000000) ++ leBytes 8 (s.rel.exclUs / 1000000) ++
       leBytes 4 s.rel.modRecs ++ leBytes 4 s.rel.svcFaults)
  else if i = 0x6010 then allUnits s
  else if i = 0x6100 then recList 32 s.rel.recTotal (s.rel.records.map faultRecBytes)
  else if i = 0x6120 then recList 16 s.rel.wayTotal (s.rel.wayRecs.map wayRecBytes)
  else if i = 0x6130 then
    (if u = 0 then leBytes 8 (s.rel.retired.length + 2 ^ 32 * min 0xFFFF s.rel.overflow)
     else
       let page := (s.rel.retired.drop (2048 * (u - 1))).take 2048
       recList 16 (tget 0 s.rel.retAdded (u - 1)) (page.map retiredBytes))
  else if i = 0x6200 then (if u = 2 then [s.rel.testStatus] else recList 16 s.rel.resTotal (s.rel.results.map resultBytes))
  else if i = 0x7000 then (if u = 1 then leBytes 8 s.dbg.freezeTrig.toNat else leBytes 8 (freezeWord s).toNat)
  else if i = 0x7010 then snapshot s
  else if inR i 0x7100 0x7104 then trcObj s (i - 0x7100) u
  else if i = 0x7200 then
    (if u = 2 then [s.dbg.watchLen] else if u = 3 then leBytes 8 (graphWord s).toNat
     else
       let page := if s.dbg.graphSt = 2 then (s.dbg.graph.drop (2047 * (u - 0x10))).take 2047 else []
       recList 32 (tget 0 s.dbg.graphAdded (u - 0x10)) (page.map edgeBytes))
  else if i = 0x7300 then [s.dbg.dbgResult]
  else (s.port (u - 1)).errs.flatMap (leBytes 4) ++ List.replicate 4 0#8

def valSec (s : State) (i u : Nat) : List Byte :=
  match i with
  | 0x8000 => [s.sec.keyStatus]
  | 0x8020 => leBytes 4 (slotStatus s (u - 1)).toNat
  | 0x8030 => kemRec
  | 0x8040 => if u = 1 then digBytes identKey else certificate
  | 0x8100 => if u = 2 then leBytes 8 (fwWord s).toNat else leBytes 4 s.sec.minSvn.toNat
  | 0x8200 => [s.host.ideReq]
  | 0x8300 => quoteResult s (u - 2)
  | _ => quoteResult s (256 + u)

/-- The value of an object that can be read. -/
def objVal (s : State) (i u : Nat) : List Byte :=
  match i / 4096 with
  | 1 => valLow s i u
  | 2 => valLow s i u
  | 3 => valPart s i u
  | 4 => valFab s i u
  | 6 => valRel s i u
  | 7 => valRel s i u
  | _ => valSec s i u

end Sys2Proof.Machine
end

