-- ==== Sys2Proof/Machine/TransCmd.lean ====
section
/-!
DEFINITION. The translation command queue of a function (12 R321–R323) and the doorbells of the function page (16 R411–R414).
-/
namespace Sys2Proof.Machine

/-- The next command of a function's queue may run: one at a time, none while an invalidation drains (R322, R323), and
the device can read it from host memory (R409). -/
def xlatWaits (s : State) (f : Nat) : Bool :=
  let h := s.fn f
  h.xlatSq.on && h.xlatSq.head != h.xlatSq.tail && h.drain.isNone && ideOk s (h.xlatSq.base + BitVec.ofNat 64 (32 * h.xlatSq.head)) 32

def xlatTake (s : State) (f : Nat) : State :=
  let h := s.fn f
  s.setFn f { h with xlatSq := { h.xlatSq with head := (h.xlatSq.head + 1) % h.xlatSq.size } }

/-- The completion of a translation command (R322). -/
def xlatDone (s : State) (f status joins access : Nat) (tag : W32) : State :=
  let (st, s) := s.stamp
  pushEntry s f .xlatCq [at_ 63 1 ||| at_ 56 status ||| at_ 48 joins ||| at_ 40 access ||| at_ 0 tag.toNat, st]

/-- A context that the function owns (R322). -/
def ownsCtx (s : State) (f n : Nat) : Bool := (s.ctx n).st != .free && (f == 0 || (s.ctx n).fn.toNat == f)

/-- The checks that the commands share, in the order of log 31: reserved fields, then the owner. -/
def xlatCheck (s : State) (f : Nat) (w : List W64) (bad : Bool) : Nat :=
  if bad || fld (w.headD 0) 43 32 != 0 || w.getD 3 0 != 0 then 2
  else if !ownsCtx s f (fld (w.headD 0) 55 44) then 1
  else 0

/-- Cores that a context is on. -/
def coresWith (s : State) (n : Nat) : List Nat := (heldCores s n).map Prod.fst

/-- The pages whose translations an invalidation of [lo, hi) drops, as ranges (first, end): merged entries go wholly (R323). -/
def droppedPages (s : State) (n lo hi : Nat) : List (Nat × Nat) :=
  let cut (t : Tlb) : List (Nat × Nat) := t.ents.filterMap (fun e =>
    if e.2.ctx == n && decide (e.2.vpn < hi) && decide (lo < e.2.vpn + 2 ^ e.2.log2) then some (e.2.vpn, e.2.vpn + 2 ^ e.2.log2) else none)
  (lo, hi) :: (s.cores.flatMap (fun e => cut e.2.tlb) ++ s.mem.clusters.flatMap (fun e => cut e.2.tlb ++ e.2.dtlb.flatMap (fun d => cut d.2)))

/-- What still uses a dropped translation of context `n`. A command holds its translations once they are complete (R236). -/
def drainOf (s : State) (n : Nat) (rs : List (Nat × Nat)) (tag : W32) : Drain :=
  let ks := coresWith s n
  let inR (vpn len : Nat) : Bool := rs.any (fun r => decide (vpn < r.2) && decide (r.1 < vpn + len))
  { tag := tag
    accs := ks.flatMap (fun k => ((s.core k).acc.filter (fun a => inR (vpnOf a.va) 1)).map (fun a => (k, a.id)))
    cmds := ks.flatMap (fun k => ((s.core k).dma.queue.filter (fun q =>
      q.stage != .dispatched && q.held.any (fun h => inR h.base (2 ^ h.log2)))).map (fun q => (k, q.seq, q.tries)))
    wbs := (s.mem.fab.filter (fun t => (match t.owner with | .wb k => ks.contains k | _ => false))).map FabTxn.id
    late := ks.flatMap (fun k => (s.core k).wbs.map (fun w => (k, w.id)))
    hosts := ks.flatMap (fun k => (s.core k).hostSt.map (fun h => (k, h.id))) }

/-- Commands whose translations are not complete look the dropped pages up again (R236, R323). -/
def untranslate (s : State) (k : Nat) (rs : List (Nat × Nat)) : State :=
  let inR (vpn len : Nat) : Bool := rs.any (fun r => decide (vpn < r.2) && decide (r.1 < vpn + len))
  s.updCore k (fun c => { c with dma := { c.dma with queue := c.dma.queue.map (fun q =>
    if q.stage = .dispatched then { q with
      held := q.held.filter (fun h => !inR h.base (2 ^ h.log2)), failed := q.failed.filter (fun f => !inR f.1 1) } else q) } })

/-- R323: the drop, and the drain that follows it; dirty sectors of other modules' lines and host writes are performed first. -/
def invalidate (s : State) (f n lo hi : Nat) (tag : W32) : State :=
  let rs := droppedPages s n lo hi
  let s := dropXlate s n lo hi
  let s := (coresWith s n).foldl (fun s k => untranslate (flushCore s k) k rs) s
  s.setFn f { s.fn f with drain := some (drainOf s n rs tag) }

/-- R323 INV_RANGE. It also answers commands of a reserved opcode. -/
def execInvRange (f : Byte) (cmd : List W64) (s : State) : Out :=
  let fn := f.toNat
  let w0 := cmd.headD 0
  let op := fld w0 63 56
  if !xlatWaits s fn || op == 2 || op == 3 then .next s
  else
    let s := xlatTake s fn
    let tag : W32 := w0.setWidth 32
    let base := (cmd.getD 1 0).toNat
    let len := (cmd.getD 2 0).toNat
    match xlatCheck s fn cmd (op != 1) with
    | 0 =>
      let low := decide (base + len ≤ 2 ^ 47)
      let high := decide (2 ^ 64 - 2 ^ 47 ≤ base) && decide (base + len ≤ 2 ^ 64)
      if base % 4096 ≠ 0 ∨ len = 0 ∨ len % 4096 ≠ 0 ∨ !(low || high) then .next (xlatDone s fn 3 0 0 tag)
      else .next (invalidate s fn (fld w0 55 44) (base / 4096) ((base + len) / 4096) tag)
    | st => .next (xlatDone s fn st 0 0 tag)

/-- R323 INV_CTX: the whole address space of a context. -/
def execInvCtx (f : Byte) (cmd : List W64) (s : State) : Out :=
  let fn := f.toNat
  let w0 := cmd.headD 0
  if !xlatWaits s fn || fld w0 63 56 != 2 then .next s
  else
    let s := xlatTake s fn
    match xlatCheck s fn cmd (cmd.getD 1 0 != 0 || cmd.getD 2 0 != 0) with
    | 0 => .next (invalidate s fn (fld w0 55 44) 0 (2 ^ 52) (w0.setWidth 32))
    | st => .next (xlatDone s fn st 0 0 (w0.setWidth 32))

/-- Requesters of context `n` that wait on a page translate again (R321). -/
def wakePage (s : State) (n vpn : Nat) : State :=
  (coresWith s n).foldl (fun s k =>
    let c := s.core k
    let ws : List Walker := [.face k .cc] ++ c.ve.chans.map (fun e => .face k (.chan e.1)) ++ c.dma.queue.map (fun q => .dma k q.seq) ++
      c.cvs.flatMap (fun e => (List.range 32).map (fun l => .face k (.thread e.1 l)))
    ws.foldl (fun s w => wakeWalker s vpn w) s) s

/-- A requester takes the fault of a page that the driver has declared invalid (R131 code 0x04, R133): on its own core, the lanes of one
caravan at one instruction together. -/
def invalidFault (s : State) (all : List Walker) (w : Walker × W64) : State :=
  match w.1 with
  | .dma k seq => (match (s.core k).dma.queue.find? (fun q => q.seq == seq) with
    | some q => faultCore s k 4 4 0 0 0 q.pc w.2
    | none => s)
  | .face k (.chan ch) => (match tfind (s.core k).ve.chans ch with
    | some v => faultCore s k 4 3 0 0 0 v.pc w.2
    | none => s)
  | .face _ _ => walkFault s 4 0 w.2 w.1 all

/-- Whether a requester that joined a record still waits on the page. -/
def waitsFault (s : State) (n vpn : Nat) (w : Walker) : Bool :=
  let here (k : Nat) : Bool := (s.core k).ctx.map Prod.fst == some n
  match w with
  | .face k (.chan ch) => here k && tfind (s.core k).ve.parked ch == some vpn
  | .face k (.thread v l) => here k && tget Wait.none ((s.core k).cv v).waits l == .fault vpn
  | .face k _ => here k && (s.core k).wait == .fault vpn
  | .dma k seq => here k && (s.core k).dma.queue.any (fun q => q.seq == seq && q.stage == .waitXlate && q.page == vpn)

/-- Verdict INVALID (R321): every requester that waits takes its fault, engines first, whose queues the teardown empties; a context of
which none waits here is torn down all the same. -/
def declareInvalid (s : State) (n : Nat) (r : FaultRec) : State :=
  let ws := r.who.filter (fun w => waitsFault s n r.vpn w.1)
  let engine (w : Walker × W64) : Bool := (match w.1 with
    | .dma _ _ => true
    | .face _ (.chan _) => true
    | _ => false)
  let s := (ws.filter engine ++ ws.filter (fun w => !engine w)).foldl (fun s w => invalidFault s (ws.map Prod.fst) w) s
  startTeardown s n 1

/-- R321, R322 RESOLVE. -/
def execResolve (f : Byte) (cmd : List W64) (s : State) : Out :=
  let fn := f.toNat
  let w0 := cmd.headD 0
  let w1 := cmd.getD 1 0
  if !xlatWaits s fn || fld w0 63 56 != 3 then .next s
  else
    let s := xlatTake s fn
    let tag : W32 := w0.setWidth 32
    let n := fld w0 55 44
    match xlatCheck s fn cmd (fld w1 63 17 != 0 || cmd.getD 2 0 != 0) with
    | 0 =>
      match s.mem.recs.find? (fun r => r.id == fld w1 15 0 && r.ctx == n) with
      | none => .next (xlatDone s fn 4 0 0 tag)
      | some r =>
        let s := closeRecords s (fun x => x.id == r.id)
        let s := if bit w1 16 then declareInvalid s n r else wakePage s n r.vpn
        .next (xlatDone s fn 0 r.joins r.access tag)
    | st => .next (xlatDone s fn st 0 0 tag)

/-- R323: every access and command that used a dropped translation has been performed. -/
def execInvalidationDrainComplete (f : Byte) (s : State) : Out :=
  let fn := f.toNat
  match (s.fn fn).drain with
  | none => .next s
  | some d =>
    let busy := d.accs.any (fun a => (s.core a.1).acc.any (fun x => x.id == a.2)) ||
      d.cmds.any (fun a => (s.core a.1).dma.queue.any (fun q => q.seq == a.2.1 && q.tries == a.2.2)) ||
      s.mem.fab.any (fun t => d.wbs.contains t.id) ||
      d.late.any (fun a => (s.core a.1).wbs.any (fun w => w.id == a.2)) ||
      d.hosts.any (fun a => (s.core a.1).hostSt.any (fun h => h.id == a.2))
    if busy then .next (((d.hosts ++ d.late).map Prod.fst).eraseDups.foldl flushCore s)
    else .next (xlatDone (s.setFn fn { s.fn fn with drain := none }) fn 0 0 0 d.tag)

/-- Whether the device serves a memory request of the host to function `f`: PERST# does not hold the domain in reset (R407), the
function is enabled (R408), and where IDE is required the request has come in a secure stream; any other is answered with Unsupported
Request (R409). -/
def hostTakes (s : State) (f : Byte) (stream : Option (Fin 9)) : Bool :=
  !s.host.perst && (f == 0 || s.host.vfEnable) &&
    (s.host.ideReq == 0 || (match stream with
      | some i => (ideStream s i.val).secure
      | none => false))

/-- A request that the device serves has its effect; any other has none. -/
def hostReq (s : State) (f : HostReq) (g : State → State) : Out := .next (if hostTakes s f.fn f.stream then g s else s)

/-- R412, R322: the tail of the translation command queue. -/
def execTranslationCommandDoorbell (f : HostReq) (tail : W64) (s : State) : Out :=
  hostReq s f (fun s => fnWrite s f.fn.toNat 0x60 tail)

/-- R412: the tail of the admin submission queue. -/
def execAdminSubmissionDoorbell (f : HostReq) (tail : W64) (s : State) : Out :=
  hostReq s f (fun s => fnWrite s f.fn.toNat 0x20 tail)

/-- R414: the head of a ring that the device writes; what it holds goes out as far as there is room. -/
def execCompletionHeadDoorbell (f : HostReq) (ring : Fin 3) (head : W64) (s : State) : Out :=
  hostReq s f (fun s => fnWrite s f.fn.toNat (match ring with | 0 => 0x40 | 1 => 0x80 | 2 => 0xA0) head)

/-- A write to BAR2 of a function (R411): anything but a good tail is discarded and counted. -/
def doorbell (s : State) (f off size : Nat) (v : W64) : State :=
  let n := off / 0x1000
  let x := s.ctx n
  let live := x.st != .free && x.st != .teardown && x.st != .dead
  if off % 0x1000 = 0 ∧ size = 8 ∧ live ∧ ownsCtx s f n ∧ v.toNat < sqSize x then
    let s := s.setCtx n { x with sqTail := v.toNat }
    if hasWork (s.ctx n) then getsWork s n else s
  else
    let h := s.fn f
    s.setFn f { h with dropped := holdInc 0xFFFFFFFF h.dropped }

/-- R411 SUBMISSION_DOORBELL. -/
def execSubmissionDoorbell (f : HostReq) (off : BitVec 24) (size : Nat) (v : W64) (s : State) : Out :=
  hostReq s f (fun s => doorbell s f.fn.toNat off.toNat size v)

/-- A function whose contexts, rings and MSI-X state VF Enable takes away (R408; log 101). -/
def disableVfs (s : State) : State :=
  let s := { s with host := { s.host with vfEnable := false } }
  ((s.ctxs.map (fun e => e.2.fn.toNat) ++ s.host.fns.map Prod.fst).eraseDups.filter (· != 0)).foldl vfReset s

/-- A write of a register that has no row of its own: in BAR0 (the whole space for the PF, the function page for a VF; R410, R412, R437),
in BAR4 (the MSI-X table), or in configuration space (VF Enable, and the MSI-X control word; R408, R419). Configuration requests are served
outside a secure stream too (R409). -/
def registerWrite (s : State) (f : Byte) (v : W64) : HostReg → State
  | .bar0 off =>
    if f = 0 then mmioWrite s off.toNat 8 v.toNat
    else if off.toNat < 0x1000 then fnWrite s f.toNat off.toNat v
    else s
  | .bar4 off => vecWrite s f.toNat off.toNat v
  | .vfEnable => if f ≠ 0 then s else if bit v 0 then { s with host := { s.host with vfEnable := true } } else disableVfs s
  | .msixControl => msixPump (s.setFn f.toNat { s.fn f.toNat with msixEn := bit v 15, msixMask := bit v 14 }) f.toNat

/-- R412 REGISTER_WRITE. -/
def execRegisterWrite (f : HostReq) (reg : HostReg) (v : W64) (s : State) : Out :=
  match reg with
  | .vfEnable => .next (if s.host.perst then s else registerWrite s f.fn v reg)
  | .msixControl => .next (if s.host.perst || (f.fn != 0 && !s.host.vfEnable) then s else registerWrite s f.fn v reg)
  | _ => hostReq s f (fun s => registerWrite s f.fn v reg)

end Sys2Proof.Machine
end

