-- ==== Sys2Proof/Machine/Kedal.lean ====
section
/-!
DEFINITION. The dictionary serves requests (17 R425–R443): arrival by the three paths, the checks of R429 in their order, and what a READ, a
WRITE and a CWRITE do.
-/
namespace Sys2Proof.Machine

/-- Principal of a frame (R426). -/
def frWho (f : List Byte) : Principal :=
  match frPrincipal f with
  | 1 => .fm
  | 2 => .ha
  | _ => .tenant (BitVec.ofNat 8 (frVf f))

/-- Bit of a principal in the access masks of `Obj`. -/
def whoBit : Principal → Nat
  | .fm => 1
  | .ha => 2
  | .tenant _ => 4

/-- Step 1 of R429: what makes a frame malformed (0x0C). -/
def frameBad (f : List Byte) : Bool :=
  let op := frOp f
  let pr := frPrincipal f
  frVer f != 1 || !(inR op 1 3) || frByte f 1 != 0 || !(inR (frType f) 1 0x0A) || !(inR pr 1 3) ||
    (if pr = 3 then frVf f == 0 else frVf f != 0) ||
    (if op = 3 then !(inR (frKey f) 0x40 0x4F) else frKey f != 0) ||
    frNat f 17 3 != 0 || frNat f 28 4 != 0 ||
    (if op = 1 then decide (2 ^ 16 ≤ frArg f) else if op = 2 then frArg f != 0 else false)

/-- R432: the path admits the principal. -/
def pathAdmits (p : KPath) (who : Principal) : Bool :=
  match p, who with
  | .field, .fm => true
  | .field, .ha => true
  | .window _, .ha => true
  | .window _, .tenant _ => true
  | .fabric, .fm => true
  | _, _ => false

/-- R425, R388, R459: a tenant's own items. -/
def tenantOwns (s : State) (who : Principal) (i u : Nat) : Bool :=
  match who with
  | .tenant v =>
    if inR i 0x3400 0x340F then
      (let x := s.ctx ((i - 0x3400) * 256 + u)
       decide (x.st ≠ .free) && x.fn == v)
    else i != 0x8310 || u == v.toNat
  | _ => true

/-- The value that a WRITE or CWRITE carries; a CWRITE's tag follows it (R426). -/
def frValue (f : List Byte) : List Byte := if frOp f = 3 then (frBody f).take (frBodyLen f - 16) else frBody f

/-- Step 6 of R429: OFFSET and length (0x04). -/
def lengthBad (s : State) (f : List Byte) (o : Obj) : Bool :=
  if frOp f = 1 then
    (let size := (objVal s (frIndex f) (frSub f)).length
     frBodyLen f != 0 || !(inR (frArg f) 1 256) || (frOffset f != 0 && decide (size ≤ frOffset f)))
  else
    let n := frBodyLen f
    frOffset f != 0 || decide (256 < n) || (frBody f).length != n || (frOp f == 3 && decide (n < 16)) ||
      !(inR (frValue f).length o.lo o.hi)

/-- Steps 1 to 7 of R429: the first check that fails, or the object. -/
def kCheck (s : State) (q : KReq) : Nat ⊕ Obj :=
  let f := q.frame
  let i := frIndex f
  let u := frSub f
  let who := frWho f
  if frameBad f then .inl 0x0C
  else if !pathAdmits q.path who then .inl 0x0D
  else match objOf i u with
    | none => .inl 0x01
    | some o =>
      let mask := if frOp f = 1 then o.rd else o.wr
      if !stepPassed s o.step then .inl kEarly
      else if mask / whoBit who % 2 = 0 ∨ !tenantOwns s who i u then .inl 0x02
      else if frType f ≠ o.ty then .inl 0x03
      else if lengthBad s f o then .inl 0x04
      else if frOp f = 2 ∧ o.crit then .inl 0x06
      else if frOp f = 3 ∧ !o.crit then .inl 0x07
      else .inr o

/-- The tag of a CWRITE (R439). -/
def cwriteTag (s : State) (f : List Byte) : List Byte :=
  let v := frValue f
  (hmac (leBytes 32 (s.keySlot (frKey f)).key.toNat)
    (nodeBytes s ++ leBytes 2 (frIndex f) ++ leBytes 1 (frSub f) ++ leBytes 2 v.length ++ v ++ leBytes 8 (frArg f))).take 16

/-- Step 8 of R429: 0 when the CWRITE is accepted (R440, R441). -/
def cwriteCheck (s : State) (f : List Byte) : Nat :=
  let k := s.keySlot (frKey f)
  if !k.inUse ∨ k.principal.toNat ≠ princCode (frWho f) then 0x0A
  else if cwriteTag s f ≠ (frBody f).drop (frBodyLen f - 16) then 0x08
  else if frArg f ≤ k.counter.toNat then 0x09
  else 0

/-- Bits `lo` to `lo + n - 1` of a record. -/
def recFld (v lo n : Nat) : Nat := v / 2 ^ lo % 2 ^ n

/-- A field of the field network (R436). -/
def fieldWrite (s : State) (u v : Nat) : State × Nat :=
  let ok := match u with
    | 1 => decide (v ≤ 1)
    | 2 => decide (v ≤ 7) || v == 0xFF
    | 3 => inR v 2 9
    | 4 => true
    | _ => decide (0x0600 ≤ v)
  if ok then ({ s with kedal := { s.kedal with field := tput s.kedal.field u v } }, kDone) else (s, kRefused)

/-- PART_CMD (R379, R380): a reserved OP, or a nonzero field that only CREATE uses or that pads the record, is status 0x01. -/
def partCmd (s : State) (v : Nat) : State × Nat :=
  let op := recFld v 0 8
  let bad : State × Nat := ({ s with partStatus := 1 }, kRefused)
  let q := Fin.ofNat 32 (recFld v 8 5)
  if 2 ^ 577 ≤ v then bad
  else if op = 1 then
    partCreate s {
      q := q
      clusters := BitVec.ofNat 32 (v / 2 ^ 13)
      hbmMap := BitVec.ofNat 512 (v / 2 ^ 45)
      vcFirst := BitVec.ofNat 2 (v / 2 ^ 557)
      vcLast := BitVec.ofNat 2 (v / 2 ^ 559)
      slice := BitVec.ofNat 8 (v / 2 ^ 561)
      keySlot := BitVec.ofNat 8 (v / 2 ^ 569) }
  else if op = 2 then (if v / 2 ^ 13 ≠ 0 then bad else partDestroy s q.val)
  else bad

/-- An entry of the shadow route table (R344, R347). -/
def shadowWrite (s : State) (k : Nat) (v : W64) : State × Nat :=
  if s.fab.commit.status = 1 then (s, kBusy)
  else if fld v 37 32 ≠ 0 ∨ 20 < fld v 43 39 then (s, kRefused)
  else ({ s with fab := { s.fab with shadow := tset 0 s.fab.shadow k v } }, kDone)

/-- A fallback (R343, R344): it is not part of the table that R347 shadows. -/
def fallbackWrite (s : State) (k : Nat) (v : Byte) : State × Nat :=
  if fld v 6 5 ≠ 0 then (s, kRefused)
  else ({ s with fab := { s.fab with fallback := tset 0x80#8 s.fab.fallback k v } }, kDone)

/-- An export entry (R353), from the next beacon on. -/
def exportWrite (s : State) (k : Nat) (v : W128) : State × Nat :=
  if fld v 29 0 ≠ 0 ∨ fld v 127 102 ≠ 0 ∨ 20 < fld v 43 39 ∨ (bit v 30 ∧ fld v 82 64 = 0) then (s, kRefused)
  else ({ s with fab := { s.fab with expoNew := tput s.fab.expoNew k v } }, kDone)

/-- TRC_BASE, TRC_KINDS and TRC_TRIGGER (R490, R497): refused while the buffer records; a trigger of a reserved kind is refused always
(R5, R493). -/
def trcPlain (s : State) (b u : Nat) (v : W64) : State × Nat :=
  let t := s.buf b
  if bit t.ctrl 63 then (s, kRefused)
  else match u with
    | 2 => (s.setBuf b { t with base := v }, kDone)
    | 4 => (s.setBuf b { t with kinds := v }, kDone)
    | _ => if bit v 32 || fld v 62 57 == 0 || (decide (0x12 ≤ fld v 62 57) && fld v 62 57 != 0x3F) then (s, kRefused) else (s.setBuf b { t with trigger := v }, kDone)

/-- KEY_CMD (R453) and KEY_CLAIM (R454): the fields from SLOT onward. -/
def keyFields (v : Nat) (who : Principal) (p : KPath) : KeyCmd where
  slot := BitVec.ofNat 8 v
  principal := BitVec.ofNat 2 (v / 2 ^ 8)
  rsv := BitVec.ofNat 14 (v / 2 ^ 10)
  digest := BitVec.ofNat 256 (v / 2 ^ 24)
  proof := BitVec.ofNat 128 (v / 2 ^ 280)
  signer := who
  path := p

def keyCmd (s : State) (v : Nat) (who : Principal) (p : KPath) : State × Nat :=
  let c := keyFields (v / 2 ^ 8) who p
  if 2 ^ 416 ≤ v then keyResult s 1
  else match recFld v 0 8 with
    | 1 => keyEstablish s c false
    | 2 => keyRetire s c
    | 3 => keyGenerate s c
    | _ => keyResult s 1

def keyClaim (s : State) (v : Nat) (who : Principal) (p : KPath) : State × Nat :=
  if 2 ^ 408 ≤ v then keyResult s 1 else keyEstablish s (keyFields v who p) true

/-- FW_UPDATE (R461). -/
def fwCmd (s : State) (v : Nat) : State × Nat :=
  let c : FwCmd := {
    rsv := BitVec.ofNat 24 (v / 2 ^ 8)
    len := BitVec.ofNat 32 (v / 2 ^ 32)
    svn := BitVec.ofNat 32 (v / 2 ^ 64)
    rsv2 := BitVec.ofNat 32 (v / 2 ^ 96)
    digest := BitVec.ofNat 256 (v / 2 ^ 128) }
  match recFld v 0 8 with
  | 1 => fwBegin s c
  | 2 => fwCommit s c
  | 3 => fwAbort s c
  | 4 => setMinSvn s c
  | _ => (s, kRefused)

/-- SELFTEST_CMD (R478). -/
def testCmd (s : State) (v : Nat) : State × Nat :=
  let c : TestCmd := {
    target := BitVec.ofNat 4 (v / 2 ^ 8)
    rsv := BitVec.ofNat 4 (v / 2 ^ 12)
    unit := BitVec.ofNat 16 (v / 2 ^ 16)
    flags := BitVec.ofNat 8 (v / 2 ^ 32)
    start := BitVec.ofNat 40 (v / 2 ^ 40)
    tag := BitVec.ofNat 32 (v / 2 ^ 80) }
  let op := recFld v 0 8
  if 2 ^ 112 ≤ v ∨ !(inR op 1 5) then ({ s with rel := { s.rel with testStatus := 1 } }, kRefused) else selfTest s op c

/-- Writes of 0x1000 to 0x3FFF. -/
def writeLow (s : State) (i u v : Nat) : State × Nat :=
  if i = 0x1020 then resetCmd s v
  else if i = 0x1210 then
    (if v ≤ 1 then ({ s with host := { s.host with refSel := BitVec.ofNat 8 v } }, kDone) else (s, kRefused))
  else if i = 0x1300 then fieldWrite s u v
  else if i = 0x2000 then pwrCapWrite s (BitVec.ofNat 32 v)
  else if i = 0x3000 then partCmd s v
  else if i = 0x3300 then bindWrite s u (BitVec.ofNat 8 v)
  else sliceWrite s (i - 0x3100) (BitVec.ofNat 8 v)

/-- Writes of 0x4000 to 0x4FFF. The time to the next edge, which the period change asks for, is a free value of at most a period
(log 6). -/
def writeFab (s : State) (i u v : Nat) (bs : List Byte) : State × Nat :=
  let w : W64 := BitVec.ofNat 64 v
  if i = 0x4000 then
    (match u with
      | 1 => nodeWrite s (BitVec.ofNat 32 v)
      | 2 => if v ≤ 0xFFFFF then ({ s with fab := { s.fab with fmNode := BitVec.ofNat 20 v } }, kDone) else (s, kRefused)
      | _ => if inR v 2 255 then ({ s with fab := { s.fab with timeout := v } }, kDone) else (s, kRefused))
  else if i = 0x4110 then portCtrlWrite s (u - 1) (BitVec.ofNat 32 v)
  else if i = 0x4120 then allocWrite s (u - 1) bs
  else if inR i 0x4200 0x420F then shadowWrite s ((i - 0x4200) * 256 + u) w
  else if i = 0x4210 then fallbackWrite s (u - 1) (BitVec.ofNat 8 v)
  else if i = 0x4220 then routeCommit s w
  else if inR i 0x4400 0x441F then exportWrite s (64 * (i - 0x4400) + (u - 1)) (BitVec.ofNat 128 v)
  else
    match u with
    | 3 => ({ s with bcn := { s.bcn with prioNew := some (BitVec.ofNat 8 v) } }, kDone)
    | 4 =>
      let (r, s) := s.free
      periodWrite s w (r.toNat % (s.bcn.period + 1))
    | _ => if inR v 1000 (s.bcn.period * 500) then ({ s with bcn := { s.bcn with cutoffNew := some v } }, kDone) else (s, kRefused)

/-- Writes of 0x6000 to 0x7FFF. -/
def writeRel (s : State) (i u v : Nat) (who : Principal) : State × Nat :=
  let w : W64 := BitVec.ofNat 64 v
  if i = 0x6200 then testCmd s v
  else if i = 0x7000 then (if u = 1 then freezeWrite s w else freezeRelease s (BitVec.ofNat 8 v))
  else if i = 0x7020 then
    counterWrite s {
      n := BitVec.ofNat 16 v
      setCount := recFld v 16 1 == 1
      rsv := BitVec.ofNat 15 (v / 2 ^ 17)
      ctl := BitVec.ofNat 64 (v / 2 ^ 32)
      count := BitVec.ofNat 64 (v / 2 ^ 96) }
  else if inR i 0x7100 0x7104 then
    (let b := i - 0x7100
     match u with
      | 1 => trcCtrlWrite s b w
      | 7 => trcDrain s b w (recFld v 64 25) (recFld v 89 7) (recFld v 96 25) (recFld v 121 7)
      | _ => trcPlain s b u w)
  else if i = 0x7200 then
    (if u = 2 then ({ s with dbg := { s.dbg with watchLen := BitVec.ofNat 8 v } }, kDone)
     else if 2 ^ 52 ≤ v then (s, kRefused) else graphRequest s (recFld v 0 2) (recFld v 2 6) (recFld v 8 12))
  else
    let op := recFld v 0 8
    dbgCmd s (op == 1) who (if op = 1 ∨ op = 2 then BitVec.ofNat 12 (v / 2 ^ 8) ||| (if 2 ^ 32 ≤ v then 1 else 0) else 1).toNat (recFld v 20 12)

/-- Writes of 0x8000 to 0x8FFF. -/
def writeSec (s : State) (i u v : Nat) (bs : List Byte) (who : Principal) (p : KPath) : State × Nat :=
  if i = 0x8000 then (if u = 1 then keyCmd s v who p else keyClaim s v who p)
  else if i = 0x8010 then ({ s with sec := { s.sec with stage := tput s.sec.stage u bs } }, kDone)
  else if i = 0x8100 then fwCmd s v
  else if i = 0x8110 then fwChunk s bs
  else if i = 0x8200 then
    (if v ≤ 1 then ({ s with host := { s.host with ideReq := BitVec.ofNat 8 v } }, kDone) else (s, kRefused))
  else if 2 ^ 272 ≤ v then (s, kRefused)
  else quoteReq s ⟨who, BitVec.ofNat 8 v, recFld v 8 5, BitVec.ofNat 256 (v / 2 ^ 16)⟩ (BitVec.ofNat 3 (v / 2 ^ 13))

/-- The write of a value by the owning object's rules (step 9 of R429). A nonzero bit in a record's padding is refused as a
reserved one is. -/
def writeObj (s : State) (q : KReq) (i u : Nat) : State × Nat :=
  let bs := frValue q.frame
  let v := leNat bs
  let who := frWho q.frame
  match i / 4096 with
  | 4 => writeFab s i u v bs
  | 6 => writeRel s i u v who
  | 7 => writeRel s i u v who
  | 8 => writeSec s i u v bs who q.path
  | _ => writeLow s i u v

def objKey (i u : Nat) : Nat := i * 256 + u

/-- The change count of an object moves on, and its value is the one last seen (R427). -/
def noteChange (s : State) (i u : Nat) : State :=
  let k := objKey i u
  { s with kedal := { s.kedal with
    changes := tput s.kedal.changes k ((tget 0 s.kedal.changes k + 1) % 2 ^ 32)
    seen := tput s.kedal.seen k (objVal s i u) } }

/-- A change that the device has made since the object was last seen is counted when a READ finds it (R427). -/
def noteSeen (s : State) (i u : Nat) : State :=
  match tfind s.kedal.seen (objKey i u) with
  | none => { s with kedal := { s.kedal with seen := tput s.kedal.seen (objKey i u) (objVal s i u) } }
  | some v => if v = objVal s i u then s else noteChange s i u

/-- A refused request is counted by kind (R444, KD_STATS) and answered. -/
def kRefuse (s : State) (q : KReq) (st : Nat) : State :=
  let s := match st with
    | 0x08 => kdStat s q.path 0
    | 0x09 => kdStat s q.path 1
    | 0x0B => kdStat s q.path 2
    | 0x0C => kdStat s q.path 3
    | _ => s
  respond s q (response q.frame st 0 [])

/-- A quote whose result a READ asks for is in progress (R459). -/
def quoteRunning (s : State) (who : Principal) (i u : Nat) : Bool :=
  (i == 0x8310 || (i == 0x8300 && (u == 2 || u == 3))) &&
    (s.sec.quotes.any (fun x => x.who == who) || s.sec.quoteBusy.map Prod.fst == some who)

/-- A READ (R427). -/
def serveRead (s : State) (q : KReq) : State :=
  match kCheck s q with
  | .inl st => kRefuse s q st
  | .inr _ =>
    let f := q.frame
    let i := frIndex f
    let u := frSub f
    if quoteRunning s (frWho f) i u then kRefuse s q kBusy
    else
      let s := noteSeen s i u
      let v := objVal s i u
      respond s q
        (response f kDone (v.length + 2 ^ 32 * tget 0 s.kedal.changes (objKey i u)) ((v.drop (frOffset f)).take (frArg f)))

/-- Step 9 of R429 of a WRITE or a CWRITE, and its answer, which leaves before a change of the field network (R436) and before a reset
(R431). A change that the device has made since the object was last seen counts beside the write (R427). -/
def serveValue (s : State) (q : KReq) (o : Obj) : State :=
  let i := frIndex q.frame
  let u := frSub q.frame
  let et := etherType s
  let (t, st) := writeObj (if o.rd = 0 then s else noteSeen s i u) q i u
  if st = kDone ∧ o.kept ∧ s.kedal.flashBad then kRefuse s q 0x10
  else if st ≠ kDone ∧ st ≠ kDeferred then kRefuse t q st
  else
    let t := if o.rd = 0 then t else noteChange t i u
    let t := respondAs t q et (response q.frame st 0 [])
    if i = 0x1020 then doReset t (leNat (frValue q.frame)) else t

/-- A WRITE. -/
def serveWrite (s : State) (q : KReq) : State :=
  match kCheck s q with
  | .inl st => kRefuse s q st
  | .inr o => serveValue s q o

/-- A CWRITE (R439–R441): its counter is used up before the object's rules are asked. -/
def serveCwrite (s : State) (q : KReq) : State :=
  match kCheck s q with
  | .inl st => kRefuse s q st
  | .inr o =>
    let st := cwriteCheck s q.frame
    if st ≠ 0 then kRefuse s q st
    else
      let k := frKey q.frame
      serveValue (blockWrite s |>.setKeySlot k { s.keySlot k with counter := BitVec.ofNat 64 (frArg q.frame) }) q o

/-- The dictionary answers from start-up step 6 on, in every power state but OFF (R434, R443). -/
def kedalUp (s : State) : Bool := s.kedal.up && decide (s.pwr.st ≠ .off)

/-- KD_SLOT_GO (R437): the request is written into a slot that is not BUSY, and submitted. The window needs the hub die, and the host
request an IDE stream where the host must use one (R409). -/
def execKdSlotGo (go : SlotGo) (frame : List Byte) (s : State) : Out :=
  let x := s.kslot go.slot.val
  if !hostTakes s 0 go.stream || !kedalUp s || s.pwr.start == 0 || bit x.ctrl 30 then .next s
  else .next (slotGo (s.setKslot go.slot.val { x with req := (frame ++ List.replicate 288 0#8).take 288 }) go.slot)

/-- KEDAL_FRAME_ARRIVAL (R430, R435, R438). A frame of the field network is Kedal's by its EtherType; a RESPONSE is no request (log 40).
`src.src` is the source MAC or the path back, `src.node` the SRC_NODE of a frame over the fabric. -/
def execKedalFrameArrival (path : KPath) (src : KSender) (bcast : Bool) (frame : List Byte) (s : State) : Out :=
  let req := frame.take (32 + frBodyLen frame)
  let back : W64 := match path with
    | .fabric => if 2 ^ 60 ≤ src.src.toNat then src.src else src.node.setWidth 64
    | _ => src.src
  let q : KReq := ⟨path, back, req, senderOf path src.src src.node, false⟩
  if !kedalUp s then .next s
  else match path with
    | .window k => execKdSlotGo ⟨k, none⟩ frame s
    | .field =>
      if src.etype.toNat ≠ etherType s ∨ frOp req = 4 ∨ (bcast ∧ !(frOp req == 1 && inR (frIndex req) 0x1000 0x10FF)) then .next s
      else .next (kedalRequest s q)
    | .fabric => if frOp req = 4 ∨ fmAdmits s q = false then .next s else .next (kedalRequest s q)

/-- The request at the head of the queue is served, if it is of the kind that the command names. A fabric request of a node that no
longer is the fabric manager's leaves without an answer (R438). -/
def serveHead (s : State) (mine : List Byte → Bool) (f : State → KReq → State) : Out :=
  match s.kedal.queue with
  | [] => .next s
  | q :: r =>
    let u := { s with kedal := { s.kedal with queue := r } }
    if !(mine q.frame && kedalUp s) then .next s
    else if !fmAdmits s q then .next u
    else .next (f u q)

/-- R427 K_READ: also serves the malformed frames whose OP is none (R429 step 1). -/
def execKRead (s : State) : Out := serveHead s (fun f => frOp f != 2 && frOp f != 3) serveRead

/-- R429 K_WRITE. -/
def execKWrite (s : State) : Out := serveHead s (fun f => frOp f == 2) serveWrite

/-- R441 K_CWRITE. A RESET_CMD queued behind a COMMIT waits until it completes (R462). -/
def execKCwrite (s : State) : Out :=
  serveHead s (fun f => frOp f == 3 && !(frIndex f == 0x1020 && decide (s.sec.fw = .verifying))) serveCwrite

end Sys2Proof.Machine
end

