-- ==== Sys2Proof/Machine/Scalar.lean ====
section
/-!
DEFINITION. Integer, branch, floating-point and conversion instructions (06 R141–R147).
-/
namespace Sys2Proof.Machine

/-- R141 ADD. -/
def execAdd (o : RrrOp) (s : State) : Out := intRrr o 4 true (fun _ x y => x + y) s
/-- R141 SUB. -/
def execSub (o : RrrOp) (s : State) : Out := intRrr o 4 true (fun _ x y => x - y) s
/-- R141 AND. -/
def execIand (o : RrrOp) (s : State) : Out := intRrr o 4 true (fun _ x y => x &&& y) s
/-- R141 OR. -/
def execIor (o : RrrOp) (s : State) : Out := intRrr o 4 true (fun _ x y => x ||| y) s
/-- R141 XOR. -/
def execIxor (o : RrrOp) (s : State) : Out := intRrr o 4 true (fun _ x y => x ^^^ y) s
/-- R141 SLL. -/
def execSll (o : RrrOp) (s : State) : Out := intRrr o 4 true (fun w x y => x <<< shAmt w y) s
/-- R141 SRL. -/
def execSrl (o : RrrOp) (s : State) : Out := intRrr o 4 true (fun w x y => x >>> shAmt w y) s
/-- R141 SRA. -/
def execSra (o : RrrOp) (s : State) : Out := intRrr o 4 true (fun w x y => x.sshiftRight (shAmt w y)) s
/-- R141 SLT. -/
def execSlt (o : RrrOp) (s : State) : Out := intRrr o 4 true (fun w x y => oneIf w (x.slt y)) s
/-- R141 SLTU. -/
def execSltu (o : RrrOp) (s : State) : Out := intRrr o 4 true (fun w x y => oneIf w (x.ult y)) s
/-- R141 MIN, signed. -/
def execImin (o : RrrOp) (s : State) : Out := intRrr o 4 true (fun _ x y => if x.slt y then x else y) s
/-- R141 MAX, signed. -/
def execImax (o : RrrOp) (s : State) : Out := intRrr o 4 true (fun _ x y => if x.slt y then y else x) s
/-- R141 MINU. -/
def execMinu (o : RrrOp) (s : State) : Out := intRrr o 4 true (fun _ x y => if x.ult y then x else y) s
/-- R141 MAXU. -/
def execMaxu (o : RrrOp) (s : State) : Out := intRrr o 4 true (fun _ x y => if x.ult y then y else x) s
/-- R141 MUL, low half. -/
def execMul (o : RrrOp) (s : State) : Out := intRrr o 4 true (fun _ x y => x * y) s
/-- R141 MULH, high half of the signed product. -/
def execMulh (o : RrrOp) (s : State) : Out :=
  intRrr o 4 true (fun w x y => BitVec.ofInt w (x.toInt * y.toInt / (2 ^ w : Nat))) s
/-- R141 MULHU, high half of the unsigned product. -/
def execMulhu (o : RrrOp) (s : State) : Out := intRrr o 4 true (fun w x y => BitVec.ofNat w (x.toNat * y.toNat / 2 ^ w)) s
/-- R142 DIV. -/
def execDiv (o : RrrOp) (s : State) : Out := intRrr o 4 true divS s
/-- R142 DIVU. -/
def execDivu (o : RrrOp) (s : State) : Out := intRrr o 4 true divU s
/-- R142 REM. -/
def execRem (o : RrrOp) (s : State) : Out := intRrr o 4 true remS s
/-- R142 REMU. -/
def execRemu (o : RrrOp) (s : State) : Out := intRrr o 4 true remU s
/-- R142 POPC. -/
def execPopc (o : RrrOp) (s : State) : Out := intRrr o 4 false (fun w x _ => BitVec.ofNat w (popcount x)) s
/-- R142 CLZ. -/
def execClz (o : RrrOp) (s : State) : Out := intRrr o 4 false (fun w x _ => BitVec.ofNat w (clz x)) s
/-- R142 CTZ. -/
def execCtz (o : RrrOp) (s : State) : Out := intRrr o 4 false (fun w x _ => BitVec.ofNat w (ctz x)) s

/-- R143 ADDI. -/
def execAddi (o : RriOp) (s : State) : Out := intRri o (fun _ x y => x + y) s
/-- R143 ANDI. -/
def execAndi (o : RriOp) (s : State) : Out := intRri o (fun _ x y => x &&& y) s
/-- R143 ORI. -/
def execOri (o : RriOp) (s : State) : Out := intRri o (fun _ x y => x ||| y) s
/-- R143 XORI. -/
def execXori (o : RriOp) (s : State) : Out := intRri o (fun _ x y => x ^^^ y) s
/-- R143 SLTI. -/
def execSlti (o : RriOp) (s : State) : Out := intRri o (fun w x y => oneIf w (x.slt y)) s
/-- R143 SHI, kind SLL. -/
def execShiSll (o : ShiOp) (s : State) : Out := intShi o (fun _ x n => x <<< n) s
/-- R143 SHI, kind SRL. -/
def execShiSrl (o : ShiOp) (s : State) : Out := intShi o (fun _ x n => x >>> n) s
/-- R143 SHI, kind SRA. -/
def execShiSra (o : ShiOp) (s : State) : Out := intShi o (fun _ x n => x.sshiftRight n) s
/-- R143 LUI: IMM20 × 2^12, sign-extended to the register width. -/
def execLui (o : RiOp) (s : State) : Out :=
  let wide := isCc o.face
  issue s o.core o.face 4 true [⟨o.rd.toNat, 1, true⟩]
    (fun g s => .ok (eachLane g (fun l s => wrReg s g l o.rd.toNat wide (sx o.imm <<< 12)) s))

/-- R145 BEQ. -/
def execBeq (o : BrOp) (s : State) : Out := branch o (fun _ x y => x == y) s
/-- R145 BNE. -/
def execBne (o : BrOp) (s : State) : Out := branch o (fun _ x y => x != y) s
/-- R145 BLT. -/
def execBlt (o : BrOp) (s : State) : Out := branch o (fun _ x y => x.slt y) s
/-- R145 BGE. -/
def execBge (o : BrOp) (s : State) : Out := branch o (fun _ x y => !x.slt y) s
/-- R145 BLTU. -/
def execBltu (o : BrOp) (s : State) : Out := branch o (fun _ x y => x.ult y) s
/-- R145 BGEU. -/
def execBgeu (o : BrOp) (s : State) : Out := branch o (fun _ x y => !x.ult y) s
/-- R145 JAL: the link is a 64-bit pair on a caravan (R138). -/
def execJal (o : RiOp) (s : State) : Out :=
  issue s o.core o.face 4 true [useOf o.rd true true]
    (fun g s => .moved (eachLane g (fun l s =>
      setPc (wrReg s g l o.rd.toNat true (g.pc + 4)) g l (target (g.pc + sx o.imm * 4))) s))
/-- R145 JALR: continues at RA + IMM14. -/
def execJalr (o : RriOp) (s : State) : Out :=
  issue s o.core o.face 4 true [useOf o.rd true true, useOf o.ra true false]
    (fun g s => .moved (eachLane g (fun l s =>
      let t := target (rdReg s g l o.ra.toNat true + sx o.imm)
      setPc (wrReg s g l o.rd.toNat true (g.pc + 4)) g l t) s))

def fp2 : FpShape := ⟨2, false, false, false⟩
def fp2x : FpShape := ⟨2, false, false, true⟩
def fp3 : FpShape := ⟨2, true, false, false⟩
def fp1 : FpShape := ⟨1, false, false, false⟩
def fp1x : FpShape := ⟨1, false, false, true⟩
def fpCmp : FpShape := ⟨2, false, true, true⟩

def cmpBits (r : Bool × Flags) : Nat × Flags := (b2n r.1, r.2)

/-- R146 FADD. -/
def execFadd (o : FpOp) (s : State) : Out := fpRun o fp2 (fun f a b _ => fadd f o.rm (f.dec a) (f.dec b)) s
/-- R146 FSUB. -/
def execFsub (o : FpOp) (s : State) : Out := fpRun o fp2 (fun f a b _ => fsub f o.rm (f.dec a) (f.dec b)) s
/-- R146 FMUL. -/
def execFmul (o : FpOp) (s : State) : Out := fpRun o fp2 (fun f a b _ => fmul f o.rm (f.dec a) (f.dec b)) s
/-- R146 FMA: RD + RA × RB. -/
def execFma (o : FpOp) (s : State) : Out :=
  fpRun o fp3 (fun f a b d => ffma f o.rm false (f.dec d) (f.dec a) (f.dec b)) s
/-- R146 FNMA: RD − RA × RB. -/
def execFnma (o : FpOp) (s : State) : Out :=
  fpRun o fp3 (fun f a b d => ffma f o.rm true (f.dec d) (f.dec a) (f.dec b)) s
/-- R146 FDIV. -/
def execFdiv (o : FpOp) (s : State) : Out := fpRun o fp2 (fun f a b _ => fdiv f o.rm (f.dec a) (f.dec b)) s
/-- R146 FSQRT. -/
def execFsqrt (o : FpOp) (s : State) : Out := fpRun o fp1 (fun f a _ _ => fsqrt f o.rm (f.dec a)) s
/-- R146 FMIN. -/
def execFmin (o : FpOp) (s : State) : Out := fpRun o fp2x (fun f a b _ => fminBits f false a b) s
/-- R146 FMAX. -/
def execFmax (o : FpOp) (s : State) : Out := fpRun o fp2x (fun f a b _ => fminBits f true a b) s
/-- R146 FEQ. -/
def execFeq (o : FpOp) (s : State) : Out := fpRun o fpCmp (fun f a b _ => cmpBits (fcmpEq (f.dec a) (f.dec b))) s
/-- R146 FLT. -/
def execFlt (o : FpOp) (s : State) : Out := fpRun o fpCmp (fun f a b _ => cmpBits (fcmpLt (f.dec a) (f.dec b))) s
/-- R146 FLE. -/
def execFle (o : FpOp) (s : State) : Out := fpRun o fpCmp (fun f a b _ => cmpBits (fcmpLe (f.dec a) (f.dec b))) s
/-- R146 FABS. -/
def execFabs (o : FpOp) (s : State) : Out := fpRun o fp1x (fun f a _ _ => fabsBits f a) s
/-- R146 FNEG. -/
def execFneg (o : FpOp) (s : State) : Out := fpRun o fp1x (fun f a _ _ => fnegBits f a) s
/-- R146 FRCP: 1 / RA. -/
def execFrcp (o : FpOp) (s : State) : Out := fpRun o fp1 (fun f a _ _ => fdiv f o.rm (.fin false 1 0) (f.dec a)) s

/-- Registers that a CVT operand of a format occupies on a caravan. -/
def cvtRegs (fmt : BitVec 5) : Nat := if ebits fmt.toNat = 64 then 2 else 1

/-- R147 CVT: codes 0x00–0x07; the bits of RD beyond the result are zero. -/
def execCvt (o : CvtOp) (s : State) : Out :=
  issue s o.core o.face 4 (!o.rsv && decide (o.dst.toNat < 8) && decide (o.src.toNat < 8))
    [⟨o.rd.toNat, cvtRegs o.dst, true⟩, ⟨o.ra.toNat, cvtRegs o.src, false⟩]
    (fun g s => .ok (eachLane g (fun l s =>
      let a := (rdReg s g l o.ra.toNat (cvtRegs o.src == 2)).toNat % 2 ^ ebits o.src.toNat
      let (r, fl) := convElem o.dst.toNat o.rm o.sat (elemNum o.src.toNat a)
      raiseFlags (wrReg s g l o.rd.toNat (cvtRegs o.dst == 2) (BitVec.ofNat 64 r)) g fl) s))

end Sys2Proof.Machine
end

