-- ==== Sys2Proof/Machine/Tensors.lean ====
section
/-!
DEFINITION. Tensors and the orders of addition that the Thehus library promises (22 R526–R533): elements, rounding of results,
column results over K, partials, and the segments of an axis.
-/
namespace Sys2Proof.Machine

def prodOf (l : List Nat) : Nat := l.foldl (· * ·) 1

/-- Length of the unit-stride dimension (R526). -/
def innerOf (ext : List Nat) : Nat := ext.getLastD 1

/-- Bits of element `i` in storage order (R23). -/
def telem (t : Tensor) (i : Nat) : Nat :=
  let w := ebits t.fmt.toNat
  leNat ((t.data.drop (w * i / 8)).take 17) / 2 ^ (w * i % 8) % 2 ^ w

/-- Exponent of the block that holds an element; 127 where the format has none (R30, R61). -/
def texp (t : Tensor) (i : Nat) : Nat :=
  let bs := blockSize t.fmt.toNat
  let n := innerOf t.ext
  if bs = 0 then 127 else (t.scale.getD (i / n * (n / bs) + i % n / bs) 127#8).toNat

def tval (t : Tensor) (i : Nat) : Num := elemVal t.fmt.toNat (telem t i) (texp t i)

def tcount (t : Tensor) : Nat := prodOf t.ext

/-- Whole blocks along the innermost dimension (R30). -/
def wholeBlocks (fmt n : Nat) : Bool := !isBlock fmt || n % blockSize fmt == 0

/-- Coordinates of a storage index, outermost first, and back. -/
def unravel : List Nat → Nat → List Nat
  | [], _ => []
  | _ :: ds, i => i / prodOf ds :: unravel ds (i % prodOf ds)

def ravel (ext idx : List Nat) : Nat := (ext.zip idx).foldl (fun a e => a * e.1 + e.2) 0

/-- Element bits of one width, packed (R23). -/
def packElems (w : Nat) (xs : List Nat) : List Byte :=
  leBytes ((xs.length * w + 7) / 8) (packFields (xs.map (fun x => (w, x))))

/-- A result: bits in a format that needs no block exponent, where the value has such, and the value. -/
abbrev Res := Option Nat × Num

def resOf (fmt b : Nat) : Res := (some b, elemNum fmt b)

/-- Rounding mode and saturate bit of a call's outputs: to nearest with ties to even, and saturate, where the program sets none (R528). -/
def rmOf (o : CallOpt) : BitVec 2 := o.rm.getD 0
def satOf (o : CallOpt) : Bool := o.sat.getD true

/-- The output tensor (R528): each result rounded once, or each block converted (R53). -/
def outTensor (o : CallOpt) (src : Nat) (ext : List Nat) (xs : List Res) : Tensor × Flags :=
  let dst := o.outFmt.toNat
  if isBlock dst then
    let bs := blockSize dst
    let cs := (List.range (xs.length / bs)).map (fun k => convBlock src dst (rmOf o) (((xs.drop (k * bs)).take bs).map Prod.snd))
    (⟨o.outFmt, ext, packElems (ebits dst) (cs.flatMap (fun c => c.2.1)), cs.map (fun c => BitVec.ofNat 8 c.1)⟩,
      orFlags (cs.map (fun c => c.2.2)))
  else
    let cs := xs.map (fun x => match x.1 with
      | some b => convOne src dst (rmOf o) (satOf o) b
      | none => convElem dst (rmOf o) (satOf o) x.2)
    (⟨o.outFmt, ext, packElems (ebits dst) (cs.map Prod.fst), []⟩, orFlags (cs.map Prod.snd))

/-- Element k of an operand along K, with the exponent of its block. -/
abbrev KLane := Nat → Nat × Nat

/-- A product with its scale 2^(Ex + Ew − 254) (R61). -/
def scaledProd (xf wf : Nat) (x w : Nat × Nat) : Num × Flags :=
  let (v, fl) := cellProduct xf wf x.1 w.1
  (v.scale ((if isBlock xf then (x.2 : Int) - 127 else 0) + (if isBlock wf then (w.2 : Int) - 127 else 0)), fl)

/-- The exact sum of one product group (R44, R61). -/
def groupK (xf wf : Nat) (x w : KLane) (k0 k1 : Nat) : Num × Flags :=
  let ks := (List.range (k1 - k0)).map (k0 + ·)
  if ks.any (fun k => (isBlock xf && (x k).2 == 0xFF) || (isBlock wf && (w k).2 == 0xFF)) then
    (.nan false, nanBlkFlags xf wf (ks.map (fun k => (x k, w k))))
  else ks.foldl (fun (acc : Num × Flags) k =>
    let (v, f1) := scaledProd xf wf (x k) (w k)
    let (g, f2) := groupAdd acc.1 v
    (g, acc.2 ||| f1 ||| f2)) (Num.fin false 0 0, 0)

/-- What one matrix product needs of its operands: formats, elements along K, their number. -/
structure Dot where
  xf : Nat
  wf : Nat
  x : KLane
  w : KLane
  k : Nat

def dotAcc (d : Dot) : FFmt := accFmt (accWide d.xf)

/-- The pair format of a product's accumulator (R41). -/
def dotFmt (xf : Nat) : Nat := if accWide xf then 0x19 else 0x18

/-- R61: the column result over rows r0 to r1, from a running pair. -/
def colRun (d : Dot) (r0 r1 : Nat) (run : Nat × Flags) : Nat × Flags :=
  let g := geomGroup d.xf d.wf
  let c := geomD d.xf d.wf
  (List.range (ceilDiv (r1 - r0) g)).foldl (fun (run : Nat × Flags) i =>
    let a := r0 + i * g
    let (v, f1) := groupK d.xf d.wf d.x d.w (a * c) (min d.k (min r1 (a + g) * c))
    let (p, f2) := splitNum (dotAcc d) v
    let (q, f3) := pairMerge (dotAcc d) run.1 p
    (q, run.2 ||| f1 ||| f2 ||| f3)) run

def addFlags (fl : Flags) (x : Nat × Flags) : Nat × Flags := (x.1, x.2 ||| fl)

/-- Rows r0 to r1 cut into passes of `klen` rows. `chain` passes run on one running pair (R96), and each step is then merged into the
accumulator (R63). With `cont` the running pair is the accumulator throughout, as collectives have it. -/
def rowsRun (d : Dot) (klen chain : Nat) (cont : Bool) (r0 r1 : Nat) (acc : Option Nat) : Nat × Flags :=
  let pass (i : Nat) (run : Nat × Flags) : Nat × Flags := colRun d (min r1 (r0 + i * klen)) (min r1 (r0 + (i + 1) * klen)) run
  let passes := ceilDiv (r1 - r0) klen
  if cont then (List.range passes).foldl (fun run i => pass i run) (acc.getD 0, 0)
  else
    let r := (List.range (ceilDiv passes chain)).foldl (fun (st : Option Nat × Flags) i =>
      let run := (List.range chain).foldl (fun run j => pass (i * chain + j) run) ((0, st.2) : Nat × Flags)
      match st.1 with
      | none => (some run.1, run.2)
      | some a =>
        let (q, fl) := pairMerge (dotAcc d) a run.1
        (some q, run.2 ||| fl)) (acc, 0)
    (r.1.getD 0, r.2)

/-- SEQUENTIAL order of R102. -/
def combineSeq (f : FFmt) : List Nat → Nat × Flags
  | [] => (0, 0)
  | a :: r => r.foldl (fun (acc : Nat × Flags) p => addFlags acc.2 (pairMerge f acc.1 p)) (a, 0)

/-- One level of TREE (R102): neighbours that are left merge, the lower index first. -/
def pairUp (f : FFmt) : List Nat → List Nat × Flags
  | a :: b :: r =>
    let (q, f1) := pairMerge f a b
    let (l, f2) := pairUp f r
    (q :: l, f1 ||| f2)
  | l => (l, 0)

def treeGo (f : FFmt) : Nat → List Nat → Flags → Nat × Flags
  | 0, l, fl => (l.headD 0, fl)
  | n + 1, l, fl =>
    match l with
    | [] => (0, fl)
    | [a] => (a, fl)
    | _ =>
      let (m, f1) := pairUp f l
      treeGo f n m (fl ||| f1)

def combineTree (f : FFmt) (l : List Nat) : Nat × Flags := treeGo f l.length l 0

/-- The partials of one reduction in the record's ORDER (R102). -/
def combine (tree : Bool) (f : FFmt) (l : List Nat) : Nat × Flags := if tree then combineTree f l else combineSeq f l

/-- First element of segment `p` of an axis of `n` elements in `parts` segments (R529): even where they can be, as in the
worked example; else where Thehus cuts. -/
def cutAt (n parts p : Nat) : Nat :=
  if p = 0 then 0
  else if parts ≤ p then n
  else if n % parts = 0 then p * (n / parts)
  else (List.range (p + 1)).foldl (fun a i => max a (min n (Config.cutPoint n parts i))) 0

/-- Fields of a tiling record (R532). -/
def tw (o : CallOpt) (i hi lo : Nat) : Nat := fld (o.tiling.getD i 0) hi lo

def tMethod (o : CallOpt) : Nat := tw o 0 23 20
def tChain (o : CallOpt) : Nat := if tMethod o = 1 then tw o 0 19 16 else 1
def tTree (o : CallOpt) : Bool := tw o 0 15 15 == 1
def tCont (o : CallOpt) : Bool := tw o 0 14 14 == 1
def tKlen (o : CallOpt) : Nat := tw o 1 54 46
def tParts (o : CallOpt) : Nat := tw o 1 45 30
def tLanes (o : CallOpt) : Nat := 2 ^ tw o 1 29 25

/-- The product of two lanes by the record's method of continuing K (R61, R63, R96, R102), onto C where there is one. -/
def dotRun (o : CallOpt) (d : Dot) (c : Option Nat) : Nat × Flags :=
  let rows := ceilDiv d.k (geomD d.xf d.wf)
  if tMethod o = 2 then
    let g := geomGroup d.xf d.wf
    let n := ceilDiv rows g
    let ps := (List.range (tParts o)).map (fun p =>
      rowsRun d (tKlen o) 1 (tCont o) (min rows (g * cutAt n (tParts o) p)) (min rows (g * cutAt n (tParts o) (p + 1))) none)
    let r := addFlags (orFlags (ps.map Prod.snd)) (combine (tTree o) (dotAcc d) (ps.map Prod.fst))
    match c with
    | none => r
    | some b => addFlags r.2 (pairMerge (dotAcc d) r.1 b)
  else rowsRun d (tKlen o) (tChain o) (tCont o) 0 rows c

/-- An element of C as an accumulator pair. -/
def pairOf (fmt dst b : Nat) (v : Num) : Nat × Flags :=
  if fmt = dst then (b, 0)
  else if fmt = 0x18 ∧ dst = 0x19 then widenPair b
  else splitNum (if dst = 0x19 then fp64 else fp32) v

/-- t(x) of R529 for SUM, as a P64x2 pair. -/
def termOf (t : Tensor) (i : Nat) : Nat × Flags := pairOf t.fmt.toNat 0x19 (telem t i) (tval t i)

/-- t(x) of R529 for SUMSQ and NORM. -/
def squareOf (t : Tensor) (i : Nat) : Nat × Flags :=
  let v := tval t i
  let (sq, f1) := mulNum v v
  addFlags f1 (splitNum fp64 sq)

/-- R529 on one partial: lanes, then their tree. -/
def lanesRun (lanes n : Nat) (t : Nat → Nat × Flags) : Nat × Flags :=
  let ls := (List.range lanes).map (fun l =>
    (List.range (ceilDiv (n - l) lanes)).foldl (fun (acc : Nat × Flags) j =>
      let (x, f1) := t (l + j * lanes)
      addFlags (acc.2 ||| f1) (pairMerge fp64 acc.1 x)) ((0, 0) : Nat × Flags))
  addFlags (orFlags (ls.map Prod.snd)) (combineTree fp64 (ls.map Prod.fst))

/-- R529 along an axis: segments, partials, and their combination. -/
def reduceRun (o : CallOpt) (n : Nat) (t : Nat → Nat × Flags) : Nat × Flags :=
  let ps := (List.range (tParts o)).map (fun p =>
    let a := cutAt n (tParts o) p
    lanesRun (tLanes o) (cutAt n (tParts o) (p + 1) - a) (fun j => t (a + j)))
  addFlags (orFlags (ps.map Prod.snd)) (combine (tTree o) fp64 (ps.map Prod.fst))

/-- R530 on one segment: the outputs before rounding, and the running pair of each element, from an offset. -/
def scanSegment (incl : Bool) (n : Nat) (off : Nat) (t : Nat → Nat × Flags) : Nat × List Nat × Flags :=
  (List.range n).foldl (fun (st : Nat × List Nat × Flags) j =>
    let (run, out, fl) := st
    let (x, f1) := t j
    let (r, f2) := pairMerge fp64 run x
    let (y, f3) := pairMerge fp64 off (if incl then r else run)
    (r, out ++ [y], fl ||| f1 ||| f2 ||| f3)) (0, [], 0)

/-- R530 along an axis: the pairs before rounding. The offset of a segment is formed from the total of the one before it. -/
def scanRun (o : CallOpt) (incl : Bool) (n : Nat) (t : Nat → Nat × Flags) : List Nat × Flags :=
  let step (st : Option (Nat × Nat) × List Nat × Flags) (p : Nat) : Option (Nat × Nat) × List Nat × Flags :=
    let a := cutAt n (tParts o) p
    let (before, out, fl) := st
    let (off, f4) : Nat × Flags := match before with
      | none => (0, 0)
      | some (o1, total) => pairMerge fp64 o1 total
    let (run, ys, f5) := scanSegment incl (cutAt n (tParts o) (p + 1) - a) off (fun j => t (a + j))
    (some (off, run), out ++ ys, fl ||| f4 ||| f5)
  let (_, out, fl) := (List.range (tParts o)).foldl step (none, [], 0)
  (out, fl)

end Sys2Proof.Machine
end

