-- ==== Sys2Proof/Machine/Thehus.lean ====
section
/-!
DEFINITION. The Thehus operator library (22 R524–R539): devices, tiling records, and what each call returns. A call is one command: the
contexts, kernels and exchanges that Thehus makes of it are its own affair, and its result is what the rules promise. The layouts
of tensors that a call names are given with each operator (log 54).
-/
namespace Sys2Proof.Machine

/-- Status of R539, or the output tensors and flags. -/
abbrev CallRes := Nat ⊕ (List Tensor × Flags)

/-- A member on this module. -/
def localMember (s : State) (m : Member) : Bool := m.node == s.fab.node

/-- A context that is torn down, or gone (R538). -/
def ctxGone (s : State) (n : Nat) : Bool :=
  match (s.ctx n).st with
  | .free => true
  | .dead => true
  | .teardown => true
  | _ => false

def memberGone (s : State) (m : Member) : Bool := localMember s m && ctxGone s m.ctx

def returnCall (s : State) (st : Nat) (out : List Tensor) (fl : Flags) (cause : Nat) : State :=
  { s with lib := { s.lib with last := ⟨BitVec.ofNat 8 st, out, fl, cause⟩ } }

/-- The flag region of an exchange area (R525): flag q at offset 8 q. -/
def flagBytes (members : Nat) : Nat := ceilDiv (8 * members) (2 ^ 21) * 2 ^ 21

/-- EXCH_BYTES of a program that sets none (R525). -/
def exchDefault : Nat := 2 ^ 28

/-- R525: room for the flags and 2 MiB more. -/
def exchBytesOk (members : Nat) (n : Nat) : Bool := n % 2 ^ 21 == 0 && decide (flagBytes members + 2 ^ 21 ≤ n)

/-- A range of HBM within a partition. -/
def withinPart (s : State) (q off n : Nat) : Bool :=
  decide (off + n ≤ 2 ^ 39) && (List.range ((off + n - 1) / 2 ^ 30 + 1 - off / 2 ^ 30)).all (fun i => bit (s.part q).hbmMap (off / 2 ^ 30 + i))

/-- What a member named at open is in this module's terms (R524). -/
def memberOf (s : State) (m : MemberIn) : Member :=
  ⟨m.node, m.ctx.toNat, if m.node = s.fab.node then (s.ctx m.ctx.toNat).partNo else m.part.toNat⟩

/-- Created and not DEAD (R524), or the cause of one that is not. -/
def memberClosed (s : State) (m : MemberIn) : Option Nat :=
  let x := s.ctx m.ctx.toNat
  if m.node ≠ s.fab.node then m.gone else if x.st = .free ∨ x.st = .dead then some x.cause else none

/-- Width and class of a member. -/
def memberShape (s : State) (m : MemberIn) : Nat × Bool :=
  let x := s.ctx m.ctx.toNat
  if m.node = s.fab.node then (x.width, x.lc) else (m.width, m.lc)

/-- The export entries of a member's partition cover a page of its area, with RD and W, for another member (R353, R525). -/
def exportsPage (s : State) (q off : Nat) (peer : Member) : Bool :=
  s.fab.expo.any (fun e =>
    let len := fld e.2 43 39
    e.1 / 64 == q && bit e.2 30 && bit e.2 32 && bit e.2 31 && decide (len ≤ 20) &&
      peer.node.toNat / 2 ^ (20 - len) == fld e.2 63 44 / 2 ^ (20 - len) && (bit e.2 33 || fld e.2 38 34 == peer.part) &&
      decide (fld e.2 101 83 ≤ off / 2 ^ 21) && decide (off / 2 ^ 21 < fld e.2 101 83 + fld e.2 82 64))

/-- Every other member reaches the area of a member on this module. -/
def exportsArea (s : State) (m : Member) (area n : Nat) (peers : List Member) : Bool :=
  peers.all (fun p => p == m || (List.range (n / 2 ^ 21)).all (fun i => exportsPage s m.part (area + i * 2 ^ 21) p))

/-- R524, R525 DEVICE_OPEN. The export tables of this module answer for the areas of its own members, and the test read and test
write for those of the others. An open that fails for a reason that R539 has no code for answers a free value that is not done (log 6). -/
def execThOpen (dev : Nat) (members : List MemberIn) (exchBytes : W64) (s : State) : Out :=
  let ms := members.map (memberOf s)
  let n := exchBytes.toNat
  let shape := (members.head?.map (memberShape s)).getD (0, false)
  match members.findSome? (memberClosed s) with
  | some c => .next (returnCall s 6 [] 0 c)
  | none =>
    if ms.isEmpty || !members.all (fun m => memberShape s m == shape) || !exchBytesOk ms.length n then
      let (v, s) := s.free
      .next (returnCall s (v.toNat % 7 + 1) [] 0 0)
    else if members.any (fun m => m.area.toNat % 2 ^ 21 != 0 || (m.node == s.fab.node && !withinPart s (memberOf s m).part m.area.toNat n)) then
      .next (returnCall s 7 [] 0 0)
    else if 2 ≤ ms.length ∧ !members.all (fun m => m.reached && (m.node != s.fab.node || exportsArea s (memberOf s m) m.area.toNat n ms)) then
      .next (returnCall s 5 [] 0 0)
    else
      let s := returnCall s 0 [] 0 0
      .next { s with lib := { s.lib with devs := tput s.lib.devs dev ⟨ms, shape.1, n, members.map (fun m => m.area.toNat), [], 0⟩ } }

/-- SIGNATURE of R532. -/
def signature (ts : List Tensor) : List Byte :=
  (sha256 (ts.flatMap (fun t => leBytes 1 t.fmt.toNat ++ leBytes 1 t.ext.length ++ t.ext.flatMap (leBytes 8)))).take 24

/-- The fields of a record within R532, for an operator, a device of `m` members and its width. -/
def tilingOk (o : CallOpt) (op m w : Nat) : Bool :=
  let meth := tMethod o
  tw o 0 31 24 == op && decide (meth ≤ 2) &&
    (if meth = 1 then inR (tw o 0 19 16) 2 8 else tw o 0 19 16 == 0) && tw o 0 13 0 == 0 &&
    inR (tw o 1 63 55) 1 256 && inR (tKlen o) 1 128 && decide (1 ≤ tParts o) && inR (tw o 1 29 25) 6 16 && tw o 1 24 0 == 0 &&
    tw o 2 63 48 == m && tw o 2 47 40 + 1 == w && (decide (m < 2) || tParts o % m == 0) &&
    tw o 3 59 32 == 0 && (decide (w < 8) || tw o 3 62 60 == 0) && fmtOk (tw o 4 63 59) && fmtOk (tw o 4 58 54) && fmtOk (tw o 4 53 49) && tw o 4 45 0 == 0

/-- R534: what refuses a fixed tiling besides its fields. -/
def tilingMine (o : CallOpt) (ts : List Tensor) : Bool :=
  tw o 0 63 32 == Config.libVersion.toNat && bytesOf (o.tiling.drop 5) == signature ts

/-- Output format, rounding and saturation are the record's where the program passes one. -/
def effOpt (o : CallOpt) : CallOpt :=
  if o.fixedTiling then
    { o with outFmt := BitVec.ofNat 5 (tw o 4 53 49), rm := some (BitVec.ofNat 2 (tw o 4 48 47)), sat := some (tw o 4 46 46 == 1) }
  else o

/-- Elements of rows `a` to `b` of the outermost dimension, and the exponents of their blocks. -/
def tensorRows (t : Tensor) (a b : Nat) : List Byte × List Byte :=
  let n := prodOf (t.ext.drop 1)
  let bs := blockSize t.fmt.toNat
  (packElems (ebits t.fmt.toNat) ((List.range ((b - a) * n)).map (fun i => telem t (a * n + i))),
    if bs = 0 then [] else (t.scale.drop (a * n / bs)).take ((b - a) * n / bs))

/-- The share of a tensor that member `q` of `m` holds (R524): rows of its outermost dimension, in order (log 105). -/
def tensorShare (t : Tensor) (m q : Nat) : List Byte × List Byte := tensorRows t (cutAt (t.ext.headD 1) m q) (cutAt (t.ext.headD 1) m (q + 1))

/-- The places of member `q`'s shares, with what goes there. -/
def sharesAt (o : CallOpt) (m q : Nat) (out : List Tensor) : List (Nat × List Byte) :=
  out.zipIdx.flatMap (fun e =>
    let at0 := (o.place.getD e.2 []).getD q (0, 0)
    let (d, x) := tensorShare e.1 m q
    [(at0.1.toNat, d), (at0.2.toNat, x)])

/-- Thehus places each tensor in the HBM of the members' partitions (R526). -/
def placesOk (s : State) (o : CallOpt) (d : Device) (out : List Tensor) : Bool :=
  d.members.zipIdx.all (fun e => !localMember s e.1 ||
    (sharesAt o d.members.length e.2 out).all (fun p => p.2.isEmpty || withinPart s e.1.part p.1 p.2.length))

def storeShares (s : State) (o : CallOpt) (d : Device) (out : List Tensor) : State :=
  d.members.zipIdx.foldl (fun s e => if localMember s e.1 then
    (sharesAt o d.members.length e.2 out).foldl (fun s p => cohWrite s p.1 p.2) s else s) s

/-- R536: a pin is written into each member's descriptor. -/
def pinMembers (s : State) (o : CallOpt) (ms : List Member) : State :=
  if tw o 3 63 63 = 0 then s
  else
    let word : W64 := at_ 63 1 ||| at_ 40 (tw o 3 62 60) ||| at_ 0 (tw o 3 31 0)
    (ms.filter (localMember s)).foldl (fun s m =>
      let x := s.ctx m.ctx
      s.setCtx m.ctx { x with desc := x.desc.set 4 word }) s

/-- The cause with which a member of a device has been torn down (R538): one of this module, or one that the call tells of. -/
def tornMember (s : State) (o : CallOpt) (d : Device) : Option Nat :=
  match d.members.find? (memberGone s) with
  | some m => some (s.ctx m.ctx).cause
  | none => o.torn

/-- A call on an open device: the members, then formats and shapes, then the tiling, then the placement, then room for its
outputs. A record that Thehus has chosen is within R532, so a call with another one is none. -/
def thCall (s : State) (o : CallOpt) (op : Nat) (ts : List Tensor) (run : CallOpt → CallRes) : Out :=
  match tfind s.lib.devs o.dev with
  | none => .next s
  | some d =>
    match tornMember s o d with
    | some c => .next (returnCall s 6 [] 0 c)
    | none =>
      let ok := tilingOk o op d.members.length d.width
      if !o.fixedTiling && !ok then .next s
      else match run (effOpt o) with
        | .inl st => .next (returnCall s st [] 0 0)
        | .inr (out, fl) =>
          if o.fixedTiling && !(ok && tilingMine o ts) then .next (returnCall s 3 [] 0 0)
          else
            let t := pinMembers s o d.members
            if (d.members.filter (localMember s)).any (fun m => (placements t (t.ctx m.ctx) (coreIn t)).isEmpty) then .next (returnCall s 4 [] 0 0)
            else if !placesOk s o d out then .next (returnCall s 7 [] 0 0)
            else .next (returnCall (storeShares t o d out) 0 out fl 0)

/-- A list of results, with the flags of each. -/
def gatherRes (xs : List (Res × Flags)) : List Res × Flags := (xs.map Prod.fst, orFlags (xs.map Prod.snd))

def finish (o : CallOpt) (src : Nat) (ext : List Nat) (xs : List (Res × Flags)) : CallRes :=
  if !fmtOk o.outFmt.toNat then .inl 1
  else if !wholeBlocks o.outFmt.toNat (innerOf ext) then .inl 2
  else
    let (rs, f1) := gatherRes xs
    let (t, f2) := outTensor o src ext rs
    .inr ([t], f1 ||| f2)

def accRes (fmt : Nat) (p : Nat × Flags) : Res × Flags := (resOf fmt p.1, p.2)

/-- Products of rows of A ([M, K]) and of B ([N, K]: K is the unit-stride dimension of both, as R30 has it for blocks), onto C
([M, N]). -/
def matmul (o : CallOpt) (a b : Tensor) (c : Option Tensor) : CallRes :=
  let xf := a.fmt.toNat
  let wf := b.fmt.toNat
  if !pairAccepted xf wf || !(c.map (fun t => fmtOk t.fmt.toNat)).getD true then .inl 1
  else match a.ext, b.ext with
    | [m, k], [n, k2] =>
      if k ≠ k2 || !wholeBlocks xf k || !wholeBlocks wf k || !(c.map (fun t => t.ext == [m, n])).getD true then .inl 2
      else
        let acc := dotFmt xf
        finish o acc [m, n] ((List.range (m * n)).map (fun i =>
          let r := i / n
          let q := i % n
          let d : Dot := ⟨xf, wf, fun e => (telem a (r * k + e), texp a (r * k + e)),
            fun e => (telem b (q * k + e), texp b (q * k + e)), k⟩
          let (cb, f0) : Option Nat × Flags := match c with
            | none => (none, 0)
            | some t =>
              let (p, fl) := pairOf t.fmt.toNat acc (telem t i) (tval t i)
              (some p, fl)
          accRes acc (addFlags f0 (dotRun o d cb))))
    | _, _ => .inl 2

/-- R527 MATMUL. -/
def execThMatmul (c : CallOpt) (a b : Tensor) (acc : Option Tensor) (s : State) : Out :=
  thCall s c 1 ([a, b] ++ acc.toList) (fun o => matmul o a b acc)

/-- The results of several calls in one: the first status that is not done, or all outputs. -/
def joinRes : List CallRes → CallRes
  | [] => .inr ([], 0)
  | .inl st :: _ => .inl st
  | .inr (ts, fl) :: r =>
    match joinRes r with
    | .inl st => .inl st
    | .inr (us, f2) => .inr (ts ++ us, fl ||| f2)

/-- R527 BATCHED and GROUPED: a MATMUL for each entry. -/
def execThBatched (c : CallOpt) (entries : List (Tensor × Tensor × Option Tensor)) (s : State) : Out :=
  thCall s c 2 (entries.flatMap (fun e => [e.1, e.2.1] ++ e.2.2.toList)) (fun o => joinRes (entries.map (fun e => matmul o e.1 e.2.1 e.2.2)))

/-- Extent of a convolution's output along one dimension. -/
def convExt (n k st dil pad : Nat) : Nat := (n + 2 * pad - (dil * (k - 1) + 1)) / st + 1

/-- R527 CONV in a block format: the blocks of both operands run along K (R30), so X is given as its operand records, [batch, z, y, x, K], and
W as [C_out, K], with K in the order (c_in, kernel z, y, x) (log 54). -/
def convBlocks (o : CallOpt) (x w : Tensor) (g : ConvGeom) : CallRes :=
  match x.ext.reverse, w.ext with
  | k :: ps, [co, k2] =>
    let pos := ps.reverse
    if k ≠ k2 || !inR (pos.length - 1) 1 3 || g.kernel.length != pos.length - 1 || k == 0 || k % prodOf g.kernel != 0 ||
        !wholeBlocks x.fmt.toNat k || !wholeBlocks w.fmt.toNat k then .inl 2
    else
      let acc := dotFmt x.fmt.toNat
      let n := prodOf (pos.drop 1)
      finish o acc (pos.headD 1 :: co :: pos.drop 1) ((List.range (pos.headD 1 * co * n)).map (fun i =>
        let r := i / (co * n) * n + i % n
        let c := i / n % co
        accRes acc (dotRun o ⟨x.fmt.toNat, w.fmt.toNat, fun e => (telem x (r * k + e), texp x (r * k + e)),
          fun e => (telem w (c * k + e), texp w (c * k + e)), k⟩ none)))
  | _, _ => .inl 2

/-- R527 CONV. X is [batch, C_in, z, y, x] and W is [C_out, C_in, z, y, x], with the dimensions that there are; the output is
[batch, C_out, z, y, x]. Padding elements are zero codes. -/
def convPlain (o : CallOpt) (x w : Tensor) (g : ConvGeom) : CallRes :=
  let xf := x.fmt.toNat
  match x.ext, w.ext with
    | nb :: ci :: xs, co :: ci2 :: ks =>
      let dims := xs.length
      let per := (xs.zip ks).zip (g.stride.zip (g.dilation.zip g.pad))
      let k := ci * prodOf ks
      let fits := per.all (fun e =>
        decide (1 ≤ e.1.2) && decide (1 ≤ e.2.1) && decide (1 ≤ e.2.2.1) && decide (e.2.2.1 * (e.1.2 - 1) + 1 ≤ e.1.1 + 2 * e.2.2.2))
      if ci ≠ ci2 || !inR dims 1 3 || ks.length != dims || g.kernel != ks || g.stride.length != dims || g.dilation.length != dims ||
          g.pad.length != dims || !fits then .inl 2
      else
        let os := per.map (fun e => convExt e.1.1 e.1.2 e.2.1 e.2.2.1 e.2.2.2)
        let acc := dotFmt xf
        finish o acc (nb :: co :: os) ((List.range (nb * co * prodOf os)).map (fun i =>
          let b := i / (co * prodOf os)
          let c := i / prodOf os % co
          let at0 := unravel os (i % prodOf os)
          let tap (e : Nat) : Nat × Nat :=
            let kk := unravel ks (e % prodOf ks)
            let ps := (at0.zip kk).zip (g.stride.zip (g.dilation.zip g.pad)) |>.map (fun q =>
              q.1.1 * q.2.1 + q.1.2 * q.2.2.1)
            let inside := (ps.zip (xs.zip g.pad)).all (fun q => decide (q.2.2 ≤ q.1) && decide (q.1 - q.2.2 < q.2.1))
            if inside then
              (let j := ravel (nb :: ci :: xs) (b :: e / prodOf ks :: (ps.zip g.pad).map (fun q => q.1 - q.2))
               (telem x j, 127))
            else (0, 127)
          accRes acc (dotRun o ⟨xf, w.fmt.toNat, tap, fun e => (telem w (c * k + e), 127), k⟩ none)))
    | _, _ => .inl 2

def conv (o : CallOpt) (x w : Tensor) (g : ConvGeom) : CallRes :=
  if !pairAccepted x.fmt.toNat w.fmt.toNat then .inl 1
  else if isBlock x.fmt.toNat then convBlocks o x w g
  else convPlain o x w g

def execThConv (c : CallOpt) (x w : Tensor) (g : ConvGeom) (s : State) : Out := thCall s c 3 [x, w] (fun o => conv o x w g)

/-- A quotient, exact to a guard of 130 bits and a sticky bit. -/
def quotNum (x y : Num) : Num :=
  match x, y with
  | .fin a m e, .fin b n d => if n = 0 then .nan false else
      let (q, g) := divMag m e n d
      .fin (a != b) q g
  | _, _ => .nan false

/-- What ATTENTION keeps for a query row (R531): running maximum, sum of exponentials, partial output, flags. -/
structure AttnRow where
  mx : Option Nat
  sum : Nat
  out : List Nat
  fl : Flags

def attnScale (wide : Bool) (p : Nat) (f : W32) : Nat := (Config.attnScale wide (BitVec.ofNat 128 p) f).toNat

/-- One block of at most 128 keys (R531). `sc` has the score of each key, none where the mask is −∞; `v` is the column of V. -/
def attnBlock (o : CallOpt) (vf : Nat) (v : Nat → KLane) (r : AttnRow) (k0 : Nat) (sc : List (Option Nat)) : AttnRow :=
  let live := sc.filterMap id
  if live.isEmpty then r
  else
    let (mx, f1) := live.foldl (fun (a : Nat × Flags) x => addFlags a.2 (fminBits fp32 true a.1 x)) (r.mx.getD (live.headD 0), 0)
    let diff (x : Nat) : W32 × Flags :=
      let (b, fl) := fsub fp32 0 (fp32.dec x) (fp32.dec mx)
      (BitVec.ofNat 32 b, fl)
    let (sum, out, f2) := match r.mx with
      | none => (r.sum, r.out, (0 : Flags))
      | some old =>
        let (d, fl) := diff old
        (attnScale false r.sum (Config.exp32 d), r.out.map (fun p => attnScale (accWide vf) p (Config.exp32 d)), fl)
    let ps := sc.map (fun x => match x with
      | none => (0, (0 : Flags))
      | some b =>
        let (d, fl) := diff b
        ((Config.exp32 d).toNat, fl))
    let (sum, f3) := ps.foldl (fun (a : Nat × Flags) p => addFlags (a.2 ||| p.2) (pairMerge fp32 a.1 (pairPack fp32 p.1 0))) (sum, 0)
    let prob : List (Nat × Nat) × Flags :=
      if isBlock vf then
        (let bs := blockSize vf
         let cs := (List.range (ps.length / bs)).map (fun j => convBlock 1 vf (rmOf o) (((ps.drop (j * bs)).take bs).map (fun p => fp32.dec p.1)))
         (cs.flatMap (fun c => c.2.1.map (·, c.1)), orFlags (cs.map (fun c => c.2.2))))
      else
        (let cs := ps.map (fun p => convOne 1 vf (rmOf o) (satOf o) p.1)
         (cs.map (fun c => (c.1, 127)), orFlags (cs.map Prod.snd)))
    let outs := out.zipIdx.map (fun e =>
      let d : Dot := ⟨vf, vf, fun j => prob.1.getD j (0, 127), fun j => v e.2 (k0 + j), sc.length⟩
      rowsRun d (tKlen o) (tChain o) (tCont o) 0 (ceilDiv sc.length (geomD vf vf)) (if r.mx.isNone then none else some e.1))
    ⟨some mx, sum, outs.map Prod.fst, r.fl ||| f1 ||| f2 ||| f3 ||| prob.2 ||| orFlags (outs.map Prod.snd)⟩

/-- R531 ATTENTION. Q is [heads…, L_q, d_k], K is [heads…, L_k, d_k], V is [heads…, d_v, L_k], and the mask is [L_q, L_k]. Scores are
rounded to FP32, then scaled, then masked. -/
def attention (o : CallOpt) (q k v : Tensor) (scale : Option W32) (mask : Option Tensor) : CallRes :=
  let qf := q.fmt.toNat
  let kf := k.fmt.toNat
  let vf := v.fmt.toNat
  if !pairAccepted qf kf || !pairAccepted vf vf || !(mask.map (fun t => isFloatFmt t.fmt.toNat)).getD true then .inl 1
  else match q.ext.reverse, k.ext.reverse, v.ext.reverse with
    | dk :: lq :: hs, dk2 :: lk :: hs2, lk2 :: dv :: hs3 =>
      if dk ≠ dk2 || lk ≠ lk2 || hs != hs2 || hs != hs3 || !(mask.map (fun t => t.ext == [lq, lk])).getD true || dk == 0 ||
          !wholeBlocks qf dk || !wholeBlocks kf dk || !wholeBlocks vf lk then .inl 2
      else
        let sc : Nat := match scale with
          | some x => x.toNat
          | none => (roundTo fp32 0 false (quotNum (.fin false 1 0) (let (m, e) := sqrtMag dk 0; .fin false m e))).1
        let acc := dotFmt qf
        let score (h i j : Nat) : Option Nat × Flags :=
          let qr := (h * lq + i) * dk
          let kr := (h * lk + j) * dk
          let (p, f1) := dotRun o ⟨qf, kf, fun e => (telem q (qr + e), texp q (qr + e)), fun e => (telem k (kr + e), texp k (kr + e)), dk⟩ none
          let (b, f2) := convOne acc 1 0 false p
          let (b, f3) := fmul fp32 0 (fp32.dec b) (fp32.dec sc)
          match mask with
          | none => (some b, f1 ||| f2 ||| f3)
          | some t =>
            let m := tval t (i * lk + j)
            if m = .inf true then (none, 0)
            else
              let (c, f4) := fadd fp32 0 (fp32.dec b) m
              (some c, f1 ||| f2 ||| f3 ||| f4)
        let row (h i : Nat) : List (Res × Flags) :=
          let ss := (List.range lk).map (score h i)
          let r := (List.range (ceilDiv lk 128)).foldl (fun r n =>
            attnBlock o vf (fun c j => (telem v ((h * dv + c) * lk + j), texp v ((h * dv + c) * lk + j))) r (128 * n)
              (((ss.drop (128 * n)).take 128).map Prod.fst)) (⟨none, 0, List.replicate dv 0, 0⟩ : AttnRow)
          if r.mx.isNone then List.replicate dv ((none, .fin false 0 0), 0)
          else r.out.map (fun p =>
            ((none, quotNum (pairNum (accFmt (accWide vf)) p) (pairNum fp32 r.sum)), r.fl ||| orFlags (ss.map Prod.snd)))
        finish o 0x19 (hs.reverse ++ [lq, dv]) ((List.range (prodOf hs * lq)).flatMap (fun e => row (e / lq) (e % lq)))
    | _, _, _ => .inl 2

def execThAttention (c : CallOpt) (q k v : Tensor) (scale : Option W32) (mask : Option Tensor) (s : State) : Out :=
  thCall s c 4 ([q, k, v] ++ mask.toList) (fun o => attention o q k v scale mask)

/-- The canonical NaN of a data format (R37). -/
def canonNan (fmt : Nat) : Nat :=
  match ekind fmt with
  | .flt f => f.nanBits
  | .pair f => pairNan f
  | _ => 0

/-- Where MIN and MAX begin: an element that is NaN is the canonical NaN (R37). -/
def extremeStart (fmt a : Nat) : Nat × Flags :=
  let x := elemNum fmt a
  (if x.isNan then canonNan fmt else a, sigFlag [x])

/-- MIN and MAX of R529 on the bits of two elements: exact, in any order, with the special values of FMIN and FMAX (R146). -/
def extreme (fmt : Nat) (mx : Bool) (a b : Nat) : Nat × Flags :=
  let x := elemNum fmt a
  let y := elemNum fmt b
  let fl := sigFlag [x, y]
  if x.isNan then ((extremeStart fmt b).1, fl)
  else if y.isNan then (a, fl)
  else (if (if mx then fminBefore x y else fminBefore y x) then b else a, fl)

/-- R527, R529 REDUCE. -/
def reduce (o : CallOpt) (op : RedOp) (x : Tensor) (axis : Nat) : CallRes :=
  let f := x.fmt.toNat
  let n := x.ext.getD axis 0
  let inner := prodOf (x.ext.drop (axis + 1))
  let outer := prodOf (x.ext.take axis)
  let ext := (x.ext.take axis ++ x.ext.drop (axis + 1))
  if !(isFloatFmt f || isIntFmt f || isPairFmt f) then .inl 1
  else if x.ext.length ≤ axis then .inl 2
  else
    finish o (match op with | .min => f | .max => f | _ => 0x19) (if ext.isEmpty then [1] else ext) ((List.range (outer * inner)).map (fun e =>
      let at0 (j : Nat) : Nat := (e / inner * n + j) * inner + e % inner
      match op with
      | .sum => accRes 0x19 (reduceRun o n (fun j => termOf x (at0 j)))
      | .sumsq => accRes 0x19 (reduceRun o n (fun j => squareOf x (at0 j)))
      | .norm =>
        let (p, f1) := reduceRun o n (fun j => squareOf x (at0 j))
        (match pairNum fp64 p with
          | .fin false a g => let (m, h) := sqrtMag a g; ((none, if a = 0 then .fin false 0 0 else .fin false m h), f1)
          | .fin true a g => ((none, if a = 0 then .fin true a g else .nan false), f1 ||| flagIf (a != 0) fInvalid)
          | v => ((none, v), f1))
      | _ =>
        let mx := decide (op = .max)
        accRes f ((List.range (n - 1)).foldl (fun (a : Nat × Flags) j => addFlags a.2 (extreme f mx a.1 (telem x (at0 (j + 1)))))
          (extremeStart f (telem x (at0 0))))))

def execThReduce (c : CallOpt) (op : RedOp) (x : Tensor) (axis : Nat) (s : State) : Out := thCall s c 5 [x] (fun o => reduce o op x axis)

/-- R527, R530 SCAN. The exclusive sum gives what stands before each element. -/
def scan (o : CallOpt) (incl : Bool) (x : Tensor) (axis : Nat) : CallRes :=
  let f := x.fmt.toNat
  let n := x.ext.getD axis 0
  let inner := prodOf (x.ext.drop (axis + 1))
  if !(isFloatFmt f || isPairFmt f) then .inl 1
  else if x.ext.length ≤ axis then .inl 2
  else
    let lines := (List.range (prodOf (x.ext.take axis) * inner)).map (fun e =>
      scanRun o incl n (fun j => termOf x ((e / inner * n + j) * inner + e % inner)))
    finish o 0x19 x.ext ((List.range (tcount x)).map (fun i =>
      let e := i / (n * inner) * inner + i % inner
      let l := lines.getD e ([], 0)
      (resOf 0x19 (l.1.getD (i / inner % n) 0), l.2)))

def execThScan (c : CallOpt) (inclusive : Bool) (x : Tensor) (axis : Nat) (s : State) : Out :=
  thCall s c 6 [x] (fun o => scan o inclusive x axis)

/-- A function whose result is a mask. -/
def elemMasky (fn : Nat) : Bool := inR fn 0x40 0x46 || inR fn 0x48 0x4B

/-- A function of R187 or R188 that ELEMENTWISE may name. -/
def elemFnOk (fn fmt : Nat) : Bool :=
  (inR fn 0 0x18 || inR fn 0x40 0x46 || inR fn 0x48 0x4B) && (inR fn 0x48 0x4B || fmtAccepted 0x39 fn 1 fmt)

/-- A source is there, and is what the function takes: a mask is the result of a compare or mask function, or an operand. -/
def srcOk (fns : List ElemFn) (xs : List Tensor) (fmt k : Nat) (mask : Bool) (e : ElemSrc) : Bool :=
  match e with
  | .result j => decide (j < k) && (fns[j]?.map (fun g => elemMasky g.fn.toNat == mask)).getD false
  | .operand j => (xs[j]?.map (fun t => mask || t.fmt.toNat == fmt)).getD false

/-- The sources that function `k` of a sequence takes. -/
def elemSrcsOk (fns : List ElemFn) (xs : List Tensor) (fmt k : Nat) (g : ElemFn) : Bool :=
  let fn := g.fn.toNat
  let mask := inR fn 0x48 0x4B
  let two := inR fn 0 5 || fn == 7 || fn == 8 || fn == 0x0E || inR fn 0x11 0x17 || inR fn 0x40 0x45 || inR fn 0x48 0x4A
  (fn == 0x10 || fn == 0x18 || srcOk fns xs fmt k mask g.a) && (!two || srcOk fns xs fmt k mask g.b) &&
    (!inR fn 3 4 || srcOk fns xs fmt k false g.d) && (fn != 0x17 || srcOk fns xs fmt k true g.m)

/-- An operand of element `i`: what an earlier function gave, or an element of a tensor. -/
def elemSrc (xs : List Tensor) (i : Nat) (rs : List Nat) : ElemSrc → Nat
  | .result k => rs.getD k 0
  | .operand k => (xs[k]?.map (fun t => telem t i)).getD 0

/-- One function of a fused sequence, behind the results of those before it. -/
def elemStep (fmt : Nat) (rm : BitVec 2) (xs : List Tensor) (i : Nat) (st : List Nat × Flags) (g : ElemFn) : List Nat × Flags :=
  let src := elemSrc xs i st.1
  let fn := g.fn.toNat
  if inR fn 0x48 0x4B then (st.1 ++ [maskElem fn (src g.a % 2) (src g.b % 2)], st.2)
  else
    let (v, fl) := vecElem fn fmt fmt rm false (src g.d) (src g.a) (src g.b) g.s (src g.m % 2 == 1) 127 i
    (st.1 ++ [v], st.2 ||| fl)

/-- R527 ELEMENTWISE: the result of the last function. A compare or a mask function gives 0 and 1 (log 55). -/
def elementwise (o : CallOpt) (fns : List ElemFn) (xs : List Tensor) : CallRes :=
  let x := xs.headD ⟨0, [], [], []⟩
  let f := x.fmt.toNat
  let masky := (fns.getLast?.map (fun g => elemMasky g.fn.toNat)).getD false
  if xs.isEmpty || fns.isEmpty || !fns.all (fun g => elemFnOk g.fn.toNat f) || !fns.zipIdx.all (fun e => elemSrcsOk fns xs f e.2 e.1) then .inl 1
  else if !xs.all (fun t => t.ext == x.ext) then .inl 2
  else finish o f x.ext ((List.range (tcount x)).map (fun i =>
    let (rs, fl) := fns.foldl (elemStep f (rmOf o) xs i) ([], 0)
    let r := rs.getLastD 0
    (if masky then (none, .fin false r 0) else resOf f r, fl)))

def execThElementwise (c : CallOpt) (fns : List ElemFn) (x : Tensor) (xs : List Tensor) (s : State) : Out :=
  thCall s c 7 (x :: xs) (fun o => elementwise o fns (x :: xs))

/-- A complex point: bits of the real and the imaginary plane. -/
abbrev Cpx := Nat × Nat

/-- Twiddles on the vector engine: each component is a VMUL and a VFMA or VFNMA. -/
def twiddle (f : FFmt) (z : Cpx) (c s : Nat) : Cpx × Flags :=
  let (a, f1) := fmul f 0 (f.dec z.1) (f.dec c)
  let (re, f2) := ffma f 0 true (f.dec a) (f.dec z.2) (f.dec s)
  let (b, f3) := fmul f 0 (f.dec z.1) (f.dec s)
  let (im, f4) := ffma f 0 false (f.dec b) (f.dec z.2) (f.dec c)
  ((re, im), f1 ||| f2 ||| f3 ||| f4)

/-- Entry of the DFT matrix; the inverse takes the conjugate. -/
def dftEntry (fmt len : Nat) (inv : Bool) (r c : Nat) : Cpx :=
  let w := 2 ^ ebits fmt
  let s := (Config.dftIm fmt len r c).toNat % w
  ((Config.dftRe fmt len r c).toNat % w, if inv then (fnegBits (floatOf fmt) s).1 else s)

/-- A stage of at most 128 points: a MATMUL by the DFT matrix, the imaginary part of the sum after the real one along K. Its results are
accumulator pairs. -/
def dftPairs (o : CallOpt) (fmt : Nat) (inv : Bool) (zs : List Cpx) : List Cpx × Flags :=
  let n := zs.length
  let f := floatOf fmt
  let dot (x w : Nat → Nat) : Nat × Flags := dotRun o ⟨fmt, fmt, fun e => (x e, 127), fun e => (w e, 127), 2 * n⟩ none
  let x (e : Nat) : Nat := if e < n then (zs.getD e (0, 0)).1 else (zs.getD (e - n) (0, 0)).2
  let rs := (List.range n).map (fun k =>
    let m (e : Nat) : Cpx := dftEntry fmt n inv k (e % n)
    let (re, f1) := dot x (fun e => if e < n then (m e).1 else (fnegBits f (m e).2).1)
    let (im, f2) := dot x (fun e => if e < n then (m e).2 else (m e).1)
    ((re, im), f1 ||| f2))
  (rs.map Prod.fst, orFlags (rs.map Prod.snd))

/-- A stage that another follows is written in the format of the planes, which the twiddles and the next stage read (R527, R528). -/
def dftStage (o : CallOpt) (fmt : Nat) (inv : Bool) (zs : List Cpx) : List Cpx × Flags :=
  let (ps, f0) := dftPairs o fmt inv zs
  let rs := ps.map (fun p =>
    let (re, f1) := convOne (dotFmt fmt) fmt (rmOf o) (satOf o) p.1
    let (im, f2) := convOne (dotFmt fmt) fmt (rmOf o) (satOf o) p.2
    ((re, im), f1 ||| f2))
  (rs.map Prod.fst, f0 ||| orFlags (rs.map Prod.snd))

/-- Stages of radix 128 (R527): a transform of 128 over the stride, twiddles, and the transform of what is left. The results of the last
stage stay pairs, which are rounded once (R528). -/
def fftGo (o : CallOpt) (fmt : Nat) (inv : Bool) : Nat → List Cpx → List Cpx × Flags
  | 0, zs => dftPairs o fmt inv zs
  | n + 1, zs =>
    let len := zs.length
    if len ≤ 128 then dftPairs o fmt inv zs
    else
      let m := len / 128
      let cols := (List.range m).map (fun j => dftStage o fmt inv ((List.range 128).map (fun i => zs.getD (i * m + j) (0, 0))))
      let rows := (List.range 128).map (fun k =>
        let tws := cols.zipIdx.map (fun c =>
          let (re, im) := dftEntry fmt len inv k c.2
          twiddle (floatOf fmt) (c.1.1.getD k (0, 0)) re im)
        let (r, fl) := fftGo o fmt inv n (tws.map Prod.fst)
        (r, fl ||| orFlags (tws.map Prod.snd)))
      ((List.range len).map (fun i => (rows.getD (i % 128) ([], 0)).1.getD (i / 128) (0, 0)),
        orFlags (cols.map Prod.snd) ||| orFlags (rows.map Prod.snd))

/-- R527 FFT along the innermost dimension; the inverse is divided by the length, a power of two (log 56). -/
def fft (o : CallOpt) (inv : Bool) (re im : Tensor) : CallRes :=
  let f := re.fmt.toNat
  let n := innerOf re.ext
  let a := Nat.log2 n
  if f ≠ im.fmt.toNat || !(f == 0 || f == 1 || f == 3) || !fmtOk o.outFmt.toNat then .inl 1
  else if re.ext != im.ext || n ≠ 2 ^ a || !inR a 7 24 then .inl 2
  else
    let acc := dotFmt f
    let lines := (List.range (tcount re / n)).map (fun l =>
      fftGo o f inv a ((List.range n).map (fun j => (telem re (l * n + j), telem im (l * n + j)))))
    let plane (p : Cpx → Nat) : CallRes := finish o acc re.ext (lines.flatMap (fun l => l.1.map (fun z =>
      (if inv then (none, (elemNum acc (p z)).scale (-(a : Int))) else resOf acc (p z), l.2))))
    joinRes [plane Prod.fst, plane Prod.snd]

def execThFft (c : CallOpt) (inverse : Bool) (re im : Tensor) (s : State) : Out := thCall s c 8 [re, im] (fun o => fft o inverse re im)

def intsLt : List Int → List Int → Bool
  | a :: r, b :: q => decide (a < b) || (a == b && intsLt r q)
  | [], _ :: _ => true
  | _, [] => false

def insertPoint (p : List Int × W64) : List (List Int × W64) → List (List Int × W64)
  | [] => [p]
  | q :: r => if intsLt p.1 q.1 then p :: q :: r else q :: insertPoint p r

/-- The points in increasing (z, y, x) offset. -/
def sortPoints (l : List (List Int × W64)) : List (List Int × W64) := l.foldr insertPoint []

def Tensor.key (x : Tensor) : Nat × List Nat × List Byte := (x.fmt.toNat, x.ext, x.data)

/-- R527 STENCIL over the last dimensions. A result with a neighbour that no member holds is an open value of the call's arguments
(log 6). -/
def stencil (o : CallOpt) (x : Tensor) (offsets : List (List Int)) (weights : List W64) : CallRes :=
  let f := x.fmt.toNat
  let dims := (offsets.headD []).length
  let far := (offsets.flatMap id).map Int.natAbs
  if f ≠ 0 ∧ f ≠ 1 then .inl 1
  else if offsets.isEmpty || weights.length != offsets.length || !offsets.all (fun p => p.length == dims) || !inR dims 1 3 ||
      decide (x.ext.length < dims) || !inR (far.foldl max 0) 1 4 then .inl 2
  else
    let pts := sortPoints (offsets.zip weights)
    let lead := x.ext.length - dims
    finish o 0x19 x.ext ((List.range (tcount x)).map (fun i =>
      let at0 := unravel x.ext i
      let place (p : List Int) : List Int := ((at0.drop lead).zip p).map (fun e => (e.1 : Int) + e.2)
      let inside (p : List Int) : Bool := ((place p).zip (x.ext.drop lead)).all (fun e => decide (0 ≤ e.1) && decide (e.1 < e.2))
      if pts.all (fun p => inside p.1) then
        accRes 0x19 (pts.foldl (fun (acc : Nat × Flags) p =>
          let j := ravel x.ext (at0.take lead ++ (place p.1).map Int.toNat)
          let (v, f1) := mulNum (elemNum f (p.2.toNat % 2 ^ ebits f)) (tval x j)
          let (t, f2) := splitNum fp64 v
          addFlags (acc.2 ||| f1 ||| f2) (pairMerge fp64 acc.1 t)) (0, 0))
      else (resOf 0 (Config.openElem o.tiling [Tensor.key x] pts i).toNat, 0)))

def execThStencil (c : CallOpt) (x : Tensor) (offsets : List (List Int)) (weights : List W64) (s : State) : Out :=
  thCall s c 9 [x] (fun o => stencil o x offsets weights)

/-- A signed element index of GATHER and SCATTER (R195), if it names an element. -/
def indexOf (idx : Tensor) (i n : Nat) : Option Nat :=
  let v := intOf (ebits idx.fmt.toNat) (telem idx i)
  if 0 ≤ v ∧ v < n then some v.toNat else none

/-- R527 GATHER. What an index outside x gives is an open value of the call's arguments (log 6). -/
def gather (o : CallOpt) (x idx : Tensor) : CallRes :=
  let f := x.fmt.toNat
  if !fmtAccepted 0x3B 0 1 f || !isIntFmt idx.fmt.toNat then .inl 1
  else finish o f idx.ext ((List.range (tcount idx)).map (fun i =>
    match indexOf idx i (tcount x) with
    | some j => (resOf f (telem x j), 0)
    | none => (resOf f ((Config.openElem o.tiling [Tensor.key x, Tensor.key idx] [] i).toNat % 2 ^ ebits f), 0)))

def execThGather (c : CallOpt) (x idx : Tensor) (s : State) : Out :=
  thCall s c 10 [x, idx] (fun o => gather o x idx)

/-- The pair in which ACCUM merges elements of a format (R41, R527); integers and P64x2 in P64x2 (log 57). -/
def accumFmt (fmt : Nat) : Nat := if accWide fmt || isIntFmt fmt || fmt == 0x19 then 0x19 else 0x18

/-- R527 SCATTER into x: the highest i stays, or pairs merge in increasing i and are rounded once. An index outside x touches no
element of x. -/
def scatter (o : CallOpt) (x idx y : Tensor) (accum : Bool) : CallRes :=
  let f := x.fmt.toNat
  let dst := accumFmt f
  let hits (j : Nat) : List Nat := (List.range (tcount idx)).filter (fun i => indexOf idx i (tcount x) == some j)
  if !fmtAccepted 0x3B 1 1 f || !isIntFmt idx.fmt.toNat || y.fmt.toNat ≠ f then .inl 1
  else if y.ext != idx.ext then .inl 2
  else if accum then
    finish o dst x.ext ((List.range (tcount x)).map (fun j =>
      accRes dst ((hits j).foldl (fun (acc : Nat × Flags) i =>
        let (t, f1) := pairOf f dst (telem y i) (tval y i)
        addFlags (acc.2 ||| f1) (pairMerge (if dst = 0x19 then fp64 else fp32) acc.1 t)) (pairOf f dst (telem x j) (tval x j)))))
  else
    finish o f x.ext ((List.range (tcount x)).map (fun j =>
      (resOf f (match (hits j).getLast? with | some i => telem y i | none => telem x j), 0)))

def execThScatter (c : CallOpt) (x idx y : Tensor) (accum : Bool) (s : State) : Out :=
  thCall s c 10 [x, idx, y] (fun o => scatter o x idx y accum)

/-- R527 CONVERT. -/
def convert (o : CallOpt) (x : Tensor) : CallRes :=
  let f := x.fmt.toNat
  if !fmtOk f || !fmtOk o.outFmt.toNat then .inl 1
  else if !wholeBlocks f (innerOf x.ext) then .inl 2
  else if f = o.outFmt.toNat then .inr ([x], 0)
  else finish o f x.ext ((List.range (tcount x)).map (fun i =>
    (if isBlock f then (none, tval x i) else resOf f (telem x i), 0)))

def execThConvert (c : CallOpt) (x : Tensor) (s : State) : Out := thCall s c 11 [x] (fun o => convert o x)

/-- Element by element, the partials of an exchange in the record's ORDER (R535). -/
def mergeShares (o : CallOpt) (shares : List Tensor) (x : Tensor) : List (Res × Flags) :=
  let dst := if x.fmt.toNat = 0x18 then 0x18 else 0x19
  let f := if dst = 0x18 then fp32 else fp64
  (List.range (tcount x)).map (fun i =>
    let ts := shares.map (fun t => pairOf t.fmt.toNat dst (telem t i) (tval t i))
    accRes dst (addFlags (orFlags (ts.map Prod.snd)) (combine (tTree o) f (ts.map Prod.fst))))

/-- R527, R535 EXCHANGE. Shares stand in increasing partial index; the outputs are the members'. -/
def exchange (members : Nat) (o : CallOpt) (op : ExchOp) (shares : List Tensor) : CallRes :=
  match shares with
  | [] => .inl 2
  | x :: _ =>
    let f := x.fmt.toNat
    let dst := if f = 0x18 then 0x18 else 0x19
    let red := isFloatFmt f || isPairFmt f
    let one (i : Nat) : CallRes := match shares[i]? with
      | some t => convert o t
      | none => .inl 2
    if !shares.all (fun t => t.fmt == x.fmt) || !fmtOk f then .inl 1
    else match op with
      | .allReduce => if !red then .inl 1 else if !shares.all (fun t => t.ext == x.ext) then .inl 2
        else joinRes (List.replicate members (finish o dst x.ext (mergeShares o shares x)))
      | .reduceScatter => if !red then .inl 1
        else if !shares.all (fun t => t.ext == x.ext) || members == 0 || x.ext.headD 0 % members != 0 then .inl 2
        else
          (let all := mergeShares o shares x
           let n := all.length / members
           joinRes ((List.range members).map (fun q =>
            finish o dst (x.ext.headD 0 / members :: x.ext.drop 1) ((all.drop (q * n)).take n))))
      | .allGather => if !shares.all (fun t => t.ext.drop 1 == x.ext.drop 1) then .inl 2
        else joinRes (List.replicate members (convert o
          ⟨x.fmt, (shares.map (fun t => t.ext.headD 0)).foldl (· + ·) 0 :: x.ext.drop 1, shares.flatMap Tensor.data, shares.flatMap Tensor.scale⟩))
      | .broadcast root => joinRes (List.replicate members (one root))
      | .send src dst => if dst < members then one src else .inl 2

/-- Source and receiver of every push of an exchange (R535). -/
def pushPairs (members : Nat) (op : ExchOp) : List (Nat × Nat) :=
  let all := (List.range members).flatMap (fun a => ((List.range members).filter (· != a)).map (fun b => (a, b)))
  match op with
  | .broadcast root => all.filter (fun e => e.1 == root)
  | .send a b => all.filter (fun e => e.1 == a && e.2 == b)
  | _ => all

/-- The pushes of a call, which Thehus records with it: each has a range of the receiver's data region (R525). -/
def pushesOf (d : Device) (o : CallOpt) (op : ExchOp) : List Push :=
  (pushPairs d.members.length op).map (fun e =>
    let (off, len) := Config.pushRange o.tiling e.1
    ⟨e.1, e.2, flagBytes d.members.length + off, len⟩)

/-- R535, R537 EXCHANGE: each poll that finds an older step number counts. -/
def execThExchange (c : CallOpt) (op : ExchOp) (shares : List Tensor) (late : Nat) (s : State) : Out :=
  match tfind s.lib.devs c.dev with
  | none => .next s
  | some d =>
    thCall { s with lib := { s.lib with devs := tput s.lib.devs c.dev { d with late := d.late + late, pushes := pushesOf d c op } } } c 12 shares
      (fun o => exchange d.members.length o op shares)

end Sys2Proof.Machine
end

