-- ==== Sys2Proof/Machine/Dispatch.lean ====
section
/-!
DEFINITION. What each command does to everything but the queue: one arm per constructor, one direct call each.
-/
namespace Sys2Proof.Machine

def exec (i : Instr) (s : State) : Host.Outcome State Fault Refusal :=
  match i with
  | .pllLossOfLock n => Sys2Proof.Machine.execPllLossOfLock n s
  | .ucieModuleOutOfService l md => Sys2Proof.Machine.execUcieModuleOutOfService l md s
  | .linkReplayComplete inp => Sys2Proof.Machine.execLinkReplayComplete inp s
  | .add o => Sys2Proof.Machine.execAdd o s
  | .sub o => Sys2Proof.Machine.execSub o s
  | .iand o => Sys2Proof.Machine.execIand o s
  | .ior o => Sys2Proof.Machine.execIor o s
  | .ixor o => Sys2Proof.Machine.execIxor o s
  | .sll o => Sys2Proof.Machine.execSll o s
  | .srl o => Sys2Proof.Machine.execSrl o s
  | .sra o => Sys2Proof.Machine.execSra o s
  | .slt o => Sys2Proof.Machine.execSlt o s
  | .sltu o => Sys2Proof.Machine.execSltu o s
  | .imin o => Sys2Proof.Machine.execImin o s
  | .imax o => Sys2Proof.Machine.execImax o s
  | .minu o => Sys2Proof.Machine.execMinu o s
  | .maxu o => Sys2Proof.Machine.execMaxu o s
  | .mul o => Sys2Proof.Machine.execMul o s
  | .mulh o => Sys2Proof.Machine.execMulh o s
  | .mulhu o => Sys2Proof.Machine.execMulhu o s
  | .div o => Sys2Proof.Machine.execDiv o s
  | .divu o => Sys2Proof.Machine.execDivu o s
  | .rem o => Sys2Proof.Machine.execRem o s
  | .remu o => Sys2Proof.Machine.execRemu o s
  | .popc o => Sys2Proof.Machine.execPopc o s
  | .clz o => Sys2Proof.Machine.execClz o s
  | .ctz o => Sys2Proof.Machine.execCtz o s
  | .addi o => Sys2Proof.Machine.execAddi o s
  | .andi o => Sys2Proof.Machine.execAndi o s
  | .ori o => Sys2Proof.Machine.execOri o s
  | .xori o => Sys2Proof.Machine.execXori o s
  | .slti o => Sys2Proof.Machine.execSlti o s
  | .shiSll o => Sys2Proof.Machine.execShiSll o s
  | .shiSrl o => Sys2Proof.Machine.execShiSrl o s
  | .shiSra o => Sys2Proof.Machine.execShiSra o s
  | .lui o => Sys2Proof.Machine.execLui o s
  | .beq o => Sys2Proof.Machine.execBeq o s
  | .bne o => Sys2Proof.Machine.execBne o s
  | .blt o => Sys2Proof.Machine.execBlt o s
  | .bge o => Sys2Proof.Machine.execBge o s
  | .bltu o => Sys2Proof.Machine.execBltu o s
  | .bgeu o => Sys2Proof.Machine.execBgeu o s
  | .jal o => Sys2Proof.Machine.execJal o s
  | .jalr o => Sys2Proof.Machine.execJalr o s
  | .fadd o => Sys2Proof.Machine.execFadd o s
  | .fsub o => Sys2Proof.Machine.execFsub o s
  | .fmul o => Sys2Proof.Machine.execFmul o s
  | .fma o => Sys2Proof.Machine.execFma o s
  | .fnma o => Sys2Proof.Machine.execFnma o s
  | .fdiv o => Sys2Proof.Machine.execFdiv o s
  | .fsqrt o => Sys2Proof.Machine.execFsqrt o s
  | .fmin o => Sys2Proof.Machine.execFmin o s
  | .fmax o => Sys2Proof.Machine.execFmax o s
  | .feq o => Sys2Proof.Machine.execFeq o s
  | .flt o => Sys2Proof.Machine.execFlt o s
  | .fle o => Sys2Proof.Machine.execFle o s
  | .fabs o => Sys2Proof.Machine.execFabs o s
  | .fneg o => Sys2Proof.Machine.execFneg o s
  | .frcp o => Sys2Proof.Machine.execFrcp o s
  | .cvt o => Sys2Proof.Machine.execCvt o s
  | .lb o => Sys2Proof.Machine.execLb o s
  | .lbu o => Sys2Proof.Machine.execLbu o s
  | .lh o => Sys2Proof.Machine.execLh o s
  | .lhu o => Sys2Proof.Machine.execLhu o s
  | .lw o => Sys2Proof.Machine.execLw o s
  | .lwu o => Sys2Proof.Machine.execLwu o s
  | .ld o => Sys2Proof.Machine.execLd o s
  | .lq o => Sys2Proof.Machine.execLq o s
  | .sb o => Sys2Proof.Machine.execSb o s
  | .sh o => Sys2Proof.Machine.execSh o s
  | .sw o => Sys2Proof.Machine.execSw o s
  | .sd o => Sys2Proof.Machine.execSd o s
  | .sq o => Sys2Proof.Machine.execSq o s
  | .lds o => Sys2Proof.Machine.execLds o s
  | .sts o => Sys2Proof.Machine.execSts o s
  | .swap o => Sys2Proof.Machine.execSwap o s
  | .cas o => Sys2Proof.Machine.execCas o s
  | .amoAdd o => Sys2Proof.Machine.execAmoAdd o s
  | .amoAnd o => Sys2Proof.Machine.execAmoAnd o s
  | .amoOr o => Sys2Proof.Machine.execAmoOr o s
  | .amoXor o => Sys2Proof.Machine.execAmoXor o s
  | .amoMin o => Sys2Proof.Machine.execAmoMin o s
  | .amoMax o => Sys2Proof.Machine.execAmoMax o s
  | .amoMinu o => Sys2Proof.Machine.execAmoMinu o s
  | .amoMaxu o => Sys2Proof.Machine.execAmoMaxu o s
  | .ldAcq o => Sys2Proof.Machine.execLdAcq o s
  | .stRel o => Sys2Proof.Machine.execStRel o s
  | .rel o => Sys2Proof.Machine.execRel o s
  | .acqA o => Sys2Proof.Machine.execAcqA o s
  | .acqR o => Sys2Proof.Machine.execAcqR o s
  | .barSync o => Sys2Proof.Machine.execBarSync o s
  | .barArrive o => Sys2Proof.Machine.execBarArrive o s
  | .cacheInvp o => Sys2Proof.Machine.execCacheInvp o s
  | .srRd o => Sys2Proof.Machine.execSrRd o s
  | .srWr o => Sys2Proof.Machine.execSrWr o s
  | .mxChainWrite o => Sys2Proof.Machine.execMxChainWrite o s
  | .veFlagsAccess o wr => Sys2Proof.Machine.execVeFlagsAccess o wr s
  | .trcMark o => Sys2Proof.Machine.execTrcMark o s
  | .nop o => Sys2Proof.Machine.execNop o s
  | .ctlEnd o => Sys2Proof.Machine.execCtlEnd o s
  | .kernelEnd k => Sys2Proof.Machine.execKernelEnd k s
  | .exit o => Sys2Proof.Machine.execExit o s
  | .cvYield o => Sys2Proof.Machine.execCvYield o s
  | .cvConv o => Sys2Proof.Machine.execCvConv o s
  | .brk o => Sys2Proof.Machine.execBrk o s
  | .cvLaunch o => Sys2Proof.Machine.execCvLaunch o s
  | .cvWait o => Sys2Proof.Machine.execCvWait o s
  | .cvMma o => Sys2Proof.Machine.execCvMma o s
  | .collectiveConverge k v => Sys2Proof.Machine.execCollectiveConverge k v s
  | .collectiveGrant k => Sys2Proof.Machine.execCollectiveGrant k s
  | .collectiveSectionFree k sec => Sys2Proof.Machine.execCollectiveSectionFree k sec s
  | .collectiveCReadable k v => Sys2Proof.Machine.execCollectiveCReadable k v s
  | .yieldWindowEnd k => Sys2Proof.Machine.execYieldWindowEnd k s
  | .arrayStreamExit k => Sys2Proof.Machine.execArrayStreamExit k s
  | .mtWr o => Sys2Proof.Machine.execMtWr o s
  | .mtRdl o => Sys2Proof.Machine.execMtRdl o s
  | .mtRdh o => Sys2Proof.Machine.execMtRdh o s
  | .mxPass o => Sys2Proof.Machine.execMxPass o s
  | .mxDrain o => Sys2Proof.Machine.execMxDrain o s
  | .passValidate k => Sys2Proof.Machine.execPassValidate k s
  | .weightBandWrite k => Sys2Proof.Machine.execWeightBandWrite k s
  | .weightFrontStart k => Sys2Proof.Machine.execWeightFrontStart k s
  | .passLastVector k => Sys2Proof.Machine.execPassLastVector k s
  | .accumulatorWrite k => Sys2Proof.Machine.execAccumulatorWrite k s
  | .passDone k => Sys2Proof.Machine.execPassDone k s
  | .xRecordRelease k => Sys2Proof.Machine.execXRecordRelease k s
  | .drainRowWrite k => Sys2Proof.Machine.execDrainRowWrite k s
  | .chainStepCompare k => Sys2Proof.Machine.execChainStepCompare k s
  | .chainStepStart k => Sys2Proof.Machine.execChainStepStart k s
  | .chainMemberFrontStart k => Sys2Proof.Machine.execChainMemberFrontStart k s
  | .vadd o => Sys2Proof.Machine.execVadd o s
  | .vsub o => Sys2Proof.Machine.execVsub o s
  | .vmul o => Sys2Proof.Machine.execVmul o s
  | .vfma o => Sys2Proof.Machine.execVfma o s
  | .vfnma o => Sys2Proof.Machine.execVfnma o s
  | .vdiv o => Sys2Proof.Machine.execVdiv o s
  | .vsqrt o => Sys2Proof.Machine.execVsqrt o s
  | .vmin o => Sys2Proof.Machine.execVmin o s
  | .vmax o => Sys2Proof.Machine.execVmax o s
  | .vabs o => Sys2Proof.Machine.execVabs o s
  | .vneg o => Sys2Proof.Machine.execVneg o s
  | .vrcp o => Sys2Proof.Machine.execVrcp o s
  | .vadds o => Sys2Proof.Machine.execVadds o s
  | .vmuls o => Sys2Proof.Machine.execVmuls o s
  | .vfmas o => Sys2Proof.Machine.execVfmas o s
  | .vmov o => Sys2Proof.Machine.execVmov o s
  | .vbcast o => Sys2Proof.Machine.execVbcast o s
  | .vand o => Sys2Proof.Machine.execVand o s
  | .vor o => Sys2Proof.Machine.execVor o s
  | .vxor o => Sys2Proof.Machine.execVxor o s
  | .vsll o => Sys2Proof.Machine.execVsll o s
  | .vsrl o => Sys2Proof.Machine.execVsrl o s
  | .vsra o => Sys2Proof.Machine.execVsra o s
  | .vsel o => Sys2Proof.Machine.execVsel o s
  | .viota o => Sys2Proof.Machine.execViota o s
  | .vceq o => Sys2Proof.Machine.execVceq o s
  | .vcne o => Sys2Proof.Machine.execVcne o s
  | .vclt o => Sys2Proof.Machine.execVclt o s
  | .vcle o => Sys2Proof.Machine.execVcle o s
  | .vcltu o => Sys2Proof.Machine.execVcltu o s
  | .vcleu o => Sys2Proof.Machine.execVcleu o s
  | .vcnan o => Sys2Proof.Machine.execVcnan o s
  | .vmand o => Sys2Proof.Machine.execVmand o s
  | .vmor o => Sys2Proof.Machine.execVmor o s
  | .vmxor o => Sys2Proof.Machine.execVmxor o s
  | .vmnot o => Sys2Proof.Machine.execVmnot o s
  | .vcvt o => Sys2Proof.Machine.execVcvt o s
  | .vcvtBexp o => Sys2Proof.Machine.execVcvtBexp o s
  | .vpmerge o => Sys2Proof.Machine.execVpmerge o s
  | .vAny o => Sys2Proof.Machine.execVAny o s
  | .vAll o => Sys2Proof.Machine.execVAll o s
  | .vCount o => Sys2Proof.Machine.execVCount o s
  | .vFirst o => Sys2Proof.Machine.execVFirst o s
  | .vsumMin o => Sys2Proof.Machine.execVsumMin o s
  | .vsumMax o => Sys2Proof.Machine.execVsumMax o s
  | .vSum o => Sys2Proof.Machine.execVSum o s
  | .vNorm o => Sys2Proof.Machine.execVNorm o s
  | .vgather o ch => Sys2Proof.Machine.execVgather o ch s
  | .vscatter o ch => Sys2Proof.Machine.execVscatter o ch s
  | .vwWr0 o => Sys2Proof.Machine.execVwWr0 o s
  | .vwWr1 o => Sys2Proof.Machine.execVwWr1 o s
  | .vwRd0 o => Sys2Proof.Machine.execVwRd0 o s
  | .vwRd1 o => Sys2Proof.Machine.execVwRd1 o s
  | .vlSet o => Sys2Proof.Machine.execVlSet o s
  | .vlGet o => Sys2Proof.Machine.execVlGet o s
  | .vectorQueueHead k => Sys2Proof.Machine.execVectorQueueHead k s
  | .vectorComplete k u => Sys2Proof.Machine.execVectorComplete k u s
  | .dmaSub o => Sys2Proof.Machine.execDmaSub o s
  | .dmaWait o => Sys2Proof.Machine.execDmaWait o s
  | .spPmap o => Sys2Proof.Machine.execSpPmap o s
  | .spRingWr o => Sys2Proof.Machine.execSpRingWr o s
  | .spRingRd o word1 => Sys2Proof.Machine.execSpRingRd o word1 s
  | .spTagFull o => Sys2Proof.Machine.execSpTagFull o s
  | .spTagEmpty o => Sys2Proof.Machine.execSpTagEmpty o s
  | .transitEnd k g => Sys2Proof.Machine.execTransitEnd k g s
  | .tagWaitRetry k => Sys2Proof.Machine.execTagWaitRetry k s
  | .ringSlotReturn k slot => Sys2Proof.Machine.execRingSlotReturn k slot s
  | .dmaDispatch e => Sys2Proof.Machine.execDmaDispatch e s
  | .dmaTranslationDone k seq => Sys2Proof.Machine.execDmaTranslationDone k seq s
  | .dmaFirstRequest k seq => Sys2Proof.Machine.execDmaFirstRequest k seq s
  | .dmaComplete k seq => Sys2Proof.Machine.execDmaComplete k seq s
  | .rdS c line => Sys2Proof.Machine.execRdS c line s
  | .rdX c line => Sys2Proof.Machine.execRdX c line s
  | .upg c line => Sys2Proof.Machine.execUpg c line s
  | .sf c line => Sys2Proof.Machine.execSf c line s
  | .wt c line => Sys2Proof.Machine.execWt c line s
  | .ucRd c line => Sys2Proof.Machine.execUcRd c line s
  | .ucWr c line => Sys2Proof.Machine.execUcWr c line s
  | .amoH c line => Sys2Proof.Machine.execAmoH c line s
  | .wb c line => Sys2Proof.Machine.execWb c line s
  | .evc c line => Sys2Proof.Machine.execEvc c line s
  | .dmaRd a line => Sys2Proof.Machine.execDmaRd a line s
  | .dmaWr a line => Sys2Proof.Machine.execDmaWr a line s
  | .homeTransactionStart line => Sys2Proof.Machine.execHomeTransactionStart line s
  | .dataS c line => Sys2Proof.Machine.execDataS c line s
  | .dataE c line => Sys2Proof.Machine.execDataE c line s
  | .dataX c line => Sys2Proof.Machine.execDataX c line s
  | .gnt c line => Sys2Proof.Machine.execGnt c line s
  | .dataU a line => Sys2Proof.Machine.execDataU a line s
  | .ack a line => Sys2Proof.Machine.execAck a line s
  | .invMsg c line => Sys2Proof.Machine.execInvMsg c line s
  | .fwdS c line => Sys2Proof.Machine.execFwdS c line s
  | .fwdX c line => Sys2Proof.Machine.execFwdX c line s
  | .fwdR c line => Sys2Proof.Machine.execFwdR c line s
  | .invAck c line => Sys2Proof.Machine.execInvAck c line s
  | .fwdData c line => Sys2Proof.Machine.execFwdData c line s
  | .nohold c line => Sys2Proof.Machine.execNohold c line s
  | .homeTimeout line c => Sys2Proof.Machine.execHomeTimeout line c s
  | .correctedError p => Sys2Proof.Machine.execCorrectedError p s
  | .wayOutOfService st unit way => Sys2Proof.Machine.execWayOutOfService st unit way s
  | .eccUncorrectable p => Sys2Proof.Machine.execEccUncorrectable p s
  | .pageWalk c ctx vpn => Sys2Proof.Machine.execPageWalk c ctx vpn s
  | .translationCommandDoorbell f tail => Sys2Proof.Machine.execTranslationCommandDoorbell f tail s
  | .invRange f cmd => Sys2Proof.Machine.execInvRange f cmd s
  | .invCtx f cmd => Sys2Proof.Machine.execInvCtx f cmd s
  | .resolve f cmd => Sys2Proof.Machine.execResolve f cmd s
  | .invalidationDrainComplete f => Sys2Proof.Machine.execInvalidationDrainComplete f s
  | .laneSignalDetect p groups => Sys2Proof.Machine.execLaneSignalDetect p groups s
  | .trainComplete p groups peerWidth => Sys2Proof.Machine.execTrainComplete p groups peerWidth s
  | .helloFrame p h => Sys2Proof.Machine.execHelloFrame p h s
  | .secureComplete p peer => Sys2Proof.Machine.execSecureComplete p peer s
  | .rangeComplete p rtt => Sys2Proof.Machine.execRangeComplete p rtt s
  | .portStateTimeout p => Sys2Proof.Machine.execPortStateTimeout p s
  | .portRetry p => Sys2Proof.Machine.execPortRetry p s
  | .laneGroupLoss p g => Sys2Proof.Machine.execLaneGroupLoss p g s
  | .widthComplete p => Sys2Proof.Machine.execWidthComplete p s
  | .flitArrival p f => Sys2Proof.Machine.execFlitArrival p f s
  | .packetForward input vc => Sys2Proof.Machine.execPacketForward input vc s
  | .rdReq => Sys2Proof.Machine.execRdReq s
  | .rdRsp => Sys2Proof.Machine.execRdRsp s
  | .wrReq => Sys2Proof.Machine.execWrReq s
  | .wrAck => Sys2Proof.Machine.execWrAck s
  | .mgmt => Sys2Proof.Machine.execMgmt s
  | .eventPkt => Sys2Proof.Machine.execEventPkt s
  | .fabTxnTimeout id => Sys2Proof.Machine.execFabTxnTimeout id s
  | .eventFlush => Sys2Proof.Machine.execEventFlush s
  | .linkKeySwitch p => Sys2Proof.Machine.execLinkKeySwitch p s
  | .beaconEdge inp => Sys2Proof.Machine.execBeaconEdge inp s
  | .holdWindowStart => Sys2Proof.Machine.execHoldWindowStart s
  | .rangingProbe p token => Sys2Proof.Machine.execRangingProbe p token s
  | .rangingFrameSend p => Sys2Proof.Machine.execRangingFrameSend p s
  | .rangingFrame p w0 w1 w2 w3 => Sys2Proof.Machine.execRangingFrame p w0 w1 w2 w3 s
  | .missedSymbol => Sys2Proof.Machine.execMissedSymbol s
  | .holdoverExpiry => Sys2Proof.Machine.execHoldoverExpiry s
  | .periodChange v untilUs => Sys2Proof.Machine.execPeriodChange v untilUs s
  | .partCreate c => Sys2Proof.Machine.execPartCreate c s
  | .partDestroy q => Sys2Proof.Machine.execPartDestroy q s
  | .partCreateDone q => Sys2Proof.Machine.execPartCreateDone q s
  | .partDestroyDone q => Sys2Proof.Machine.execPartDestroyDone q s
  | .sliceWrite q v => Sys2Proof.Machine.execSliceWrite q v s
  | .vfBindingWrite vf v => Sys2Proof.Machine.execVfBindingWrite vf v s
  | .ctxCreate f entry => Sys2Proof.Machine.execCtxCreate f entry s
  | .ctxDestroy f entry => Sys2Proof.Machine.execCtxDestroy f entry s
  | .teardownComplete n => Sys2Proof.Machine.execTeardownComplete n s
  | .contextQuiescent k => Sys2Proof.Machine.execContextQuiescent k s
  | .contextSaved n => Sys2Proof.Machine.execContextSaved n s
  | .contextRestored n => Sys2Proof.Machine.execContextRestored n s
  | .perstAssert => Sys2Proof.Machine.execPerstAssert s
  | .perstRelease => Sys2Proof.Machine.execPerstRelease s
  | .hotReset => Sys2Proof.Machine.execHotReset s
  | .vfFlr vf => Sys2Proof.Machine.execVfFlr vf s
  | .pfFlr => Sys2Proof.Machine.execPfFlr s
  | .submissionDoorbell f off size v => Sys2Proof.Machine.execSubmissionDoorbell f off size v s
  | .adminSubmissionDoorbell f tail => Sys2Proof.Machine.execAdminSubmissionDoorbell f tail s
  | .completionHeadDoorbell f ring head => Sys2Proof.Machine.execCompletionHeadDoorbell f ring head s
  | .registerWrite f reg v => Sys2Proof.Machine.execRegisterWrite f reg v s
  | .launch n hostEntry => Sys2Proof.Machine.execLaunch n hostEntry s
  | .submissionNop n hostEntry => Sys2Proof.Machine.execSubmissionNop n hostEntry s
  | .kernelDoneRecord n => Sys2Proof.Machine.execKernelDoneRecord n s
  | .coalesceTimerExpiry n => Sys2Proof.Machine.execCoalesceTimerExpiry n s
  | .spdmMessage md => Sys2Proof.Machine.execSpdmMessage md s
  | .ideStreamInsecure stream => Sys2Proof.Machine.execIdeStreamInsecure stream s
  | .kedalFrameArrival path src bcast frame => Sys2Proof.Machine.execKedalFrameArrival path src bcast frame s
  | .kdSlotGo go frame => Sys2Proof.Machine.execKdSlotGo go frame s
  | .kRead => Sys2Proof.Machine.execKRead s
  | .kWrite => Sys2Proof.Machine.execKWrite s
  | .kCwrite => Sys2Proof.Machine.execKCwrite s
  | .nodeIdWrite v => Sys2Proof.Machine.execNodeIdWrite v s
  | .routeCommit v => Sys2Proof.Machine.execRouteCommit v s
  | .routeCommitCancel v => Sys2Proof.Machine.execRouteCommitCancel v s
  | .portEnWrite p v => Sys2Proof.Machine.execPortEnWrite p v s
  | .portDataWrite p v => Sys2Proof.Machine.execPortDataWrite p v s
  | .keyEstablish c => Sys2Proof.Machine.execKeyEstablish c s
  | .keyRetire c => Sys2Proof.Machine.execKeyRetire c s
  | .keyGenerate c => Sys2Proof.Machine.execKeyGenerate c s
  | .keyClaim c => Sys2Proof.Machine.execKeyClaim c s
  | .quoteReq who kind part rsv nonce => Sys2Proof.Machine.execQuoteReq who kind part rsv nonce s
  | .quoteSigned => Sys2Proof.Machine.execQuoteSigned s
  | .fwBegin c => Sys2Proof.Machine.execFwBegin c s
  | .fwChunk data => Sys2Proof.Machine.execFwChunk data s
  | .fwCommit c => Sys2Proof.Machine.execFwCommit c s
  | .fwAbort c => Sys2Proof.Machine.execFwAbort c s
  | .setMinSvn c => Sys2Proof.Machine.execSetMinSvn c s
  | .resetFull => Sys2Proof.Machine.execResetFull s
  | .resetRecovery => Sys2Proof.Machine.execResetRecovery s
  | .resetEnterStandby => Sys2Proof.Machine.execResetEnterStandby s
  | .resetLeaveStandby => Sys2Proof.Machine.execResetLeaveStandby s
  | .pwrCapWrite v => Sys2Proof.Machine.execPwrCapWrite v s
  | .testLogic c => Sys2Proof.Machine.execTestLogic c s
  | .testMemory c => Sys2Proof.Machine.execTestMemory c s
  | .testBoth c => Sys2Proof.Machine.execTestBoth c s
  | .testOpticalCal c => Sys2Proof.Machine.execTestOpticalCal c s
  | .testCancel c => Sys2Proof.Machine.execTestCancel c s
  | .selftestStart tag => Sys2Proof.Machine.execSelftestStart tag s
  | .selftestEnd tag pass failing passing => Sys2Proof.Machine.execSelftestEnd tag pass failing passing s
  | .freezeTriggerWrite v => Sys2Proof.Machine.execFreezeTriggerWrite v s
  | .freezeRelease v => Sys2Proof.Machine.execFreezeRelease v s
  | .counterWrite w => Sys2Proof.Machine.execCounterWrite w s
  | .trcCtrlWrite b v => Sys2Proof.Machine.execTrcCtrlWrite b v s
  | .traceEvent b => Sys2Proof.Machine.execTraceEvent b s
  | .trcDrain b bus first rsv count rsv2 => Sys2Proof.Machine.execTrcDrain b bus first rsv count rsv2 s
  | .trcDrainDone b => Sys2Proof.Machine.execTrcDrainDone b s
  | .waitForGraphRequest scope rsv id tag => Sys2Proof.Machine.execWaitForGraphRequest scope rsv id tag s
  | .watchdog n => Sys2Proof.Machine.execWatchdog n s
  | .graphPublish => Sys2Proof.Machine.execGraphPublish s
  | .dbgStop who rsv n => Sys2Proof.Machine.execDbgStop who rsv n s
  | .dbgResume who rsv n => Sys2Proof.Machine.execDbgResume who rsv n s
  | .faultDetect d unit cause => Sys2Proof.Machine.execFaultDetect d unit cause s
  | .recoveryComplete d unit ok us => Sys2Proof.Machine.execRecoveryComplete d unit ok us s
  | .moduleRecoveryTimeout => Sys2Proof.Machine.execModuleRecoveryTimeout s
  | .agentSilentTimeout d unit => Sys2Proof.Machine.execAgentSilentTimeout d unit s
  | .inputTurnOn => Sys2Proof.Machine.execInputTurnOn s
  | .inputUndervoltage => Sys2Proof.Machine.execInputUndervoltage s
  | .inputOvervoltage => Sys2Proof.Machine.execInputOvervoltage s
  | .presentOpen => Sys2Proof.Machine.execPresentOpen s
  | .powerSample mw dv => Sys2Proof.Machine.execPowerSample mw dv s
  | .fastCut => Sys2Proof.Machine.execFastCut s
  | .thermalTrip die t => Sys2Proof.Machine.execThermalTrip die t s
  | .coreArrayDomainStop d => Sys2Proof.Machine.execCoreArrayDomainStop d s
  | .coreArrayRelock d => Sys2Proof.Machine.execCoreArrayRelock d s
  | .startupStepComplete inp => Sys2Proof.Machine.execStartupStepComplete inp s
  | .startupStepTimeout => Sys2Proof.Machine.execStartupStepTimeout s
  | .thOpen dev members exchBytes => Sys2Proof.Machine.execThOpen dev members exchBytes s
  | .thMatmul c a b acc => Sys2Proof.Machine.execThMatmul c a b acc s
  | .thBatched c entries => Sys2Proof.Machine.execThBatched c entries s
  | .thConv c x w g => Sys2Proof.Machine.execThConv c x w g s
  | .thAttention c q k v scale mask => Sys2Proof.Machine.execThAttention c q k v scale mask s
  | .thReduce c op x axis => Sys2Proof.Machine.execThReduce c op x axis s
  | .thScan c inclusive x axis => Sys2Proof.Machine.execThScan c inclusive x axis s
  | .thElementwise c fns x xs => Sys2Proof.Machine.execThElementwise c fns x xs s
  | .thFft c inverse re im => Sys2Proof.Machine.execThFft c inverse re im s
  | .thStencil c x offsets weights => Sys2Proof.Machine.execThStencil c x offsets weights s
  | .thGather c x idx => Sys2Proof.Machine.execThGather c x idx s
  | .thScatter c x idx y accum => Sys2Proof.Machine.execThScatter c x idx y accum s
  | .thConvert c x => Sys2Proof.Machine.execThConvert c x s
  | .thExchange c op shares late => Sys2Proof.Machine.execThExchange c op shares late s
  | .pcieCompletion tag data => Sys2Proof.Machine.execPcieCompletion tag data s
  | .pcieLinkRetrain speed width flit => Sys2Proof.Machine.execPcieLinkRetrain speed width flit s
  | .fwVerifyDone => Sys2Proof.Machine.execFwVerifyDone s

end Sys2Proof.Machine
end

