-- ==== Sys2Proof/Machine/Words.lean ====
section
/-!
DEFINITION. Instruction words (06 R136, R137, R140, R152): what the issue of a word does, the fetch of the word at a program counter, and
what the block does by itself while no command waits: a face that can issue fetches its instruction and issues it (log 5).
-/
namespace Sys2Proof.Machine

/-- A word that spells no instruction is illegal at its issue (R137); one of the CACHE class is privileged before that (R174). -/
def reservedWord (k : Nat) (f : Face) (w : W64) (s : State) : Out :=
  if wordOp w = 0x28 then issuePriv s k f 4 false [] (fun _ s => .ok s) else issue s k f (wordLen w) false [] (fun _ s => .ok s)

/-- A word issues. -/
def execWord (k : Fin 256) (f : Face) (w : W64) (s : State) : Out :=
  match decodeWord k f w with
  | some i => exec i s
  | none => reservedWord k.val f w s

/-- What a fetch finds: the four bytes, a walk that has to come first, or a fault with its cause of R325. -/
inductive Fetched where
  | bytes (v : Nat) (s : State)
  | miss (vpn : Nat) (s : State)
  | fault (code cause : Nat)

/-- The four bytes at a virtual address, with execute permission, from this module's HBM (R152, R310, R314); a poisoned sector faults
(R296) (log 119). -/
def fetch4 (s : State) (g : Grp) (va : W64) : Fetched :=
  let n := ctxOf s g.k
  match lookup s g.k n (vpnOf va) with
  | (none, s) => .miss (vpnOf va) (g.lanes.foldl (fun s l =>
      startWalk s (clusterOf g.k) n (vpnOf va) (.face g.k (g.req l)) Need.fetch.bits va) s)
  | (some e, s) =>
    match denied s g.k n .face .fetch e.leaf (e.pa va) 4 with
    | some (code, cause) => .fault code cause
    | none =>
      let off := paOff (e.pa va)
      if cohPoison s off then .fault 6 0 else .bytes (leNat (cohRead s off 4)) s

/-- The word at a group's program counter: the first 32 bits tell its length (R136), and the rest of a long one follows. -/
def fetchWord (s : State) (g : Grp) : Fetched :=
  match fetch4 s g g.pc with
  | .bytes lo s =>
    if wordLen (BitVec.ofNat 64 lo) = 4 then .bytes lo s
    else match fetch4 s g (g.pc + 4) with
      | .bytes hi s => .bytes (lo + 2 ^ 32 * hi) s
      | x => x
  | x => x

/-- A face fetches its instruction and issues it; the group waits for the walk of a page that is not translated yet, and a fetch that
fails is a precise fault of the group (R132, R152). -/
def fetchIssue (k : Fin 256) (f : Face) (s : State) : Out :=
  match offer s k.val f with
  | none => .next s
  | some g =>
    match fetchWord s g with
    | .bytes w s => execWord k f (BitVec.ofNat 64 w) s
    | .miss p s => .next (setWait s g g.lanes .waitMemory (.walk p))
    | .fault code cause => .next (faultGrp (setPcause s k.val cause) g code g.lanes g.pc)

/-- The faces of a core that can issue. -/
def facesOf (s : State) (k : Nat) : List Face :=
  (Face.cc :: (List.finRange 32).map Face.cv).filter (fun f => (offer s k f).isSome)

/-- All faces of the module that can issue. -/
def issuers (s : State) : List (Nat × Face) := s.cores.flatMap (fun e => (facesOf s e.1).map (fun f => (e.1, f)))

/-- The block runs by itself: of the faces that can issue, one of them fetches and issues, and the spec leaves open which one it is; with
none, the block idles (log 3, log 5). -/
def selfStep (s : State) : Out :=
  match issuers s with
  | [] => .next s
  | x :: xs =>
    let (v, s) := s.free
    let (k, f) := (x :: xs).getD (v.toNat % (xs.length + 1)) x
    fetchIssue (Fin.ofNat 256 k) f s

end Sys2Proof.Machine
end

