-- ==== Sys2Proof/Machine/Step.lean ====
section
/-!
DEFINITION. One step of the block: the command at the front of the queue, run on the state with the queue's rest. On an
empty queue the block runs by itself: a face that can issue does, and with none it idles (log 3).
-/
namespace Sys2Proof.Machine

/-- Take the front command and answer its outcome; with no command waiting, the block's own step. -/
def step (s : State) : Host.Outcome State Fault Refusal :=
  match s.pending with
  | [] => selfStep s
  | c :: rest => exec c { s with pending := rest }

/-- `s` with the command that a word spells at the front of its queue; `s` itself where the word spells none. -/
def State.withFetchWord (s : State) (nbits w : Nat) : State :=
  match Sys2Proof.decodeTableWord nbits w with
  | some c => { s with pending := c :: s.pending }
  | none => s

end Sys2Proof.Machine
end

