-- ==== Sys2Proof/Safety.lean ====
section
/-!
DEFINITION. What counts as a safe run of the block, and the terms that statements about its commands are made in.
-/
namespace Sys2Proof.Machine

/-- The step at `s` answers a next state. -/
def Steps (s : State) : Prop := ∃ t, step s = .next t

/-- `t` is reached from `s` in `n` steps, each of which answers a next state. -/
inductive Reaches : State → Nat → State → Prop
  | zero (s : State) : Reaches s 0 s
  | succ {s t u : State} {n : Nat} : step s = .next t → Reaches t n u → Reaches s (n + 1) u

/-- An instruction of core `k` and face `f` issues for the group `g`: the group is offered, the fields are legal, the
register operands are aligned, and none of them is pending. -/
def Issues (s : State) (k : Nat) (f : Face) (legal : Bool) (us : List RegUse) (g : Grp) : Prop :=
  offer s k f = some g ∧ legal = true ∧ us.all (regOk f) = true ∧ blockedLanes s g us = [] ∧ g.lanes ≠ []

/-- An instruction has issued for the whole group and its effect has given `t`: the bookkeeping, and the program counters moved on
by its length. -/
def issuedTo (t : State) (g : Grp) (len : Nat) : State := advance (issued t g) g g.lanes len

/-- The canonical form of HBM (log 1). -/
def HbmWf (s : State) : Prop := Memory.wf s.mem.hbm = true

end Sys2Proof.Machine
end

