-- ==== Sys2Proof/WellFormed.lean ====
section
/-!
DEFINITION. Which commands are well formed: the relations between operands that the types of `Syntax.lean` do not say.
A command that is not well formed names something the device cannot be sent.
-/
namespace Sys2Proof

/-- Number of elements of a tensor. -/
def Tensor.elems (t : Tensor) : Nat := t.ext.foldl (· * ·) 1

/-- R526: rank 1 to 8, a format code that is not reserved, as many bytes as the extents ask for, and one exponent for each block
along the innermost dimension (R30). -/
def Tensor.wf (t : Tensor) : Bool :=
  let f := t.fmt.toNat
  let bits := t.elems * Machine.ebits f
  decide (1 ≤ t.ext.length) && decide (t.ext.length ≤ 8) && Machine.fmtOk f &&
    decide (t.data.length * 8 = bits ∨ t.data.length * 8 = bits + 4) &&
    (if Machine.isBlock f then
      t.ext.getLastD 1 % Machine.blockSize f == 0 && decide (t.scale.length = t.elems / Machine.blockSize f)
     else t.scale.isEmpty)

/-- A tiling record is eight words (R532). -/
def CallOpt.wf (c : CallOpt) : Bool := decide (c.tiling.length = 8)

/-- A Kedal frame is a 32-byte header and a body of at most 256 bytes (R426). -/
def frameWf (f : List Byte) : Bool := decide (32 ≤ f.length) && decide (f.length ≤ 288)

/-- A flit carries 28 units (R328). -/
def FlitIn.wf (f : FlitIn) : Bool := decide (f.units.length = 28)

/-- A bus access has a size of a power of two up to 8 bytes. -/
def sizeWf (n : Nat) : Bool := n == 1 || n == 2 || n == 4 || n == 8

/-- The command's operands fit together. -/
def Instr.wf (i : Instr) : Bool :=
  match i with
  | .ucieModuleOutOfService (.hub _) m => decide (m.val < 10)
  | .flitArrival _ f => f.wf
  | .ctxCreate _ e => decide (e.length = 16)
  | .ctxDestroy _ e => decide (e.length = 16)
  | .invRange _ c => decide (c.length = 4)
  | .invCtx _ c => decide (c.length = 4)
  | .resolve _ c => decide (c.length = 4)
  | .submissionDoorbell _ _ n _ => sizeWf n
  | .launch _ e => decide (e.length = 8)
  | .submissionNop _ e => decide (e.length = 8)
  | .kedalFrameArrival _ _ _ f => frameWf f
  | .kdSlotGo _ f => frameWf f
  | .fwChunk d => decide (9 ≤ d.length) && decide (d.length ≤ 256)
  | .beaconEdge i => decide (i.temps.length = 5)
  | .thMatmul c a b acc => c.wf && a.wf && b.wf && (acc.map Tensor.wf).getD true
  | .thBatched c es => c.wf && es.all (fun e => e.1.wf && e.2.1.wf && (e.2.2.map Tensor.wf).getD true)
  | .thConv c x w _ => c.wf && x.wf && w.wf
  | .thAttention c q k v _ m => c.wf && q.wf && k.wf && v.wf && (m.map Tensor.wf).getD true
  | .thReduce c _ x a => c.wf && x.wf && decide (a < x.ext.length)
  | .thScan c _ x a => c.wf && x.wf && decide (a < x.ext.length)
  | .thElementwise c _ x xs => c.wf && (x :: xs).all Tensor.wf
  | .thFft c _ re im => c.wf && re.wf && im.wf
  | .thStencil c x os ws => c.wf && x.wf && decide (os.length = ws.length)
  | .thGather c x i => c.wf && x.wf && i.wf
  | .thScatter c x i y _ => c.wf && x.wf && i.wf && y.wf
  | .thConvert c x => c.wf && x.wf
  | .thExchange c _ xs _ => c.wf && xs.all Tensor.wf
  | _ => true

end Sys2Proof
end

