-- ==== Sys2Proof/Certificates/Slice0/Obligations.lean ====
section
/-!
DEFINITION. The statements about the model. Each docstring names the rules of spec/ that the statement rests on, or the log entry of a
choice of the model.
-/
open Sys2Proof Sys2Proof.Machine

/-! The queue and reset. -/

/-- With a command at the front of the queue, a step is that command on the state with the queue's rest. MODEL'S CHOICE (log 3, log 5): with
no command waiting, a face that can issue fetches its instruction and issues it, and where none can the block idles. -/
def Obligations.StepRunsTheFront : Prop :=
  (∀ (c : Instr) (rest : List Instr) (s : State), s.pending = c :: rest → step s = exec c { s with pending := rest }) ∧
  (∀ s : State, s.pending = [] → issuers s = [] → step s = .next s) ∧
  (∀ s : State, s.pending = [] → issuers s ≠ [] → ∃ e ∈ issuers s, step s = fetchIssue (Fin.ofNat 256 e.1) e.2 s.free.2)

/-- R346, R352, R369, R371, R375, R512, R514: what reset leaves of the node ID, the time-out, the beacon and the power cap. -/
def Obligations.ResetValues : Prop :=
  State.reset.fab.node = 0xFFFFF#20 ∧ State.reset.fab.timeout = 4 ∧ State.reset.bcn.num = 0 ∧ State.reset.bcn.st = .keeper ∧
    State.reset.bcn.period = 250 ∧ State.reset.bcn.cutoff = 2000 ∧ State.reset.bcn.prio = 0x80#8 ∧ State.reset.pwr.cap = 1500 ∧
    State.reset.fab.commit.status = 0 ∧ State.reset.partStatus = 0 ∧ State.reset.pending = []

/-! Integer, branch and floating-point instructions (06). -/

namespace Sys2Proof.Machine

/-- R141, R142: operations of two registers, as functions of operands of one width. -/
def intOps2 : List ((RrrOp → Instr) × ((w : Nat) → BitVec w → BitVec w → BitVec w)) :=
  [(.add, fun _ x y => x + y), (.sub, fun _ x y => x - y), (.iand, fun _ x y => x &&& y), (.ior, fun _ x y => x ||| y),
   (.ixor, fun _ x y => x ^^^ y), (.sll, fun w x y => x <<< (y.toNat % w)), (.srl, fun w x y => x >>> (y.toNat % w)),
   (.sra, fun w x y => x.sshiftRight (y.toNat % w)), (.slt, fun w x y => if x.slt y then 1#w else 0#w),
   (.sltu, fun w x y => if x.ult y then 1#w else 0#w), (.imin, fun _ x y => if x.slt y then x else y),
   (.imax, fun _ x y => if x.slt y then y else x), (.minu, fun _ x y => if x.ult y then x else y),
   (.maxu, fun _ x y => if x.ult y then y else x), (.mul, fun _ x y => x * y),
   (.mulh, fun w x y => BitVec.ofInt w (x.toInt * y.toInt / (2 ^ w : Nat))),
   (.mulhu, fun w x y => BitVec.ofNat w (x.toNat * y.toNat / 2 ^ w))] ++
  [(.div, fun w x y => if y = 0 then BitVec.allOnes w else x.sdiv y), (.divu, fun w x y => if y = 0 then BitVec.allOnes w else x / y),
   (.rem, fun _ x y => if y = 0 then x else x.srem y), (.remu, fun _ x y => if y = 0 then x else x % y)]

/-- R142: operations of one register. -/
def intOps1 : List ((RrrOp → Instr) × ((w : Nat) → BitVec w → BitVec w)) :=
  [(.popc, fun w x => BitVec.ofNat w ((List.range w).filter (fun i => x.getLsbD i)).length),
   (.clz, fun w x => BitVec.ofNat w (if x = 0 then w else w - 1 - Nat.log2 x.toNat)),
   (.ctz, fun w x => BitVec.ofNat w (((List.range w).find? (fun i => x.getLsbD i)).getD w))]

/-- Lane by lane, a register of the face's width takes a value. -/
def eachWrite (g : Grp) (rd : BitVec 6) (wide : Bool) (v : State → Nat → W64) (s : State) : State :=
  eachLane g (fun l s => wrReg s g l rd.toNat wide (v s l)) s

/-- An operation of two operands of 64 bits, or of their low 32. -/
def atWidth (wide : Bool) (f : (w : Nat) → BitVec w → BitVec w → BitVec w) (x y : W64) : W64 :=
  if wide then f 64 x y else (f 32 (x.setWidth 32) (y.setWidth 32)).setWidth 64

end Sys2Proof.Machine

/-- R141, R142: ADD, SUB, AND, OR, XOR, SLL, SRL, SRA, SLT, SLTU, MIN, MAX, MINU, MAXU, MUL, MULH, MULHU, DIV, DIVU, REM,
REMU, POPC, CLZ, CTZ complete, with the result that the rules give in every lane; the RB field of the last three is reserved. -/
def Obligations.IntegerOpsComplete : Prop :=
  (∀ e ∈ intOps1, ∀ (o : RrrOp) (s : State) (g : Grp), offer s o.core o.face = some g → o.rb ≠ 0 →
    exec (e.1 o) s = .next (faultGrp s g 1 g.lanes 0)) ∧
  (∀ e ∈ intOps2, ∀ (o : RrrOp) (s : State) (g : Grp),
    Issues s o.core o.face (!(isCc o.face && o.w))
      [useOf o.rd (isCc o.face || o.w) true, useOf o.ra (isCc o.face || o.w) false, useOf o.rb (isCc o.face || o.w) false] g →
    exec (e.1 o) s = .next (issuedTo (eachWrite g o.rd (isCc o.face || o.w) (fun s l =>
      atWidth (isCc o.face || o.w) e.2 (rdReg s g l o.ra.toNat (isCc o.face || o.w)) (rdReg s g l o.rb.toNat (isCc o.face || o.w)))
      (unwait s g)) g 4)) ∧
  (∀ e ∈ intOps1, ∀ (o : RrrOp) (s : State) (g : Grp),
    Issues s o.core o.face (!(isCc o.face && o.w) && o.rb == 0)
      [useOf o.rd (isCc o.face || o.w) true, useOf o.ra (isCc o.face || o.w) false] g →
    exec (e.1 o) s = .next (issuedTo (eachWrite g o.rd (isCc o.face || o.w) (fun s l =>
      atWidth (isCc o.face || o.w) (fun w x _ => e.2 w x) (rdReg s g l o.ra.toNat (isCc o.face || o.w)) 0) (unwait s g)) g 4))

namespace Sys2Proof.Machine

/-- R143: operations with a sign-extended immediate. -/
def intOpsI : List ((RriOp → Instr) × ((w : Nat) → BitVec w → BitVec w → BitVec w)) :=
  [(.addi, fun _ x y => x + y), (.andi, fun _ x y => x &&& y), (.ori, fun _ x y => x ||| y), (.xori, fun _ x y => x ^^^ y),
   (.slti, fun w x y => if x.slt y then 1#w else 0#w)]

def shiftOps : List ((ShiOp → Instr) × ((w : Nat) → BitVec w → Nat → BitVec w)) :=
  [(.shiSll, fun _ x n => x <<< n), (.shiSrl, fun _ x n => x >>> n), (.shiSra, fun _ x n => x.sshiftRight n)]

end Sys2Proof.Machine

/-- R143: ADDI, ANDI, ORI, XORI, SLTI, SHI (SLL, SRL, SRA) and LUI complete. -/
def Obligations.ImmediateOpsComplete : Prop :=
  (∀ e ∈ intOpsI, ∀ (o : RriOp) (s : State) (g : Grp),
    Issues s o.core o.face true [useOf o.rd (isCc o.face) true, useOf o.ra (isCc o.face) false] g →
    exec (e.1 o) s = .next (issuedTo (eachWrite g o.rd (isCc o.face) (fun s l =>
      atWidth (isCc o.face) e.2 (rdReg s g l o.ra.toNat (isCc o.face)) (o.imm.signExtend 64)) (unwait s g)) g 4)) ∧
  (∀ e ∈ shiftOps, ∀ (o : ShiOp) (s : State) (g : Grp),
    Issues s o.core o.face (o.rsv == 0 && !(isCc o.face && o.w) && ((isCc o.face || o.w) || decide (o.amt.toNat < 32)))
      [useOf o.rd (isCc o.face || o.w) true, useOf o.ra (isCc o.face || o.w) false] g →
    exec (e.1 o) s = .next (issuedTo (eachWrite g o.rd (isCc o.face || o.w) (fun s l =>
      atWidth (isCc o.face || o.w) (fun w x _ => e.2 w x o.amt.toNat) (rdReg s g l o.ra.toNat (isCc o.face || o.w)) 0) (unwait s g)) g 4)) ∧
  (∀ (o : RiOp) (s : State) (g : Grp), Issues s o.core o.face true [⟨o.rd.toNat, 1, true⟩] g →
    exec (.lui o) s = .next (issuedTo (eachWrite g o.rd (isCc o.face) (fun _ _ => o.imm.signExtend 64 <<< 12) (unwait s g)) g 4))

namespace Sys2Proof.Machine

/-- Lane by lane, the program counter takes a value. -/
def eachPc (g : Grp) (v : State → Nat → W64) (s : State) : State := eachLane g (fun l s => setPc s g l (v s l)) s

/-- R145: the conditions of the branches. -/
def branchOps : List ((BrOp → Instr) × ((w : Nat) → BitVec w → BitVec w → Bool)) :=
  [(.beq, fun _ x y => x == y), (.bne, fun _ x y => x != y), (.blt, fun _ x y => x.slt y), (.bge, fun _ x y => !x.slt y),
   (.bltu, fun _ x y => x.ult y), (.bgeu, fun _ x y => !x.ult y)]

end Sys2Proof.Machine

/-- R145: BEQ, BNE, BLT, BGE, BLTU, BGEU, JAL and JALR complete: each lane goes to the target or to the next instruction, and a jump
leaves the address behind it in its link register. -/
def Obligations.BranchesComplete : Prop :=
  (∀ e ∈ branchOps, ∀ (o : BrOp) (s : State) (g : Grp),
    Issues s o.core o.face true [useOf o.ra (isCc o.face) false, useOf o.rb (isCc o.face) false] g →
    exec (e.1 o) s = .next (issued (eachPc g (fun s l =>
      let x := rdReg s g l o.ra.toNat (isCc o.face)
      let y := rdReg s g l o.rb.toNat (isCc o.face)
      if (if isCc o.face then e.2 64 x y else e.2 32 (x.setWidth 32) (y.setWidth 32)) then target (g.pc + o.off.signExtend 64 * 4) else g.pc + 4)
      (unwait s g)) g)) ∧
  (∀ (o : RiOp) (s : State) (g : Grp), Issues s o.core o.face true [useOf o.rd true true] g →
    exec (.jal o) s = .next (issued (eachLane g (fun l s =>
      setPc (wrReg s g l o.rd.toNat true (g.pc + 4)) g l (target (g.pc + o.imm.signExtend 64 * 4))) (unwait s g)) g)) ∧
  (∀ (o : RriOp) (s : State) (g : Grp), Issues s o.core o.face true [useOf o.rd true true, useOf o.ra true false] g →
    exec (.jalr o) s = .next (issued (eachLane g (fun l s =>
      setPc (wrReg s g l o.rd.toNat true (g.pc + 4)) g l (target (rdReg s g l o.ra.toNat true + o.imm.signExtend 64)))
      (unwait s g)) g))

namespace Sys2Proof.Machine

/-- R146: the floating-point operations: sources, whether the function is exact and whether it is a compare; then the
function of the bits of RA, RB and RD. -/
def floatOps : List ((FpOp → Instr) × Nat × Bool × Bool × (BitVec 2 → FFmt → Nat → Nat → Nat → Nat × Flags)) :=
  [(.fadd, 2, false, false, fun rm f a b _ => fadd f rm (f.dec a) (f.dec b)),
   (.fsub, 2, false, false, fun rm f a b _ => fsub f rm (f.dec a) (f.dec b)),
   (.fmul, 2, false, false, fun rm f a b _ => fmul f rm (f.dec a) (f.dec b)),
   (.fma, 2, false, false, fun rm f a b d => ffma f rm false (f.dec d) (f.dec a) (f.dec b)),
   (.fnma, 2, false, false, fun rm f a b d => ffma f rm true (f.dec d) (f.dec a) (f.dec b)),
   (.fdiv, 2, false, false, fun rm f a b _ => fdiv f rm (f.dec a) (f.dec b)),
   (.fsqrt, 1, false, false, fun rm f a _ _ => fsqrt f rm (f.dec a)),
   (.fmin, 2, true, false, fun _ f a b _ => fminBits f false a b), (.fmax, 2, true, false, fun _ f a b _ => fminBits f true a b)] ++
  [(.feq, 2, true, true, fun _ f a b _ => ((fcmpEq (f.dec a) (f.dec b)).1.toNat, (fcmpEq (f.dec a) (f.dec b)).2)),
   (.flt, 2, true, true, fun _ f a b _ => ((fcmpLt (f.dec a) (f.dec b)).1.toNat, (fcmpLt (f.dec a) (f.dec b)).2)),
   (.fle, 2, true, true, fun _ f a b _ => ((fcmpLe (f.dec a) (f.dec b)).1.toNat, (fcmpLe (f.dec a) (f.dec b)).2)),
   (.fabs, 1, true, false, fun _ f a _ _ => fabsBits f a), (.fneg, 1, true, false, fun _ f a _ _ => fnegBits f a),
   (.frcp, 1, false, false, fun rm f a _ _ => fdiv f rm (.fin false 1 0) (f.dec a))]

end Sys2Proof.Machine

/-- R146, R147: FADD, FSUB, FMUL, FMA, FNMA, FDIV, FSQRT, FMIN, FMAX, FEQ, FLT, FLE, FABS, FNEG, FRCP and CVT complete: each lane's
result goes to RD and its flags to the face's flag register. A 32-bit result on the control core leaves the upper half of the
register open (log 6). -/
def Obligations.FloatOpsComplete : Prop :=
  (∀ e ∈ floatOps, ∀ (o : FpOp) (s : State) (g : Grp),
    Issues s o.core o.face ((!e.2.2.1 || o.rm == 0) && (decide (e.2.1 = 2) || o.rb == 0))
      ([useOf o.rd (o.dbl && !e.2.2.2.1) true, useOf o.ra o.dbl false] ++ (if e.2.1 = 2 then [useOf o.rb o.dbl false] else [])) g →
    exec (e.1 o) s = .next (issuedTo (eachLane g (fun l s =>
      let r := e.2.2.2.2 o.rm (if o.dbl then fp64 else fp32) (fpBits s g l o.ra.toNat o.dbl) (fpBits s g l o.rb.toNat o.dbl)
        (fpBits s g l o.rd.toNat o.dbl)
      raiseFlags (if o.dbl || e.2.2.2.1 then wrReg s g l o.rd.toNat (o.dbl && !e.2.2.2.1) (BitVec.ofNat 64 r.1)
        else wrLow s g l o.rd.toNat (BitVec.ofNat 32 r.1)) g r.2) (unwait s g)) g 4)) ∧
  (∀ (o : CvtOp) (s : State) (g : Grp),
    Issues s o.core o.face (!o.rsv && decide (o.dst.toNat < 8) && decide (o.src.toNat < 8))
      [⟨o.rd.toNat, if ebits o.dst.toNat = 64 then 2 else 1, true⟩, ⟨o.ra.toNat, if ebits o.src.toNat = 64 then 2 else 1, false⟩] g →
    exec (.cvt o) s = .next (issuedTo (eachLane g (fun l s =>
      let r := convElem o.dst.toNat o.rm o.sat
        (elemNum o.src.toNat ((rdReg s g l o.ra.toNat (decide (ebits o.src.toNat = 64))).toNat % 2 ^ ebits o.src.toNat))
      raiseFlags (wrReg s g l o.rd.toNat (decide (ebits o.dst.toNat = 64)) (BitVec.ofNat 64 r.1)) g r.2) (unwait s g)) g 4))

/-- R109, R141: on the control core an integer operation of two registers changes its destination register and the program
counter, and nothing else of the registers, flags, memory, fabric, host interface, contexts or partitions; s0 stays zero. -/
def Obligations.IntegerFrameControlCore : Prop :=
  ∀ e ∈ intOps2, ∀ (o : RrrOp) (s : State) (g : Grp), o.face = .cc → twfFrom 0#64 none (s.core o.core).sregs = true →
    Issues s o.core .cc (!o.w) [useOf o.rd true true, useOf o.ra true false, useOf o.rb true false] g →
    ∃ t, exec (e.1 o) s = .next t ∧
      (∀ r, (t.core o.core).sreg r = if r = o.rd.toNat ∧ r ≠ 0 then
        e.2 64 ((s.core o.core).sreg o.ra.toNat) ((s.core o.core).sreg o.rb.toNat) else (s.core o.core).sreg r) ∧
      (t.core o.core).pc = (s.core o.core).pc + 4 ∧ (t.core o.core).flags = (s.core o.core).flags ∧
      (t.core o.core).cvs = (s.core o.core).cvs ∧ (t.core o.core).mx = (s.core o.core).mx ∧ (t.core o.core).ve = (s.core o.core).ve ∧
      (t.core o.core).sp = (s.core o.core).sp ∧ (t.core o.core).dma = (s.core o.core).dma ∧
      (∀ j, j ≠ o.core.val → t.core j = s.core j) ∧
      t.mem = s.mem ∧ t.fab = s.fab ∧ t.host = s.host ∧ t.ctxs = s.ctxs ∧ t.parts = s.parts ∧ t.pending = s.pending

namespace Sys2Proof.Machine

/-- The opcodes that R140 reserves. -/
def reservedOps : List Nat := [0x00, 0x31, 0x32, 0x33, 0x34, 0x35, 0x36, 0x37, 0x3C, 0x3D, 0x3E, 0x3F]

end Sys2Proof.Machine

/-- R137, R140: an integer operation with a reserved field or an operand that its face does not have raises fault 0x01 for every thread of
its group, whatever its operation; a word that spells no instruction raises it too, and no word with a reserved opcode spells one. -/
def Obligations.IllegalFieldsFault : Prop :=
  (∀ e ∈ intOps2, ∀ (o : RrrOp) (s : State) (g : Grp), offer s o.core o.face = some g →
    ((isCc o.face && o.w) = true ∨
      [useOf o.rd (isCc o.face || o.w) true, useOf o.ra (isCc o.face || o.w) false, useOf o.rb (isCc o.face || o.w) false].all
        (regOk o.face) = false) →
    exec (e.1 o) s = .next (faultGrp s g 1 g.lanes 0)) ∧
  (∀ (k : Fin 256) (f : Face) (w : W64) (s : State) (g : Grp), offer s k f = some g → wordOp w ≠ 0x28 → decodeWord k f w = none →
    execWord k f w s = .next (faultGrp s g 1 g.lanes 0)) ∧
  (∀ (k : Fin 256) (f : Face) (w : W64), wordOp w ∈ reservedOps → decodeWord k f w = none)

/-! Loads, stores, atomics, order and barriers (06). -/

namespace Sys2Proof.Machine

/-- R148: the loads, with their bytes and sign; R148: the stores. -/
def loadForms : List ((RriOp → Instr) × Nat × Bool) :=
  [(.lb, 1, true), (.lbu, 1, false), (.lh, 2, true), (.lhu, 2, false), (.lw, 4, true), (.lwu, 4, false), (.ld, 8, false), (.lq, 16, false)]

def storeForms : List ((RriOp → Instr) × Nat) := [(.sb, 1), (.sh, 2), (.sw, 4), (.sd, 8), (.sq, 16)]

/-- The access of one lane of a load. -/
def loadWant (ra rd : BitVec 6) (imm : W64) (n : Nat) (sgn acq : Bool) (g : Grp) (s : State) (l : Nat) : Want :=
  ⟨.load sgn, n, rdReg s g l ra.toNat true + imm, rd.toNat, 0, 0, acq, acq⟩

/-- The access of one lane of a store. -/
def storeWant (ra rd : BitVec 6) (imm : W64) (n : Nat) (g : Grp) (s : State) (l : Nat) : Want :=
  ⟨.store, n, rdReg s g l ra.toNat true + imm, 0, storeData s g l rd.toNat n, 0, false, false⟩

/-- Every lane of a memory instruction makes its access: no precise fault is known, and none has to wait. -/
def Accessed (s : State) (g : Grp) (want : State → Nat → Want) (t : State) : Prop :=
  laneFaults s g (want s) = none ∧ memRun g want (unwait s g) = .part t g.lanes

end Sys2Proof.Machine

/-- R148, R158: LB, LBU, LH, LHU, LW, LWU, LD, LQ and LD.ACQ complete when every lane can make its access: the lanes' accesses are made in
increasing order and the program counters move on. -/
def Obligations.LoadsComplete : Prop :=
  (∀ e ∈ loadForms, ∀ (o : RriOp) (s t : State) (g : Grp),
    Issues s o.core o.face (!(isCc o.face && e.2.1 == 16)) [dataUse o.rd e.2.1 true, addrUse o.ra] g →
    Accessed s g (loadWant o.ra o.rd (o.imm.signExtend 64) e.2.1 e.2.2 false g) t → exec (e.1 o) s = .next (issuedTo t g 4)) ∧
  (∀ (o : AcqOp) (s t : State) (g : Grp),
    Issues s o.core o.face (!o.scope && sizeOk o.face false o.size) [dataUse o.rd (sizeBytes o.size) true, addrUse o.ra] g →
    Accessed s g (loadWant o.ra o.rd (o.off.signExtend 64) (sizeBytes o.size) (sizeSigned o.size) true g) t →
    exec (.ldAcq o) s = .next (issuedTo t g 4))

/-- R148, R158: SB, SH, SW, SD, SQ and ST.REL complete; ST.REL's lanes first perform their release. -/
def Obligations.StoresComplete : Prop :=
  (∀ e ∈ storeForms, ∀ (o : RriOp) (s t : State) (g : Grp),
    Issues s o.core o.face (!(isCc o.face && e.2 == 16)) [dataUse o.rd e.2 false, addrUse o.ra] g →
    Accessed s g (storeWant o.ra o.rd (o.imm.signExtend 64) e.2 g) t → exec (e.1 o) s = .next (issuedTo t g 4)) ∧
  (∀ (o : AcqOp) (s t : State) (g : Grp),
    Issues s o.core o.face (sizeOk o.face true o.size) [dataUse o.rd (sizeBytes o.size) false, addrUse o.ra] g →
    laneFaults s g (storeWant o.ra o.rd (o.off.signExtend 64) (sizeBytes o.size) g s) = none →
    memRunWith (afterRel true o.scope) g (storeWant o.ra o.rd (o.off.signExtend 64) (sizeBytes o.size) g) (unwait s g) = .part t g.lanes →
    exec (.stRel o) s = .next (issuedTo t g 4))

namespace Sys2Proof.Machine

/-- R153: the operations of atomics. -/
def amoForms : List ((AmoOp → Instr) × AmoKind) :=
  [(.swap, .swap), (.cas, .cas), (.amoAdd, .add), (.amoAnd, .and), (.amoOr, .or), (.amoXor, .xor), (.amoMin, .min), (.amoMax, .max),
   (.amoMinu, .minu), (.amoMaxu, .maxu)]

end Sys2Proof.Machine

/-- R150: a load, store or atomic, of memory or of the scratchpad, whose address is no multiple of its size in some lane raises fault
0x03 for the lanes concerned, before any other check of the address. -/
def Obligations.MisalignedAccessFaults : Prop :=
  (∀ e ∈ loadForms, ∀ (o : RriOp) (s : State) (g : Grp),
    Issues s o.core o.face (!(isCc o.face && e.2.1 == 16)) [dataUse o.rd e.2.1 true, addrUse o.ra] g →
    g.lanes.filter (fun l => (rdReg s g l o.ra.toNat true + o.imm.signExtend 64).toNat % e.2.1 ≠ 0) ≠ [] →
    ∃ t va, exec (e.1 o) s = .next (faultGrp t g 3
      (g.lanes.filter (fun l => (rdReg s g l o.ra.toNat true + o.imm.signExtend 64).toNat % e.2.1 ≠ 0)) va)) ∧
  (∀ e ∈ storeForms, ∀ (o : RriOp) (s : State) (g : Grp),
    Issues s o.core o.face (!(isCc o.face && e.2 == 16)) [dataUse o.rd e.2 false, addrUse o.ra] g →
    g.lanes.filter (fun l => (rdReg s g l o.ra.toNat true + o.imm.signExtend 64).toNat % e.2 ≠ 0) ≠ [] →
    ∃ t va, exec (e.1 o) s = .next (faultGrp t g 3
      (g.lanes.filter (fun l => (rdReg s g l o.ra.toNat true + o.imm.signExtend 64).toNat % e.2 ≠ 0)) va)) ∧
  (∀ e ∈ [(Instr.ldAcq, false), (Instr.stRel, true)], ∀ (o : AcqOp) (s : State) (g : Grp),
    Issues s o.core o.face (if e.2 then sizeOk o.face true o.size else !o.scope && sizeOk o.face false o.size)
      [dataUse o.rd (sizeBytes o.size) (!e.2), addrUse o.ra] g →
    g.lanes.filter (fun l => (rdReg s g l o.ra.toNat true + o.off.signExtend 64).toNat % sizeBytes o.size ≠ 0) ≠ [] →
    ∃ t va, exec (e.1 o) s = .next (faultGrp t g 3
      (g.lanes.filter (fun l => (rdReg s g l o.ra.toNat true + o.off.signExtend 64).toNat % sizeBytes o.size ≠ 0)) va)) ∧
  (∀ e ∈ [(Instr.lds, false), (Instr.sts, true)], ∀ (o : SpaOp) (s : State) (g : Grp),
    Issues s o.core o.face (sizeOk o.face e.2 o.size) [dataUse o.rd (sizeBytes o.size) (!e.2), ⟨o.ra.toNat, 1, false⟩] g →
    g.lanes.filter (fun l => spAddr s g l o.ra (o.off.signExtend 32) % sizeBytes o.size ≠ 0) ≠ [] →
    ∃ t, exec (e.1 o) s = .next (faultGrp t g 3 (g.lanes.filter (fun l => spAddr s g l o.ra (o.off.signExtend 32) % sizeBytes o.size ≠ 0)) 0)) ∧
  (∀ e ∈ amoForms, ∀ (o : AmoOp) (s : State) (g : Grp), Issues s o.core o.face true (amoUses o) g →
    g.lanes.filter (fun l => (if o.space then spAddr s g l o.ra 0 else (rdReg s g l o.ra.toNat true).toNat) % (if o.w then 8 else 4) ≠ 0) ≠ [] →
    ∃ t va, exec (e.1 o) s = .next (faultGrp t g 3 (g.lanes.filter (fun l =>
      (if o.space then spAddr s g l o.ra 0 else (rdReg s g l o.ra.toNat true).toNat) % (if o.w then 8 else 4) ≠ 0)) va))

namespace Sys2Proof.Machine

/-- What one lane of LDS or STS does. -/
def spWant (o : SpaOp) (store : Bool) (g : Grp) (s : State) (l : Nat) : SpAccess :=
  ⟨g.req l, (s.core g.k).sp.pmap, g.pc, store, o.size.toNat, spAddr s g l o.ra (o.off.signExtend 32), o.rd.toNat,
    if store then storeData s g l o.rd.toNat (sizeBytes o.size) else 0, 0, none, s.newId.1⟩

end Sys2Proof.Machine

/-- R149, R214: LDS and STS complete when every lane's bytes lie in the C port's groups and their tags allow the access. -/
def Obligations.ScratchpadAccessesComplete : Prop :=
  ∀ e ∈ [(Instr.lds, false), (Instr.sts, true)], ∀ (o : SpaOp) (s t : State) (g : Grp),
    Issues s o.core o.face (sizeOk o.face e.2 o.size) [dataUse o.rd (sizeBytes o.size) (!e.2), ⟨o.ra.toNat, 1, false⟩] g →
    cPortBad s g (fun l => spAddr s g l o.ra (o.off.signExtend 32)) (sizeBytes o.size) = none →
    cPortBad (unwait s g) g (fun l => spAddr (unwait s g) g l o.ra (o.off.signExtend 32)) (sizeBytes o.size) = none →
    runLanes g (spClash g e.2 (sizeBytes o.size) (fun s l => spAddr s g l o.ra (o.off.signExtend 32)))
      (fun l s => spLane s.newId.2 g l (spWant o e.2 g s l)) (unwait s g) = .part t g.lanes →
    exec (e.1 o) s = .next (issuedTo t g 4)

/-- R153, R154: SWAP, CAS and AMO ADD, AND, OR, XOR, MIN, MAX, MINU, MAXU complete, on virtual memory (space 0) and on the scratchpad
(space 1), where one lane, when nothing holds it, gives RD the old value and the bytes the
new one. -/
def Obligations.AtomicsComplete : Prop :=
  (∀ e ∈ amoForms, ∀ (o : AmoOp) (s t : State) (g : Grp), Issues s o.core o.face true (amoUses o) g →
    (if o.space then
      cPortBad s g (fun l => spAddr s g l o.ra 0) (if o.w then 8 else 4) = none ∧
      cPortBad (unwait s g) g (fun l => spAddr (unwait s g) g l o.ra 0) (if o.w then 8 else 4) = none ∧
      runLanes g (spClash g true (if o.w then 8 else 4) (fun s l => spAddr s g l o.ra 0)) (fun l s => afterRel o.rl false g s.mem.nextId l
        (fun s => spLane s.newId.2 g l (amoSp o e.2 g s l)) s) (unwait s g) = .part t g.lanes
    else
      laneFaults s g (amoWant o e.2 g s) = none ∧ memRunWith (afterRel o.rl false) g (amoWant o e.2 g) (unwait s g) = .part t g.lanes) →
    exec (e.1 o) s = .next (issuedTo t g 4)) ∧
  (∀ e ∈ amoForms, ∀ (o : AmoOp) (s : State) (g : Grp) (l : Nat), o.w = true →
    orderBlock s g.k (g.req l) = none → transitBlock (s.core g.k).sp (s.core g.k).sp.pmap (spAddr s g l o.ra 0) 8 = false →
    heldSp s g.k s.newId.1 false (s.core g.k).sp.pmap (spAddr s g l o.ra 0) 8 true = false →
    behindLower (s.core g.k).sp (amoSp o e.2 g s l) = false →
    spLane s g l (amoSp o e.2 g s l) = .done (wrReg (s.updSp g.k (fun sp => sp.write (spAddr s g l o.ra 0) 8
      (amoApply e.2 8 (spRead (s.core g.k).sp (spAddr s g l o.ra 0) 8) (amoReg s g l o.rb true) (amoReg s g l o.rd true))))
      g l o.rd.toNat true (BitVec.ofNat 64 (spRead (s.core g.k).sp (spAddr s g l o.ra 0) 8))))

/-- R155, R157: REL, ACQ.A and ACQ.R complete when what they cover is performed. -/
def Obligations.OrderingComplete : Prop :=
  (∀ (o : OrdOp) (s t : State) (g : Grp), Issues s o.core o.face (o.rd == 0 && o.ra == 0 && o.rb == 0) [] g →
    orderBlock (unwait s g) g.k (g.req (g.lanes.headD 0)) = none →
    runLanes g noClash (fun l s => afterRel true o.fn0 g (unwait s g).mem.nextId l .done s) (unwait s g) = .part t g.lanes →
    exec (.rel o) s = .next (issuedTo t g 4)) ∧
  (∀ (o : OrdOp) (s t : State) (g : Grp), Issues s o.core o.face (!o.fn0 && o.rd == 0 && o.ra == 0 && o.rb == 0) [] g →
    acquire g (fun s _ => remKeys s g.k) (unwait s g) = .part t g.lanes → exec (.acqA o) s = .next (issuedTo t g 4)) ∧
  (∀ (o : OrdOp) (s t : State) (g : Grp),
    Issues s o.core o.face (!o.fn0 && o.rd == 0) [useOf o.ra true false, useOf o.rb true false] g →
    acqFault s g o = none → acqFault (unwait s g) g o = none →
    acquire g (fun s l => rangeKeys s g.k (rdReg s g l o.ra.toNat true).toNat (rdReg s g l o.rb.toNat true).toNat) (unwait s g) =
      .part t g.lanes →
    exec (.acqR o) s = .next (issuedTo t g 4))

/-- R159: BAR.SYNC and BAR.ARRIVE complete: with a count of 1 to 1,025 in every thread and their stores performed, the threads
arrive; those of BAR.SYNC wait until the count is reached. -/
def Obligations.BarriersComplete : Prop :=
  ∀ e ∈ [(Instr.barSync, true), (Instr.barArrive, false)], ∀ (o : BarOp) (s t : State) (g : Grp),
    Issues s o.core o.face (o.rd == 0 && o.rb == 0) [⟨o.ra.toNat, 1, false⟩] g →
    g.lanes.any (fun l => (rdReg (unwait s g) g l o.ra.toNat false).toNat = 0 ||
      decide (1025 < (rdReg (unwait s g) g l o.ra.toNat false).toNat)) = false →
    g.lanes.foldl (fun (x : Bool × State) l => (x.1 && (relThread x.2 g.k (g.req l)).1, (relThread x.2 g.k (g.req l)).2))
      (true, unwait s g) = (true, t) →
    exec (e.1 o) s = .next (issuedTo (barArrive t g o.bar.val (rdReg t g (g.lanes.headD 0) o.ra.toNat false).toNat e.2) g 4)

/-- R174, R175: CACHE.INVP completes in a privileged context: the L2 lines of the range leave the cluster's caches. In another context it raises
fault 0x02 before every other check. -/
def Obligations.CacheInvalidateCompletes : Prop :=
  (∀ (o : RrrOp) (s : State) (g : Grp), privileged s o.core = true →
    Issues s o.core o.face (isCc o.face && !o.w && o.rd == 0) [useOf o.ra true false, useOf o.rb true false] g →
    exec (.cacheInvp o) s = .next (issuedTo ((((((unwait s g).cluster (clusterOf g.k)).l2.lines.map (fun e => e.2.line)).filter (fun x =>
      (rdReg (unwait s g) g 0 o.rb.toNat true).toNat != 0 &&
        decide (lineKey (unwait s g) (rdReg (unwait s g) g 0 o.ra.toNat true) ≤ x) &&
        decide (x ≤ lineKey (unwait s g) (rdReg (unwait s g) g 0 o.ra.toNat true) +
          ((rdReg (unwait s g) g 0 o.ra.toNat true).toNat % 256 + (rdReg (unwait s g) g 0 o.rb.toNat true).toNat - 1) / 256))).foldl
      (fun s key => releaseL2 s (clusterOf g.k) key true)) (unwait s g)) g 4)) ∧
  (∀ (o : RrrOp) (s : State) (g : Grp), privileged s o.core = false → offer s o.core o.face = some g →
    exec (.cacheInvp o) s = .next (faultGrp s g 2 g.lanes 0))

/-! System registers, control, caravans and collectives (05, 06, 03). -/

namespace Sys2Proof.Machine

/-- A register access issues: privileged numbers from 0x800 only in a privileged context (R174). -/
def RegIssues (s : State) (o : RriOp) (legal : Bool) (us : List RegUse) (g : Grp) : Prop :=
  Issues s o.core o.face (legal && o.imm.toNat / 2 ^ 12 == 0 && sregFace (o.imm.toNat % 2 ^ 12) o.face) us g ∧
    (0x800 ≤ o.imm.toNat % 2 ^ 12 → privileged s o.core = true)

end Sys2Proof.Machine

/-- R171, R172, R91, R199, R494: SR.RD, SR.WR, a write of MX_CHAIN, an access to VE_FLAGS and a write of TRC_MARK complete. -/
def Obligations.SystemRegistersComplete : Prop :=
  (∀ (c : RriOp → Instr), c ∈ [Instr.srRd, fun o => .veFlagsAccess o false] → ∀ (o : RriOp) (s : State) (g : Grp),
    RegIssues s o (o.ra == 0) [useOf o.rd (isCc o.face) true] g → o.imm.toNat % 2 ^ 12 ≠ 0x980 →
    sregWait ((unwait s g).core g.k) (o.imm.toNat % 2 ^ 12) false = none →
    exec (c o) s = .next (issuedTo (eachWrite g o.rd (isCc o.face)
      (fun _ _ => sregRead (unwait s g) g.k (faceCv o.face) (o.imm.toNat % 2 ^ 12)) (unwait s g)) g 4)) ∧
  (∀ (c : RriOp → Instr), c ∈ [Instr.srWr, .mxChainWrite, .trcMark, fun o => .veFlagsAccess o true] → ∀ (o : RriOp) (s : State) (g : Grp),
    RegIssues s o (o.rd == 0) [useOf o.ra (isCc o.face) false] g →
    sregWait ((unwait s g).core g.k) (o.imm.toNat % 2 ^ 12) true = none →
    exec (c o) s = .next (issuedTo (sregWrite (unwait s g) g.k (faceCv o.face) (o.imm.toNat % 2 ^ 12)
      (orLanes (unwait s g) g o.ra.toNat (isCc o.face))) g 4))

namespace Sys2Proof.Machine

/-- The fields of CTL (R161). -/
def ctlFields (o : RrrOp) : Bool := !o.w && o.rd == 0 && o.ra == 0 && o.rb == 0

end Sys2Proof.Machine

/-- R112, R117, R161, R162: NOP, CV.YIELD, END, EXIT, CV.CONV and BRK complete. -/
def Obligations.ControlInstructionsComplete : Prop :=
  (∀ (o : RrrOp) (s : State) (g : Grp), Issues s o.core o.face (ctlFields o) [] g →
    exec (.nop o) s = .next (issuedTo (unwait s g) g 4)) ∧
  (∀ (o : RrrOp) (s : State) (g : Grp), Issues s o.core o.face (ctlFields o && !isCc o.face) [] g →
    exec (.cvYield o) s = .next (advance (issued (unwait s g) { g with served := BitVec.allOnes 32 }) g g.lanes 4)) ∧
  (∀ (o : RrrOp) (s : State) (g : Grp), Issues s o.core o.face (ctlFields o && isCc o.face) [] g →
    exec (.ctlEnd o) s = .next (issued ((unwait s g).updCore g.k (fun c => { c with kend := 1, wait := .kernelEnd })) g)) ∧
  (∀ (o : RrrOp) (s : State) (g : Grp), Issues s o.core o.face (ctlFields o && !isCc o.face) [] g → divergeFault s g true = none →
    exec (.exit o) s = .next (issued (wakeCore (setWait (unwait s g) g g.lanes .idle .none) g.k) g)) ∧
  (∀ (o : RrrOp) (s : State) (g : Grp), Issues s o.core o.face (ctlFields o && !isCc o.face) [] g → divergeFault s g false = none →
    exec (.cvConv o) s = .next (issued (park (unwait s g) g none) g)) ∧
  (∀ (o : RrrOp) (s : State) (g : Grp) (n i : Nat), Issues s o.core o.face (ctlFields o) [] g →
    ((unwait s g).core g.k).ctx = some (n, i) → bit (((unwait s g).ctx n).desc.headD 0) 61 = true →
    exec (.brk o) s = .next (issued (preempt (unwait s g) n true) g))

/-- R111, R123: CV.LAUNCH, CV.WAIT and CV.MMA complete: a launch of idle caravans sets up every thread as R111 says, and one that names
a busy caravan is an illegal instruction; CV.WAIT goes on when every caravan of its mask is idle, and waits until then. -/
def Obligations.CaravansComplete : Prop :=
  (∀ (x : Caravan) (v : Nat) (entry arg : W64) (l : Nat), l < 32 →
    (launchCv x v entry arg).pc l = entry ∧ (launchCv x v entry arg).state l = .ready ∧
    (launchCv x v entry arg).treg l 0 = BitVec.ofNat 32 l ∧ (launchCv x v entry arg).treg l 1 = BitVec.ofNat 32 v ∧
    (launchCv x v entry arg).treg l 2 = arg.setWidth 32 ∧ (launchCv x v entry arg).treg l 3 = BitVec.ofNat 32 (arg.toNat / 2 ^ 32) ∧
    ∀ r, 4 ≤ r → r < 64 → (launchCv x v entry arg).treg l r = 0) ∧
  (∀ (o : LaunchOp) (s : State) (g : Grp),
    Issues s o.core o.face (isCc o.face && o.fn == 0) [⟨o.rd.toNat, 1, false⟩, ⟨o.ra.toNat, 1, false⟩, ⟨o.rb.toNat, 1, false⟩] g →
    (maskCvs ((((unwait s g).core g.k).sreg o.rd.toNat).setWidth 32)).any (fun v => !(((unwait s g).core g.k).cv v).isIdle) = true →
    exec (.cvLaunch o) s = .next (faultGrp s g 1 [0] 0)) ∧
  (∀ (o : LaunchOp) (s : State) (g : Grp),
    Issues s o.core o.face (isCc o.face && o.fn == 0 && o.rd == 0 && o.rb == 0) [⟨o.ra.toNat, 1, false⟩] g →
    (maskCvs ((((unwait s g).core g.k).sreg o.ra.toNat).setWidth 32)).all (fun v => (((unwait s g).core g.k).cv v).isIdle) = false →
    exec (.cvWait o) s = .next (setWait s g g.lanes .waitMemory .caravans)) ∧
  (∀ (o : LaunchOp) (s : State) (g : Grp),
    Issues s o.core o.face (isCc o.face && o.fn == 0) [⟨o.rd.toNat, 1, false⟩, ⟨o.ra.toNat, 1, false⟩, ⟨o.rb.toNat, 1, false⟩] g →
    (maskCvs ((((unwait s g).core g.k).sreg o.rd.toNat).setWidth 32)).any (fun v => !(((unwait s g).core g.k).cv v).isIdle) = false →
    exec (.cvLaunch o) s = .next (issuedTo ((maskCvs ((((unwait s g).core g.k).sreg o.rd.toNat).setWidth 32)).foldl (fun t v =>
      t.updCv g.k v (fun x => launchCv x v (target (((unwait s g).core g.k).sreg o.ra.toNat)) (((unwait s g).core g.k).sreg o.rb.toNat)))
      (unwait s g)) g 4)) ∧
  (∀ (o : LaunchOp) (s : State) (g : Grp),
    Issues s o.core o.face (isCc o.face && o.fn == 0 && o.rd == 0 && o.rb == 0) [⟨o.ra.toNat, 1, false⟩] g →
    (maskCvs ((((unwait s g).core g.k).sreg o.ra.toNat).setWidth 32)).all (fun v => (((unwait s g).core g.k).cv v).isIdle) = true →
    exec (.cvWait o) s = .next (issuedTo (unwait s g) g 4)) ∧
  (∀ (o : MmaOp) (s : State) (g : Grp), mmaOk o = true →
    Issues s o.core o.face (!isCc o.face && o.rsvHi == 0 && o.rsvLo == 0)
      (regSpan o.xb.toNat (mmaXn o) false ++ regSpan o.wb.toNat (mmaWn o) false ++ regSpan o.cb.toNat 32 true ++
        (if isBlock o.xfmt.toNat then regSpan o.sb.toNat 1 false else [])) g →
    divergeFault s g false = none → exec (.cvMma o) s = .next (issued (park (unwait s g) g (some o)) g))

/-- R80, R81, R112, R123, R126, R272: KERNEL_END, COLLECTIVE_CONVERGE, COLLECTIVE_GRANT, COLLECTIVE_SECTION_FREE and
COLLECTIVE_C_READABLE complete. -/
def Obligations.CollectivesComplete : Prop :=
  (∀ (k : Fin 256) (s : State), coreRuns s k = true → (s.core k).kend = 1 → coreDrained (s.core k) = true →
    coreQuiet (flushCore s k) k = true →
    exec (.kernelEnd k) s = .next ((flushCore s k).updCore k (fun c => { c with kend := 2, wait := .none }))) ∧
  (∀ (k : Fin 256) (v : Fin 32) (s : State) (op : MmaOp), coreRuns s k = true → ((s.core k).cv v).parked ≠ [] →
    (∀ l < 32, ((s.core k).cv v).state l = .idle ∨ ((s.core k).cv v).state l = .parked) →
    ((s.core k).cv v).parkOp = some op → ((s.core k).cv v).coll = none →
    exec (.collectiveConverge k v) s = .next ((s.updCv k v (fun x => { x.unpark 8 with coll := some ⟨1, op, x.parkPc, 0, []⟩ })).updMx k (fun m =>
      { m with
        converged := m.converged ++ [v.val], mode := if m.mode = .idle then .sections else m.mode
        window := if m.mode = .idle then fld m.arb 31 24 != 0 && decide (fld m.arb 31 24 ≤ m.run) else m.window }))) ∧
  (∀ (k : Fin 256) (s : State) (v sec : Nat) (rest : List Nat) (q : Coll), coreRuns s k = true → (s.core k).mx.converged = v :: rest →
    ((s.core k).cv v).coll = some q → (List.range 16).find? (fun i => (tfind (s.core k).mx.sections i).isNone) = some sec →
    (s.core k).mx.mode = .sections → geomR q.op.xfmt.toNat ≤ (s.budget k).mx →
    ∃ t, exec (.collectiveGrant k) s = .next t ∧ (((t.core k).cv v).coll.map Coll.phase) = some 2 ∧
      (((t.core k).cv v).coll.map Coll.sec) = some sec ∧ (((t.core k).cv v).coll.map Coll.frag) = some ((s.core k).cv v).regs ∧
      tfind (t.core k).mx.sections sec = some v ∧ (t.core k).mx.converged = rest) ∧
  (∀ (k : Fin 256) (sec : Fin 16) (s : State) (v : Nat), tfind (s.core k).mx.sections sec = some v →
    exec (.collectiveSectionFree k sec) s =
      .next ((s.updCv k v (fun x => { x with coll := x.coll.map (fun q => { q with phase := 3 }) })).updMx k (fun m =>
        Matrix.settle { m with sections := tdel m.sections sec }))) ∧
  (∀ (k : Fin 256) (v : Fin 32) (s : State) (q : Coll), ((s.core k).cv v).coll = some q → q.phase = 3 →
    ∃ t, exec (.collectiveCReadable k v) s = .next t ∧ ((t.core k).cv v).coll = none)

/-! The streaming path of the matrix array (03, 04). -/

/-- R66, R67, R165, R166: MT.WR writes a tile descriptor, MT.RDL and MT.RDH read its halves, and PASS and DRAIN add an entry to the matrix
queue, which holds 16 entries: each completes, and a PASS on a chain member joins the member's next step. -/
def Obligations.MatrixInstructionsComplete : Prop :=
  (∀ (o : RrrOp) (s : State) (g : Grp),
    Issues s o.core o.face (isCc o.face && !o.w && o.rd.toNat / 8 == 0) [⟨o.ra.toNat, 1, false⟩, ⟨o.rb.toNat, 1, false⟩] g →
    exec (.mtWr o) s = .next (issuedTo ((unwait s g).updMx g.k (fun m => { m with
      mt := tset 0 m.mt (o.rd.toNat % 8) (BitVec.append (((unwait s g).core g.k).sreg o.rb.toNat) (((unwait s g).core g.k).sreg o.ra.toNat)) })) g 4)) ∧
  (∀ e ∈ [(Instr.mtRdl, 0), (Instr.mtRdh, 64)], ∀ (o : RrrOp) (s : State) (g : Grp),
    Issues s o.core o.face (isCc o.face && !o.w && o.rb == 0 && o.ra.toNat / 8 == 0) [⟨o.rd.toNat, 1, true⟩] g →
    exec (e.1 o) s = .next (issuedTo (wrReg (unwait s g) g 0 o.rd.toNat true
      ((tget 0#128 ((unwait s g).core g.k).mx.mt (o.ra.toNat % 8)).extractLsb' e.2 64)) g 4)) ∧
  (∀ (o : RrrOp) (s : State) (g : Grp),
    Issues s o.core o.face (isCc o.face && !o.w && o.ra == 0 && o.rb == 0 && o.rd.toNat / 8 == 0) [] g →
    orderBlock (unwait s g) g.k .cc = none → ((unwait s g).core g.k).mx.queue.length < 16 →
    ∃ t q, exec (.mxPass o) s = .next t ∧ (t.core g.k).mx.queue = ((unwait s g).core g.k).mx.queue ++ [q] ∧ q.drain = false ∧
      q.desc = tget 0#128 ((unwait s g).core g.k).mx.mt (o.rd.toNat % 8) ∧ q.state = .queued ∧ q.pc = g.pc ∧
      q.map = ((unwait s g).core g.k).sp.pmap ∧
      q.step = (if (chainOf (unwait s g) g.k).isSome then ((unwait s g).core g.k).mx.stepIn + 1 else 0)) ∧
  (∀ (o : RrrOp) (s : State) (g : Grp),
    Issues s o.core o.face (isCc o.face && !o.w && o.rd == 0) [⟨o.ra.toNat, 1, false⟩, ⟨o.rb.toNat, 1, false⟩] g →
    orderBlock (unwait s g) g.k .cc = none → ((unwait s g).core g.k).mx.queue.length < 16 →
    ∃ t q, exec (.mxDrain o) s = .next t ∧ (t.core g.k).mx.queue = ((unwait s g).core g.k).mx.queue ++ [q] ∧ q.drain = true ∧
      q.desc = (BitVec.append (((unwait s g).core o.core).sreg o.rb.toNat) (((unwait s g).core o.core).sreg o.ra.toNat)) ∧
      q.state = .queued ∧ q.pc = g.pc ∧ q.map = ((unwait s g).core g.k).sp.pmap ∧ q.step = 0)

namespace Sys2Proof.Machine

/-- No drain of core `k` waits for its checks, so that the head of the matrix queue is a pass that can go on (R74). -/
def NoDrainDue (s : State) (k : Nat) : Prop := nextCheck (s.core k).mx.queue 0 = none

/-- The queue of core `k` after entry `i` became `q`, and nothing else of the machine but what `f` says. -/
def QueueSet (s t : State) (k i : Nat) (q : MxCmd) : Prop :=
  (t.core k).mx.queue = (s.core k).mx.queue.set i q ∧ ∀ j, j ≠ k → (t.core j).mx.queue = (s.core j).mx.queue

end Sys2Proof.Machine

/-- R65, R69, R71, R72: PASS_VALIDATE makes the oldest queued pass LOADING when every check holds, WEIGHT_BAND_WRITE loads its next band and
makes it READY after the last, WEIGHT_FRONT_START makes it RUNNING, and PASS_LAST_VECTOR makes the running pass FLUSHING. -/
def Obligations.PassStagesComplete : Prop :=
  (∀ (k : Fin 256) (s : State) (i : Nat) (q : MxCmd), coreRuns s k = true → NoDrainDue s k → nextPass (s.core k) = some (i, q) →
    q.state = .queued → passBad s k i q = none →
    ∃ t, exec (.passValidate k) s = .next t ∧ QueueSet s t k i { q with state := .loading }) ∧
  (∀ (k : Fin 256) (s : State) (i : Nat) (q : MxCmd), coreRuns s k = true → nextPass (s.core k) = some (i, q) → q.state = .loading →
    runWaits s k q ⟨false, ((64 * mtWAddr q.desc + 64 * q.bands : Nat) : Int), (64 * mtWStride q.desc : Nat),
      min 64 (wColBytes q.desc - 64 * q.bands), 128, false⟩ = false →
    (q.bands = 0 → runWaits s k q (wExpRun q.desc) = false) →
    ∃ t, exec (.weightBandWrite k) s = .next t ∧
      QueueSet s t k i { loadBand (s.core k).sp q.desc q.bands q with
        state := if 64 * (q.bands + 1) < wColBytes q.desc then .loading else .ready }) ∧
  (∀ (k : Fin 256) (s : State) (i : Nat) (q : MxCmd), coreRuns s k = true → NoDrainDue s k → nextPass (s.core k) = some (i, q) →
    q.step = 0 → frontReady s k i q = true → admitsPass s k (bigPass s k q.desc) q.desc = true →
    ∃ t, exec (.weightFrontStart k) s = .next t ∧
      QueueSet s t k i { q with
        state := .running, fronted := true, ximg := (takeX (s.core k).sp q.desc).1, xslots := (takeX (s.core k).sp q.desc).2.1 } ∧
      (t.core k).sp = (takeX (s.core k).sp q.desc).2.2 ∧ (t.core k).mx.run = (s.core k).mx.run + 1) ∧
  (∀ (k : Fin 256) (s : State) (i : Nat) (q : MxCmd), findMx (s.core k) (fun q => !q.drain && q.state == .running) = some (i, q) →
    ∃ t, exec (.passLastVector k) s = .next t ∧ QueueSet s t k i { q with state := .flushing })

namespace Sys2Proof.Machine

/-- The rows that entry `q` of the queue writes for vector `m`, unread by a drain before place `i` (R63). -/
def rowsFree (s : State) (k i : Nat) (q : MxCmd) : Prop :=
  ((s.core k).mx.queue.take i).any (fun e => e.drain && (if q.toAcc then slotRows q.wide (q.rowOf q.vec) 1 else []).any (fun r =>
    (slotRows e.wide (drAcc e.desc + (if e.wide then 2 * e.row else e.row)) (drRows e.desc - e.row)).contains r)) = false

end Sys2Proof.Machine

/-- R60, R61, R63, R72: ACCUMULATOR_WRITE adds one vector of the oldest pass in the array: START writes the column results to the accumulator,
MERGE merges them into it; X_RECORD_RELEASE gives the record's slots back; PASS_DONE frees the entry. -/
def Obligations.AccumulationCompletes : Prop :=
  (∀ (k : Fin 256) (s : State) (i : Nat) (q : MxCmd),
    findMx (s.core k) (fun q => !q.drain && q.fronted && decide (q.vec < mtM q.desc)) = some (i, q) → rowsFree s k i q →
    (mtTop q.desc = 1 → (tfind (s.core k).mx.link (linkKey q.step q.vec 127)).isSome = true) →
    ∃ t, exec (.accumulatorWrite k) s = .next t ∧ (t.core k).mx.queue = (s.core k).mx.queue.set i { q with vec := q.vec + 1 } ∧
      (twfFrom 0#64 none (s.core k).mx.acc = true → mtTop q.desc ≠ 1 → mtAccMode q.desc < 2 → ∀ n < 128,
        accPair (t.core k).mx q.wide (q.rowOf q.vec) n =
          (if mtAccMode q.desc = 0 then (passColumn q q.vec n 0).1
          else (pairMerge (accFmt q.wide) (accPair (s.core k).mx q.wide (q.rowOf q.vec) n) (passColumn q q.vec n 0).1).1) %
            2 ^ (if q.wide then 128 else 64))) ∧
  (∀ (k : Fin 256) (s : State) (i : Nat) (q : MxCmd),
    findMx (s.core k) (fun q => !q.drain && q.fronted && !q.xslots.isEmpty && decide (q.xrel < mtM q.desc)) = some (i, q) →
    ∃ t, exec (.xRecordRelease k) s = .next t ∧ QueueSet s t k i { q with xrel := q.xrel + 1 } ∧
      (t.core k).sp = ((q.xslots.drop (q.xrel * xSlots q.desc)).take (xSlots q.desc)).foldl Scratch.giveBack (s.core k).sp) ∧
  (∀ (k : Fin 256) (s : State) (i : Nat) (q : MxCmd), findMx (s.core k) (fun q => !q.drain && q.fronted) = some (i, q) →
    q.state = .flushing → mtM q.desc ≤ q.vec → (q.xslots = [] ∨ mtM q.desc ≤ q.xrel) →
    ∃ t, exec (.passDone k) s = .next t ∧ (t.core k).mx.queue = (s.core k).mx.queue.eraseIdx i)

/-- R76, R77, R78: DRAIN_ROW_WRITE writes one output row of the oldest drain: its packed elements go to the scratchpad, and the entry
leaves the queue after the last row. -/
def Obligations.DrainRowCompletes : Prop :=
  ∀ (k : Fin 256) (s : State) (i : Nat) (q : MxCmd), coreRuns s k = true → NoDrainDue s k →
    findMx (s.core k) (fun q => q.drain) = some (i, q) → q.agreed = true →
    (∀ e ∈ (s.core k).mx.queue.take i, e.toAcc = false) → (∀ r ∈ [drRun q.desc, drExpRun q.desc], runWaits s k q r = false) →
    ∃ t, exec (.drainRowWrite k) s = .next t ∧
      (t.core k).mx.queue = (if q.row + 1 < drRows q.desc then
        (s.core k).mx.queue.set i { q with state := .running, row := q.row + 1 } else (s.core k).mx.queue.eraseIdx i) ∧
      ∃ bits exps fl, drainRow (s.core k).mx q.wide q.desc (drAcc q.desc + (if q.wide then 2 * q.row else q.row)) = (bits, exps, fl) ∧
        (t.core k).sp.data = mwriteBytes (((s.core k).sp.write (64 * drDst q.desc + 64 * drStride q.desc * q.row) (drRowBytes q.desc)
          (packBits (ebits (drFmt q.desc)) bits)).data) (64 * drDs q.desc + drRowExps q.desc * q.row) (exps.map (BitVec.ofNat 8))

/-- R80, R83: ARRAY_STREAM_EXIT leaves STREAM when no pass runs and none is READY, or STREAM_RUN fronts have run while collectives wait,
for SECTIONS while a collective has converged, else for IDLE; YIELD_WINDOW_END closes the window.
CHAIN_STEP_COMPARE (R90, R93, R94) marks the passes of a step as agreed when they have the same formats and M, and rejects them on every member
with cause 0x7 when not; CHAIN_STEP_START starts the head's front, and CHAIN_MEMBER_FRONT_START the next member's. -/
def Obligations.ArrayModesAndChainsComplete : Prop :=
  (∀ (k : Fin 256) (s : State), (s.core k).mx.mode = .stream →
    (s.core k).mx.queue.any (fun q => !q.drain && (q.fronted || q.go) && decide (q.vec < mtM q.desc)) = false →
    (readyPass (s.core k).mx = false ∨ Matrix.yields (s.core k).mx = true) →
    ∃ t, exec (.arrayStreamExit k) s = .next t ∧
      (t.core k).mx.mode = (if (s.core k).mx.converged.isEmpty then .idle else .sections) ∧
      ((s.core k).mx.converged ≠ [] → (t.core k).mx.window = Matrix.yields (s.core k).mx) ∧
      (t.core k).mx.queue = (s.core k).mx.queue ∧ (t.core k).mx.acc = (s.core k).mx.acc) ∧
  (∀ (k : Fin 256) (s : State), (s.core k).mx.window = true → (s.core k).mx.mode = .sections →
    ∃ t, exec (.yieldWindowEnd k) s = .next t ∧ (t.core k).mx.window = false ∧
      (t.core k).mx.mode = (if readyPass (s.core k).mx then (if (s.core k).mx.sections.isEmpty then .stream else .toStream)
        else if (s.core k).mx.sections.isEmpty && (s.core k).mx.converged.isEmpty then .idle else .sections)) ∧
  (∀ (k : Fin 256) (s : State) (n : Nat) (l : List (Nat × Nat × MxCmd)), coreRuns s k = true →
    firstStep s k (fun q => !q.agreed) = some n → stepOf s k n = some l → (∀ e ∈ l, e.2.2.state ≠ .queued) →
    exec (.chainStepCompare k) s = .next (
      if (∀ e ∈ l, ∀ g ∈ l, mtX e.2.2.desc = mtX g.2.2.desc ∧ mtW e.2.2.desc = mtW g.2.2.desc ∧ mtM e.2.2.desc = mtM g.2.2.desc) then
        l.foldl (fun s e => putMx s e.1 e.2.1 { e.2.2 with agreed := true }) s
      else l.foldl (fun s e => mxFault s e.1 0x0A e.2.2) (l.foldl (fun s e => cutQueue (noteMx s e.1 7 e.2.2) e.1 e.2.1) s))) ∧
  (∀ (k : Fin 256) (s : State) (n : Nat) (e : Nat × Nat × MxCmd) (l : List (Nat × Nat × MxCmd)), coreRuns s k = true →
    firstStep s k (fun q => !q.fronted) = some n → stepOf s k n = some (e :: l) →
    (∀ x ∈ e :: l, x.2.2.agreed = true ∧ x.2.2.go = false ∧ x.2.2.fronted = false ∧ frontReady s x.1 x.2.1 x.2.2 = true ∧
      admitsPass s x.1 ((e :: l).any (fun y => bigPass s y.1 y.2.2.desc)) x.2.2.desc = true) →
    exec (.chainStepStart k) s = .next (startFront (((e :: l).foldl (fun s x =>
      putMx (chargePass s x.1 x.2.2.desc) x.1 x.2.1 { x.2.2 with go := true }) s).bumpCluster (clusterOf k) 7 0xFFFF 1)
      e.1 e.2.1 { e.2.2 with go := true })) ∧
  (∀ (k : Fin 256) (s : State) (i : Nat) (q : MxCmd), findMx (s.core k) (fun q => !q.drain && q.go && !q.fronted) = some (i, q) →
    (∀ e ∈ (s.core (k.val - 1)).mx.queue, ¬ (e.drain = false ∧ e.step = q.step ∧ e.go = true ∧ e.fronted = false)) →
    exec (.chainMemberFrontStart k) s = .next (startFront s k i q))

/-! The vector engine (07). -/

namespace Sys2Proof.Machine

/-- R170, R187 to R195: the functions of VEC, VSUM and VMEM: opcode, FN, whether SD is read, whether it is written, whether RM may be other
than 0 and whether SAT may be 1. -/
def vectorForms : List ((VecOp → Instr) × Nat × Nat × Bool × Bool × Bool × Bool) :=
  ([(.vadd, 0x00), (.vsub, 0x01), (.vmul, 0x02), (.vfma, 0x03), (.vfnma, 0x04), (.vdiv, 0x05), (.vsqrt, 0x06), (.vrcp, 0x0B), (.vand, 0x11),
    (.vor, 0x12), (.vxor, 0x13), (.vsll, 0x14), (.vsrl, 0x15), (.vsra, 0x16), (.vsel, 0x17)].map
      (fun (e : (VecOp → Instr) × Nat) => (e.1, 0x39, e.2, false, false, true, false))) ++
  ([(.vmin, 0x07), (.vmax, 0x08), (.vabs, 0x09), (.vneg, 0x0A), (.vmov, 0x0F), (.viota, 0x18), (.vceq, 0x40), (.vcne, 0x41), (.vclt, 0x42),
    (.vcle, 0x43), (.vcltu, 0x44), (.vcleu, 0x45), (.vcnan, 0x46), (.vmand, 0x48), (.vmor, 0x49), (.vmxor, 0x4A), (.vmnot, 0x4B),
    (.vpmerge, 0x70)].map (fun (e : (VecOp → Instr) × Nat) => (e.1, 0x39, e.2, false, false, false, false))) ++
  ([(.vadds, 0x0C), (.vmuls, 0x0D), (.vfmas, 0x0E)].map (fun (e : (VecOp → Instr) × Nat) => (e.1, 0x39, e.2, true, false, true, false))) ++
  [(.vbcast, 0x39, 0x10, true, false, false, false), (.vcvt, 0x39, 0x60, false, false, true, true),
    (.vcvtBexp, 0x39, 0x61, false, false, true, true)] ++
  ([(.vAny, 0), (.vAll, 1), (.vCount, 2), (.vFirst, 3), (.vsumMin, 4), (.vsumMax, 5)].map
    (fun (e : (VecOp → Instr) × Nat) => (e.1, 0x3A, e.2, false, true, false, false))) ++
  ([(.vSum, 6), (.vNorm, 7)].map (fun (e : (VecOp → Instr) × Nat) => (e.1, 0x3A, e.2, false, true, true, false))) ++
  ([(fun o => .vgather o 0, 0), (fun o => .vscatter o 0, 1), (fun o => .vgather o 1, 2), (fun o => .vscatter o 1, 3), (.vwWr0, 0x10), (.vwWr1, 0x11), (.vlSet, 0x14)].map
    (fun (e : (VecOp → Instr) × Nat) => (e.1, 0x3B, e.2, true, false, false, false))) ++
  ([(.vwRd0, 0x12), (.vwRd1, 0x13), (.vlGet, 0x15)].map
    (fun (e : (VecOp → Instr) × Nat) => (e.1, 0x3B, e.2, false, true, false, false)))

end Sys2Proof.Machine

/-- R110, R182, R184: every vector instruction completes its issue: its fields and the value of SD enter the vector queue, and an s register
that it will write becomes pending. -/
def Obligations.VectorInstructionsComplete : Prop :=
  ∀ e ∈ vectorForms, ∀ (o : VecOp) (s : State) (g : Grp),
    Issues s o.core o.face (vecLegal o ⟨e.2.1, e.2.2.1, e.2.2.2.1, e.2.2.2.2.1, e.2.2.2.2.2.1, e.2.2.2.2.2.2⟩)
      (if e.2.2.2.1 || e.2.2.2.2.1 then [⟨o.sd.toNat, 1, e.2.2.2.2.1⟩] else []) g →
    orderBlock (unwait s g) g.k .cc = none →
    ((unwait s g).core g.k).ve.queue.length + ((unwait s g).core g.k).ve.chans.length < 32 →
    ∃ t v, exec (e.1 o) s = .next t ∧ (t.core g.k).ve.queue = ((unwait s g).core g.k).ve.queue ++ [v] ∧
      v.op = e.2.1 ∧ v.fn = e.2.2.1 ∧ v.rm = o.rm ∧ v.sat = o.sat ∧ v.sd = o.sd.toNat ∧ v.vd = o.vd.toNat ∧ v.va = o.va.toNat ∧
      v.vb = o.vb.toNat ∧ v.vm = o.vm.toNat ∧ v.maskEn = o.maskEn ∧ v.s = ((unwait s g).core g.k).sreg o.sd.toNat ∧ v.pc = g.pc ∧
      v.started = false ∧ v.idx = 0 ∧ v.rd = 0 ∧
      (t.core g.k).sPend = ((unwait s g).core g.k).sPend ++ (if e.2.2.2.2.1 then [o.sd.toNat] else [])

namespace Sys2Proof.Machine

/-- R187, R188: element functions on integers of width `w`: FN, and the result of the elements of VA and VB, the scalar and the index. -/
def vecIntForms : List (Nat × ((w : Nat) → BitVec w → BitVec w → BitVec w → Nat → BitVec w)) :=
  [(0x00, fun _ a b _ _ => a + b), (0x01, fun _ a b _ _ => a - b), (0x02, fun _ a b _ _ => a * b),
   (0x05, fun w a b _ _ => if b = 0 then BitVec.allOnes w else a.sdiv b),
   (0x07, fun _ a b _ _ => if a.slt b then a else b), (0x08, fun _ a b _ _ => if a.slt b then b else a),
   (0x09, fun _ a _ _ _ => if a.slt 0 then -a else a), (0x0A, fun _ a _ _ _ => -a), (0x0C, fun _ a _ c _ => a + c),
   (0x0D, fun _ a _ c _ => a * c), (0x0F, fun _ a _ _ _ => a), (0x10, fun _ _ _ c _ => c), (0x11, fun _ a b _ _ => a &&& b),
   (0x12, fun _ a b _ _ => a ||| b), (0x13, fun _ a b _ _ => a ^^^ b), (0x14, fun w a b _ _ => a <<< (b.toNat % w)),
   (0x15, fun w a b _ _ => a >>> (b.toNat % w)), (0x16, fun w a b _ _ => a.sshiftRight (b.toNat % w)), (0x18, fun w _ _ _ i => BitVec.ofNat w i)]

/-- R188: the compares of integers. -/
def vecCmpForms : List (Nat × ((w : Nat) → BitVec w → BitVec w → Bool)) :=
  [(0x40, fun _ a b => a == b), (0x41, fun _ a b => a != b), (0x42, fun _ a b => a.slt b), (0x43, fun _ a b => a.sle b),
   (0x44, fun _ a b => a.ult b), (0x45, fun _ a b => a.ule b)]

end Sys2Proof.Machine

/-- R142, R187, R188: on INT32 and INT64 windows each element function gives the result of the table, wraps, and raises no flag; a compare
gives 1 or 0; a mask operation gives its bit; VSEL takes VA where the mask is 1 and VB elsewhere, for any format that is no block format. -/
def Obligations.VectorElementResults : Prop :=
  (∀ e ∈ vecIntForms, ∀ fmt, fmt = 6 ∨ fmt = 7 → ∀ (rm : BitVec 2) (d : Nat) (a b c : BitVec (ebits fmt)) (m : Bool) (ea i : Nat),
    vecElem e.1 fmt fmt rm false d a.toNat b.toNat (c.setWidth 64) m ea i = ((e.2 (ebits fmt) a b c i).toNat, 0)) ∧
  (∀ e ∈ vecCmpForms, ∀ fmt, fmt = 6 ∨ fmt = 7 → ∀ (rm : BitVec 2) (d dst : Nat) (a b : BitVec (ebits fmt)) (c : W64) (m : Bool) (ea i : Nat),
    vecElem e.1 fmt dst rm false d a.toNat b.toNat c m ea i = ((e.2 (ebits fmt) a b).toNat, 0)) ∧
  (∀ e ∈ [(0x48, fun (a b : Bool) => a && b), (0x49, fun a b => a || b), (0x4A, fun a b => a != b), (0x4B, fun a _ => !a)],
    ∀ (f dst : Nat) (rm : BitVec 2) (d : Nat) (a b : Bool) (c : W64) (m : Bool) (ea i : Nat),
    vecElem e.1 f dst rm false d a.toNat b.toNat c m ea i = ((e.2 a b).toNat, 0)) ∧
  (∀ (f : Nat) (rm : BitVec 2) (d a b : Nat) (c : W64) (m : Bool) (ea i : Nat),
    vecElem 0x17 f f rm false d a b c m ea i = (if m then a else b, 0))

namespace Sys2Proof.Machine

/-- The head of the vector queue of core `k` as it begins: with the windows and VE_VL of that moment (R182). -/
def headOf (s : State) (k : Nat) (v : VeInstr) : VeInstr := { v with win := (s.core k).ve.win, vl := (s.core k).ve.vl }

end Sys2Proof.Machine

/-- R182, R196, R203: VECTOR_QUEUE_HEAD completes at a head that has not begun: the first failed check rejects it; otherwise VL.SET sets VE_VL,
VW.WR0 and VW.WR1 write a window's word, VW.RD0, VW.RD1 and VL.GET write their s register, a gather or scatter goes to its channel when that
is free and waits when not, and every other instruction begins to run with the windows and VE_VL of that moment. At a head that has begun it
runs on; without a head, or on a core that does not run, it changes nothing. -/
def Obligations.VectorQueueHeadCompletes : Prop :=
  (∀ (k : Fin 256) (s : State) (v : VeInstr) (rest : List VeInstr), coreRuns s k = true → (s.core k).ve.queue = v :: rest →
    v.done = false → v.started = false →
    (∀ b, veCheck (s.core k).sp (headOf s k v) = some b → exec (.vectorQueueHead k) s = .next (veReject s k (headOf s k v) b)) ∧
    (veCheck (s.core k).sp (headOf s k v) = none →
      ((v.op = 0x3B ∧ v.fn = 0x14) → ∃ t, exec (.vectorQueueHead k) s = .next t ∧ (t.core k).ve.vl = v.s.toNat ∧
        (t.core k).ve.win = (s.core k).ve.win) ∧
      (∀ e ∈ [(0x10, 0, 0xFFFFFFFFFFFFF000#64), (0x11, 1, 0xFFFFFFFFF8000000#64)], (v.op = 0x3B ∧ v.fn = e.1) →
        twfFrom 0#64 none (s.core k).ve.win = true → ∃ t, exec (.vectorQueueHead k) s = .next t ∧ (t.core k).ve.vl = (s.core k).ve.vl ∧
          ∀ j, tget 0 (t.core k).ve.win j = if j = 2 * v.vd + e.2.1 then v.s &&& e.2.2 else tget 0 (s.core k).ve.win j) ∧
      (∀ e ∈ [(0x12, tget 0 (s.core k).ve.win (2 * v.va)), (0x13, tget 0 (s.core k).ve.win (2 * v.va + 1)),
          (0x15, BitVec.ofNat 64 (s.core k).ve.vl)], (v.op = 0x3B ∧ v.fn = e.1) → twfFrom 0#64 none (s.core k).sregs = true → 0 < v.sd →
        ∃ t, exec (.vectorQueueHead k) s = .next t ∧ (t.core k).sreg v.sd = e.2 ∧ (t.core k).sPend = (s.core k).sPend.erase v.sd) ∧
      ((v.op = 0x3B ∧ v.fn < 4) → tfind (s.core k).ve.chans (v.fn / 2) = none →
        exec (.vectorQueueHead k) s = .next (chanRun (s.updVe k (fun e => { e with
          queue := rest, chans := tput e.chans (v.fn / 2) { headOf s k v with started := true } })) k (v.fn / 2))) ∧
      ((v.op = 0x3B ∧ v.fn < 4) → (tfind (s.core k).ve.chans (v.fn / 2)).isSome = true → exec (.vectorQueueHead k) s = .next s) ∧
      (v.op ≠ 0x3B → exec (.vectorQueueHead k) s = .next (veRun s k { headOf s k v with started := true })))) ∧
  (∀ (k : Fin 256) (s : State) (v : VeInstr) (rest : List VeInstr), coreRuns s k = true → (s.core k).ve.queue = v :: rest →
    v.done = false → v.started = true → v.op ≠ 0x3B → exec (.vectorQueueHead k) s = .next (veRun s k v)) ∧
  (∀ (k : Fin 256) (s : State), coreRuns s k = false ∨ (s.core k).ve.queue = [] ∨ (∃ v rest, (s.core k).ve.queue = v :: rest ∧ v.done = true) →
    exec (.vectorQueueHead k) s = .next s)

namespace Sys2Proof.Machine

/-- A finished instruction has left the vector queue: a summary has written its SD register (R193), which is pending no longer. -/
def HeadLeaves (s t : State) (k : Nat) (v : VeInstr) (rest : List VeInstr) : Prop :=
  (t.core k).ve.queue = rest ∧
    (v.op = 0x3A → (t.core k).sPend = (s.core k).sPend.erase v.sd ∧
      (twfFrom 0#64 none (s.core k).sregs = true → 0 < v.sd → (t.core k).sreg v.sd = (sumResult v.fn (v.window v.win 1).fmt v.rm v.lanes).1)) ∧
    (v.op ≠ 0x3A → (t.core k).sregs = (s.core k).sregs)

end Sys2Proof.Machine

/-- R183, R193, R196: VECTOR_COMPLETE takes a finished head from the queue, which runs on first where it is not finished; a summary writes its
SD register. A channel serves its elements, and frees when all are. Where nothing is finished yet, what has run stays; on a core that
does not run, or where nothing has begun, nothing changes. -/
def Obligations.VectorCompleteCompletes : Prop :=
  (∀ (k : Fin 256) (s : State) (v : VeInstr) (rest : List VeInstr), coreRuns s k = true → (s.core k).ve.queue = v :: rest →
    (v.finished = true → ∃ t, exec (.vectorComplete k .queue) s = .next t ∧ HeadLeaves s t k v rest) ∧
    (v.finished = false → v.started = false → exec (.vectorComplete k .queue) s = .next s) ∧
    (v.finished = false → v.started = true → ∀ w r, ((veRun s k v).core k).ve.queue = w :: r →
      (w.finished = true → ∃ t, exec (.vectorComplete k .queue) s = .next t ∧ HeadLeaves (veRun s k v) t k w r) ∧
      (w.finished = false → exec (.vectorComplete k .queue) s = .next (veRun s k v)))) ∧
  (∀ (k : Fin 256) (ch : Fin 2) (s : State), coreRuns s k = true → (tfind (s.core k).ve.chans ch).isSome = true →
    ∀ v, tfind ((chanRun s k ch).core k).ve.chans ch = some v →
      (v.vl ≤ v.idx → ∃ t, exec (.vectorComplete k (.chan ch)) s = .next t ∧ (t.core k).ve.chans = tdel ((chanRun s k ch).core k).ve.chans ch ∧
        (t.core k).ve.queue = ((chanRun s k ch).core k).ve.queue) ∧
      (v.idx < v.vl → exec (.vectorComplete k (.chan ch)) s = .next (chanRun s k ch))) ∧
  (∀ (k : Fin 256) (ch : Fin 2) (s : State), coreRuns s k = false ∨ tfind (s.core k).ve.chans ch = none →
    exec (.vectorComplete k (.chan ch)) s = .next s) ∧
  (∀ (k : Fin 256) (s : State), coreRuns s k = false ∨ (s.core k).ve.queue = [] → exec (.vectorComplete k .queue) s = .next s)

/-! DMA (09) and the scratchpad's control (08). -/

namespace Sys2Proof.Machine

/-- The descriptor access of DMA.SUB (R167, R230). -/
def descWant (o : RrrOp) (g : Grp) (s : State) : Want :=
  ⟨.desc, 64, rdReg s g 0 o.ra.toNat true, 0, BitVec.ofNat 128 ((s.core g.k).dma.issued + 1), (s.core g.k).sp.pmap.setWidth 64, false, false⟩

end Sys2Proof.Machine

/-- R167, R229, R242: DMA.SUB issues the next sequence number to RD; DMA.WAIT goes on when every command numbered at most RA has left the
queue. -/
def Obligations.DmaInstructionsComplete : Prop :=
  (∀ (o : RrrOp) (s t : State) (g : Grp),
    Issues s o.core o.face (isCc o.face && !o.w && o.rb == 0) [⟨o.rd.toNat, 1, true⟩, ⟨o.ra.toNat, 1, false⟩] g →
    laneFaults s g (fun _ => descWant o g s) = none → laneFaults (unwait s g) g (fun _ => descWant o g (unwait s g)) = none →
    ((unwait s g).core g.k).dma.queue.length < 64 → laneAccess (unwait s g) g (unwait s g).mem.nextId 0 (descWant o g (unwait s g)) = .done t →
    exec (.dmaSub o) s = .next (issuedTo (wrReg (t.updDma g.k (fun d => { d with issued := d.issued + 1 })) g 0 o.rd.toNat true
      (BitVec.ofNat 64 (((unwait s g).core g.k).dma.issued + 1))) g 4)) ∧
  (∀ (o : RrrOp) (s : State) (g : Grp),
    Issues s o.core o.face (isCc o.face && !o.w && o.rd == 0 && o.rb == 0) [⟨o.ra.toNat, 1, false⟩] g →
    (∀ a ∈ ((unwait s g).core g.k).acc, a.op ≠ .desc) →
    (∀ q ∈ ((unwait s g).core g.k).dma.queue, (rdReg (unwait s g) g 0 o.ra.toNat true).toNat < q.seq) →
    exec (.dmaWait o) s = .next (issuedTo (unwait s g) g 4))

/-- R229, R234, R235, R238, R242, R245: a queued command whose core is the only one of the cluster with work is dispatched when no check of the
first stage fails; it is translated when every page is allowed; it begins to move when nothing holds it; and when it has moved
everything it leaves the queue and its number counts as done. -/
def Obligations.DmaStagesComplete : Prop :=
  (∀ (e : Fin 64) (k : Nat) (s : State) (q : DmaCmd), k / 8 = e.val / 2 → nextDispatch s k = some q →
    (∀ j, j / 8 = e.val / 2 → j ≠ k → nextDispatch s j = none) →
    (∀ j, j / 8 = e.val / 2 → ∀ p ∈ (s.core j).dma.queue, p.stage ≠ .queued → p.engine ≠ e.val) →
    (∀ b, dmaCheck (s.core k).sp { q with stage := .dispatched, engine := e.val } = some b →
      ∃ u, exec (.dmaDispatch e) s = .next (dmaFault u k { q with stage := .dispatched, engine := e.val } b.cause b.side b.addr b.ring b.addr)) ∧
    (dmaCheck (s.core k).sp { q with stage := .dispatched, engine := e.val } = none →
      ∃ t, exec (.dmaDispatch e) s = .next t ∧ dmaFind t k q.seq = some { q with stage := .dispatched, engine := e.val } ∧
        (∀ j, j ≠ k → t.core j = s.core j))) ∧
  (∀ (k : Fin 256) (seq : W64) (s s1 s2 s3 : State) (q q1 q2 q3 : DmaCmd) (cr : Tbl Nat), dmaFind s k seq.toNat = some q →
    q.stage = .dispatched → coreRuns s k = true → cr = (if q.crAddr = 0 then [] else [(vpnOf q.crAddr, 0)]) →
    dmaFindPages s k q 0 ((q.pagesLeft false).map Prod.fst) = (s1, q1) →
    dmaFindPages s1 k q1 1 ((q.pagesLeft true).map Prod.fst) = (s2, q2) →
    dmaFindPages s2 k q2 2 (cr.map Prod.fst) = (s3, q3) →
    (∀ e ∈ q.pagesLeft false ++ q.pagesLeft true ++ cr, (q3.heldPage e.1).isSome = true ∨ ∃ f ∈ q3.failed, f.1 = e.1) →
    q3.countPages ((q.pagesLeft false).map Prod.fst) ≤ 512 → q3.countPages ((q.pagesLeft true).map Prod.fst) ≤ 512 →
    (∀ x ∈ [(0, q.pagesLeft false), (1, q.pagesLeft true), (2, cr)], dmaSideFails (dmaPut s3 k q3) k q3 x.1 x.2 = []) →
    exec (.dmaTranslationDone k seq) s = .next (dmaPut (dmaPut s3 k q3) k { q3 with stage := .translated })) ∧
  (∀ (k : Fin 256) (seq : W64) (s : State) (q : DmaCmd), dmaFind s k seq.toNat = some q → q.stage = .translated → coreRuns s k = true →
    dmaDirty s k q = [] → dmaHeld s k q = false → dmaWbOpen s k q = false →
    exec (.dmaFirstRequest k seq) s = .next (dmaRun (dmaPut s k { q with stage := .moving }) k q.seq)) ∧
  (∀ (k : Fin 256) (seq : W64) (s : State) (q : DmaCmd), dmaFind (dmaRun s k seq.toNat) k seq.toNat = some q → q.stage = .moving →
    q.doomed = 0 → q.movedAll = true → q.hostLast = none → dmaFenced (dmaRun s k seq.toNat) k q.seq = false → q.crAddr = 0 →
    ∃ t, exec (.dmaComplete k seq) s = .next t ∧ dmaFind t k seq.toNat = none ∧
      (t.core k).dma = ((dmaRun s k seq.toNat).core k).dma.finish q.seq)

/-- R168, R209, R210, R215, R217, R218: SP.PMAP, SP.RING.WR, SP.RING.RD, SP.TAG.FULL and SP.TAG.EMPTY complete: the map changes and its changed
groups are in transit; a ring's words are written when no take of it is open or due; a ring's word goes to RD; a tag is set. -/
def Obligations.ScratchpadControlCompletes : Prop :=
  (∀ (o : RrrOp) (s : State) (g : Grp) (m : W32),
    Issues s o.core o.face (isCc o.face && !o.w && o.rd == 0 && o.rb == 0) [⟨o.ra.toNat, 1, false⟩] g →
    m = ((s.core o.core).sreg o.ra.toNat).setWidth 32 → (∀ i < 8, mapClass m i ≤ 4) → (s.core o.core).sp.transit = [] →
    exec (.spPmap o) s = .next (issuedTo ((unwait s g).updSp g.k (fun sp => { sp with
      pmap := m
      transit := ((List.range 8).filter (fun i => mapField sp.pmap i != mapField m i)).map
        (fun i => (i, BitVec.ofNat 4 (mapField sp.pmap i))) })) g 4)) ∧
  (∀ (o : RrrOp) (s : State) (g : Grp),
    Issues s o.core o.face (isCc o.face && !o.w) [⟨o.ra.toNat, 1, false⟩, ⟨o.rb.toNat, 1, false⟩] g →
    ringBad ((s.core o.core).sreg o.ra.toNat) ((s.core o.core).sreg o.rb.toNat) = false →
    (∀ t ∈ ((unwait s g).core g.k).sp.taken, t.ring ≠ o.rd.toNat) → ringWanted ((unwait s g).core g.k) o.rd.toNat = false →
    exec (.spRingWr o) s = .next (issuedTo ((unwait s g).updSp g.k (fun sp => { sp with
      rings := tset 0 (tset 0 sp.rings (2 * o.rd.toNat) ((s.core o.core).sreg o.ra.toNat &&& 0xFFFFFFFFF8000000#64))
        (2 * o.rd.toNat + 1) ((s.core o.core).sreg o.rb.toNat &&& 0x7FFF7FFF#64) })) g 4)) ∧
  (∀ (o : RrrOp) (b : Bool) (s : State) (g : Grp),
    Issues s o.core o.face (isCc o.face && !o.w && o.rb == 0) [⟨o.rd.toNat, 1, true⟩] g →
    exec (.spRingRd o b) s = .next (issuedTo (wrReg (unwait s g) g 0 o.rd.toNat true
      (tget 0 ((unwait s g).core g.k).sp.rings (2 * o.ra.toNat + b.toNat))) g 4)) ∧
  (∀ e ∈ [(Instr.spTagFull, true), (Instr.spTagEmpty, false)], ∀ (o : RrrOp) (s : State) (g : Grp),
    Issues s o.core o.face (isCc o.face && !o.w && o.rd == 0 && o.rb == 0) [⟨o.ra.toNat, 1, false⟩] g →
    ((s.core o.core).sreg o.ra.toNat).toNat % 2 ^ 32 < 2 ^ 21 →
    exec (e.1 o) s = .next (issuedTo ((unwait s g).updSp g.k (fun sp =>
      sp.setTag (((s.core o.core).sreg o.ra.toNat).toNat % 2 ^ 32 / 64) e.2)) g 4))

/-- R210, R216, R219: TRANSIT_END ends a transit when nothing uses the group under its old field; RING_SLOT_RETURN gives a finished slot to the
other side: FULL from a producer, EMPTY from a consumer; TAG_WAIT_RETRY makes a blocked access whose tag has come. -/
def Obligations.ScratchpadEventsComplete : Prop :=
  (∀ (k : Fin 256) (g : Fin 8) (s : State) (old : BitVec 4), tfind (s.core k).sp.transit g = some old →
    (transitUsed (s.core k) g old.toNat = false →
      exec (.transitEnd k g) s = .next (wakeCore (spFollow ((s.core k).sp.moving.foldl (fun s x => spMoves s k x)
        (s.updSp k (fun sp => { sp with transit := tdel sp.transit g, moving := [] }))) k) k) ∧
      ((s.core k).sp.moving = [] → (s.core k).sp.behind = [] → ∃ t, exec (.transitEnd k g) s = .next t ∧
        (t.core k).sp = { (s.core k).sp with transit := tdel (s.core k).sp.transit g })) ∧
    (transitUsed (s.core k) g old.toNat = true → exec (.transitEnd k g) s = .next s)) ∧
  (∀ (k : Fin 256) (g : Fin 8) (s : State), tfind (s.core k).sp.transit g = none → exec (.transitEnd k g) s = .next s) ∧
  (∀ (k : Fin 256) (slot : BitVec 15) (s : State), (∀ x ∈ (s.core k).sp.taken, x.slot = slot.toNat → x.finished = false) →
    exec (.ringSlotReturn k slot) s = .next s) ∧
  (∀ (k : Fin 256) (slot : BitVec 15) (s : State) (x : Taken), (s.core k).sp.taken.find? (fun t => t.slot == slot.toNat) = some x →
    x.finished = true →
    ∃ t, exec (.ringSlotReturn k slot) s = .next t ∧ (t.core k).sp.full = tset false (s.core k).sp.full slot.toNat x.producer ∧
      (∀ y ∈ (t.core k).sp.taken, y.slot ≠ slot.toNat)) ∧
  (∀ (k : Fin 256) (s : State) (w : TagWait) (a : SpAccess), coreRuns s k = true → (s.core k).sp.waits = [w] → w.who = .face a →
    isFull (s.core k).sp w.slot = w.full →
    spMeets (s.core k).sp a = .nothing → (s.core k).sp.behind = [] →
    ∃ t, exec (.tagWaitRetry k) s = .next t ∧ (t.core k).sp.waits = [] ∧
      (a.store = true → a.amo = none → (t.core k).sp.data = mwrite (s.core k).sp.data a.addr (sizeBytes (BitVec.ofNat 3 a.code)) a.data.toNat))

/-! Coherence (11). -/

namespace Sys2Proof.Machine

/-- Message `m` is the first about its line between an agent and the line's home, one way, and the path carries it: it arrives, and `rest`
stays in flight. -/
def Arrives (s : State) (who : Agent) (line : Nat) (toHome : Bool) (m : Msg) (rest : List Msg) : Prop :=
  takeFirst (fun m => m.who == who && m.line == line && m.kind.toHome == toHome) s.mem.msgs = some (m, rest) ∧
    linkHeld s who line = false

/-- R286: the requests of an L2, of a DMA engine and of the hub die, by the kind that their messages carry. -/
def requestForms : List ((Fin 32 → BitVec 31 → Instr) × (ReqKind → Bool)) :=
  [(.rdS, (· == .rdS)), (.rdX, (· == .rdX)), (.upg, (· == .upg)), (.sf, (· == .sf)), (.wt, (· == .wt)), (.ucRd, (· == .ucRd)),
   (.ucWr, (· == .ucWr)), (.amoH, fun k => match k with | .amo _ => true | _ => false)]

end Sys2Proof.Machine

/-- R286, R287: RD_S, RD_X, UPG, SF, WT, UC_RD, UC_WR, AMO_H, DMA_RD and DMA_WR complete: the request takes the last place in its home's
queue. -/
def Obligations.RequestsReachTheirHome : Prop :=
  (∀ e ∈ requestForms, ∀ (c : Fin 32) (line : BitVec 31) (s : State) (m : Msg) (k : ReqKind) (rest : List Msg),
    Arrives s (.l2 c) line.toNat true m rest → m.kind = .req k → e.2 k = true → dieDown s (homeOf line.toNat) = false →
    ∃ t, exec (e.1 c line) s = .next t ∧ t.mem.msgs = rest ∧
      (t.home (homeOf line.toNat)).queue = (s.home (homeOf line.toNat)).queue ++ [m] ∧
      (t.home (homeOf line.toNat)).dir = (s.home (homeOf line.toNat)).dir) ∧
  (∀ e ∈ [(Instr.dmaRd, ReqKind.dmaRd), (Instr.dmaWr, ReqKind.dmaWr)],
    ∀ (a : Agent) (line : BitVec 31) (s : State) (m : Msg) (rest : List Msg),
    Arrives s a line.toNat true m rest → m.kind = .req e.2 → dieDown s (homeOf line.toNat) = false →
    ∃ t, exec (e.1 a line) s = .next t ∧ t.mem.msgs = rest ∧
      (t.home (homeOf line.toNat)).queue = (s.home (homeOf line.toNat)).queue ++ [m])

/-- R286, R287, R290: HOME_TRANSACTION_START serves the first queued request of a line that is not BUSY: an RD_S of a line that no cluster holds is
granted DATA_E with the sectors of HBM and makes its cluster the owner; an RD_X of a line that others share sends INV to each of them
and awaits their answers. -/
def Obligations.HomeTransactionsStart : Prop :=
  (∀ (line : BitVec 31) (s : State) (m : Msg) (c : Fin 32) (rest : List Msg) (p : Nat),
    homeBusy (s.home (homeOf line.toNat)) line.toNat = false → unitSt s .channel (channelOf line.toNat) ≠ .recovering →
    takeFirst (fun m => m.line == line.toNat) (s.home (homeOf line.toNat)).queue = some (m, rest) → m.line = line.toNat →
    m.kind = .req .rdS → m.who = .l2 c → m.size = 0 →
    (∀ x ∈ (s.home (homeOf line.toNat)).active, x.evict ≠ some line.toNat) → dirFind (s.home (homeOf line.toNat)) line.toNat = none →
    dirVictim (s.home (homeOf line.toNat)) line.toNat = some (p, none) →
    ∃ t, exec (.homeTransactionStart line) s = .next t ∧
      t.mem.msgs = s.mem.msgs ++ [⟨.dataE, m.who, m.line, m.mask, (readSectors s m.line m.mask).1, (readSectors s m.line m.mask).2, m.id,
        m.size, 0, 0⟩] ∧
      dirFind (t.home (homeOf line.toNat)) line.toNat = some (p, ⟨line.toNat, true, BitVec.ofNat 32 (2 ^ c.val)⟩) ∧
      (t.home (homeOf line.toNat)).queue = rest ∧ homeBusy (t.home (homeOf line.toNat)) line.toNat = false) ∧
  (∀ (line : BitVec 31) (s : State) (m : Msg) (c : Fin 32) (rest : List Msg) (p : Nat) (e : DirEnt),
    homeBusy (s.home (homeOf line.toNat)) line.toNat = false → unitSt s .channel (channelOf line.toNat) ≠ .recovering →
    takeFirst (fun m => m.line == line.toNat) (s.home (homeOf line.toNat)).queue = some (m, rest) → m.line = line.toNat →
    m.kind = .req .rdX → m.who = .l2 c → dirFind (s.home (homeOf line.toNat)) line.toNat = some (p, e) → e.x = false →
    (sharers e.shar).filter (· ≠ c.val) ≠ [] →
    ∃ t, exec (.homeTransactionStart line) s = .next t ∧
      t.mem.msgs = s.mem.msgs ++ ((sharers e.shar).filter (· ≠ c.val)).map (fun j =>
        { Msg.bare .inv (agentL2 j) line.toNat with mask := m.mask }) ∧
      (t.home (homeOf line.toNat)).queue = rest ∧ homeBusy (t.home (homeOf line.toNat)) line.toNat = true)

namespace Sys2Proof.Machine

/-- The cluster has left the sharer vector of the line (R287): the entry that the home held for the line is gone or does not name the cluster. -/
def LeftVector (s t : State) (line c : Nat) : Prop :=
  ∀ p e, dirFind (s.home (homeOf line)) line = some (p, e) → ∀ e', tfind (t.home (homeOf line)).dir p = some e' → bit e'.shar c = false

/-- The transaction of a line has finished (R287): the line is BUSY no longer, and the home has sent the requester its grant or completion. -/
def TxnEnds (t : State) (line : Nat) (rest : List Msg) (x : HomeTxn) : Prop :=
  homeBusy (t.home (homeOf line)) line = false ∧
    (∀ r, x.evict = none → x.msg.kind = .req r →
      ∃ g, t.mem.msgs = rest ++ [g] ∧ g.who = x.msg.who ∧ g.line = line ∧ g.id = x.msg.id)

/-- The transaction of a line goes on without one of the clusters that it awaited (R287). -/
def TxnGoesOn (s t : State) (line c : Nat) (x : HomeTxn) : Prop :=
  (t.home (homeOf line)).active = updFirst (fun u => u.msg.line == line) (fun _ => { x with await := x.await.filter (· != c) })
    (s.home (homeOf line)).active

/-- The sectors that a message carries are in HBM with its poison, the others of the line as before (R287). -/
def SectorsHome (s t : State) (line : Nat) (m : Msg) : Prop :=
  (∀ q ∈ sectorsOf m.mask, hbmSector t line q = sectorOf m.bytes q ∧ storedPoison t line q = (m.poison / 2 ^ q % 2 == 1)) ∧
    (∀ q < 4, q ∉ sectorsOf m.mask → hbmSector t line q = hbmSector s line q ∧ storedPoison t line q = storedPoison s line q)

/-- The transaction that a home serves for a line (R287). -/
def Serving (s : State) (line : Nat) (x : HomeTxn) : Prop :=
  (s.home (homeOf line)).active.find? (fun t => t.msg.line == line) = some x

end Sys2Proof.Machine

/-- R286, R287, R289, R293: WB and EVC complete whenever they arrive, the line BUSY or not: the sender leaves the sharer vector, and a
WB's sectors are in HBM. INV_ACK, FWD_DATA and NOHOLD of a cluster that the transaction of the line awaits complete when they arrive:
the cluster is awaited no longer while others are, its FWD_DATA's sectors are in HBM, its INV_ACK takes it out of the vector; with the
last answer the line is BUSY no longer and the requester is sent its grant or completion. R294: an answer after its timeout is
discarded, and HOME_TIMEOUT completes for every cluster that is awaited: it records the event, the transaction goes on without the
cluster, whose line is poisoned and which leaves the vector, or ends, and the cluster's fault 0x09 is detected. -/
def Obligations.AnswersReachTheirHome : Prop :=
  (∀ e ∈ [(Instr.wb, MsgKind.wb), (Instr.evc, MsgKind.evc)], ∀ (c : Fin 32) (line : BitVec 31) (s : State) (m : Msg) (rest : List Msg),
    Arrives s (.l2 c) line.toNat true m rest → m.kind = e.2 →
    ∃ t, exec (e.1 c line) s = .next t ∧ t.mem.msgs = rest ∧ LeftVector s t line.toNat c.val ∧
      (m.kind = .wb → dieDown s (homeOf line.toNat) = false → SectorsHome s t line.toNat m)) ∧
  (∀ e ∈ [(Instr.invAck, MsgKind.invAck), (Instr.fwdData, MsgKind.fwdData), (Instr.nohold, MsgKind.nohold)],
    ∀ (c : Fin 32) (line : BitVec 31) (s : State) (m : Msg) (rest : List Msg) (x : HomeTxn),
    Arrives s (.l2 c) line.toNat true m rest → m.kind = e.2 → (line.toNat, c.val) ∉ (s.home (homeOf line.toNat)).late →
    Serving s line.toNat x → c.val ∈ x.await →
    ∃ t, exec (e.1 c line) s = .next t ∧
      (x.await.filter (· != c.val) ≠ [] → t.mem.msgs = rest ∧ TxnGoesOn s t line.toNat c.val x ∧
        (m.kind = .invAck → LeftVector s t line.toNat c.val) ∧ (m.kind = .fwdData → SectorsHome s t line.toNat m)) ∧
      (x.await.filter (· != c.val) = [] → TxnEnds t line.toNat rest x ∧
        (m.kind = .fwdData → x.msg.kind = .req .rdS ∨ x.msg.kind = .req .rdX ∨ x.evict.isSome = true → SectorsHome s t line.toNat m))) ∧
  (∀ e ∈ [(Instr.invAck, MsgKind.invAck), (Instr.fwdData, MsgKind.fwdData), (Instr.nohold, MsgKind.nohold)],
    ∀ (c : Fin 32) (line : BitVec 31) (s : State) (m : Msg) (rest : List Msg),
    Arrives s (.l2 c) line.toNat true m rest → m.kind = e.2 → (line.toNat, c.val) ∈ (s.home (homeOf line.toNat)).late →
    ∃ t, exec (e.1 c line) s = .next t ∧ t.mem.msgs = rest ∧ t.mem.hbm = s.mem.hbm ∧
      (t.home (homeOf line.toNat)).dir = (s.home (homeOf line.toNat)).dir ∧
      (t.home (homeOf line.toNat)).active = (s.home (homeOf line.toNat)).active ∧
      (t.home (homeOf line.toNat)).late = (s.home (homeOf line.toNat)).late.erase (line.toNat, c.val)) ∧
  (∀ (c : Fin 32) (line : BitVec 31) (s : State) (x : HomeTxn), Serving s line.toNat x → c.val ∈ x.await →
    ∃ u, exec (.homeTimeout line c) s = .next (faultDetect u .cluster c.val 9) ∧
      u.rel.timeouts = s.rel.timeouts ++ [⟨line.toNat, homeOf line.toNat, c.val⟩] ∧
      (x.await.filter (· != c.val) ≠ [] → u.mem.msgs = s.mem.msgs ∧ TxnGoesOn s u line.toNat c.val x ∧ LeftVector s u line.toNat c.val ∧
        (∀ q < 4, storedPoison u line.toNat q = true)) ∧
      (x.await.filter (· != c.val) = [] → TxnEnds u line.toNat s.mem.msgs x) ∧
      (answerComes s line.toNat c = true → (line.toNat, c.val) ∈ (u.home (homeOf line.toNat)).late))

namespace Sys2Proof.Machine

/-- A message has arrived, and `rest` stays in flight. -/
def received (s : State) (m : Msg) (rest : List Msg) : State := countMsg { s with mem := { s.mem with msgs := rest } } m false

end Sys2Proof.Machine

/-- R278, R283, R284, R286, R291, R293: DATA_S, DATA_E, DATA_X and GNT complete: the cluster takes the line, S or exclusive, and its waiting
accesses are tried again; data for which no way is eligible wait, and data for a line that the cluster has given up since bring
nothing (log 86). DATA_U and ACK give an access of a core its data or old value, a DMA unit or the hub its answer. A command whose
message has not come changes nothing. -/
def Obligations.GrantsReachTheirCluster : Prop :=
  (∀ e ∈ [(Instr.dataS, MsgKind.dataS, LineState.s), (Instr.dataE, MsgKind.dataE, LineState.e), (Instr.dataX, MsgKind.dataX, LineState.e)],
    ∀ (c : Fin 32) (line : BitVec 31) (s : State) (m : Msg) (rest : List Msg), Arrives s (.l2 c) line.toNat false m rest → m.kind = e.2.1 →
    (grantStands (received s m rest) c m.line = false →
      exec (e.1 c line) s = .next (retryLine (closeOpen (received s m rest) c.val m.line) c.val m.line)) ∧
    (grantStands (received s m rest) c m.line = true → roomL2 s c.val m.line = false → exec (e.1 c line) s = .next s) ∧
    (grantStands (received s m rest) c m.line = true → roomL2 s c.val m.line = true → exec (e.1 c line) s =
      .next (retryLine (installGrant (received s m rest) c.val m.line (some e.2.2) m.mask m.bytes m.poison) c.val m.line))) ∧
  (∀ (c : Fin 32) (line : BitVec 31) (s : State) (m : Msg) (rest : List Msg), Arrives s (.l2 c) line.toNat false m rest → m.kind = .gnt →
    exec (.gnt c line) s = .next (retryLine (updL2Line (closeOpen (received s m rest) c.val m.line) c.val m.line (fun l =>
      { l with st := if l.st = LineState.s then .e else l.st })) c.val m.line)) ∧
  (∀ (c : Fin 32) (line : BitVec 31) (s : State) (m : Msg) (rest : List Msg), Arrives s (.l2 c) line.toNat false m rest → m.kind = .dataU →
    (∀ k a, accOf s (coresOf c.val) m.id = some (k, a) →
      exec (.dataU (.l2 c) line) s = .next (retryLine (accessBack (received s m rest) k a.id m.bytes m.poison) c.val m.line)) ∧
    (accOf s (coresOf c.val) m.id = none → exec (.dataU (.l2 c) line) s = .next (askWaiting (received s m rest) c.val))) ∧
  (∀ (s : State) (k : Nat) (a : Access) (bs : Bytes) (p : Nat), accOf s [k] a.id = some (k, a) → a ∈ (s.core k).acc → served s k a = [a] →
    a.isStore = false →
    accessBack s k a.id bs p = deliver s k a (leNat ((List.range a.size).map (fun i => byteIn bs (64 * a.sec + a.off + i)))) (p / 2 ^ a.sec % 2 == 1)) ∧
  (∀ (c : Fin 32) (line : BitVec 31) (s u : State) (m : Msg) (rest : List Msg), Arrives s (.l2 c) line.toNat false m rest → m.kind = .ack →
    u = (if m.poison = 0 then updateCopies (received s m rest) c.val m.line m.bytes else received s m rest) →
    (∀ k a, accOf s (coresOf c.val) m.id = some (k, a) → exec (.ack (.l2 c) line) s = .next (retryLine
      (if a.isAmo then deliver u k a m.val.toNat (m.poison != 0) else accessBack u k a.id [] m.poison) c.val m.line)) ∧
    (accOf s (coresOf c.val) m.id = none → exec (.ack (.l2 c) line) s = .next (retryLine u c.val m.line))) ∧
  (∀ (e : Fin 64) (line : BitVec 31) (s : State) (m : Msg) (rest : List Msg), Arrives s (.dma e) line.toNat false m rest →
    (m.kind = .dataU → exec (.dataU (.dma e) line) s = .next (askWaiting (dmaBack (received s m rest) m.id (byteIn m.bytes) m.poison) (e.val / 2))) ∧
    (m.kind = .ack → exec (.ack (.dma e) line) s = .next (askWaiting (dmaBack (received s m rest) m.id (fun _ => 0) m.poison) (e.val / 2)))) ∧
  (∀ (line : BitVec 31) (s : State) (m : Msg) (rest : List Msg), Arrives s .hub line.toNat false m rest →
    (m.kind = .dataU → exec (.dataU .hub line) s = .next (endpointBack (received s m rest) m.id m.bytes m.poison)) ∧
    (m.kind = .ack → exec (.ack .hub line) s = .next (endpointBack (received s m rest) m.id [] 0))) ∧
  (∀ e ∈ [(Instr.dataS, MsgKind.dataS), (Instr.dataE, MsgKind.dataE), (Instr.dataX, MsgKind.dataX), (Instr.gnt, MsgKind.gnt)],
    ∀ (c : Fin 32) (line : BitVec 31) (s : State), (∀ m rest, Arrives s (.l2 c) line.toNat false m rest → m.kind ≠ e.2) →
    exec (e.1 c line) s = .next s) ∧
  (∀ e ∈ [(Instr.dataU, MsgKind.dataU), (Instr.ack, MsgKind.ack)], ∀ (w : Agent) (line : BitVec 31) (s : State),
    (∀ m rest, Arrives s w line.toNat false m rest → m.kind ≠ e.2) → exec (e.1 w line) s = .next s)

/-- R286, R293: INV, FWD_S, FWD_X and FWD_R complete whatever the cluster holds of the line: the holder answers INV_ACK or FWD_DATA with its dirty
sectors (FWD_R: those that are named), and a cluster that has released the line answers NOHOLD. A probe that has not come changes nothing. -/
def Obligations.ProbesReachTheirCluster : Prop :=
  (∀ (c : Fin 32) (line : BitVec 31) (s : State) (m : Msg) (rest : List Msg), Arrives s (.l2 c) line.toNat false m rest → m.kind = .inv →
    ∃ t, exec (.invMsg c line) s = .next t ∧
      (l2Line s c.val m.line = none → t.mem.msgs = rest ++ [Msg.bare .nohold (agentL2 c) m.line]) ∧
      ((l2Line s c.val m.line).isSome = true → t.mem.msgs = rest ++ [Msg.bare .invAck (agentL2 c) m.line])) ∧
  (∀ (c : Fin 32) (line : BitVec 31) (s : State) (m : Msg) (rest : List Msg), Arrives s (.l2 c) line.toNat false m rest → m.kind = .fwdS →
    ∃ t, exec (.fwdS c line) s = .next t ∧
      (l2Owns s c.val m.line = false → t.mem.msgs = rest ++ [Msg.bare .nohold (agentL2 c) m.line]) ∧
      (l2Owns s c.val m.line = true → ∃ l, l2Line ((coresOf c.val).foldl (fun u k => downgradeL1 u k m.line) (received s m rest)) c.val m.line = some l ∧
        t.mem.msgs = rest ++ [{ Msg.bare .fwdData (agentL2 c) m.line with
        mask := (dirtyLoad l 0xF).1, bytes := (dirtyLoad l 0xF).2.1, poison := (dirtyLoad l 0xF).2.2 }])) ∧
  (∀ (c : Fin 32) (line : BitVec 31) (s : State) (m : Msg) (rest : List Msg), Arrives s (.l2 c) line.toNat false m rest → m.kind = .fwdX →
    ∃ t, exec (.fwdX c line) s = .next t ∧
      (l2Owns s c.val m.line = false → t.mem.msgs = rest ++ [Msg.bare .nohold (agentL2 c) m.line]) ∧
      (l2Owns s c.val m.line = true → ∃ l, l2Line (dropAllL1 (received s m rest) c.val m.line) c.val m.line = some l ∧
        t.mem.msgs = rest ++ [{ Msg.bare .fwdData (agentL2 c) m.line with
        mask := (dirtyLoad l 0xF).1, bytes := (dirtyLoad l 0xF).2.1, poison := (dirtyLoad l 0xF).2.2 }])) ∧
  (∀ (c : Fin 32) (line : BitVec 31) (s : State) (m : Msg) (rest : List Msg), Arrives s (.l2 c) line.toNat false m rest → m.kind = .fwdR →
    ∃ t, exec (.fwdR c line) s = .next t ∧
      (l2Owns s c.val m.line = false → t.mem.msgs = rest ++ [Msg.bare .nohold (agentL2 c) m.line]) ∧
      (l2Owns s c.val m.line = true → ∃ l, l2Line ((coresOf c.val).foldl (fun u k => mergeUp u k m.line) (received s m rest)) c.val m.line = some l ∧
        t.mem.msgs = rest ++ [{ Msg.bare .fwdData (agentL2 c) m.line with
        mask := (dirtyLoad l m.mask).1, bytes := (dirtyLoad l m.mask).2.1, poison := (dirtyLoad l m.mask).2.2 }])) ∧
  (∀ e ∈ [(Instr.invMsg, MsgKind.inv), (Instr.fwdS, MsgKind.fwdS), (Instr.fwdX, MsgKind.fwdX), (Instr.fwdR, MsgKind.fwdR)],
    ∀ (c : Fin 32) (line : BitVec 31) (s : State), (∀ m rest, Arrives s (.l2 c) line.toNat false m rest → m.kind ≠ e.2) →
    exec (e.1 c line) s = .next s)

/-! Translation (12) and the host's registers (16). -/

namespace Sys2Proof.Machine

/-- The state in which PAGE_WALK reads the tables: the walk has left its list, which `rest` continues, and the L2 copies are the newest. -/
def walkBase (s : State) (c n v : Nat) (rest : List Walk) : State :=
  walkRead (s.setCluster c { s.cluster c with walks := rest ++ (s.cluster c).walks.drop 16 }) c n v

/-- A walk of a page is one of the 16 in flight (R317), and the L2 holds all that it reads; `rest` are the others. -/
def WalkReady (s : State) (c n v : Nat) (w : Walk) (rest : List Walk) : Prop :=
  takeFirst (fun t => t.ctx == n && t.vpn == v) ((s.cluster c).walks.take 16) = some (w, rest) ∧ walkMiss s c n v = none

/-- A requester is parked on the translation fault of a page (R114, R198). -/
def ParkedAt (t : State) (v : Nat) : Walker → Prop
  | .face k (.chan ch) => tfind (t.core k).ve.parked ch = some v
  | .face k (.thread j l) => tget Wait.none ((t.core k).cv j).waits l = .fault v
  | .face k _ => (t.core k).wait = .fault v
  | .dma _ _ => True

/-- A requester of a face waits on its walk no longer, and its core's L1 TLB holds the entry (R314, R317). -/
def Translated (t : State) (e : TlbEnt) : Walker → Prop
  | .face k (.chan _) => ∃ p, tfind (t.core k).tlb.ents p = some e
  | .face k (.thread j l) => tget Wait.none ((t.core k).cv j).waits l = .none ∧ ∃ p, tfind (t.core k).tlb.ents p = some e
  | .face k _ => (t.core k).wait = .none ∧ ∃ p, tfind (t.core k).tlb.ents p = some e
  | .dma _ _ => True

end Sys2Proof.Machine

/-- R312, R313, R316, R317, R319: PAGE_WALK completes in every state. A walk whose table lines are not in the cluster's L2 asks for the
next of them, SF where the L2 owns the line and RD_S otherwise, if no request for it is open and the home has a credit. One that has
them all leaves the list: at a leaf its entry, merged where it may be, is in the cluster's L2 TLB and in the L1 TLB of every core whose
requester waited, which waits no longer; at V = 0 every requester that waited is parked, and where one does and fewer than 256 records
are open, a record of the page is open. -/
def Obligations.PageWalkCompletes : Prop :=
  (∀ (c : Fin 32) (ctx : BitVec 12) (vpn : BitVec 52) (s : State), ∃ t, exec (.pageWalk c ctx vpn) s = .next t) ∧
  (∀ (c : Fin 32) (ctx : BitVec 12) (vpn : BitVec 52) (s : State) (w : Walk) (rest : List Walk) (level : Nat) (e : W64) (off : Nat),
    WalkReady s c ctx.toNat vpn.toNat w rest →
    walk (walkBase s c ctx.toNat vpn.toNat rest) c ctx.toNat vpn.toNat = .leaf level e off →
    ∃ t p x, exec (.pageWalk c ctx vpn) s = .next t ∧ (t.cluster c).walks = rest ++ (s.cluster c).walks.drop 16 ∧
      x = mergedEntry (walkBase s c ctx.toNat vpn.toNat rest) ctx.toNat level off vpn.toNat e ∧ tfind (t.cluster c).tlb.ents p = some x ∧
      ∀ y ∈ w.who, waitsHere (walkBase s c ctx.toNat vpn.toNat rest) ctx.toNat vpn.toNat y.1 = true → Translated t x y.1) ∧
  (∀ (c : Fin 32) (ctx : BitVec 12) (vpn : BitVec 52) (s : State) (w : Walk) (rest : List Walk) (level : Nat),
    WalkReady s c ctx.toNat vpn.toNat w rest →
    walk (walkBase s c ctx.toNat vpn.toNat rest) c ctx.toNat vpn.toNat = .invalid level →
    ∃ t, exec (.pageWalk c ctx vpn) s = .next t ∧ (t.cluster c).walks = rest ++ (s.cluster c).walks.drop 16 ∧
      (∀ y ∈ w.who, waitsHere (walkBase s c ctx.toNat vpn.toNat rest) ctx.toNat vpn.toNat y.1 = true → ParkedAt t vpn.toNat y.1) ∧
      (s.mem.recs.length < 256 → (∃ k r b, (Walker.face k r, b) ∈ w.who ∧
        waitsHere (walkBase s c ctx.toNat vpn.toNat rest) ctx.toNat vpn.toNat (.face k r) = true) →
        t.mem.recs.any (fun r => r.ctx == ctx.toNat && r.vpn == vpn.toNat) = true)) ∧
  (∀ (c : Fin 32) (ctx : BitVec 12) (vpn : BitVec 52) (s : State) (w : Walk) (rest : List Walk) (line mask : Nat),
    takeFirst (fun t => t.ctx == ctx.toNat && t.vpn == vpn.toNat) ((s.cluster c).walks.take 16) = some (w, rest) →
    walkMiss s c ctx.toNat vpn.toNat = some (line, mask) → (∀ o ∈ (s.cluster c).open_, o.1 ≠ line) → hasCredit s line c = true →
    exec (.pageWalk c ctx vpn) s = .next (sendMsg (s.setCluster c { s.cluster c with open_ := (s.cluster c).open_ ++
      [(line, if l2Owns s c line then .sf else .rdS, mask)] })
      { Msg.bare (.req (if l2Owns s c line then .sf else .rdS)) (agentL2 c) line with mask := mask }))

namespace Sys2Proof.Machine

/-- R322: a command of function `f` is the next of its queue, and no invalidation drains. -/
def NextXlat (s : State) (f : Byte) : Prop := xlatWaits s f.toNat = true

/-- R323: a page-aligned range of pages within one canonical half of the address space. -/
def GoodRange (base len : Nat) : Prop :=
  base % 4096 = 0 ∧ 0 < len ∧ len % 4096 = 0 ∧ (base + len ≤ 2 ^ 47 ∨ (2 ^ 64 - 2 ^ 47 ≤ base ∧ base + len ≤ 2 ^ 64))

end Sys2Proof.Machine

/-- R321, R322, R323: INV_RANGE, INV_CTX and RESOLVE complete when their command is the next of the queue, and take its entry. With a status
other than 0 each only answers it: 2 of a reserved opcode or field, 1 of a context that is not owned, 3 of a bad range, 4 of a record
that is not open. Else INV_RANGE drops the translations of its pages and INV_CTX those of the context, and the drain begins;
RESOLVE closes the record, wakes the requesters that wait on its page (RETRY) or declares the page invalid (INVALID), and answers the
record's JOINS and ACCESS. INVALIDATION_DRAIN_COMPLETE ends the drain and answers status 0 when nothing uses a dropped translation any more.
-/
def Obligations.TranslationCommandsComplete : Prop :=
  (∀ (f : Byte) (cmd : List W64) (s : State), NextXlat s f → fld (cmd.headD 0) 63 56 = 1 →
    xlatCheck (xlatTake s f.toNat) f.toNat cmd false = 0 →
    (GoodRange (cmd.getD 1 0).toNat (cmd.getD 2 0).toNat →
      exec (.invRange f cmd) s = .next (invalidate (xlatTake s f.toNat) f.toNat (fld (cmd.headD 0) 55 44) ((cmd.getD 1 0).toNat / 4096)
        (((cmd.getD 1 0).toNat + (cmd.getD 2 0).toNat) / 4096) ((cmd.headD 0).setWidth 32))) ∧
    (¬ GoodRange (cmd.getD 1 0).toNat (cmd.getD 2 0).toNat →
      exec (.invRange f cmd) s = .next (xlatDone (xlatTake s f.toNat) f.toNat 3 0 0 ((cmd.headD 0).setWidth 32)))) ∧
  (∀ (f : Byte) (cmd : List W64) (s : State) (op st : Nat), NextXlat s f → fld (cmd.headD 0) 63 56 = op → op ≠ 2 → op ≠ 3 →
    xlatCheck (xlatTake s f.toNat) f.toNat cmd (op != 1) = st → st ≠ 0 →
    exec (.invRange f cmd) s = .next (xlatDone (xlatTake s f.toNat) f.toNat st 0 0 ((cmd.headD 0).setWidth 32))) ∧
  (∀ (f : Byte) (cmd : List W64) (s : State) (st : Nat), NextXlat s f → fld (cmd.headD 0) 63 56 = 2 →
    xlatCheck (xlatTake s f.toNat) f.toNat cmd (cmd.getD 1 0 != 0 || cmd.getD 2 0 != 0) = st →
    (st = 0 → exec (.invCtx f cmd) s = .next (invalidate (xlatTake s f.toNat) f.toNat (fld (cmd.headD 0) 55 44) 0 (2 ^ 52)
      ((cmd.headD 0).setWidth 32))) ∧
    (st ≠ 0 → exec (.invCtx f cmd) s = .next (xlatDone (xlatTake s f.toNat) f.toNat st 0 0 ((cmd.headD 0).setWidth 32)))) ∧
  (∀ (f : Byte) (cmd : List W64) (s : State) (r : FaultRec), NextXlat s f → fld (cmd.headD 0) 63 56 = 3 →
    xlatCheck (xlatTake s f.toNat) f.toNat cmd (fld (cmd.getD 1 0) 63 17 != 0 || cmd.getD 2 0 != 0) = 0 →
    s.mem.recs.find? (fun r => r.id == fld (cmd.getD 1 0) 15 0 && r.ctx == fld (cmd.headD 0) 55 44) = some r →
    (bit (cmd.getD 1 0) 16 = false → exec (.resolve f cmd) s = .next (xlatDone (wakePage (closeRecords (xlatTake s f.toNat) (fun x => x.id == r.id))
      (fld (cmd.headD 0) 55 44) r.vpn) f.toNat 0 r.joins r.access ((cmd.headD 0).setWidth 32))) ∧
    (bit (cmd.getD 1 0) 16 = true → exec (.resolve f cmd) s = .next (xlatDone (declareInvalid (closeRecords (xlatTake s f.toNat) (fun x => x.id == r.id))
      (fld (cmd.headD 0) 55 44) r) f.toNat 0 r.joins r.access ((cmd.headD 0).setWidth 32)))) ∧
  (∀ (f : Byte) (cmd : List W64) (s : State) (st : Nat), NextXlat s f → fld (cmd.headD 0) 63 56 = 3 →
    xlatCheck (xlatTake s f.toNat) f.toNat cmd (fld (cmd.getD 1 0) 63 17 != 0 || cmd.getD 2 0 != 0) = st →
    (st ≠ 0 ∨ s.mem.recs.find? (fun r => r.id == fld (cmd.getD 1 0) 15 0 && r.ctx == fld (cmd.headD 0) 55 44) = none) →
    exec (.resolve f cmd) s =
      .next (xlatDone (xlatTake s f.toNat) f.toNat (if st = 0 then 4 else st) 0 0 ((cmd.headD 0).setWidth 32))) ∧
  (∀ (f : Byte) (s : State) (d : Drain), (s.fn f.toNat).drain = some d →
    (∀ a ∈ d.accs, ∀ x ∈ (s.core a.1).acc, x.id ≠ a.2) →
    (∀ a ∈ d.cmds, ∀ q ∈ (s.core a.1).dma.queue, q.seq = a.2.1 → q.tries ≠ a.2.2) →
    (∀ t ∈ s.mem.fab, t.id ∉ d.wbs) → (∀ a ∈ d.late, ∀ w ∈ (s.core a.1).wbs, w.id ≠ a.2) →
    (∀ a ∈ d.hosts, ∀ h ∈ (s.core a.1).hostSt, h.id ≠ a.2) →
    exec (.invalidationDrainComplete f) s =
      .next (xlatDone (s.setFn f.toNat { s.fn f.toNat with drain := none }) f.toNat 0 0 0 d.tag))

/-- R323: after a drop no TLB entry of the context for a page of the range is left in any core or cluster. -/
def Obligations.InvalidationDropsTranslations : Prop :=
  ∀ (s : State) (n lo hi : Nat),
    (∀ e ∈ (dropXlate s n lo hi).cores, ∀ x ∈ e.2.tlb.ents, ¬ (x.2.ctx = n ∧ x.2.vpn < hi ∧ lo < x.2.vpn + 2 ^ x.2.log2)) ∧
    (∀ e ∈ (dropXlate s n lo hi).mem.clusters, ∀ x ∈ e.2.tlb.ents, ¬ (x.2.ctx = n ∧ x.2.vpn < hi ∧ lo < x.2.vpn + 2 ^ x.2.log2)) ∧
    (∀ e ∈ (dropXlate s n lo hi).mem.clusters, ∀ w ∈ e.2.wcache, w.2.ctx ≠ n) ∧
    (dropXlate s n lo hi).mem.hbm = s.mem.hbm

namespace Sys2Proof.Machine

/-- A write to BAR2 that is a good submission tail (R411). -/
def GoodTail (s : State) (f off size : Nat) (v : W64) : Prop :=
  off % 0x1000 = 0 ∧ size = 8 ∧ (s.ctx (off / 0x1000)).st ≠ .free ∧ (s.ctx (off / 0x1000)).st ≠ .teardown ∧ (s.ctx (off / 0x1000)).st ≠ .dead ∧
    ownsCtx s f (off / 0x1000) = true ∧ v.toNat < sqSize (s.ctx (off / 0x1000))

end Sys2Proof.Machine

/-- R407, R408, R409, R411, R412, R414: the doorbells and REGISTER_WRITE complete for a request that the device serves. A tail within an enabled
ring becomes its tail; a head within a ring that the device writes becomes its head, and what the ring holds goes out as room allows;
a good submission tail becomes the context's, and a context that thereby has work gets it; HI_HOST_WIN of every function takes
its written bits. A request that the device does not serve changes nothing. -/
def Obligations.DoorbellsComplete : Prop :=
  (∀ (f : Byte) (v : W64) (st : Option (Fin 9)) (s : State), hostTakes s f st = true → (s.fn f.toNat).xlatSq.on = true →
    v.toNat < (s.fn f.toNat).xlatSq.size →
    ∃ t, exec (.translationCommandDoorbell ⟨f, st⟩ v) s = .next t ∧ (t.fn f.toNat).xlatSq = { (s.fn f.toNat).xlatSq with tail := v.toNat }) ∧
  (∀ (f : Byte) (v : W64) (st : Option (Fin 9)) (s : State), hostTakes s f st = true → (s.fn f.toNat).adminSq.on = true →
    v.toNat < (s.fn f.toNat).adminSq.size →
    ∃ t, exec (.adminSubmissionDoorbell ⟨f, st⟩ v) s = .next t ∧ (t.fn f.toNat).adminSq = { (s.fn f.toNat).adminSq with tail := v.toNat }) ∧
  (∀ e ∈ [((0 : Fin 3), RingId.adminCq), (1, .xlatCq), (2, .fault)], ∀ (f : Byte) (v : W64) (st : Option (Fin 9)) (s : State),
    hostTakes s f st = true → (getRing (s.fn f.toNat) e.2).on = true → v.toNat < (getRing (s.fn f.toNat) e.2).size →
    exec (.completionHeadDoorbell ⟨f, st⟩ e.1 v) s = .next (pumpRing
      (s.setFn f.toNat (setRing (s.fn f.toNat) { getRing (s.fn f.toNat) e.2 with head := v.toNat } e.2)) f.toNat e.2)) ∧
  (∀ (f : Byte) (off : BitVec 24) (size : Nat) (v : W64) (st : Option (Fin 9)) (s u : State), hostTakes s f st = true →
    GoodTail s f.toNat off.toNat size v →
    u = s.setCtx (off.toNat / 0x1000) { s.ctx (off.toNat / 0x1000) with sqTail := v.toNat } →
    (hasWork (u.ctx (off.toNat / 0x1000)) = false → exec (.submissionDoorbell ⟨f, st⟩ off size v) s = .next u) ∧
    (hasWork (u.ctx (off.toNat / 0x1000)) = true →
      exec (.submissionDoorbell ⟨f, st⟩ off size v) s = .next (getsWork u (off.toNat / 0x1000)))) ∧
  (∀ (f : Byte) (v : W64) (st : Option (Fin 9)) (s : State), hostTakes s f st = true →
    ∃ t, exec (.registerWrite ⟨f, st⟩ (.bar0 8) v) s = .next t ∧ (t.fn f.toNat).win = v &&& 0xFFFFFF0000000001#64) ∧
  (∀ (f : Byte) (off : BitVec 24) (size : Nat) (e : Fin 3) (r : BitVec 26) (v : W64) (st : Option (Fin 9)) (s : State), hostTakes s f st = false →
    exec (.translationCommandDoorbell ⟨f, st⟩ v) s = .next s ∧ exec (.adminSubmissionDoorbell ⟨f, st⟩ v) s = .next s ∧
      exec (.completionHeadDoorbell ⟨f, st⟩ e v) s = .next s ∧ exec (.submissionDoorbell ⟨f, st⟩ off size v) s = .next s ∧
      exec (.registerWrite ⟨f, st⟩ (.bar0 r) v) s = .next s)

/-- R411: any write to BAR2 that the device serves and that is no good submission tail is discarded: nothing changes but the function's DROPPED
count, which holds at its maximum. -/
def Obligations.BadDoorbellIsCounted : Prop :=
  ∀ (f : Byte) (off : BitVec 24) (size : Nat) (v : W64) (st : Option (Fin 9)) (s : State), hostTakes s f st = true →
    ¬ GoodTail s f.toNat off.toNat size v →
    exec (.submissionDoorbell ⟨f, st⟩ off size v) s = .next (s.setFn f.toNat { s.fn f.toNat with
      dropped := if (s.fn f.toNat).dropped < 0xFFFFFFFF then (s.fn f.toNat).dropped + 1 else 0xFFFFFFFF })

/-! Ports, packets and the beacon (13, 14, 18). -/

/-- R333, R334, R350, R356, R363, R456, R457: the commands of a port complete. Signal on a port that is DOWN and may try starts TRAIN; an agreed width
HELLO; the third identical hello frame in a row SECURE with the peer learnt, and a frame before it is counted; transcripts that agree
RANGE under the keys of the PRK, which is HKDF of the digests and secrets in the order of the ends; a measured delay ACTIVE_M. A
timeout of TRAIN, HELLO, SECURE or RANGE enters DOWN, a port fault unless the port recovers already, and holds the next attempt off;
PORT_RETRY allows it. A lane group that is lost narrows the port, or with the last one takes it DOWN. WIDTH ends in the state before,
and entering it begins the replay of what is unacknowledged. A key-switch symbol waits once 2^35 slots of the epoch have gone, and the
flit that carries it begins the next epoch. A write of port control with a reserved value changes nothing; a good one sets the word,
and EN disables or enables the port. -/
def Obligations.PortCommandsComplete : Prop :=
  (∀ (p : Fin 32) (gs : BitVec 4) (s : State), (s.port p).st = .down → (s.port p).mayTry = true → gs ≠ 0 →
    ∃ t, exec (.laneSignalDetect p gs) s = .next t ∧ (t.port p).st = .train ∧ (t.port p).groups = gs ∧ (t.port p).alloc = (s.port p).allocNew) ∧
  (∀ (p : Fin 32) (gs : BitVec 4) (w : BitVec 2) (s : State), (s.port p).st = .train →
    min (widthOf gs) (min (fld (s.port p).ctrl 29 28) w.toNat) ≠ 0 →
    ∃ t, exec (.trainComplete p gs w) s = .next t ∧ (t.port p).st = .hello ∧
      (t.port p).width = BitVec.ofNat 2 (min (widthOf gs) (min (fld (s.port p).ctrl 29 28) w.toNat)) ∧ (t.port p).helloRun = 0) ∧
  (∀ (p : Fin 32) (h : Hello) (s : State), (s.port p).st = .hello → (s.port p).helloLast = some h → 2 ≤ (s.port p).helloRun →
    ∃ t, exec (.helloFrame p h) s = .next t ∧ (t.port p).st = .secure ∧ (t.port p).peerPort = h.port.val ∧ (t.port p).peerNode = h.node ∧
      (t.port p).peerDigest = some h.digest ∧ (t.port p).peerValid = (h.node != 0xFFFFF#20)) ∧
  (∀ (p : Fin 32) (h : Hello) (s : State) (n : Nat), (s.port p).st = .hello →
    n = (if (s.port p).helloLast = some h then (s.port p).helloRun + 1 else 1) → n < 3 →
    exec (.helloFrame p h) s = .next (s.setPort p { s.port p with helloLast := some h, helloRun := n })) ∧
  (∀ (p : Fin 32) (peer : BitVec 256) (s : State), (s.port p).peerDigest = some peer → secureAgreed s p = true →
    ∃ t, exec (.secureComplete p peer) s = .next t ∧ (t.port p).st = .range ∧ (t.port p).link.keyed = true ∧
      (t.port p).link.prk = (s.port p).link.prk) ∧
  (∀ (p : Fin 32) (s : State) (dig ours theirs : BitVec 256), (s.port p).peerDigest = some dig →
    theirs = Config.kemDecaps kemSeed (bytesOf (((s.port p).link.heard.drop bundleUnits).take cipherUnits)) →
    ((takeCipher s p ours).port p).link.prk = digOf (hkdfExtract
      (if s.sec.digest.toNat < dig.toNat then digBytes s.sec.digest ++ digBytes dig else digBytes dig ++ digBytes s.sec.digest)
      (if s.sec.digest.toNat < dig.toNat then digBytes ours ++ digBytes theirs else digBytes theirs ++ digBytes ours))) ∧
  (∀ (p : Fin 32) (rtt : W32) (s : State), (s.port p).st = .range →
    ∃ t, exec (.rangeComplete p rtt) s = .next t ∧ (t.port p).st = .activeM ∧ (t.port p).hop = (rtt.toNat / 2 + 20) % 2 ^ 32) ∧
  (∀ (p : Fin 32) (s : State), (s.port p).st ∈ [PortState.train, .hello, .secure, .range] →
    ((∀ r ∈ s.rel.running, r.dom = .port → r.unit ≠ p.val) →
      exec (.portStateTimeout p) s = .next ((portFault s p .down).updPort p (fun x => { x with mayTry := false }))) ∧
    ((∃ r ∈ s.rel.running, r.dom = .port ∧ r.unit = p.val) →
      exec (.portStateTimeout p) s = .next ((enterPort s p .down).updPort p (fun x => { x with mayTry := false })))) ∧
  (∀ (p : Fin 32) (s : State),
    ((s.port p).st = .down → ∃ t, exec (.portRetry p) s = .next t ∧ t.port p = { s.port p with mayTry := true }) ∧
    ((s.port p).st = .retrain → ∃ t, exec (.portRetry p) s = .next t ∧ (t.port p).st = .train)) ∧
  (∀ (p : Fin 32) (g : Fin 4) (s : State), bit (s.port p).groups g = true →
    exec (.laneGroupLoss p g) s = .next (if (s.port p).st ∈ [PortState.activeM, .active, .width] then
        (if setBit (s.port p).groups g false = 0 then lastGroup s p g else narrow s p g)
      else s.setPort p { s.port p with groups := setBit (s.port p).groups g false })) ∧
  (∀ (p : Fin 32) (s : State), (s.port p).st = .width →
    (s.port p).back = .activeM ∨ (s.port p).back = .active →
    ∃ t, exec (.widthComplete p) s = .next t ∧ (t.port p).st = (s.port p).back ∧ (t.port p).link = (s.port p).link) ∧
  (∀ (p : Fin 32) (s : State), (enterPort s p .width).port p = { s.port p with
    back := if (s.port p).st = .width then (s.port p).back else (s.port p).st, st := .width
    link := { (s.port p).link with resend := if (s.port p).link.replay = [] then none else some 0 } }) ∧
  (∀ (p : Fin 32) (s : State), (s.port p).link.keyed = true → 2 ^ 35 ≤ (s.port p).link.slots - (s.port p).link.epochAt →
    (∀ e ∈ (s.port p).link.symbols, e.1 ≠ 4) →
    ∃ t, exec (.linkKeySwitch p) s = .next t ∧
      t.port p = { s.port p with link := { (s.port p).link with symbols := (s.port p).link.symbols ++ [(4#3, 0#11)] } }) ∧
  (∀ (p : Fin 32) (h : HeldFlit) (s : State) (l : LinkLayer), h.hello = none → (nextSym l).1 = some (4#3, 0#11) →
    ((flitOut s p h l).port p).link.epochTx = l.epochTx + 1 ∧ ((flitOut s p h l).port p).link.epochAt = l.slots) ∧
  (∀ e ∈ [Instr.portEnWrite, Instr.portDataWrite], ∀ (p : Fin 32) (v : W32) (s : State),
    (fld v 29 28 = 0 ∨ fld v 27 0 ≠ 0 → exec (e p v) s = .next s) ∧
    (fld v 29 28 ≠ 0 → fld v 27 0 = 0 → bit v 31 = true → exec (e p v) s = .next
      (if (s.port p).st = .disabled ∧ unitSt s .port p ≠ .testing then portFault (s.setPort p { s.port p with ctrl := v }) p .down
        else s.setPort p { s.port p with ctrl := v })) ∧
    (fld v 29 28 ≠ 0 → fld v 27 0 = 0 → bit v 31 = false →
      ∃ t, exec (e p v) s = .next t ∧ (t.port p).st = .disabled ∧ ((s.port p).st.carries = false → (t.port p).ctrl = v)))

namespace Sys2Proof.Machine

/-- The oldest packet at the fabric endpoint that does not wait is `p`, of a type, and came on `port`: it has `l` before it and `r` behind. -/
def AtEndpoint (s : State) (type : Nat) (p : Packet) (port : Option Nat) (l r : List (Packet × Option Nat)) : Prop :=
  s.fab.epIn = l ++ (p, port) :: r ∧ (∀ e ∈ l, fillWaits s e.1 = true) ∧ fillWaits s p = false ∧ pkType p = type

/-- The state once that packet has left the endpoint. -/
def offEndpoint (s : State) (l r : List (Packet × Option Nat)) : State := { s with fab := { s.fab with epIn := l ++ r } }

/-- The number that stands for the endpoint in the path of a path-routed packet that it sends (a free value, log 6), and the state after. -/
def pathFill (s : State) (i : Fin 33) (p : Packet) : Nat × State :=
  if i.val = 32 ∧ pkPathed p = true then ((s.free).1.toNat % 32, (s.free).2) else (0, s)

/-- The dictionary request that a management packet carries (R433, R438): its answer goes back over the path, or to the source node. -/
def mgmtReq (s : State) (p : Packet) (port : Option Nat) : KReq where
  path := .fabric
  src := if pkPathed p then (respPacket s p port 0 0 0 [] 0).w1 else BitVec.ofNat 64 (pkSrc p)
  frame := (bytesOf p.body).take (32 + frBodyLen (bytesOf p.body))
  sender := BitVec.ofNat 64 (pkSrc p % 2 ^ 20)
  dropped := false

end Sys2Proof.Machine

/-- R338, R341, R342, R343, R351 to R354, R433, R438: PACKET_FORWARD takes the first packet of a virtual channel of an input, the
endpoint's too, to the endpoint, discards it, or begins it on its port, which gives up its credits, whether all of it has arrived or
not. RD_REQ and WR_REQ become DMA_RD and DMA_WR of the hub die when their export entry accepts them and a credit is free; a refused one
is answered with its status. RD_RSP and WR_ACK end their transaction, also one that was refused, and an answer to no transaction is
discarded. FAB_TXN_TIMEOUT sends a request once more, and then gives it up. A MGMT frame that is admitted joins the dictionary's queue,
or gets its kept answer again; any other is discarded. EVENT records the event, and EVENT_FLUSH sends the kept ones, after one that
counts the dropped. -/
def Obligations.PacketCommandsComplete : Prop :=
  (∀ (i : Fin 33) (vc : BitVec 3) (s : State) (p : Packet), (inputQueue s i).find? (fun p => pkVc p == vc.toNat) = some p →
    (routeOf (pathFill s i p).2 i (pathFill s i p).1 p = .endpoint → packetLen p.w0 ≤ 4 + p.body.length →
      ∃ t, exec (.packetForward i vc) s = .next t ∧ t.fab.epIn = s.fab.epIn ++ [(p, if i.val = 32 then none else some i.val)]) ∧
    (∀ n, routeOf (pathFill s i p).2 i (pathFill s i p).1 p = .drop n → packetLen p.w0 ≤ 4 + p.body.length →
      exec (.packetForward i vc) s = .next (discard (leaveInput (pathFill s i p).2 i vc.toNat) i n p)) ∧
    (∀ q k, routeOf (pathFill s i p).2 i (pathFill s i p).1 p = .port q k → portOpen (s.port q) = true →
      mayBegin (pathFill s i p).2 (pathFill s i p).1 i q k = true → packetLen p.w0 ≤ 4 + p.body.length →
      ∃ t, exec (.packetForward i vc) s = .next t ∧ (t.port q).link.txUnits = (s.port q).link.txUnits ++ pkUnits k ∧
        tget 0 (t.port q).link.credits (pkVc k) = tget 0 (s.port q).link.credits (pkVc k) - packetLen k.w0) ∧
    (∀ q k, routeOf (pathFill s i p).2 i (pathFill s i p).1 p = .port q k → portOpen (s.port q) = true →
      mayBegin (pathFill s i p).2 (pathFill s i p).1 i q k = true → 4 + p.body.length < packetLen p.w0 →
      exec (.packetForward i vc) s = .next (beginPacket (leaveArriving (pathFill s i p).2 i q p) i q k))) ∧
  (∀ e ∈ [(Instr.rdReq, 1, 2), (Instr.wrReq, 3, 4)], ∀ (s : State) (p : Packet) (port : Option Nat) (l r : List (Packet × Option Nat)),
    AtEndpoint s e.2.1 p port l r →
    (reqStatus s p = 0 → hasCredit s (pkOff p / 256 % 2 ^ 31) 32 = true →
      ∃ t m, exec e.1 s = .next t ∧ t.mem.msgs = s.mem.msgs ++ [m] ∧ m.who = .hub ∧ m.line = pkOff p / 256 % 2 ^ 31 ∧ m.mask = pkMask p ∧
        m.kind = .req (if e.2.1 = 1 then .dmaRd else .dmaWr) ∧ (e.2.1 = 3 → m.bytes = writeBytes p)) ∧
    (reqStatus s p ≠ 0 →
      ∃ t a, exec e.1 s = .next t ∧ t.fab.epOut = s.fab.epOut ++ [a] ∧ pkType a = e.2.2 ∧ pkStatus a = reqStatus s p ∧ pkTxn a = pkTxn p ∧
        t.mem.hbm = s.mem.hbm ∧ t.mem.msgs = s.mem.msgs)) ∧
  (∀ (s : State) (p : Packet) (port : Option Nat) (l r : List (Packet × Option Nat)) (x : FabTxn), AtEndpoint s 2 p port l r →
    txnOf s p = some x → pkType x.pkt = 1 →
    exec .rdRsp s = .next (readBack (if pkStatus p = 1 then addLoss (closeTxn (offEndpoint s l r) x.id) 1 x else closeTxn (offEndpoint s l r) x.id) x
      (payloadBytes (pkMask x.pkt) p.body) (if pkStatus p = 0 then pkPoison p else pkMask x.pkt))) ∧
  (∀ (s : State) (p : Packet) (port : Option Nat) (l r : List (Packet × Option Nat)) (x : FabTxn), AtEndpoint s 4 p port l r →
    txnOf s p = some x → pkType x.pkt = 3 →
    (pkStatus p = 0 → exec .wrAck s = .next (writeBack (closeTxn (offEndpoint s l r) x.id) x)) ∧
    (pkStatus p ≠ 0 → exec .wrAck s = .next (writeFailed
      (if pkStatus p = 1 then addLoss (closeTxn (offEndpoint s l r) x.id) 1 x else closeTxn (offEndpoint s l r) x.id) x 5))) ∧
  (∀ e ∈ [(Instr.rdRsp, 2, 1), (Instr.wrAck, 4, 3)], ∀ (s : State) (p : Packet) (port : Option Nat) (l r : List (Packet × Option Nat)),
    AtEndpoint s e.2.1 p port l r → (∀ x, txnOf s p = some x → pkType x.pkt ≠ e.2.2) → exec e.1 s = .next (offEndpoint s l r)) ∧
  (∀ (id : W16) (s : State) (x : FabTxn), s.mem.fab.find? (fun t => t.id == id.toNat) = some x → s.fab.timeout ≤ x.age →
    (x.retry = false →
      ∃ t y, exec (.fabTxnTimeout id) s = .next t ∧ y ∈ t.mem.fab ∧ y.id = x.id ∧ y.retry = true ∧ y.age = 0 ∧ bit y.pkt.w3 42 = true) ∧
    (x.retry = true → exec (.fabTxnTimeout id) s = .next (txnLost s x))) ∧
  (∀ (s : State) (p : Packet) (port : Option Nat) (l r : List (Packet × Option Nat)), AtEndpoint s 5 p port l r →
    (fmAdmits s (mgmtReq (offEndpoint s l r) p port) = true → frOp (bytesOf p.body) ≠ 4 →
      (keptResponse s (mgmtReq (offEndpoint s l r) p port) = none → s.kedal.queue.length < 64 →
        ∃ t, exec .mgmt s = .next t ∧ t.kedal = { s.kedal with queue := s.kedal.queue ++ [mgmtReq (offEndpoint s l r) p port] }) ∧
      exec .mgmt s = .next (kedalRequest (offEndpoint s l r) (mgmtReq (offEndpoint s l r) p port))) ∧
    (fmAdmits s (mgmtReq (offEndpoint s l r) p port) = false ∨ frOp (bytesOf p.body) = 4 → exec .mgmt s = .next (offEndpoint s l r))) ∧
  (∀ (s : State) (p : Packet) (port : Option Nat) (l r : List (Packet × Option Nat)) (a b c d : W64) (w : List W64),
    AtEndpoint s 6 p port l r → p.body = a :: b :: c :: d :: w →
    ∃ t, exec .eventPkt s = .next t ∧ t.fab.events = s.fab.events ++ [⟨a, b, c, d⟩]) ∧
  (∀ s : State, fmReached s = true →
    ∃ t n, exec .eventFlush s = .next t ∧ t.fab.kept = [] ∧ t.fab.dropped = 0 ∧
      t.fab.epOut = s.fab.epOut ++ n ++ s.fab.kept.map (eventPacket s) ∧ (s.fab.dropped = 0 → n = []) ∧
      (s.fab.dropped ≠ 0 → ∃ st, n = [eventPacket s ⟨eventW0 0x0D 0 0 0, st, BitVec.ofNat 64 s.fab.dropped, 0⟩]))

namespace Sys2Proof.Machine

/-- States of a port in which flits arrive (R333). -/
def flitStates : List PortState := [.train, .hello, .secure, .range, .activeM, .active, .width]

end Sys2Proof.Machine

/-- R330, R331, R334, R457: FLIT_ARRIVAL completes in every state in which flits arrive. A flit that passes every check, under the current keys or
the next, with the expected number moves the number on and clears NAK, and its units join the packet that is being received; one with
another number is discarded. A bad flit moves nothing on and sets NAK; the port stays up unless the limits of R334 are met: the ninth tag
failure of a period is a port fault that retrains it. -/
def Obligations.FlitArrivalCompletes : Prop :=
  (∀ e ∈ [FlitCheck.good, .tagNextKey], ∀ (p : Fin 32) (f : FlitIn) (s : State), (s.port p).st ∈ flitStates → f.check = e →
    (BitVec.ofNat 12 (fld f.ctrl 63 52) = (s.port p).link.rxSeq →
      ∃ t, exec (.flitArrival p f) s = .next t ∧ (t.port p).link.rxSeq = (s.port p).link.rxSeq + 1 ∧ (t.port p).link.nak = false ∧
        (t.port p).st = (s.port p).st ∧
        ((s.port p).st.hears = true → fld f.ctrl 14 12 = 0 → (s.port p).cut = none →
          (∀ w0 r, (s.port p).link.asm ++ f.units.filterMap id = w0 :: r → r.length + 1 < packetLen w0) →
          (t.port p).link.asm = (s.port p).link.asm ++ f.units.filterMap id)) ∧
    (BitVec.ofNat 12 (fld f.ctrl 63 52) ≠ (s.port p).link.rxSeq →
      ∃ t, exec (.flitArrival p f) s = .next t ∧ (t.port p).link.rxSeq = (s.port p).link.rxSeq ∧ (t.port p).link.nak = (s.port p).link.nak ∧
        (t.port p).link.asm = (s.port p).link.asm ∧ (t.port p).rx = (s.port p).rx ∧ (t.port p).st = (s.port p).st)) ∧
  (∀ e ∈ [FlitCheck.fec, .crc, .tag], ∀ (p : Fin 32) (f : FlitIn) (s : State), (s.port p).st ∈ flitStates → f.check = e →
    (((s.port p).st ≠ .active ∧ (s.port p).st ≠ .activeM) ∨ ((s.port p).link.badRun < 15 ∧ (s.port p).link.tagFails < 8) →
      ∃ t, exec (.flitArrival p f) s = .next t ∧ (t.port p).link.rxSeq = (s.port p).link.rxSeq ∧ (t.port p).link.nak = true ∧
        (t.port p).link.asm = (s.port p).link.asm ∧ (t.port p).rx = (s.port p).rx ∧ (t.port p).st = (s.port p).st) ∧
    ((s.port p).st = .active ∨ (s.port p).st = .activeM → e = .tag → (s.port p).link.tagFails = 8 →
      ∃ u, exec (.flitArrival p f) s = .next (portFault u p .retrain) ∧ (u.port p).link.nak = true ∧ (u.port p).rx = (s.port p).rx))

/-- R359, R360, R361, R363, R368, R369, R370, R371: the commands of the beacon complete. An edge gives the next number, or the later one that the
upstream gave, ends the hold window and puts the power cap in force; HOLD_WINDOW_START begins a window; a probe and a frame wait for
their flit, and the frame of a peer is kept; a missed symbol is counted, and the third in a row loses the upstream; HOLDOVER ends
after eight periods without a candidate, and the module stands as keeper; a good period change of a keeper is pending, and a refused
one leaves its reason in STATUS. -/
def Obligations.BeaconCommandsComplete : Prop :=
  (∀ (i : EdgeIn) (s : State), ∃ t, exec (.beaconEdge i) s = .next t ∧
    t.bcn.num = (match numberTaken s with
      | some n => if bcnLater s.bcn.num n then n else s.bcn.num + 1
      | none => s.bcn.num + 1) ∧
    t.bcn.holding = false ∧ t.pwr.cap = s.pwr.capNew.getD s.pwr.cap ∧ t.pwr.capNew = none) ∧
  (∀ s : State, exec .holdWindowStart s = .next { s with bcn := { s.bcn with holding := true } }) ∧
  (∀ (p : Fin 32) (tok : BitVec 7) (s : State), (s.port p).st.symbols = true →
    ∃ t, exec (.rangingProbe p tok) s = .next t ∧ (t.port p).probeAt = some tok ∧
      (t.port p).link.symbols = (s.port p).link.symbols ++ [(3#3, tok.setWidth 11)]) ∧
  (∀ (p : Fin 32) (s : State), (s.port p).st.symbols = true →
    ∃ t, exec (.rangingFrameSend p) s = .next t ∧ (t.port p).link.symbols = (s.port p).link.symbols ++ [(3#3, 0x400#11)]) ∧
  (∀ (p : Fin 32) (w0 w1 w2 w3 : W64) (s : State), (s.port p).st.symbols = true →
    ∃ t, exec (.rangingFrame p w0 w1 w2 w3) s = .next t ∧ (t.port p).cand = some (w0, w1, w2, w3)) ∧
  (∀ s : State, s.bcn.st = .locked ∨ s.bcn.st = .acquire →
    ∃ u, u.bcn = { s.bcn with misses := s.bcn.misses + 1 } ∧ u.fab = s.fab ∧
      u.stamps.missed = (if s.stamps.missed < 0xFFFFFFFF then s.stamps.missed + 1 else 0xFFFFFFFF) ∧
      exec .missedSymbol s = .next (if s.bcn.misses = 2 then loseUpstream u else u)) ∧
  (∀ s : State, s.bcn.st = .holdover → 8 ≤ s.bcn.holdPeriods → candidates s = [] →
    ∃ t, exec .holdoverExpiry s = .next t ∧ t.bcn.st = .keeper ∧ t.bcn.up = none ∧ t.bcn.num = s.bcn.num ∧ t.bcn.keyPrio = s.bcn.prio) ∧
  (∀ (v : W64) (us : W32) (s : State), s.bcn.st = .keeper → bit v 9 = false → 8 ≤ fld v 23 10 → fld v 23 10 ≤ 16000 →
    bcnAhead s.bcn.num (BitVec.ofNat 40 (fld v 63 24)) = true → 2 ≤ (BitVec.ofNat 40 (fld v 63 24) - s.bcn.num).toNat →
    1000 ≤ us.toNat + ((BitVec.ofNat 40 (fld v 63 24) - s.bcn.num).toNat - 1) * s.bcn.period →
    ∃ t, exec (.periodChange v us) s = .next t ∧ t.bcn = { s.bcn with
      pend := true, pendTarget := BitVec.ofNat 40 (fld v 63 24), pendPeriod := fld v 23 10, pstatus := 1,
      target := BitVec.ofNat 40 (fld v 63 24), periodObj := fld v 23 10 }) ∧
  (∀ (v : W64) (us : W32) (s : State), bit v 9 = false →
    (s.bcn.st ≠ .keeper → exec (.periodChange v us) s = .next { s with bcn := { s.bcn with pstatus := 5 } }) ∧
    (s.bcn.st = .keeper → fld v 23 10 < 8 ∨ 16000 < fld v 23 10 →
      exec (.periodChange v us) s = .next { s with bcn := { s.bcn with pstatus := 4 } }) ∧
    (s.bcn.st = .keeper → 8 ≤ fld v 23 10 → fld v 23 10 ≤ 16000 →
      bcnAhead s.bcn.num (BitVec.ofNat 40 (fld v 63 24)) = false ∨ (BitVec.ofNat 40 (fld v 63 24) - s.bcn.num).toNat < 2 ∨
        us.toNat + ((BitVec.ofNat 40 (fld v 63 24) - s.bcn.num).toNat - 1) * s.bcn.period < 1000 →
      exec (.periodChange v us) s = .next { s with bcn := { s.bcn with pstatus := 3 } }))

namespace Sys2Proof.Machine

/-- A core that is being saved, with its engines and channels carried on as far as they go (R393). -/
def drainedCore (s : State) (k : Nat) : State :=
  flushCore (flushVector ((s.core k).dma.queue.foldl (fun s q => dmaPartial (dmaRun s k q.seq) k q.seq) s) k) k

/-- The cores of a context that is torn down, with their engines carried on as far as they go (R400). -/
def drainedCtx (s : State) (n : Nat) : State :=
  ((heldCores s n).map Prod.fst).foldl (fun s k => if (s.core k).kend = 3 then s else
    flushCore ((s.core k).dma.queue.foldl (fun s q => dmaRun s k q.seq) s) k) s

end Sys2Proof.Machine

/-- R379–R384, R386, R387, R393–R395, R400, R401, R418: the commands of partitions and contexts complete. A good PART_CMD CREATE begins
a partition with its resources, and any other leaves its status; when it is done the partition is ACTIVE, its HBM reads zero and no
export entry of it is valid. DESTROY of an ACTIVE partition begins, and its status tells of any other; when it is done the partition,
its bindings and its exports are gone and its HBM holds no byte of it. A slice waits for the next beacon; a binding is written.
CTX_CREATE and CTX_DESTROY take their entry: a good one creates a context in IDLE on the lowest free number, begins the teardown of a
live context or frees a dead one, and a bad CREATE only answers its status. TEARDOWN_COMPLETE ends a teardown whose cores have ended
and whose record has room: the cores are free and the context is DEAD, or FREE where it was destroyed. A core that is saved is
quiescent when its engines have stopped; when all are, the image of each is in memory, the cores are free and carry the residency tag,
and the context waits, idles or is STOPPED; a context whose images are good resumes on its cores, RUNNING or HOLDING. -/
def Obligations.PartitionAndContextCommandsComplete : Prop :=
  (∀ (c : PartCreate) (s : State), createStatus s c = 0 →
    ∃ t, exec (.partCreate c) s = .next t ∧ t.partStatus = 0 ∧ t.part c.q.val = {
      st := .creating, clusters := c.clusters, hbmMap := c.hbmMap, slice := c.slice.toNat, sliceNew := none,
      vcFirst := c.vcFirst.toNat, vcLast := c.vcLast.toNat, keySlot := c.keySlot.toNat, stamp := 0 }) ∧
  (∀ (c : PartCreate) (s : State), createStatus s c ≠ 0 →
    exec (.partCreate c) s = .next { s with partStatus := BitVec.ofNat 8 (createStatus s c) }) ∧
  (∀ (q : Fin 32) (s : State), (s.part q.val).st = .creating →
    ∃ t, exec (.partCreateDone q) s = .next t ∧ (t.part q.val).st = .active ∧ (t.part q.val).clusters = (s.part q.val).clusters ∧
      (t.part q.val).hbmMap = (s.part q.val).hbmMap ∧ (∀ e ∈ t.fab.expo, e.1 / 64 ≠ q.val) ∧
      (∀ a, a / 2 ^ 30 < 512 → bit (s.part q.val).hbmMap (a / 2 ^ 30) = true → mget t.mem.hbm a = 0)) ∧
  (∀ (q : Fin 32) (s : State),
    ((s.part q.val).st = .active →
      ∃ t, exec (.partDestroy q) s = .next t ∧ t.partStatus = 0 ∧ (t.part q.val).st = .destroying) ∧
    ((s.part q.val).st = .none → exec (.partDestroy q) s = .next { s with partStatus := 2 }) ∧
    ((s.part q.val).st = .creating ∨ (s.part q.val).st = .destroying → exec (.partDestroy q) s = .next { s with partStatus := 7 })) ∧
  (∀ (q : Fin 32) (s : State), (s.part q.val).st = .destroying → ctxsOf s q.val (fun x => decide (x.st ≠ .dead)) = [] →
    ∃ t, exec (.partDestroyDone q) s = .next t ∧ t.parts = tdel s.parts q.val ∧ (∀ e ∈ t.fab.expo, e.1 / 64 ≠ q.val) ∧
      (∀ e ∈ t.bindings, bit e.2 7 = true → fld e.2 4 0 ≠ q.val) ∧
      (∀ a, a / 2 ^ 30 < 512 → bit (s.part q.val).hbmMap (a / 2 ^ 30) = true → mget t.mem.hbm a = 0)) ∧
  (∀ (q : Fin 32) (v : Byte) (s : State), v ≠ 0 → (s.part q.val).st ≠ .none →
    exec (.sliceWrite q v) s = .next (s.setPart q.val { s.part q.val with sliceNew := some v.toNat })) ∧
  (∀ (vf v : Byte) (s : State), vf ≠ 0 → fld v 6 5 = 0 → (bit v 7 = true → (s.part (fld v 4 0)).st = .active) →
    ∃ t, exec (.vfBindingWrite vf v) s = .next t ∧ t.bindings = tset 0 s.bindings vf.toNat v) ∧
  (∀ (f : Byte) (e : List W64) (s : State), adminWaits s f.toNat = true → fld (e.headD 0) 63 56 ≠ 2 →
    createCtxStatus (adminTake s f.toNat) f.toNat e ((e.drop 8).take 8) = 0 →
    ∃ t n, exec (.ctxCreate f e) s = .next t ∧ n < 4096 ∧ (s.ctx n).st = .free ∧
      t.ctx n = { Ctx.dflt with st := .idle, desc := (e.drop 8).take 8, fn := f, fresh := true } ∧
      (t.fn f.toNat).adminSq.head = ((s.fn f.toNat).adminSq.head + 1) % (s.fn f.toNat).adminSq.size ∧
      (∀ m < n, (s.ctx m).st ≠ .free)) ∧
  (∀ (f : Byte) (e : List W64) (s : State), adminWaits s f.toNat = true → fld (e.headD 0) 63 56 ≠ 2 →
    createCtxStatus (adminTake s f.toNat) f.toNat e ((e.drop 8).take 8) ≠ 0 →
    exec (.ctxCreate f e) s = .next (adminDone (adminTake s f.toNat) f.toNat
      (createCtxStatus (adminTake s f.toNat) f.toNat e ((e.drop 8).take 8)) 0 (admTag e))) ∧
  (∀ (f : Byte) (e : List W64) (s : State), adminWaits s f.toNat = true → fld (e.headD 0) 63 56 = 2 → s.host.ready = true →
    fld (e.headD 0) 43 32 = 0 → (∀ w ∈ e.drop 1, w = 0) → (s.ctx (fld (e.headD 0) 55 44)).st ∉ [CtxState.free, .dead] →
    (f = 0 ∨ (s.ctx (fld (e.headD 0) 55 44)).fn = f) →
    ∃ t, exec (.ctxDestroy f e) s = .next t ∧ (t.ctx (fld (e.headD 0) 55 44)).st = .teardown ∧
      (t.ctx (fld (e.headD 0) 55 44)).destroyReq = (s.ctx (fld (e.headD 0) 55 44)).destroyReq ++ [(f.toNat, admTag e)]) ∧
  (∀ (f : Byte) (e : List W64) (s : State), adminWaits s f.toNat = true → fld (e.headD 0) 63 56 = 2 → s.host.ready = true →
    fld (e.headD 0) 43 32 = 0 → (∀ w ∈ e.drop 1, w = 0) → (s.ctx (fld (e.headD 0) 55 44)).st = .dead →
    (f = 0 ∨ (s.ctx (fld (e.headD 0) 55 44)).fn = f) →
    ∃ t, exec (.ctxDestroy f e) s = .next t ∧ (t.ctx (fld (e.headD 0) 55 44)).st = .free) ∧
  (∀ (n : BitVec 12) (s : State), (s.ctx n.toNat).st = .teardown →
    (∀ e ∈ heldCores s n.toNat, coreEnded (drainedCtx s n.toNat) e.1 = true) → cqRoom (drainedCtx s n.toNat) n.toNat true ≠ some false →
    ∃ t, exec (.teardownComplete n) s = .next t ∧ t = finishTeardown (drainedCtx s n.toNat) n.toNat ∧
      (t.ctx n.toNat).st = (if ((drainedCtx s n.toNat).ctx n.toNat).destroyReq ≠ [] then .free else .dead) ∧ heldCores t n.toNat = []) ∧
  (∀ (k : Fin 256) (s : State) (n i : Nat), (s.core k.val).ctx = some (n, i) → (s.ctx n).st = .saving → (s.core k.val).quiet = false →
    (enginesStopped ((drainedCore s k.val).core k.val) && coreQuiet (drainedCore s k.val) k.val) = true →
    exec (.contextQuiescent k) s = .next ((drainedCore s k.val).updCore k.val Core.settleQueues)) ∧
  (∀ (n : BitVec 12) (s : State), (s.ctx n.toNat).st = .saving → heldCores s n.toNat ≠ [] →
    (∀ e ∈ heldCores s n.toNat, (s.core e.1).quiet = true) →
    ∃ u, exec (.contextSaved n) s = .next (offerCores (beginRestores u)) ∧ heldCores u n.toNat = [] ∧
      (u.ctx n.toNat).st = (if (s.ctx n.toNat).toStop then .stopped else if hasWork (s.ctx n.toNat) then .waiting else .idle) ∧
      (u.ctx n.toNat).savedOn = (s.ctx n.toNat).cores ∧ (u.ctx n.toNat).fresh = false ∧
      u.mem.hbm = ((heldCores s n.toNat).foldl (fun s e => saveCore s n.toNat e.2 e.1) s).mem.hbm ∧
      (∀ e ∈ heldCores s n.toNat, (u.core e.1).resid.map Prod.fst = some n.toNat)) ∧
  (∀ (n : BitVec 12) (s : State), (s.ctx n.toNat).st = .restoring → ((s.ctx n.toNat).fresh = true ∨
      (∀ e ∈ heldCores s n.toNat, badImage s (saveArea (s.ctx n.toNat) e.2) = false ∧
        ((s.ctx n.toNat).resumed = true → badEdit s (saveArea (s.ctx n.toNat) e.2) = false) ∧
        poisonedImage s (saveArea (s.ctx n.toNat) e.2) ((s.core e.1).resid == some (n.toNat, e.2)) = false)) →
    ∃ t, exec (.contextRestored n) s = .next t ∧ (t.ctx n.toNat).st = (if hasWork (s.ctx n.toNat) then .running else .holding) ∧
      (∀ e ∈ heldCores s n.toNat, (t.core e.1).ctx.map Prod.fst = some n.toNat ∧ (t.core e.1).stopped = false))

namespace Sys2Proof.Machine

/-- The link may train (R407, R520): PERST# is released, and start-up has reached step 10. -/
def LinkMayTrain (s : State) : Prop := s.host.perst = false ∧ 10 ≤ s.pwr.start.toNat ∧ s.pwr.start.toNat ≤ 0x0C

/-- The state in which the answer to a host read is used (R485): the read is open no longer, and its bytes are counted. -/
def readAnswered (s : State) (r : HostRead) (n : Nat) : State :=
  { s with mem := { s.mem with hostRd := s.mem.hostRd.filter (fun x => x.tag != r.tag) } }.bumpHub 5 1 n

end Sys2Proof.Machine

/-- R251, R407, R408, R414–R417, R419, R421, R458, R520, R522: the commands of the host interface complete. PERST# and a hot reset take
the link down and reset every function, and PERST# takes up the clock source; a Function Level Reset tears the function's contexts down
and resets its rings; the link trains to a mode of R406 or goes down. A LAUNCH that is good starts its kernel on every core, a NOP
whose record has room writes it, and a reserved entry is a fault of the context; a kernel that has ended on all cores leaves its
record; a ring that cannot be reached is a fault, and one without known room is looked at. The coalescing timer raises the context's
vector, which goes out or is pending. SPDM opens a session, answers the certificates and the measurements, and in a session programs a
stream, a key of it, and its start; a stream that leaves the secure state is insecure. The answer to a host read goes to what has read.
-/
def Obligations.HostCommandsComplete : Prop :=
  (∀ s : State, s.host.perst = false → ∃ t, exec .perstAssert s = .next t ∧ t.host.perst = true ∧ t.host.speed = 0 ∧ t.host.width = 0 ∧
    t.host.ide = [] ∧ t.host.vfEnable = false ∧ t.host.refForce = (s.host.refSel == 1)) ∧
  (∀ s : State, exec .perstRelease s = .next { s with host := { s.host with perst := false } }) ∧
  (∀ s : State, ∃ t, exec .hotReset s = .next t ∧ t.host.perst = s.host.perst ∧ t.host.speed = 0 ∧ t.host.width = 0 ∧ t.host.ide = [] ∧
    t.host.vfEnable = false ∧ t.sec.session = false) ∧
  (∀ (vf : Byte) (s : State), vf ≠ 0 → ∃ t, exec (.vfFlr vf) s = .next t ∧
    t.fn vf.toNat = { HostFn.dflt with dropped := (s.fn vf.toNat).dropped } ∧
    (∀ n, (s.ctx n).fn = vf → (s.ctx n).st ∉ [CtxState.free, .dead] → (t.ctx n).st = .teardown ∧ (∀ d ∈ (t.ctx n).destroyReq, d.1 ≠ vf.toNat))) ∧
  (∀ s : State, ∃ t, exec .pfFlr s = .next t ∧ t.host.vfEnable = false ∧
    (∀ f, t.fn f = { HostFn.dflt with dropped := (s.fn f).dropped }) ∧
    (∀ n, (s.ctx n).st ∉ [CtxState.free, .dead] → (t.ctx n).st = .teardown)) ∧
  (∀ (n : BitVec 12) (h e : List W64) (s : State), mayTake (s.ctx n.toNat) = true → sqEntry s n.toNat h = some e →
    fld (e.headD 0) 63 56 = 1 → fld (e.headD 0) 55 33 = 0 → (∀ w ∈ e.drop 3, w = 0) →
    ∃ t, exec (.launch n h) s = .next t ∧ (t.ctx n.toNat).kernel = some (e.headD 0) ∧
      (t.ctx n.toNat).sqHead = ((s.ctx n.toNat).sqHead + 1) % sqSize (s.ctx n.toNat) ∧
      (∀ k i, (k, i) ∈ heldCores s n.toNat → (∀ j, (k, j) ∈ heldCores s n.toNat → j = i) →
        (t.core k).pc = e.getD 1 0 ∧ (t.core k).sreg 1 = e.getD 2 0 ∧ (t.core k).sreg 2 = BitVec.ofNat 64 i ∧
        (t.core k).sreg 3 = BitVec.ofNat 64 (s.ctx n.toNat).width ∧ (t.core k).kend = 0)) ∧
  (∀ (n : BitVec 12) (h e : List W64) (s : State), mayTake (s.ctx n.toNat) = true → sqEntry s n.toNat h = some e →
    (fld (e.headD 0) 63 56 ≠ 2 → fld (e.headD 0) 63 56 ≠ 1 ∨ fld (e.headD 0) 55 33 ≠ 0 ∨ (∃ w ∈ e.drop 3, w ≠ 0) →
      exec (.launch n h) s = .next (ctxFault (takeEntry s n.toNat) n.toNat 1 0)) ∧
    (fld (e.headD 0) 63 56 = 2 → fld (e.headD 0) 55 33 ≠ 0 ∨ (∃ w ∈ e.drop 3, w ≠ 0) →
      exec (.submissionNop n h) s = .next (ctxFault (takeEntry s n.toNat) n.toNat 1 0))) ∧
  (∀ (n : BitVec 12) (h e : List W64) (s : State), mayTake (s.ctx n.toNat) = true → sqEntry s n.toNat h = some e →
    fld (e.headD 0) 63 56 = 2 → fld (e.headD 0) 55 33 = 0 → (∀ w ∈ e.drop 3, w = 0) →
    (∀ u st, cqRoom s n.toNat false = some true →
      writeRecord (takeEntry s n.toNat) n.toNat 2 0 (fld (e.headD 0) 31 0) (bit (e.headD 0) 32) = some (u, st) →
      exec (.submissionNop n h) s = .next (settleCtx u n.toNat)) ∧
    (cqRoom s n.toNat false = some false → exec (.submissionNop n h) s = .next (cqProbe s n.toNat false)) ∧
    (cqRoom s n.toNat false = none → exec (.submissionNop n h) s = .next (cqFault s n.toNat))) ∧
  (∀ (n : BitVec 12) (s : State) (w0 : W64), (s.ctx n.toNat).kernel = some w0 → (s.ctx n.toNat).st ∈ [CtxState.running, .holding] →
    heldCores s n.toNat ≠ [] → (∀ e ∈ heldCores s n.toNat, (s.core e.1).kend = 2) →
    (∀ u st, cqRoom s n.toNat false = some true → writeRecord s n.toNat 1 0 (fld w0 31 0) (bit w0 32) = some (u, st) →
      exec (.kernelDoneRecord n) s = .next (settleCtx ((u.setCtx n.toNat { u.ctx n.toNat with kernel := none, st := .running }).emit 4 6
        ((s.ctx n.toNat).cores.headD 0) n.toNat (fld w0 31 0) st 0) n.toNat)) ∧
    (cqRoom s n.toNat false = some false → exec (.kernelDoneRecord n) s =
      .next (cqProbe (offerCores (s.setCtx n.toNat { s.ctx n.toNat with st := .holding })) n.toNat false)) ∧
    (cqRoom s n.toNat false = none → exec (.kernelDoneRecord n) s = .next (cqFault s n.toNat))) ∧
  (∀ (n : BitVec 12) (s : State) (f v : Nat), (s.ctx n.toNat).timer = true → (s.ctx n.toNat).sinceIrq ≠ 0 → f = (s.ctx n.toNat).fn.toNat →
    v = fld ((s.ctx n.toNat).word 7) 42 32 →
    ∃ t, exec (.coalesceTimerExpiry n) s = .next t ∧ t.ctx n.toNat = { s.ctx n.toNat with sinceIrq := 0, timer := false } ∧
      (v < msixTable f → msixOpen s f v = true → t.host.posted = s.host.posted ++ [.msix f v ((s.fn f).vec v).addr ((s.fn f).vec v).data]) ∧
      (v < msixTable f → msixOpen s f v = false → t.host.posted = s.host.posted ∧ v ∈ (t.fn f).pba)) ∧
  (∀ s : State, exec (.spdmMessage (.session true true)) s = .next { s with sec := { s.sec with session := true } }) ∧
  (∀ s : State, exec (.spdmMessage .certificates) s = .next { s with host := { s.host with doe := s.host.doe ++ [Config.caCert ++ certificate] } }) ∧
  (∀ (s : State) (b : Bank), b = s.bank s.sec.running → exec (.spdmMessage .measurements) s =
    .next { s with host := { s.host with doe := s.host.doe ++ [digBytes b.d0 ++ digBytes b.d1 ++ digBytes b.d2] } }) ∧
  (∀ (n : Fin 9) (a : List (W64 × W64)) (s : State), s.sec.session = true → a.length ≤ 4 →
    exec (.spdmMessage (.ideProgram n a)) s = .next (setIde s n.val ⟨false, a, (ideStream s n.val).keys⟩)) ∧
  (∀ (n : Fin 9) (j : Fin 12) (k : BitVec 256) (s : State), s.sec.session = true → (tfind s.host.ide n.val).isSome = true →
    exec (.spdmMessage (.ideKey n j k)) s =
      .next (setIde s n.val { ideStream s n.val with keys := tput (ideStream s n.val).keys j.val k }) ∧
    exec (.spdmMessage (.ideGo n)) s = .next (setIde s n.val { ideStream s n.val with secure := true })) ∧
  (∀ (n : Fin 9) (s : State), exec (.ideStreamInsecure n) s = .next (setIde s n.val { ideStream s n.val with secure := false })) ∧
  (∀ (sp : BitVec 4) (w : BitVec 5) (f : Bool) (s : State), LinkMayTrain s →
    (1 ≤ sp.toNat → sp.toNat ≤ 7 → w.toNat ∈ [1, 2, 4, 8, 16] →
      ∃ t, exec (.pcieLinkRetrain sp w f) s = .next t ∧ t.host = { s.host with
        speed := sp, width := w, flit := f || decide (6 ≤ sp.toNat), retrains := holdInc 255 s.host.retrains
        posted := if s.host.speed = 0 then s.host.posted ++ [.ready] else s.host.posted }) ∧
    exec (.pcieLinkRetrain 0 0 f) s = .next { s with host := { s.host with speed := 0, width := 0, flit := false } }) ∧
  (∀ (tag : W16) (d : List Byte) (s : State) (r : HostRead), s.mem.hostRd.find? (fun r => r.tag == tag.toNat) = some r →
    (∀ k id k2 a, r.owner = .access k id → accOf s [k] id = some (k2, a) →
      exec (.pcieCompletion tag d) s = .next (deliver (readAnswered s r d.length) k2 a (leNat (d.take a.size)) false)) ∧
    (∀ k seq e q x, r.owner = .dma k seq e → dmaFind s k seq = some q → q.reqs.find? (fun x => x.1 == e) = some x →
      exec (.pcieCompletion tag d) s = .next (dmaAnswer (readAnswered s r d.length) k seq e (fun o => d.getD (o - x.2.2.1) 0) 0)) ∧
    (∀ k face id, r.owner = .fence k face id → exec (.pcieCompletion tag d) s = .next (fenceBack (readAnswered s r d.length) k face id)) ∧
    (∀ k seq, r.owner = .dmaFence k seq →
      exec (.pcieCompletion tag d) s = .next (wakeCore (retryFence (retryWb (readAnswered s r d.length) k) k) k)) ∧
    (∀ n i, r.owner = .cq n i →
      exec (.pcieCompletion tag d) s = .next (cqRead (readAnswered s r d.length) n i (leNat (d.take 8)) false)))

namespace Sys2Proof.Machine

/-- The queue's head has left it. -/
def unqueued (s : State) (r : List KReq) : State := { s with kedal := { s.kedal with queue := r } }

/-- The request at the head of the dictionary's queue is served: the dictionary answers, and the request is admitted (R430, R438). -/
def AtHead (s : State) (q : KReq) (r : List KReq) : Prop := s.kedal.queue = q :: r ∧ kedalUp s = true ∧ fmAdmits s q = true

/-- The answer to a WRITE or CWRITE that has been carried out, under the EtherType that was in force, and the reset that it commands (R427, R431). -/
def valueAnswered (u t : State) (q : KReq) (o : Obj) (st : Nat) : State :=
  (fun w => if frIndex q.frame = 0x1020 then doReset w (leNat (frValue q.frame)) else w)
    (respondAs (if o.rd = 0 then t else noteChange t (frIndex q.frame) (frSub q.frame)) q (etherType u) (response q.frame st 0 []))

/-- What becomes of a WRITE or CWRITE whose checks before step 9 of R429 have passed, by what the object's rules answer and by storage. -/
def ValueServed (out : Out) (u : State) (q : KReq) (o : Obj) : Prop :=
  ∀ t st, writeObj (if o.rd = 0 then u else noteSeen u (frIndex q.frame) (frSub q.frame)) q (frIndex q.frame) (frSub q.frame) = (t, st) →
    (st = 0x0F ∨ (st = 0 ∧ (o.kept = false ∨ u.kedal.flashBad = false)) → out = .next (valueAnswered u t q o st)) ∧
    (st = 0 → o.kept = true → u.kedal.flashBad = true → out = .next (kRefuse u q 0x10)) ∧
    (st ≠ 0 → st ≠ 0x0F → out = .next (kRefuse t q st))

/-- What becomes of a request that reaches the dictionary (R430, R433): it joins the queue, is answered busy where that is full, or gets the
answer that is kept for it again. -/
def Submitted (out : Out) (s : State) (q : KReq) : Prop :=
  (keptResponse s q = none → s.kedal.queue.length < 64 → out = .next { s with kedal := { s.kedal with queue := s.kedal.queue ++ [q] } }) ∧
    (keptResponse s q = none → 64 ≤ s.kedal.queue.length → out = .next (respond (kdStat s q.path 2) q (response q.frame 0x0B 0 []))) ∧
    (∀ a, keptResponse s q = some a → out = .next (sendResponse s q.path q.src (etherType s) a))

end Sys2Proof.Machine

/-- R346, R347, R425–R441: the commands of the dictionary complete. A frame of the field network under the EtherType in force, or of
the fabric from an admitted node, that is a request joins the queue, is answered busy, or gets its kept answer again; any other is
discarded. GO of a window slot that is not BUSY sets BUSY and queues the slot's request, or answers it busy. K_READ answers the
object's value, K_WRITE and K_CWRITE carry out the write by the object's rules and answer its status, K_CWRITE after the key, tag and
counter of R440; a request that an earlier check of R429 fails is refused with that check's status, and one of a node that is the
fabric manager's no longer leaves without an answer. NODE_ID_WRITE sets the node ID of the next beacon once; a route commit is pending,
replaced, late, invalid or cancelled as R347 gives, and a refused one changes nothing. -/
def Obligations.DictionaryCommandsComplete : Prop :=
  (∀ (src : W64) (node : BitVec 20) (et : W16) (b : Bool) (f : List Byte) (s : State) (q : KReq), kedalUp s = true →
    q = ⟨.field, src, f.take (32 + frBodyLen f), setBit src 56 true, false⟩ →
    (et.toNat = etherType s → frOp q.frame ≠ 4 →
      (b = false ∨ (frOp q.frame = 1 ∧ 0x1000 ≤ frIndex q.frame ∧ frIndex q.frame ≤ 0x10FF)) →
      Submitted (exec (.kedalFrameArrival .field ⟨src, node, et⟩ b f) s) s q) ∧
    (et.toNat ≠ etherType s ∨ frOp q.frame = 4 ∨ (b = true ∧ frOp q.frame ≠ 1) →
      exec (.kedalFrameArrival .field ⟨src, node, et⟩ b f) s = .next s)) ∧
  (∀ (src : W64) (node : BitVec 20) (et : W16) (b : Bool) (f : List Byte) (s : State) (q : KReq), kedalUp s = true →
    q = ⟨.fabric, if 2 ^ 60 ≤ src.toNat then src else node.setWidth 64, f.take (32 + frBodyLen f), node.setWidth 64, false⟩ →
    (frOp q.frame ≠ 4 → (s.fab.fmNode = 0xFFFFF#20 ∨ node = s.fab.fmNode) →
      Submitted (exec (.kedalFrameArrival .fabric ⟨src, node, et⟩ b f) s) s q) ∧
    (frOp q.frame = 4 ∨ (s.fab.fmNode ≠ 0xFFFFF#20 ∧ node ≠ s.fab.fmNode) →
      exec (.kedalFrameArrival .fabric ⟨src, node, et⟩ b f) s = .next s)) ∧
  (∀ (k : Fin 16) (f x : List Byte) (st : Option (Fin 9)) (s : State), x = (f ++ List.replicate 288 0#8).take 288 → hostTakes s 0 st = true →
    kedalUp s = true → s.pwr.start ≠ 0 → bit (s.kslot k.val).ctrl 30 = false →
    ∃ t, exec (.kdSlotGo ⟨k, st⟩ f) s = .next t ∧ (t.kslot k.val).req = x ∧
      (s.kedal.queue.length < 64 → bit (t.kslot k.val).ctrl 30 = true ∧ t.kedal.queue = s.kedal.queue ++
        [⟨.window k, 0, (x ++ List.replicate 288 0#8).take (32 + min 256 (frBodyLen x)), 0, false⟩]) ∧
      (64 ≤ s.kedal.queue.length → bit (t.kslot k.val).ctrl 30 = false ∧ bit (t.kslot k.val).ctrl 29 = true ∧ t.kedal.queue = s.kedal.queue)) ∧
  (∀ (s w : State) (q : KReq) (r : List KReq) (o : Obj) (v : List Byte), AtHead s q r → frOp q.frame ≠ 2 → frOp q.frame ≠ 3 →
    kCheck (unqueued s r) q = .inr o → w = noteSeen (unqueued s r) (frIndex q.frame) (frSub q.frame) →
    v = objVal w (frIndex q.frame) (frSub q.frame) →
    (quoteRunning (unqueued s r) (frWho q.frame) (frIndex q.frame) (frSub q.frame) = false →
      exec .kRead s = .next (respond w q (response q.frame 0
        (v.length + 2 ^ 32 * tget 0 w.kedal.changes (objKey (frIndex q.frame) (frSub q.frame))) ((v.drop (frOffset q.frame)).take (frArg q.frame))))) ∧
    (quoteRunning (unqueued s r) (frWho q.frame) (frIndex q.frame) (frSub q.frame) = true →
      exec .kRead s = .next (kRefuse (unqueued s r) q 0x0B))) ∧
  (∀ (s : State) (q : KReq) (r : List KReq) (o : Obj), AtHead s q r → frOp q.frame = 2 → kCheck (unqueued s r) q = .inr o →
    ValueServed (exec .kWrite s) (unqueued s r) q o) ∧
  (∀ (s : State) (q : KReq) (r : List KReq) (o : Obj), AtHead s q r → frOp q.frame = 3 →
    (frIndex q.frame ≠ 0x1020 ∨ s.sec.fw ≠ .verifying) → kCheck (unqueued s r) q = .inr o →
    (cwriteCheck (unqueued s r) q.frame = 0 → ValueServed (exec .kCwrite s) ((blockWrite (unqueued s r)).setKeySlot (frKey q.frame)
      { (unqueued s r).keySlot (frKey q.frame) with counter := BitVec.ofNat 64 (frArg q.frame) }) q o) ∧
    (cwriteCheck (unqueued s r) q.frame ≠ 0 →
      exec .kCwrite s = .next (kRefuse (unqueued s r) q (cwriteCheck (unqueued s r) q.frame)))) ∧
  (∀ e ∈ [(Instr.kRead, 1), (Instr.kWrite, 2), (Instr.kCwrite, 3)], ∀ (s : State) (q : KReq) (r : List KReq) (st : Nat),
    AtHead s q r → frOp q.frame = e.2 → (frIndex q.frame ≠ 0x1020 ∨ s.sec.fw ≠ .verifying) → kCheck (unqueued s r) q = .inl st →
    exec e.1 s = .next (kRefuse (unqueued s r) q st)) ∧
  (∀ e ∈ [(Instr.kRead, 1), (Instr.kWrite, 2), (Instr.kCwrite, 3)], ∀ (s : State) (q : KReq) (r : List KReq),
    s.kedal.queue = q :: r → kedalUp s = true → fmAdmits s q = false → frOp q.frame = e.2 →
    (frIndex q.frame ≠ 0x1020 ∨ s.sec.fw ≠ .verifying) → exec e.1 s = .next (unqueued s r)) ∧
  (∀ (v : W32) (s : State),
    (s.fab.node = 0xFFFFF#20 → s.fab.nodeNew = none → v.toNat ≤ 0xFFFFD →
      exec (.nodeIdWrite v) s = .next { s with fab := { s.fab with nodeNew := some (v.setWidth 20) } }) ∧
    (s.fab.node ≠ 0xFFFFF#20 ∨ s.fab.nodeNew.isSome = true ∨ 0xFFFFD < v.toNat → exec (.nodeIdWrite v) s = .next s)) ∧
  (∀ e ∈ [Instr.routeCommit, Instr.routeCommitCancel], ∀ (v : W64) (s : State),
    (fld v 23 9 ≠ 0 → exec (e v) s = .next s) ∧
    (fld v 23 9 = 0 → bit v 8 = false → s.fab.commit.status ≠ 1 → exec (e v) s = .next { s with fab := { s.fab with
      commit := ⟨BitVec.ofNat 40 (fld v 63 24), if bcnAhead s.bcn.num (BitVec.ofNat 40 (fld v 63 24)) then (if shadowBad s then 4 else 1) else 3⟩ } }) ∧
    (fld v 23 9 = 0 → bit v 8 = false → s.fab.commit.status = 1 →
      exec (e v) s = .next (if bcnAhead s.bcn.num (BitVec.ofNat 40 (fld v 63 24)) then
        { s with fab := { s.fab with commit := ⟨BitVec.ofNat 40 (fld v 63 24), 1⟩ } } else s)) ∧
    (fld v 23 9 = 0 → bit v 8 = true → exec (e v) s = .next (if s.fab.commit.status = 1 then
      { s with fab := { s.fab with commit := ⟨s.fab.commit.target, 5⟩ } } else s)))

namespace Sys2Proof.Machine

/-- What a quote may ask (R459): a kind of R460, and of a tenant only its bound partition. -/
def QuoteAllowed (s : State) (who : Principal) (kind : Byte) (part : BitVec 5) : Prop :=
  kind ∈ [1#8, 2#8] ∧
    ∀ v, who = .tenant v → kind = 2 ∧ bit (binding s v.toNat) 7 = true ∧ fld (binding s v.toNat) 4 0 = part.toNat

/-- A quote of the principal is in progress, or the queue is full (R459). -/
def QuoteBusy (s : State) (who : Principal) : Prop :=
  (∃ x ∈ s.sec.quotes, x.who = who) ∨ s.sec.quoteBusy.map Prod.fst = some who ∨ 16 ≤ s.sec.quotes.length

end Sys2Proof.Machine

/-- R446, R449, R451–R455, R459–R461: the commands of the security engine complete. KEY_ESTABLISH and a claim over the field network store the key
that the staged ciphertext gives where every check passes, KEY_GENERATE fills an empty memory slot from the DRBG, KEY_RETIRE empties a
slot; each touches no other slot, and one whose checks fail changes nothing but the status. A quote that is allowed reaches the engine or
its queue, any other changes nothing; a signed quote is its principal's result, and the next one reaches the engine. An update is begun,
filled, committed or aborted in the states that R461 gives, the check of a COMMIT makes the bank pending or fails the update, and MIN_SVN rises
to an SVN that it may; a command of another state changes nothing. -/
def Obligations.KeysAndFirmwareComplete : Prop :=
  (∀ e ∈ [(Instr.keyEstablish, false), (Instr.keyClaim, true)], ∀ (c : KeyCmd) (s : State) (ct key : List Byte),
    key = derivedKey s c.slot.toNat c.principal.toNat c.digest ct →
    c.rsv = 0 → 0x40 ≤ c.slot.toNat → c.slot.toNat ≤ 0x4F → (s.keySlot c.slot.toNat).inUse = false → stagedText s = some ct →
    digOf (sha256 ct) = c.digest → keyProof s c.slot.toNat c.principal.toNat c.digest key = c.proof.toNat → c.principal ∈ [1#2, 2#2] →
    c.principal.toNat = princCode c.signer → s.kedal.flashBad = false →
    (e.2 = true → c.path = .field ∧ ∀ x ∈ s.sec.slots, isDictSlot x.1 = true → x.2.inUse = true → x.2.principal ≠ c.principal) →
    ∃ t, exec (e.1 c) s = .next t ∧ t.sec.keyStatus = 0 ∧ t.keySlot c.slot.toNat = ⟨true, c.principal, BitVec.ofNat 512 (leNat key), 0⟩ ∧
      (∀ k, k ≠ c.slot.toNat → t.keySlot k = s.keySlot k)) ∧
  (∀ (c : KeyCmd) (s : State), keyPlain c = true → isMemSlot c.slot.toNat = true → (s.keySlot c.slot.toNat).inUse = false → s.kedal.flashBad = false →
    ∃ t, exec (.keyGenerate c) s = .next t ∧ t.sec.keyStatus = 0 ∧
      t.keySlot c.slot.toNat = ⟨true, 0, Config.drbg s.sec.seeds s.sec.drawn, 0⟩ ∧ t.sec.drawn = s.sec.drawn + 1 ∧
      (∀ k, k ≠ c.slot.toNat → t.keySlot k = s.keySlot k)) ∧
  (∀ (c : KeyCmd) (s : State), keyPlain c = true → (s.keySlot c.slot.toNat).inUse = true → s.kedal.flashBad = false →
    ((isDictSlot c.slot.toNat = true ∧ (s.keySlot c.slot.toNat).principal.toNat = princCode c.signer) ∨
      (isMemSlot c.slot.toNat = true ∧ boundPart s c.slot.toNat = none)) →
    ∃ t, exec (.keyRetire c) s = .next t ∧ t.sec.keyStatus = 0 ∧ t.keySlot c.slot.toNat = KeySlot.dflt ∧
      (∀ k, k ≠ c.slot.toNat → t.keySlot k = s.keySlot k)) ∧
  (∀ e ∈ [Instr.keyEstablish, Instr.keyClaim, Instr.keyGenerate, Instr.keyRetire], ∀ (c : KeyCmd) (s : State),
    ∃ t, exec (e c) s = .next t ∧ (t.sec.keyStatus ≠ 0 → t = { s with sec := { s.sec with keyStatus := t.sec.keyStatus } })) ∧
  (∀ (who : Principal) (kind : Byte) (part : BitVec 5) (rsv : BitVec 3) (nonce : BitVec 256) (s : State),
    (rsv = 0 → QuoteAllowed s who kind part → ¬ QuoteBusy s who →
      (s.sec.quoteBusy = none → ∃ t, exec (.quoteReq who kind part rsv nonce) s = .next t ∧ t.sec.quotes = s.sec.quotes ∧
        t.sec.quoteBusy = some (who, quoteBytes s.stamp.2 ⟨who, kind, part.toNat, nonce⟩ s.stamp.1)) ∧
      (s.sec.quoteBusy ≠ none → exec (.quoteReq who kind part rsv nonce) s =
        .next { s with sec := { s.sec with quotes := s.sec.quotes ++ [⟨who, kind, part.toNat, nonce⟩] } })) ∧
    (rsv ≠ 0 ∨ ¬ QuoteAllowed s who kind part ∨ QuoteBusy s who → exec (.quoteReq who kind part rsv nonce) s = .next s)) ∧
  (∀ (s u : State) (who : Principal) (bs : List Byte), s.sec.quoteBusy = some (who, bs) →
    u = { s with sec := { s.sec with
      quoteBusy := none,
      results := tput s.sec.results (resultKey who) (bs ++ leBytes 7856 (Config.slhSign identSeed bs).toNat) } } →
    (s.sec.quotes = [] → exec .quoteSigned s = .next u) ∧
    (∀ q r, s.sec.quotes = q :: r → exec .quoteSigned s = .next (startQuote { u with sec := { u.sec with quotes := r } } q))) ∧
  (∀ (c : FwCmd) (s : State), c.rsv = 0 → c.rsv2 = 0 →
    (c.len.toNat ≤ 2 ^ 23 → s.sec.fw ∉ [FwState.receiving, .verifying] → ∃ t, exec (.fwBegin c) s = .next t ∧ t.sec.fw = .receiving ∧
      t.sec.received = 0 ∧ t.bank (idleBank s) = Bank.dflt) ∧
    (s.sec.fw = .receiving → exec (.fwCommit c) s = .next { s with sec := { s.sec with fw := .verifying, fwDigest := c.digest } }) ∧
    (s.sec.fw = .receiving → ∃ t, exec (.fwAbort c) s = .next t ∧ t.sec.fw = .idle ∧
      t.bank (idleBank s) = { s.bank (idleBank s) with valid := false }) ∧
    (c.svn.toNat ≤ (s.bank s.sec.running).svn.toNat → s.sec.minSvn.toNat ≤ c.svn.toNat →
      ∃ t, exec (.setMinSvn c) s = .next t ∧ t.sec = { s.sec with minSvn := c.svn, blockWrites := s.sec.blockWrites + 1 }) ∧
    (2 ^ 23 < c.len.toNat ∨ s.sec.fw ∈ [FwState.receiving, .verifying] → exec (.fwBegin c) s = .next s) ∧
    (s.sec.fw ≠ .receiving → exec (.fwCommit c) s = .next s ∧ exec (.fwAbort c) s = .next s) ∧
    ((s.bank s.sec.running).svn.toNat < c.svn.toNat ∨ c.svn.toNat < s.sec.minSvn.toNat → exec (.setMinSvn c) s = .next s)) ∧
  (∀ (d : List Byte) (s : State),
    (s.sec.fw = .receiving → 9 ≤ d.length → d.length ≤ 256 → leNat (d.take 8) + (d.length - 8) ≤ s.sec.fwLen →
      ∃ t, exec (.fwChunk d) s = .next t ∧ t.sec.fw = .receiving ∧
        t.sec.received = max s.sec.received (leNat (d.take 8) + (d.length - 8)) ∧
        t.bank (idleBank s) = { s.bank (idleBank s) with image := mwriteBytes (s.bank (idleBank s)).image (leNat (d.take 8)) (d.drop 8) }) ∧
    (s.sec.fw ≠ .receiving ∨ d.length < 9 ∨ 256 < d.length ∨ s.sec.fwLen < leNat (d.take 8) + (d.length - 8) →
      exec (.fwChunk d) s = .next s)) ∧
  (∀ (s : State) (m : Memory), s.sec.fw = .verifying → m = (s.bank (idleBank s)).image →
    ∃ t, exec .fwVerifyDone s = .next t ∧
      (if digOf (sha256 (mbytes m 0 s.sec.fwLen)) = s.sec.fwDigest ∧ imageValid m = true ∧ s.sec.minSvn.toNat ≤ mread m 8 4 then
        t.sec.fw = .pending ∧ (t.bank (idleBank s)).valid = true ∧ (t.bank (idleBank s)).pending = true ∧
          (t.bank (idleBank s)).svn = BitVec.ofNat 32 (mread m 8 4)
       else t.sec.fw = .failed ∧ (t.bank (idleBank s)).valid = false))

/-- R449, R462, R511, R521, R522: the resets complete: FULL from step 2, RECOVERY and LEAVE_STANDBY from step 4, ENTER_STANDBY into STANDBY,
with every context gone, memory cleared, and MIN_SVN and retired frames kept. ENTER_STANDBY is refused with status 2 while a partition
exists, RECOVERY in STANDBY with 4, LEAVE_STANDBY outside STANDBY with 3, and so after a thermal trip while a die reads 85 °C or
more; FULL is refused with 4 in the STANDBY of a thermal trip (log 103). In OFF nothing is served (R512). -/
def Obligations.ResetsComplete : Prop :=
  (∀ s : State, s.pwr.st ≠ .off → (s.pwr.st = .standby → s.pwr.start = 0 → s.pwr.thermal = false) →
    ∃ t, exec .resetFull s = .next t ∧ t.pwr.start = 2 ∧ t.pwr.st = .standby ∧ t.pwr.byCommand = true ∧
    t.rel.modState = .starting ∧ t.ctxs = [] ∧ (∀ k, (t.core k).ctx = none ∧ (t.core k).sregs = [] ∧ (t.core k).pc = 0) ∧ t.mem.hbm = [] ∧ t.host.ready = false ∧
    t.kedal.up = false ∧ t.fab.node = 0xFFFFF#20 ∧ t.sec.minSvn = s.sec.minSvn ∧ t.sec.slots = tdel s.sec.slots 0 ∧
    t.rel.retired = s.rel.retired) ∧
  (∀ s : State, s.pwr.st ≠ .off → (s.pwr.st = .standby → s.pwr.start ≠ 0) →
    ∃ t, exec .resetRecovery s = .next t ∧ t.pwr.start = 4 ∧ t.rel.modState = .starting ∧ t.ctxs = [] ∧ t.mem.hbm = [] ∧
      t.kedal.up = s.kedal.up ∧ t.sec.minSvn = s.sec.minSvn ∧ t.rel.retired = s.rel.retired) ∧
  (∀ s : State, s.pwr.st ≠ .off → partsHeld s = [] →
    ∃ t, exec .resetEnterStandby s = .next t ∧ t.pwr.st = .standby ∧ t.pwr.start = 0 ∧ t.ctxs = [] ∧ t.mem.hbm = [] ∧
      t.sec.minSvn = s.sec.minSvn ∧ t.rel.retired = s.rel.retired ∧ t.pwr.thermal = s.pwr.thermal) ∧
  (∀ s : State, s.pwr.st = .standby → s.pwr.start = 0 → (s.pwr.thermal = true → ∀ e ∈ s.pwr.temps, e.2.toNat < 85) →
    ∃ t, exec .resetLeaveStandby s = .next t ∧ t.pwr.start = 4 ∧ t.rel.modState = .starting ∧ t.ctxs = [] ∧ t.pwr.thermal = false) ∧
  (∀ s t : State, s.pwr.st = .standby → s.pwr.start = 0 → t = { s with pwr := { s.pwr with resetStatus := 4 } } →
    exec .resetRecovery s = .next t ∧ (s.pwr.thermal = true → exec .resetFull s = .next t)) ∧
  (∀ s : State, s.pwr.st ≠ .off → partsHeld s ≠ [] →
    exec .resetEnterStandby s = .next { s with pwr := { s.pwr with resetStatus := 2 } }) ∧
  (∀ s : State, s.pwr.st ≠ .off → (s.pwr.st = .standby → s.pwr.start ≠ 0 ∨ (s.pwr.thermal = true ∧ ∃ e ∈ s.pwr.temps, 85 ≤ e.2.toNat)) →
    exec .resetLeaveStandby s = .next { s with pwr := { s.pwr with resetStatus := 3 } }) ∧
  (∀ e ∈ [Instr.resetFull, .resetRecovery, .resetEnterStandby, .resetLeaveStandby], ∀ s : State, s.pwr.st = .off → exec e s = .next s)

/-- R446, R447, R506, R507, R511, R513, R514, R516, R518–R520: the commands of power and start-up complete: the input comes and goes, power
is sampled, capped and cut, a die at 115 °C takes the module to STANDBY, core array domains stop and run again, and a try of a step of
a start goes on, is made again, or ends the step; where none of this applies the command changes nothing. -/
def Obligations.PowerAndStartupComplete : Prop :=
  (∀ s : State, exec .inputTurnOn s = .next (if s.pwr.st = .off ∧ s.pwr.input = false then
    { s with pwr := { s.pwr with input := true, start := 1, tries := 0, failed := 0xF#4 } } else s)) ∧
  (∀ e ∈ [Instr.inputUndervoltage, Instr.inputOvervoltage, Instr.presentOpen], ∀ s : State, 
    (s.pwr.input = true → ∃ t, exec e s = .next t ∧ t.pwr.st = .off ∧ t.pwr.input = false ∧ t.pwr.start = 0 ∧ t.ctxs = [] ∧ t.mem.hbm = [] ∧
      t.sec.minSvn = s.sec.minSvn ∧ t.rel.retired = s.rel.retired) ∧
    (s.pwr.input = false → exec e s = .next s)) ∧
  (∀ (mw : W32) (dv : BitVec 10) (s : State), exec (.powerSample mw dv) s = .next { s with pwr := { s.pwr with
    sampleMw := s.pwr.sampleMw + mw.toNat, sampleN := s.pwr.sampleN + 1, sampleDv := s.pwr.sampleDv + dv.toNat } }) ∧
  (∀ (v : W32) (s : State), exec (.pwrCapWrite v) s = .next (if 400 ≤ v.toNat ∧ v.toNat ≤ 1800 then
    { s with pwr := { s.pwr with capNew := some v.toNat } } else s)) ∧
  (∀ s : State, ∃ t, exec .fastCut s = .next t ∧ t.pwr.cutNow = true ∧
    ∀ k, k < 256 → (t.budget k).mx = 0 ∧ (t.budget k).ve = 0 ∧ (t.budget k).spent = true) ∧
  (∀ (d : Fin 5) (v : Byte) (s : State),
    (115 ≤ v.toNat → s.pwr.st ≠ .off → (s.pwr.st = .standby → s.pwr.start ≠ 0) →
      ∃ t, exec (.thermalTrip d v) s = .next t ∧ t.pwr.st = .standby ∧ t.pwr.start = 0 ∧ t.pwr.thermal = true ∧ t.ctxs = [] ∧
        t.pwr.temps = tput s.pwr.temps d.val v) ∧
    (v.toNat < 115 ∨ s.pwr.st = .off ∨ (s.pwr.st = .standby ∧ s.pwr.start = 0) →
      exec (.thermalTrip d v) s = .next { s with pwr := { s.pwr with temps := tput s.pwr.temps d.val v } })) ∧
  (∀ (d : Fin 4) (s : State),
    (2 ≤ tget 0 s.pwr.idleDies d.val → dieIdle s d.val = true → arrayRuns s d.val = true →
      ∃ t, exec (.coreArrayDomainStop d) s = .next t ∧ arrayRuns t d.val = false ∧ ∀ k, dieOfCore k = d.val → (t.core k).tlb = ⟨[], []⟩) ∧
    (tget 0 s.pwr.idleDies d.val < 2 ∨ dieIdle s d.val = false ∨ arrayRuns s d.val = false → exec (.coreArrayDomainStop d) s = .next s)) ∧
  (∀ (d : Fin 4) (s : State),
    (d.val ∈ s.pwr.relocking →
      ∃ u, exec (.coreArrayRelock d) s = .next (beginRestores u) ∧ arrayRuns u d.val = true ∧ d.val ∉ u.pwr.relocking) ∧
    (d.val ∉ s.pwr.relocking → exec (.coreArrayRelock d) s = .next s)) ∧
  (∀ (i : StepIn) (s : State), stepRuns s = true →
    (s.pwr.start = 5 → i.ok = true → i.pufOk = false → exec (.startupStepComplete i) s = .next (haltStart s)) ∧
    (checksStage s = true → i.ok = true → i.stageOk = false → exec (.startupStepComplete i) s = .next (failStage s)) ∧
    ((s.pwr.start = 5 → i.pufOk = true) → (checksStage s = true → i.stageOk = true) → stepBad s i = 0 → stepBadCh s i = [] →
      exec (.startupStepComplete i) s = .next (stepDone s i)) ∧
    ((s.pwr.start = 5 ∨ checksStage s = true → i.ok = true → i.pufOk = true ∧ i.stageOk = true) → (stepBad s i ≠ 0 ∨ stepBadCh s i ≠ []) →
      exec (.startupStepComplete i) s = .next (if s.pwr.tries = 0 then
        { s with pwr := { s.pwr with tries := 1, failed := stepBad s i, failedCh := stepBadCh s i } }
       else stepFailed s (stepBad s i) (stepBadCh s i))) ∧
    exec .startupStepTimeout s = .next (stepFailed s s.pwr.failed s.pwr.failedCh)) ∧
  (∀ (i : StepIn) (s : State), i.ok = true → i.stageOk = false → s.pwr.start ∈ [4#8, 7#8] →
    ∃ t, exec (.startupStepComplete i) s = .next t ∧ s.sec.running ∈ t.pwr.badBanks ∧ t.pwr.start ∈ [3#8, 0x83#8]) ∧
  (∀ (i : StepIn) (s : State), i.ok = true → s.pwr.start = 0x0B#8 →
    ∃ t, exec (.startupStepComplete i) s = .next t ∧ t.pwr.start = 0x0C#8 ∧ t.rel.modState = .operational ∧ t.host.ready = true) ∧
  (∀ s : State, s.pwr.start = 2 → ∃ t, exec .startupStepTimeout s = .next t ∧ t.pwr.start = 0x82#8 ∧ t.rel.modState = .halted) ∧
  (∀ (i : StepIn) (s : State), stepRuns s = false → exec (.startupStepComplete i) s = .next s ∧ exec .startupStepTimeout s = .next s)

namespace Sys2Proof.Machine

/-- The status that SELFTEST_CMD leaves (R478). -/
def testAnswers (s : State) (n : Byte) : State := { s with rel := { s.rel with testStatus := n } }

/-- A test is in progress no more. -/
def untested (s : State) (x : Test) : State := { s with rel := { s.rel with testing := s.rel.testing.filter (· != x) } }

end Sys2Proof.Machine

/-- R478–R481: the self-tests complete: a request starts at once, waits in the queue, is taken out of it, or is refused with the status of
R478 that says why; a waiting one starts when its unit is free; and the end of a test gives its result and the state of its unit, or
changes nothing where no such test runs. A port that is enabled returns to DOWN after its calibration (R480). -/
def Obligations.SelfTestsComplete : Prop :=
  (∀ e ∈ [(Instr.testLogic, 1), (Instr.testMemory, 2), (Instr.testBoth, 3)], ∀ (c : TestCmd) (s : State),
    c.rsv = 0 → fld c.flags 7 1 = 0 → testAllowed e.2 c = true →
    (testReady s ⟨e.2, c, .inService⟩ = true → exec (e.1 c) s = .next (testAnswers (beginTest s ⟨e.2, c, .inService⟩) 0)) ∧
    (testReady s ⟨e.2, c, .inService⟩ = false → s.rel.tests.length < 64 →
      exec (e.1 c) s = .next (testAnswers { s with rel := { s.rel with tests := s.rel.tests ++ [⟨e.2, c, .inService⟩] } } 0)) ∧
    (testReady s ⟨e.2, c, .inService⟩ = false → 64 ≤ s.rel.tests.length → exec (e.1 c) s = .next (testAnswers s 2))) ∧
  (∀ (c : TestCmd) (s : State), c.rsv = 0 → fld c.flags 7 1 = 0 → testAllowed 4 c = true →
    ((c.start ≠ 0 → bcnAhead s.bcn.num c.start = true) → s.rel.tests.length < 64 →
      exec (.testOpticalCal c) s = .next (testAnswers { s with rel := { s.rel with
        tests := s.rel.tests ++ [⟨4, if c.start = 0 then { c with start := s.bcn.num + 1 } else c, .inService⟩] } } 0)) ∧
    ((c.start ≠ 0 → bcnAhead s.bcn.num c.start = true) → 64 ≤ s.rel.tests.length → exec (.testOpticalCal c) s = .next (testAnswers s 2)) ∧
    (c.start ≠ 0 → bcnAhead s.bcn.num c.start = false → exec (.testOpticalCal c) s = .next (testAnswers s 4))) ∧
  (∀ (c : TestCmd) (s : State), c.rsv = 0 → fld c.flags 7 1 = 0 →
    (∀ x, s.rel.tests.find? (fun t => t.cmd.tag == c.tag) = some x →
      ∃ t, exec (.testCancel c) s = .next t ∧ t.rel.testStatus = 0 ∧ t.rel.tests = s.rel.tests.filter (· != x) ∧
        t.rel.results.getLast? = some ⟨x.cmd.tag, x.op, x.cmd.target.toNat, x.cmd.unit.toNat, 2, s.stamp.1⟩) ∧
    (s.rel.tests.find? (fun t => t.cmd.tag == c.tag) = none → exec (.testCancel c) s = .next (testAnswers s 3))) ∧
  (∀ e ∈ [(Instr.testLogic, 1), (Instr.testMemory, 2), (Instr.testBoth, 3), (Instr.testOpticalCal, 4), (Instr.testCancel, 5)],
    ∀ (c : TestCmd) (s : State), c.rsv ≠ 0 ∨ fld c.flags 7 1 ≠ 0 ∨ (e.2 ≠ 5 ∧ testAllowed e.2 c = false) → exec (e.1 c) s = .next (testAnswers s 1)) ∧
  (∀ (tag : W32) (s : State) (x : Test), s.rel.tests.find? (fun t => t.cmd.tag == tag && t.op != 4) = some x → exec (.selftestStart tag) s = .next
    (if testReady s x then beginTest { s with rel := { s.rel with tests := s.rel.tests.filter (· != x) } } x else s)) ∧
  (∀ (tag : W32) (s : State), s.rel.tests.find? (fun t => t.cmd.tag == tag && t.op != 4) = none → exec (.selftestStart tag) s = .next s) ∧
  (∀ (tag : W32) (pass : Bool) (fs ps : List Nat) (s : State) (x : Test), s.rel.testing.find? (fun t => t.cmd.tag == tag) = some x →
    (∀ u, testUnit x = some (.port, u) → exec (.selftestEnd tag pass fs ps) s =
      .next (calEnded (addResult (setUnit (untested s x) .port u .inService) x (b2n !pass)) x)) ∧
    ((∀ u, testUnit x ≠ some (.port, u)) → ∃ t r, exec (.selftestEnd tag pass fs ps) s = .next t ∧ t.rel.testing = s.rel.testing.filter (· != x) ∧
      t.rel.results.getLast? = some r ∧ r.tag = x.cmd.tag ∧ r.op = x.op ∧ r.target = x.cmd.target.toNat ∧ r.unit = x.cmd.unit.toNat ∧ r.res = b2n !pass ∧
      ∀ d u, testUnit x = some (d, u) → unitSt t d u = (if pass then afterPass (untested s x) x else .outOfService))) ∧
  (∀ (tag : W32) (pass : Bool) (fs ps : List Nat) (s : State), s.rel.testing.find? (fun t => t.cmd.tag == tag) = none →
    exec (.selftestEnd tag pass fs ps) s = .next s)

namespace Sys2Proof.Machine

/-- Whether the unit of a recovery that ends goes out of service (R14, R464, R466). -/
def staysOut (s : State) (r : Recov) (d : Domain) (u : Nat) (ok : Bool) : Bool :=
  (r.was == .outOfService && d != .laneGroup && d != .port) || match d with
  | .laneGroup => !ok || decide (0x200 ≤ u)
  | .channel => !ok || decide (3 ≤ faultCount s d u)
  | .port => false
  | .module => false
  | .die => !ok || r.cause == 0x0A || decide (3 ≤ faultCount s d u) || linkLost s u
  | _ => !ok || r.cause == 0x0A || decide (3 ≤ faultCount s d u)

/-- The module has its power (R506, R512): it detects faults. -/
def Powered (s : State) : Prop := s.pwr.st ≠ .off ∧ (s.pwr.st = .standby → s.pwr.start ≠ 0)

/-- No recovery runs, and the module is neither halted nor in a recovery of its own. -/
def Quiet (s : State) : Prop := s.rel.running = [] ∧ s.rel.modState ∉ [ModState.halted, .moduleRecovery]

/-- A frame is retired: listed, or with the list full noted as lost with its unit (R475). -/
def FrameRetired (s : State) (f : Nat) : Prop :=
  f ∈ s.rel.lostFrames ∨ ∃ r ∈ s.rel.retired, r.stack = f / 2 ^ 24 ∧ r.frame = f % 2 ^ 24

/-- The faults of one cycle that name units which exist. -/
def faultsOf (fs : List (Domain × BitVec 10 × Byte)) : List FaultIn :=
  (fs.map (fun f => (⟨f.1, f.2.1.toNat, f.2.2.toNat⟩ : FaultIn))).filter (fun f => unitExists f.dom f.unit)

/-- A UCIe module is out of service (R13). -/
def moduleOut (s : State) (l : DieLink) (m : Fin 16) : State := { s with mem := { s.mem with ucieOut := s.mem.ucieOut ++ [(linkNum l, m.val)] } }

/-- A clock domain has lost lock and stops, which its PLL counts (R20). -/
def lockLost (s : State) (n : Nat) : State :=
  settlePower (s.setDomain n (setFld (setFld (s.domain n) 31 30 0) 23 16 (holdInc 255 (fld (s.domain n) 23 16))))

end Sys2Proof.Machine

/-- R13, R14, R20, R297–R300, R463–R470, R473–R475: the commands of reliability complete. FAULT_DETECT takes the faults of its cycle
together; alone, with no recovery and no test of its unit, a fault begins a chain or a module recovery, and only counts in a halted
module. A recovery ends with its unit back or out of service, or escalates; a module recovery that times out starts again, or halts the
module the third time. Loss of lock, a silent agent and a lost UCIe module are faults, and a link's replay ends. Ways and
frames are counted and retired, uncorrectable errors poison or drop what they hit or are faults. A command that names nothing that
exists, runs or waits changes nothing. -/
def Obligations.ReliabilityCommandsComplete : Prop :=
  (∀ (d : Domain) (u : BitVec 10) (cause : Byte) (also : List (Domain × BitVec 10 × Byte)) (s : State),
    exec (.faultDetect d u ⟨cause, also⟩) s = .next (faultTogether s (faultsOf ((d, u, cause) :: also)))) ∧
  (∀ (d : Domain) (u : BitVec 10) (cause : Byte) (s : State), unitExists d u.toNat = true → Powered s →
    s.rel.testing.find? (testNames d u.toNat) = none →
    (d ≠ .module → Quiet s →
      ∃ t, exec (.faultDetect d u ⟨cause, []⟩) s = .next t ∧ unitSt t d u.toNat = .recovering ∧ t.rel.nextChain = (s.rel.nextChain + 1) % 65536 ∧
        t.rel.running = [⟨d, u.toNat, cause.toNat, s.rel.nextChain, 0, s.stamp.1, timeUs s, unitSt s d u.toNat⟩]) ∧
    (d = .module → Quiet s →
      ∃ t r, exec (.faultDetect d u ⟨cause, []⟩) s = .next t ∧ t.rel.modState = .moduleRecovery ∧ t.pwr.start = 4 ∧ t.ctxs = [] ∧
        t.rel.starts = 1 ∧ t.rel.running = [r] ∧ r.dom = .module ∧ r.cause = cause.toNat) ∧
    (s.rel.modState = .halted → s.rel.running = [] → exec (.faultDetect d u ⟨cause, []⟩) s = .next (countFault s d u.toNat))) ∧
  (∀ (d : Domain) (u : BitVec 10) (ok : Bool) (us : W32) (s : State) (r : Recov),
    s.rel.running.find? (fun r => r.dom == d && r.unit == u.toNat) = some r →
    (d ≠ .module → (d ∈ [Domain.port, .core, .cluster] → ok = true) →
      ∃ t, exec (.recoveryComplete d u ok us) s = .next t ∧
        unitSt t d u.toNat = (if staysOut s r d u.toNat ok then .outOfService else .inService) ∧ r ∉ t.rel.running) ∧
    (d ∈ [Domain.core, .cluster] → ok = false → exec (.recoveryComplete d u ok us) s = .next (escalate s r)) ∧
    (d = .module ∨ (d = .port ∧ ok = false) → exec (.recoveryComplete d u ok us) s = .next s)) ∧
  (∀ (d : Domain) (u : BitVec 10) (ok : Bool) (us : W32) (s : State),
    s.rel.running.find? (fun r => r.dom == d && r.unit == u.toNat) = none → exec (.recoveryComplete d u ok us) s = .next s) ∧
  (∀ (s : State) (r : Recov), s.rel.modState = .moduleRecovery → s.rel.running.find? (fun r => r.dom == .module) = some r →
    ∃ t, exec .moduleRecoveryTimeout s = .next t ∧ (if s.rel.starts < 3 then t.rel.modState = .moduleRecovery ∧ t.pwr.start = 4 ∧
      t.rel.starts = s.rel.starts + 1 else t.rel.modState = .halted ∧ t.rel.running = [])) ∧
  (∀ s : State, s.rel.modState ≠ .moduleRecovery → exec .moduleRecoveryTimeout s = .next s) ∧
  (∀ (d : Domain) (u : BitVec 10) (s : State), exec (.agentSilentTimeout d u) s = .next
    (if d ∈ [Domain.core, .cluster, .die] ∧ unitExists d u.toNat = true then faultDetect s d u.toNat 0x0D else s)) ∧
  (∀ (n : Fin 40) (s : State), exec (.pllLossOfLock n) s = .next
    (if bit (s.domain n.val) 31 = true ∨ ∃ r ∈ s.rel.running, (r.dom, r.unit) ∈ lockUnits n.val then
      faultTogether (lockLost s n.val) ((lockUnits n.val).map (fun u => ⟨u.1, u.2, 1⟩)) else s)) ∧
  (∀ (l : DieLink) (m : Fin 16) (s : State) (lane : FaultIn), lane = ⟨.laneGroup, 0x200 + 16 * linkNum l + m.val, 2⟩ →
    (m.val < linkModules l → (linkNum l, m.val) ∉ s.mem.ucieOut →
      (linkLost (moduleOut s l m) (linkNum l) = false → exec (.ucieModuleOutOfService l m) s = .next (faultTogether (moduleOut s l m) [lane])) ∧
      (∀ d : Fin 4, l = .hub d → linkLost (moduleOut s l m) (linkNum l) = true →
        exec (.ucieModuleOutOfService l m) s = .next (faultTogether (moduleOut s l m) [⟨.die, d.val, 3⟩, lane])) ∧
      (∀ i : Fin 4, l = .ring i → linkLost (moduleOut s l m) (linkNum l) = true →
        ∃ t, exec (.ucieModuleOutOfService l m) s = .next t ∧ tget LinkState.inUse t.mem.cdcd i.val = .replaying) ∧
      (Quiet s → ∃ t, exec (.ucieModuleOutOfService l m) s = .next t ∧ (linkNum l, m.val) ∈ t.mem.ucieOut)) ∧
    (linkModules l ≤ m.val ∨ (linkNum l, m.val) ∈ s.mem.ucieOut → exec (.ucieModuleOutOfService l m) s = .next s)) ∧
  (∀ (i : Fin 4) (s : State), exec (.linkReplayComplete i) s = .next
    (if tget LinkState.inUse s.mem.cdcd i.val = .replaying then { s with mem := { s.mem with cdcd := tput s.mem.cdcd i.val .lost } } else s)) ∧
  (∀ (st : WayStruct) (u : Fin 256) (w : Fin 16) (s : State) (x : Ways) (n : Nat), x = getWays s st u.val → n = holdInc 255 (tget 0 x.errs w.val) →
    (u.val < wayUnits st → w.val < wayCount st → (n ≠ 17 ∨ w.val ∈ x.out ∨ tfind x.leaving w.val ≠ none) →
      ∃ t, exec (.correctedError (.way st u w)) s = .next t ∧ (getWays t st u.val).out = x.out ∧ (getWays t st u.val).errs = tput x.errs w.val n ∧
        (tfind x.leaving w.val = none → (getWays t st u.val).leaving = x.leaving)) ∧
    (u.val < wayUnits st → w.val < wayCount st → n = 17 → w.val ∉ x.out → tfind x.leaving w.val = none →
      (wayFloor st + x.out.length + x.leaving.length + 1 ≤ wayCount st →
        ∃ t, exec (.correctedError (.way st u w)) s = .next t ∧ (getWays t st u.val).leaving = tput x.leaving w.val (17, s.rel.winStart.toNat)) ∧
      (wayCount st < wayFloor st + x.out.length + x.leaving.length + 1 →
        ∃ v, exec (.correctedError (.way st u w)) s = .next (faultDetect v (structDomain st) u.val 0x0A) ∧ (getWays v st u.val).errs = tput x.errs w.val 17)) ∧
    (wayUnits st ≤ u.val ∨ wayCount st ≤ w.val → exec (.correctedError (.way st u w)) s = .next s)) ∧
  (∀ (f : BitVec 27) (s : State), ∃ t, exec (.correctedError (.frame f)) s = .next t ∧
    tget 0 t.mem.hbmErrs f.toNat = tget 0 s.mem.hbmErrs f.toNat + 1 ∧ (tget 0 s.mem.hbmErrs f.toNat = 3 → FrameRetired t f.toNat)) ∧
  (∀ (st : WayStruct) (u : Fin 256) (w : Fin 16) (s : State),
    (∀ x, u.val < wayUnits st → tfind (getWays s st u.val).leaving w.val = some x →
      (wayEmpty (emptyWay s st u.val w.val) st u.val w.val = true →
        ∃ t, exec (.wayOutOfService st u w) s = .next t ∧ w.val ∈ (getWays t st u.val).out ∧
          (getWays t st u.val).leaving = tdel (getWays (emptyWay s st u.val w.val) st u.val).leaving w.val) ∧
      (wayEmpty (emptyWay s st u.val w.val) st u.val w.val = false → exec (.wayOutOfService st u w) s = .next (emptyWay s st u.val w.val))) ∧
    (tfind (getWays s st u.val).leaving w.val = none → exec (.wayOutOfService st u w) s = .next s)) ∧
  (∀ (k : Fin 256) (i : Fin 64) (w : Fin 8) (q : Fin 4) (s : State), exec (.eccUncorrectable (.l1Sector k i w q)) s =
    .next (s.updL1 k.val (fun c => c.atPos (8 * i.val + w.val) (fun l => sectorError l q.val))) ∧
    exec (.eccUncorrectable (.l1Tag k i w)) s = .next (tagError s k.val (8 * i.val + w.val))) ∧
  (∀ (c : Fin 32) (i : Fin 1024) (w : Fin 16) (q : Fin 4) (s : State), exec (.eccUncorrectable (.l2Sector c i w q)) s =
    .next (s.updL2 c.val (fun x => x.atPos (16 * i.val + w.val) (fun l => sectorError l q.val))) ∧
    exec (.eccUncorrectable (.l2Tag c i w)) s = .next (faultDetect s .cluster c.val 8)) ∧
  (∀ (d : Fin 4) (k : Fin 256) (x : CoreStruct) (y : ParityStruct) (s : State),
    exec (.eccUncorrectable (.dirEntry d)) s = .next (faultDetect s .die d.val 0x0B) ∧
    exec (.eccUncorrectable (.coreState k x)) s = .next (faultDetect s .core k.val 6) ∧
    exec (.eccUncorrectable (.coreParity k y)) s = .next (faultDetect s .core k.val 7)) ∧
  (∀ (k : Fin 256) (c : Fin 32) (e i : Fin 64) (n : BitVec 12) (v : BitVec 52) (s : State),
    (∃ t, exec (.eccUncorrectable (.coreTlb k n v)) s = .next t ∧ (t.core k.val).tlb = (s.core k.val).tlb.without n.toNat v.toNat) ∧
    (∃ t, exec (.eccUncorrectable (.clusterTlb c n v)) s = .next t ∧ (t.cluster c.val).tlb = (s.cluster c.val).tlb.without n.toNat v.toNat) ∧
    (∃ t, exec (.eccUncorrectable (.dmaTlb e n v)) s = .next t ∧ tget ⟨[], []⟩ (t.cluster (e.val / 2)).dtlb e.val =
      (tget ⟨[], []⟩ (s.cluster (e.val / 2)).dtlb e.val).without n.toNat v.toNat) ∧
    (∃ t, exec (.eccUncorrectable (.walkCache c i)) s = .next t ∧ (t.cluster c.val).wcache = tdel (s.cluster c.val).wcache i.val)) ∧
  (∀ (q : BitVec 33) (s : State) (n : Nat), n = tget 0 s.rel.uncs (channelOf (q.toNat / 4)) + 1 →
    (n ≠ 8 → ∃ t, exec (.eccUncorrectable (.hbm q)) s = .next t ∧ tget 0 t.rel.uncs (channelOf (q.toNat / 4)) = n ∧ FrameRetired t (q.toNat / 64)) ∧
    (n = 8 → ∃ v, exec (.eccUncorrectable (.hbm q)) s = .next (faultDetect v .channel (channelOf (q.toNat / 4)) 0x0C) ∧
      tget 0 v.rel.uncs (channelOf (q.toNat / 4)) = 8 ∧ FrameRetired v (q.toNat / 64)))

namespace Sys2Proof.Machine

/-- A status of the debug objects (R487, R503). -/
def dbgAnswers (s : State) (n : Byte) : State := { s with dbg := { s.dbg with result := n } }

/-- The watchdog's graph is only traced (R501, R505): one is being assembled, one has begun in this period, or a lower context's watchdog fires. -/
def WatchBusy (s : State) (n : Nat) : Prop :=
  s.dbg.graphSt = 1 ∨ s.dbg.watchAt = some s.bcn.num ∨ ∃ e ∈ s.ctxs, e.1 < n ∧ watchdogFires s e.2 = true

end Sys2Proof.Machine

/-- R484, R487, R488, R490–R503, R505: the commands of counters, trace and debug complete: the freeze is armed and released, counters are
written, trace buffers are enabled, stopped, written and drained, the wait-for graph is requested, watched for and published, and a
context is stopped and resumed; a command that its rule refuses sets the status of its object, or changes nothing. An event reaches its
port with the stamp of its arrival, or is counted where the buffer has stopped or the port is full; the sink writes the oldest. -/
def Obligations.DebugCommandsComplete : Prop :=
  (∀ (v : W64) (s : State),
    (fld v 16 0 = 0 → fld v 23 20 ≤ 3 → fld v 19 17 ≤ 4 →
      ((fld v 23 20 = 1 → bcnAhead s.bcn.num (BitVec.ofNat 40 (fld v 63 24)) = true) → s.dbg.freezeSt ≠ 2 →
        exec (.freezeTriggerWrite v) s = .next { s with dbg := { s.dbg with
          result := 0, freezeTrig := v, freezeSt := if fld v 23 20 = 0 then 0 else 1, trigHit := [] } }) ∧
      (fld v 23 20 = 1 → bcnAhead s.bcn.num (BitVec.ofNat 40 (fld v 63 24)) = false → exec (.freezeTriggerWrite v) s = .next (dbgAnswers s 2)) ∧
      ((fld v 23 20 = 1 → bcnAhead s.bcn.num (BitVec.ofNat 40 (fld v 63 24)) = true) → s.dbg.freezeSt = 2 →
        exec (.freezeTriggerWrite v) s = .next (dbgAnswers s 3))) ∧
    (fld v 16 0 ≠ 0 ∨ 3 < fld v 23 20 ∨ 4 < fld v 19 17 → exec (.freezeTriggerWrite v) s = .next (dbgAnswers s 1))) ∧
  (∀ (v : Byte) (s : State), exec (.freezeRelease v) s = .next
    (if v = 1 ∧ s.dbg.freezeSt = 2 then { s with dbg := { s.dbg with freezeSt := 0 } } else s)) ∧
  (∀ (w : CtrWrite) (s : State),
    (w.n.toNat ≤ 6015 → w.rsv = 0 → w.ctl &&& ctlReserved w.n.toNat = 0 → (ctrFixed w.n.toNat = true ∨ ctlOk w.n.toNat w.ctl = true) →
      ∃ t, exec (.counterWrite w) s = .next t ∧ t.ctr w.n.toNat = { s.ctr w.n.toNat with
        ctl := ctlAfter w.n.toNat (s.ctr w.n.toNat).ctl w.ctl
        count := if w.setCount then w.count else (s.ctr w.n.toNat).count }) ∧
    (6015 < w.n.toNat ∨ w.rsv ≠ 0 ∨ w.ctl &&& ctlReserved w.n.toNat ≠ 0 ∨ (ctrFixed w.n.toNat = false ∧ ctlOk w.n.toNat w.ctl = false) →
      exec (.counterWrite w) s = .next s)) ∧
  (∀ (b : Fin 5) (v : W64) (s : State), bit (s.buf b.val).ctrl 63 = false →
    (fld v 7 0 = 0 → fld v 62 61 ≠ 3 → 24 ≤ fld v 60 56 → fld v 60 56 ≤ 30 →
      (bit v 63 = true → trcMayEnable s v (s.buf b.val).base = true →
        ∃ t, exec (.trcCtrlWrite b v) s = .next t ∧ (t.buf b.val).ctrl = v ∧ (t.buf b.val).state = 1 ∧ (t.buf b.val).next = 0 ∧
          (t.buf b.val).dropped = 0 ∧ (t.buf b.val).dieQ = [] ∧ (t.buf b.val).port = []) ∧
      (bit v 63 = false → exec (.trcCtrlWrite b v) s = .next (s.setBuf b.val { s.buf b.val with ctrl := v }))) ∧
    (fld v 7 0 ≠ 0 ∨ fld v 62 61 = 3 ∨ fld v 60 56 < 24 ∨ 30 < fld v 60 56 ∨ (bit v 63 = true ∧ trcMayEnable s v (s.buf b.val).base = false) →
      exec (.trcCtrlWrite b v) s = .next s)) ∧
  (∀ (b : Fin 5) (v : W64) (s : State), bit (s.buf b.val).ctrl 63 = true →
    (v = setBit (s.buf b.val).ctrl 63 false →
      ∃ t, exec (.trcCtrlWrite b v) s = .next t ∧ (t.buf b.val).state = 0 ∧ (t.buf b.val).dieQ = [] ∧ (t.buf b.val).port = [] ∧
        (t.buf b.val).ctrl = v ∧ (t.buf b.val).next = (s.buf b.val).next) ∧
    (v ≠ setBit (s.buf b.val).ctrl 63 false → exec (.trcCtrlWrite b v) s = .next s)) ∧
  (∀ (b : Fin 5) (n : BitVec 11) (s : State), ∃ u, exec (.traceEvent ⟨b, 0⟩) s = .next u ∧
    exec (.traceEvent ⟨b, n⟩) s = .next ((List.range n.toNat).foldl (fun s _ => sinkStep s b.val) u)) ∧
  (∀ (b : Fin 5) (s : State) (e : TraceEnt) (g : Bool) (r : List TraceItem), (s.buf b.val).dieQ = .event e g :: r →
    (∀ m x, r.head? ≠ some (.lost m x)) →
    ((s.buf b.val).state ≠ 3 → State.queuedEvents (s.buf b.val).port < 1024 →
      ∃ t h, exec (.traceEvent ⟨b, 0⟩) s = .next t ∧ (t.buf b.val).dieQ = r ∧
        (t.buf b.val).port = (s.buf b.val).port ++ [.event { e with stamp := s.stamp.1 } h]) ∧
    ((s.buf b.val).state ≠ 3 → 1024 ≤ State.queuedEvents (s.buf b.val).port →
      ∃ t, exec (.traceEvent ⟨b, 0⟩) s = .next t ∧ (t.buf b.val).dieQ = r ∧ (t.buf b.val).dropped = min 0xFFFFFFFF ((s.buf b.val).dropped + 1)) ∧
    ((s.buf b.val).state = 3 →
      ∃ t, exec (.traceEvent ⟨b, 0⟩) s = .next t ∧ (t.buf b.val).dieQ = r ∧ (t.buf b.val).after = holdInc 0xFFFFFFFF (s.buf b.val).after ∧
        (t.buf b.val).next = (s.buf b.val).next ∧ t.mem = s.mem)) ∧
  (∀ (b : Fin 5) (s : State) (e : TraceEnt) (g : Bool) (r : List TraceItem), (s.buf b.val).dieQ = [] → (s.buf b.val).port = .event e g :: r →
    (s.buf b.val).drops = 0 → (s.buf b.val).state ≠ 3 →
    ∃ t, exec (.traceEvent ⟨b, 1⟩) s = .next t ∧ t = sinkEntry (s.setBuf b.val { s.buf b.val with port := r }) b.val e g ∧
      (t.buf b.val).next = (s.buf b.val).next + 1 ∧ (t.buf b.val).lastStamp = e.stamp) ∧
  (∀ (b : Fin 5) (bus : W64) (first count : BitVec 25) (rsv rsv2 : BitVec 7) (s : State),
    ((s.buf b.val).drainState ≠ 1 → rsv = 0 → rsv2 = 0 → bus.toNat % 4096 = 0 → count ≠ 0 → count.toNat ≤ trcCap (s.buf b.val).ctrl →
      ideOk s bus (32 * count.toNat) = true → exec (.trcDrain b bus first rsv count rsv2) s = .next (s.setBuf b.val { s.buf b.val with
        drainState := 1, drainN := 0, drainBus := bus, drainFirst := first.toNat, drainCount := count.toNat })) ∧
    ((s.buf b.val).drainState ≠ 1 → (rsv ≠ 0 ∨ rsv2 ≠ 0 ∨ bus.toNat % 4096 ≠ 0 ∨ count = 0 ∨ trcCap (s.buf b.val).ctrl < count.toNat ∨
        ideOk s bus (32 * count.toNat) = false) →
      exec (.trcDrain b bus first rsv count rsv2) s = .next (s.setBuf b.val { s.buf b.val with drainState := 3, drainN := 0 })) ∧
    ((s.buf b.val).drainState = 1 → exec (.trcDrain b bus first rsv count rsv2) s = .next s)) ∧
  (∀ (b : Fin 5) (s : State),
    ((s.buf b.val).drainState = 1 → ideOk s (s.buf b.val).drainBus (32 * (s.buf b.val).drainCount) = true →
      ∃ t, exec (.trcDrainDone b) s = .next t ∧ (t.buf b.val).drainState = 2 ∧ (t.buf b.val).drainN = (s.buf b.val).drainCount ∧
        t.host.posted = s.host.posted ++ (List.range (s.buf b.val).drainCount).map (fun i =>
          HostOut.write 0 ((s.buf b.val).drainBus + BitVec.ofNat 64 (32 * i))
            (cohRead s ((s.buf b.val).base.toNat + ((s.buf b.val).drainFirst + i) % trcCap (s.buf b.val).ctrl * 32) 32))) ∧
    ((s.buf b.val).drainState = 1 → ideOk s (s.buf b.val).drainBus (32 * (s.buf b.val).drainCount) = false →
      exec (.trcDrainDone b) s = .next (s.setBuf b.val { s.buf b.val with drainState := 3 })) ∧
    ((s.buf b.val).drainState ≠ 1 → exec (.trcDrainDone b) s = .next s)) ∧
  (∀ (sc : BitVec 2) (rsv : BitVec 6) (id : BitVec 12) (tag : W32) (s : State),
    (sc.toNat < 3 → rsv = 0 → s.dbg.graphSt ≠ 1 →
      ∃ t, exec (.waitForGraphRequest sc rsv id tag) s = .next t ∧ t.dbg.graphSt = 1 ∧ t.dbg.graphId = (s.dbg.graphId + 1) % 65536 ∧
        t.dbg.graphNew = ((allEdges s.stamp.2).filter (inScope s.stamp.2 sc.toNat id.toNat)).map (fun e => { e with w3 := s.stamp.1 })) ∧
    (3 ≤ sc.toNat ∨ rsv ≠ 0 ∨ s.dbg.graphSt = 1 → exec (.waitForGraphRequest sc rsv id tag) s = .next s)) ∧
  (∀ (n : BitVec 12) (s : State),
    (watchdogFires s (s.ctx n.toNat) = true → ¬ WatchBusy s n.toNat →
      ∃ t, exec (.watchdog n) s = .next t ∧ (t.ctx n.toNat).idlePeriods = 0 ∧ t.dbg.graphSt = 1 ∧
        t.dbg.graphId = (s.dbg.graphId + 1) % 65536 ∧ t.dbg.watchAt = some s.bcn.num) ∧
    (watchdogFires s (s.ctx n.toNat) = true → WatchBusy s n.toNat →
      ∃ t, exec (.watchdog n) s = .next t ∧ (t.ctx n.toNat).idlePeriods = 0 ∧ t.dbg.graphSt = s.dbg.graphSt ∧ t.dbg.graphNew = s.dbg.graphNew ∧
        t.dbg.graphId = s.dbg.graphId) ∧
    (watchdogFires s (s.ctx n.toNat) = false → exec (.watchdog n) s = .next s)) ∧
  (∀ s : State, (s.dbg.graphSt = 1 → ∃ t, exec .graphPublish s = .next t ∧ t.dbg.graphSt = 2 ∧ t.dbg.graphNew = [] ∧
      t.dbg.graph = (s.dbg.graphNew.filterMap (confirmEdge (allEdges s))).take 131008 ∧
      ∀ e ∈ t.dbg.graph, ∃ x ∈ s.dbg.graphNew, ∃ y ∈ allEdges s, e.w0 = x.w0 ∧ e.w2 = x.w2 ∧ e.w3 = x.w3 ∧ y.w0 = x.w0 ∧ edgeObject y = edgeObject x) ∧
    (s.dbg.graphSt ≠ 1 → exec .graphPublish s = .next s)) ∧
  (∀ (who : Principal) (rsv n : BitVec 12) (s : State),
    (who = .ha ∨ (who = .tenant (s.ctx n.toNat).fn ∧ (s.ctx n.toNat).st ≠ .free) →
      (rsv = 0 → (s.ctx n.toNat).debug = true →
        ((s.ctx n.toNat).st ∈ [CtxState.running, .holding] → ∃ t, exec (.dbgStop who rsv n) s = .next t ∧ t.dbg.dbgResult = 0 ∧
          (t.ctx n.toNat).st = .saving ∧ (t.ctx n.toNat).toStop = true ∧
          (∀ k i, (s.core k).ctx = some (n.toNat, i) → (t.core k).stopped = true)) ∧
        ((s.ctx n.toNat).st = .stopped → exec (.dbgResume who rsv n) s = .next (offerCores
          ({ s with dbg := { s.dbg with dbgResult := 0 } }.setCtx n.toNat { s.ctx n.toNat with st := .waiting, resumed := true }))) ∧
        ((s.ctx n.toNat).st ∉ [CtxState.running, .holding] → exec (.dbgStop who rsv n) s = .next { s with dbg := { s.dbg with dbgResult := 3 } }) ∧
        ((s.ctx n.toNat).st ≠ .stopped → exec (.dbgResume who rsv n) s = .next { s with dbg := { s.dbg with dbgResult := 3 } })) ∧
      (∀ stop : Bool, (rsv ≠ 0 ∨ (s.ctx n.toNat).debug = false) → exec (if stop then .dbgStop who rsv n else .dbgResume who rsv n) s =
        .next { s with dbg := { s.dbg with dbgResult := if rsv ≠ 0 then 1 else 2 } })) ∧
    (who = .fm ∨ (∃ v, who = .tenant v ∧ (v ≠ (s.ctx n.toNat).fn ∨ (s.ctx n.toNat).st = .free)) →
      exec (.dbgStop who rsv n) s = .next s ∧ exec (.dbgResume who rsv n) s = .next s))

namespace Sys2Proof.Machine

/-- A tiling record that R532 and R534 accept for a call with the inputs `ts` on a device. -/
def RecordStands (c : CallOpt) (op : Nat) (ts : List Tensor) (d : Device) : Prop :=
  tilingOk c op d.members.length d.width = true ∧ (c.fixedTiling = true → tilingMine c ts = true)

/-- Each member of this module finds cores for its context, its pin included (R389, R536). -/
def MembersFit (s : State) (c : CallOpt) (d : Device) : Prop :=
  ∀ m ∈ d.members, localMember s m = true →
    placements (pinMembers s c d.members) ((pinMembers s c d.members).ctx m.ctx) (coreIn (pinMembers s c d.members)) ≠ []

/-- What a call of the operator `op` with the inputs `ts` answers, whose rules give `res` (R526, R534, R536, R538, R539): with status 0 the
outputs stand in the members' partitions and are returned with the flags; 6 with a member that has been torn down, the status of the
operator's own rules, 3 with a fixed record that does not fit, 4 without cores, 7 without room for the outputs. A record that
Thehus would not have chosen is no call. -/
def CallAnswers (ans : Out) (s : State) (c : CallOpt) (op : Nat) (ts : List Tensor) (res : CallRes) : Prop :=
  (tfind s.lib.devs c.dev = none → ans = .next s) ∧
  ∀ d, tfind s.lib.devs c.dev = some d →
    (∀ x, tornMember s c d = some x → ans = .next (returnCall s 6 [] 0 x)) ∧
    (tornMember s c d = none → c.fixedTiling = false → tilingOk c op d.members.length d.width = false → ans = .next s) ∧
    (tornMember s c d = none → (c.fixedTiling = false → tilingOk c op d.members.length d.width = true) →
      (∀ st, res = .inl st → ans = .next (returnCall s st [] 0 0)) ∧
      (∀ out fl, res = .inr (out, fl) →
        (¬ RecordStands c op ts d → ans = .next (returnCall s 3 [] 0 0)) ∧
        (RecordStands c op ts d → ¬ MembersFit s c d → ans = .next (returnCall s 4 [] 0 0)) ∧
        (RecordStands c op ts d → MembersFit s c d → placesOk s c d out = false → ans = .next (returnCall s 7 [] 0 0)) ∧
        (RecordStands c op ts d → MembersFit s c d → placesOk s c d out = true →
          ans = .next (returnCall (storeShares (pinMembers s c d.members) c d out) 0 out fl 0))))

/-- Every member of an open has the width and class of the first, and an area of `n` bytes may be its exchange area (R524, R525). -/
def OpenFits (s : State) (ms : List MemberIn) (n : Nat) : Prop :=
  ms ≠ [] ∧ (∀ m ∈ ms, memberShape s m = (ms.head?.map (memberShape s)).getD (0, false)) ∧ exchBytesOk ms.length n = true

/-- The areas of an open are aligned, and those of this module stand in their members' partitions (R525). -/
def AreasFit (s : State) (ms : List MemberIn) (n : Nat) : Prop :=
  ∀ m ∈ ms, m.area.toNat % 2 ^ 21 = 0 ∧ (m.node = s.fab.node → withinPart s (memberOf s m).part m.area.toNat n = true)

/-- The members of an open reach each other's areas (R524, R525). -/
def AreasReached (s : State) (ms : List MemberIn) (n : Nat) : Prop :=
  ms.length < 2 ∨ ∀ m ∈ ms, m.reached = true ∧ (m.node = s.fab.node → exportsArea s (memberOf s m) m.area.toNat n (ms.map (memberOf s)) = true)

end Sys2Proof.Machine

/-- R524–R539: the calls of the library complete: DEVICE_OPEN opens a device or answers the status that says why not, and each operator
returns what its rules give for its inputs, whatever the contexts and exchanges that Thehus makes of it. An open whose members differ
or whose area size does not fit answers one of the codes of R539 (log 6). -/
def Obligations.LibraryCallsComplete : Prop :=
  (∀ (dev : Nat) (ms : List MemberIn) (b : W64) (s : State),
    (∀ x, ms.findSome? (memberClosed s) = some x → exec (.thOpen dev ms b) s = .next (returnCall s 6 [] 0 x)) ∧
    (ms.findSome? (memberClosed s) = none →
      (¬ OpenFits s ms b.toNat → ∃ t st, exec (.thOpen dev ms b) s = .next t ∧ t.lib.devs = s.lib.devs ∧ t.lib.last = ⟨st, [], 0, 0⟩ ∧
        1 ≤ st.toNat ∧ st.toNat ≤ 7) ∧
      (OpenFits s ms b.toNat → ¬ AreasFit s ms b.toNat → exec (.thOpen dev ms b) s = .next (returnCall s 7 [] 0 0)) ∧
      (OpenFits s ms b.toNat → AreasFit s ms b.toNat → ¬ AreasReached s ms b.toNat → exec (.thOpen dev ms b) s = .next (returnCall s 5 [] 0 0)) ∧
      (OpenFits s ms b.toNat → AreasFit s ms b.toNat → AreasReached s ms b.toNat → exec (.thOpen dev ms b) s = .next { s with lib :=
        { devs := tput s.lib.devs dev ⟨ms.map (memberOf s), ((ms.head?.map (memberShape s)).getD (0, false)).1, b.toNat, ms.map (fun m => m.area.toNat), [], 0⟩
          last := ⟨0, [], 0, 0⟩ } }))) ∧
  (∀ (c : CallOpt) (a b : Tensor) (z : Option Tensor) (s : State),
    CallAnswers (exec (.thMatmul c a b z) s) s c 1 ([a, b] ++ z.toList) (matmul (effOpt c) a b z)) ∧
  (∀ (c : CallOpt) (es : List (Tensor × Tensor × Option Tensor)) (s : State),
    CallAnswers (exec (.thBatched c es) s) s c 2 (es.flatMap (fun e => [e.1, e.2.1] ++ e.2.2.toList))
      (joinRes (es.map (fun e => matmul (effOpt c) e.1 e.2.1 e.2.2)))) ∧
  (∀ (c : CallOpt) (x w : Tensor) (g : ConvGeom) (s : State), CallAnswers (exec (.thConv c x w g) s) s c 3 [x, w] (conv (effOpt c) x w g)) ∧
  (∀ (c : CallOpt) (q k v : Tensor) (sc : Option W32) (m : Option Tensor) (s : State),
    CallAnswers (exec (.thAttention c q k v sc m) s) s c 4 ([q, k, v] ++ m.toList) (attention (effOpt c) q k v sc m)) ∧
  (∀ (c : CallOpt) (op : RedOp) (x : Tensor) (ax : Nat) (s : State), CallAnswers (exec (.thReduce c op x ax) s) s c 5 [x] (reduce (effOpt c) op x ax)) ∧
  (∀ (c : CallOpt) (i : Bool) (x : Tensor) (ax : Nat) (s : State), CallAnswers (exec (.thScan c i x ax) s) s c 6 [x] (scan (effOpt c) i x ax)) ∧
  (∀ (c : CallOpt) (fs : List ElemFn) (x : Tensor) (xs : List Tensor) (s : State),
    CallAnswers (exec (.thElementwise c fs x xs) s) s c 7 (x :: xs) (elementwise (effOpt c) fs (x :: xs))) ∧
  (∀ (c : CallOpt) (i : Bool) (x y : Tensor) (s : State), CallAnswers (exec (.thFft c i x y) s) s c 8 [x, y] (fft (effOpt c) i x y)) ∧
  (∀ (c : CallOpt) (x : Tensor) (os : List (List Int)) (ws : List W64) (s : State),
    CallAnswers (exec (.thStencil c x os ws) s) s c 9 [x] (stencil (effOpt c) x os ws)) ∧
  (∀ (c : CallOpt) (x i : Tensor) (s : State), CallAnswers (exec (.thGather c x i) s) s c 10 [x, i] (gather (effOpt c) x i)) ∧
  (∀ (c : CallOpt) (x i y : Tensor) (acc : Bool) (s : State), CallAnswers (exec (.thScatter c x i y acc) s) s c 10 [x, i, y] (scatter (effOpt c) x i y acc)) ∧
  (∀ (c : CallOpt) (x : Tensor) (s : State), CallAnswers (exec (.thConvert c x) s) s c 11 [x] (convert (effOpt c) x)) ∧
  (∀ (c : CallOpt) (op : ExchOp) (xs : List Tensor) (late : Nat) (s : State) (d : Device), tfind s.lib.devs c.dev = some d →
    CallAnswers (exec (.thExchange c op xs late) s)
      { s with lib := { s.lib with devs := tput s.lib.devs c.dev { d with late := d.late + late, pushes := pushesOf d c op } } }
      c 12 xs (exchange d.members.length (effOpt c) op xs)) ∧
  (∀ (c : CallOpt) (op : ExchOp) (xs : List Tensor) (late : Nat) (s : State), tfind s.lib.devs c.dev = none → exec (.thExchange c op xs late) s = .next s)

/-- Log 1: every step keeps the canonical form of HBM: addresses strictly rising, no zero byte listed. So equal contents are equal
data, and a byte of HBM has one value, in every state that a step from a state of this form reaches. -/
def Obligations.HbmFormKept : Prop := ∀ s t : State, HbmWf s → step s = .next t → HbmWf t

/-- Log 1: reset memory has the canonical form. -/
def Obligations.HbmFormAtReset : Prop := HbmWf State.reset

/-- R449, R461, R522: over any number of steps, whatever commands run, MIN_SVN never falls: only SET_MIN_SVN writes it, only upward,
and no reset, power loss or key command lowers it. -/
def Obligations.MinSvnNeverFalls : Prop :=
  ∀ (s t : State) (n : Nat), Reaches s n t → s.sec.minSvn.toNat ≤ t.sec.minSvn.toNat
end

