-- ==== Sys2Proof/Laws/Table.lean ====
section
/-!
SUPPORT. The laws of sparse tables: read after write, and that every operation on byte contents keeps the canonical form.
-/
namespace Sys2Proof.Machine

theorem tget_tput_same {α : Type} (d : α) (t : Tbl α) (k : Nat) (v : α) : tget d (tput t k v) k = v := by
  induction t with
  | nil => simp [tput, tget]
  | cons e r ih =>
    obtain ⟨j, w⟩ := e
    simp only [tput]
    split
    · simp [tget]
    · split
      · simp [tget]
      · next h => simp [tget, h, ih]

theorem tget_tput_ne {α : Type} (d : α) (t : Tbl α) {k j : Nat} (v : α) (h : j ≠ k) : tget d (tput t k v) j = tget d t j := by
  induction t with
  | nil => simp [tput, tget, Ne.symm h]
  | cons e r ih =>
    obtain ⟨i, w⟩ := e
    simp only [tput]
    split
    · simp [tget, Ne.symm h]
    · split
      · next h2 => subst h2; simp [tget, Ne.symm h]
      · simp [tget, ih]

/-- Read after write. -/
theorem tget_tput {α : Type} (d : α) (t : Tbl α) (k j : Nat) (v : α) :
    tget d (tput t k v) j = if j = k then v else tget d t j := by
  split
  · next h => subst h; exact tget_tput_same d t j v
  · next h => exact tget_tput_ne d t v h

theorem tfind_tput_same {α : Type} (t : Tbl α) (k : Nat) (v : α) : tfind (tput t k v) k = some v := by
  induction t with
  | nil => simp [tput, tfind]
  | cons e r ih =>
    obtain ⟨j, w⟩ := e
    simp only [tput]
    split
    · simp [tfind]
    · split
      · simp [tfind]
      · next h => simp [tfind, h, ih]

section
variable {α : Type} [DecidableEq α] {d : α}

theorem twfFrom_weaken {lo : Option Nat} {t : Tbl α} (h : twfFrom d lo t = true) : twfFrom d none t = true := by
  cases t with
  | nil => rfl
  | cons e r => simp only [twfFrom, Bool.and_eq_true] at h ⊢; exact ⟨⟨trivial, h.1.2⟩, h.2⟩

theorem twfFrom_mono {a b : Nat} {t : Tbl α} (hab : a ≤ b) (h : twfFrom d (some b) t = true) : twfFrom d (some a) t = true := by
  cases t with
  | nil => rfl
  | cons e r =>
    simp only [twfFrom, Bool.and_eq_true, decide_eq_true_eq] at h ⊢
    exact ⟨⟨by omega, h.1.2⟩, h.2⟩

/-- No key below the bound of a canonical table is listed. -/
theorem tget_below {lo k : Nat} {t : Tbl α} (h : twfFrom d (some lo) t = true) (hk : k ≤ lo) : tget d t k = d := by
  induction t generalizing lo with
  | nil => rfl
  | cons e r ih =>
    obtain ⟨j, v⟩ := e
    simp only [twfFrom, Bool.and_eq_true, decide_eq_true_eq] at h
    have hj : j ≠ k := by omega
    simp only [tget, hj, if_false]
    exact ih h.2 (by omega)

omit [DecidableEq α] in
theorem tget_tdel_same (t : Tbl α) (k : Nat) : tget d (tdel t k) k = d := by
  induction t with
  | nil => rfl
  | cons e r ih =>
    obtain ⟨j, v⟩ := e
    simp only [tdel]
    split
    · exact ih
    · next hj => simp only [tget, hj, if_false]; exact ih

omit [DecidableEq α] in
theorem tget_tdel_ne {t : Tbl α} {k j : Nat} (h : j ≠ k) : tget d (tdel t k) j = tget d t j := by
  induction t with
  | nil => rfl
  | cons e r ih =>
    obtain ⟨i, v⟩ := e
    simp only [tdel]
    split
    · next hi => subst hi; simp only [tget, Ne.symm h, if_false]; exact ih
    · simp [tget, ih]

/-- Read after a canonical write. -/
theorem tget_tset (t : Tbl α) (k j : Nat) (v : α) :
    tget d (tset d t k v) j = if j = k then v else tget d t j := by
  unfold tset
  split
  · next hv =>
    subst hv
    split
    · next hj => subst hj; exact tget_tdel_same t j
    · next hj => exact tget_tdel_ne hj
  · exact tget_tput d t k j v

theorem twfFrom_tdel {lo : Option Nat} {t : Tbl α} (h : twfFrom d lo t = true) (k : Nat) : twfFrom d lo (tdel t k) = true := by
  induction t generalizing lo with
  | nil => rfl
  | cons e r ih =>
    obtain ⟨j, v⟩ := e
    simp only [twfFrom, Bool.and_eq_true] at h
    simp only [tdel]
    split
    · have := ih h.2
      cases lo with
      | none => exact twfFrom_weaken this
      | some l =>
        simp only [decide_eq_true_eq] at h
        exact twfFrom_mono (by omega) this
    · simp only [twfFrom, Bool.and_eq_true]
      exact ⟨h.1, ih h.2⟩

theorem twfFrom_tput_some {l : Nat} {t : Tbl α} (h : twfFrom d (some l) t = true) {k : Nat} {v : α} (hv : v ≠ d) (hk : l < k) :
    twfFrom d (some l) (tput t k v) = true := by
  induction t generalizing l with
  | nil => simp [tput, twfFrom, hv, hk]
  | cons e r ih =>
    obtain ⟨j, w⟩ := e
    simp only [twfFrom, Bool.and_eq_true, decide_eq_true_eq] at h
    simp only [tput]
    split
    · next hkj => simp [twfFrom, h.1.2, h.2, hv, hkj, hk]
    · split
      · next hjk => subst hjk; simp [twfFrom, h.2, hv, hk]
      · next h1 h2 =>
        simp only [twfFrom, Bool.and_eq_true, decide_eq_true_eq]
        exact ⟨h.1, ih h.2 (by omega)⟩

theorem twfFrom_tput {t : Tbl α} (h : twfFrom d none t = true) {k : Nat} {v : α} (hv : v ≠ d) :
    twfFrom d none (tput t k v) = true := by
  cases t with
  | nil => simp [tput, twfFrom, hv]
  | cons e r =>
    obtain ⟨j, w⟩ := e
    simp only [twfFrom, Bool.and_eq_true, decide_eq_true_eq] at h
    simp only [tput]
    split
    · next hkj => simp [twfFrom, h.1.2, h.2, hv, hkj]
    · split
      · next hjk => subst hjk; simp [twfFrom, h.2, hv]
      · next h1 h2 =>
        simp only [twfFrom, Bool.and_eq_true, decide_eq_true_eq]
        exact ⟨h.1, twfFrom_tput_some h.2 hv (by omega)⟩

theorem twfFrom_tset {t : Tbl α} (h : twfFrom d none t = true) (k : Nat) (v : α) : twfFrom d none (tset d t k v) = true := by
  unfold tset
  split
  · exact twfFrom_tdel h k
  · next hv => exact twfFrom_tput h hv

theorem twfFrom_filter {lo : Option Nat} {t : Tbl α} (h : twfFrom d lo t = true) (p : Nat × α → Bool) :
    twfFrom d lo (t.filter p) = true := by
  induction t generalizing lo with
  | nil => rfl
  | cons e r ih =>
    obtain ⟨j, v⟩ := e
    simp only [twfFrom, Bool.and_eq_true] at h
    simp only [List.filter]
    split
    · simp only [twfFrom, Bool.and_eq_true]; exact ⟨h.1, ih h.2⟩
    · have := ih h.2
      cases lo with
      | none => exact twfFrom_weaken this
      | some l =>
        simp only [decide_eq_true_eq] at h
        exact twfFrom_mono (by omega) this

end

/-- A byte store keeps the canonical form. -/
theorem wf_mset {m : Memory} (h : Memory.wf m = true) (a : Nat) (b : Byte) : Memory.wf (mset m a b) = true := twfFrom_tset h a b

theorem mget_mset (m : Memory) (a c : Nat) (b : Byte) : mget (mset m a b) c = if c = a then b else mget m c :=
  tget_tset m a c b

/-- A store of several bytes keeps the canonical form. -/
theorem wf_mwrite {m : Memory} (h : Memory.wf m = true) (a n v : Nat) : Memory.wf (mwrite m a n v) = true := by
  induction n generalizing m a v with
  | zero => exact h
  | succ n ih => exact ih (wf_mset h _ _) _ _

theorem wf_mwriteBytes {m : Memory} (h : Memory.wf m = true) (a : Nat) (l : List Byte) : Memory.wf (mwriteBytes m a l) = true := by
  induction l generalizing m a with
  | nil => exact h
  | cons b r ih => exact ih (wf_mset h _ _) _

theorem wf_mclear {m : Memory} (h : Memory.wf m = true) (lo hi : Nat) : Memory.wf (mclear m lo hi) = true := twfFrom_filter h _

/-- A store of `n` bytes leaves every other byte. -/
theorem mget_mwrite_of_out {m : Memory} {a n v c : Nat} (hc : c < a ∨ a + n ≤ c) :
    mget (mwrite m a n v) c = mget m c := by
  induction n generalizing m a v with
  | zero => rfl
  | succ n ih =>
    simp only [mwrite]
    rw [ih (by omega), mget_mset]
    have : c ≠ a := by omega
    simp [this]

/-- The bytes of a store read back. -/
theorem mget_mwrite_of_in {m : Memory} {a n v i : Nat} (hi : i < n) :
    mget (mwrite m a n v) (a + i) = BitVec.ofNat 8 (v / 256 ^ i) := by
  induction n generalizing m a v i with
  | zero => omega
  | succ n ih =>
    simp only [mwrite]
    cases i with
    | zero => rw [mget_mwrite_of_out (by omega), mget_mset]; simp
    | succ i =>
      rw [show a + (i + 1) = a + 1 + i by omega, ih (by omega), Nat.div_div_eq_div_mul, Nat.pow_succ']

end Sys2Proof.Machine
end

