-- ==== Sys2Proof/Laws/State.lean ====
section
/-!
SUPPORT. One lemma per field per update of State: what each accessor of `Access.lean` leaves as it was, and the read after a write.
-/
namespace Sys2Proof.Machine
namespace State
variable (s : State)

@[simp] theorem setCore_mem (k : Nat) (x : Core) : (s.setCore k x).mem = s.mem := rfl
@[simp] theorem setCore_fab (k : Nat) (x : Core) : (s.setCore k x).fab = s.fab := rfl
@[simp] theorem setCore_bcn (k : Nat) (x : Core) : (s.setCore k x).bcn = s.bcn := rfl
@[simp] theorem setCore_stamps (k : Nat) (x : Core) : (s.setCore k x).stamps = s.stamps := rfl
@[simp] theorem setCore_parts (k : Nat) (x : Core) : (s.setCore k x).parts = s.parts := rfl
@[simp] theorem setCore_ctxs (k : Nat) (x : Core) : (s.setCore k x).ctxs = s.ctxs := rfl
@[simp] theorem setCore_bindings (k : Nat) (x : Core) : (s.setCore k x).bindings = s.bindings := rfl
@[simp] theorem setCore_partStatus (k : Nat) (x : Core) : (s.setCore k x).partStatus = s.partStatus := rfl
@[simp] theorem setCore_host (k : Nat) (x : Core) : (s.setCore k x).host = s.host := rfl
@[simp] theorem setCore_kedal (k : Nat) (x : Core) : (s.setCore k x).kedal = s.kedal := rfl
@[simp] theorem setCore_sec (k : Nat) (x : Core) : (s.setCore k x).sec = s.sec := rfl
@[simp] theorem setCore_rel (k : Nat) (x : Core) : (s.setCore k x).rel = s.rel := rfl
@[simp] theorem setCore_dbg (k : Nat) (x : Core) : (s.setCore k x).dbg = s.dbg := rfl
@[simp] theorem setCore_pwr (k : Nat) (x : Core) : (s.setCore k x).pwr = s.pwr := rfl
@[simp] theorem setCore_lib (k : Nat) (x : Core) : (s.setCore k x).lib = s.lib := rfl
@[simp] theorem setCore_freeCtr (k : Nat) (x : Core) : (s.setCore k x).freeCtr = s.freeCtr := rfl
@[simp] theorem setCore_pending (k : Nat) (x : Core) : (s.setCore k x).pending = s.pending := rfl
@[simp] theorem updCore_mem (k : Nat) (f : Core → Core) : (s.updCore k f).mem = s.mem := rfl
@[simp] theorem updCore_fab (k : Nat) (f : Core → Core) : (s.updCore k f).fab = s.fab := rfl
@[simp] theorem updCore_bcn (k : Nat) (f : Core → Core) : (s.updCore k f).bcn = s.bcn := rfl
@[simp] theorem updCore_stamps (k : Nat) (f : Core → Core) : (s.updCore k f).stamps = s.stamps := rfl
@[simp] theorem updCore_parts (k : Nat) (f : Core → Core) : (s.updCore k f).parts = s.parts := rfl
@[simp] theorem updCore_ctxs (k : Nat) (f : Core → Core) : (s.updCore k f).ctxs = s.ctxs := rfl
@[simp] theorem updCore_bindings (k : Nat) (f : Core → Core) : (s.updCore k f).bindings = s.bindings := rfl
@[simp] theorem updCore_partStatus (k : Nat) (f : Core → Core) : (s.updCore k f).partStatus = s.partStatus := rfl
@[simp] theorem updCore_host (k : Nat) (f : Core → Core) : (s.updCore k f).host = s.host := rfl
@[simp] theorem updCore_kedal (k : Nat) (f : Core → Core) : (s.updCore k f).kedal = s.kedal := rfl
@[simp] theorem updCore_sec (k : Nat) (f : Core → Core) : (s.updCore k f).sec = s.sec := rfl
@[simp] theorem updCore_rel (k : Nat) (f : Core → Core) : (s.updCore k f).rel = s.rel := rfl
@[simp] theorem updCore_dbg (k : Nat) (f : Core → Core) : (s.updCore k f).dbg = s.dbg := rfl
@[simp] theorem updCore_pwr (k : Nat) (f : Core → Core) : (s.updCore k f).pwr = s.pwr := rfl
@[simp] theorem updCore_lib (k : Nat) (f : Core → Core) : (s.updCore k f).lib = s.lib := rfl
@[simp] theorem updCore_freeCtr (k : Nat) (f : Core → Core) : (s.updCore k f).freeCtr = s.freeCtr := rfl
@[simp] theorem updCore_pending (k : Nat) (f : Core → Core) : (s.updCore k f).pending = s.pending := rfl
@[simp] theorem setCluster_cores (k : Nat) (x : Cluster) : (s.setCluster k x).cores = s.cores := rfl
@[simp] theorem setCluster_fab (k : Nat) (x : Cluster) : (s.setCluster k x).fab = s.fab := rfl
@[simp] theorem setCluster_bcn (k : Nat) (x : Cluster) : (s.setCluster k x).bcn = s.bcn := rfl
@[simp] theorem setCluster_stamps (k : Nat) (x : Cluster) : (s.setCluster k x).stamps = s.stamps := rfl
@[simp] theorem setCluster_parts (k : Nat) (x : Cluster) : (s.setCluster k x).parts = s.parts := rfl
@[simp] theorem setCluster_ctxs (k : Nat) (x : Cluster) : (s.setCluster k x).ctxs = s.ctxs := rfl
@[simp] theorem setCluster_bindings (k : Nat) (x : Cluster) : (s.setCluster k x).bindings = s.bindings := rfl
@[simp] theorem setCluster_partStatus (k : Nat) (x : Cluster) : (s.setCluster k x).partStatus = s.partStatus := rfl
@[simp] theorem setCluster_host (k : Nat) (x : Cluster) : (s.setCluster k x).host = s.host := rfl
@[simp] theorem setCluster_kedal (k : Nat) (x : Cluster) : (s.setCluster k x).kedal = s.kedal := rfl
@[simp] theorem setCluster_sec (k : Nat) (x : Cluster) : (s.setCluster k x).sec = s.sec := rfl
@[simp] theorem setCluster_rel (k : Nat) (x : Cluster) : (s.setCluster k x).rel = s.rel := rfl
@[simp] theorem setCluster_dbg (k : Nat) (x : Cluster) : (s.setCluster k x).dbg = s.dbg := rfl
@[simp] theorem setCluster_pwr (k : Nat) (x : Cluster) : (s.setCluster k x).pwr = s.pwr := rfl
@[simp] theorem setCluster_lib (k : Nat) (x : Cluster) : (s.setCluster k x).lib = s.lib := rfl
@[simp] theorem setCluster_freeCtr (k : Nat) (x : Cluster) : (s.setCluster k x).freeCtr = s.freeCtr := rfl
@[simp] theorem setCluster_pending (k : Nat) (x : Cluster) : (s.setCluster k x).pending = s.pending := rfl
@[simp] theorem setHome_cores (k : Nat) (x : Home) : (s.setHome k x).cores = s.cores := rfl
@[simp] theorem setHome_fab (k : Nat) (x : Home) : (s.setHome k x).fab = s.fab := rfl
@[simp] theorem setHome_bcn (k : Nat) (x : Home) : (s.setHome k x).bcn = s.bcn := rfl
@[simp] theorem setHome_stamps (k : Nat) (x : Home) : (s.setHome k x).stamps = s.stamps := rfl
@[simp] theorem setHome_parts (k : Nat) (x : Home) : (s.setHome k x).parts = s.parts := rfl
@[simp] theorem setHome_ctxs (k : Nat) (x : Home) : (s.setHome k x).ctxs = s.ctxs := rfl
@[simp] theorem setHome_bindings (k : Nat) (x : Home) : (s.setHome k x).bindings = s.bindings := rfl
@[simp] theorem setHome_partStatus (k : Nat) (x : Home) : (s.setHome k x).partStatus = s.partStatus := rfl
@[simp] theorem setHome_host (k : Nat) (x : Home) : (s.setHome k x).host = s.host := rfl
@[simp] theorem setHome_kedal (k : Nat) (x : Home) : (s.setHome k x).kedal = s.kedal := rfl
@[simp] theorem setHome_sec (k : Nat) (x : Home) : (s.setHome k x).sec = s.sec := rfl
@[simp] theorem setHome_rel (k : Nat) (x : Home) : (s.setHome k x).rel = s.rel := rfl
@[simp] theorem setHome_dbg (k : Nat) (x : Home) : (s.setHome k x).dbg = s.dbg := rfl
@[simp] theorem setHome_pwr (k : Nat) (x : Home) : (s.setHome k x).pwr = s.pwr := rfl
@[simp] theorem setHome_lib (k : Nat) (x : Home) : (s.setHome k x).lib = s.lib := rfl
@[simp] theorem setHome_freeCtr (k : Nat) (x : Home) : (s.setHome k x).freeCtr = s.freeCtr := rfl
@[simp] theorem setHome_pending (k : Nat) (x : Home) : (s.setHome k x).pending = s.pending := rfl
@[simp] theorem setPort_cores (k : Nat) (x : Port) : (s.setPort k x).cores = s.cores := rfl
@[simp] theorem setPort_mem (k : Nat) (x : Port) : (s.setPort k x).mem = s.mem := rfl
@[simp] theorem setPort_bcn (k : Nat) (x : Port) : (s.setPort k x).bcn = s.bcn := rfl
@[simp] theorem setPort_stamps (k : Nat) (x : Port) : (s.setPort k x).stamps = s.stamps := rfl
@[simp] theorem setPort_parts (k : Nat) (x : Port) : (s.setPort k x).parts = s.parts := rfl
@[simp] theorem setPort_ctxs (k : Nat) (x : Port) : (s.setPort k x).ctxs = s.ctxs := rfl
@[simp] theorem setPort_bindings (k : Nat) (x : Port) : (s.setPort k x).bindings = s.bindings := rfl
@[simp] theorem setPort_partStatus (k : Nat) (x : Port) : (s.setPort k x).partStatus = s.partStatus := rfl
@[simp] theorem setPort_host (k : Nat) (x : Port) : (s.setPort k x).host = s.host := rfl
@[simp] theorem setPort_kedal (k : Nat) (x : Port) : (s.setPort k x).kedal = s.kedal := rfl
@[simp] theorem setPort_sec (k : Nat) (x : Port) : (s.setPort k x).sec = s.sec := rfl
@[simp] theorem setPort_rel (k : Nat) (x : Port) : (s.setPort k x).rel = s.rel := rfl
@[simp] theorem setPort_dbg (k : Nat) (x : Port) : (s.setPort k x).dbg = s.dbg := rfl
@[simp] theorem setPort_pwr (k : Nat) (x : Port) : (s.setPort k x).pwr = s.pwr := rfl
@[simp] theorem setPort_lib (k : Nat) (x : Port) : (s.setPort k x).lib = s.lib := rfl
@[simp] theorem setPort_freeCtr (k : Nat) (x : Port) : (s.setPort k x).freeCtr = s.freeCtr := rfl
@[simp] theorem setPort_pending (k : Nat) (x : Port) : (s.setPort k x).pending = s.pending := rfl
@[simp] theorem setPart_cores (k : Nat) (x : Partition) : (s.setPart k x).cores = s.cores := rfl
@[simp] theorem setPart_mem (k : Nat) (x : Partition) : (s.setPart k x).mem = s.mem := rfl
@[simp] theorem setPart_fab (k : Nat) (x : Partition) : (s.setPart k x).fab = s.fab := rfl
@[simp] theorem setPart_bcn (k : Nat) (x : Partition) : (s.setPart k x).bcn = s.bcn := rfl
@[simp] theorem setPart_stamps (k : Nat) (x : Partition) : (s.setPart k x).stamps = s.stamps := rfl
@[simp] theorem setPart_ctxs (k : Nat) (x : Partition) : (s.setPart k x).ctxs = s.ctxs := rfl
@[simp] theorem setPart_bindings (k : Nat) (x : Partition) : (s.setPart k x).bindings = s.bindings := rfl
@[simp] theorem setPart_partStatus (k : Nat) (x : Partition) : (s.setPart k x).partStatus = s.partStatus := rfl
@[simp] theorem setPart_host (k : Nat) (x : Partition) : (s.setPart k x).host = s.host := rfl
@[simp] theorem setPart_kedal (k : Nat) (x : Partition) : (s.setPart k x).kedal = s.kedal := rfl
@[simp] theorem setPart_sec (k : Nat) (x : Partition) : (s.setPart k x).sec = s.sec := rfl
@[simp] theorem setPart_rel (k : Nat) (x : Partition) : (s.setPart k x).rel = s.rel := rfl
@[simp] theorem setPart_dbg (k : Nat) (x : Partition) : (s.setPart k x).dbg = s.dbg := rfl
@[simp] theorem setPart_pwr (k : Nat) (x : Partition) : (s.setPart k x).pwr = s.pwr := rfl
@[simp] theorem setPart_lib (k : Nat) (x : Partition) : (s.setPart k x).lib = s.lib := rfl
@[simp] theorem setPart_freeCtr (k : Nat) (x : Partition) : (s.setPart k x).freeCtr = s.freeCtr := rfl
@[simp] theorem setPart_pending (k : Nat) (x : Partition) : (s.setPart k x).pending = s.pending := rfl
@[simp] theorem setCtx_cores (k : Nat) (x : Ctx) : (s.setCtx k x).cores = s.cores := rfl
@[simp] theorem setCtx_mem (k : Nat) (x : Ctx) : (s.setCtx k x).mem = s.mem := rfl
@[simp] theorem setCtx_fab (k : Nat) (x : Ctx) : (s.setCtx k x).fab = s.fab := rfl
@[simp] theorem setCtx_bcn (k : Nat) (x : Ctx) : (s.setCtx k x).bcn = s.bcn := rfl
@[simp] theorem setCtx_stamps (k : Nat) (x : Ctx) : (s.setCtx k x).stamps = s.stamps := rfl
@[simp] theorem setCtx_parts (k : Nat) (x : Ctx) : (s.setCtx k x).parts = s.parts := rfl
@[simp] theorem setCtx_bindings (k : Nat) (x : Ctx) : (s.setCtx k x).bindings = s.bindings := rfl
@[simp] theorem setCtx_partStatus (k : Nat) (x : Ctx) : (s.setCtx k x).partStatus = s.partStatus := rfl
@[simp] theorem setCtx_host (k : Nat) (x : Ctx) : (s.setCtx k x).host = s.host := rfl
@[simp] theorem setCtx_kedal (k : Nat) (x : Ctx) : (s.setCtx k x).kedal = s.kedal := rfl
@[simp] theorem setCtx_sec (k : Nat) (x : Ctx) : (s.setCtx k x).sec = s.sec := rfl
@[simp] theorem setCtx_rel (k : Nat) (x : Ctx) : (s.setCtx k x).rel = s.rel := rfl
@[simp] theorem setCtx_dbg (k : Nat) (x : Ctx) : (s.setCtx k x).dbg = s.dbg := rfl
@[simp] theorem setCtx_pwr (k : Nat) (x : Ctx) : (s.setCtx k x).pwr = s.pwr := rfl
@[simp] theorem setCtx_lib (k : Nat) (x : Ctx) : (s.setCtx k x).lib = s.lib := rfl
@[simp] theorem setCtx_freeCtr (k : Nat) (x : Ctx) : (s.setCtx k x).freeCtr = s.freeCtr := rfl
@[simp] theorem setCtx_pending (k : Nat) (x : Ctx) : (s.setCtx k x).pending = s.pending := rfl
@[simp] theorem setFn_cores (k : Nat) (x : HostFn) : (s.setFn k x).cores = s.cores := rfl
@[simp] theorem setFn_mem (k : Nat) (x : HostFn) : (s.setFn k x).mem = s.mem := rfl
@[simp] theorem setFn_fab (k : Nat) (x : HostFn) : (s.setFn k x).fab = s.fab := rfl
@[simp] theorem setFn_bcn (k : Nat) (x : HostFn) : (s.setFn k x).bcn = s.bcn := rfl
@[simp] theorem setFn_stamps (k : Nat) (x : HostFn) : (s.setFn k x).stamps = s.stamps := rfl
@[simp] theorem setFn_parts (k : Nat) (x : HostFn) : (s.setFn k x).parts = s.parts := rfl
@[simp] theorem setFn_ctxs (k : Nat) (x : HostFn) : (s.setFn k x).ctxs = s.ctxs := rfl
@[simp] theorem setFn_bindings (k : Nat) (x : HostFn) : (s.setFn k x).bindings = s.bindings := rfl
@[simp] theorem setFn_partStatus (k : Nat) (x : HostFn) : (s.setFn k x).partStatus = s.partStatus := rfl
@[simp] theorem setFn_kedal (k : Nat) (x : HostFn) : (s.setFn k x).kedal = s.kedal := rfl
@[simp] theorem setFn_sec (k : Nat) (x : HostFn) : (s.setFn k x).sec = s.sec := rfl
@[simp] theorem setFn_rel (k : Nat) (x : HostFn) : (s.setFn k x).rel = s.rel := rfl
@[simp] theorem setFn_dbg (k : Nat) (x : HostFn) : (s.setFn k x).dbg = s.dbg := rfl
@[simp] theorem setFn_pwr (k : Nat) (x : HostFn) : (s.setFn k x).pwr = s.pwr := rfl
@[simp] theorem setFn_lib (k : Nat) (x : HostFn) : (s.setFn k x).lib = s.lib := rfl
@[simp] theorem setFn_freeCtr (k : Nat) (x : HostFn) : (s.setFn k x).freeCtr = s.freeCtr := rfl
@[simp] theorem setFn_pending (k : Nat) (x : HostFn) : (s.setFn k x).pending = s.pending := rfl
@[simp] theorem setBuf_cores (k : Nat) (x : TraceBuf) : (s.setBuf k x).cores = s.cores := rfl
@[simp] theorem setBuf_mem (k : Nat) (x : TraceBuf) : (s.setBuf k x).mem = s.mem := rfl
@[simp] theorem setBuf_fab (k : Nat) (x : TraceBuf) : (s.setBuf k x).fab = s.fab := rfl
@[simp] theorem setBuf_bcn (k : Nat) (x : TraceBuf) : (s.setBuf k x).bcn = s.bcn := rfl
@[simp] theorem setBuf_stamps (k : Nat) (x : TraceBuf) : (s.setBuf k x).stamps = s.stamps := rfl
@[simp] theorem setBuf_parts (k : Nat) (x : TraceBuf) : (s.setBuf k x).parts = s.parts := rfl
@[simp] theorem setBuf_ctxs (k : Nat) (x : TraceBuf) : (s.setBuf k x).ctxs = s.ctxs := rfl
@[simp] theorem setBuf_bindings (k : Nat) (x : TraceBuf) : (s.setBuf k x).bindings = s.bindings := rfl
@[simp] theorem setBuf_partStatus (k : Nat) (x : TraceBuf) : (s.setBuf k x).partStatus = s.partStatus := rfl
@[simp] theorem setBuf_host (k : Nat) (x : TraceBuf) : (s.setBuf k x).host = s.host := rfl
@[simp] theorem setBuf_kedal (k : Nat) (x : TraceBuf) : (s.setBuf k x).kedal = s.kedal := rfl
@[simp] theorem setBuf_sec (k : Nat) (x : TraceBuf) : (s.setBuf k x).sec = s.sec := rfl
@[simp] theorem setBuf_rel (k : Nat) (x : TraceBuf) : (s.setBuf k x).rel = s.rel := rfl
@[simp] theorem setBuf_pwr (k : Nat) (x : TraceBuf) : (s.setBuf k x).pwr = s.pwr := rfl
@[simp] theorem setBuf_lib (k : Nat) (x : TraceBuf) : (s.setBuf k x).lib = s.lib := rfl
@[simp] theorem setBuf_freeCtr (k : Nat) (x : TraceBuf) : (s.setBuf k x).freeCtr = s.freeCtr := rfl
@[simp] theorem setBuf_pending (k : Nat) (x : TraceBuf) : (s.setBuf k x).pending = s.pending := rfl
@[simp] theorem setBudget_cores (k : Nat) (x : Budget) : (s.setBudget k x).cores = s.cores := rfl
@[simp] theorem setBudget_mem (k : Nat) (x : Budget) : (s.setBudget k x).mem = s.mem := rfl
@[simp] theorem setBudget_fab (k : Nat) (x : Budget) : (s.setBudget k x).fab = s.fab := rfl
@[simp] theorem setBudget_bcn (k : Nat) (x : Budget) : (s.setBudget k x).bcn = s.bcn := rfl
@[simp] theorem setBudget_stamps (k : Nat) (x : Budget) : (s.setBudget k x).stamps = s.stamps := rfl
@[simp] theorem setBudget_parts (k : Nat) (x : Budget) : (s.setBudget k x).parts = s.parts := rfl
@[simp] theorem setBudget_ctxs (k : Nat) (x : Budget) : (s.setBudget k x).ctxs = s.ctxs := rfl
@[simp] theorem setBudget_bindings (k : Nat) (x : Budget) : (s.setBudget k x).bindings = s.bindings := rfl
@[simp] theorem setBudget_partStatus (k : Nat) (x : Budget) : (s.setBudget k x).partStatus = s.partStatus := rfl
@[simp] theorem setBudget_host (k : Nat) (x : Budget) : (s.setBudget k x).host = s.host := rfl
@[simp] theorem setBudget_kedal (k : Nat) (x : Budget) : (s.setBudget k x).kedal = s.kedal := rfl
@[simp] theorem setBudget_sec (k : Nat) (x : Budget) : (s.setBudget k x).sec = s.sec := rfl
@[simp] theorem setBudget_rel (k : Nat) (x : Budget) : (s.setBudget k x).rel = s.rel := rfl
@[simp] theorem setBudget_dbg (k : Nat) (x : Budget) : (s.setBudget k x).dbg = s.dbg := rfl
@[simp] theorem setBudget_lib (k : Nat) (x : Budget) : (s.setBudget k x).lib = s.lib := rfl
@[simp] theorem setBudget_freeCtr (k : Nat) (x : Budget) : (s.setBudget k x).freeCtr = s.freeCtr := rfl
@[simp] theorem setBudget_pending (k : Nat) (x : Budget) : (s.setBudget k x).pending = s.pending := rfl
@[simp] theorem working_cores (k : Nat) : (s.working k).cores = s.cores := rfl
@[simp] theorem working_mem (k : Nat) : (s.working k).mem = s.mem := rfl
@[simp] theorem working_fab (k : Nat) : (s.working k).fab = s.fab := rfl
@[simp] theorem working_bcn (k : Nat) : (s.working k).bcn = s.bcn := rfl
@[simp] theorem working_stamps (k : Nat) : (s.working k).stamps = s.stamps := rfl
@[simp] theorem working_parts (k : Nat) : (s.working k).parts = s.parts := rfl
@[simp] theorem working_ctxs (k : Nat) : (s.working k).ctxs = s.ctxs := rfl
@[simp] theorem working_bindings (k : Nat) : (s.working k).bindings = s.bindings := rfl
@[simp] theorem working_partStatus (k : Nat) : (s.working k).partStatus = s.partStatus := rfl
@[simp] theorem working_host (k : Nat) : (s.working k).host = s.host := rfl
@[simp] theorem working_kedal (k : Nat) : (s.working k).kedal = s.kedal := rfl
@[simp] theorem working_sec (k : Nat) : (s.working k).sec = s.sec := rfl
@[simp] theorem working_rel (k : Nat) : (s.working k).rel = s.rel := rfl
@[simp] theorem working_dbg (k : Nat) : (s.working k).dbg = s.dbg := rfl
@[simp] theorem working_lib (k : Nat) : (s.working k).lib = s.lib := rfl
@[simp] theorem working_freeCtr (k : Nat) : (s.working k).freeCtr = s.freeCtr := rfl
@[simp] theorem working_pending (k : Nat) : (s.working k).pending = s.pending := rfl
@[simp] theorem setKeySlot_cores (k : Nat) (x : KeySlot) : (s.setKeySlot k x).cores = s.cores := rfl
@[simp] theorem setKeySlot_mem (k : Nat) (x : KeySlot) : (s.setKeySlot k x).mem = s.mem := rfl
@[simp] theorem setKeySlot_fab (k : Nat) (x : KeySlot) : (s.setKeySlot k x).fab = s.fab := rfl
@[simp] theorem setKeySlot_bcn (k : Nat) (x : KeySlot) : (s.setKeySlot k x).bcn = s.bcn := rfl
@[simp] theorem setKeySlot_stamps (k : Nat) (x : KeySlot) : (s.setKeySlot k x).stamps = s.stamps := rfl
@[simp] theorem setKeySlot_parts (k : Nat) (x : KeySlot) : (s.setKeySlot k x).parts = s.parts := rfl
@[simp] theorem setKeySlot_ctxs (k : Nat) (x : KeySlot) : (s.setKeySlot k x).ctxs = s.ctxs := rfl
@[simp] theorem setKeySlot_bindings (k : Nat) (x : KeySlot) : (s.setKeySlot k x).bindings = s.bindings := rfl
@[simp] theorem setKeySlot_partStatus (k : Nat) (x : KeySlot) : (s.setKeySlot k x).partStatus = s.partStatus := rfl
@[simp] theorem setKeySlot_host (k : Nat) (x : KeySlot) : (s.setKeySlot k x).host = s.host := rfl
@[simp] theorem setKeySlot_kedal (k : Nat) (x : KeySlot) : (s.setKeySlot k x).kedal = s.kedal := rfl
@[simp] theorem setKeySlot_rel (k : Nat) (x : KeySlot) : (s.setKeySlot k x).rel = s.rel := rfl
@[simp] theorem setKeySlot_dbg (k : Nat) (x : KeySlot) : (s.setKeySlot k x).dbg = s.dbg := rfl
@[simp] theorem setKeySlot_pwr (k : Nat) (x : KeySlot) : (s.setKeySlot k x).pwr = s.pwr := rfl
@[simp] theorem setKeySlot_lib (k : Nat) (x : KeySlot) : (s.setKeySlot k x).lib = s.lib := rfl
@[simp] theorem setKeySlot_freeCtr (k : Nat) (x : KeySlot) : (s.setKeySlot k x).freeCtr = s.freeCtr := rfl
@[simp] theorem setKeySlot_pending (k : Nat) (x : KeySlot) : (s.setKeySlot k x).pending = s.pending := rfl
@[simp] theorem setBank_cores (k : Nat) (x : Bank) : (s.setBank k x).cores = s.cores := rfl
@[simp] theorem setBank_mem (k : Nat) (x : Bank) : (s.setBank k x).mem = s.mem := rfl
@[simp] theorem setBank_fab (k : Nat) (x : Bank) : (s.setBank k x).fab = s.fab := rfl
@[simp] theorem setBank_bcn (k : Nat) (x : Bank) : (s.setBank k x).bcn = s.bcn := rfl
@[simp] theorem setBank_stamps (k : Nat) (x : Bank) : (s.setBank k x).stamps = s.stamps := rfl
@[simp] theorem setBank_parts (k : Nat) (x : Bank) : (s.setBank k x).parts = s.parts := rfl
@[simp] theorem setBank_ctxs (k : Nat) (x : Bank) : (s.setBank k x).ctxs = s.ctxs := rfl
@[simp] theorem setBank_bindings (k : Nat) (x : Bank) : (s.setBank k x).bindings = s.bindings := rfl
@[simp] theorem setBank_partStatus (k : Nat) (x : Bank) : (s.setBank k x).partStatus = s.partStatus := rfl
@[simp] theorem setBank_host (k : Nat) (x : Bank) : (s.setBank k x).host = s.host := rfl
@[simp] theorem setBank_kedal (k : Nat) (x : Bank) : (s.setBank k x).kedal = s.kedal := rfl
@[simp] theorem setBank_rel (k : Nat) (x : Bank) : (s.setBank k x).rel = s.rel := rfl
@[simp] theorem setBank_dbg (k : Nat) (x : Bank) : (s.setBank k x).dbg = s.dbg := rfl
@[simp] theorem setBank_pwr (k : Nat) (x : Bank) : (s.setBank k x).pwr = s.pwr := rfl
@[simp] theorem setBank_lib (k : Nat) (x : Bank) : (s.setBank k x).lib = s.lib := rfl
@[simp] theorem setBank_freeCtr (k : Nat) (x : Bank) : (s.setBank k x).freeCtr = s.freeCtr := rfl
@[simp] theorem setBank_pending (k : Nat) (x : Bank) : (s.setBank k x).pending = s.pending := rfl
@[simp] theorem setKslot_cores (k : Nat) (x : KSlot) : (s.setKslot k x).cores = s.cores := rfl
@[simp] theorem setKslot_mem (k : Nat) (x : KSlot) : (s.setKslot k x).mem = s.mem := rfl
@[simp] theorem setKslot_fab (k : Nat) (x : KSlot) : (s.setKslot k x).fab = s.fab := rfl
@[simp] theorem setKslot_bcn (k : Nat) (x : KSlot) : (s.setKslot k x).bcn = s.bcn := rfl
@[simp] theorem setKslot_stamps (k : Nat) (x : KSlot) : (s.setKslot k x).stamps = s.stamps := rfl
@[simp] theorem setKslot_parts (k : Nat) (x : KSlot) : (s.setKslot k x).parts = s.parts := rfl
@[simp] theorem setKslot_ctxs (k : Nat) (x : KSlot) : (s.setKslot k x).ctxs = s.ctxs := rfl
@[simp] theorem setKslot_bindings (k : Nat) (x : KSlot) : (s.setKslot k x).bindings = s.bindings := rfl
@[simp] theorem setKslot_partStatus (k : Nat) (x : KSlot) : (s.setKslot k x).partStatus = s.partStatus := rfl
@[simp] theorem setKslot_host (k : Nat) (x : KSlot) : (s.setKslot k x).host = s.host := rfl
@[simp] theorem setKslot_sec (k : Nat) (x : KSlot) : (s.setKslot k x).sec = s.sec := rfl
@[simp] theorem setKslot_rel (k : Nat) (x : KSlot) : (s.setKslot k x).rel = s.rel := rfl
@[simp] theorem setKslot_dbg (k : Nat) (x : KSlot) : (s.setKslot k x).dbg = s.dbg := rfl
@[simp] theorem setKslot_pwr (k : Nat) (x : KSlot) : (s.setKslot k x).pwr = s.pwr := rfl
@[simp] theorem setKslot_lib (k : Nat) (x : KSlot) : (s.setKslot k x).lib = s.lib := rfl
@[simp] theorem setKslot_freeCtr (k : Nat) (x : KSlot) : (s.setKslot k x).freeCtr = s.freeCtr := rfl
@[simp] theorem setKslot_pending (k : Nat) (x : KSlot) : (s.setKslot k x).pending = s.pending := rfl
@[simp] theorem setDomain_cores (k : Nat) (x : W32) : (s.setDomain k x).cores = s.cores := rfl
@[simp] theorem setDomain_fab (k : Nat) (x : W32) : (s.setDomain k x).fab = s.fab := rfl
@[simp] theorem setDomain_bcn (k : Nat) (x : W32) : (s.setDomain k x).bcn = s.bcn := rfl
@[simp] theorem setDomain_stamps (k : Nat) (x : W32) : (s.setDomain k x).stamps = s.stamps := rfl
@[simp] theorem setDomain_parts (k : Nat) (x : W32) : (s.setDomain k x).parts = s.parts := rfl
@[simp] theorem setDomain_ctxs (k : Nat) (x : W32) : (s.setDomain k x).ctxs = s.ctxs := rfl
@[simp] theorem setDomain_bindings (k : Nat) (x : W32) : (s.setDomain k x).bindings = s.bindings := rfl
@[simp] theorem setDomain_partStatus (k : Nat) (x : W32) : (s.setDomain k x).partStatus = s.partStatus := rfl
@[simp] theorem setDomain_host (k : Nat) (x : W32) : (s.setDomain k x).host = s.host := rfl
@[simp] theorem setDomain_kedal (k : Nat) (x : W32) : (s.setDomain k x).kedal = s.kedal := rfl
@[simp] theorem setDomain_sec (k : Nat) (x : W32) : (s.setDomain k x).sec = s.sec := rfl
@[simp] theorem setDomain_rel (k : Nat) (x : W32) : (s.setDomain k x).rel = s.rel := rfl
@[simp] theorem setDomain_dbg (k : Nat) (x : W32) : (s.setDomain k x).dbg = s.dbg := rfl
@[simp] theorem setDomain_pwr (k : Nat) (x : W32) : (s.setDomain k x).pwr = s.pwr := rfl
@[simp] theorem setDomain_lib (k : Nat) (x : W32) : (s.setDomain k x).lib = s.lib := rfl
@[simp] theorem setDomain_freeCtr (k : Nat) (x : W32) : (s.setDomain k x).freeCtr = s.freeCtr := rfl
@[simp] theorem setDomain_pending (k : Nat) (x : W32) : (s.setDomain k x).pending = s.pending := rfl
@[simp] theorem setCluster_hbm (k : Nat) (x : Cluster) : (s.setCluster k x).mem.hbm = s.mem.hbm := rfl
@[simp] theorem setHome_hbm (k : Nat) (x : Home) : (s.setHome k x).mem.hbm = s.mem.hbm := rfl
@[simp] theorem setDomain_hbm (k : Nat) (x : W32) : (s.setDomain k x).mem.hbm = s.mem.hbm := rfl
@[simp] theorem free_cores : s.free.2.cores = s.cores := rfl
@[simp] theorem free_mem : s.free.2.mem = s.mem := rfl
@[simp] theorem free_fab : s.free.2.fab = s.fab := rfl
@[simp] theorem free_bcn : s.free.2.bcn = s.bcn := rfl
@[simp] theorem free_stamps : s.free.2.stamps = s.stamps := rfl
@[simp] theorem free_parts : s.free.2.parts = s.parts := rfl
@[simp] theorem free_ctxs : s.free.2.ctxs = s.ctxs := rfl
@[simp] theorem free_bindings : s.free.2.bindings = s.bindings := rfl
@[simp] theorem free_partStatus : s.free.2.partStatus = s.partStatus := rfl
@[simp] theorem free_host : s.free.2.host = s.host := rfl
@[simp] theorem free_kedal : s.free.2.kedal = s.kedal := rfl
@[simp] theorem free_sec : s.free.2.sec = s.sec := rfl
@[simp] theorem free_rel : s.free.2.rel = s.rel := rfl
@[simp] theorem free_dbg : s.free.2.dbg = s.dbg := rfl
@[simp] theorem free_pwr : s.free.2.pwr = s.pwr := rfl
@[simp] theorem free_lib : s.free.2.lib = s.lib := rfl
@[simp] theorem free_pending : s.free.2.pending = s.pending := rfl
@[simp] theorem newId_cores : s.newId.2.cores = s.cores := rfl
@[simp] theorem newId_fab : s.newId.2.fab = s.fab := rfl
@[simp] theorem newId_bcn : s.newId.2.bcn = s.bcn := rfl
@[simp] theorem newId_stamps : s.newId.2.stamps = s.stamps := rfl
@[simp] theorem newId_parts : s.newId.2.parts = s.parts := rfl
@[simp] theorem newId_ctxs : s.newId.2.ctxs = s.ctxs := rfl
@[simp] theorem newId_bindings : s.newId.2.bindings = s.bindings := rfl
@[simp] theorem newId_partStatus : s.newId.2.partStatus = s.partStatus := rfl
@[simp] theorem newId_host : s.newId.2.host = s.host := rfl
@[simp] theorem newId_kedal : s.newId.2.kedal = s.kedal := rfl
@[simp] theorem newId_sec : s.newId.2.sec = s.sec := rfl
@[simp] theorem newId_rel : s.newId.2.rel = s.rel := rfl
@[simp] theorem newId_dbg : s.newId.2.dbg = s.dbg := rfl
@[simp] theorem newId_pwr : s.newId.2.pwr = s.pwr := rfl
@[simp] theorem newId_lib : s.newId.2.lib = s.lib := rfl
@[simp] theorem newId_freeCtr : s.newId.2.freeCtr = s.freeCtr := rfl
@[simp] theorem newId_pending : s.newId.2.pending = s.pending := rfl
@[simp] theorem newId_hbm : s.newId.2.mem.hbm = s.mem.hbm := rfl
@[simp] theorem core_setCore (k j : Nat) (x : Core) : (s.setCore k x).core j = if j = k then x else s.core j := tget_tput _ _ _ _ _
@[simp] theorem cluster_setCluster (k j : Nat) (x : Cluster) : (s.setCluster k x).cluster j = if j = k then x else s.cluster j := tget_tput _ _ _ _ _
@[simp] theorem home_setHome (k j : Nat) (x : Home) : (s.setHome k x).home j = if j = k then x else s.home j := tget_tput _ _ _ _ _
@[simp] theorem port_setPort (k j : Nat) (x : Port) : (s.setPort k x).port j = if j = k then x else s.port j := tget_tput _ _ _ _ _
@[simp] theorem part_setPart (k j : Nat) (x : Partition) : (s.setPart k x).part j = if j = k then x else s.part j := tget_tput _ _ _ _ _
@[simp] theorem ctx_setCtx (k j : Nat) (x : Ctx) : (s.setCtx k x).ctx j = if j = k then x else s.ctx j := tget_tput _ _ _ _ _
@[simp] theorem fn_setFn (k j : Nat) (x : HostFn) : (s.setFn k x).fn j = if j = k then x else s.fn j := tget_tput _ _ _ _ _
@[simp] theorem budget_setBudget (k j : Nat) (x : Budget) : (s.setBudget k x).budget j = if j = k then x else s.budget j := tget_tput _ _ _ _ _
@[simp] theorem kslot_setKslot (k j : Nat) (x : KSlot) : (s.setKslot k x).kslot j = if j = k then x else s.kslot j := tget_tput _ _ _ _ _
@[simp] theorem bank_setBank (k j : Nat) (x : Bank) : (s.setBank k x).bank j = if j = k then x else s.bank j := tget_tput _ _ _ _ _
@[simp] theorem core_updCore (k j : Nat) (f : Core → Core) : (s.updCore k f).core j = if j = k then f (s.core k) else s.core j := tget_tput _ _ _ _ _

end State
end Sys2Proof.Machine
end

