-- ==== Sys2Proof/Laws/Issue.lean ====
section
/-!
SUPPORT. What the shared operations of an instruction can do: `issue` case by case and what it can answer at all; and that
waits, register writes, flags and the program counter change one core and nothing else.
-/
namespace Sys2Proof.Machine

variable {s t : State} {k len : Nat} {f : Face} {legal : Bool} {us : List RegUse} {g : Grp} {body : Grp → State → Did}

/-- A group that may issue is one that is offered, with legal fields and no pending operand. -/
theorem mayIssue_some (h : mayIssue s k f legal us = some g) :
    offer s k f = some g ∧ (legal && us.all (regOk f)) = true ∧ (blockedLanes s g us).isEmpty = true := by
  unfold mayIssue at h
  split at h
  · cases h
  · next g' ho =>
    split at h
    · next hc =>
      cases h
      simp only [Bool.and_eq_true] at hc ⊢
      exact ⟨ho, hc.1, hc.2⟩
    · cases h

theorem issue_of_mayIssue (h : mayIssue s k f legal us = some g) :
    issue s k f len legal us body = match body g (unwait s g) with
      | .ok t => .next (advance (issued t g) g g.lanes len)
      | .yield t => .next (advance (issued t { g with served := BitVec.allOnes 32 }) g g.lanes len)
      | .part t done => .next (if done.isEmpty then t else advance (issued t { g with lanes := done }) g done len)
      | .moved t => .next (issued t g)
      | .wait w => .next (setWait s g g.lanes .waitMemory w)
      | .fault code ls addr => .next (faultGrp s g code ls addr) := by
  obtain ⟨ho, hl, hb⟩ := mayIssue_some h
  simp only [issue, ho]
  exact (if_neg (by simp [hl])).trans (if_neg (by simp [hb]))

theorem issue_ok (h : mayIssue s k f legal us = some g) (hb : body g (unwait s g) = .ok t) :
    issue s k f len legal us body = .next (advance (issued t g) g g.lanes len) := by
  rw [issue_of_mayIssue h, hb]

theorem issue_moved (h : mayIssue s k f legal us = some g) (hb : body g (unwait s g) = .moved t) :
    issue s k f len legal us body = .next (issued t g) := by
  rw [issue_of_mayIssue h, hb]

theorem issue_wait {w : Wait} (h : mayIssue s k f legal us = some g) (hb : body g (unwait s g) = .wait w) :
    issue s k f len legal us body = .next (setWait s g g.lanes .waitMemory w) := by
  rw [issue_of_mayIssue h, hb]

theorem issue_fault {code : Nat} {ls : List Nat} {addr : W64} (h : mayIssue s k f legal us = some g)
    (hb : body g (unwait s g) = .fault code ls addr) :
    issue s k f len legal us body = .next (faultGrp s g code ls addr) := by
  rw [issue_of_mayIssue h, hb]

theorem issue_not_offered (h : offer s k f = none) : issue s k f len legal us body = .next s := by
  simp only [issue, h]

/-- R137, R138: illegal fields raise 0x01 on every thread of the group. -/
theorem issue_illegal (h : offer s k f = some g) (hl : (legal && us.all (regOk f)) = false) :
    issue s k f len legal us body = .next (faultGrp s g 1 g.lanes 0) := by
  simp only [issue, h, hl, Bool.not_false, if_true]

/-- Everything that issuing can answer: it never stops the block. -/
theorem issue_cases (h : issue s k f len legal us body = .next t) :
    (offer s k f = none ∧ t = s) ∨
    ∃ g, offer s k f = some g ∧
      ((t = faultGrp s g 1 g.lanes 0 ∧ (legal && us.all (regOk f)) = false) ∨
       (t = setWait s g (blockedLanes s g us) .waitOperand .operand ∧ (blockedLanes s g us).isEmpty = false) ∨
       (mayIssue s k f legal us = some g ∧
         ((∃ r, body g (unwait s g) = .ok r ∧ t = advance (issued r g) g g.lanes len) ∨
          (∃ r, body g (unwait s g) = .yield r ∧
            t = advance (issued r { g with served := BitVec.allOnes 32 }) g g.lanes len) ∨
          (∃ r done, body g (unwait s g) = .part r done ∧
            t = if done.isEmpty then r else advance (issued r { g with lanes := done }) g done len) ∨
          (∃ r, body g (unwait s g) = .moved r ∧ t = issued r g) ∨
          (∃ w, body g (unwait s g) = .wait w ∧ t = setWait s g g.lanes .waitMemory w) ∨
          (∃ code ls addr, body g (unwait s g) = .fault code ls addr ∧ t = faultGrp s g code ls addr)))) := by
  cases ho : offer s k f with
  | none => rw [issue_not_offered ho] at h; cases h; exact .inl ⟨rfl, rfl⟩
  | some g =>
    refine .inr ⟨g, rfl, ?_⟩
    cases hl : (legal && us.all (regOk f)) with
    | false => rw [issue_illegal ho hl] at h; cases h; exact .inl ⟨rfl, rfl⟩
    | true =>
      cases hb : (blockedLanes s g us).isEmpty with
      | false =>
        simp only [issue, ho, hl, hb, Bool.not_true, Bool.not_false, if_true, if_false, Bool.false_eq_true] at h
        cases h; exact .inr (.inl ⟨rfl, rfl⟩)
      | true =>
        have hm : mayIssue s k f legal us = some g := by
          simp only [mayIssue, ho]
          rw [if_pos (by simp only [hb, Bool.and_true]; exact hl)]
        refine .inr (.inr ⟨hm, ?_⟩)
        rw [issue_of_mayIssue hm] at h
        split at h <;> rename_i hd <;> cases h
        · exact .inl ⟨_, hd, rfl⟩
        · exact .inr (.inl ⟨_, hd, rfl⟩)
        · exact .inr (.inr (.inl ⟨_, _, hd, rfl⟩))
        · exact .inr (.inr (.inr (.inl ⟨_, hd, rfl⟩)))
        · exact .inr (.inr (.inr (.inr (.inl ⟨_, hd, rfl⟩))))
        · exact .inr (.inr (.inr (.inr (.inr ⟨_, _, _, hd, rfl⟩))))

/-- Some instruction of a face always answers a next state. -/
theorem issue_next : ∃ t, issue s k f len legal us body = .next t := by
  cases ho : offer s k f with
  | none => exact ⟨_, issue_not_offered ho⟩
  | some g =>
    cases hl : (legal && us.all (regOk f)) with
    | false => exact ⟨_, issue_illegal ho hl⟩
    | true =>
      cases hb : (blockedLanes s g us).isEmpty with
      | false =>
        simp only [issue, ho, hl, hb, Bool.not_true, Bool.not_false, if_true, if_false, Bool.false_eq_true]
        exact ⟨_, rfl⟩
      | true =>
        have hm : mayIssue s k f legal us = some g := by
          simp only [mayIssue, ho]
          rw [if_pos (by simp only [hb, Bool.and_true]; exact hl)]
        rw [issue_of_mayIssue hm]
        split <;> exact ⟨_, rfl⟩

/-! Operations that change one core and nothing else. -/

theorem setWait_setCore (s : State) (g : Grp) (ls : List Nat) (st : ThreadState) (w : Wait) :
    ∃ c, setWait s g ls st w = s.setCore g.k c := by
  unfold setWait; split <;> exact ⟨_, rfl⟩

theorem unwait_setCore (s : State) (g : Grp) : ∃ c, unwait s g = s.setCore g.k c := setWait_setCore ..

theorem wrReg_setCore (s : State) (g : Grp) (lane r : Nat) (wide : Bool) (v : W64) :
    ∃ c, wrReg s g lane r wide v = s.setCore g.k c := by
  unfold wrReg; split <;> exact ⟨_, rfl⟩

theorem raiseFlags_setCore (s : State) (g : Grp) (fl : Flags) : ∃ c, raiseFlags s g fl = s.setCore g.k c := by
  unfold raiseFlags; split <;> exact ⟨_, rfl⟩

theorem advance_setCore (s : State) (g : Grp) (ls : List Nat) (n : Nat) : ∃ c, advance s g ls n = s.setCore g.k c := by
  unfold advance; split <;> exact ⟨_, rfl⟩

/-- The rest of the machine is the same after an operation of one core. -/
theorem core_of_setCore {c : Core} {k j : Nat} (h : t = s.setCore k c) (hj : j ≠ k) : t.core j = s.core j := by
  subst h; exact tget_tput_ne _ _ _ hj

/-- A teardown changes the cores and the contexts, and nothing else (R400). -/
theorem startTeardown_frame (s : State) (n cause : Nat) :
    ∃ cs xs, startTeardown s n cause = { s with cores := cs, ctxs := xs } := by
  simp only [startTeardown]
  split <;> exact ⟨_, _, rfl⟩

/-- A pre-emption changes the cores and the contexts, and nothing else (R393). -/
theorem preempt_frame (s : State) (n : Nat) (halt : Bool) :
    ∃ cs xs, preempt s n halt = { s with cores := cs, ctxs := xs } := by
  simp only [preempt]
  split <;> exact ⟨_, _, rfl⟩

/-- s0 is never written (R109). -/
theorem sreg_zero (c : Core) : c.sreg 0 = 0 := rfl

theorem setSreg_zero (c : Core) (v : W64) : c.setSreg 0 v = c := rfl

/-- A scalar register reads back what was written to it (R109). -/
theorem sreg_setSreg (c : Core) {r : Nat} (hr : r ≠ 0) (j : Nat) (v : W64) :
    (c.setSreg r v).sreg j = if j = r then v else c.sreg j := by
  by_cases hj : j = 0
  · subst hj; simp [Core.sreg, Ne.symm hr]
  · simp only [Core.sreg, Core.setSreg, hr, hj, if_false]
    exact tget_tset _ _ _ _

end Sys2Proof.Machine
end

