-- ==== Sys2Proof/Tests/Slice0.lean ====
section
/-!
SUPPORT. Tests: terms that the well-formedness checks refuse, states and operands that meet the hypotheses of the clauses of each
statement (named wit_<statement>), and single steps with results taken from the spec's tables and examples.
-/
namespace Sys2Proof.Tests
open Sys2Proof Sys2Proof.Machine
set_option Elab.async false

/-- A context that runs, privileged and with its debug attribute set (R385: bits 62 and 61 of word 0), width 1. -/
def ctx0 : Ctx := { Ctx.dflt with st := .running, desc := [0x6000000000000000#64, 0, 0, 0, 0, 0, 0, 0], cores := [0] }

/-- Core 0 runs context 0; caravan 0 stands at 0x1000 with every thread READY. -/
def core0 : Core := { Core.dflt with ctx := some (0, 0), cvs := [(0, launchCv Caravan.dflt 0 0x1000 0)] }

def s0 : State := { State.reset with cores := [(0, core0)], ctxs := [(0, ctx0)] }

/-- Core 0 with a change. -/
def onCore (f : Core → Core) : State := { s0 with cores := [(0, f core0)] }

/-- What the control core and caravan 0 of core 0 are offered. -/
def gc : Grp := ⟨0, none, [0], 0, 0⟩
def gv : Grp := ⟨0, some 0, List.range 32, 0x1000, BitVec.allOnes 32⟩

/-- Page 0 of core 0 is readable and writable HBM: the last page of the space. -/
def sMem : State := onCore (fun c => { c with tlb := { c.tlb with ents := [(0, ⟨0, 0, 0, 0, 0xFFFFF000000000C3#64⟩)] } })

/-- The scratchpad of core 0 gives groups 6 and 7 to the C port; the registers of the control core point at group 6. -/
def sPad : State := onCore (fun c => { c with sregs := (List.range 64).map (fun i => (i, 0x180000#64)), sp := { c.sp with pmap := 0x44221133#32 } })

def isPart : Did → List Nat → Bool
  | .part _ k, l => k == l
  | _, _ => false

def partSt : Did → State
  | .part s _ => s
  | _ => State.reset

theorem part_of {d : Did} {l : List Nat} (h : isPart d l = true) : d = .part (partSt d) l := by
  cases d <;> simp_all [isPart, partSt]

def laneDone : Lane → Bool
  | .done _ => true
  | _ => false

def laneSt : Lane → State
  | .done s => s
  | _ => State.reset

theorem done_of {d : Lane} (h : laneDone d = true) : d = .done (laneSt d) := by
  cases d <;> simp_all [laneDone, laneSt]

theorem pair_of {α : Type} {p : Bool × α} (h : p.1 = true) : p = (true, p.2) := by cases p; simp_all

/-- The registers of the control core hold 1025, the largest count of a barrier (R159). -/
def sBar : State := onCore (fun c => { c with sregs := (List.range 32).map (fun i => (i, 1025#64)) })

/-- A CV.MMA of binary16 operands at even registers that stay clear of the 32 of C (R118, R122), and caravan 0 parked at it. -/
def mma0 : MmaOp := ⟨0, .cv 0, 2, 2, false, 0, 0, 8, 32, 0, 0⟩

def cvPark : Caravan :=
  { launchCv Caravan.dflt 0 0x1000 0 with st := (List.range 32).map (fun l => (l, .parked)), parkPc := 0x1000, parkOp := some mma0 }

def sPark : State := onCore (fun c => { c with cvs := [(0, cvPark)] })

def sColl (ph : Nat) (conv : List Nat) (secs : Tbl Nat) (m : ArrayMode) : State := onCore (fun c =>
  { c with cvs := [(0, { cvPark with coll := some ⟨ph, mma0, 0x1000, 0, []⟩ })], mx := { c.mx with converged := conv, sections := secs, mode := m } })

/-- A pass of one binary16 vector and one row, X and W in the M groups (R65, R165); `m` is its accumulation mode, `t` its top field. -/
def passDesc (m t : Nat) : W128 :=
  at_ 123 2 ||| at_ 118 2 ||| at_ 109 1 ||| at_ 99 m ||| at_ 97 t ||| at_ 88 1 ||| at_ 87 1 ||| at_ 66 8192 ||| at_ 55 1 ||| at_ 40 8200 ||| at_ 29 1

def pass0 (st : PassState) (step : Nat) : MxCmd := { MxCmd.fresh 0 false (passDesc 0 0) 0 0x44221133#32 step with state := st }

/-- A drain of one row to binary32 elements in the V groups (R76, R166). -/
def drain0 : MxCmd := { MxCmd.fresh 0 true (at_ 55 1 ||| at_ 43 15 ||| at_ 38 1 ||| at_ 20 16384 ||| at_ 9 8) 0 0x44221133#32 0 with agreed := true }

def sMx (q : List MxCmd) (m : ArrayMode) : State := onCore (fun c => { c with mx := { c.mx with queue := q, mode := m } })

/-- Cores 0 and 1 of context 0 in one chain (R91), each with the pass `q`. -/
def sChain (q : MxCmd) : State :=
  let c : Core := { core0 with mx := { core0.mx with queue := [q], mode := .stream, chain := 0x80000001#32 } }
  { s0 with cores := [(0, c), (1, { c with ctx := some (0, 1) })], ctxs := [(0, { ctx0 with cores := [0, 1] })] }

/-- Context 0 without its privilege. -/
def sUser : State := { s0 with ctxs := [(0, { ctx0 with desc := [] })] }

/-- An entry of the vector queue: an element add on the windows 0 of binary formats (R184). -/
def ve0 (op : Nat) (started : Bool) : VeInstr :=
  ⟨0, [], 0, op, 0, 0, false, 1, 0, 0, 0, 0, false, 0, 0, 0x44221133#32, started, 0, 0, [], [], [], 0, [], [], 0, false⟩

def sVe (v : VeInstr) : State := onCore (fun c => { c with ve := { c.ve with queue := [v], chans := [(1, v)] } })

/-- A DMA command that fills eight bytes of the D groups (R230 to R232). -/
def dma0 (st : DmaStage) (rd wr : Nat) : DmaCmd :=
  ⟨0, [at_ 62 2 ||| at_ 60 1 ||| at_ 57 4, 0, 0, 0, 0, 0, 0, 0], 1, 0, 0x44221133#32, st, 0, rd, wr, [], [], [], [], [], 0, 0, false, false, [], [], 0, false, 0, none, false, false, 0, 0⟩

def sDma (q : DmaCmd) : State := onCore (fun c => { c with dma := { c.dma with queue := [q], issued := 1 } })

/-- Messages in flight; a cluster that has waiters takes their answers. -/
def sMsg (l : List Msg) : State := { sMem with mem := { sMem.mem with msgs := l } }

def bareL2 (k : MsgKind) : Msg := Msg.bare k (.l2 0) 5

/-- A load of eight bytes of core 0 that is in flight with number 7. -/
def acc7 : Access := ⟨.cc, 0, .load false, 8, 0, 0, 0, false, 1, 0, 0, false, .home, 7, 0, 0, 0⟩

def sAcc (l : List Msg) : State := { sMsg l with cores := [(0, { core0 with acc := [acc7] })] }

/-- The home of line 5 serves a request of cluster 0 and awaits clusters 0 and 31. -/
def txn5 : HomeTxn := ⟨bareL2 (.req .rdX), [0, 31], none⟩

def sHome (l : List Msg) (f : Home → Home) : State := (sMsg l).setHome (homeOf 5) (f ((sMsg l).home (homeOf 5)))

theorem only_core_0 {s : State} (h : ∀ j < 8, j ≠ 0 → nextDispatch s j = none) (j : Nat) (hj : j / 8 = (1 : Fin 64).val / 2) (h0 : j ≠ 0) :
    nextDispatch s j = none := h j (by simp at hj; omega) h0

theorem no_engine {s : State} (h : ∀ j < 8, ∀ p ∈ (s.core j).dma.queue, p.stage ≠ .queued → p.engine ≠ 1) (j : Nat)
    (hj : j / 8 = (1 : Fin 64).val / 2) (p : DmaCmd) (hp : p ∈ (s.core j).dma.queue) (hs : p.stage ≠ .queued) : p.engine ≠ (1 : Fin 64).val :=
  h j (by simp at hj; omega) p hp hs

/-- Port 0 with a change; the queue of translation commands of function 0 with one command waiting. -/
def sPort (f : Port → Port) : State := s0.updPort 0 f

def ring1 : Ring := ⟨0, 0x8000000000000001#64, 0, 1, []⟩

def sFn (f : HostFn → HostFn) : State := s0.setFn 0 (f HostFn.dflt)

/-- A packet of a type at the endpoint of the module, whose node is 5; `o` is its OFFSET, `b` its body. -/
def pkt0 (type o : Nat) (b : List W64) : Packet := ⟨at_ 44 5 ||| at_ 24 9 ||| at_ 13 type, BitVec.ofNat 64 o, 0, at_ 44 1, b⟩

def sEp (p : Packet) (txn : List FabTxn) : State :=
  { s0 with fab := { s0.fab with node := 5, epIn := [(p, some 0)] }, mem := { s0.mem with fab := txn } }

def txn0 (type : Nat) : FabTxn := ⟨0, pkt0 type 0 [], .wb 0, 0, 4, false⟩

/-- Partition 0 is ACTIVE and owns HBM unit 0, whose first page it exports to node 9 for reading (R353). -/
def part0 : Partition := { Partition.dflt with st := .active, hbmMap := 1 }

def sExp (p : Packet) : State :=
  { sEp p [] with
    parts := [(0, part0)]
    fab := { (sEp p []).fab with expo := [(0, at_ 64 1 ||| at_ 44 9 ||| at_ 39 20 ||| at_ 33 1 ||| at_ 32 1 ||| at_ 30 1)] } }

/-- A context with a page table whose page 0 is frame 5 of HBM, where the first submission entry holds opcode `op` (R313, R415, R416). -/
def sRing (op : Nat) (kend : Nat) (f : Ctx → Ctx) : State :=
  let m := mwrite (mwrite (mwrite (mwrite (mwrite [] 0x1000 8 0xFFFFF00000002001) 0x2000 8 0xFFFFF00000003001) 0x3000 8 0xFFFFF00000004001) 0x4000 8 0xFFFFF000000050C3) 0x5000 8 (op * 2 ^ 56)
  { s0 with
    cores := [(0, { core0 with kend := kend })]
    parts := [(0, { part0 with clusters := 1 })]
    mem := { s0.mem with hbm := m }
    ctxs := [(0, f { ctx0 with desc := [0, 0x1001, 0, 0, 0, 4, 4, 0], sqTail := 1, cqTail := 2 })] }

/-- The L2 that holds the tables of `sRing`, one line each (R277, R312). -/
def tabL2 : Cache :=
  let one (d : W512) : Sector := ⟨d, false, false, BitVec.allOnes 64⟩
  { Cache.dflt with
    lines := [(256, ⟨16, .s, [(0, one 0xFFFFF00000002001)], 0⟩), (512, ⟨32, .s, [(0, one 0xFFFFF00000003001)], 0⟩),
      (768, ⟨48, .s, [(0, one 0xFFFFF00000004001)], 0⟩), (1024, ⟨64, .s, [(0, one 0xFFFFF000000050C3), (1, one 0)], 0⟩)] }

/-- `sRing` with the walk `w` in flight, above an L2. -/
def sWalk (cs : Tbl Core) (w : Walk) (x : Cache) : State :=
  { sRing 1 0 id with cores := cs, mem := { (sRing 1 0 id).mem with clusters := [(0, { s0.cluster 0 with walks := [w], l2 := x })] } }

theorem some_of {α β : Type} {o : Option (α × β)} (h : o.isSome = true) : o = some ((o.get h).1, (o.get h).2) :=
  match o, h with
  | some _, _ => rfl

/-- A fresh descriptor of width 1 in partition 0 behind the eight words of its CTX_CREATE (R385, R415, R418). -/
def create0 : List W64 :=
  [0x0100000000000000, 0, 0, 0, 0, 0, 0, 0] ++ [0, 0, 0, 0xFFFFF00000000000, 0, 0xFFFF800000000004, 0xFFFF800000000004, 0]

def sHost (f : HostIf → HostIf) : State := { sRing 1 0 id with host := f s0.host }

/-- A Kedal frame of the fabric manager (R426). -/
def frame0 (op index sub type key arg : Nat) (body : List Byte) : List Byte :=
  [BitVec.ofNat 8 (16 + op), 0] ++ leBytes 2 body.length ++ leBytes 4 7 ++ leBytes 2 index ++ leBytes 1 sub ++ leBytes 1 type ++ leBytes 2 0 ++
    [1, 0] ++ leBytes 1 key ++ leBytes 3 0 ++ leBytes 8 arg ++ leBytes 4 0 ++ body

def sKd (l : List KReq) : State :=
  { s0 with kedal := { s0.kedal with queue := l, up := true }, pwr := { s0.pwr with st := .active, start := 0x0C, input := true } }

def req0 (op index sub type key arg : Nat) (body : List Byte) : KReq := ⟨.field, 5, frame0 op index sub type key arg body, setBit 5 56 true, false⟩

/-- The tag of R439 under the zero key. -/
def tag0 : List Byte := cwriteTag s0 (frame0 3 0x4400 1 9 0x40 1 (List.replicate 32 0))

def sKey (l : List KReq) : State := (sKd l).setKeySlot 0x40 ⟨true, 1, 0, 0⟩

def rightOf {α β : Type} : α ⊕ β → Option β
  | .inr b => some b
  | .inl _ => none

def leftOf {α β : Type} : α ⊕ β → Option α
  | .inr _ => none
  | .inl a => some a

theorem inr_of {α β : Type} {x : α ⊕ β} (h : (rightOf x).isSome = true) : x = .inr ((rightOf x).get h) :=
  match x, h with
  | .inr _, _ => rfl

theorem inl_of {α β : Type} {x : α ⊕ β} (h : (leftOf x).isSome = true) : x = .inl ((leftOf x).get h) :=
  match x, h with
  | .inl _, _ => rfl

theorem zero_of {α : Type} {p : α × Nat} (h : p.2 = 0) : p = (p.1, 0) := by cases p; simp_all

theorem leNat_lt (l : List Byte) : leNat l < 256 ^ l.length := by
  induction l with
  | nil => simp [leNat]
  | cons b r ih =>
    have := b.isLt
    simp only [leNat, List.length_cons, Nat.pow_succ]
    omega

/-- A staged ciphertext of zeros (R452), and the command that establishes slot 0x40 from it for the fabric manager (R453). -/
def ct0 : List Byte := List.replicate 1088 0#8

def sStage : State :=
  { sKd [] with sec := { s0.sec with stage := (List.range 5).map (fun i => (i + 1, List.replicate (if i = 4 then 64 else 256) 0#8)) } }

theorem keyProof_toNat (s : State) (slot princ : Nat) (d : BitVec 256) (key : List Byte) :
    keyProof s slot princ d key = (BitVec.ofNat 128 (keyProof s slot princ d key)).toNat := by
  have : keyProof s slot princ d key < 2 ^ 128 := by
    refine Nat.lt_of_lt_of_le (leNat_lt _) (Nat.le_trans (Nat.pow_le_pow_right (by decide) (List.length_take_le 16 _)) (by decide))
  rw [BitVec.toNat_ofNat, Nat.mod_eq_of_lt this]

theorem inrp_of {α β γ : Type} {x : α ⊕ (β × γ)} (h : (rightOf x).isSome = true) : x = .inr (((rightOf x).get h).1, ((rightOf x).get h).2) :=
  match x, h with
  | .inr _, _ => rfl

def dev0 : Device := ⟨[⟨0xFFFFF, 0, 0⟩], 1, 2 ^ 22, [0], [], 0⟩

/-- A device of one context, a tiling record of an operator (R532), and a tensor of binary32 ones. -/
def sLib : State := { sRing 1 0 id with lib := { (sRing 1 0 id).lib with devs := [(0, dev0)] } }

def call0 (op : Nat) : CallOpt :=
  ⟨0, 1, none, none, false, [at_ 24 op, at_ 55 1 ||| at_ 46 1 ||| at_ 30 1 ||| at_ 25 6, at_ 48 1, 0, at_ 59 1 ||| at_ 54 1 ||| at_ 49 1, 0, 0, 0], [], none⟩

def ones (ext : List Nat) : Tensor := ⟨1, ext, (List.replicate (prodOf ext) [0#8, 0, 128, 63]).flatten, []⟩

/-- A test of core 0 and a port test, each waiting. -/
def testC : TestCmd := ⟨1, 0, 255, 0, 0, 9⟩
def testP : TestCmd := ⟨4, 0, 31, 1, 0xFF, 9⟩

def sRel (f : Rel → Rel) : State := { sKd [] with rel := f { s0.rel with modState := .operational } }

def sDbg (f : Dbg → Dbg) : State := { s0 with dbg := f s0.dbg }

theorem no_message {s : State} {w : Agent} {line : Nat} {b : Bool} {kind : MsgKind}
    (h : (takeFirst (fun m => m.who == w && m.line == line && m.kind.toHome == b) s.mem.msgs).isNone = true) (m : Msg) (rest : List Msg)
    (a : Arrives s w line b m rest) : m.kind ≠ kind := by
  simp [Arrives, Option.isNone_iff_eq_none.mp h] at a

theorem isSome_eq {α : Type} {o : Option α} (h : o.isSome = true) : o = some (o.get h) :=
  match o, h with
  | some _, _ => rfl

theorem cons_of {α : Type} {l : List α} (h : l ≠ []) : l = l.head h :: l.tail := (List.cons_head_tail h).symm

/-- Windows of one INT32 element in the V groups (R178, R179). -/
def winV : Tbl W64 :=
  [(0, at_ 63 1 ||| at_ 57 6 ||| at_ 33 1 ||| at_ 12 0x100000), (1, at_ 48 1), (2, at_ 63 1 ||| at_ 57 6 ||| at_ 33 1 ||| at_ 12 0x100040), (3, at_ 48 1)]

def ve1 (op fn : Nat) (started : Bool) : VeInstr :=
  { ve0 op started with fn := fn, vb := 1, vl := if started then 1 else 0, win := if started then winV else [] }

/-- Core 0 with one vector instruction; `spent` says that its period's charge is used up (R516). -/
def sWin (v : VeInstr) (ch : Tbl VeInstr) (spent : Bool) : State :=
  let s := onCore (fun c => { c with ve := { c.ve with queue := [v], chans := ch, win := winV, vl := 1 } })
  if spent then s.setBudget 0 { s.budget 0 with ve := 0, spent := true } else s

/-- Every way of the L2 set of line 5 is out of service, and the directory shows the cluster (R278, R298). -/
def sFull : State := ((sHome [bareL2 .dataS] (fun h => { h with dir := [(16 * dirSet 5, ⟨5, false, 1⟩)] })).updL2 0 (fun x => { x with out := List.range 16 }))

/-- The peer of port 0 has sent its bundle, its ciphertext and the proof that this end expects (R456). -/
def agreedPort : Port := { (s0.port 0) with st := .secure, peerDigest := some 0, link := { (s0.port 0).link with proved := true, heard := List.replicate 5006 0 } }

def sAgreed : State := sPort (fun _ => { agreedPort with
  link := { agreedPort.link with heard := List.replicate 5006 0 ++ proofUnits s0 agreedPort agreedPort.link.prk (!lowEnd s0 0) } })

theorem isPrefixOf_self (l : List W64) : l.isPrefixOf l = true := by simp

theorem agreed_of (s : State) (x : Port) (l : List W64) (p : Nat) (hl : l.length = bundleUnits + cipherUnits) (hs : x.st = .secure)
    (hv : x.link.proved = true) (hx : x.link.heard = l)
    (h : s.port p = { x with link := { x.link with heard := l ++ proofUnits s x x.link.prk (!lowEnd s (x.peerDigest.getD 0)) } }) :
    secureAgreed s p = true := by
  have e : proofUnits s (s.port p) x.link.prk (!lowEnd s (x.peerDigest.getD 0)) =
      proofUnits s x x.link.prk (!lowEnd s (x.peerDigest.getD 0)) := by
    simp only [proofUnits, h, hx, ← hl, List.take_left', List.take_length]
  have e2 : (s.port p).link.heard.drop (bundleUnits + cipherUnits) = proofUnits s x x.link.prk (!lowEnd s (x.peerDigest.getD 0)) := by
    rw [h, ← hl]; simp
  have e3 : (s.port p).link.prk = x.link.prk := by rw [h]
  have e4 : (s.port p).peerDigest = x.peerDigest := by rw [h]
  have e5 : (s.port p).link.proved = true := by rw [h]; exact hv
  have e6 : (s.port p).st = .secure := by rw [h]; exact hs
  simp only [secureAgreed, e3, e4, e, e2, e5, e6, isPrefixOf_self, Bool.and_self, decide_true]

theorem peer_example : (sAgreed.port (0 : Fin 32)).peerDigest = some 0 := rfl

theorem agreed_example : secureAgreed sAgreed (0 : Fin 32) = true :=
  agreed_of sAgreed agreedPort (List.replicate 5006 0) 0 List.length_replicate rfl rfl rfl rfl

theorem free_of {α : Type} {P : Prop} (a : α) (f : ∀ d, a = d → P) : P := f a rfl

/-- A call that is carried out: every condition of its status 0 holds (R526, R534, R538). -/
def CallRuns (s : State) (c : CallOpt) (op : Nat) (ts : List Tensor) (d : Device) (res : CallRes) (out : List Tensor) (fl : Flags) : Prop :=
  tfind s.lib.devs c.dev = some d ∧ tornMember s c d = none ∧ (c.fixedTiling = false → tilingOk c op d.members.length d.width = true) ∧
  res = .inr (out, fl) ∧ RecordStands c op ts d ∧ MembersFit s c d ∧ placesOk s c d out = true

theorem wit_StepRunsTheFront :
    (∃ (c : Instr) (rest : List Instr) (s : State), s.pending = c :: rest) ∧
    (∃ s : State, s.pending = [] ∧ issuers s = []) ∧
    (∃ s : State, s.pending = [] ∧ issuers s ≠ []) :=
  ⟨⟨.perstRelease, [], { s0 with pending := [Instr.perstRelease] }, by decide +kernel⟩,
    ⟨State.reset, by decide +kernel, by decide +kernel⟩,
    ⟨s0, by decide +kernel, by decide +kernel⟩⟩

theorem wit_IntegerOpsComplete :
    (∃ e ∈ intOps1, ∃ (o : RrrOp) (s : State) (g : Grp), offer s o.core o.face = some g ∧ o.rb ≠ 0) ∧
    (∃ e ∈ intOps2, ∃ (o : RrrOp) (s : State) (g : Grp), Issues s o.core o.face (!(isCc o.face && o.w)) [useOf o.rd (isCc o.face ||
      o.w) true, useOf o.ra (isCc o.face || o.w) false, useOf o.rb (isCc o.face || o.w) false] g) ∧
    (∃ e ∈ intOps1, ∃ (o : RrrOp) (s : State) (g : Grp), Issues s o.core o.face (!(isCc o.face && o.w) && o.rb == 0) [useOf o.rd (isCc
      o.face || o.w) true, useOf o.ra (isCc o.face || o.w) false] g) :=
  ⟨⟨_, (List.Mem.head _), ⟨0, .cc, false, 1, 2, 3⟩, s0, gc, by decide +kernel, by decide +kernel⟩,
    ⟨_, (List.Mem.head _), ⟨0, .cv 0, true, 62, 0, 2⟩, s0, gv, by unfold Issues; decide +kernel⟩,
    ⟨_, (List.Mem.head _), ⟨0, .cc, false, 31, 0, 0⟩, s0, gc, by unfold Issues; decide +kernel⟩⟩

theorem wit_ImmediateOpsComplete :
    (∃ e ∈ intOpsI, ∃ (o : RriOp) (s : State) (g : Grp), Issues s o.core o.face true [useOf o.rd (isCc o.face) true, useOf o.ra (isCc
      o.face) false] g) ∧
    (∃ e ∈ shiftOps, ∃ (o : ShiOp) (s : State) (g : Grp), Issues s o.core o.face (o.rsv == 0 && !(isCc o.face && o.w) && ((isCc o.face
      || o.w) || decide (o.amt.toNat < 32))) [useOf o.rd (isCc o.face || o.w) true, useOf o.ra (isCc o.face || o.w) false] g) ∧
    (∃ (o : RiOp) (s : State) (g : Grp), Issues s o.core o.face true [⟨o.rd.toNat, 1, true⟩] g) :=
  ⟨⟨_, (List.Mem.head _), ⟨0, .cc, 31, 0, 0x3FFF⟩, s0, gc, by unfold Issues; decide +kernel⟩,
    ⟨_, (List.Mem.head _), ⟨0, .cv 0, 1, 2, 0, false, 31⟩, s0, gv, by unfold Issues; decide +kernel⟩,
    ⟨⟨0, .cc, 5, 0xFFFFF⟩, s0, gc, by unfold Issues; decide +kernel⟩⟩

theorem wit_BranchesComplete :
    (∃ e ∈ branchOps, ∃ (o : BrOp) (s : State) (g : Grp), Issues s o.core o.face true [useOf o.ra (isCc o.face) false, useOf o.rb
      (isCc o.face) false] g) ∧
    (∃ (o : RiOp) (s : State) (g : Grp), Issues s o.core o.face true [useOf o.rd true true] g) ∧
    (∃ (o : RriOp) (s : State) (g : Grp), Issues s o.core o.face true [useOf o.rd true true, useOf o.ra true false] g) :=
  ⟨⟨_, (List.Mem.head _), ⟨0, .cc, 0, 31, 0x2000⟩, s0, gc, by unfold Issues; decide +kernel⟩,
    ⟨⟨0, .cv 0, 62, 1⟩, s0, gv, by unfold Issues; decide +kernel⟩,
    ⟨⟨0, .cc, 0, 1, 4⟩, s0, gc, by unfold Issues; decide +kernel⟩⟩

theorem wit_FloatOpsComplete :
    (∃ e ∈ floatOps, ∃ (o : FpOp) (s : State) (g : Grp), Issues s o.core o.face ((!e.2.2.1 || o.rm == 0) && (decide (e.2.1 = 2) ||
      o.rb == 0)) ([useOf o.rd (o.dbl && !e.2.2.2.1) true, useOf o.ra o.dbl false] ++ (if e.2.1 = 2 then [useOf o.rb o.dbl false]
      else [])) g) ∧
    (∃ (o : CvtOp) (s : State) (g : Grp), Issues s o.core o.face (!o.rsv && decide (o.dst.toNat < 8) && decide (o.src.toNat < 8))
      [⟨o.rd.toNat, if ebits o.dst.toNat = 64 then 2 else 1, true⟩, ⟨o.ra.toNat, if ebits o.src.toNat = 64 then 2 else 1, false⟩]
      g) :=
  ⟨⟨_, (List.Mem.head _), ⟨0, .cv 0, true, 62, 0, 2, 3⟩, s0, gv, by unfold Issues; decide +kernel⟩,
    ⟨⟨0, .cc, 1, 2, 7, 0, 3, true, false⟩, s0, gc, by unfold Issues; decide +kernel⟩⟩

theorem wit_IntegerFrameControlCore :
    ∃ e ∈ intOps2, ∃ (o : RrrOp) (s : State) (g : Grp), o.face = .cc ∧ twfFrom 0#64 none (s.core o.core).sregs = true ∧ Issues s
      o.core .cc (!o.w) [useOf o.rd true true, useOf o.ra true false, useOf o.rb true false] g :=
  ⟨_, (List.Mem.head _), ⟨0, .cc, false, 1, 2, 3⟩, s0, gc, by decide +kernel, by decide +kernel, by unfold Issues; decide +kernel⟩

theorem wit_IllegalFieldsFault :
    (∃ e ∈ intOps2, ∃ (o : RrrOp) (s : State) (g : Grp), offer s o.core o.face = some g ∧ (((isCc o.face && o.w) = true ∨ [useOf o.rd
      (isCc o.face || o.w) true, useOf o.ra (isCc o.face || o.w) false, useOf o.rb (isCc o.face || o.w) false].all (regOk o.face)
      = false))) ∧
    (∃ (k : Fin 256) (f : Face) (w : W64) (s : State) (g : Grp), offer s k f = some g ∧ wordOp w ≠ 0x28 ∧ decodeWord k f w = none) ∧
    (∃ (_k : Fin 256) (_f : Face) (w : W64), wordOp w ∈ reservedOps) :=
  ⟨⟨_, (List.Mem.head _), ⟨0, .cc, true, 1, 2, 3⟩, s0, gc, by decide +kernel, by decide +kernel⟩,
    ⟨0, .cc, 0, s0, gc, by decide +kernel, by decide +kernel, by decide +kernel⟩,
    ⟨255, (.cv 31), 0xF0000000, by decide +kernel⟩⟩

theorem wit_LoadsComplete :
    (∃ e ∈ loadForms, ∃ (o : RriOp) (s t : State) (g : Grp), Issues s o.core o.face (!(isCc o.face && e.2.1 == 16)) [dataUse o.rd
      e.2.1 true, addrUse o.ra] g ∧ Accessed s g (loadWant o.ra o.rd (o.imm.signExtend 64) e.2.1 e.2.2 false g) t) ∧
    (∃ (o : AcqOp) (s t : State) (g : Grp), Issues s o.core o.face (!o.scope && sizeOk o.face false o.size) [dataUse o.rd (sizeBytes
      o.size) true, addrUse o.ra] g ∧ Accessed s g (loadWant o.ra o.rd (o.off.signExtend 64) (sizeBytes o.size) (sizeSigned
      o.size) true g) t) :=
  ⟨⟨_, (List.Mem.head _), ⟨0, .cc, 1, 2, 0⟩, sMem, _, gc, by unfold Issues; decide +kernel, ⟨by decide +kernel, part_of
      (by decide +kernel)⟩⟩,
    ⟨⟨0, .cc, 1, 2, 6, false, 0⟩, sMem, _, gc, by unfold Issues; decide +kernel, ⟨by decide +kernel, part_of (by decide +kernel)⟩⟩⟩

theorem wit_StoresComplete :
    (∃ e ∈ storeForms, ∃ (o : RriOp) (s t : State) (g : Grp), Issues s o.core o.face (!(isCc o.face && e.2 == 16)) [dataUse o.rd e.2
      false, addrUse o.ra] g ∧ Accessed s g (storeWant o.ra o.rd (o.imm.signExtend 64) e.2 g) t) ∧
    (∃ (o : AcqOp) (s t : State) (g : Grp), Issues s o.core o.face (sizeOk o.face true o.size) [dataUse o.rd (sizeBytes o.size) false,
      addrUse o.ra] g ∧ laneFaults s g (storeWant o.ra o.rd (o.off.signExtend 64) (sizeBytes o.size) g s) = none ∧ memRunWith
      (afterRel true o.scope) g (storeWant o.ra o.rd (o.off.signExtend 64) (sizeBytes o.size) g) (unwait s g) = .part t g.lanes) :=
  ⟨⟨_, (List.Mem.head _), ⟨0, .cc, 1, 2, 0⟩, sMem, _, gc, by unfold Issues; decide +kernel, ⟨by decide +kernel, part_of
      (by decide +kernel)⟩⟩,
    ⟨⟨0, .cc, 1, 2, 4, true, 0⟩, sMem, _, gc, by unfold Issues; decide +kernel, by decide +kernel, part_of (by decide +kernel)⟩⟩

theorem wit_MisalignedAccessFaults :
    (∃ e ∈ loadForms, ∃ (o : RriOp) (s : State) (g : Grp), Issues s o.core o.face (!(isCc o.face && e.2.1 == 16)) [dataUse o.rd e.2.1
      true, addrUse o.ra] g ∧ g.lanes.filter (fun l => (rdReg s g l o.ra.toNat true + o.imm.signExtend 64).toNat % e.2.1 ≠ 0) ≠
      []) ∧
    (∃ e ∈ storeForms, ∃ (o : RriOp) (s : State) (g : Grp), Issues s o.core o.face (!(isCc o.face && e.2 == 16)) [dataUse o.rd e.2
      false, addrUse o.ra] g ∧ g.lanes.filter (fun l => (rdReg s g l o.ra.toNat true + o.imm.signExtend 64).toNat % e.2 ≠ 0) ≠ []) ∧
    (∃ e ∈ [(Instr.ldAcq, false), (Instr.stRel, true)], ∃ (o : AcqOp) (s : State) (g : Grp), Issues s o.core o.face (if e.2 then
      sizeOk o.face true o.size else !o.scope && sizeOk o.face false o.size) [dataUse o.rd (sizeBytes o.size) (!e.2), addrUse
      o.ra] g ∧ g.lanes.filter (fun l => (rdReg s g l o.ra.toNat true + o.off.signExtend 64).toNat % sizeBytes o.size ≠ 0) ≠ []) ∧
    (∃ e ∈ [(Instr.lds, false), (Instr.sts, true)], ∃ (o : SpaOp) (s : State) (g : Grp), Issues s o.core o.face (sizeOk o.face e.2
      o.size) [dataUse o.rd (sizeBytes o.size) (!e.2), ⟨o.ra.toNat, 1, false⟩] g ∧ g.lanes.filter (fun l => spAddr s g l o.ra
      (o.off.signExtend 32) % sizeBytes o.size ≠ 0) ≠ []) ∧
    (∃ e ∈ amoForms, ∃ (o : AmoOp) (s : State) (g : Grp), Issues s o.core o.face true (amoUses o) g ∧ g.lanes.filter (fun l => (if
      o.space then spAddr s g l o.ra 0 else (rdReg s g l o.ra.toNat true).toNat) % (if o.w then 8 else 4) ≠ 0) ≠ []) :=
  ⟨⟨_, (List.Mem.tail _ (List.Mem.tail _ (List.Mem.head _))), ⟨0, .cc, 1, 2, 1⟩, s0, gc, by unfold Issues; decide +kernel,
      by decide +kernel⟩,
    ⟨_, (List.Mem.tail _ (List.Mem.head _)), ⟨0, .cc, 1, 2, 1⟩, s0, gc, by unfold Issues; decide +kernel, by decide +kernel⟩,
    ⟨_, (List.Mem.head _), ⟨0, .cc, 1, 2, 6, false, 4⟩, s0, gc, by unfold Issues; decide +kernel, by decide +kernel⟩,
    ⟨_, (List.Mem.head _), ⟨0, .cc, 1, 2, 4, 2⟩, s0, gc, by unfold Issues; decide +kernel, by decide +kernel⟩,
    ⟨_, (List.Mem.head _), ⟨0, .cc, 1, 2, 3, true, false, false, false⟩, sBar, gc, by unfold Issues; decide +kernel,
      by decide +kernel⟩⟩

theorem wit_ScratchpadAccessesComplete :
    ∃ e ∈ [(Instr.lds, false), (Instr.sts, true)], ∃ (o : SpaOp) (s t : State) (g : Grp), Issues s o.core o.face (sizeOk o.face e.2
      o.size) [dataUse o.rd (sizeBytes o.size) (!e.2), ⟨o.ra.toNat, 1, false⟩] g ∧ cPortBad s g (fun l => spAddr s g l o.ra
      (o.off.signExtend 32)) (sizeBytes o.size) = none ∧ cPortBad (unwait s g) g (fun l => spAddr (unwait s g) g l o.ra
      (o.off.signExtend 32)) (sizeBytes o.size) = none ∧ runLanes g (spClash g e.2 (sizeBytes o.size) (fun s l => spAddr s g l
      o.ra (o.off.signExtend 32))) (fun l s => spLane s.newId.2 g l (spWant o e.2 g s l)) (unwait s g) = .part t g.lanes :=
  ⟨_, (List.Mem.head _), ⟨0, .cc, 1, 2, 4, 0⟩, sPad, _, gc, by unfold Issues; decide +kernel, by decide +kernel, by decide +kernel,
    part_of (by decide +kernel)⟩

theorem wit_AtomicsComplete :
    (∃ e ∈ amoForms, ∃ (o : AmoOp) (s t : State) (g : Grp), Issues s o.core o.face true (amoUses o) g ∧ (if o.space then cPortBad s g
      (fun l => spAddr s g l o.ra 0) (if o.w then 8 else 4) = none ∧ cPortBad (unwait s g) g (fun l => spAddr (unwait s g) g l
      o.ra 0) (if o.w then 8 else 4) = none ∧ runLanes g (spClash g true (if o.w then 8 else 4) (fun s l => spAddr s g l o.ra 0))
      (fun l s => afterRel o.rl false g s.mem.nextId l (fun s => spLane s.newId.2 g l (amoSp o e.2 g s l)) s) (unwait s g) = .part
      t g.lanes else laneFaults s g (amoWant o e.2 g s) = none ∧ memRunWith (afterRel o.rl false) g (amoWant o e.2 g) (unwait s g)
      = .part t g.lanes)) ∧
    (∃ e ∈ amoForms, ∃ (o : AmoOp) (s : State) (g : Grp) (l : Nat), o.w = true ∧ orderBlock s g.k (g.req l) = none ∧ transitBlock
      (s.core g.k).sp (s.core g.k).sp.pmap (spAddr s g l o.ra 0) 8 = false ∧ heldSp s g.k s.newId.1 false (s.core g.k).sp.pmap
      (spAddr s g l o.ra 0) 8 true = false ∧ behindLower (s.core g.k).sp (amoSp o e.2 g s l) = false) :=
  ⟨⟨_, (List.Mem.head _), ⟨0, .cc, 1, 2, 3, true, true, true, true⟩, sPad, _, gc, by unfold Issues; decide +kernel, (if_pos rfl).mpr
      ⟨by decide +kernel, by decide +kernel, part_of (by decide +kernel)⟩⟩,
    ⟨_, (List.Mem.head _), ⟨0, .cc, 1, 2, 3, true, true, false, false⟩, sPad, gc, 0, by decide +kernel, by decide +kernel,
      by decide +kernel, by decide +kernel, by decide +kernel⟩⟩

theorem wit_OrderingComplete :
    (∃ (o : OrdOp) (s t : State) (g : Grp), Issues s o.core o.face (o.rd == 0 && o.ra == 0 && o.rb == 0) [] g ∧ orderBlock (unwait s
      g) g.k (g.req (g.lanes.headD 0)) = none ∧ runLanes g noClash (fun l s => afterRel true o.fn0 g (unwait s g).mem.nextId l
      .done s) (unwait s g) = .part t g.lanes) ∧
    (∃ (o : OrdOp) (s t : State) (g : Grp), Issues s o.core o.face (!o.fn0 && o.rd == 0 && o.ra == 0 && o.rb == 0) [] g ∧ acquire g
      (fun s _ => remKeys s g.k) (unwait s g) = .part t g.lanes) ∧
    (∃ (o : OrdOp) (s t : State) (g : Grp), Issues s o.core o.face (!o.fn0 && o.rd == 0) [useOf o.ra true false, useOf o.rb true
      false] g ∧ acqFault s g o = none ∧ acqFault (unwait s g) g o = none ∧ acquire g (fun s l => rangeKeys s g.k (rdReg s g l
      o.ra.toNat true).toNat (rdReg s g l o.rb.toNat true).toNat) (unwait s g) = .part t g.lanes) :=
  ⟨⟨⟨0, .cc, 0, 0, 0, true⟩, s0, _, gc, by unfold Issues; decide +kernel, by decide +kernel, part_of (by decide +kernel)⟩,
    ⟨⟨0, .cv 0, 0, 0, 0, false⟩, s0, _, gv, by unfold Issues; decide +kernel, part_of (by decide +kernel)⟩,
    ⟨⟨0, .cc, 0, 1, 2, false⟩, s0, _, gc, by unfold Issues; decide +kernel, by decide +kernel, by decide +kernel, part_of
      (by decide +kernel)⟩⟩

theorem wit_BarriersComplete :
    ∃ e ∈ [(Instr.barSync, true), (Instr.barArrive, false)], ∃ (o : BarOp) (s t : State) (g : Grp), Issues s o.core o.face (o.rd == 0
      && o.rb == 0) [⟨o.ra.toNat, 1, false⟩] g ∧ g.lanes.any (fun l => (rdReg (unwait s g) g l o.ra.toNat false).toNat = 0 ||
      decide (1025 < (rdReg (unwait s g) g l o.ra.toNat false).toNat)) = false ∧ g.lanes.foldl (fun (x : Bool × State) l => (x.1
      && (relThread x.2 g.k (g.req l)).1, (relThread x.2 g.k (g.req l)).2)) (true, unwait s g) = (true, t) :=
  ⟨_, (List.Mem.head _), ⟨0, .cc, 0, 3, 0, 15⟩, sBar, _, gc, by unfold Issues; decide +kernel, by decide +kernel, pair_of
    (by decide +kernel)⟩

theorem wit_CacheInvalidateCompletes :
    (∃ (o : RrrOp) (s : State) (g : Grp), privileged s o.core = true ∧ Issues s o.core o.face (isCc o.face && !o.w && o.rd == 0)
      [useOf o.ra true false, useOf o.rb true false] g) ∧
    (∃ (o : RrrOp) (s : State) (g : Grp), privileged s o.core = false ∧ offer s o.core o.face = some g) :=
  ⟨⟨⟨0, .cc, false, 0, 1, 2⟩, s0, gc, by decide +kernel, by unfold Issues; decide +kernel⟩,
    ⟨⟨0, .cc, false, 0, 1, 2⟩, sUser, gc, by decide +kernel, by decide +kernel⟩⟩

theorem wit_SystemRegistersComplete :
    (∃ (o : RriOp) (s : State) (g : Grp), RegIssues s o (o.ra == 0) [useOf o.rd (isCc o.face) true] g ∧ o.imm.toNat % 2 ^ 12 ≠ 0x980 ∧
      sregWait ((unwait s g).core g.k) (o.imm.toNat % 2 ^ 12) false = none) ∧
    (∃ (o : RriOp) (s : State) (g : Grp), RegIssues s o (o.rd == 0) [useOf o.ra (isCc o.face) false] g ∧ sregWait ((unwait s g).core
      g.k) (o.imm.toNat % 2 ^ 12) true = none) :=
  ⟨⟨⟨0, .cc, 1, 0, 0x301⟩, s0, gc, by unfold RegIssues Issues; decide +kernel, by decide +kernel, by decide +kernel⟩,
    ⟨⟨0, .cc, 0, 1, 0x204⟩, s0, gc, by unfold RegIssues Issues; decide +kernel, by decide +kernel⟩⟩

theorem wit_ControlInstructionsComplete :
    (∃ (o : RrrOp) (s : State) (g : Grp), Issues s o.core o.face (ctlFields o) [] g) ∧
    (∃ (o : RrrOp) (s : State) (g : Grp), Issues s o.core o.face (ctlFields o && !isCc o.face) [] g) ∧
    (∃ (o : RrrOp) (s : State) (g : Grp), Issues s o.core o.face (ctlFields o && isCc o.face) [] g) ∧
    (∃ (o : RrrOp) (s : State) (g : Grp), Issues s o.core o.face (ctlFields o && !isCc o.face) [] g ∧ divergeFault s g true = none) ∧
    (∃ (o : RrrOp) (s : State) (g : Grp), Issues s o.core o.face (ctlFields o && !isCc o.face) [] g ∧ divergeFault s g false = none) ∧
    (∃ (o : RrrOp) (s : State) (g : Grp) (n i : Nat), Issues s o.core o.face (ctlFields o) [] g ∧ ((unwait s g).core g.k).ctx = some
      (n, i) ∧ bit (((unwait s g).ctx n).desc.headD 0) 61 = true) :=
  ⟨⟨⟨0, .cc, false, 0, 0, 0⟩, s0, gc, by unfold Issues; decide +kernel⟩,
    ⟨⟨0, .cv 0, false, 0, 0, 0⟩, s0, gv, by unfold Issues; decide +kernel⟩,
    ⟨⟨0, .cc, false, 0, 0, 0⟩, s0, gc, by unfold Issues; decide +kernel⟩,
    ⟨⟨0, .cv 0, false, 0, 0, 0⟩, s0, gv, by unfold Issues; decide +kernel, by decide +kernel⟩,
    ⟨⟨0, .cv 0, false, 0, 0, 0⟩, s0, gv, by unfold Issues; decide +kernel, by decide +kernel⟩,
    ⟨⟨0, .cc, false, 0, 0, 0⟩, s0, gc, 0, 0, by unfold Issues; decide +kernel, by decide +kernel, by decide +kernel⟩⟩

theorem wit_CaravansComplete :
    (∃ l r : Nat, l < 32 ∧ 4 ≤ r ∧ r < 64) ∧
    (∃ (o : LaunchOp) (s : State) (g : Grp), Issues s o.core o.face (isCc o.face && o.fn == 0) [⟨o.rd.toNat, 1, false⟩, ⟨o.ra.toNat,
      1, false⟩, ⟨o.rb.toNat, 1, false⟩] g ∧ (maskCvs ((((unwait s g).core g.k).sreg o.rd.toNat).setWidth 32)).any (fun v =>
      !(((unwait s g).core g.k).cv v).isIdle) = true) ∧
    (∃ (o : LaunchOp) (s : State) (g : Grp), Issues s o.core o.face (isCc o.face && o.fn == 0 && o.rd == 0 && o.rb == 0) [⟨o.ra.toNat,
      1, false⟩] g ∧ (maskCvs ((((unwait s g).core g.k).sreg o.ra.toNat).setWidth 32)).all (fun v => (((unwait s g).core g.k).cv
      v).isIdle) = false) ∧
    (∃ (o : LaunchOp) (s : State) (g : Grp), Issues s o.core o.face (isCc o.face && o.fn == 0) [⟨o.rd.toNat, 1, false⟩, ⟨o.ra.toNat,
      1, false⟩, ⟨o.rb.toNat, 1, false⟩] g ∧ (maskCvs ((((unwait s g).core g.k).sreg o.rd.toNat).setWidth 32)).any (fun v =>
      !(((unwait s g).core g.k).cv v).isIdle) = false) ∧
    (∃ (o : LaunchOp) (s : State) (g : Grp), Issues s o.core o.face (isCc o.face && o.fn == 0 && o.rd == 0 && o.rb == 0) [⟨o.ra.toNat,
      1, false⟩] g ∧ (maskCvs ((((unwait s g).core g.k).sreg o.ra.toNat).setWidth 32)).all (fun v => (((unwait s g).core g.k).cv
      v).isIdle) = true) ∧
    (∃ (o : MmaOp) (s : State) (g : Grp), mmaOk o = true ∧ Issues s o.core o.face (!isCc o.face && o.rsvHi == 0 && o.rsvLo == 0)
      (regSpan o.xb.toNat (mmaXn o) false ++ regSpan o.wb.toNat (mmaWn o) false ++ regSpan o.cb.toNat 32 true ++ (if isBlock
      o.xfmt.toNat then regSpan o.sb.toNat 1 false else [])) g ∧ divergeFault s g false = none) :=
  ⟨⟨31, 63, by decide, by decide, by decide⟩,
    ⟨⟨0, .cc, 3, 1, 2, 0⟩, sBar, gc, by unfold Issues; decide +kernel, by decide +kernel⟩,
    ⟨⟨0, .cc, 0, 3, 0, 0⟩, sBar, gc, by unfold Issues; decide +kernel, by decide +kernel⟩,
    ⟨⟨0, .cc, 3, 1, 2, 0⟩, { sBar with cores := [(0, { core0 with cvs := [], sregs := [(3, 1025)] })] }, gc,
      by unfold Issues; decide +kernel, by decide +kernel⟩,
    ⟨⟨0, .cc, 0, 3, 0, 0⟩, s0, gc, by unfold Issues; decide +kernel, by decide +kernel⟩,
    ⟨mma0, s0, gv, by decide +kernel, by unfold Issues; decide +kernel, by decide +kernel⟩⟩

theorem wit_CollectivesComplete :
    (∃ (k : Fin 256) (s : State), coreRuns s k = true ∧ (s.core k).kend = 1 ∧ coreDrained (s.core k) = true ∧ coreQuiet (flushCore s
      k) k = true) ∧
    (∃ (k : Fin 256) (v : Fin 32) (s : State) (op : MmaOp), coreRuns s k = true ∧ ((s.core k).cv v).parked ≠ [] ∧ (∀ l < 32, ((s.core
      k).cv v).state l = .idle ∨ ((s.core k).cv v).state l = .parked) ∧ ((s.core k).cv v).parkOp = some op ∧ ((s.core k).cv
      v).coll = none) ∧
    (∃ (k : Fin 256) (s : State) (v sec : Nat) (rest : List Nat) (q : Coll), coreRuns s k = true ∧ (s.core k).mx.converged = v :: rest
      ∧ ((s.core k).cv v).coll = some q ∧ (List.range 16).find? (fun i => (tfind (s.core k).mx.sections i).isNone) = some sec ∧
      (s.core k).mx.mode = .sections ∧ geomR q.op.xfmt.toNat ≤ (s.budget k).mx) ∧
    (∃ (k : Fin 256) (sec : Fin 16) (s : State) (v : Nat), tfind (s.core k).mx.sections sec = some v) ∧
    (∃ (k : Fin 256) (v : Fin 32) (s : State) (q : Coll), ((s.core k).cv v).coll = some q ∧ q.phase = 3) :=
  ⟨⟨0, (onCore (fun c => { c with kend := 1, cvs := [] })), by decide +kernel, by decide +kernel, by decide +kernel,
      by decide +kernel⟩,
    ⟨0, 0, sPark, mma0, by decide +kernel, by decide +kernel, by decide +kernel, by decide +kernel, by decide +kernel⟩,
    ⟨0, (sColl 1 [0] [] .sections), 0, 0, [], _, by decide +kernel, by decide +kernel, rfl, by decide +kernel, by decide +kernel,
      by decide +kernel⟩,
    ⟨0, 15, (sColl 2 [] [(15, 0)] .sections), 0, by decide +kernel⟩,
    ⟨0, 0, (sColl 3 [] [] .sections), _, rfl, rfl⟩⟩

theorem wit_MatrixInstructionsComplete :
    (∃ (o : RrrOp) (s : State) (g : Grp), Issues s o.core o.face (isCc o.face && !o.w && o.rd.toNat / 8 == 0) [⟨o.ra.toNat, 1, false⟩,
      ⟨o.rb.toNat, 1, false⟩] g) ∧
    (∃ e ∈ [(Instr.mtRdl, 0), (Instr.mtRdh, 64)], ∃ (o : RrrOp) (s : State) (g : Grp), Issues s o.core o.face (isCc o.face && !o.w &&
      o.rb == 0 && o.ra.toNat / 8 == 0) [⟨o.rd.toNat, 1, true⟩] g) ∧
    (∃ (o : RrrOp) (s : State) (g : Grp), Issues s o.core o.face (isCc o.face && !o.w && o.ra == 0 && o.rb == 0 && o.rd.toNat / 8 ==
      0) [] g ∧ orderBlock (unwait s g) g.k .cc = none ∧ ((unwait s g).core g.k).mx.queue.length < 16) ∧
    (∃ (o : RrrOp) (s : State) (g : Grp), Issues s o.core o.face (isCc o.face && !o.w && o.rd == 0) [⟨o.ra.toNat, 1, false⟩,
      ⟨o.rb.toNat, 1, false⟩] g ∧ orderBlock (unwait s g) g.k .cc = none ∧ ((unwait s g).core g.k).mx.queue.length < 16) :=
  ⟨⟨⟨0, .cc, false, 7, 1, 2⟩, s0, gc, by unfold Issues; decide +kernel⟩,
    ⟨_, (List.Mem.head _), ⟨0, .cc, false, 1, 7, 0⟩, s0, gc, by unfold Issues; decide +kernel⟩,
    ⟨⟨0, .cc, false, 7, 0, 0⟩, s0, gc, by unfold Issues; decide +kernel, by decide +kernel, by decide +kernel⟩,
    ⟨⟨0, .cc, false, 0, 1, 2⟩, s0, gc, by unfold Issues; decide +kernel, by decide +kernel, by decide +kernel⟩⟩

theorem wit_PassStagesComplete :
    (∃ (k : Fin 256) (s : State) (i : Nat) (q : MxCmd), coreRuns s k = true ∧ NoDrainDue s k ∧ nextPass (s.core k) = some (i, q) ∧
      q.state = .queued ∧ passBad s k i q = none) ∧
    (∃ (k : Fin 256) (s : State) (i : Nat) (q : MxCmd), coreRuns s k = true ∧ nextPass (s.core k) = some (i, q) ∧ q.state = .loading ∧
      runWaits s k q ⟨false, ((64 * mtWAddr q.desc + 64 * q.bands : Nat) : Int), (64 * mtWStride q.desc : Nat), min 64 (wColBytes
      q.desc - 64 * q.bands), 128, false⟩ = false ∧ (q.bands = 0 → runWaits s k q (wExpRun q.desc) = false)) ∧
    (∃ (k : Fin 256) (s : State) (i : Nat) (q : MxCmd), coreRuns s k = true ∧ NoDrainDue s k ∧ nextPass (s.core k) = some (i, q) ∧
      q.step = 0 ∧ frontReady s k i q = true ∧ admitsPass s k (bigPass s k q.desc) q.desc = true) ∧
    (∃ (k : Fin 256) (s : State) (i : Nat) (q : MxCmd), findMx (s.core k) (fun q => !q.drain && q.state == .running) = some (i, q)) :=
  ⟨⟨0, (sMx [pass0 .queued 0] .idle), _, _, by decide +kernel, by unfold NoDrainDue; decide +kernel, rfl, rfl, by decide +kernel⟩,
    ⟨0, (sMx [pass0 .loading 0] .idle), _, _, by decide +kernel, rfl, rfl, by decide +kernel, by decide +kernel⟩,
    ⟨0, (sMx [pass0 .ready 0] .stream), _, _, by decide +kernel, by unfold NoDrainDue; decide +kernel, rfl, rfl, by decide +kernel,
      by decide +kernel⟩,
    ⟨0, (sMx [pass0 .running 0] .stream), _, _, rfl⟩⟩

theorem wit_AccumulationCompletes :
    (∃ (k : Fin 256) (s : State) (i : Nat) (q : MxCmd), findMx (s.core k) (fun q => !q.drain && q.fronted && decide (q.vec < mtM
      q.desc)) = some (i, q) ∧ rowsFree s k i q ∧ (mtTop q.desc = 1 → (tfind (s.core k).mx.link (linkKey q.step q.vec 127)).isSome
      = true)) ∧
    (∃ (k : Fin 256) (s : State) (i : Nat) (q : MxCmd), findMx (s.core k) (fun q => !q.drain && q.fronted && !q.xslots.isEmpty &&
      decide (q.xrel < mtM q.desc)) = some (i, q)) ∧
    (∃ (k : Fin 256) (s : State) (i : Nat) (q : MxCmd), findMx (s.core k) (fun q => !q.drain && q.fronted) = some (i, q) ∧ q.state =
      .flushing ∧ mtM q.desc ≤ q.vec ∧ ((q.xslots = [] ∨ mtM q.desc ≤ q.xrel))) :=
  ⟨⟨0, (sMx [{ pass0 .running 0 with fronted := true }] .stream), _, _, rfl, by unfold rowsFree; decide +kernel, by decide +kernel⟩,
    ⟨0, (sMx [{ pass0 .running 0 with fronted := true, xslots := [8192] }] .stream), _, _, rfl⟩,
    ⟨0, (sMx [{ pass0 .flushing 0 with fronted := true, vec := 1 }] .stream), _, _, rfl, rfl, by decide +kernel, by decide +kernel⟩⟩

theorem wit_DrainRowCompletes :
    ∃ (k : Fin 256) (s : State) (i : Nat) (q : MxCmd), coreRuns s k = true ∧ NoDrainDue s k ∧ findMx (s.core k) (fun q => q.drain) =
      some (i, q) ∧ q.agreed = true ∧ (∀ e ∈ (s.core k).mx.queue.take i, e.toAcc = false) ∧ (∀ r ∈ [drRun q.desc, drExpRun
      q.desc], runWaits s k q r = false) :=
  ⟨0, (sMx [drain0] .idle), _, _, by decide +kernel, by unfold NoDrainDue; decide +kernel, rfl, rfl, by decide +kernel,
    by decide +kernel⟩

theorem wit_ArrayModesAndChainsComplete :
    (∃ (k : Fin 256) (s : State), (s.core k).mx.mode = .stream ∧ (s.core k).mx.queue.any (fun q => !q.drain && (q.fronted || q.go) &&
      decide (q.vec < mtM q.desc)) = false ∧ ((readyPass (s.core k).mx = false ∨ Matrix.yields (s.core k).mx = true))) ∧
    (∃ (k : Fin 256) (s : State), (s.core k).mx.window = true ∧ (s.core k).mx.mode = .sections) ∧
    (∃ (k : Fin 256) (s : State) (n : Nat) (l : List (Nat × Nat × MxCmd)), coreRuns s k = true ∧ firstStep s k (fun q => !q.agreed) =
      some n ∧ stepOf s k n = some l ∧ (∀ e ∈ l, e.2.2.state ≠ .queued)) ∧
    (∃ (k : Fin 256) (s : State) (n : Nat) (e : Nat × Nat × MxCmd) (l : List (Nat × Nat × MxCmd)), coreRuns s k = true ∧ firstStep s k
      (fun q => !q.fronted) = some n ∧ stepOf s k n = some (e :: l) ∧ (∀ x ∈ e :: l, x.2.2.agreed = true ∧ x.2.2.go = false ∧
      x.2.2.fronted = false ∧ frontReady s x.1 x.2.1 x.2.2 = true ∧ admitsPass s x.1 ((e :: l).any (fun y => bigPass s y.1
      y.2.2.desc)) x.2.2.desc = true)) ∧
    (∃ (k : Fin 256) (s : State) (i : Nat) (q : MxCmd), findMx (s.core k) (fun q => !q.drain && q.go && !q.fronted) = some (i, q) ∧ (∀
      e ∈ (s.core (k.val - 1)).mx.queue, ¬ (e.drain = false ∧ e.step = q.step ∧ e.go = true ∧ e.fronted = false))) :=
  ⟨⟨0, (sMx [] .stream), by decide +kernel, by decide +kernel, by decide +kernel⟩,
    ⟨0, (onCore (fun c => { c with mx := { c.mx with mode := .sections, window := true } })), by decide +kernel, by decide +kernel⟩,
    ⟨0, (sChain (pass0 .loading 1)), _, _, by decide +kernel, rfl, rfl, by decide +kernel⟩,
    ⟨0, (sChain { pass0 .ready 1 with agreed := true }), _, _, _, by decide +kernel, rfl, rfl, by decide +kernel⟩,
    ⟨1, { sChain { pass0 .ready 1 with go := true } with cores := (sChain { pass0 .ready 1 with go := true }).cores.drop 1 }, _, _,
      rfl, by decide +kernel⟩⟩

theorem wit_VectorInstructionsComplete :
    ∃ e ∈ vectorForms, ∃ (o : VecOp) (s : State) (g : Grp), Issues s o.core o.face (vecLegal o ⟨e.2.1, e.2.2.1, e.2.2.2.1,
      e.2.2.2.2.1, e.2.2.2.2.2.1, e.2.2.2.2.2.2⟩) (if e.2.2.2.1 || e.2.2.2.2.1 then [⟨o.sd.toNat, 1, e.2.2.2.2.1⟩] else []) g ∧
      orderBlock (unwait s g) g.k .cc = none ∧ ((unwait s g).core g.k).ve.queue.length + ((unwait s g).core g.k).ve.chans.length <
      32 :=
  ⟨_, (List.Mem.head _), ⟨0, .cc, 3, false, 0, 0, 31, 1, 2, 3, true, 0⟩, s0, gc, by unfold Issues; decide +kernel,
    by decide +kernel, by decide +kernel⟩

theorem wit_VectorElementResults :
    (∃ fmt, fmt = 6 ∨ fmt = 7) ∧
    (∃ fmt, fmt = 6 ∨ fmt = 7) :=
  ⟨⟨7, by decide⟩,
    ⟨6, by decide⟩⟩

theorem wit_VectorQueueHeadCompletes :
    (∃ (k : Fin 256) (s : State) (v : VeInstr) (rest : List VeInstr), ∃ b, coreRuns s k = true ∧ (s.core k).ve.queue = v :: rest ∧
      v.done = false ∧ v.started = false ∧ veCheck (s.core k).sp (headOf s k v) = some b) ∧
    (∃ (k : Fin 256) (s : State) (v : VeInstr) (rest : List VeInstr), coreRuns s k = true ∧ (s.core k).ve.queue = v :: rest ∧ v.done =
      false ∧ v.started = false ∧ veCheck (s.core k).sp (headOf s k v) = none ∧ (v.op = 0x3B ∧ v.fn = 0x14)) ∧
    (∃ (k : Fin 256) (s : State) (v : VeInstr) (rest : List VeInstr), ∃ e ∈ [(0x10, 0, 0xFFFFFFFFFFFFF000#64), (0x11, 1,
      0xFFFFFFFFF8000000#64)], coreRuns s k = true ∧ (s.core k).ve.queue = v :: rest ∧ v.done = false ∧ v.started = false ∧
      veCheck (s.core k).sp (headOf s k v) = none ∧ (v.op = 0x3B ∧ v.fn = e.1) ∧ twfFrom 0#64 none (s.core k).ve.win = true) ∧
    (∃ (k : Fin 256) (s : State) (v : VeInstr) (rest : List VeInstr), ∃ e ∈ [(0x12, tget 0 (s.core k).ve.win (2 * v.va)), (0x13, tget
      0 (s.core k).ve.win (2 * v.va + 1)), (0x15, BitVec.ofNat 64 (s.core k).ve.vl)], coreRuns s k = true ∧ (s.core k).ve.queue =
      v :: rest ∧ v.done = false ∧ v.started = false ∧ veCheck (s.core k).sp (headOf s k v) = none ∧ (v.op = 0x3B ∧ v.fn = e.1) ∧
      twfFrom 0#64 none (s.core k).sregs = true ∧ 0 < v.sd) ∧
    (∃ (k : Fin 256) (s : State) (v : VeInstr) (rest : List VeInstr), coreRuns s k = true ∧ (s.core k).ve.queue = v :: rest ∧ v.done =
      false ∧ v.started = false ∧ veCheck (s.core k).sp (headOf s k v) = none ∧ (v.op = 0x3B ∧ v.fn < 4) ∧ tfind (s.core
      k).ve.chans (v.fn / 2) = none) ∧
    (∃ (k : Fin 256) (s : State) (v : VeInstr) (rest : List VeInstr), coreRuns s k = true ∧ (s.core k).ve.queue = v :: rest ∧ v.done =
      false ∧ v.started = false ∧ veCheck (s.core k).sp (headOf s k v) = none ∧ (v.op = 0x3B ∧ v.fn < 4) ∧ (tfind (s.core
      k).ve.chans (v.fn / 2)).isSome = true) ∧
    (∃ (k : Fin 256) (s : State) (v : VeInstr) (rest : List VeInstr), coreRuns s k = true ∧ (s.core k).ve.queue = v :: rest ∧ v.done =
      false ∧ v.started = false ∧ veCheck (s.core k).sp (headOf s k v) = none ∧ v.op ≠ 0x3B) ∧
    (∃ (k : Fin 256) (s : State) (v : VeInstr) (rest : List VeInstr), coreRuns s k = true ∧ (s.core k).ve.queue = v :: rest ∧ v.done =
      false ∧ v.started = true ∧ v.op ≠ 0x3B) ∧
    (∃ (k : Fin 256) (s : State), coreRuns s k = false ∨ (s.core k).ve.queue = [] ∨ (∃ v rest, (s.core k).ve.queue = v :: rest ∧
      v.done = true)) :=
  ⟨⟨0, (sWin ({ ve1 0x3B 0x14 false with s := 0x20000 }) [] false), { ve1 0x3B 0x14 false with s := 0x20000 }, [], _,
      by decide +kernel, by decide +kernel, by decide +kernel, by decide +kernel, isSome_eq (by decide +kernel)⟩,
    ⟨0, (sWin ({ ve1 0x3B 0x14 false with s := 0x10000 }) [] false), { ve1 0x3B 0x14 false with s := 0x10000 }, [], by decide +kernel,
      by decide +kernel, by decide +kernel, by decide +kernel, by decide +kernel, by decide +kernel⟩,
    ⟨0, (sWin ({ ve1 0x3B 0x10 false with vd := 31 }) [] false), { ve1 0x3B 0x10 false with vd := 31 }, [], _, (List.Mem.head _),
      by decide +kernel, by decide +kernel, by decide +kernel, by decide +kernel, by decide +kernel, by decide +kernel,
      by decide +kernel⟩,
    ⟨0, (sWin ({ ve1 0x3B 0x12 false with va := 31 }) [] false), { ve1 0x3B 0x12 false with va := 31 }, [], _, (List.Mem.head _),
      by decide +kernel, by decide +kernel, by decide +kernel, by decide +kernel, by decide +kernel, by decide +kernel,
      by decide +kernel, by decide +kernel⟩,
    ⟨0, (sWin (ve1 0x3B 3 false) [] false), (ve1 0x3B 3 false), [], by decide +kernel, by decide +kernel, by decide +kernel,
      by decide +kernel, by decide +kernel, by decide +kernel, by decide +kernel⟩,
    ⟨0, (sWin (ve1 0x3B 3 false) [(1, ve1 0x3B 3 true)] false), (ve1 0x3B 3 false), [], by decide +kernel, by decide +kernel,
      by decide +kernel, by decide +kernel, by decide +kernel, by decide +kernel, by decide +kernel⟩,
    ⟨0, (sWin (ve1 0x39 0x18 false) [] false), (ve1 0x39 0x18 false), [], by decide +kernel, by decide +kernel, by decide +kernel,
      by decide +kernel, by decide +kernel, by decide +kernel⟩,
    ⟨0, (sWin (ve1 0x39 0x18 true) [] false), (ve1 0x39 0x18 true), [], by decide +kernel, by decide +kernel, by decide +kernel,
      by decide +kernel, by decide +kernel⟩,
    ⟨0, s0, .inr (.inl (by decide +kernel))⟩⟩

theorem wit_VectorCompleteCompletes :
    (∃ (k : Fin 256) (s : State) (v : VeInstr) (rest : List VeInstr), coreRuns s k = true ∧ (s.core k).ve.queue = v :: rest ∧
      v.finished = true) ∧
    (∃ (k : Fin 256) (s : State) (v : VeInstr) (rest : List VeInstr), coreRuns s k = true ∧ (s.core k).ve.queue = v :: rest ∧
      v.finished = false ∧ v.started = false) ∧
    (∃ (k : Fin 256) (s : State) (v : VeInstr) (rest : List VeInstr), ∃ w r, coreRuns s k = true ∧ (s.core k).ve.queue = v :: rest ∧
      v.finished = false ∧ v.started = true ∧ ((veRun s k v).core k).ve.queue = w :: r ∧ w.finished = true) ∧
    (∃ (k : Fin 256) (s : State) (v : VeInstr) (rest : List VeInstr), ∃ w r, coreRuns s k = true ∧ (s.core k).ve.queue = v :: rest ∧
      v.finished = false ∧ v.started = true ∧ ((veRun s k v).core k).ve.queue = w :: r ∧ w.finished = false) ∧
    (∃ (k : Fin 256) (ch : Fin 2) (s : State), ∃ v, coreRuns s k = true ∧ (tfind (s.core k).ve.chans ch).isSome = true ∧ tfind
      ((chanRun s k ch).core k).ve.chans ch = some v ∧ v.vl ≤ v.idx) ∧
    (∃ (k : Fin 256) (ch : Fin 2) (s : State), ∃ v, coreRuns s k = true ∧ (tfind (s.core k).ve.chans ch).isSome = true ∧ tfind
      ((chanRun s k ch).core k).ve.chans ch = some v ∧ v.idx < v.vl) ∧
    (∃ (k : Fin 256) (ch : Fin 2) (s : State), (coreRuns s k = false ∨ tfind (s.core k).ve.chans ch = none)) ∧
    (∃ (k : Fin 256) (s : State), (coreRuns s k = false ∨ (s.core k).ve.queue = [])) :=
  ⟨⟨0, (sWin ({ ve1 0x3A 0 true with idx := 1, rd := 1 }) [] false), { ve1 0x3A 0 true with idx := 1, rd := 1 }, [],
      by decide +kernel, by decide +kernel, by decide +kernel⟩,
    ⟨0, (sWin (ve1 0x3A 0 false) [] false), (ve1 0x3A 0 false), [], by decide +kernel, by decide +kernel, by decide +kernel,
      by decide +kernel⟩,
    ⟨0, (sWin (ve1 0x39 0x18 true) [] false), (ve1 0x39 0x18 true), [], _, _, by decide +kernel, by decide +kernel, by decide +kernel,
      by decide +kernel, cons_of (by decide +kernel), by decide +kernel⟩,
    ⟨0, (sWin (ve1 0x39 0x0F true) [] true), (ve1 0x39 0x0F true), [], _, _, by decide +kernel, by decide +kernel, by decide +kernel,
      by decide +kernel, cons_of (by decide +kernel), by decide +kernel⟩,
    ⟨0, 1, (sWin (ve0 0x39 false) [(1, { ve1 0x3B 3 true with idx := 1, rd := 1 })] false), _, by decide +kernel, by decide +kernel,
      isSome_eq (by decide +kernel), by decide +kernel⟩,
    ⟨0, 1, (sWin (ve0 0x39 false) [(1, ve1 0x3B 3 true)] true), _, by decide +kernel, by decide +kernel, isSome_eq
      (by decide +kernel), by decide +kernel⟩,
    ⟨0, 0, (sVe (ve0 0x3B true)), .inr (by decide +kernel)⟩,
    ⟨255, s0, .inr (by decide +kernel)⟩⟩

theorem wit_DmaInstructionsComplete :
    (∃ (o : RrrOp) (s t : State) (g : Grp), Issues s o.core o.face (isCc o.face && !o.w && o.rb == 0) [⟨o.rd.toNat, 1, true⟩,
      ⟨o.ra.toNat, 1, false⟩] g ∧ laneFaults s g (fun _ => descWant o g s) = none ∧ laneFaults (unwait s g) g (fun _ => descWant o
      g (unwait s g)) = none ∧ ((unwait s g).core g.k).dma.queue.length < 64 ∧ laneAccess (unwait s g) g (unwait s g).mem.nextId 0
      (descWant o g (unwait s g)) = .done t) ∧
    (∃ (o : RrrOp) (s : State) (g : Grp), Issues s o.core o.face (isCc o.face && !o.w && o.rd == 0 && o.rb == 0) [⟨o.ra.toNat, 1,
      false⟩] g ∧ (∀ a ∈ ((unwait s g).core g.k).acc, a.op ≠ .desc) ∧ (∀ q ∈ ((unwait s g).core g.k).dma.queue, (rdReg (unwait s
      g) g 0 o.ra.toNat true).toNat < q.seq)) :=
  ⟨⟨⟨0, .cc, false, 1, 2, 0⟩, sMem, _, gc, by unfold Issues; decide +kernel, by decide +kernel, by decide +kernel, by decide +kernel,
      done_of (by decide +kernel)⟩,
    ⟨⟨0, .cc, false, 0, 1, 0⟩, (sDma (dma0 .queued 0 0)), gc, by unfold Issues; decide +kernel, by decide +kernel, by decide +kernel⟩⟩

theorem wit_DmaStagesComplete :
    (∃ (e : Fin 64) (k : Nat) (s : State) (q : DmaCmd), ∃ b, k / 8 = e.val / 2 ∧ nextDispatch s k = some q ∧ (∀ j, j / 8 = e.val / 2 →
      j ≠ k → nextDispatch s j = none) ∧ (∀ j, j / 8 = e.val / 2 → ∀ p ∈ (s.core j).dma.queue, p.stage ≠ .queued → p.engine ≠
      e.val) ∧ dmaCheck (s.core k).sp { q with stage := .dispatched, engine := e.val } = some b) ∧
    (∃ (e : Fin 64) (k : Nat) (s : State) (q : DmaCmd), k / 8 = e.val / 2 ∧ nextDispatch s k = some q ∧ (∀ j, j / 8 = e.val / 2 → j ≠
      k → nextDispatch s j = none) ∧ (∀ j, j / 8 = e.val / 2 → ∀ p ∈ (s.core j).dma.queue, p.stage ≠ .queued → p.engine ≠ e.val) ∧
      dmaCheck (s.core k).sp { q with stage := .dispatched, engine := e.val } = none) ∧
    (∃ (k : Fin 256) (seq : W64) (s s1 s2 s3 : State) (q q1 q2 q3 : DmaCmd) (cr : Tbl Nat), dmaFind s k seq.toNat = some q ∧ q.stage =
      .dispatched ∧ coreRuns s k = true ∧ cr = (if q.crAddr = 0 then [] else [(vpnOf q.crAddr, 0)]) ∧ dmaFindPages s k q 0
      ((q.pagesLeft false).map Prod.fst) = (s1, q1) ∧ dmaFindPages s1 k q1 1 ((q.pagesLeft true).map Prod.fst) = (s2, q2) ∧
      dmaFindPages s2 k q2 2 (cr.map Prod.fst) = (s3, q3) ∧ (∀ e ∈ q.pagesLeft false ++ q.pagesLeft true ++ cr, (q3.heldPage
      e.1).isSome = true ∨ ∃ f ∈ q3.failed, f.1 = e.1) ∧ q3.countPages ((q.pagesLeft false).map Prod.fst) ≤ 512 ∧ q3.countPages
      ((q.pagesLeft true).map Prod.fst) ≤ 512 ∧ (∀ x ∈ [(0, q.pagesLeft false), (1, q.pagesLeft true), (2, cr)], dmaSideFails
      (dmaPut s3 k q3) k q3 x.1 x.2 = [])) ∧
    (∃ (k : Fin 256) (seq : W64) (s : State) (q : DmaCmd), dmaFind s k seq.toNat = some q ∧ q.stage = .translated ∧ coreRuns s k =
      true ∧ dmaDirty s k q = [] ∧ dmaHeld s k q = false ∧ dmaWbOpen s k q = false) ∧
    (∃ (k : Fin 256) (seq : W64) (s : State) (q : DmaCmd), dmaFind (dmaRun s k seq.toNat) k seq.toNat = some q ∧ q.stage = .moving ∧
      q.doomed = 0 ∧ q.movedAll = true ∧ q.hostLast = none ∧ dmaFenced (dmaRun s k seq.toNat) k q.seq = false ∧ q.crAddr = 0) :=
  ⟨⟨1, 0, (sDma { dma0 .queued 0 0 with words := [at_ 62 3, 0, 0, 0, 0, 0, 0, 0] }),
      { dma0 .queued 0 0 with words := [at_ 62 3, 0, 0, 0, 0, 0, 0, 0] }, _, by decide +kernel, by decide +kernel, only_core_0
      (by decide +kernel), no_engine (by decide +kernel), isSome_eq (by decide +kernel)⟩,
    ⟨1, 0, (sDma (dma0 .queued 0 0)), (dma0 .queued 0 0), by decide +kernel, by decide +kernel, only_core_0 (by decide +kernel),
      no_engine (by decide +kernel), by decide +kernel⟩,
    ⟨0, 1, (sDma (dma0 .dispatched 0 0)), _, _, _, (dma0 .dispatched 0 0), _, _, _, _, by decide +kernel, by decide +kernel,
      by decide +kernel, rfl, rfl, rfl, rfl, by decide +kernel, by decide +kernel, by decide +kernel, by decide +kernel⟩,
    ⟨0, 1, (sDma (dma0 .translated 0 0)), (dma0 .translated 0 0), by decide +kernel, by decide +kernel, by decide +kernel,
      by decide +kernel, by decide +kernel, by decide +kernel⟩,
    ⟨0, 1, (sDma (dma0 .moving 1 1)), (dma0 .moving 1 1), by decide +kernel, by decide +kernel, by decide +kernel, by decide +kernel,
      by decide +kernel, by decide +kernel, by decide +kernel⟩⟩

theorem wit_ScratchpadControlCompletes :
    (∃ (o : RrrOp) (s : State) (g : Grp) (m : W32), Issues s o.core o.face (isCc o.face && !o.w && o.rd == 0 && o.rb == 0)
      [⟨o.ra.toNat, 1, false⟩] g ∧ m = ((s.core o.core).sreg o.ra.toNat).setWidth 32 ∧ (∀ i < 8, mapClass m i ≤ 4) ∧ (s.core
      o.core).sp.transit = []) ∧
    (∃ (o : RrrOp) (s : State) (g : Grp), Issues s o.core o.face (isCc o.face && !o.w) [⟨o.ra.toNat, 1, false⟩, ⟨o.rb.toNat, 1,
      false⟩] g ∧ ringBad ((s.core o.core).sreg o.ra.toNat) ((s.core o.core).sreg o.rb.toNat) = false ∧ (∀ t ∈ ((unwait s g).core
      g.k).sp.taken, t.ring ≠ o.rd.toNat) ∧ ringWanted ((unwait s g).core g.k) o.rd.toNat = false) ∧
    (∃ (o : RrrOp) (_b : Bool) (s : State) (g : Grp), Issues s o.core o.face (isCc o.face && !o.w && o.rb == 0) [⟨o.rd.toNat, 1,
      true⟩] g) ∧
    (∃ e ∈ [(Instr.spTagFull, true), (Instr.spTagEmpty, false)], ∃ (o : RrrOp) (s : State) (g : Grp), Issues s o.core o.face (isCc
      o.face && !o.w && o.rd == 0 && o.rb == 0) [⟨o.ra.toNat, 1, false⟩] g ∧ ((s.core o.core).sreg o.ra.toNat).toNat % 2 ^ 32 < 2
      ^ 21) :=
  ⟨⟨⟨0, .cc, false, 0, 1, 0⟩, s0, gc, 0, by unfold Issues; decide +kernel, by decide +kernel, by decide +kernel, by decide +kernel⟩,
    ⟨⟨0, .cc, false, 63, 1, 2⟩, s0, gc, by unfold Issues; decide +kernel, by decide +kernel, by decide +kernel, by decide +kernel⟩,
    ⟨⟨0, .cc, false, 31, 63, 0⟩, true, s0, gc, by unfold Issues; decide +kernel⟩,
    ⟨_, (List.Mem.head _), ⟨0, .cc, false, 0, 1, 0⟩, sPad, gc, by unfold Issues; decide +kernel, by decide +kernel⟩⟩

theorem wit_ScratchpadEventsComplete :
    (∃ (k : Fin 256) (g : Fin 8) (s : State) (old : BitVec 4), tfind (s.core k).sp.transit g = some old ∧ transitUsed (s.core k) g
      old.toNat = false) ∧
    (∃ (k : Fin 256) (g : Fin 8) (s : State) (old : BitVec 4), tfind (s.core k).sp.transit g = some old ∧ transitUsed (s.core k) g
      old.toNat = false ∧ (s.core k).sp.moving = [] ∧ (s.core k).sp.behind = []) ∧
    (∃ (k : Fin 256) (g : Fin 8) (s : State) (old : BitVec 4), tfind (s.core k).sp.transit g = some old ∧ transitUsed (s.core k) g
      old.toNat = true) ∧
    (∃ (k : Fin 256) (g : Fin 8) (s : State), tfind (s.core k).sp.transit g = none) ∧
    (∃ (k : Fin 256) (slot : BitVec 15) (s : State), (∀ x ∈ (s.core k).sp.taken, x.slot = slot.toNat → x.finished = false)) ∧
    (∃ (k : Fin 256) (slot : BitVec 15) (s : State) (x : Taken), (s.core k).sp.taken.find? (fun t => t.slot == slot.toNat) = some x ∧
      x.finished = true) ∧
    (∃ (k : Fin 256) (s : State) (w : TagWait) (a : SpAccess), coreRuns s k = true ∧ (s.core k).sp.waits = [w] ∧ w.who = .face a ∧
      isFull (s.core k).sp w.slot = w.full ∧ spMeets (s.core k).sp a = .nothing ∧ (s.core k).sp.behind = []) :=
  ⟨⟨0, 7, (onCore (fun c => { c with sp := { c.sp with transit := [(7, 3)] } })), 3, by decide +kernel, by decide +kernel⟩,
    ⟨0, 7, (onCore (fun c => { c with sp := { c.sp with transit := [(7, 3)] } })), 3, by decide +kernel, by decide +kernel,
      by decide +kernel, by decide +kernel⟩,
    ⟨0, 7, (onCore (fun c =>
      { c with sp := { c.sp with transit := [(7, 3)], moving := [⟨.cc, 0x34221133#32, 0, true, 4, 0x1C0000, 0, 1, 0, none, 0⟩] } })),
      3, by decide +kernel, by decide +kernel⟩,
    ⟨255, 7, s0, by decide +kernel⟩,
    ⟨0, 32767, (onCore (fun c => { c with sp := { c.sp with taken := [⟨32767, 63, true, false⟩] } })), by decide +kernel⟩,
    ⟨0, 32767, (onCore (fun c => { c with sp := { c.sp with taken := [⟨32767, 63, true, true⟩] } })), ⟨32767, 63, true, true⟩,
      by decide +kernel, by decide +kernel⟩,
    ⟨0, (onCore (fun c =>
      { c with sp := { c.sp with waits := [⟨24576, false, .face ⟨.cc, 0x44221133#32, 0, true, 4, 0x180000, 0, 1, 0, none, 0⟩, none⟩] } })),
      ⟨24576, false, .face ⟨.cc, 0x44221133#32, 0, true, 4, 0x180000, 0, 1, 0, none, 0⟩, none⟩, _, by decide +kernel,
      by decide +kernel, rfl, by decide +kernel, by decide +kernel, by decide +kernel⟩⟩

theorem wit_RequestsReachTheirHome :
    (∃ e ∈ requestForms, ∃ (c : Fin 32) (line : BitVec 31) (s : State) (m : Msg) (k : ReqKind) (rest : List Msg), Arrives s (.l2 c)
      line.toNat true m rest ∧ m.kind = .req k ∧ e.2 k = true ∧ dieDown s (homeOf line.toNat) = false) ∧
    (∃ e ∈ [(Instr.dmaRd, ReqKind.dmaRd), (Instr.dmaWr, ReqKind.dmaWr)], ∃ (a : Agent) (line : BitVec 31) (s : State) (m : Msg) (rest
      : List Msg), Arrives s a line.toNat true m rest ∧ m.kind = .req e.2 ∧ dieDown s (homeOf line.toNat) = false) :=
  ⟨⟨_, (List.Mem.head _), 0, 5, (sMsg [bareL2 (.req .rdS)]), (bareL2 (.req .rdS)), .rdS, [], by unfold Arrives; decide +kernel,
      by decide +kernel, by decide +kernel, by decide +kernel⟩,
    ⟨_, (List.Mem.head _), .hub, 5, (sMsg [Msg.bare (.req .dmaRd) .hub 5]), (Msg.bare (.req .dmaRd) .hub 5), [],
      by unfold Arrives; decide +kernel, by decide +kernel, by decide +kernel⟩⟩

theorem wit_HomeTransactionsStart :
    (∃ (line : BitVec 31) (s : State) (m : Msg) (c : Fin 32) (rest : List Msg) (p : Nat), homeBusy (s.home (homeOf line.toNat))
      line.toNat = false ∧ unitSt s .channel (channelOf line.toNat) ≠ .recovering ∧ takeFirst (fun m => m.line == line.toNat)
      (s.home (homeOf line.toNat)).queue = some (m, rest) ∧ m.line = line.toNat ∧ m.kind = .req .rdS ∧ m.who = .l2 c ∧ m.size = 0
      ∧ (∀ x ∈ (s.home (homeOf line.toNat)).active, x.evict ≠ some line.toNat) ∧ dirFind (s.home (homeOf line.toNat)) line.toNat =
      none ∧ dirVictim (s.home (homeOf line.toNat)) line.toNat = some (p, none)) ∧
    (∃ (line : BitVec 31) (s : State) (m : Msg) (c : Fin 32) (rest : List Msg) (p : Nat) (e : DirEnt), homeBusy (s.home (homeOf
      line.toNat)) line.toNat = false ∧ unitSt s .channel (channelOf line.toNat) ≠ .recovering ∧ takeFirst (fun m => m.line ==
      line.toNat) (s.home (homeOf line.toNat)).queue = some (m, rest) ∧ m.line = line.toNat ∧ m.kind = .req .rdX ∧ m.who = .l2 c ∧
      dirFind (s.home (homeOf line.toNat)) line.toNat = some (p, e) ∧ e.x = false ∧ (sharers e.shar).filter (· ≠ c.val) ≠ []) :=
  ⟨⟨5, (sHome [] (fun h => { h with queue := [bareL2 (.req .rdS)] })), _, 0, _, _, by decide +kernel, by decide +kernel, rfl, rfl,
      rfl, rfl, rfl, by decide +kernel, by decide +kernel, rfl⟩,
    ⟨5, (sHome [] (fun h => { h with queue := [bareL2 (.req .rdX)], dir := [(16 * dirSet 5, ⟨5, false, 3⟩)] })), _, 0, _, _, _,
      by decide +kernel, by decide +kernel, rfl, rfl, rfl, rfl, rfl, rfl, by decide +kernel⟩⟩

theorem wit_AnswersReachTheirHome :
    (∃ e ∈ [(Instr.wb, MsgKind.wb), (Instr.evc, MsgKind.evc)], ∃ (c : Fin 32) (line : BitVec 31) (s : State) (m : Msg) (rest : List
      Msg), Arrives s (.l2 c) line.toNat true m rest ∧ m.kind = e.2) ∧
    (∃ e ∈ [(Instr.invAck, MsgKind.invAck), (Instr.fwdData, MsgKind.fwdData), (Instr.nohold, MsgKind.nohold)], ∃ (c : Fin 32) (line :
      BitVec 31) (s : State) (m : Msg) (rest : List Msg) (x : HomeTxn), Arrives s (.l2 c) line.toNat true m rest ∧ m.kind = e.2 ∧
      (line.toNat, c.val) ∉ (s.home (homeOf line.toNat)).late ∧ Serving s line.toNat x ∧ c.val ∈ x.await) ∧
    (∃ e ∈ [(Instr.invAck, MsgKind.invAck), (Instr.fwdData, MsgKind.fwdData), (Instr.nohold, MsgKind.nohold)], ∃ (c : Fin 32) (line :
      BitVec 31) (s : State) (m : Msg) (rest : List Msg), Arrives s (.l2 c) line.toNat true m rest ∧ m.kind = e.2 ∧ (line.toNat,
      c.val) ∈ (s.home (homeOf line.toNat)).late) ∧
    (∃ (c : Fin 32) (line : BitVec 31) (s : State) (x : HomeTxn), Serving s line.toNat x ∧ c.val ∈ x.await) :=
  ⟨⟨_, (List.Mem.head _), 0, 5, (sMsg [bareL2 .wb]), (bareL2 .wb), [], by unfold Arrives; decide +kernel, by decide +kernel⟩,
    ⟨_, (List.Mem.head _), 0, 5, (sHome [bareL2 .invAck] (fun h => { h with active := [txn5] })), (bareL2 .invAck), [], txn5,
      by unfold Arrives; decide +kernel, by decide +kernel, by decide +kernel, by unfold Serving; decide +kernel,
      by decide +kernel⟩,
    ⟨_, (List.Mem.head _), 0, 5, (sHome [bareL2 .invAck] (fun h => { h with late := [(5, 0)] })), (bareL2 .invAck), [],
      by unfold Arrives; decide +kernel, by decide +kernel, by decide +kernel⟩,
    ⟨31, 5, (sHome [] (fun h => { h with active := [txn5] })), txn5, by unfold Serving; decide +kernel, by decide +kernel⟩⟩

theorem wit_GrantsReachTheirCluster :
    (∃ e ∈ [(Instr.dataS, MsgKind.dataS, LineState.s), (Instr.dataE, MsgKind.dataE, LineState.e), (Instr.dataX, MsgKind.dataX,
      LineState.e)], ∃ (c : Fin 32) (line : BitVec 31) (s : State) (m : Msg) (rest : List Msg), Arrives s (.l2 c) line.toNat false
      m rest ∧ m.kind = e.2.1 ∧ grantStands (received s m rest) c m.line = false) ∧
    (∃ e ∈ [(Instr.dataS, MsgKind.dataS, LineState.s), (Instr.dataE, MsgKind.dataE, LineState.e), (Instr.dataX, MsgKind.dataX,
      LineState.e)], ∃ (c : Fin 32) (line : BitVec 31) (s : State) (m : Msg) (rest : List Msg), Arrives s (.l2 c) line.toNat false
      m rest ∧ m.kind = e.2.1 ∧ grantStands (received s m rest) c m.line = true ∧ roomL2 s c.val m.line = false) ∧
    (∃ e ∈ [(Instr.dataS, MsgKind.dataS, LineState.s), (Instr.dataE, MsgKind.dataE, LineState.e), (Instr.dataX, MsgKind.dataX,
      LineState.e)], ∃ (c : Fin 32) (line : BitVec 31) (s : State) (m : Msg) (rest : List Msg), Arrives s (.l2 c) line.toNat false
      m rest ∧ m.kind = e.2.1 ∧ grantStands (received s m rest) c m.line = true ∧ roomL2 s c.val m.line = true) ∧
    (∃ (c : Fin 32) (line : BitVec 31) (s : State) (m : Msg) (rest : List Msg), Arrives s (.l2 c) line.toNat false m rest ∧ m.kind =
      .gnt) ∧
    (∃ (c : Fin 32) (line : BitVec 31) (s : State) (m : Msg) (rest : List Msg), ∃ k a, Arrives s (.l2 c) line.toNat false m rest ∧
      m.kind = .dataU ∧ accOf s (coresOf c.val) m.id = some (k, a)) ∧
    (∃ (c : Fin 32) (line : BitVec 31) (s : State) (m : Msg) (rest : List Msg), Arrives s (.l2 c) line.toNat false m rest ∧ m.kind =
      .dataU ∧ accOf s (coresOf c.val) m.id = none) ∧
    (∃ (s : State) (k : Nat) (a : Access) (_bs : Bytes) (_p : Nat), accOf s [k] a.id = some (k, a) ∧ a ∈ (s.core k).acc ∧ served s k a
      = [a] ∧ a.isStore = false) ∧
    (∃ (c : Fin 32) (line : BitVec 31) (s u : State) (m : Msg) (rest : List Msg), ∃ k a, Arrives s (.l2 c) line.toNat false m rest ∧
      m.kind = .ack ∧ u = (if m.poison = 0 then updateCopies (received s m rest) c.val m.line m.bytes else received s m rest) ∧
      accOf s (coresOf c.val) m.id = some (k, a)) ∧
    (∃ (c : Fin 32) (line : BitVec 31) (s u : State) (m : Msg) (rest : List Msg), Arrives s (.l2 c) line.toNat false m rest ∧ m.kind =
      .ack ∧ u = (if m.poison = 0 then updateCopies (received s m rest) c.val m.line m.bytes else received s m rest) ∧ accOf s
      (coresOf c.val) m.id = none) ∧
    (∃ (e : Fin 64) (line : BitVec 31) (s : State) (m : Msg) (rest : List Msg), Arrives s (.dma e) line.toNat false m rest ∧ m.kind =
      .dataU) :=
  ⟨⟨_, (List.Mem.head _), 0, 5, (sMsg [bareL2 .dataS]), (bareL2 .dataS), [], by unfold Arrives; decide +kernel, by decide +kernel,
      by decide +kernel⟩,
    ⟨_, (List.Mem.head _), 0, 5, sFull, (bareL2 .dataS), [], by unfold Arrives; decide +kernel, by decide +kernel, by decide +kernel,
      by decide +kernel⟩,
    ⟨_, (List.Mem.head _), 0, 5, (sHome [bareL2 .dataS] (fun h => { h with dir := [(16 * dirSet 5, ⟨5, false, 1⟩)] })), (bareL2
      .dataS), [], by unfold Arrives; decide +kernel, by decide +kernel, by decide +kernel, by decide +kernel⟩,
    ⟨0, 5, (sMsg [bareL2 .gnt]), (bareL2 .gnt), [], by unfold Arrives; decide +kernel, by decide +kernel⟩,
    ⟨0, 5, (sAcc [{ bareL2 .dataU with id := 7 }]), { bareL2 .dataU with id := 7 }, [], 0, acc7, by unfold Arrives; decide +kernel,
      by decide +kernel, by decide +kernel⟩,
    ⟨0, 5, (sMsg [{ bareL2 .dataU with id := 7 }]), { bareL2 .dataU with id := 7 }, [], by unfold Arrives; decide +kernel,
      by decide +kernel, by decide +kernel⟩,
    ⟨(sAcc []), 0, acc7, [], 0, by decide +kernel, by decide +kernel, by decide +kernel, by decide +kernel⟩,
    ⟨0, 5, (sAcc [{ bareL2 .ack with id := 7 }]), _, { bareL2 .ack with id := 7 }, [], 0, acc7, by unfold Arrives; decide +kernel,
      by decide +kernel, rfl, by decide +kernel⟩,
    ⟨0, 5, (sMsg [{ bareL2 .ack with id := 7 }]), _, { bareL2 .ack with id := 7 }, [], by unfold Arrives; decide +kernel,
      by decide +kernel, rfl, by decide +kernel⟩,
    ⟨63, 5, (sMsg [Msg.bare .dataU (.dma 63) 5]), (Msg.bare .dataU (.dma 63) 5), [], by unfold Arrives; decide +kernel,
      by decide +kernel⟩⟩

theorem wit_GrantsReachTheirCluster_2 :
    (∃ (e : Fin 64) (line : BitVec 31) (s : State) (m : Msg) (rest : List Msg), Arrives s (.dma e) line.toNat false m rest ∧ m.kind =
      .ack) ∧
    (∃ (line : BitVec 31) (s : State) (m : Msg) (rest : List Msg), Arrives s .hub line.toNat false m rest ∧ m.kind = .dataU) ∧
    (∃ (line : BitVec 31) (s : State) (m : Msg) (rest : List Msg), Arrives s .hub line.toNat false m rest ∧ m.kind = .ack) ∧
    (∃ e ∈ [(Instr.dataS, MsgKind.dataS), (Instr.dataE, MsgKind.dataE), (Instr.dataX, MsgKind.dataX), (Instr.gnt, MsgKind.gnt)], ∃ (c
      : Fin 32) (line : BitVec 31) (s : State), (∀ m rest, Arrives s (.l2 c) line.toNat false m rest → m.kind ≠ e.2)) ∧
    (∃ e ∈ [(Instr.dataU, MsgKind.dataU), (Instr.ack, MsgKind.ack)], ∃ (w : Agent) (line : BitVec 31) (s : State), (∀ m rest, Arrives
      s w line.toNat false m rest → m.kind ≠ e.2)) :=
  ⟨⟨63, 5, (sMsg [Msg.bare .ack (.dma 63) 5]), (Msg.bare .ack (.dma 63) 5), [], by unfold Arrives; decide +kernel, by decide +kernel⟩,
    ⟨5, (sMsg [Msg.bare .dataU .hub 5]), (Msg.bare .dataU .hub 5), [], by unfold Arrives; decide +kernel, by decide +kernel⟩,
    ⟨5, (sMsg [Msg.bare .ack .hub 5]), (Msg.bare .ack .hub 5), [], by unfold Arrives; decide +kernel, by decide +kernel⟩,
    ⟨_, (List.Mem.head _), 31, 5, s0, no_message (by decide +kernel)⟩,
    ⟨_, (List.Mem.head _), .hub, 5, s0, no_message (by decide +kernel)⟩⟩

theorem wit_ProbesReachTheirCluster :
    (∃ (c : Fin 32) (line : BitVec 31) (s : State) (m : Msg) (rest : List Msg), Arrives s (.l2 c) line.toNat false m rest ∧ m.kind =
      .inv) ∧
    (∃ (c : Fin 32) (line : BitVec 31) (s : State) (m : Msg) (rest : List Msg), Arrives s (.l2 c) line.toNat false m rest ∧ m.kind =
      .fwdS) ∧
    (∃ (c : Fin 32) (line : BitVec 31) (s : State) (m : Msg) (rest : List Msg), Arrives s (.l2 c) line.toNat false m rest ∧ m.kind =
      .fwdX) ∧
    (∃ (c : Fin 32) (line : BitVec 31) (s : State) (m : Msg) (rest : List Msg), Arrives s (.l2 c) line.toNat false m rest ∧ m.kind =
      .fwdR) ∧
    (∃ e ∈ [(Instr.invMsg, MsgKind.inv), (Instr.fwdS, MsgKind.fwdS), (Instr.fwdX, MsgKind.fwdX), (Instr.fwdR, MsgKind.fwdR)], ∃ (c :
      Fin 32) (line : BitVec 31) (s : State), (∀ m rest, Arrives s (.l2 c) line.toNat false m rest → m.kind ≠ e.2)) :=
  ⟨⟨0, 5, (sMsg [bareL2 .inv]), (bareL2 .inv), [], by unfold Arrives; decide +kernel, by decide +kernel⟩,
    ⟨0, 5, (sMsg [bareL2 .fwdS]), (bareL2 .fwdS), [], by unfold Arrives; decide +kernel, by decide +kernel⟩,
    ⟨0, 5, (sMsg [bareL2 .fwdX]), (bareL2 .fwdX), [], by unfold Arrives; decide +kernel, by decide +kernel⟩,
    ⟨0, 5, (sMsg [bareL2 .fwdR]), (bareL2 .fwdR), [], by unfold Arrives; decide +kernel, by decide +kernel⟩,
    ⟨_, (List.Mem.head _), 31, 5, s0, no_message (by decide +kernel)⟩⟩

theorem wit_PageWalkCompletes :
    (∃ (c : Fin 32) (ctx : BitVec 12) (vpn : BitVec 52) (s : State) (w : Walk) (rest : List Walk) (level : Nat) (e : W64) (off : Nat),
      WalkReady s c ctx.toNat vpn.toNat w rest ∧ walk (walkBase s c ctx.toNat vpn.toNat rest) c ctx.toNat vpn.toNat = .leaf level
      e off) ∧
    (∃ (c : Fin 32) (ctx : BitVec 12) (vpn : BitVec 52) (s : State) (w : Walk) (rest : List Walk) (level : Nat), WalkReady s c
      ctx.toNat vpn.toNat w rest ∧ walk (walkBase s c ctx.toNat vpn.toNat rest) c ctx.toNat vpn.toNat = .invalid level) ∧
    (∃ (c : Fin 32) (ctx : BitVec 12) (vpn : BitVec 52) (s : State) (w : Walk) (rest : List Walk) (line mask : Nat), takeFirst (fun t
      => t.ctx == ctx.toNat && t.vpn == vpn.toNat) ((s.cluster c).walks.take 16) = some (w, rest) ∧ walkMiss s c ctx.toNat
      vpn.toNat = some (line, mask) ∧ (∀ o ∈ (s.cluster c).open_, o.1 ≠ line) ∧ hasCredit s line c = true) :=
  ⟨⟨0, 0, 0, (sWalk [(0, core0)] (⟨0, 0, []⟩) tabL2), _, _, 4, 0xFFFFF000000050C3, 0x4000, ⟨some_of (by decide +kernel),
      by decide +kernel⟩, by decide +kernel⟩,
    ⟨0, 0, 1, (sWalk [(0, { core0 with wait := .walk 1 })] (⟨0, 1, [(.face 0 .cc, 4, 0x1000)]⟩) tabL2), _, _, 4, ⟨some_of
      (by decide +kernel), by decide +kernel⟩, by decide +kernel⟩,
    ⟨0, 0, 0, (sWalk [(0, core0)] (⟨0, 0, []⟩) Cache.dflt), _, _, 16, 1, some_of (by decide +kernel), by decide +kernel,
      by decide +kernel, by decide +kernel⟩⟩

theorem wit_TranslationCommandsComplete :
    (∃ (f : Byte) (cmd : List W64) (s : State), NextXlat s f ∧ fld (cmd.headD 0) 63 56 = 1 ∧ xlatCheck (xlatTake s f.toNat) f.toNat
      cmd false = 0 ∧ GoodRange (cmd.getD 1 0).toNat (cmd.getD 2 0).toNat) ∧
    (∃ (f : Byte) (cmd : List W64) (s : State), NextXlat s f ∧ fld (cmd.headD 0) 63 56 = 1 ∧ xlatCheck (xlatTake s f.toNat) f.toNat
      cmd false = 0 ∧ ¬ GoodRange (cmd.getD 1 0).toNat (cmd.getD 2 0).toNat) ∧
    (∃ (f : Byte) (cmd : List W64) (s : State) (op st : Nat), NextXlat s f ∧ fld (cmd.headD 0) 63 56 = op ∧ op ≠ 2 ∧ op ≠ 3 ∧
      xlatCheck (xlatTake s f.toNat) f.toNat cmd (op != 1) = st ∧ st ≠ 0) ∧
    (∃ (f : Byte) (cmd : List W64) (s : State) (st : Nat), NextXlat s f ∧ fld (cmd.headD 0) 63 56 = 2 ∧ xlatCheck (xlatTake s f.toNat)
      f.toNat cmd (cmd.getD 1 0 != 0 || cmd.getD 2 0 != 0) = st ∧ st = 0) ∧
    (∃ (f : Byte) (cmd : List W64) (s : State) (st : Nat), NextXlat s f ∧ fld (cmd.headD 0) 63 56 = 2 ∧ xlatCheck (xlatTake s f.toNat)
      f.toNat cmd (cmd.getD 1 0 != 0 || cmd.getD 2 0 != 0) = st ∧ st ≠ 0) ∧
    (∃ (f : Byte) (cmd : List W64) (s : State) (r : FaultRec), NextXlat s f ∧ fld (cmd.headD 0) 63 56 = 3 ∧ xlatCheck (xlatTake s
      f.toNat) f.toNat cmd (fld (cmd.getD 1 0) 63 17 != 0 || cmd.getD 2 0 != 0) = 0 ∧ s.mem.recs.find? (fun r => r.id == fld
      (cmd.getD 1 0) 15 0 && r.ctx == fld (cmd.headD 0) 55 44) = some r ∧ bit (cmd.getD 1 0) 16 = false) ∧
    (∃ (f : Byte) (cmd : List W64) (s : State) (r : FaultRec), NextXlat s f ∧ fld (cmd.headD 0) 63 56 = 3 ∧ xlatCheck (xlatTake s
      f.toNat) f.toNat cmd (fld (cmd.getD 1 0) 63 17 != 0 || cmd.getD 2 0 != 0) = 0 ∧ s.mem.recs.find? (fun r => r.id == fld
      (cmd.getD 1 0) 15 0 && r.ctx == fld (cmd.headD 0) 55 44) = some r ∧ bit (cmd.getD 1 0) 16 = true) ∧
    (∃ (f : Byte) (cmd : List W64) (s : State) (st : Nat), NextXlat s f ∧ fld (cmd.headD 0) 63 56 = 3 ∧ xlatCheck (xlatTake s f.toNat)
      f.toNat cmd (fld (cmd.getD 1 0) 63 17 != 0 || cmd.getD 2 0 != 0) = st ∧ ((st ≠ 0 ∨ s.mem.recs.find? (fun r => r.id == fld
      (cmd.getD 1 0) 15 0 && r.ctx == fld (cmd.headD 0) 55 44) = none))) ∧
    (∃ (f : Byte) (s : State) (d : Drain), (s.fn f.toNat).drain = some d ∧ (∀ a ∈ d.accs, ∀ x ∈ (s.core a.1).acc, x.id ≠ a.2) ∧ (∀ a ∈
      d.cmds, ∀ q ∈ (s.core a.1).dma.queue, q.seq = a.2.1 → q.tries ≠ a.2.2) ∧ (∀ t ∈ s.mem.fab, t.id ∉ d.wbs) ∧ (∀ a ∈ d.late, ∀
      w ∈ (s.core a.1).wbs, w.id ≠ a.2) ∧ (∀ a ∈ d.hosts, ∀ h ∈ (s.core a.1).hostSt, h.id ≠ a.2)) :=
  ⟨⟨0, [0x0100000000000000, 0x7FFFFFFFF000, 0x1000], (sFn (fun h => { h with xlatSq := ring1 })), by unfold NextXlat; decide +kernel,
      by decide +kernel, by decide +kernel, by unfold GoodRange; decide +kernel⟩,
    ⟨0, [0x0100000000000000, 0x7FFFFFFFF000, 0x2000], (sFn (fun h => { h with xlatSq := ring1 })), by unfold NextXlat; decide +kernel,
      by decide +kernel, by decide +kernel, by unfold GoodRange; decide +kernel⟩,
    ⟨0, [0x0400000000000000, 0, 0], (sFn (fun h => { h with xlatSq := ring1 })), 4, 2, by unfold NextXlat; decide +kernel,
      by decide +kernel, by decide +kernel, by decide +kernel, by decide +kernel, by decide +kernel⟩,
    ⟨0, [0x0200000000000000, 0, 0], (sFn (fun h => { h with xlatSq := ring1 })), 0, by unfold NextXlat; decide +kernel,
      by decide +kernel, by decide +kernel, by decide +kernel⟩,
    ⟨0, [0x0200000000000000, 0, 1], (sFn (fun h => { h with xlatSq := ring1 })), 2, by unfold NextXlat; decide +kernel,
      by decide +kernel, by decide +kernel, by decide +kernel⟩,
    ⟨0, [0x0300000000000000, 7, 0],
      { sFn (fun h => { h with xlatSq := ring1 }) with mem := { s0.mem with recs := [⟨7, 0, 0, 0, 0, 0, 0, 0, 0, 0, []⟩] } }, _,
      by unfold NextXlat; decide +kernel, by decide +kernel, by decide +kernel, isSome_eq (by decide +kernel), by decide +kernel⟩,
    ⟨0, [0x0300000000000000, 0x10007, 0],
      { sFn (fun h => { h with xlatSq := ring1 }) with mem := { s0.mem with recs := [⟨7, 0, 0, 0, 0, 0, 0, 0, 0, 0, []⟩] } }, _,
      by unfold NextXlat; decide +kernel, by decide +kernel, by decide +kernel, isSome_eq (by decide +kernel), by decide +kernel⟩,
    ⟨0, [0x0300000000000000, 8, 0],
      { sFn (fun h => { h with xlatSq := ring1 }) with mem := { s0.mem with recs := [⟨7, 0, 0, 0, 0, 0, 0, 0, 0, 0, []⟩] } }, 0,
      by unfold NextXlat; decide +kernel, by decide +kernel, by decide +kernel, .inr (by decide +kernel)⟩,
    ⟨0, (sFn (fun h => { h with drain := some ⟨0, [], [], [], [], []⟩ })), ⟨0, [], [], [], [], []⟩, by decide +kernel,
      by decide +kernel, by decide +kernel, by decide +kernel, by decide +kernel, by decide +kernel⟩⟩

theorem wit_DoorbellsComplete :
    (∃ (f : Byte) (v : W64) (st : Option (Fin 9)) (s : State), hostTakes s f st = true ∧ (s.fn f.toNat).xlatSq.on = true ∧ v.toNat <
      (s.fn f.toNat).xlatSq.size) ∧
    (∃ (f : Byte) (v : W64) (st : Option (Fin 9)) (s : State), hostTakes s f st = true ∧ (s.fn f.toNat).adminSq.on = true ∧ v.toNat <
      (s.fn f.toNat).adminSq.size) ∧
    (∃ e ∈ [((0 : Fin 3), RingId.adminCq), (1, .xlatCq), (2, .fault)], ∃ (f : Byte) (v : W64) (st : Option (Fin 9)) (s : State),
      hostTakes s f st = true ∧ (getRing (s.fn f.toNat) e.2).on = true ∧ v.toNat < (getRing (s.fn f.toNat) e.2).size) ∧
    (∃ (f : Byte) (off : BitVec 24) (size : Nat) (v : W64) (st : Option (Fin 9)) (s u : State), hostTakes s f st = true ∧ GoodTail s
      f.toNat off.toNat size v ∧ u = s.setCtx (off.toNat / 0x1000) { s.ctx (off.toNat / 0x1000) with sqTail := v.toNat } ∧ hasWork
      (u.ctx (off.toNat / 0x1000)) = false) ∧
    (∃ (f : Byte) (off : BitVec 24) (size : Nat) (v : W64) (st : Option (Fin 9)) (s u : State), hostTakes s f st = true ∧ GoodTail s
      f.toNat off.toNat size v ∧ u = s.setCtx (off.toNat / 0x1000) { s.ctx (off.toNat / 0x1000) with sqTail := v.toNat } ∧ hasWork
      (u.ctx (off.toNat / 0x1000)) = true) ∧
    (∃ (f : Byte) (_v : W64) (st : Option (Fin 9)) (s : State), hostTakes s f st = true) ∧
    (∃ (f : Byte) (_off : BitVec 24) (_size : Nat) (_e : Fin 3) (_r : BitVec 26) (_v : W64) (st : Option (Fin 9)) (s : State),
      hostTakes s f st = false) :=
  ⟨⟨0, 1, none,
      { sFn (fun h => { h with xlatSq := ring1 }) with host := { (sFn (fun h => { h with xlatSq := ring1 })).host with perst := false } },
      by decide +kernel, by decide +kernel, by decide +kernel⟩,
    ⟨0, 1, none,
      { sFn (fun h => { h with adminSq := ring1 }) with host := { (sFn (fun h => { h with adminSq := ring1 })).host with perst := false } },
      by decide +kernel, by decide +kernel, by decide +kernel⟩,
    ⟨_, (List.Mem.head _), 0, 1, none,
      { sFn (fun h => { h with adminCq := ring1 }) with host := { (sFn (fun h => { h with adminCq := ring1 })).host with perst := false } },
      by decide +kernel, by decide +kernel, by decide +kernel⟩,
    ⟨0, 0, 8, 0, none, { s0 with host := { (s0).host with perst := false } }, _, by decide +kernel,
      by unfold GoodTail; decide +kernel, rfl, rfl⟩,
    ⟨0, 0, 8, 1, none,
      { sRing 1 0 (fun x => { x with sqTail := 0, st := .idle }) with host := { (sRing 1 0 (fun x => { x with sqTail := 0, st := .idle })).host with perst := false } },
      _, by decide +kernel, by unfold GoodTail; decide +kernel, rfl, rfl⟩,
    ⟨0, 0, none, { s0 with host := { (s0).host with perst := false } }, by decide +kernel⟩,
    ⟨1, 0, 8, 0, 0, 0, none, s0, by decide +kernel⟩⟩

theorem wit_BadDoorbellIsCounted :
    ∃ (f : Byte) (off : BitVec 24) (size : Nat) (v : W64) (st : Option (Fin 9)) (s : State), hostTakes s f st = true ∧ ¬ GoodTail s
      f.toNat off.toNat size v :=
  ⟨0, 0, 4, 0, none, { s0 with host := { (s0).host with perst := false } }, by decide +kernel, by unfold GoodTail; decide +kernel⟩

theorem wit_PortCommandsComplete :
    (∃ (p : Fin 32) (gs : BitVec 4) (s : State), (s.port p).st = .down ∧ (s.port p).mayTry = true ∧ gs ≠ 0) ∧
    (∃ (p : Fin 32) (gs : BitVec 4) (w : BitVec 2) (s : State), (s.port p).st = .train ∧ min (widthOf gs) (min (fld (s.port p).ctrl 29
      28) w.toNat) ≠ 0) ∧
    (∃ (p : Fin 32) (h : Hello) (s : State), (s.port p).st = .hello ∧ (s.port p).helloLast = some h ∧ 2 ≤ (s.port p).helloRun) ∧
    (∃ (p : Fin 32) (h : Hello) (s : State) (n : Nat), (s.port p).st = .hello ∧ n = (if (s.port p).helloLast = some h then (s.port
      p).helloRun + 1 else 1) ∧ n < 3) ∧
    (∃ (p : Fin 32) (peer : BitVec 256) (s : State), (s.port p).peerDigest = some peer ∧ secureAgreed s p = true) ∧
    (∃ (p : Fin 32) (s : State) (dig _ours theirs : BitVec 256), (s.port p).peerDigest = some dig ∧ theirs = Config.kemDecaps kemSeed
      (bytesOf (((s.port p).link.heard.drop bundleUnits).take cipherUnits))) ∧
    (∃ (p : Fin 32) (_rtt : W32) (s : State), (s.port p).st = .range) ∧
    (∃ (p : Fin 32) (s : State), (s.port p).st ∈ [PortState.train, .hello, .secure, .range] ∧ (∀ r ∈ s.rel.running, r.dom = .port →
      r.unit ≠ p.val)) ∧
    (∃ (p : Fin 32) (s : State), (s.port p).st ∈ [PortState.train, .hello, .secure, .range] ∧ (∃ r ∈ s.rel.running, r.dom = .port ∧
      r.unit = p.val)) ∧
    (∃ (p : Fin 32) (s : State), (s.port p).st = .down) :=
  ⟨⟨0, 8, (sPort (fun x => { x with mayTry := true })), by decide +kernel, by decide +kernel, by decide +kernel⟩,
    ⟨0, 8, 1, (sPort (fun x => { x with st := .train })), by decide +kernel, by decide +kernel⟩,
    ⟨0, ⟨1, 7, 31, 3⟩, (sPort (fun x => { x with st := .hello, helloLast := some ⟨1, 7, 31, 3⟩, helloRun := 2 })), by decide +kernel,
      by decide +kernel, by decide +kernel⟩,
    ⟨0, ⟨1, 7, 31, 3⟩, (sPort (fun x => { x with st := .hello, helloLast := some ⟨1, 7, 31, 3⟩, helloRun := 1 })), 2,
      by decide +kernel, by decide +kernel, by decide +kernel⟩,
    ⟨0, _, _, peer_example, agreed_example⟩,
    ⟨0, (sPort (fun x => { x with st := .secure, peerDigest := some 0 })), 0, 0, _, by decide +kernel, rfl⟩,
    ⟨0, 0xFFFFFFFF, (sPort (fun x => { x with st := .range })), by decide +kernel⟩,
    ⟨0, (sPort (fun x => { x with st := .range })), by decide +kernel, by decide +kernel⟩,
    ⟨0, { sPort (fun x => { x with st := .range }) with rel := { s0.rel with running := [⟨.port, 0, 1, 0, 0, 0, 0, .inService⟩] } },
      by decide +kernel, by decide +kernel⟩,
    ⟨31, s0, by decide +kernel⟩⟩

theorem wit_PortCommandsComplete_2 :
    (∃ (p : Fin 32) (s : State), (s.port p).st = .retrain) ∧
    (∃ (p : Fin 32) (g : Fin 4) (s : State), bit (s.port p).groups g = true) ∧
    (∃ (p : Fin 32) (s : State), (s.port p).st = .width ∧ ((s.port p).back = .activeM ∨ (s.port p).back = .active)) ∧
    (∃ (p : Fin 32) (s : State), (s.port p).link.keyed = true ∧ 2 ^ 35 ≤ (s.port p).link.slots - (s.port p).link.epochAt ∧ (∀ e ∈
      (s.port p).link.symbols, e.1 ≠ 4)) ∧
    (∃ (_p : Fin 32) (h : HeldFlit) (_s : State) (l : LinkLayer), h.hello = none ∧ (nextSym l).1 = some (4#3, 0#11)) ∧
    (∃ e ∈ [Instr.portEnWrite, Instr.portDataWrite], ∃ (_p : Fin 32) (v : W32) (_s : State), (fld v 29 28 = 0 ∨ fld v 27 0 ≠ 0)) ∧
    (∃ e ∈ [Instr.portEnWrite, Instr.portDataWrite], ∃ (_p : Fin 32) (v : W32) (_s : State), fld v 29 28 ≠ 0 ∧ fld v 27 0 = 0 ∧ bit v
      31 = true) ∧
    (∃ e ∈ [Instr.portEnWrite, Instr.portDataWrite], ∃ (_p : Fin 32) (v : W32) (_s : State), fld v 29 28 ≠ 0 ∧ fld v 27 0 = 0 ∧ bit v
      31 = false) :=
  ⟨⟨0, (sPort (fun x => { x with st := .retrain })), by decide +kernel⟩,
    ⟨0, 3, (sPort (fun x => { x with st := .active, groups := 8 })), by decide +kernel⟩,
    ⟨0, (sPort (fun x => { x with st := .width, back := .active })), by decide +kernel, by decide +kernel⟩,
    ⟨0, (sPort (fun x => { x with link := { x.link with keyed := true, slots := 2 ^ 35 } })), by decide +kernel, by decide +kernel,
      fun e h => absurd (show e ∈ ([] : List (BitVec 3 × BitVec 11)) from h) List.not_mem_nil⟩,
    ⟨0, ⟨0, [], false, none⟩, s0, { (s0.port 0).link with symbols := [(4, 0)] }, by decide +kernel, by decide +kernel⟩,
    ⟨_, (List.Mem.head _), 31, 0x90000001, s0, .inr (by decide +kernel)⟩,
    ⟨_, (List.Mem.head _), 31, 0x90000000, s0, by decide +kernel, by decide +kernel, by decide +kernel⟩,
    ⟨_, (List.Mem.head _), 31, 0x10000000, s0, by decide +kernel, by decide +kernel, by decide +kernel⟩⟩

theorem wit_PacketCommandsComplete :
    (∃ (i : Fin 33) (vc : BitVec 3) (s : State) (p : Packet), (inputQueue s i).find? (fun p => pkVc p == vc.toNat) = some p ∧ routeOf
      (pathFill s i p).2 i (pathFill s i p).1 p = .endpoint ∧ packetLen p.w0 ≤ 4 + p.body.length) ∧
    (∃ (i : Fin 33) (vc : BitVec 3) (s : State) (p : Packet), ∃ n, (inputQueue s i).find? (fun p => pkVc p == vc.toNat) = some p ∧
      routeOf (pathFill s i p).2 i (pathFill s i p).1 p = .drop n ∧ packetLen p.w0 ≤ 4 + p.body.length) ∧
    (∃ (i : Fin 33) (vc : BitVec 3) (s : State) (p : Packet), ∃ q k, (inputQueue s i).find? (fun p => pkVc p == vc.toNat) = some p ∧
      routeOf (pathFill s i p).2 i (pathFill s i p).1 p = .port q k ∧ portOpen (s.port q) = true ∧ mayBegin (pathFill s i p).2
      (pathFill s i p).1 i q k = true ∧ packetLen p.w0 ≤ 4 + p.body.length) ∧
    (∃ (i : Fin 33) (vc : BitVec 3) (s : State) (p : Packet), ∃ q k, (inputQueue s i).find? (fun p => pkVc p == vc.toNat) = some p ∧
      routeOf (pathFill s i p).2 i (pathFill s i p).1 p = .port q k ∧ portOpen (s.port q) = true ∧ mayBegin (pathFill s i p).2
      (pathFill s i p).1 i q k = true ∧ 4 + p.body.length < packetLen p.w0) ∧
    (∃ e ∈ [(Instr.rdReq, 1, 2), (Instr.wrReq, 3, 4)], ∃ (s : State) (p : Packet) (port : Option Nat) (l r : List (Packet × Option
      Nat)), AtEndpoint s e.2.1 p port l r ∧ reqStatus s p = 0 ∧ hasCredit s (pkOff p / 256 % 2 ^ 31) 32 = true) ∧
    (∃ e ∈ [(Instr.rdReq, 1, 2), (Instr.wrReq, 3, 4)], ∃ (s : State) (p : Packet) (port : Option Nat) (l r : List (Packet × Option
      Nat)), AtEndpoint s e.2.1 p port l r ∧ reqStatus s p ≠ 0) ∧
    (∃ (s : State) (p : Packet) (port : Option Nat) (l r : List (Packet × Option Nat)) (x : FabTxn), AtEndpoint s 2 p port l r ∧ txnOf
      s p = some x ∧ pkType x.pkt = 1) ∧
    (∃ (s : State) (p : Packet) (port : Option Nat) (l r : List (Packet × Option Nat)) (x : FabTxn), AtEndpoint s 4 p port l r ∧ txnOf
      s p = some x ∧ pkType x.pkt = 3 ∧ pkStatus p = 0) ∧
    (∃ (s : State) (p : Packet) (port : Option Nat) (l r : List (Packet × Option Nat)) (x : FabTxn), AtEndpoint s 4 p port l r ∧ txnOf
      s p = some x ∧ pkType x.pkt = 3 ∧ pkStatus p ≠ 0) ∧
    (∃ e ∈ [(Instr.rdRsp, 2, 1), (Instr.wrAck, 4, 3)], ∃ (s : State) (p : Packet) (port : Option Nat) (l r : List (Packet × Option
      Nat)), AtEndpoint s e.2.1 p port l r ∧ (∀ x, txnOf s p = some x → pkType x.pkt ≠ e.2.2)) :=
  ⟨⟨31, 0,
      { s0.updPort 31 (fun x => { x with rx := [pkt0 1 0 []] }) with fab := { (s0.updPort 31 (fun x => { x with rx := [pkt0 1 0 []] })).fab with node := 5 } },
      _, isSome_eq (by decide +kernel), by decide +kernel, by decide +kernel⟩,
    ⟨31, 7, (s0.updPort 31 (fun x => { x with rx := [⟨at_ 21 7, 0, 0, 0, []⟩] })), _, _, isSome_eq (by decide +kernel), rfl,
      by decide +kernel⟩,
    ⟨0, 0, (s0.updPort 0 (fun x =>
      { x with st := .active, rx := [⟨at_ 44 0xFFFFE, at_ 60 1, 0, 0, []⟩], link := { x.link with credits := [(0, 64)] } })), _,
      0, _, isSome_eq (by decide +kernel), rfl, by decide +kernel, rfl, by decide +kernel⟩,
    ⟨0, 0, (s0.updPort 0 (fun x =>
      { x with st := .active, rx := [⟨at_ 44 0xFFFFE ||| at_ 7 1, at_ 60 1, 0, 0, []⟩], link := { x.link with credits := [(0, 64)] } })),
      _, 0, _, isSome_eq (by decide +kernel), rfl, by decide +kernel, rfl, by decide +kernel⟩,
    ⟨_, (List.Mem.head _), (sExp (pkt0 1 256 [])), _, _, [], [], ⟨rfl, by simp, by decide +kernel, by decide +kernel⟩,
      by decide +kernel, by decide +kernel⟩,
    ⟨_, (List.Mem.tail _ (List.Mem.head _)), (sEp (pkt0 3 256 []) []), _, _, [], [], ⟨rfl, by simp, by decide +kernel,
      by decide +kernel⟩, by decide +kernel⟩,
    ⟨(sEp (pkt0 2 256 []) [txn0 1]), _, _, [], [], _, ⟨rfl, by simp, by decide +kernel, by decide +kernel⟩, rfl, rfl⟩,
    ⟨(sEp (pkt0 4 256 []) [txn0 3]), _, _, [], [], _, ⟨rfl, by simp, by decide +kernel, by decide +kernel⟩, rfl, rfl, rfl⟩,
    ⟨(sEp { pkt0 4 256 [] with w3 := at_ 44 1 ||| at_ 35 1 } [txn0 3]), _, _, [], [], _, ⟨rfl, by simp, by decide +kernel,
      by decide +kernel⟩, rfl, rfl, by decide +kernel⟩,
    ⟨_, (List.Mem.head _), (sEp (pkt0 2 256 []) [txn0 3]), _, _, [], [], ⟨rfl, by simp, by decide +kernel, by decide +kernel⟩, fun x h
      => by obtain rfl := Option.some.inj h; decide +kernel⟩⟩

theorem wit_PacketCommandsComplete_2 :
    (∃ (id : W16) (s : State) (x : FabTxn), s.mem.fab.find? (fun t => t.id == id.toNat) = some x ∧ s.fab.timeout ≤ x.age ∧ x.retry =
      false) ∧
    (∃ (id : W16) (s : State) (x : FabTxn), s.mem.fab.find? (fun t => t.id == id.toNat) = some x ∧ s.fab.timeout ≤ x.age ∧ x.retry =
      true) ∧
    (∃ (s : State) (p : Packet) (port : Option Nat) (l r : List (Packet × Option Nat)), AtEndpoint s 5 p port l r ∧ fmAdmits s
      (mgmtReq (offEndpoint s l r) p port) = true ∧ frOp (bytesOf p.body) ≠ 4) ∧
    (∃ (s : State) (p : Packet) (port : Option Nat) (l r : List (Packet × Option Nat)), AtEndpoint s 5 p port l r ∧ fmAdmits s
      (mgmtReq (offEndpoint s l r) p port) = true ∧ frOp (bytesOf p.body) ≠ 4 ∧ keptResponse s (mgmtReq (offEndpoint s l r) p
      port) = none ∧ s.kedal.queue.length < 64) ∧
    (∃ (s : State) (p : Packet) (port : Option Nat) (l r : List (Packet × Option Nat)), AtEndpoint s 5 p port l r ∧ (fmAdmits s
      (mgmtReq (offEndpoint s l r) p port) = false ∨ frOp (bytesOf p.body) = 4)) ∧
    (∃ (s : State) (p : Packet) (port : Option Nat) (l r : List (Packet × Option Nat)) (a b c d : W64) (w : List W64), AtEndpoint s 6
      p port l r ∧ p.body = a :: b :: c :: d :: w) ∧
    (∃ s : State, fmReached s = true) :=
  ⟨⟨0, (sEp (pkt0 4 256 []) [{ txn0 3 with age := 2 ^ 40 }]), _, rfl, by decide +kernel, rfl⟩,
    ⟨0, (sEp (pkt0 4 256 []) [{ txn0 3 with age := 2 ^ 40, retry := true }]), _, rfl, by decide +kernel, rfl⟩,
    ⟨(sEp (pkt0 5 0 [0, 0, 0, 0]) []), _, _, [], [], ⟨rfl, by simp, by decide +kernel, by decide +kernel⟩, rfl, by decide +kernel⟩,
    ⟨(sEp (pkt0 5 0 [0, 0, 0, 0]) []), _, _, [], [], ⟨rfl, by simp, by decide +kernel, by decide +kernel⟩, rfl, by decide +kernel,
      rfl, by decide +kernel⟩,
    ⟨(sEp (pkt0 5 0 [4, 0, 0, 0]) []), _, _, [], [], ⟨rfl, by simp, by decide +kernel, by decide +kernel⟩, .inr (by decide +kernel)⟩,
    ⟨(sEp (pkt0 6 0 [1, 2, 3, 4]) []), _, _, [], [], _, _, _, _, _, ⟨rfl, by simp, by decide +kernel, by decide +kernel⟩, rfl⟩,
    ⟨{ s0 with fab := { s0.fab with node := 5, fmNode := 5 } }, by decide +kernel⟩⟩

theorem wit_FlitArrivalCompletes :
    (∃ e ∈ [FlitCheck.good, .tagNextKey], ∃ (p : Fin 32) (f : FlitIn) (s : State), (s.port p).st ∈ flitStates ∧ f.check = e ∧
      BitVec.ofNat 12 (fld f.ctrl 63 52) = (s.port p).link.rxSeq) ∧
    (∃ e ∈ [FlitCheck.good, .tagNextKey], ∃ (p : Fin 32) (f : FlitIn) (s : State), (s.port p).st ∈ flitStates ∧ f.check = e ∧
      BitVec.ofNat 12 (fld f.ctrl 63 52) ≠ (s.port p).link.rxSeq) ∧
    (∃ e ∈ [FlitCheck.fec, .crc, .tag], ∃ (p : Fin 32) (f : FlitIn) (s : State), (s.port p).st ∈ flitStates ∧ f.check = e ∧ (((s.port
      p).st ≠ .active ∧ (s.port p).st ≠ .activeM) ∨ ((s.port p).link.badRun < 15 ∧ (s.port p).link.tagFails < 8))) ∧
    (∃ e ∈ [FlitCheck.fec, .crc, .tag], ∃ (p : Fin 32) (f : FlitIn) (s : State), (s.port p).st ∈ flitStates ∧ f.check = e ∧ ((s.port
      p).st = .active ∨ (s.port p).st = .activeM) ∧ e = .tag ∧ (s.port p).link.tagFails = 8) :=
  ⟨⟨_, (List.Mem.head _), 0, ⟨.good, at_ 52 0xFFF, [], false⟩, (sPort (fun x =>
      { x with st := .active, link := { x.link with rxSeq := 0xFFF } })), by decide +kernel, by decide +kernel, by decide +kernel⟩,
    ⟨_, (List.Mem.tail _ (List.Mem.head _)), 0, ⟨.tagNextKey, at_ 52 0xFFF, [], false⟩, (sPort (fun x => { x with st := .active })),
      by decide +kernel, by decide +kernel, by decide +kernel⟩,
    ⟨_, (List.Mem.tail _ (List.Mem.head _)), 0, ⟨.crc, 0, [], false⟩, (sPort (fun x =>
      { x with st := .active, link := { x.link with tagFails := 7 } })), by decide +kernel, by decide +kernel, .inr
      (by decide +kernel)⟩,
    ⟨_, (List.Mem.tail _ (List.Mem.tail _ (List.Mem.head _))), 0, ⟨.tag, 0, [], false⟩, (sPort (fun x =>
      { x with st := .active, link := { x.link with tagFails := 8 } })), by decide +kernel, by decide +kernel, .inl
      (by decide +kernel), by decide +kernel, by decide +kernel⟩⟩

theorem wit_BeaconCommandsComplete :
    (∃ (p : Fin 32) (_tok : BitVec 7) (s : State), (s.port p).st.symbols = true) ∧
    (∃ (p : Fin 32) (s : State), (s.port p).st.symbols = true) ∧
    (∃ (p : Fin 32) (_w0 _w1 _w2 _w3 : W64) (s : State), (s.port p).st.symbols = true) ∧
    (∃ s : State, (s.bcn.st = .locked ∨ s.bcn.st = .acquire)) ∧
    (∃ s : State, s.bcn.st = .holdover ∧ 8 ≤ s.bcn.holdPeriods ∧ candidates s = []) ∧
    (∃ (v : W64) (us : W32) (s : State), s.bcn.st = .keeper ∧ bit v 9 = false ∧ 8 ≤ fld v 23 10 ∧ fld v 23 10 ≤ 16000 ∧ bcnAhead
      s.bcn.num (BitVec.ofNat 40 (fld v 63 24)) = true ∧ 2 ≤ (BitVec.ofNat 40 (fld v 63 24) - s.bcn.num).toNat ∧ 1000 ≤ us.toNat +
      ((BitVec.ofNat 40 (fld v 63 24) - s.bcn.num).toNat - 1) * s.bcn.period) ∧
    (∃ (v : W64) (_us : W32) (s : State), bit v 9 = false ∧ s.bcn.st ≠ .keeper) ∧
    (∃ (v : W64) (_us : W32) (s : State), bit v 9 = false ∧ s.bcn.st = .keeper ∧ (fld v 23 10 < 8 ∨ 16000 < fld v 23 10)) ∧
    (∃ (v : W64) (us : W32) (s : State), bit v 9 = false ∧ s.bcn.st = .keeper ∧ 8 ≤ fld v 23 10 ∧ fld v 23 10 ≤ 16000 ∧ (bcnAhead
      s.bcn.num (BitVec.ofNat 40 (fld v 63 24)) = false ∨ (BitVec.ofNat 40 (fld v 63 24) - s.bcn.num).toNat < 2 ∨ us.toNat +
      ((BitVec.ofNat 40 (fld v 63 24) - s.bcn.num).toNat - 1) * s.bcn.period < 1000)) :=
  ⟨⟨0, 127, (sPort (fun x => { x with st := .range })), by decide +kernel⟩,
    ⟨0, (sPort (fun x => { x with st := .range })), by decide +kernel⟩,
    ⟨0, 1, 2, 3, 4, (sPort (fun x => { x with st := .range })), by decide +kernel⟩,
    ⟨{ s0 with bcn := { s0.bcn with st := .locked, misses := 1 } }, .inl (by decide +kernel)⟩,
    ⟨{ s0 with bcn := { s0.bcn with st := .holdover, holdPeriods := 8 } }, by decide +kernel, by decide +kernel, by decide +kernel⟩,
    ⟨(at_ 24 0xABCDE ||| at_ 10 8), 1000, { s0 with bcn := { s0.bcn with st := .keeper, period := 1000, num := 0xABCDC } },
      by decide +kernel, by decide +kernel, by decide +kernel, by decide +kernel, by decide +kernel, by decide +kernel,
      by decide +kernel⟩,
    ⟨0x5FA0000, 0, { s0 with bcn := { s0.bcn with st := .acquire } }, by decide +kernel, by decide +kernel⟩,
    ⟨0, 0, { s0 with bcn := { s0.bcn with st := .keeper, period := 1000 } }, by decide +kernel, by decide +kernel, .inl
      (by decide +kernel)⟩,
    ⟨(at_ 10 8), 0, { s0 with bcn := { s0.bcn with st := .keeper, period := 1000 } }, by decide +kernel, by decide +kernel,
      by decide +kernel, by decide +kernel, .inl (by decide +kernel)⟩⟩

theorem wit_PartitionAndContextCommandsComplete :
    (∃ (c : PartCreate) (s : State), createStatus s c = 0) ∧
    (∃ (c : PartCreate) (s : State), createStatus s c ≠ 0) ∧
    (∃ (q : Fin 32) (s : State), (s.part q.val).st = .creating) ∧
    (∃ (q : Fin 32) (s : State), (s.part q.val).st = .active) ∧
    (∃ (q : Fin 32) (s : State), (s.part q.val).st = .none) ∧
    (∃ (q : Fin 32) (s : State), ((s.part q.val).st = .creating ∨ (s.part q.val).st = .destroying)) ∧
    (∃ (q : Fin 32) (s : State), (s.part q.val).st = .destroying ∧ ctxsOf s q.val (fun x => decide (x.st ≠ .dead)) = []) ∧
    (∃ (q : Fin 32) (v : Byte) (s : State), v ≠ 0 ∧ (s.part q.val).st ≠ .none) ∧
    (∃ (vf v : Byte) (s : State), vf ≠ 0 ∧ fld v 6 5 = 0 ∧ (bit v 7 = true → (s.part (fld v 4 0)).st = .active)) ∧
    (∃ (f : Byte) (e : List W64) (s : State), adminWaits s f.toNat = true ∧ fld (e.headD 0) 63 56 ≠ 2 ∧ createCtxStatus (adminTake s
      f.toNat) f.toNat e ((e.drop 8).take 8) = 0) :=
  ⟨⟨⟨31, 1, 1, 1, 3, 1, 63⟩, (s0.setKeySlot 63 ⟨true, 0, 0, 0⟩), by decide +kernel⟩,
    ⟨⟨31, 1, 1, 1, 3, 1, 63⟩, s0, by decide +kernel⟩,
    ⟨31, { s0 with parts := [(31, { part0 with st := .creating })], ctxs := [] }, by decide +kernel⟩,
    ⟨31, { s0 with parts := [(31, { part0 with st := .active })], ctxs := [] }, by decide +kernel⟩,
    ⟨31, { s0 with parts := [(31, { part0 with st := .none })], ctxs := [] }, by decide +kernel⟩,
    ⟨31, { s0 with parts := [(31, { part0 with st := .destroying })], ctxs := [] }, .inr (by decide +kernel)⟩,
    ⟨31, { s0 with parts := [(31, { part0 with st := .destroying })], ctxs := [] }, by decide +kernel, by decide +kernel⟩,
    ⟨31, 255, { s0 with parts := [(31, { part0 with st := .active })], ctxs := [] }, by decide +kernel, by decide +kernel⟩,
    ⟨255, 0x9F, { s0 with parts := [(31, { part0 with st := .active })], ctxs := [] }, by decide +kernel, by decide +kernel,
      by decide +kernel⟩,
    ⟨0, create0,
      { { sRing 1 0 id with host := ((sRing 1 0 id).setFn 0 { HostFn.dflt with adminSq := ring1 }).host } with host := { ({ sRing 1 0 id with host := ((sRing 1 0 id).setFn 0 { HostFn.dflt with adminSq := ring1 }).host }).host with ready := true, perst := false } },
      by decide +kernel, by decide +kernel, by decide +kernel⟩⟩

theorem wit_PartitionAndContextCommandsComplete_2 :
    (∃ (f : Byte) (e : List W64) (s : State), adminWaits s f.toNat = true ∧ fld (e.headD 0) 63 56 ≠ 2 ∧ createCtxStatus (adminTake s
      f.toNat) f.toNat e ((e.drop 8).take 8) ≠ 0) ∧
    (∃ (f : Byte) (e : List W64) (s : State), adminWaits s f.toNat = true ∧ fld (e.headD 0) 63 56 = 2 ∧ s.host.ready = true ∧ fld
      (e.headD 0) 43 32 = 0 ∧ (∀ w ∈ e.drop 1, w = 0) ∧ (s.ctx (fld (e.headD 0) 55 44)).st ∉ [CtxState.free, .dead] ∧ ((f = 0 ∨
      (s.ctx (fld (e.headD 0) 55 44)).fn = f))) ∧
    (∃ (f : Byte) (e : List W64) (s : State), adminWaits s f.toNat = true ∧ fld (e.headD 0) 63 56 = 2 ∧ s.host.ready = true ∧ fld
      (e.headD 0) 43 32 = 0 ∧ (∀ w ∈ e.drop 1, w = 0) ∧ (s.ctx (fld (e.headD 0) 55 44)).st = .dead ∧ ((f = 0 ∨ (s.ctx (fld
      (e.headD 0) 55 44)).fn = f))) ∧
    (∃ (n : BitVec 12) (s : State), (s.ctx n.toNat).st = .teardown ∧ (∀ e ∈ heldCores s n.toNat, coreEnded (drainedCtx s n.toNat) e.1
      = true) ∧ cqRoom (drainedCtx s n.toNat) n.toNat true ≠ some false) ∧
    (∃ (k : Fin 256) (s : State) (n i : Nat), (s.core k.val).ctx = some (n, i) ∧ (s.ctx n).st = .saving ∧ (s.core k.val).quiet = false
      ∧ (enginesStopped ((drainedCore s k.val).core k.val) && coreQuiet (drainedCore s k.val) k.val) = true) ∧
    (∃ (n : BitVec 12) (s : State), (s.ctx n.toNat).st = .saving ∧ heldCores s n.toNat ≠ [] ∧ (∀ e ∈ heldCores s n.toNat, (s.core
      e.1).quiet = true)) ∧
    (∃ (n : BitVec 12) (s : State), (s.ctx n.toNat).st = .restoring ∧ (((s.ctx n.toNat).fresh = true ∨ (∀ e ∈ heldCores s n.toNat,
      badImage s (saveArea (s.ctx n.toNat) e.2) = false ∧ ((s.ctx n.toNat).resumed = true → badEdit s (saveArea (s.ctx n.toNat)
      e.2) = false) ∧ poisonedImage s (saveArea (s.ctx n.toNat) e.2) ((s.core e.1).resid == some (n.toNat, e.2)) = false)))) :=
  ⟨⟨0, [],
      { { sRing 1 0 id with host := ((sRing 1 0 id).setFn 0 { HostFn.dflt with adminSq := ring1 }).host } with host := { ({ sRing 1 0 id with host := ((sRing 1 0 id).setFn 0 { HostFn.dflt with adminSq := ring1 }).host }).host with ready := true, perst := false } },
      by decide +kernel, by decide +kernel, by decide +kernel⟩,
    ⟨0, [0x0200000000000000],
      { { sRing 1 0 id with host := ((sRing 1 0 id).setFn 0 { HostFn.dflt with adminSq := ring1 }).host } with host := { ({ sRing 1 0 id with host := ((sRing 1 0 id).setFn 0 { HostFn.dflt with adminSq := ring1 }).host }).host with ready := true, perst := false } },
      by decide +kernel, by decide +kernel, by decide +kernel, by decide +kernel, by simp, by decide +kernel, .inl rfl⟩,
    ⟨0, [0x0200000000000000],
      { { sRing 1 0 (fun x => { x with st := .dead }) with host := ((sRing 1 0 id).setFn 0 { HostFn.dflt with adminSq := ring1 }).host } with host := { ({ sRing 1 0 (fun x => { x with st := .dead }) with host := ((sRing 1 0 id).setFn 0 { HostFn.dflt with adminSq := ring1 }).host }).host with ready := true, perst := false } },
      by decide +kernel, by decide +kernel, by decide +kernel, by decide +kernel, by simp, by decide +kernel, .inl rfl⟩,
    ⟨0, (sRing 1 3 (fun x => { x with st := .teardown })), by decide +kernel, by decide +kernel, by decide +kernel⟩,
    ⟨0, (sRing 1 0 (fun x => { x with st := .saving })), 0, 0, by decide +kernel, by decide +kernel, by decide +kernel,
      by decide +kernel⟩,
    ⟨0, { s0 with cores := [(0, { core0 with quiet := true })], ctxs := [(0, { ctx0 with st := .saving })] }, by decide +kernel,
      by decide +kernel, by decide +kernel⟩,
    ⟨0, (sRing 1 0 (fun x => { x with st := .restoring, fresh := true })), by decide +kernel, .inl (by decide +kernel)⟩⟩

theorem wit_HostCommandsComplete :
    (∃ s : State, s.host.perst = false) ∧
    (∃ (vf : Byte) (_s : State), vf ≠ 0) ∧
    (∃ (n : BitVec 12) (h e : List W64) (s : State), mayTake (s.ctx n.toNat) = true ∧ sqEntry s n.toNat h = some e ∧ fld (e.headD 0)
      63 56 = 1 ∧ fld (e.headD 0) 55 33 = 0 ∧ (∀ w ∈ e.drop 3, w = 0)) ∧
    (∃ (n : BitVec 12) (h e : List W64) (s : State), mayTake (s.ctx n.toNat) = true ∧ sqEntry s n.toNat h = some e ∧ fld (e.headD 0)
      63 56 ≠ 2 ∧ (fld (e.headD 0) 63 56 ≠ 1 ∨ fld (e.headD 0) 55 33 ≠ 0 ∨ (∃ w ∈ e.drop 3, w ≠ 0))) ∧
    (∃ (n : BitVec 12) (h e : List W64) (s : State), mayTake (s.ctx n.toNat) = true ∧ sqEntry s n.toNat h = some e ∧ fld (e.headD 0)
      63 56 = 2 ∧ (fld (e.headD 0) 55 33 ≠ 0 ∨ (∃ w ∈ e.drop 3, w ≠ 0))) ∧
    (∃ (n : BitVec 12) (h e : List W64) (s : State), ∃ u st, mayTake (s.ctx n.toNat) = true ∧ sqEntry s n.toNat h = some e ∧ fld
      (e.headD 0) 63 56 = 2 ∧ fld (e.headD 0) 55 33 = 0 ∧ (∀ w ∈ e.drop 3, w = 0) ∧ cqRoom s n.toNat false = some true ∧
      writeRecord (takeEntry s n.toNat) n.toNat 2 0 (fld (e.headD 0) 31 0) (bit (e.headD 0) 32) = some (u, st)) ∧
    (∃ (n : BitVec 12) (h e : List W64) (s : State), mayTake (s.ctx n.toNat) = true ∧ sqEntry s n.toNat h = some e ∧ fld (e.headD 0)
      63 56 = 2 ∧ fld (e.headD 0) 55 33 = 0 ∧ (∀ w ∈ e.drop 3, w = 0) ∧ cqRoom s n.toNat false = some false) ∧
    (∃ (n : BitVec 12) (h e : List W64) (s : State), mayTake (s.ctx n.toNat) = true ∧ sqEntry s n.toNat h = some e ∧ fld (e.headD 0)
      63 56 = 2 ∧ fld (e.headD 0) 55 33 = 0 ∧ (∀ w ∈ e.drop 3, w = 0) ∧ cqRoom s n.toNat false = none) ∧
    (∃ (n : BitVec 12) (s : State) (w0 : W64), ∃ u st, (s.ctx n.toNat).kernel = some w0 ∧ (s.ctx n.toNat).st ∈ [CtxState.running,
      .holding] ∧ heldCores s n.toNat ≠ [] ∧ (∀ e ∈ heldCores s n.toNat, (s.core e.1).kend = 2) ∧ cqRoom s n.toNat false = some
      true ∧ writeRecord s n.toNat 1 0 (fld w0 31 0) (bit w0 32) = some (u, st)) ∧
    (∃ (n : BitVec 12) (s : State) (w0 : W64), (s.ctx n.toNat).kernel = some w0 ∧ (s.ctx n.toNat).st ∈ [CtxState.running, .holding] ∧
      heldCores s n.toNat ≠ [] ∧ (∀ e ∈ heldCores s n.toNat, (s.core e.1).kend = 2) ∧ cqRoom s n.toNat false = some false) :=
  ⟨⟨(sHost (fun h => { h with perst := false })), by decide +kernel⟩,
    ⟨255, s0, by decide +kernel⟩,
    ⟨0, [], [0x0100000000000000, 0, 0, 0, 0, 0, 0, 0], (sRing 1 0 id), by decide +kernel, by decide +kernel, by decide +kernel,
      by decide +kernel, by simp⟩,
    ⟨0, [], [0x0300000000000000, 0, 0, 0, 0, 0, 0, 0], (sRing 3 0 id), by decide +kernel, by decide +kernel, by decide +kernel, .inl
      (by decide +kernel)⟩,
    ⟨0, [], [0x0202000000000000, 0, 0, 0, 0, 0, 0, 0],
      { sRing 2 0 id with mem := { (sRing 2 0 id).mem with hbm := mwrite (sRing 2 0 id).mem.hbm 0x5000 8 0x0202000000000000 } },
      by decide +kernel, by decide +kernel, by decide +kernel, .inl (by decide +kernel)⟩,
    ⟨0, [], [0x0200000000000000, 0, 0, 0, 0, 0, 0, 0], (sRing 2 0 id), _, _, by decide +kernel, by decide +kernel, by decide +kernel,
      by decide +kernel, by simp, by decide +kernel, some_of (by decide +kernel)⟩,
    ⟨0, [], [0x0200000000000000, 0, 0, 0, 0, 0, 0, 0], (sRing 2 0 (fun x => { x with cqTail := 15 })), by decide +kernel,
      by decide +kernel, by decide +kernel, by decide +kernel, by simp, by decide +kernel⟩,
    ⟨0, [], [0x0200000000000000, 0, 0, 0, 0, 0, 0, 0], (sRing 2 0 (fun x =>
      { x with desc := [0, 0x1001, 0, 0, 0, 4, 0x100000004, 0] })), by decide +kernel, by decide +kernel, by decide +kernel,
      by decide +kernel, by simp, by decide +kernel⟩,
    ⟨0, (sRing 1 2 (fun x => { x with kernel := some 0 })), 0, _, _, by decide +kernel, by decide +kernel, by decide +kernel,
      by decide +kernel, by decide +kernel, some_of (by decide +kernel)⟩,
    ⟨0, (sRing 1 2 (fun x => { x with kernel := some 0, cqTail := 15 })), 0, by decide +kernel, by decide +kernel, by decide +kernel,
      by decide +kernel, by decide +kernel⟩⟩

theorem wit_HostCommandsComplete_2 :
    (∃ (n : BitVec 12) (s : State) (w0 : W64), (s.ctx n.toNat).kernel = some w0 ∧ (s.ctx n.toNat).st ∈ [CtxState.running, .holding] ∧
      heldCores s n.toNat ≠ [] ∧ (∀ e ∈ heldCores s n.toNat, (s.core e.1).kend = 2) ∧ cqRoom s n.toNat false = none) ∧
    (∃ (n : BitVec 12) (s : State) (f v : Nat), (s.ctx n.toNat).timer = true ∧ (s.ctx n.toNat).sinceIrq ≠ 0 ∧ f = (s.ctx
      n.toNat).fn.toNat ∧ v = fld ((s.ctx n.toNat).word 7) 42 32) ∧
    (∃ (s : State) (b : Bank), b = s.bank s.sec.running) ∧
    (∃ (_n : Fin 9) (a : List (W64 × W64)) (s : State), s.sec.session = true ∧ a.length ≤ 4) ∧
    (∃ (n : Fin 9) (_j : Fin 12) (_k : BitVec 256) (s : State), s.sec.session = true ∧ (tfind s.host.ide n.val).isSome = true) ∧
    (∃ (_sp : BitVec 4) (_w : BitVec 5) (_f : Bool) (s : State), LinkMayTrain s) ∧
    (∃ (sp : BitVec 4) (w : BitVec 5) (_f : Bool) (s : State), LinkMayTrain s ∧ 1 ≤ sp.toNat ∧ sp.toNat ≤ 7 ∧ w.toNat ∈ [1, 2, 4, 8,
      16]) ∧
    (∃ (tag : W16) (_d : List Byte) (s : State) (r : HostRead), ∃ k id k2 a, s.mem.hostRd.find? (fun r => r.tag == tag.toNat) = some r
      ∧ r.owner = .access k id ∧ accOf s [k] id = some (k2, a)) ∧
    (∃ (tag : W16) (_d : List Byte) (s : State) (r : HostRead), ∃ k seq e q x, s.mem.hostRd.find? (fun r => r.tag == tag.toNat) = some
      r ∧ r.owner = .dma k seq e ∧ dmaFind s k seq = some q ∧ q.reqs.find? (fun x => x.1 == e) = some x) ∧
    (∃ (tag : W16) (_d : List Byte) (s : State) (r : HostRead), ∃ k face id, s.mem.hostRd.find? (fun r => r.tag == tag.toNat) = some r
      ∧ r.owner = .fence k face id) :=
  ⟨⟨0, (sRing 1 2 (fun x => { x with kernel := some 0, desc := [0, 0x1001, 0, 0, 0, 4, 0x100000004, 0] })), 0, by decide +kernel,
      by decide +kernel, by decide +kernel, by decide +kernel, by decide +kernel⟩,
    ⟨0, (sRing 1 0 (fun x => { x with timer := true, sinceIrq := 1 })), 0, 0, by decide +kernel, by decide +kernel, by decide +kernel,
      by decide +kernel⟩,
    ⟨s0, _, rfl⟩,
    ⟨8, [(0, 1), (2, 3), (4, 5), (6, 7)], { s0 with sec := { s0.sec with session := true } }, by decide +kernel, by decide +kernel⟩,
    ⟨8, 11, 7, { sHost (fun h => { h with ide := [(8, ⟨false, [], []⟩)] }) with sec := { s0.sec with session := true } },
      by decide +kernel, by decide +kernel⟩,
    ⟨0, 0, false, { sHost (fun h => { h with perst := false }) with pwr := { s0.pwr with start := 0x0C } }, ⟨by decide +kernel,
      by decide +kernel, by decide +kernel⟩⟩,
    ⟨7, 16, true, { sHost (fun h => { h with perst := false }) with pwr := { s0.pwr with start := 0x0C } }, ⟨by decide +kernel,
      by decide +kernel, by decide +kernel⟩, by decide +kernel, by decide +kernel, by decide +kernel⟩,
    ⟨0, [], { sAcc [] with mem := { (sAcc []).mem with hostRd := [⟨0, 0, 8, .access 0 7, 0⟩] } }, _, 0, 7, _, _, isSome_eq
      (by decide +kernel), by decide +kernel, some_of (by decide +kernel)⟩,
    ⟨0, [],
      { sDma { dma0 .moving 0 0 with reqs := [(1, 0, 0, false)] } with mem := { (sDma { dma0 .moving 0 0 with reqs := [(1, 0, 0, false)] }).mem with hostRd := [⟨0, 0, 8, .dma 0 1 1, 0⟩] } },
      _, 0, 1, 1, _, _, isSome_eq (by decide +kernel), by decide +kernel, isSome_eq (by decide +kernel), isSome_eq
      (by decide +kernel)⟩,
    ⟨0, [], { s0 with mem := { (s0).mem with hostRd := [⟨0, 0, 8, .fence 255 8 7, 0⟩] } }, _, 255, 8, 7, isSome_eq
      (by decide +kernel), by decide +kernel⟩⟩

theorem wit_HostCommandsComplete_3 :
    (∃ (tag : W16) (_d : List Byte) (s : State) (r : HostRead), ∃ k seq, s.mem.hostRd.find? (fun r => r.tag == tag.toNat) = some r ∧
      r.owner = .dmaFence k seq) ∧
    (∃ (tag : W16) (_d : List Byte) (s : State) (r : HostRead), ∃ n i, s.mem.hostRd.find? (fun r => r.tag == tag.toNat) = some r ∧
      r.owner = .cq n i) :=
  ⟨⟨0, [], { s0 with mem := { (s0).mem with hostRd := [⟨0, 0, 8, .dmaFence 255 7, 0⟩] } }, _, 255, 7, isSome_eq (by decide +kernel),
      by decide +kernel⟩,
    ⟨0, [], { s0 with mem := { (s0).mem with hostRd := [⟨0, 0, 8, .cq 0 1, 0⟩] } }, _, 0, 1, isSome_eq (by decide +kernel),
      by decide +kernel⟩⟩

theorem wit_DictionaryCommandsComplete :
    (∃ (src : W64) (_node : BitVec 20) (et : W16) (b : Bool) (f : List Byte) (s : State) (q : KReq), kedalUp s = true ∧ q = ⟨.field,
      src, f.take (32 + frBodyLen f), setBit src 56 true, false⟩ ∧ et.toNat = etherType s ∧ frOp q.frame ≠ 4 ∧ ((b = false ∨ (frOp
      q.frame = 1 ∧ 0x1000 ≤ frIndex q.frame ∧ frIndex q.frame ≤ 0x10FF)))) ∧
    (∃ (src : W64) (_node : BitVec 20) (et : W16) (b : Bool) (f : List Byte) (s : State) (q : KReq), kedalUp s = true ∧ q = ⟨.field,
      src, f.take (32 + frBodyLen f), setBit src 56 true, false⟩ ∧ (et.toNat ≠ etherType s ∨ frOp q.frame = 4 ∨ (b = true ∧ frOp
      q.frame ≠ 1))) ∧
    (∃ (src : W64) (node : BitVec 20) (_et : W16) (_b : Bool) (f : List Byte) (s : State) (q : KReq), kedalUp s = true ∧ q = ⟨.fabric,
      if 2 ^ 60 ≤ src.toNat then src else node.setWidth 64, f.take (32 + frBodyLen f), node.setWidth 64, false⟩ ∧ frOp q.frame ≠ 4
      ∧ ((s.fab.fmNode = 0xFFFFF#20 ∨ node = s.fab.fmNode))) ∧
    (∃ (src : W64) (node : BitVec 20) (_et : W16) (_b : Bool) (f : List Byte) (s : State) (q : KReq), kedalUp s = true ∧ q = ⟨.fabric,
      if 2 ^ 60 ≤ src.toNat then src else node.setWidth 64, f.take (32 + frBodyLen f), node.setWidth 64, false⟩ ∧ (frOp q.frame =
      4 ∨ (s.fab.fmNode ≠ 0xFFFFF#20 ∧ node ≠ s.fab.fmNode))) ∧
    (∃ (k : Fin 16) (f x : List Byte) (st : Option (Fin 9)) (s : State), x = (f ++ List.replicate 288 0#8).take 288 ∧ hostTakes s 0 st
      = true ∧ kedalUp s = true ∧ s.pwr.start ≠ 0 ∧ bit (s.kslot k.val).ctrl 30 = false) ∧
    (∃ (s w : State) (q : KReq) (r : List KReq) (o : Obj) (v : List Byte), AtHead s q r ∧ frOp q.frame ≠ 2 ∧ frOp q.frame ≠ 3 ∧ kCheck
      (unqueued s r) q = .inr o ∧ w = noteSeen (unqueued s r) (frIndex q.frame) (frSub q.frame) ∧ v = objVal w (frIndex q.frame)
      (frSub q.frame) ∧ quoteRunning (unqueued s r) (frWho q.frame) (frIndex q.frame) (frSub q.frame) = false) ∧
    (∃ (s w : State) (q : KReq) (r : List KReq) (o : Obj) (v : List Byte), AtHead s q r ∧ frOp q.frame ≠ 2 ∧ frOp q.frame ≠ 3 ∧ kCheck
      (unqueued s r) q = .inr o ∧ w = noteSeen (unqueued s r) (frIndex q.frame) (frSub q.frame) ∧ v = objVal w (frIndex q.frame)
      (frSub q.frame) ∧ quoteRunning (unqueued s r) (frWho q.frame) (frIndex q.frame) (frSub q.frame) = true) ∧
    (∃ (s : State) (q : KReq) (r : List KReq) (o : Obj), AtHead s q r ∧ frOp q.frame = 2 ∧ kCheck (unqueued s r) q = .inr o) ∧
    (∃ (s : State) (q : KReq) (r : List KReq) (o : Obj), AtHead s q r ∧ frOp q.frame = 3 ∧ ((frIndex q.frame ≠ 0x1020 ∨ s.sec.fw ≠
      .verifying)) ∧ kCheck (unqueued s r) q = .inr o ∧ cwriteCheck (unqueued s r) q.frame = 0) ∧
    (∃ (s : State) (q : KReq) (r : List KReq) (o : Obj), AtHead s q r ∧ frOp q.frame = 3 ∧ ((frIndex q.frame ≠ 0x1020 ∨ s.sec.fw ≠
      .verifying)) ∧ kCheck (unqueued s r) q = .inr o ∧ cwriteCheck (unqueued s r) q.frame ≠ 0) :=
  ⟨⟨5, 9, 0x88B5, false, (frame0 1 0x4000 1 3 0 256 []), (sKd []), _, by decide +kernel, rfl, by decide +kernel, by decide +kernel,
      .inl rfl⟩,
    ⟨5, 9, 0x88B5, true, (frame0 4 0x4000 1 3 0 256 []), (sKd []), _, by decide +kernel, rfl, .inr (by decide +kernel)⟩,
    ⟨5, 9, 0, false, (frame0 1 0x4000 1 3 0 256 []), { sKd [] with fab := { s0.fab with fmNode := 9 } }, _, by decide +kernel, rfl,
      by decide +kernel, .inr (by decide +kernel)⟩,
    ⟨5, 9, 0, false, (frame0 1 0x4000 1 3 0 256 []), { sKd [] with fab := { s0.fab with fmNode := 8 } }, _, by decide +kernel, rfl,
      .inr (by decide +kernel)⟩,
    ⟨15, (frame0 1 0x4000 1 3 0 256 []), _, none, { sKd [] with host := { s0.host with perst := false } }, rfl, by decide +kernel,
      by decide +kernel, by decide +kernel, by decide +kernel⟩,
    ⟨(sKd [req0 1 0x4000 1 3 0 256 []]), _, (req0 1 0x4000 1 3 0 256 []), [], _, _, ⟨rfl, by decide +kernel, by decide +kernel⟩,
      by decide +kernel, by decide +kernel, inr_of (by decide +kernel), rfl, rfl, by decide +kernel⟩,
    ⟨{ sKd [req0 1 0x8300 2 10 0 256 []] with sec := { s0.sec with quoteBusy := some (frWho (req0 1 0x8300 2 10 0 256 []).frame, [1]) } },
      _, (req0 1 0x8300 2 10 0 256 []), [], _, _, ⟨rfl, by decide +kernel, by decide +kernel⟩, by decide +kernel,
      by decide +kernel, inr_of (by decide +kernel), rfl, rfl, by decide +kernel⟩,
    ⟨(sKd [req0 2 0x4210 1 1 0 0 [0x80]]), (req0 2 0x4210 1 1 0 0 [0x80]), [], _, ⟨rfl, by decide +kernel, by decide +kernel⟩,
      by decide +kernel, inr_of (by decide +kernel)⟩,
    ⟨(sKey [req0 3 0x4400 1 9 0x40 1 (List.replicate 16 0 ++ tag0)]), (req0 3 0x4400 1 9 0x40 1 (List.replicate 16 0 ++ tag0)), [], _,
      ⟨rfl, by decide +kernel, by decide +kernel⟩, by decide +kernel, .inl (by decide +kernel), inr_of (by decide +kernel),
      by decide +kernel⟩,
    ⟨(sKey [req0 3 0x4400 1 9 0x40 1 (List.replicate 32 0)]), (req0 3 0x4400 1 9 0x40 1 (List.replicate 32 0)), [], _, ⟨rfl,
      by decide +kernel, by decide +kernel⟩, by decide +kernel, .inl (by decide +kernel), inr_of (by decide +kernel),
      by decide +kernel⟩⟩

theorem wit_DictionaryCommandsComplete_2 :
    (∃ e ∈ [(Instr.kRead, 1), (Instr.kWrite, 2), (Instr.kCwrite, 3)], ∃ (s : State) (q : KReq) (r : List KReq) (st : Nat), AtHead s q
      r ∧ frOp q.frame = e.2 ∧ ((frIndex q.frame ≠ 0x1020 ∨ s.sec.fw ≠ .verifying)) ∧ kCheck (unqueued s r) q = .inl st) ∧
    (∃ e ∈ [(Instr.kRead, 1), (Instr.kWrite, 2), (Instr.kCwrite, 3)], ∃ (s : State) (q : KReq) (r : List KReq), s.kedal.queue = q :: r
      ∧ kedalUp s = true ∧ fmAdmits s q = false ∧ frOp q.frame = e.2 ∧ ((frIndex q.frame ≠ 0x1020 ∨ s.sec.fw ≠ .verifying))) ∧
    (∃ (v : W32) (s : State), s.fab.node = 0xFFFFF#20 ∧ s.fab.nodeNew = none ∧ v.toNat ≤ 0xFFFFD) ∧
    (∃ (v : W32) (s : State), (s.fab.node ≠ 0xFFFFF#20 ∨ s.fab.nodeNew.isSome = true ∨ 0xFFFFD < v.toNat)) ∧
    (∃ e ∈ [Instr.routeCommit, Instr.routeCommitCancel], ∃ (v : W64) (_s : State), fld v 23 9 ≠ 0) ∧
    (∃ e ∈ [Instr.routeCommit, Instr.routeCommitCancel], ∃ (v : W64) (s : State), fld v 23 9 = 0 ∧ bit v 8 = false ∧
      s.fab.commit.status ≠ 1) ∧
    (∃ e ∈ [Instr.routeCommit, Instr.routeCommitCancel], ∃ (v : W64) (s : State), fld v 23 9 = 0 ∧ bit v 8 = false ∧
      s.fab.commit.status = 1) ∧
    (∃ e ∈ [Instr.routeCommit, Instr.routeCommitCancel], ∃ (v : W64) (_s : State), fld v 23 9 = 0 ∧ bit v 8 = true) :=
  ⟨⟨_, (List.Mem.head _), (sKd [req0 1 0x5000 1 3 0 256 []]), (req0 1 0x5000 1 3 0 256 []), [], _, ⟨rfl, by decide +kernel,
      by decide +kernel⟩, by decide +kernel, .inl (by decide +kernel), inl_of (by decide +kernel)⟩,
    ⟨_, (List.Mem.tail _ (List.Mem.head _)),
      { sKd [{ req0 2 0x4210 1 1 0 0 [0x80] with path := .fabric, src := 5, sender := 5 }] with fab := { s0.fab with fmNode := 9 } },
      { req0 2 0x4210 1 1 0 0 [0x80] with path := .fabric, src := 5, sender := 5 }, [], rfl, by decide +kernel, by decide +kernel,
      by decide +kernel, .inl (by decide +kernel)⟩,
    ⟨0xFFFFD, s0, by decide +kernel, by decide +kernel, by decide +kernel⟩,
    ⟨0xFFFFE, s0, .inr (.inr (by decide +kernel))⟩,
    ⟨_, (List.Mem.head _), 0x200, s0, by decide +kernel⟩,
    ⟨_, (List.Mem.head _), 0, s0, by decide +kernel, by decide +kernel, by decide +kernel⟩,
    ⟨_, (List.Mem.head _), 0, { s0 with fab := { s0.fab with commit := ⟨7, 1⟩ } }, by decide +kernel, by decide +kernel,
      by decide +kernel⟩,
    ⟨_, (List.Mem.head _), 0x100, s0, by decide +kernel, by decide +kernel⟩⟩

theorem wit_KeysAndFirmwareComplete :
    (∃ e ∈ [(Instr.keyEstablish, false), (Instr.keyClaim, true)], ∃ (c : KeyCmd) (s : State) (ct key : List Byte), key = derivedKey s
      c.slot.toNat c.principal.toNat c.digest ct ∧ c.rsv = 0 ∧ 0x40 ≤ c.slot.toNat ∧ c.slot.toNat ≤ 0x4F ∧ (s.keySlot
      c.slot.toNat).inUse = false ∧ stagedText s = some ct ∧ digOf (sha256 ct) = c.digest ∧ keyProof s c.slot.toNat
      c.principal.toNat c.digest key = c.proof.toNat ∧ c.principal ∈ [1#2, 2#2] ∧ c.principal.toNat = princCode c.signer ∧
      s.kedal.flashBad = false ∧ (e.2 = true → c.path = .field ∧ ∀ x ∈ s.sec.slots, isDictSlot x.1 = true → x.2.inUse = true →
      x.2.principal ≠ c.principal)) ∧
    (∃ (c : KeyCmd) (s : State), keyPlain c = true ∧ isMemSlot c.slot.toNat = true ∧ (s.keySlot c.slot.toNat).inUse = false ∧
      s.kedal.flashBad = false) ∧
    (∃ (c : KeyCmd) (s : State), keyPlain c = true ∧ (s.keySlot c.slot.toNat).inUse = true ∧ s.kedal.flashBad = false ∧ (((isDictSlot
      c.slot.toNat = true ∧ (s.keySlot c.slot.toNat).principal.toNat = princCode c.signer) ∨ (isMemSlot c.slot.toNat = true ∧
      boundPart s c.slot.toNat = none)))) ∧
    (∃ (who : Principal) (kind : Byte) (part : BitVec 5) (rsv : BitVec 3) (_nonce : BitVec 256) (s : State), rsv = 0 ∧ QuoteAllowed s
      who kind part ∧ ¬ QuoteBusy s who ∧ s.sec.quoteBusy = none) ∧
    (∃ (who : Principal) (kind : Byte) (part : BitVec 5) (rsv : BitVec 3) (_nonce : BitVec 256) (s : State), rsv = 0 ∧ QuoteAllowed s
      who kind part ∧ ¬ QuoteBusy s who ∧ s.sec.quoteBusy ≠ none) ∧
    (∃ (who : Principal) (kind : Byte) (part : BitVec 5) (rsv : BitVec 3) (_nonce : BitVec 256) (s : State), (rsv ≠ 0 ∨ ¬ QuoteAllowed
      s who kind part ∨ QuoteBusy s who)) ∧
    (∃ (s u : State) (who : Principal) (bs : List Byte), s.sec.quoteBusy = some (who, bs) ∧ u =
      { s with sec := { s.sec with quoteBusy := none, results := tput s.sec.results (resultKey who) (bs ++ leBytes 7856 (Config.slhSign identSeed bs).toNat) } }
      ∧ s.sec.quotes = []) ∧
    (∃ (s u : State) (who : Principal) (bs : List Byte), ∃ q r, s.sec.quoteBusy = some (who, bs) ∧ u =
      { s with sec := { s.sec with quoteBusy := none, results := tput s.sec.results (resultKey who) (bs ++ leBytes 7856 (Config.slhSign identSeed bs).toNat) } }
      ∧ s.sec.quotes = q :: r) ∧
    (∃ (c : FwCmd) (s : State), c.rsv = 0 ∧ c.rsv2 = 0 ∧ c.len.toNat ≤ 2 ^ 23 ∧ s.sec.fw ∉ [FwState.receiving, .verifying]) ∧
    (∃ (c : FwCmd) (s : State), c.rsv = 0 ∧ c.rsv2 = 0 ∧ s.sec.fw = .receiving) :=
  ⟨free_of (digOf (sha256 ct0)) fun d hd => ⟨_, List.Mem.tail _ (List.Mem.head _), ⟨0x40, 1, 0, d, BitVec.ofNat 128 (keyProof sStage
      0x40 1 d (derivedKey sStage 0x40 1 d ct0)), .fm, .field⟩, sStage, ct0, _, rfl, rfl, (by decide : 64 ≤ (64#8).toNat),
      (by decide : (64#8).toNat ≤ 79), (by decide +kernel : (sStage.keySlot 64).inUse = false), by decide +kernel, hd,
      keyProof_toNat _ _ _ _ _, List.Mem.head _, rfl, by decide +kernel, fun _ => ⟨rfl, (by decide +kernel : ∀ x ∈
      sStage.sec.slots, isDictSlot x.1 = true → x.2.inUse = true → x.2.principal ≠ 1#2)⟩⟩,
    ⟨⟨63, 0, 0, 0, 0, .fm, .field⟩, (sKd []), by decide +kernel, by decide +kernel, by decide +kernel, by decide +kernel⟩,
    ⟨⟨63, 0, 0, 0, 0, .fm, .field⟩, (sKd []).setKeySlot 63 ⟨true, 0, 0, 0⟩, by decide +kernel, by decide +kernel, by decide +kernel,
      .inr (by decide +kernel)⟩,
    ⟨(.tenant 3), 2, 31, 0, 0, { s0 with bindings := [(3, 0x9F)], sec := { s0.sec with quoteBusy := none } }, by decide +kernel,
      ⟨by decide, fun v h => by cases h; exact ⟨rfl, by decide +kernel, by decide +kernel⟩⟩, by unfold QuoteBusy; decide +kernel,
      by decide +kernel⟩,
    ⟨(.tenant 3), 2, 31, 0, 0, { s0 with bindings := [(3, 0x9F)], sec := { s0.sec with quoteBusy := some (.fm, [1]) } },
      by decide +kernel, ⟨by decide, fun v h => by cases h; exact ⟨rfl, by decide +kernel, by decide +kernel⟩⟩,
      by unfold QuoteBusy; decide +kernel, by decide +kernel⟩,
    ⟨(.tenant 3), 2, 31, 0, 0, { s0 with bindings := [(3, 0x9F)], sec := { s0.sec with quoteBusy := some (.tenant 3, [1]) } }, .inr
      (.inr (.inr (.inl rfl)))⟩,
    ⟨{ s0 with sec := { s0.sec with quoteBusy := some (.fm, [1]), quotes := [] } }, _, .fm, [1], by decide +kernel, rfl,
      by decide +kernel⟩,
    ⟨{ s0 with sec := { s0.sec with quoteBusy := some (.fm, [1]), quotes := [⟨.ha, 1, 0, 0⟩] } }, _, .fm, [1], _, _,
      by decide +kernel, rfl, rfl⟩,
    ⟨⟨0, 0x800000, 0, 0, 0⟩, s0, by decide +kernel, by decide +kernel, by decide +kernel, by decide +kernel⟩,
    ⟨⟨0, 0x800000, 0, 0, 0⟩, { s0 with sec := { s0.sec with fw := .receiving, fwLen := 248 } }, by decide +kernel, by decide +kernel,
      by decide +kernel⟩⟩

theorem wit_KeysAndFirmwareComplete_2 :
    (∃ (c : FwCmd) (s : State), c.rsv = 0 ∧ c.rsv2 = 0 ∧ s.sec.fw = .receiving) ∧
    (∃ (c : FwCmd) (s : State), c.rsv = 0 ∧ c.rsv2 = 0 ∧ c.svn.toNat ≤ (s.bank s.sec.running).svn.toNat ∧ s.sec.minSvn.toNat ≤
      c.svn.toNat) ∧
    (∃ (c : FwCmd) (s : State), c.rsv = 0 ∧ c.rsv2 = 0 ∧ (2 ^ 23 < c.len.toNat ∨ s.sec.fw ∈ [FwState.receiving, .verifying])) ∧
    (∃ (c : FwCmd) (s : State), c.rsv = 0 ∧ c.rsv2 = 0 ∧ s.sec.fw ≠ .receiving) ∧
    (∃ (c : FwCmd) (s : State), c.rsv = 0 ∧ c.rsv2 = 0 ∧ ((s.bank s.sec.running).svn.toNat < c.svn.toNat ∨ c.svn.toNat <
      s.sec.minSvn.toNat)) ∧
    (∃ (d : List Byte) (s : State), s.sec.fw = .receiving ∧ 9 ≤ d.length ∧ d.length ≤ 256 ∧ leNat (d.take 8) + (d.length - 8) ≤
      s.sec.fwLen) ∧
    (∃ (d : List Byte) (s : State), (s.sec.fw ≠ .receiving ∨ d.length < 9 ∨ 256 < d.length ∨ s.sec.fwLen < leNat (d.take 8) +
      (d.length - 8))) ∧
    (∃ (s : State) (m : Memory), s.sec.fw = .verifying ∧ m = (s.bank (idleBank s)).image) :=
  ⟨⟨⟨0, 0x800000, 0, 0, 0⟩, { s0 with sec := { s0.sec with fw := .receiving, fwLen := 248 } }, by decide +kernel, by decide +kernel,
      by decide +kernel⟩,
    ⟨⟨0, 0x800000, 0, 0, 0⟩, s0, by decide +kernel, by decide +kernel, by decide +kernel, by decide +kernel⟩,
    ⟨⟨0, 0x800000, 0, 0, 0⟩, { s0 with sec := { s0.sec with fw := .receiving, fwLen := 248 } }, by decide +kernel, by decide +kernel,
      .inr (by decide +kernel)⟩,
    ⟨⟨0, 0x800000, 0, 0, 0⟩, s0, by decide +kernel, by decide +kernel, by decide +kernel⟩,
    ⟨⟨0, 0, 0xFFFFFFFF, 0, 0⟩, s0, by decide +kernel, by decide +kernel, .inl (by decide +kernel)⟩,
    ⟨(List.replicate 256 0), { s0 with sec := { s0.sec with fw := .receiving, fwLen := 248 } }, by decide +kernel, by decide +kernel,
      by decide +kernel, by decide +kernel⟩,
    ⟨(List.replicate 257 0), { s0 with sec := { s0.sec with fw := .receiving, fwLen := 248 } }, .inr (.inr (.inl
      (by decide +kernel)))⟩,
    ⟨{ s0 with sec := { s0.sec with fw := .verifying } }, _, by decide +kernel, rfl⟩⟩

theorem wit_ResetsComplete :
    (∃ s : State, s.pwr.st ≠ .off ∧ (s.pwr.st = .standby → s.pwr.start = 0 → s.pwr.thermal = false)) ∧
    (∃ s : State, s.pwr.st ≠ .off ∧ (s.pwr.st = .standby → s.pwr.start ≠ 0)) ∧
    (∃ s : State, s.pwr.st ≠ .off ∧ partsHeld s = []) ∧
    (∃ s : State, s.pwr.st = .standby ∧ s.pwr.start = 0 ∧ (s.pwr.thermal = true → ∀ e ∈ s.pwr.temps, e.2.toNat < 85)) ∧
    (∃ s t : State, s.pwr.st = .standby ∧ s.pwr.start = 0 ∧ t = { s with pwr := { s.pwr with resetStatus := 4 } }) ∧
    (∃ s t : State, s.pwr.st = .standby ∧ s.pwr.start = 0 ∧ t = { s with pwr := { s.pwr with resetStatus := 4 } } ∧ s.pwr.thermal =
      true) ∧
    (∃ s : State, s.pwr.st ≠ .off ∧ partsHeld s ≠ []) ∧
    (∃ s : State, s.pwr.st ≠ .off ∧ ((s.pwr.st = .standby → s.pwr.start ≠ 0 ∨ (s.pwr.thermal = true ∧ ∃ e ∈ s.pwr.temps, 85 ≤
      e.2.toNat)))) ∧
    (∃ e ∈ [Instr.resetFull, .resetRecovery, .resetEnterStandby, .resetLeaveStandby], ∃ s : State, s.pwr.st = .off) :=
  ⟨⟨{ sKd [] with pwr := { (sKd []).pwr with st := .standby, start := 0 } }, by decide +kernel, by decide +kernel⟩,
    ⟨(sKd []), by decide +kernel, by decide +kernel⟩,
    ⟨(sKd []), by decide +kernel, by decide +kernel⟩,
    ⟨{ sKd [] with pwr := { (sKd []).pwr with st := .standby, start := 0, thermal := true, temps := [(0, 84)] } }, by decide +kernel,
      by decide +kernel, by decide +kernel⟩,
    ⟨{ sKd [] with pwr := { (sKd []).pwr with st := .standby, start := 0, thermal := true, temps := [(0, 85)] } }, _,
      by decide +kernel, by decide +kernel, rfl⟩,
    ⟨{ sKd [] with pwr := { (sKd []).pwr with st := .standby, start := 0, thermal := true, temps := [(0, 85)] } }, _,
      by decide +kernel, by decide +kernel, rfl, by decide +kernel⟩,
    ⟨{ sKd [] with parts := [(31, part0)] }, by decide +kernel, by decide +kernel⟩,
    ⟨{ sKd [] with pwr := { (sKd []).pwr with st := .standby, start := 0, thermal := true, temps := [(0, 85)] } }, by decide +kernel,
      fun _ => .inr (by decide +kernel)⟩,
    ⟨_, (List.Mem.head _), s0, by decide +kernel⟩⟩

theorem wit_PowerAndStartupComplete :
    (∃ e ∈ [Instr.inputUndervoltage, Instr.inputOvervoltage, Instr.presentOpen], ∃ s : State, s.pwr.input = true) ∧
    (∃ e ∈ [Instr.inputUndervoltage, Instr.inputOvervoltage, Instr.presentOpen], ∃ s : State, s.pwr.input = false) ∧
    (∃ (_d : Fin 5) (v : Byte) (s : State), 115 ≤ v.toNat ∧ s.pwr.st ≠ .off ∧ (s.pwr.st = .standby → s.pwr.start ≠ 0)) ∧
    (∃ (_d : Fin 5) (v : Byte) (s : State), (v.toNat < 115 ∨ s.pwr.st = .off ∨ (s.pwr.st = .standby ∧ s.pwr.start = 0))) ∧
    (∃ (d : Fin 4) (s : State), 2 ≤ tget 0 s.pwr.idleDies d.val ∧ dieIdle s d.val = true ∧ arrayRuns s d.val = true) ∧
    (∃ (d : Fin 4) (s : State), (tget 0 s.pwr.idleDies d.val < 2 ∨ dieIdle s d.val = false ∨ arrayRuns s d.val = false)) ∧
    (∃ (d : Fin 4) (s : State), d.val ∈ s.pwr.relocking) ∧
    (∃ (d : Fin 4) (s : State), d.val ∉ s.pwr.relocking) ∧
    (∃ (_i : StepIn) (s : State), stepRuns s = true) ∧
    (∃ (i : StepIn) (s : State), stepRuns s = true ∧ s.pwr.start = 5 ∧ i.ok = true ∧ i.pufOk = false) :=
  ⟨⟨_, (List.Mem.head _), (sKd []), by decide +kernel⟩,
    ⟨_, (List.Mem.tail _ (List.Mem.tail _ (List.Mem.head _))), s0, by decide +kernel⟩,
    ⟨4, 115, (sKd []), by decide +kernel, by decide +kernel, by decide +kernel⟩,
    ⟨4, 115, { sKd [] with pwr := { (sKd []).pwr with st := .standby, start := 0 } }, .inr (.inr (by decide +kernel))⟩,
    ⟨3, (State.setDomain { sKd [] with pwr := { (sKd []).pwr with idleDies := [(3, 2)] } } 21 0x80000000), by decide +kernel,
      by decide +kernel, by decide +kernel⟩,
    ⟨3, { sKd [] with pwr := { (sKd []).pwr with idleDies := [(3, 1)] } }, .inl (by decide +kernel)⟩,
    ⟨3, { sKd [] with pwr := { (sKd []).pwr with relocking := [3] } }, by decide +kernel⟩,
    ⟨3, (sKd []), by decide +kernel⟩,
    ⟨⟨true, 0, 0, 0, false, true, true, []⟩, { sKd [] with pwr := { (sKd []).pwr with start := 9 } }, by decide +kernel⟩,
    ⟨⟨true, 0, 0, 0, false, false, true, []⟩, { sKd [] with pwr := { (sKd []).pwr with start := 5 } }, by decide +kernel,
      by decide +kernel, by decide +kernel, by decide +kernel⟩⟩

theorem wit_PowerAndStartupComplete_2 :
    (∃ (i : StepIn) (s : State), stepRuns s = true ∧ checksStage s = true ∧ i.ok = true ∧ i.stageOk = false) ∧
    (∃ (i : StepIn) (s : State), stepRuns s = true ∧ (s.pwr.start = 5 → i.pufOk = true) ∧ (checksStage s = true → i.stageOk = true) ∧
      stepBad s i = 0 ∧ stepBadCh s i = []) ∧
    (∃ (i : StepIn) (s : State), stepRuns s = true ∧ ((s.pwr.start = 5 ∨ checksStage s = true → i.ok = true → i.pufOk = true ∧
      i.stageOk = true)) ∧ ((stepBad s i ≠ 0 ∨ stepBadCh s i ≠ []))) ∧
    (∃ (i : StepIn) (s : State), i.ok = true ∧ i.stageOk = false ∧ s.pwr.start ∈ [4#8, 7#8]) ∧
    (∃ (i : StepIn) (s : State), i.ok = true ∧ s.pwr.start = 0x0B#8) ∧
    (∃ s : State, s.pwr.start = 2) ∧
    (∃ (_i : StepIn) (s : State), stepRuns s = false) :=
  ⟨⟨⟨true, 0, 0, 0, false, true, false, []⟩, { sKd [] with pwr := { (sKd []).pwr with start := 3 } }, by decide +kernel,
      by decide +kernel, by decide +kernel, by decide +kernel⟩,
    ⟨⟨true, 0, 0, 0, false, true, true, []⟩, { sKd [] with pwr := { (sKd []).pwr with start := 0x0B } }, by decide +kernel,
      by decide +kernel, by decide +kernel, by decide +kernel, by decide +kernel⟩,
    ⟨⟨true, 0, 0, 0, false, true, true, [255]⟩, { sKd [] with pwr := { (sKd []).pwr with start := 8 } }, by decide +kernel,
      by decide +kernel, .inr (by decide +kernel)⟩,
    ⟨⟨true, 0, 0, 0, false, true, false, []⟩, { sKd [] with pwr := { (sKd []).pwr with start := 4 } }, by decide +kernel,
      by decide +kernel, by decide +kernel⟩,
    ⟨⟨true, 0, 0, 0, false, true, true, []⟩, { sKd [] with pwr := { (sKd []).pwr with start := 0x0B } }, by decide +kernel,
      by decide +kernel⟩,
    ⟨{ sKd [] with pwr := { (sKd []).pwr with start := 2 } }, by decide +kernel⟩,
    ⟨⟨true, 0, 0, 0, false, true, true, []⟩, s0, by decide +kernel⟩⟩

theorem wit_SelfTestsComplete :
    (∃ e ∈ [(Instr.testLogic, 1), (Instr.testMemory, 2), (Instr.testBoth, 3)], ∃ (c : TestCmd) (s : State), c.rsv = 0 ∧ fld c.flags 7
      1 = 0 ∧ testAllowed e.2 c = true ∧ testReady s ⟨e.2, c, .inService⟩ = true) ∧
    (∃ e ∈ [(Instr.testLogic, 1), (Instr.testMemory, 2), (Instr.testBoth, 3)], ∃ (c : TestCmd) (s : State), c.rsv = 0 ∧ fld c.flags 7
      1 = 0 ∧ testAllowed e.2 c = true ∧ testReady s ⟨e.2, c, .inService⟩ = false ∧ s.rel.tests.length < 64) ∧
    (∃ e ∈ [(Instr.testLogic, 1), (Instr.testMemory, 2), (Instr.testBoth, 3)], ∃ (c : TestCmd) (s : State), c.rsv = 0 ∧ fld c.flags 7
      1 = 0 ∧ testAllowed e.2 c = true ∧ testReady s ⟨e.2, c, .inService⟩ = false ∧ 64 ≤ s.rel.tests.length) ∧
    (∃ (c : TestCmd) (s : State), c.rsv = 0 ∧ fld c.flags 7 1 = 0 ∧ testAllowed 4 c = true ∧ (c.start ≠ 0 → bcnAhead s.bcn.num c.start
      = true) ∧ s.rel.tests.length < 64) ∧
    (∃ (c : TestCmd) (s : State), c.rsv = 0 ∧ fld c.flags 7 1 = 0 ∧ testAllowed 4 c = true ∧ (c.start ≠ 0 → bcnAhead s.bcn.num c.start
      = true) ∧ 64 ≤ s.rel.tests.length) ∧
    (∃ (c : TestCmd) (s : State), c.rsv = 0 ∧ fld c.flags 7 1 = 0 ∧ testAllowed 4 c = true ∧ c.start ≠ 0 ∧ bcnAhead s.bcn.num c.start
      = false) ∧
    (∃ (c : TestCmd) (s : State), ∃ x, c.rsv = 0 ∧ fld c.flags 7 1 = 0 ∧ s.rel.tests.find? (fun t => t.cmd.tag == c.tag) = some x) ∧
    (∃ (c : TestCmd) (s : State), c.rsv = 0 ∧ fld c.flags 7 1 = 0 ∧ s.rel.tests.find? (fun t => t.cmd.tag == c.tag) = none) ∧
    (∃ e ∈ [(Instr.testLogic, 1), (Instr.testMemory, 2), (Instr.testBoth, 3), (Instr.testOpticalCal, 4), (Instr.testCancel, 5)], ∃ (c
      : TestCmd) (_s : State), (c.rsv ≠ 0 ∨ fld c.flags 7 1 ≠ 0 ∨ (e.2 ≠ 5 ∧ testAllowed e.2 c = false))) ∧
    (∃ (tag : W32) (s : State) (x : Test), s.rel.tests.find? (fun t => t.cmd.tag == tag && t.op != 4) = some x) :=
  ⟨⟨_, (List.Mem.head _), testC, (sRel id), by decide +kernel, by decide +kernel, by decide +kernel, by decide +kernel⟩,
    ⟨_, (List.Mem.tail _ (List.Mem.tail _ (List.Mem.head _))), { testC with unit := 0 },
      { sRel id with parts := [(0, { part0 with clusters := 1 })] }, by decide +kernel, by decide +kernel, by decide +kernel,
      by decide +kernel, by decide +kernel⟩,
    ⟨_, (List.Mem.head _), { testC with unit := 0 },
      { sRel (fun r => { r with tests := List.replicate 64 ⟨1, testC, .inService⟩ }) with parts := [(0, { part0 with clusters := 1 })] },
      by decide +kernel, by decide +kernel, by decide +kernel, by decide +kernel, by decide +kernel⟩,
    ⟨testP, (sRel id), by decide +kernel, by decide +kernel, by decide +kernel, by decide +kernel, by decide +kernel⟩,
    ⟨testP, (sRel (fun r => { r with tests := List.replicate 64 ⟨1, testC, .inService⟩ })), by decide +kernel, by decide +kernel,
      by decide +kernel, by decide +kernel, by decide +kernel⟩,
    ⟨{ testP with start := 3 }, { sRel id with bcn := { s0.bcn with num := 3 } }, by decide +kernel, by decide +kernel,
      by decide +kernel, by decide +kernel, by decide +kernel⟩,
    ⟨testC, (sRel (fun r => { r with tests := [⟨1, testC, .inService⟩] })), _, by decide +kernel, by decide +kernel, isSome_eq
      (by decide +kernel)⟩,
    ⟨testC, (sRel id), by decide +kernel, by decide +kernel, by decide +kernel⟩,
    ⟨_, (List.Mem.head _), testP, (sRel id), .inr (.inr (by decide +kernel))⟩,
    ⟨9, (sRel (fun r => { r with tests := [⟨1, testC, .inService⟩] })), _, isSome_eq (by decide +kernel)⟩⟩

theorem wit_SelfTestsComplete_2 :
    (∃ (tag : W32) (s : State), s.rel.tests.find? (fun t => t.cmd.tag == tag && t.op != 4) = none) ∧
    (∃ (tag : W32) (_pass : Bool) (_fs _ps : List Nat) (s : State) (x : Test), ∃ u, s.rel.testing.find? (fun t => t.cmd.tag == tag) =
      some x ∧ testUnit x = some (.port, u)) ∧
    (∃ (tag : W32) (_pass : Bool) (_fs _ps : List Nat) (s : State) (x : Test), s.rel.testing.find? (fun t => t.cmd.tag == tag) = some
      x ∧ (∀ u, testUnit x ≠ some (.port, u))) ∧
    (∃ (tag : W32) (_pass : Bool) (_fs _ps : List Nat) (s : State), s.rel.testing.find? (fun t => t.cmd.tag == tag) = none) :=
  ⟨⟨9, (sRel id), by decide +kernel⟩,
    ⟨9, true, [], [], (sRel (fun r => { r with testing := [⟨4, testP, .inService⟩] })), ⟨4, testP, .inService⟩, 31, by decide +kernel,
      by decide +kernel⟩,
    ⟨9, true, [], [], (sRel (fun r => { r with testing := [⟨1, testC, .inService⟩] })), ⟨1, testC, .inService⟩, by decide +kernel, fun
      u h => by simp [testUnit, testC] at h⟩,
    ⟨9, true, [], [], s0, by decide +kernel⟩⟩

theorem wit_ReliabilityCommandsComplete :
    (∃ (d : Domain) (u : BitVec 10) (_cause : Byte) (s : State), unitExists d u.toNat = true ∧ Powered s ∧ s.rel.testing.find?
      (testNames d u.toNat) = none ∧ d ≠ .module ∧ Quiet s) ∧
    (∃ (d : Domain) (u : BitVec 10) (_cause : Byte) (s : State), unitExists d u.toNat = true ∧ Powered s ∧ s.rel.testing.find?
      (testNames d u.toNat) = none ∧ d = .module ∧ Quiet s) ∧
    (∃ (d : Domain) (u : BitVec 10) (_cause : Byte) (s : State), unitExists d u.toNat = true ∧ Powered s ∧ s.rel.testing.find?
      (testNames d u.toNat) = none ∧ s.rel.modState = .halted ∧ s.rel.running = []) ∧
    (∃ (d : Domain) (u : BitVec 10) (ok : Bool) (_us : W32) (s : State) (r : Recov), s.rel.running.find? (fun r => r.dom == d &&
      r.unit == u.toNat) = some r ∧ d ≠ .module ∧ (d ∈ [Domain.port, .core, .cluster] → ok = true)) ∧
    (∃ (d : Domain) (u : BitVec 10) (ok : Bool) (_us : W32) (s : State) (r : Recov), s.rel.running.find? (fun r => r.dom == d &&
      r.unit == u.toNat) = some r ∧ d ∈ [Domain.core, .cluster] ∧ ok = false) ∧
    (∃ (d : Domain) (u : BitVec 10) (ok : Bool) (_us : W32) (s : State) (r : Recov), s.rel.running.find? (fun r => r.dom == d &&
      r.unit == u.toNat) = some r ∧ (d = .module ∨ (d = .port ∧ ok = false))) ∧
    (∃ (d : Domain) (u : BitVec 10) (_ok : Bool) (_us : W32) (s : State), s.rel.running.find? (fun r => r.dom == d && r.unit ==
      u.toNat) = none) ∧
    (∃ (s : State) (r : Recov), s.rel.modState = .moduleRecovery ∧ s.rel.running.find? (fun r => r.dom == .module) = some r) ∧
    (∃ s : State, s.rel.modState ≠ .moduleRecovery) ∧
    (∃ (l : DieLink) (m : Fin 16) (s : State) (lane : FaultIn), lane = ⟨.laneGroup, 0x200 + 16 * linkNum l + m.val, 2⟩ ∧ m.val <
      linkModules l ∧ (linkNum l, m.val) ∉ s.mem.ucieOut ∧ linkLost (moduleOut s l m) (linkNum l) = false) :=
  ⟨⟨.channel, 255, 1, (sRel id), by decide +kernel, by unfold Powered; decide +kernel, by decide +kernel, by decide +kernel,
      by unfold Quiet; decide +kernel⟩,
    ⟨.module, 0, 1, (sRel id), by decide +kernel, by unfold Powered; decide +kernel, by decide +kernel, by decide +kernel,
      by unfold Quiet; decide +kernel⟩,
    ⟨.die, 3, 1, (sRel (fun r => { r with modState := .halted })), by decide +kernel, by unfold Powered; decide +kernel,
      by decide +kernel, by decide +kernel, by decide +kernel⟩,
    ⟨.core, 255, true, 0, (sRel (fun r => { r with running := [⟨.core, 255, 1, 0, 0, 0, 0, .inService⟩] })), _, isSome_eq
      (by decide +kernel), by decide +kernel, by decide +kernel⟩,
    ⟨.cluster, 31, false, 0, (sRel (fun r => { r with running := [⟨.cluster, 31, 1, 0, 0, 0, 0, .inService⟩] })), _, isSome_eq
      (by decide +kernel), by decide +kernel, by decide +kernel⟩,
    ⟨.port, 31, false, 0, (sRel (fun r => { r with running := [⟨.port, 31, 1, 0, 0, 0, 0, .inService⟩] })), _, isSome_eq
      (by decide +kernel), .inr (by decide +kernel)⟩,
    ⟨.die, 3, true, 0, s0, by decide +kernel⟩,
    ⟨(sRel (fun r => { r with modState := .moduleRecovery, running := [⟨.module, 0, 1, 0, 0, 0, 0, .inService⟩] })), _,
      by decide +kernel, isSome_eq (by decide +kernel)⟩,
    ⟨s0, by decide +kernel⟩,
    ⟨(.hub 3), 9, (sRel id), _, rfl, by decide +kernel, by decide +kernel, by decide +kernel⟩⟩

theorem wit_ReliabilityCommandsComplete_2 :
    (∃ (l : DieLink) (m : Fin 16) (s : State) (lane : FaultIn), ∃ d : Fin 4, lane = ⟨.laneGroup, 0x200 + 16 * linkNum l + m.val, 2⟩ ∧
      m.val < linkModules l ∧ (linkNum l, m.val) ∉ s.mem.ucieOut ∧ l = .hub d ∧ linkLost (moduleOut s l m) (linkNum l) = true) ∧
    (∃ (l : DieLink) (m : Fin 16) (s : State) (lane : FaultIn), ∃ i : Fin 4, lane = ⟨.laneGroup, 0x200 + 16 * linkNum l + m.val, 2⟩ ∧
      m.val < linkModules l ∧ (linkNum l, m.val) ∉ s.mem.ucieOut ∧ l = .ring i ∧ linkLost (moduleOut s l m) (linkNum l) = true) ∧
    (∃ (l : DieLink) (m : Fin 16) (s : State) (lane : FaultIn), lane = ⟨.laneGroup, 0x200 + 16 * linkNum l + m.val, 2⟩ ∧ m.val <
      linkModules l ∧ (linkNum l, m.val) ∉ s.mem.ucieOut ∧ Quiet s) ∧
    (∃ (l : DieLink) (m : Fin 16) (s : State) (lane : FaultIn), lane = ⟨.laneGroup, 0x200 + 16 * linkNum l + m.val, 2⟩ ∧ (linkModules
      l ≤ m.val ∨ (linkNum l, m.val) ∈ s.mem.ucieOut)) ∧
    (∃ (st : WayStruct) (u : Fin 256) (w : Fin 16) (s : State) (x : Ways) (n : Nat), x = getWays s st u.val ∧ n = holdInc 255 (tget 0
      x.errs w.val) ∧ u.val < wayUnits st ∧ w.val < wayCount st ∧ ((n ≠ 17 ∨ w.val ∈ x.out ∨ tfind x.leaving w.val ≠ none))) ∧
    (∃ (st : WayStruct) (u : Fin 256) (w : Fin 16) (s : State) (x : Ways) (n : Nat), x = getWays s st u.val ∧ n = holdInc 255 (tget 0
      x.errs w.val) ∧ u.val < wayUnits st ∧ w.val < wayCount st ∧ n = 17 ∧ w.val ∉ x.out ∧ tfind x.leaving w.val = none ∧ wayFloor
      st + x.out.length + x.leaving.length + 1 ≤ wayCount st) ∧
    (∃ (st : WayStruct) (u : Fin 256) (w : Fin 16) (s : State) (x : Ways) (n : Nat), x = getWays s st u.val ∧ n = holdInc 255 (tget 0
      x.errs w.val) ∧ u.val < wayUnits st ∧ w.val < wayCount st ∧ n = 17 ∧ w.val ∉ x.out ∧ tfind x.leaving w.val = none ∧ wayCount
      st < wayFloor st + x.out.length + x.leaving.length + 1) ∧
    (∃ (st : WayStruct) (u : Fin 256) (w : Fin 16) (s : State) (x : Ways) (n : Nat), x = getWays s st u.val ∧ n = holdInc 255 (tget 0
      x.errs w.val) ∧ (wayUnits st ≤ u.val ∨ wayCount st ≤ w.val)) ∧
    (∃ (st : WayStruct) (u : Fin 256) (w : Fin 16) (s : State), ∃ x, u.val < wayUnits st ∧ tfind (getWays s st u.val).leaving w.val =
      some x ∧ wayEmpty (emptyWay s st u.val w.val) st u.val w.val = true) ∧
    (∃ (st : WayStruct) (u : Fin 256) (w : Fin 16) (s : State), ∃ x, u.val < wayUnits st ∧ tfind (getWays s st u.val).leaving w.val =
      some x ∧ wayEmpty (emptyWay s st u.val w.val) st u.val w.val = false) :=
  ⟨⟨(.hub 3), 9, { sRel id with mem := { s0.mem with ucieOut := (List.range 9).map (fun i => (3, i)) } }, _, 3, rfl,
      by decide +kernel, by decide +kernel, by decide +kernel, by decide +kernel⟩,
    ⟨(.ring 3), 15, { sRel id with mem := { s0.mem with ucieOut := (List.range 15).map (fun i => (7, i)) } }, _, 3, rfl,
      by decide +kernel, by decide +kernel, by decide +kernel, by decide +kernel⟩,
    ⟨(.ring 0), 15, (sRel id), _, rfl, by decide +kernel, by decide +kernel, by unfold Quiet; decide +kernel⟩,
    ⟨(.hub 3), 10, (sRel id), _, rfl, .inl (by decide +kernel)⟩,
    ⟨.l1, 255, 7, s0, _, 1, rfl, rfl, by decide +kernel, by decide +kernel, .inl (by decide +kernel)⟩,
    ⟨.dir, 3, 15, (putWays s0 .dir 3 ⟨[], [], [(15, 16)]⟩), _, 17, rfl, rfl, by decide +kernel, by decide +kernel, by decide +kernel,
      by decide +kernel, rfl, by decide +kernel⟩,
    ⟨.l1, 255, 7, (putWays s0 .l1 255 ⟨[0, 1, 2, 3], [], [(7, 16)]⟩), _, 17, rfl, rfl, by decide +kernel, by decide +kernel,
      by decide +kernel, by decide +kernel, rfl, by decide +kernel⟩,
    ⟨.dir, 4, 15, s0, _, 1, rfl, rfl, .inl (by decide +kernel)⟩,
    ⟨.l1, 255, 7, (putWays s0 .l1 255 ⟨[], [(7, (17, 0))], []⟩), _, by decide +kernel, isSome_eq (by decide +kernel),
      by decide +kernel⟩,
    ⟨.dir, 0, 0, (putWays (s0.setHome 0 { s0.home 0 with dir := [(0, ⟨0, false, 1⟩)] }) .dir 0 ⟨[], [(0, (17, 0))], []⟩), _,
      by decide +kernel, isSome_eq (by decide +kernel), by decide +kernel⟩⟩

theorem wit_ReliabilityCommandsComplete_3 :
    (∃ (st : WayStruct) (u : Fin 256) (w : Fin 16) (s : State), tfind (getWays s st u.val).leaving w.val = none) ∧
    (∃ (q : BitVec 33) (s : State) (n : Nat), n = tget 0 s.rel.uncs (channelOf (q.toNat / 4)) + 1 ∧ n ≠ 8) ∧
    (∃ (q : BitVec 33) (s : State) (n : Nat), n = tget 0 s.rel.uncs (channelOf (q.toNat / 4)) + 1 ∧ n = 8) :=
  ⟨⟨.l1, 255, 7, s0, by decide +kernel⟩,
    ⟨5, (sRel id), _, rfl, by decide +kernel⟩,
    ⟨5, (sRel (fun r => { r with uncs := [(channelOf 1, 7)] })), _, rfl, by decide +kernel⟩⟩

theorem wit_DebugCommandsComplete :
    (∃ (v : W64) (s : State), fld v 16 0 = 0 ∧ fld v 23 20 ≤ 3 ∧ fld v 19 17 ≤ 4 ∧ (fld v 23 20 = 1 → bcnAhead s.bcn.num (BitVec.ofNat
      40 (fld v 63 24)) = true) ∧ s.dbg.freezeSt ≠ 2) ∧
    (∃ (v : W64) (s : State), fld v 16 0 = 0 ∧ fld v 23 20 ≤ 3 ∧ fld v 19 17 ≤ 4 ∧ fld v 23 20 = 1 ∧ bcnAhead s.bcn.num (BitVec.ofNat
      40 (fld v 63 24)) = false) ∧
    (∃ (v : W64) (s : State), fld v 16 0 = 0 ∧ fld v 23 20 ≤ 3 ∧ fld v 19 17 ≤ 4 ∧ (fld v 23 20 = 1 → bcnAhead s.bcn.num (BitVec.ofNat
      40 (fld v 63 24)) = true) ∧ s.dbg.freezeSt = 2) ∧
    (∃ (v : W64) (_s : State), (fld v 16 0 ≠ 0 ∨ 3 < fld v 23 20 ∨ 4 < fld v 19 17)) ∧
    (∃ (w : CtrWrite) (_s : State), w.n.toNat ≤ 6015 ∧ w.rsv = 0 ∧ w.ctl &&& ctlReserved w.n.toNat = 0 ∧ ((ctrFixed w.n.toNat = true ∨
      ctlOk w.n.toNat w.ctl = true))) ∧
    (∃ (w : CtrWrite) (_s : State), (6015 < w.n.toNat ∨ w.rsv ≠ 0 ∨ w.ctl &&& ctlReserved w.n.toNat ≠ 0 ∨ (ctrFixed w.n.toNat = false
      ∧ ctlOk w.n.toNat w.ctl = false))) ∧
    (∃ (b : Fin 5) (v : W64) (s : State), bit (s.buf b.val).ctrl 63 = false ∧ fld v 7 0 = 0 ∧ fld v 62 61 ≠ 3 ∧ 24 ≤ fld v 60 56 ∧ fld
      v 60 56 ≤ 30 ∧ bit v 63 = true ∧ trcMayEnable s v (s.buf b.val).base = true) ∧
    (∃ (b : Fin 5) (v : W64) (s : State), bit (s.buf b.val).ctrl 63 = false ∧ fld v 7 0 = 0 ∧ fld v 62 61 ≠ 3 ∧ 24 ≤ fld v 60 56 ∧ fld
      v 60 56 ≤ 30 ∧ bit v 63 = false) ∧
    (∃ (b : Fin 5) (v : W64) (s : State), bit (s.buf b.val).ctrl 63 = false ∧ (fld v 7 0 ≠ 0 ∨ fld v 62 61 = 3 ∨ fld v 60 56 < 24 ∨ 30
      < fld v 60 56 ∨ (bit v 63 = true ∧ trcMayEnable s v (s.buf b.val).base = false))) ∧
    (∃ (b : Fin 5) (v : W64) (s : State), bit (s.buf b.val).ctrl 63 = true ∧ v = setBit (s.buf b.val).ctrl 63 false) :=
  ⟨⟨0x1300000, (sDbg (fun d => { d with freezeSt := 0 })), by decide +kernel, by decide +kernel, by decide +kernel,
      by decide +kernel, by decide +kernel⟩,
    ⟨0x100000, { s0 with bcn := { s0.bcn with num := 5 } }, by decide +kernel, by decide +kernel, by decide +kernel,
      by decide +kernel, by decide +kernel⟩,
    ⟨0, (sDbg (fun d => { d with freezeSt := 2 })), by decide +kernel, by decide +kernel, by decide +kernel, by decide +kernel,
      by decide +kernel⟩,
    ⟨0x400000, s0, .inr (.inl (by decide +kernel))⟩,
    ⟨⟨6015, true, 0, 0, 7⟩, s0, by decide +kernel, by decide +kernel, by decide +kernel, .inr (by decide +kernel)⟩,
    ⟨⟨6016, true, 0, 0, 7⟩, s0, .inl (by decide +kernel)⟩,
    ⟨4, 0x9800000000000000, (s0.setBuf 4 { s0.buf 4 with base := 0 }), by decide +kernel, by decide +kernel, by decide +kernel,
      by decide +kernel, by decide +kernel, by decide +kernel, by decide +kernel⟩,
    ⟨4, 0x1800000000000000, s0, by decide +kernel, by decide +kernel, by decide +kernel, by decide +kernel, by decide +kernel,
      by decide +kernel⟩,
    ⟨4, 1, s0, by decide +kernel, .inl (by decide +kernel)⟩,
    ⟨4, _, (s0.setBuf 4 { s0.buf 4 with ctrl := 0x9800000000000000 }), by decide +kernel, rfl⟩⟩

theorem wit_DebugCommandsComplete_2 :
    (∃ (b : Fin 5) (v : W64) (s : State), bit (s.buf b.val).ctrl 63 = true ∧ v ≠ setBit (s.buf b.val).ctrl 63 false) ∧
    (∃ (b : Fin 5) (s : State) (e : TraceEnt) (g : Bool) (r : List TraceItem), (s.buf b.val).dieQ = .event e g :: r ∧ (∀ m x, r.head?
      ≠ some (.lost m x)) ∧ (s.buf b.val).state ≠ 3 ∧ State.queuedEvents (s.buf b.val).port < 1024) ∧
    (∃ (b : Fin 5) (s : State) (e : TraceEnt) (g : Bool) (r : List TraceItem), (s.buf b.val).dieQ = .event e g :: r ∧ (∀ m x, r.head?
      ≠ some (.lost m x)) ∧ (s.buf b.val).state ≠ 3 ∧ 1024 ≤ State.queuedEvents (s.buf b.val).port) ∧
    (∃ (b : Fin 5) (s : State) (e : TraceEnt) (g : Bool) (r : List TraceItem), (s.buf b.val).dieQ = .event e g :: r ∧ (∀ m x, r.head?
      ≠ some (.lost m x)) ∧ (s.buf b.val).state = 3) ∧
    (∃ (b : Fin 5) (s : State) (e : TraceEnt) (g : Bool) (r : List TraceItem), (s.buf b.val).dieQ = [] ∧ (s.buf b.val).port = .event e
      g :: r ∧ (s.buf b.val).drops = 0 ∧ (s.buf b.val).state ≠ 3) ∧
    (∃ (b : Fin 5) (bus : W64) (_first count : BitVec 25) (rsv rsv2 : BitVec 7) (s : State), (s.buf b.val).drainState ≠ 1 ∧ rsv = 0 ∧
      rsv2 = 0 ∧ bus.toNat % 4096 = 0 ∧ count ≠ 0 ∧ count.toNat ≤ trcCap (s.buf b.val).ctrl ∧ ideOk s bus (32 * count.toNat) =
      true) ∧
    (∃ (b : Fin 5) (bus : W64) (_first count : BitVec 25) (rsv rsv2 : BitVec 7) (s : State), (s.buf b.val).drainState ≠ 1 ∧ ((rsv ≠ 0
      ∨ rsv2 ≠ 0 ∨ bus.toNat % 4096 ≠ 0 ∨ count = 0 ∨ trcCap (s.buf b.val).ctrl < count.toNat ∨ ideOk s bus (32 * count.toNat) =
      false))) ∧
    (∃ (b : Fin 5) (_bus : W64) (_first _count : BitVec 25) (_rsv _rsv2 : BitVec 7) (s : State), (s.buf b.val).drainState = 1) ∧
    (∃ (b : Fin 5) (s : State), (s.buf b.val).drainState = 1 ∧ ideOk s (s.buf b.val).drainBus (32 * (s.buf b.val).drainCount) = true) ∧
    (∃ (b : Fin 5) (s : State), (s.buf b.val).drainState = 1 ∧ ideOk s (s.buf b.val).drainBus (32 * (s.buf b.val).drainCount) = false) :=
  ⟨⟨4, 0, (s0.setBuf 4 { s0.buf 4 with ctrl := 0x9800000000000000 }), by decide +kernel, by decide +kernel⟩,
    ⟨4, (s0.setBuf 4 { s0.buf 4 with ctrl := 0x9800000000000000, state := 1, dieQ := [.event ⟨at_ 56 1, 0, 0, 0⟩ true] }), ⟨at_ 56 1,
      0, 0, 0⟩, true, [], rfl, fun m x h => by simp at h, by decide +kernel, by decide +kernel⟩,
    ⟨4, (s0.setBuf 4
      { s0.buf 4 with ctrl := 0x9800000000000000, state := 1, dieQ := [.event ⟨at_ 56 1, 0, 0, 0⟩ true], port := List.replicate 1024 (.event ⟨at_ 56 1, 0, 0, 0⟩ true) }),
      ⟨at_ 56 1, 0, 0, 0⟩, true, [], rfl, fun m x h => by simp at h, by decide +kernel, by decide +kernel⟩,
    ⟨4, (s0.setBuf 4 { s0.buf 4 with ctrl := 0x9800000000000000, state := 3, dieQ := [.event ⟨at_ 56 1, 0, 0, 0⟩ true] }), ⟨at_ 56 1,
      0, 0, 0⟩, true, [], rfl, fun m x h => by simp at h, by decide +kernel⟩,
    ⟨4, (s0.setBuf 4 { s0.buf 4 with ctrl := 0x9800000000000000, state := 1, port := [.event ⟨at_ 56 1, 0, 0, 0⟩ true] }), ⟨at_ 56 1,
      0, 0, 0⟩, true, [], by decide +kernel, rfl, by decide +kernel, by decide +kernel⟩,
    ⟨4, 0x1000, 0, 0x80000, 0, 0, (s0.setBuf 4 { s0.buf 4 with ctrl := 0x9800000000000000 }), by decide +kernel, by decide +kernel,
      by decide +kernel, by decide +kernel, by decide +kernel, by decide +kernel, by decide +kernel⟩,
    ⟨4, 0x1000, 0, 0x80001, 0, 0, (s0.setBuf 4 { s0.buf 4 with ctrl := 0x9800000000000000 }), by decide +kernel, by decide +kernel⟩,
    ⟨4, 0, 0, 0, 0, 0, (s0.setBuf 4 { s0.buf 4 with drainState := 1 }), by decide +kernel⟩,
    ⟨4, (s0.setBuf 4 { s0.buf 4 with drainState := 1 }), by decide +kernel, by decide +kernel⟩,
    ⟨4,
      { s0.setBuf 4 { s0.buf 4 with drainState := 1, drainBus := 0x1000, drainCount := 1 } with host := { (s0.setBuf 4 { s0.buf 4 with drainState := 1, drainBus := 0x1000, drainCount := 1 }).host with perst := false, ideReq := 1 } },
      by decide +kernel, by decide +kernel⟩⟩

theorem wit_DebugCommandsComplete_3 :
    (∃ (b : Fin 5) (s : State), (s.buf b.val).drainState ≠ 1) ∧
    (∃ (sc : BitVec 2) (rsv : BitVec 6) (_id : BitVec 12) (_tag : W32) (s : State), sc.toNat < 3 ∧ rsv = 0 ∧ s.dbg.graphSt ≠ 1) ∧
    (∃ (sc : BitVec 2) (rsv : BitVec 6) (_id : BitVec 12) (_tag : W32) (s : State), (3 ≤ sc.toNat ∨ rsv ≠ 0 ∨ s.dbg.graphSt = 1)) ∧
    (∃ (n : BitVec 12) (s : State), watchdogFires s (s.ctx n.toNat) = true ∧ ¬ WatchBusy s n.toNat) ∧
    (∃ (n : BitVec 12) (s : State), watchdogFires s (s.ctx n.toNat) = true ∧ WatchBusy s n.toNat) ∧
    (∃ (n : BitVec 12) (s : State), watchdogFires s (s.ctx n.toNat) = false) ∧
    (∃ s : State, s.dbg.graphSt = 1) ∧
    (∃ s : State, s.dbg.graphSt ≠ 1) ∧
    (∃ (who : Principal) (rsv n : BitVec 12) (s : State), (who = .ha ∨ (who = .tenant (s.ctx n.toNat).fn ∧ (s.ctx n.toNat).st ≠
      .free)) ∧ rsv = 0 ∧ (s.ctx n.toNat).debug = true ∧ (s.ctx n.toNat).st ∈ [CtxState.running, .holding]) ∧
    (∃ (who : Principal) (rsv n : BitVec 12) (s : State), (who = .ha ∨ (who = .tenant (s.ctx n.toNat).fn ∧ (s.ctx n.toNat).st ≠
      .free)) ∧ rsv = 0 ∧ (s.ctx n.toNat).debug = true ∧ (s.ctx n.toNat).st = .stopped) :=
  ⟨⟨4, s0, by decide +kernel⟩,
    ⟨2, 0, 0, 7, s0, by decide +kernel, by decide +kernel, by decide +kernel⟩,
    ⟨3, 0, 0, 7, s0, .inl (by decide +kernel)⟩,
    ⟨0, { sDbg (fun d => { d with watchLen := 3 }) with ctxs := [(0, { ctx0 with idlePeriods := 3 })] }, by decide +kernel,
      by unfold WatchBusy; decide +kernel⟩,
    ⟨0, { sDbg (fun d => { d with watchLen := 3, graphSt := 1 }) with ctxs := [(0, { ctx0 with idlePeriods := 3 })] },
      by decide +kernel, by unfold WatchBusy; decide +kernel⟩,
    ⟨0, s0, by decide +kernel⟩,
    ⟨(sDbg (fun d => { d with graphSt := 1 })), by decide +kernel⟩,
    ⟨s0, by decide +kernel⟩,
    ⟨(.tenant 0), 0, 0, s0, .inr (by decide +kernel), by decide +kernel, by decide +kernel, by decide +kernel⟩,
    ⟨.ha, 0, 0, { s0 with ctxs := [(0, { ctx0 with st := .stopped })] }, .inl rfl, by decide +kernel, by decide +kernel,
      by decide +kernel⟩⟩

theorem wit_DebugCommandsComplete_4 :
    (∃ (who : Principal) (rsv n : BitVec 12) (s : State), (who = .ha ∨ (who = .tenant (s.ctx n.toNat).fn ∧ (s.ctx n.toNat).st ≠
      .free)) ∧ rsv = 0 ∧ (s.ctx n.toNat).debug = true ∧ (s.ctx n.toNat).st ∉ [CtxState.running, .holding]) ∧
    (∃ (who : Principal) (rsv n : BitVec 12) (s : State), (who = .ha ∨ (who = .tenant (s.ctx n.toNat).fn ∧ (s.ctx n.toNat).st ≠
      .free)) ∧ rsv = 0 ∧ (s.ctx n.toNat).debug = true ∧ (s.ctx n.toNat).st ≠ .stopped) ∧
    (∃ (who : Principal) (rsv n : BitVec 12) (s : State), ∃ _stop : Bool, (who = .ha ∨ (who = .tenant (s.ctx n.toNat).fn ∧ (s.ctx
      n.toNat).st ≠ .free)) ∧ ((rsv ≠ 0 ∨ (s.ctx n.toNat).debug = false))) ∧
    (∃ (who : Principal) (_rsv n : BitVec 12) (s : State), (who = .fm ∨ (∃ v, who = .tenant v ∧ (v ≠ (s.ctx n.toNat).fn ∨ (s.ctx
      n.toNat).st = .free)))) :=
  ⟨⟨.ha, 0, 0, { s0 with ctxs := [(0, { ctx0 with st := .stopped })] }, .inl rfl, by decide +kernel, by decide +kernel,
      by decide +kernel⟩,
    ⟨.ha, 0, 0, s0, .inl rfl, by decide +kernel, by decide +kernel, by decide +kernel⟩,
    ⟨.ha, 1, 0, s0, true, .inl rfl, .inl (by decide +kernel)⟩,
    ⟨(.tenant 3), 0, 0, s0, .inr ⟨3, rfl, .inl (by decide +kernel)⟩⟩⟩

theorem wit_LibraryCallsComplete :
    (∃ (_dev : Nat) (ms : List MemberIn) (_b : W64) (s : State), ∃ x, ms.findSome? (memberClosed s) = some x) ∧
    (∃ (_dev : Nat) (ms : List MemberIn) (b : W64) (s : State), ms.findSome? (memberClosed s) = none ∧ ¬ OpenFits s ms b.toNat) ∧
    (∃ (_dev : Nat) (ms : List MemberIn) (b : W64) (s : State), ms.findSome? (memberClosed s) = none ∧ OpenFits s ms b.toNat ∧ ¬
      AreasFit s ms b.toNat) ∧
    (∃ (_dev : Nat) (ms : List MemberIn) (b : W64) (s : State), ms.findSome? (memberClosed s) = none ∧ OpenFits s ms b.toNat ∧
      AreasFit s ms b.toNat ∧ ¬ AreasReached s ms b.toNat) ∧
    (∃ (_dev : Nat) (ms : List MemberIn) (b : W64) (s : State), ms.findSome? (memberClosed s) = none ∧ OpenFits s ms b.toNat ∧
      AreasFit s ms b.toNat ∧ AreasReached s ms b.toNat) ∧
    (∃ (c : CallOpt) (a b : Tensor) (z : Option Tensor) (s : State) (d : Device) (out : List Tensor) (fl : Flags), CallRuns s c 1 ([a,
      b] ++ z.toList) d (matmul (effOpt c) a b z) out fl) ∧
    (∃ (c : CallOpt) (es : List (Tensor × Tensor × Option Tensor)) (s : State) (d : Device) (out : List Tensor) (fl : Flags), CallRuns
      s c 2 (es.flatMap (fun e => [e.1, e.2.1] ++ e.2.2.toList)) d (joinRes (es.map (fun e => matmul (effOpt c) e.1 e.2.1 e.2.2)))
      out fl) ∧
    (∃ (c : CallOpt) (x w : Tensor) (g : ConvGeom) (s : State) (d : Device) (out : List Tensor) (fl : Flags), CallRuns s c 3 [x, w] d
      (conv (effOpt c) x w g) out fl) ∧
    (∃ (c : CallOpt) (q k v : Tensor) (sc : Option W32) (m : Option Tensor) (s : State) (d : Device) (out : List Tensor) (fl : Flags),
      CallRuns s c 4 ([q, k, v] ++ m.toList) d (attention (effOpt c) q k v sc m) out fl) ∧
    (∃ (c : CallOpt) (op : RedOp) (x : Tensor) (ax : Nat) (s : State) (d : Device) (out : List Tensor) (fl : Flags), CallRuns s c 5
      [x] d (reduce (effOpt c) op x ax) out fl) :=
  ⟨⟨0, [⟨0xFFFFF, 2, 0, true, 0, 1, false, none⟩], 0x400000, { sRing 1 0 id with ctxs := [(0, ctx0), (1, ctx0)] }, _, isSome_eq
      (by decide +kernel)⟩,
    ⟨0, [], 0x400000, { sRing 1 0 id with ctxs := [(0, ctx0), (1, ctx0)] }, by decide +kernel, by unfold OpenFits; decide +kernel⟩,
    ⟨0, [⟨0xFFFFF, 0, 1, true, 0, 1, false, none⟩], 0x400000, { sRing 1 0 id with ctxs := [(0, ctx0), (1, ctx0)] }, by decide +kernel,
      by unfold OpenFits; decide +kernel, by unfold AreasFit; decide +kernel⟩,
    ⟨0, [⟨0xFFFFF, 0, 0, false, 0, 1, false, none⟩, ⟨0xFFFFF, 1, 0, false, 0, 1, false, none⟩], 0x400000,
      { sRing 1 0 id with ctxs := [(0, ctx0), (1, ctx0)] }, by decide +kernel, by unfold OpenFits; decide +kernel,
      by unfold AreasFit; decide +kernel, by unfold AreasReached; decide +kernel⟩,
    ⟨0, [⟨0xFFFFF, 0, 0, true, 0, 1, false, none⟩], 0x400000, { sRing 1 0 id with ctxs := [(0, ctx0), (1, ctx0)] }, by decide +kernel,
      by unfold OpenFits; decide +kernel, by unfold AreasFit; decide +kernel, by unfold AreasReached; decide +kernel⟩,
    ⟨call0 1, ones [1, 1], ones [1, 1], none, sLib, dev0, _, _, ⟨by decide +kernel, by decide +kernel, by decide +kernel, inrp_of
      (by decide +kernel), by unfold RecordStands; decide +kernel, by unfold MembersFit; decide +kernel, by decide +kernel⟩⟩,
    ⟨call0 2, [(ones [1, 1], ones [1, 1], none)], sLib, dev0, _, _, ⟨by decide +kernel, by decide +kernel, by decide +kernel, inrp_of
      (by decide +kernel), by unfold RecordStands; decide +kernel, by unfold MembersFit; decide +kernel, by decide +kernel⟩⟩,
    ⟨call0 3, ones [1, 1, 1], ones [1, 1, 1], ⟨[1], [1], [1], [0]⟩, sLib, dev0, _, _, ⟨by decide +kernel, by decide +kernel,
      by decide +kernel, inrp_of (by decide +kernel), by unfold RecordStands; decide +kernel,
      by unfold MembersFit; decide +kernel, by decide +kernel⟩⟩,
    ⟨call0 4, ones [1, 1], ones [1, 1], ones [1, 1], none, none, sLib, dev0, _, _, ⟨by decide +kernel, by decide +kernel,
      by decide +kernel, inrp_of (by decide +kernel), by unfold RecordStands; decide +kernel,
      by unfold MembersFit; decide +kernel, by decide +kernel⟩⟩,
    ⟨call0 5, .sum, ones [2], 0, sLib, dev0, _, _, ⟨by decide +kernel, by decide +kernel, by decide +kernel, inrp_of
      (by decide +kernel), by unfold RecordStands; decide +kernel, by unfold MembersFit; decide +kernel, by decide +kernel⟩⟩⟩

theorem wit_LibraryCallsComplete_2 :
    (∃ (c : CallOpt) (i : Bool) (x : Tensor) (ax : Nat) (s : State) (d : Device) (out : List Tensor) (fl : Flags), CallRuns s c 6 [x]
      d (scan (effOpt c) i x ax) out fl) ∧
    (∃ (c : CallOpt) (fs : List ElemFn) (x : Tensor) (xs : List Tensor) (s : State) (d : Device) (out : List Tensor) (fl : Flags),
      CallRuns s c 7 (x :: xs) d (elementwise (effOpt c) fs (x :: xs)) out fl) ∧
    (∃ (c : CallOpt) (i : Bool) (x y : Tensor) (s : State) (d : Device) (out : List Tensor) (fl : Flags), CallRuns s c 8 [x, y] d (fft
      (effOpt c) i x y) out fl) ∧
    (∃ (c : CallOpt) (x : Tensor) (os : List (List Int)) (ws : List W64) (s : State) (d : Device) (out : List Tensor) (fl : Flags),
      CallRuns s c 9 [x] d (stencil (effOpt c) x os ws) out fl) ∧
    (∃ (c : CallOpt) (x i : Tensor) (s : State) (d : Device) (out : List Tensor) (fl : Flags), CallRuns s c 10 [x, i] d (gather
      (effOpt c) x i) out fl) ∧
    (∃ (c : CallOpt) (x i y : Tensor) (acc : Bool) (s : State) (d : Device) (out : List Tensor) (fl : Flags), CallRuns s c 10 [x, i,
      y] d (scatter (effOpt c) x i y acc) out fl) ∧
    (∃ (c : CallOpt) (x : Tensor) (s : State) (d : Device) (out : List Tensor) (fl : Flags), CallRuns s c 11 [x] d (convert (effOpt c)
      x) out fl) ∧
    (∃ (c : CallOpt) (_op : ExchOp) (_xs : List Tensor) (_late : Nat) (s : State) (d : Device), tfind s.lib.devs c.dev = some d) ∧
    (∃ (c : CallOpt) (_op : ExchOp) (_xs : List Tensor) (_late : Nat) (s : State), tfind s.lib.devs c.dev = none) ∧
    (∃ (c : CallOpt) (op : ExchOp) (xs : List Tensor) (s : State) (d : Device) (out : List Tensor) (fl : Flags), CallRuns s c 12 xs d
      (exchange d.members.length (effOpt c) op xs) out fl) :=
  ⟨⟨call0 6, true, ones [2], 0, sLib, dev0, _, _, ⟨by decide +kernel, by decide +kernel, by decide +kernel, inrp_of
      (by decide +kernel), by unfold RecordStands; decide +kernel, by unfold MembersFit; decide +kernel, by decide +kernel⟩⟩,
    ⟨call0 7, [⟨0, .operand 0, .operand 1, .operand 0, .operand 0, 0⟩], ones [1], [ones [1]], sLib, dev0, _, _, ⟨by decide +kernel,
      by decide +kernel, by decide +kernel, inrp_of (by decide +kernel), by unfold RecordStands; decide +kernel,
      by unfold MembersFit; decide +kernel, by decide +kernel⟩⟩,
    ⟨call0 8, false, ones [128], ones [128], sLib, dev0, _, _, ⟨by decide +kernel, by decide +kernel, by decide +kernel, inrp_of
      (by decide +kernel), by unfold RecordStands; decide +kernel, by unfold MembersFit; decide +kernel, by decide +kernel⟩⟩,
    ⟨call0 9, ones [3], [[-1], [1]], [0x3F800000, 0x3F800000], sLib, dev0, _, _, ⟨by decide +kernel, by decide +kernel,
      by decide +kernel, inrp_of (by decide +kernel), by unfold RecordStands; decide +kernel,
      by unfold MembersFit; decide +kernel, by decide +kernel⟩⟩,
    ⟨call0 10, ones [2], ⟨6, [1], [1, 0, 0, 0], []⟩, sLib, dev0, _, _, ⟨by decide +kernel, by decide +kernel, by decide +kernel,
      inrp_of (by decide +kernel), by unfold RecordStands; decide +kernel, by unfold MembersFit; decide +kernel,
      by decide +kernel⟩⟩,
    ⟨call0 10, ones [2], ⟨6, [1], [1, 0, 0, 0], []⟩, ones [1], false, sLib, dev0, _, _, ⟨by decide +kernel, by decide +kernel,
      by decide +kernel, inrp_of (by decide +kernel), by unfold RecordStands; decide +kernel,
      by unfold MembersFit; decide +kernel, by decide +kernel⟩⟩,
    ⟨call0 11, ones [1], sLib, dev0, _, _, ⟨by decide +kernel, by decide +kernel, by decide +kernel, inrp_of (by decide +kernel),
      by unfold RecordStands; decide +kernel, by unfold MembersFit; decide +kernel, by decide +kernel⟩⟩,
    ⟨(call0 12), .allReduce, [ones [1]], 3, sLib, dev0, by decide +kernel⟩,
    ⟨{ call0 12 with dev := 7 }, .allReduce, [], 3, sLib, by decide +kernel⟩,
    ⟨call0 12, .allReduce, [ones [1]], sLib, dev0, _, _, ⟨by decide +kernel, by decide +kernel, by decide +kernel, inrp_of
      (by decide +kernel), by unfold RecordStands; decide +kernel, by unfold MembersFit; decide +kernel, by decide +kernel⟩⟩⟩

theorem wit_LibraryCallsComplete_3 :
    (∃ (c : CallOpt) (_a _b : Tensor) (s : State) (d : Device), tfind s.lib.devs c.dev = some d ∧ (tornMember s c d).isSome = true) ∧
    (∃ (c : CallOpt) (_a _b : Tensor) (s : State) (d : Device), tfind s.lib.devs c.dev = some d ∧ tornMember s c d = none ∧
      c.fixedTiling = false ∧ tilingOk c 1 d.members.length d.width = false) ∧
    (∃ (c : CallOpt) (a b : Tensor) (s : State) (d : Device), tfind s.lib.devs c.dev = some d ∧ tornMember s c d = none ∧ tilingOk c 1
      d.members.length d.width = true ∧ ∃ st, matmul (effOpt c) a b none = .inl st) ∧
    (∃ (c : CallOpt) (a b : Tensor) (s : State) (d : Device), tfind s.lib.devs c.dev = some d ∧ tornMember s c d = none ∧ (∃ out fl,
      matmul (effOpt c) a b none = .inr (out, fl)) ∧ ¬ RecordStands c 1 [a, b] d) ∧
    (∃ (c : CallOpt) (a b : Tensor) (s : State) (d : Device) (out : List Tensor) (fl : Flags), tfind s.lib.devs c.dev = some d ∧
      tornMember s c d = none ∧ matmul (effOpt c) a b none = .inr (out, fl) ∧ RecordStands c 1 [a, b] d ∧ ¬ MembersFit s c d) ∧
    (∃ (c : CallOpt) (a b : Tensor) (s : State) (d : Device) (out : List Tensor) (fl : Flags), tfind s.lib.devs c.dev = some d ∧
      tornMember s c d = none ∧ matmul (effOpt c) a b none = .inr (out, fl) ∧ RecordStands c 1 [a, b] d ∧ MembersFit s c d ∧
      placesOk s c d out = false) :=
  ⟨⟨{ call0 1 with torn := some 3 }, ones [1, 1], ones [1, 1], sLib, dev0, by decide +kernel, by decide +kernel⟩,
    ⟨call0 2, ones [1, 1], ones [1, 1], sLib, dev0, by decide +kernel, by decide +kernel⟩,
    ⟨call0 1, ones [1, 2], ones [1, 1], sLib, dev0, by decide +kernel, by decide +kernel, by decide +kernel, _, inl_of
      (by decide +kernel)⟩,
    ⟨{ call0 2 with fixedTiling := true }, ones [1, 1], ones [1, 1], sLib, dev0, by decide +kernel, by decide +kernel, ⟨_, _, inrp_of
      (by decide +kernel)⟩, by unfold RecordStands; decide +kernel⟩,
    ⟨call0 1, ones [1, 1], ones [1, 1], { sLib with parts := [] }, dev0, _, _, by decide +kernel, by decide +kernel, inrp_of
      (by decide +kernel), by unfold RecordStands; decide +kernel, by unfold MembersFit; decide +kernel⟩,
    ⟨{ call0 1 with place := [[(0x4000000000, 0)]] }, ones [1, 1], ones [1, 1], sLib, dev0, _, _, by decide +kernel,
      by decide +kernel, inrp_of (by decide +kernel), by unfold RecordStands; decide +kernel,
      by unfold MembersFit; decide +kernel, by decide +kernel⟩⟩

theorem wit_HbmFormKept :
    ∃ s t : State, HbmWf s ∧ step s = .next t :=
  ⟨{ s0 with pending := [.portRetry 0] }, _, by unfold HbmWf; decide +kernel, rfl⟩

theorem wit_MinSvnNeverFalls :
    ∃ (s t : State) (n : Nat), Reaches s n t ∧ 0 < n :=
  ⟨{ s0 with pending := [.portRetry 0] }, _, 1, Reaches.succ rfl (Reaches.zero _), by decide⟩

/-! Ill-formed terms, one for each check of `Instr.wf`. -/

def badT : Tensor := ⟨1, [2], [0, 0, 0, 0], []⟩
def badC : CallOpt := { call0 1 with tiling := [] }

theorem test_wf_refuses_link_module : (Instr.ucieModuleOutOfService (.hub 0) 10).wf = false := by decide
theorem test_wf_refuses_flit : (Instr.flitArrival 0 ⟨.good, 0, [], false⟩).wf = false := by decide
theorem test_wf_refuses_admin_entries : (Instr.ctxCreate 0 [0]).wf = false ∧ (Instr.ctxDestroy 0 [0]).wf = false := by decide
theorem test_wf_refuses_translation_commands :
    (Instr.invRange 0 [0]).wf = false ∧ (Instr.invCtx 0 [0]).wf = false ∧ (Instr.resolve 0 [0]).wf = false := by decide
theorem test_wf_refuses_doorbell_size : (Instr.submissionDoorbell ⟨0, none⟩ 0 3 0).wf = false := by decide
theorem test_wf_refuses_submissions : (Instr.launch 0 [0]).wf = false ∧ (Instr.submissionNop 0 [0]).wf = false := by decide
theorem test_wf_refuses_frames :
    (Instr.kedalFrameArrival .field ⟨0, 0, 0⟩ false [0]).wf = false ∧ (Instr.kdSlotGo ⟨0, none⟩ [0]).wf = false := by decide
theorem test_wf_refuses_chunks : (Instr.fwChunk [0]).wf = false ∧ (Instr.fwChunk (List.replicate 257 0)).wf = false := by decide +kernel
theorem test_wf_refuses_edge : (Instr.beaconEdge ⟨0, 0, 0, 0, [], 0⟩).wf = false := by decide
theorem test_wf_refuses_tensors :
    (Instr.thMatmul (call0 1) badT (ones [1, 1]) none).wf = false ∧ (Instr.thMatmul (call0 1) (ones [1, 1]) (ones [1, 1]) (some badT)).wf = false ∧
    (Instr.thBatched (call0 2) [(badT, badT, none)]).wf = false ∧ (Instr.thConv (call0 3) badT badT ⟨[], [], [], []⟩).wf = false ∧
    (Instr.thAttention (call0 4) badT badT badT none none).wf = false ∧ (Instr.thReduce (call0 5) .sum badT 0).wf = false ∧
    (Instr.thReduce (call0 5) .sum (ones [1]) 1).wf = false ∧ (Instr.thScan (call0 6) true (ones [1]) 1).wf = false ∧
    (Instr.thElementwise (call0 7) [] badT []).wf = false ∧ (Instr.thFft (call0 8) false badT badT).wf = false ∧
    (Instr.thStencil (call0 9) (ones [1]) [[1]] []).wf = false ∧ (Instr.thGather (call0 10) badT badT).wf = false ∧
    (Instr.thScatter (call0 10) badT badT badT false).wf = false ∧ (Instr.thConvert (call0 11) badT).wf = false ∧
    (Instr.thExchange (call0 12) .allReduce [badT] 0).wf = false ∧ (Instr.thConvert badC (ones [1])).wf = false := by decide +kernel

/-! Single steps. Each expected value is worked out by hand from the rule named beside it. -/

def nextOf : Out → State
  | .next s => s
  | _ => State.reset

def sregOf (o : Out) (r : Nat) : W64 := ((nextOf o).core 0).sreg r

def sRegs (l : Tbl W64) : State := onCore (fun c => { c with sregs := l })

/-! Words written out from R136 to R148 and R184, field by field. -/

/-- RRR: OP 0x01, RD 3, RA 1, RB 2, FN 0x00 (ADD). -/
theorem test_word_add : decodeWord 0 .cc 0b000001_000011_000001_000010_00000000 = some (.add ⟨0, .cc, false, 3, 1, 2⟩) := by decide +kernel
/-- RRI: OP 0x02, RD 1, RA 2, IMM14 −1. -/
theorem test_word_addi : decodeWord 0 (.cv 0) 0b000010_000001_000010_11111111111111 = some (.addi ⟨0, .cv 0, 1, 2, 0x3FFF⟩) := by decide +kernel
/-- RI: OP 0x0F, RD 31, IMM20. -/
theorem test_word_jal : decodeWord 0 .cc 0b001111_011111_10000000000000000000 = some (.jal ⟨0, .cc, 31, 0x80000⟩) := by decide +kernel
/-- B: OP 0x09, RA 5, RB 6, OFF14 3. -/
theorem test_word_beq : decodeWord 0 .cc 0b001001_000101_000110_00000000000011 = some (.beq ⟨0, .cc, 5, 6, 3⟩) := by decide +kernel
/-- RRI: OP 0x1A (LD), and RRR: OP 0x2B, FN 0 (NOP). -/
theorem test_word_ld : decodeWord 0 .cc 0b011010_000001_000010_00000000001000 = some (.ld ⟨0, .cc, 1, 2, 8⟩) := by decide +kernel

/-- The words that 07 writes out beside its example. -/
theorem test_words_vector :
    decodeWord 0 .cc 0x0E060000E4651800 = some (.vfmas ⟨0, .cc, 0, false, 6, 0, 3, 5, 3, 0, false, 0⟩) ∧
    decodeWord 0 .cc 0x07050000E8030000 = some (.vNorm ⟨0, .cc, 0, false, 5, 0, 0, 3, 0, 0, false, 0⟩) := by decide +kernel

/-- R141: 64-bit ADD wraps, and S0 reads zero. -/
theorem test_add_wraps : sregOf (exec (.add ⟨0, .cc, false, 3, 1, 2⟩) (sRegs [(1, BitVec.allOnes 64), (2, 2)])) 3 = 1 := by decide +kernel
theorem test_s0_reads_zero : sregOf (exec (.add ⟨0, .cc, false, 0, 1, 1⟩) (sRegs [(1, 7)])) 0 = 0 := by decide +kernel

/-- R142: MULH takes the high half of the signed product: −1 × 2 = −2, whose high half is −1. -/
theorem test_mulh_is_signed :
    sregOf (exec (.mulh ⟨0, .cc, false, 3, 1, 2⟩) (sRegs [(1, BitVec.allOnes 64), (2, 2)])) 3 = BitVec.allOnes 64 := by decide +kernel

/-- R142: a division by zero gives all ones, and its remainder the dividend. -/
theorem test_div_by_zero :
    sregOf (exec (.div ⟨0, .cc, false, 3, 1, 2⟩) (sRegs [(1, 5)])) 3 = BitVec.allOnes 64 ∧
    sregOf (exec (.rem ⟨0, .cc, false, 3, 1, 2⟩) (sRegs [(1, 5)])) 3 = 5 := by decide +kernel

/-- R142: CLZ of 1 is 63 and CTZ of 0 the width. -/
theorem test_clz_ctz :
    sregOf (exec (.clz ⟨0, .cc, false, 3, 1, 0⟩) (sRegs [(1, 1)])) 3 = 63 ∧ sregOf (exec (.ctz ⟨0, .cc, false, 3, 1, 0⟩) (sRegs [])) 3 = 64 := by
  decide +kernel

/-- R143: SRAI keeps the sign; R144: LUI's immediate stands at bit 12. -/
theorem test_srai : sregOf (exec (.shiSra ⟨0, .cc, 3, 1, 0, false, 63⟩) (sRegs [(1, 0x8000000000000000)])) 3 = BitVec.allOnes 64 := by decide +kernel

/-- R145: a taken branch adds its offset, in words, to its own address. -/
theorem test_branch_taken : ((nextOf (exec (.beq ⟨0, .cc, 1, 2, 3⟩) s0)).core 0).pc = 12 := by decide +kernel
theorem test_branch_not_taken : ((nextOf (exec (.bne ⟨0, .cc, 1, 2, 3⟩) s0)).core 0).pc = 4 := by decide +kernel

/-- R146: binary64 1.5 + 1.5 = 3, and binary32 1 / 0 is an infinity with DZ. -/
theorem test_fadd :
    sregOf (exec (.fadd ⟨0, .cc, true, 3, 1, 1, 0⟩) (sRegs [(1, 0x3FF8000000000000)])) 3 = 0x4008000000000000 := by decide +kernel
theorem test_fdiv_by_zero : fdiv fp32 0 (fp32.dec 0x3F800000) (fp32.dec 0) = (0x7F800000, fDivZero) := by decide +kernel

/-- R149: LDS of size code 0 extends the sign of its byte. -/
theorem test_lds_sign_extends :
    sregOf (exec (.lds ⟨0, .cc, 3, 1, 0, 0⟩) (onCore (fun c => { c with
      sregs := [(1, 0x180000)], sp := { c.sp with data := [(0x180000, 0x80)], pmap := 0x44221133#32 } }))) 3 = 0xFFFFFFFFFFFFFF80 := by decide +kernel

/-- R153: AMO ADD on the scratchpad gives the old value and stores the sum. -/
theorem test_amo_add :
    let t := nextOf (exec (.amoAdd ⟨0, .cc, 3, 1, 2, true, true, false, false⟩) (onCore (fun c => { c with
      sregs := [(1, 0x180000), (2, 5)], sp := { c.sp with data := [(0x180000, 9)], pmap := 0x44221133#32 } })))
    (t.core 0).sreg 3 = 9 ∧ (t.core 0).sp.data = [(0x180000, 14)] := by decide +kernel

/-- R159: the second of two arrivals frees the barrier. -/
theorem test_barrier_completes :
    let t := nextOf (exec (.barArrive ⟨0, .cc, 0, 1, 0, 3⟩) (onCore (fun c => { c with sregs := [(1, 2)], bars := [(3, ⟨2, 1, []⟩)] })))
    (tget ⟨0, 0, []⟩ (t.core 0).bars 3).arrived = 0 := by decide +kernel

/-- R66: a seventeenth command of the matrix queue waits. -/
theorem test_matrix_queue_full :
    ((nextOf (exec (.mxPass ⟨0, .cc, false, 0, 0, 0⟩) (sMx (List.replicate 16 (pass0 .queued 0)) .idle))).core 0).mx.queue.length = 16 := by
  decide +kernel

/-- R60, R63: a START of 1 × 1 leaves the pair (1, 0) of its column. -/
theorem test_accumulate :
    let q := { pass0 .running 0 with fronted := true, ximg := [(0, 0), (1, 0x3C)], wimg := [(0, 0), (1, 0x3C)] }
    accPair ((nextOf (exec (.accumulatorWrite 0) (sMx [q] .stream))).core 0).mx false 0 0 = 0x3F800000 := by decide +kernel

/-- R232: a command that fills writes its pattern. -/
theorem test_translated_fill_moves :
    (((nextOf (exec (.dmaFirstRequest 0 1) (sDma (dma0 .translated 0 0)))).core 0).dma.queue.map (fun q => q.stage)) = [.moving] := by
  decide +kernel

/-- R289: a grant of a line that no other cluster holds makes its cluster the owner. -/
theorem test_grant_is_exclusive :
    ((nextOf (exec (.homeTransactionStart 5) (sHome [] (fun h => { h with queue := [bareL2 (.req .rdS)] })))).mem.msgs.map (fun m => m.kind)) =
      [.dataE] := by decide +kernel

/-- R426, R346, R435: a READ of the node ID answers with its four bytes, behind the EtherType and padded to 46 bytes. -/
theorem test_read_node_id :
    let t := nextOf (exec .kRead { sKd [req0 1 0x4000 1 3 0 256 []] with fab := { s0.fab with node := 0x12345#20 } })
    t.kedal.sent.map (fun r => (r.2.2.take 2, frByte (r.2.2.drop 2) 1, (r.2.2.drop 34).take 4, r.2.2.length)) =
      [([0x88, 0xB5], 0, [0x45, 0x23, 0x01, 0x00], 48)] := by decide +kernel

/-- R429: a WRITE of an object that only CWRITE may write is refused with 0x06. -/
theorem test_write_of_critical_object :
    (nextOf (exec .kWrite (sKd [req0 2 0x4400 1 9 0 0 (List.replicate 16 0)]))).kedal.sent.map (fun r => frByte (r.2.2.drop 2) 1) = [6] := by decide +kernel

/-- FIPS 180-4: the digest of "abc" begins BA 78 16 BF. -/
theorem test_sha256 : (sha256 [0x61, 0x62, 0x63]).take 4 = [0xBA, 0x78, 0x16, 0xBF] := by decide +kernel

/-- SP 800-38D, test case 13 of the GCM specification: the tag of an empty text under zero key and nonce begins 53 0F 8A FB. -/
theorem test_gcm_empty : (gcmTag (List.replicate 32 0) (List.replicate 12 0) [] []).take 4 = [0x53, 0x0F, 0x8A, 0xFB] := by decide +kernel

/-- R356: a measured round trip of 160 quarters of a nanosecond is a hop of 100. -/
theorem test_hop_delay :
    ((nextOf (exec (.rangeComplete 0 160) (sPort (fun x => { x with st := .range })))).port 0).hop = 100 := by decide +kernel

/-- R379: CREATE of a partition with no cluster is refused with status 0x05. -/
theorem test_create_without_cluster :
    (nextOf (exec (.partCreate ⟨0, 0, 1, 1, 1, 1, 1⟩) s0)).partStatus = 5 := by decide +kernel

/-- R475 to R479: a test of a core that no partition holds begins at once. -/
theorem test_selftest_begins :
    (unitSt (nextOf (exec (.testLogic testC) (sRel id))) .core 255) = .testing := by decide +kernel

/-- R13, R14: the last module of a CD–CD link leaves the link replaying. -/
theorem test_last_link_module :
    (nextOf (exec (.ucieModuleOutOfService (.ring 0) 0) { s0 with mem := { s0.mem with
      ucieOut := (List.range 15).map (fun i => (4, i + 1)) } })).mem.cdcd = [(0, .replaying)] := by decide +kernel

/-- R527: a product of ones over K = 2 is 2. -/
theorem test_matmul :
    ((nextOf (exec (.thMatmul (call0 1) (ones [1, 2]) (ones [1, 2]) none) sLib)).lib.last.out).map (fun t => t.data) = [[0, 0, 0, 0x40]] := by
  decide +kernel

end Sys2Proof.Tests
end

section
/-!
Caravans (05 R111, R123): what a launch leaves in every thread, and how CV.LAUNCH, CV.WAIT and CV.MMA complete.
-/
namespace Sys2Proof.Machine

/-! Folds of table writes over lanes. -/

/-- Writing one value for every lane of a list. -/
theorem tget_foldl_tset {α : Type} [DecidableEq α] (d v : α) (ls : List Nat) (t : Tbl α) (j : Nat) :
    tget d (ls.foldl (fun t l => tset d t l v) t) j = if j ∈ ls then v else tget d t j := by
  induction ls generalizing t with
  | nil => simp
  | cons l ls ih =>
    simp only [List.foldl_cons, ih, tget_tset, List.mem_cons]
    by_cases hj : j = l <;> simp [hj]

/-- Lanes that move to a thread state have it, and the others keep theirs. -/
@[simp] theorem Caravan.state_setState (x : Caravan) (ls : List Nat) (st : ThreadState) (w : Wait) (j : Nat) :
    (x.setState ls st w).state j = if j ∈ ls then st else x.state j :=
  tget_foldl_tset _ _ _ _ _

/-! The registers of a launched caravan. -/

/-- Register `r` of lane `l` of caravan `v` after a launch with argument `arg` (R111). -/
def launchReg (v : Nat) (arg : W64) (l r : Nat) : W32 :=
  match r with
  | 0 => BitVec.ofNat 32 l
  | 1 => BitVec.ofNat 32 v
  | 2 => arg.setWidth 32
  | 3 => BitVec.ofNat 32 (arg.toNat / 2 ^ 32)
  | _ => 0

/-- The four register writes that a launch makes for lane `l`. -/
def launchLane (v : Nat) (arg : W64) (t : Tbl W32) (l : Nat) : Tbl W32 :=
  tset 0 (tset 0 (tset 0 (tset 0 t (64 * l) (launchReg v arg l 0)) (64 * l + 1) (launchReg v arg l 1))
    (64 * l + 2) (launchReg v arg l 2)) (64 * l + 3) (launchReg v arg l 3)

/-- A launch empties the registers and then writes those of the 32 lanes. -/
theorem launchCv_regs (x : Caravan) (v : Nat) (entry arg : W64) :
    (launchCv x v entry arg).regs = (List.range 32).foldl (launchLane v arg) [] := rfl

/-- The writes for a lane reach the first four registers of that lane, and no other register of any lane. -/
theorem tget_launchLane (v : Nat) (arg : W64) (t : Tbl W32) (l j : Nat) {r : Nat} (hr : r < 64) :
    tget 0 (launchLane v arg t l) (64 * j + r) = if j = l ∧ r < 4 then launchReg v arg j r else tget 0 t (64 * j + r) := by
  have key (i : Nat) (hi : i < 4) : 64 * j + r = 64 * l + i ↔ j = l ∧ r = i := by omega
  have key0 : 64 * j + r = 64 * l ↔ j = l ∧ r = 0 := key 0 (by decide)
  simp only [launchLane, tget_tset, key0, key 1 (by decide), key 2 (by decide), key 3 (by decide)]
  by_cases hj : j = l
  · subst hj
    match r with
    | 0 | 1 | 2 | 3 => simp
    | r + 4 =>
      have past : ¬ r + 4 < 4 := by omega
      have later (i : Nat) (hi : i < 4) : ¬ r + 4 = i := by omega
      simp only [past, later 0 (by decide), later 1 (by decide), later 2 (by decide), later 3 (by decide), and_false, if_false]
  · simp [hj]

theorem tget_foldl_launchLane (v : Nat) (arg : W64) (ls : List Nat) (t : Tbl W32) (j : Nat) {r : Nat} (hr : r < 64) :
    tget 0 (ls.foldl (launchLane v arg) t) (64 * j + r) =
      if j ∈ ls ∧ r < 4 then launchReg v arg j r else tget 0 t (64 * j + r) := by
  induction ls generalizing t with
  | nil => simp
  | cons l ls ih =>
    simp only [List.foldl_cons, ih, tget_launchLane _ _ _ _ _ hr, List.mem_cons]
    by_cases hj : j = l <;> by_cases hr4 : r < 4 <;> simp [hj, hr4]

/-- R111: the registers of a launched thread; those that get no value read zero. -/
theorem treg_launchCv (x : Caravan) (v : Nat) (entry arg : W64) {l r : Nat} (hl : l < 32) (hr : r < 64) :
    (launchCv x v entry arg).treg l r = launchReg v arg l r := by
  rw [Caravan.treg, launchCv_regs, tget_foldl_launchLane _ _ _ _ _ hr]
  match r with
  | 0 | 1 | 2 | 3 => simp [hl]
  | r + 4 => exact if_neg (fun ⟨_, h⟩ => absurd h (by omega))

/-- R111: a launched thread stands at the entry address. -/
theorem pc_launchCv (x : Caravan) (v : Nat) (entry arg : W64) {l : Nat} (hl : l < 32) :
    (launchCv x v entry arg).pc l = entry :=
  (tget_foldl_tset _ _ _ _ _).trans (if_pos (List.mem_range.mpr hl))

/-- R111: a launched thread is READY. -/
theorem state_launchCv (x : Caravan) (v : Nat) (entry arg : W64) {l : Nat} (hl : l < 32) :
    (launchCv x v entry arg).state l = .ready :=
  (Caravan.state_setState ..).trans (if_pos (List.mem_range.mpr hl))

/-! The instructions. -/

/-- A group whose instruction issues is one that may issue, so the laws of `issue` apply to it. -/
theorem Issues.mayIssue {s : State} {k : Nat} {f : Face} {legal : Bool} {us : List RegUse} {g : Grp}
    (h : Issues s k f legal us g) : mayIssue s k f legal us = some g := by
  obtain ⟨hoffer, hlegal, hregs, hfree, -⟩ := h
  simp [Machine.mayIssue, hoffer, hlegal, hregs, hfree]

theorem exec_cvLaunch (o : LaunchOp) (s : State) : exec (.cvLaunch o) s = execCvLaunch o s := rfl

theorem exec_cvWait (o : LaunchOp) (s : State) : exec (.cvWait o) s = execCvWait o s := rfl

theorem exec_cvMma (o : MmaOp) (s : State) : exec (.cvMma o) s = execCvMma o s := rfl

/-- R123: a CV.MMA with accepted formats and registers parks its threads, unless others of the caravan are parked elsewhere. -/
theorem execCvMma_parks {o : MmaOp} {s : State} {g : Grp} (hok : mmaOk o = true)
    (hmay : mayIssue s o.core o.face (!isCc o.face && o.rsvHi == 0 && o.rsvLo == 0)
      (regSpan o.xb.toNat (mmaXn o) false ++ regSpan o.wb.toNat (mmaWn o) false ++ regSpan o.cb.toNat 32 true ++
        (if isBlock o.xfmt.toNat then regSpan o.sb.toNat 1 false else [])) = some g)
    (hdiv : divergeFault s g false = none) :
    execCvMma o s = .next (issued (park (unwait s g) g (some o)) g) := by
  simp only [execCvMma, hok, if_true, hmay, Option.bind_some, hdiv]
  exact issue_moved hmay rfl

end Sys2Proof.Machine

open Sys2Proof Sys2Proof.Machine

/-- Settles O19: a launch by its writes lane by lane, and each instruction by the law of `issue` for what its body answers. -/
theorem caravansComplete : Obligations.CaravansComplete := by
  unfold Obligations.CaravansComplete
  refine ⟨fun x v entry arg l hl => ?launched, fun o s g h hbusy => ?launchOfBusy, fun o s g h hbusy => ?waits,
    fun o s g h hidle => ?launches, fun o s g h hidle => ?goesOn, fun o s g hok h hdiv => ?parks⟩
  case launched =>
    have reg {r : Nat} (hr : r < 64) := treg_launchCv x v entry arg hl hr
    refine ⟨pc_launchCv x v entry arg hl, state_launchCv x v entry arg hl, reg (by decide), reg (by decide), reg (by decide),
      reg (by decide), fun r hr4 hr => (reg hr).trans ?_⟩
    obtain ⟨n, rfl⟩ := Nat.exists_eq_add_of_le' hr4
    rfl
  case launchOfBusy => exact (exec_cvLaunch o s).trans (issue_fault h.mayIssue (if_pos hbusy))
  case waits => exact (exec_cvWait o s).trans (issue_wait h.mayIssue (if_neg (ne_true_of_eq_false hbusy)))
  case launches => exact (exec_cvLaunch o s).trans (issue_ok h.mayIssue (if_neg (ne_true_of_eq_false hidle)))
  case goesOn => exact (exec_cvWait o s).trans (issue_ok h.mayIssue (if_pos hidle))
  case parks => exact (exec_cvMma o s).trans (execCvMma_parks hok h.mayIssue hdiv)

end

section
/-!
Integer register operations (06 R141, R142): each one is the shared operation `intRrr` at a function of its two operands, and
`intRrr` completes, or refuses a reserved RB.
-/
namespace Sys2Proof.Machine

/-- The operations of two registers are `intRrr` with both sources. -/
theorem exec_of_mem_intOps2 {e : (RrrOp → Instr) × ((w : Nat) → BitVec w → BitVec w → BitVec w)} (he : e ∈ intOps2)
    (o : RrrOp) (s : State) : exec (e.1 o) s = intRrr o 4 true e.2 s := by
  unfold intOps2 at he
  repeat
    obtain _ | ⟨_, he⟩ := he
    · rfl
  nomatch he

/-- The operations of one register are `intRrr` without RB, whose value they do not look at. -/
theorem exec_of_mem_intOps1 {e : (RrrOp → Instr) × ((w : Nat) → BitVec w → BitVec w)} (he : e ∈ intOps1)
    (o : RrrOp) (s : State) : exec (e.1 o) s = intRrr o 4 false (fun w x _ => e.2 w x) s := by
  unfold intOps1 at he
  repeat
    obtain _ | ⟨_, he⟩ := he
    · rfl
  nomatch he

/-- R142: RB of an operation of one register is reserved. -/
theorem intRrr_reserved_rb {o : RrrOp} {len : Nat} {f : (w : Nat) → BitVec w → BitVec w → BitVec w} {s : State} {g : Grp}
    (hoffer : offer s o.core o.face = some g) (hrb : o.rb ≠ 0) :
    intRrr o len false f s = .next (faultGrp s g 1 g.lanes 0) := by
  unfold intRrr
  exact issue_illegal hoffer (by simp only [beq_false_of_ne hrb, Bool.or_false, Bool.and_false, Bool.false_and])

/-- An operation of two registers that issues writes its result in every lane. -/
theorem intRrr_completes {o : RrrOp} {len : Nat} {f : (w : Nat) → BitVec w → BitVec w → BitVec w} {s : State} {g : Grp}
    (h : Issues s o.core o.face (!(isCc o.face && o.w))
      [useOf o.rd (wideOp o.face o.w) true, useOf o.ra (wideOp o.face o.w) false, useOf o.rb (wideOp o.face o.w) false] g) :
    intRrr o len true f s = .next (issuedTo (eachWrite g o.rd (wideOp o.face o.w) (fun s l =>
      atWidth (wideOp o.face o.w) f (rdReg s g l o.ra.toNat (wideOp o.face o.w)) (rdReg s g l o.rb.toNat (wideOp o.face o.w)))
      (unwait s g)) g len) := by
  have legal : (!(isCc o.face && o.w) && (true || o.rb == 0)) = !(isCc o.face && o.w) := Bool.and_true _
  unfold intRrr
  exact issue_ok (legal.symm ▸ h.mayIssue) rfl

/-- An operation of one register that issues writes its result in every lane. -/
theorem intRrr_completes_of_one {o : RrrOp} {len : Nat} {f : (w : Nat) → BitVec w → BitVec w} {s : State} {g : Grp}
    (h : Issues s o.core o.face (!(isCc o.face && o.w) && o.rb == 0)
      [useOf o.rd (wideOp o.face o.w) true, useOf o.ra (wideOp o.face o.w) false] g) :
    intRrr o len false (fun w x _ => f w x) s = .next (issuedTo (eachWrite g o.rd (wideOp o.face o.w) (fun s l =>
      atWidth (wideOp o.face o.w) (fun w x _ => f w x) (rdReg s g l o.ra.toNat (wideOp o.face o.w)) 0) (unwait s g)) g len) := by
  unfold intRrr
  exact issue_ok h.mayIssue rfl

end Sys2Proof.Machine

open Sys2Proof Sys2Proof.Machine

/-- Settles O3: every operation is `intRrr` at its function, which completes by the law of `issue`. -/
theorem integerOpsComplete : Obligations.IntegerOpsComplete := by
  unfold Obligations.IntegerOpsComplete
  refine ⟨fun e he o s g hoffer hrb => ?reserved, fun e he o s g h => ?ofTwo, fun e he o s g h => ?ofOne⟩
  case reserved => exact (exec_of_mem_intOps1 he o s).trans (intRrr_reserved_rb hoffer hrb)
  case ofTwo => exact (exec_of_mem_intOps2 he o s).trans (intRrr_completes h)
  case ofOne => exact (exec_of_mem_intOps1 he o s).trans (intRrr_completes_of_one h)

end

section
/-!
Misaligned accesses (06 R150): a lane whose address is no multiple of the size is found before any other check, so neither
TLB_PCAUSE nor SP_FAULT is written, and the instruction raises 0x03 for exactly those lanes.
-/
namespace Sys2Proof.Machine

/-- The lanes of a group whose address is no multiple of the size of the access (R150). -/
def misaligned (g : Grp) (addr : Nat → Nat) (n : Nat) : List Nat := g.lanes.filter (fun l => addr l % n ≠ 0)

/-! What a wait leaves unchanged: the registers, and with them the addresses. -/

@[simp] theorem rdReg_setWait (s : State) (g : Grp) (ls : List Nat) (st : ThreadState) (w : Wait) (l r : Nat) (wide : Bool) :
    rdReg (setWait s g ls st w) g l r wide = rdReg s g l r wide := by
  cases hcv : g.cv with
  | none => simp only [rdReg, setWait, hcv, Core.sreg, State.core_updCore, if_true]
  | some v => simp only [rdReg, setWait, hcv, State.updCv, State.core_updCore, if_true, Core.cv, tget_tput_same, Caravan.setState,
      Caravan.treg]

@[simp] theorem rdReg_unwait (s : State) (g : Grp) (l r : Nat) (wide : Bool) :
    rdReg (unwait s g) g l r wide = rdReg s g l r wide := rdReg_setWait ..

@[simp] theorem effAddr_unwait (s : State) (g : Grp) (l : Nat) (ra : BitVec 6) (imm : W64) :
    effAddr (unwait s g) g l ra imm = effAddr s g l ra imm := by
  simp only [effAddr, rdReg_unwait]

@[simp] theorem spAddr_unwait (s : State) (g : Grp) (l : Nat) (ra : BitVec 6) (off : W32) :
    spAddr (unwait s g) g l ra off = spAddr s g l ra off := by
  simp only [spAddr, rdReg_unwait]

/-! Accesses of virtual memory. -/

section Mem
variable {s : State} {k n : Nat} {f : Face} {legal : Bool} {us : List RegUse} {g : Grp} {want : Grp → State → Nat → Want}
  {va : State → Nat → W64} {first : Grp → Nat → Nat → (State → Lane) → State → Lane}

/-- R150: misaligned lanes come before every other fault of a memory instruction, with no cause for TLB_PCAUSE. -/
theorem laneFaults_misaligned {a : Nat → W64} {want : Nat → Want} (hva : ∀ l, (want l).va = a l) (hsize : ∀ l, (want l).size = n)
    (hbad : misaligned g (fun l => (a l).toNat) n ≠ []) :
    laneFaults s g want = some (3, 0, misaligned g (fun l => (a l).toNat) n, a ((misaligned g (fun l => (a l).toNat) n).headD 0)) := by
  simp only [laneFaults, hva, hsize]
  exact if_pos (congrArg (!·) (List.isEmpty_eq_false_iff.mpr hbad))

/-- A fault without a cause leaves TLB_PCAUSE and the TLBs as they are. -/
theorem noteCause_of_no_cause {ls : List Nat} {a : W64} (h : mayIssue s k f legal us = some g)
    (hfault : laneFaults s g (want g s) = some (3, 0, ls, a)) : noteCause s k f legal us want = s := by
  obtain ⟨hoffer, hlegal, hfree⟩ := mayIssue_some h
  simp only [noteCause, hoffer, hlegal, hfree, Bool.and_self, if_true, hfault, setPcause]

/-- R150: a load, store or atomic of memory with misaligned lanes raises 0x03 for them. -/
theorem issue_memRunWith_misaligned (h : mayIssue s k f legal us = some g) (hva : ∀ t l, (want g t l).va = va t l)
    (hsize : ∀ t l, (want g t l).size = n) (hkeep : ∀ l, va (unwait s g) l = va s l)
    (hbad : misaligned g (fun l => (va s l).toNat) n ≠ []) :
    issue (noteCause s k f legal us want) k f 4 legal us (fun g s => memRunWith first g (want g) s) =
      .next (faultGrp s g 3 (misaligned g (fun l => (va s l).toNat) n)
        (va s ((misaligned g (fun l => (va s l).toNat) n).headD 0))) := by
  have before := laneFaults_misaligned (s := s) (hva s) (hsize s) hbad
  have after := laneFaults_misaligned (s := unwait s g) (fun l => (hva _ l).trans (hkeep l)) (hsize _) hbad
  rw [noteCause_of_no_cause h before]
  exact issue_fault h (by simp only [memRunWith, after])

/-- R150 where the address is RA and an immediate. -/
theorem issue_effAddr_misaligned {ra : BitVec 6} {imm : W64} (h : mayIssue s k f legal us = some g)
    (hva : ∀ t l, (want g t l).va = effAddr t g l ra imm) (hsize : ∀ t l, (want g t l).size = n)
    (hbad : misaligned g (fun l => (effAddr s g l ra imm).toNat) n ≠ []) :
    ∃ t a, issue (noteCause s k f legal us want) k f 4 legal us (fun g s => memRunWith first g (want g) s) =
      .next (faultGrp t g 3 (misaligned g (fun l => (effAddr s g l ra imm).toNat) n) a) :=
  ⟨s, _, issue_memRunWith_misaligned (va := fun t l => effAddr t g l ra imm) h hva hsize (fun _ => effAddr_unwait ..) hbad⟩

end Mem

/-! Accesses of the scratchpad. -/

section Pad
variable {s : State} {k n : Nat} {f : Face} {legal : Bool} {us : List RegUse} {g : Grp} {addr : Grp → State → Nat → Nat}
  {body : Grp → State → Did}

/-- R150: misaligned lanes come before the checks of the C port. -/
theorem cPortBad_misaligned {a : Nat → Nat} (hbad : misaligned g a n ≠ []) :
    cPortBad s g a n = some (3, misaligned g a n, 0, a ((misaligned g a n).headD 0)) :=
  if_pos (congrArg (!·) (List.isEmpty_eq_false_iff.mpr hbad))

/-- A misaligned access is no scratchpad port fault: SP_FAULT stays as it is. -/
theorem noteSp_misaligned (h : mayIssue s k f legal us = some g) (hbad : misaligned g (addr g s) n ≠ []) :
    noteSp s k f legal us addr n = s := by
  obtain ⟨hoffer, hlegal, hfree⟩ := mayIssue_some h
  simp only [noteSp, hoffer, hlegal, hfree, Bool.and_self, if_true, cPortBad_misaligned hbad]

/-- R150: an instruction whose body faults on the misaligned lanes raises 0x03 for them, in the state before it. -/
theorem issueSp_misaligned (h : mayIssue s k f legal us = some g) (hbad : misaligned g (addr g s) n ≠ [])
    (hbody : body g (unwait s g) = .fault 3 (misaligned g (addr g s) n) 0) :
    issue (noteSp s k f legal us addr n) k f 4 legal us body = .next (faultGrp s g 3 (misaligned g (addr g s) n) 0) :=
  (noteSp_misaligned h hbad).symm ▸ issue_fault h hbody

end Pad

/-! The instructions. -/

/-- The loads are `loadInstr` at their size and sign. -/
theorem exec_of_mem_loadForms {e : (RriOp → Instr) × Nat × Bool} (he : e ∈ loadForms) (o : RriOp) (s : State) :
    exec (e.1 o) s = loadInstr o e.2.1 e.2.2 s := by
  unfold loadForms at he
  repeat
    obtain _ | ⟨_, he⟩ := he
    · rfl
  nomatch he

/-- The stores are `storeInstr` at their size. -/
theorem exec_of_mem_storeForms {e : (RriOp → Instr) × Nat} (he : e ∈ storeForms) (o : RriOp) (s : State) :
    exec (e.1 o) s = storeInstr o e.2 s := by
  unfold storeForms at he
  repeat
    obtain _ | ⟨_, he⟩ := he
    · rfl
  nomatch he

/-- The atomics are `amoInstr` at their operation. -/
theorem exec_of_mem_amoForms {e : (AmoOp → Instr) × AmoKind} (he : e ∈ amoForms) (o : AmoOp) (s : State) :
    exec (e.1 o) s = amoInstr o e.2 s := by
  unfold amoForms at he
  repeat
    obtain _ | ⟨_, he⟩ := he
    · rfl
  nomatch he

theorem exec_ldAcq (o : AcqOp) (s : State) : exec (.ldAcq o) s = execLdAcq o s := rfl

theorem exec_stRel (o : AcqOp) (s : State) : exec (.stRel o) s = execStRel o s := rfl

/-- LDS and STS are `spInstr`. -/
theorem exec_of_mem_padForms {e : (SpaOp → Instr) × Bool} (he : e ∈ [(Instr.lds, false), (Instr.sts, true)]) (o : SpaOp)
    (s : State) : exec (e.1 o) s = spInstr o e.2 s := by
  repeat
    obtain _ | ⟨_, he⟩ := he
    · rfl
  nomatch he

section Forms
variable {s : State} {g : Grp}

/-- R150 for LDS and STS. -/
theorem spInstr_misaligned {o : SpaOp} {store : Bool}
    (h : mayIssue s o.core o.face (sizeOk o.face store o.size)
      [dataUse o.rd (sizeBytes o.size) (!store), ⟨o.ra.toNat, 1, false⟩] = some g)
    (hbad : misaligned g (fun l => spAddr s g l o.ra (o.off.signExtend 32)) (sizeBytes o.size) ≠ []) :
    spInstr o store s =
      .next (faultGrp s g 3 (misaligned g (fun l => spAddr s g l o.ra (o.off.signExtend 32)) (sizeBytes o.size)) 0) := by
  unfold spInstr
  exact issueSp_misaligned (addr := fun g s l => spAddr s g l o.ra (o.off.signExtend 32)) h hbad
    (by simp only [spAddr_unwait, cPortBad_misaligned hbad])

/-- R150 for an atomic of either space. -/
theorem amoInstr_misaligned {o : AmoOp} {op : AmoKind}
    (h : mayIssue s o.core o.face true (amoUses o) = some g)
    (hbad : misaligned g (fun l => if o.space then spAddr s g l o.ra 0 else (rdReg s g l o.ra.toNat true).toNat)
      (if o.w then 8 else 4) ≠ []) :
    ∃ t a, amoInstr o op s = .next (faultGrp t g 3
      (misaligned g (fun l => if o.space then spAddr s g l o.ra 0 else (rdReg s g l o.ra.toNat true).toNat)
        (if o.w then 8 else 4)) a) := by
  cases hspace : o.space with
  | true =>
    simp only [hspace, if_true] at hbad
    simp only [amoInstr, hspace, if_true]
    exact ⟨s, 0, issueSp_misaligned (addr := fun g s l => spAddr s g l o.ra 0) h hbad
      (by simp only [spAddr_unwait, cPortBad_misaligned hbad])⟩
  | false =>
    simp only [hspace, if_false, Bool.false_eq_true] at hbad
    simp only [amoInstr, hspace, if_false, Bool.false_eq_true]
    exact ⟨s, _, issue_memRunWith_misaligned (va := fun t l => rdReg t g l o.ra.toNat true) h (fun _ _ => rfl) (fun _ _ => rfl)
      (fun _ => rdReg_unwait ..) hbad⟩

end Forms

end Sys2Proof.Machine

open Sys2Proof Sys2Proof.Machine

/-- Settles O11: the misaligned lanes are found first, in the state before the issue and, since the registers are the same,
in the state in which the instruction's body runs. -/
theorem misalignedAccessFaults : Obligations.MisalignedAccessFaults := by
  unfold Obligations.MisalignedAccessFaults
  refine ⟨fun e he o s g h hbad => ?load, fun e he o s g h hbad => ?store, fun e he o s g h hbad => ?ordered,
    fun e he o s g h hbad => ?pad, fun e he o s g h hbad => ?atomic⟩
  case load =>
    rw [exec_of_mem_loadForms he]
    exact issue_effAddr_misaligned h.mayIssue (fun _ _ => rfl) (fun _ _ => rfl) hbad
  case store =>
    rw [exec_of_mem_storeForms he]
    exact issue_effAddr_misaligned h.mayIssue (fun _ _ => rfl) (fun _ _ => rfl) hbad
  case ordered =>
    obtain rfl | rfl : e = (.ldAcq, false) ∨ e = (.stRel, true) := by
      simpa only [List.mem_cons, List.not_mem_nil, or_false] using he
    · rw [exec_ldAcq]
      exact issue_effAddr_misaligned h.mayIssue (fun _ _ => rfl) (fun _ _ => rfl) hbad
    · rw [exec_stRel]
      exact issue_effAddr_misaligned h.mayIssue (fun _ _ => rfl) (fun _ _ => rfl) hbad
  case pad => exact ⟨s, (exec_of_mem_padForms he o s).trans (spInstr_misaligned h.mayIssue hbad)⟩
  case atomic => exact exec_of_mem_amoForms he o s ▸ amoInstr_misaligned h.mayIssue hbad

end

section
/-!
What a step can do to HBM and MIN_SVN (log 1; 18 R449, R461; 21 R522). A function of the model that neither writes HBM nor MIN_SVN keeps
the two (`_kept`); one that does keeps the canonical form of HBM and does not lower MIN_SVN (`_rises`). One lemma for each function,
in the order of the model, so that each proof rests on the lemmas of the functions that are called.
-/
namespace Sys2Proof.Machine

/-- HBM and MIN_SVN: what the invariants of this section speak of. -/
abbrev Kept := Memory × W32

/-- HBM and MIN_SVN of a state. The lemmas that compute it, and those of its kind below, are proved by `Eq.trans rfl rfl`: simp then
rewrites with them, where a proof by `rfl` would leave it to the kernel to compare whole states field by field. -/
def kept (s : State) : Kept := (s.mem.hbm, s.sec.minSvn)

@[simp] theorem kept_mk (a b c d e f g h i j k l m n o p q r) :
    kept (State.mk a b c d e f g h i j k l m n o p q r) = (b.hbm, l.minSvn) := Eq.trans rfl rfl

@[simp] theorem kept_eta (s : State) : (s.mem.hbm, s.sec.minSvn) = kept s := Eq.trans rfl rfl

@[simp] theorem kept_ite (c : Prop) [Decidable c] (s t : State) : kept (if c then s else t) = if c then kept s else kept t :=
  apply_ite ..

@[simp] theorem setBank_minSvn (s : State) (b : Nat) (x : Bank) : (s.setBank b x).sec.minSvn = s.sec.minSvn := Eq.trans rfl rfl

@[simp] theorem setKeySlot_minSvn (s : State) (b : Nat) (x : KeySlot) : (s.setKeySlot b x).sec.minSvn = s.sec.minSvn := Eq.trans rfl rfl

/-- The two of the state that an outcome goes on to. -/
def outKept : Out → Option Kept
  | .next t => some (kept t)
  | _ => none

@[simp] theorem outKept_next (t : State) : outKept (.next t) = some (kept t) := Eq.trans rfl rfl

@[simp] theorem outKept_ite (c : Prop) [Decidable c] (s t : Out) : outKept (if c then s else t) = if c then outKept s else outKept t :=
  apply_ite ..

/-- The two of the state, if any, in what issuing did. -/
def Did.kept : Did → Option Kept
  | .ok t | .yield t | .part t _ | .moved t => some (Machine.kept t)
  | _ => none

/-- The two of the state, if any, in what one lane did. -/
def Lane.kept : Lane → Option Kept
  | .done t | .wait t _ _ => some (Machine.kept t)
  | _ => none

/-- The two of the state, if any, in what a channel did. -/
def ChanDid.kept : ChanDid → Option Kept
  | .on t | .stop t _ => some (Machine.kept t)
  | _ => none

/-- The two of the state in what a DMA unit did. -/
def DmaMove.kept : DmaMove → Kept
  | .moved t _ | .stop t _ | .bad t _ _ _ _ _ => Machine.kept t

/-- If there is one, it is `x`. -/
def Stays (x : Kept) (o : Option Kept) : Prop := ∀ y ∈ o, y = x

@[simp] theorem stays_none (x : Kept) : Stays x none := nofun

@[simp] theorem stays_some {x y : Kept} : Stays x (some y) ↔ y = x :=
  ⟨fun h => h y rfl, fun h _ hz => (Option.some.inj hz).symm.trans h⟩

section
variable (s t : State) (ls : List Nat) (a : W64) (n : Nat) (w : Wait) (st : ThreadState)
@[simp] theorem Did.kept_ok : (Did.ok t).kept = some (Machine.kept t) := Eq.trans rfl rfl
@[simp] theorem Did.kept_yield : (Did.yield t).kept = some (Machine.kept t) := Eq.trans rfl rfl
@[simp] theorem Did.kept_part : (Did.part t ls).kept = some (Machine.kept t) := Eq.trans rfl rfl
@[simp] theorem Did.kept_moved : (Did.moved t).kept = some (Machine.kept t) := Eq.trans rfl rfl
@[simp] theorem Did.kept_wait : (Did.wait w).kept = none := Eq.trans rfl rfl
@[simp] theorem Did.kept_fault : (Did.fault n ls a).kept = none := Eq.trans rfl rfl
@[simp] theorem Did.kept_ite (c : Prop) [Decidable c] (x y : Did) : (if c then x else y).kept = if c then x.kept else y.kept := apply_ite ..
@[simp] theorem Lane.kept_done : (Lane.done t).kept = some (Machine.kept t) := Eq.trans rfl rfl
@[simp] theorem Lane.kept_wait : (Lane.wait t st w).kept = some (Machine.kept t) := Eq.trans rfl rfl
@[simp] theorem Lane.kept_fault (m : Nat) : (Lane.fault n m).kept = none := Eq.trans rfl rfl
@[simp] theorem Lane.kept_ite (c : Prop) [Decidable c] (x y : Lane) : (if c then x else y).kept = if c then x.kept else y.kept := apply_ite ..
@[simp] theorem ChanDid.kept_on : (ChanDid.on t).kept = some (Machine.kept t) := Eq.trans rfl rfl
@[simp] theorem ChanDid.kept_stop (x : Option TagWait) : (ChanDid.stop t x).kept = some (Machine.kept t) := Eq.trans rfl rfl
@[simp] theorem ChanDid.kept_bad (b : VeBad) : (ChanDid.bad b).kept = none := Eq.trans rfl rfl
@[simp] theorem ChanDid.kept_ite (c : Prop) [Decidable c] (x y : ChanDid) : (if c then x else y).kept = if c then x.kept else y.kept := apply_ite ..
@[simp] theorem DmaMove.kept_moved (q : DmaCmd) : (DmaMove.moved t q).kept = Machine.kept t := Eq.trans rfl rfl
@[simp] theorem DmaMove.kept_stop (q : DmaCmd) : (DmaMove.stop t q).kept = Machine.kept t := Eq.trans rfl rfl
@[simp] theorem DmaMove.kept_bad (a b c d e : Nat) : (DmaMove.bad t a b c d e).kept = Machine.kept t := Eq.trans rfl rfl
@[simp] theorem DmaMove.kept_ite (c : Prop) [Decidable c] (x y : DmaMove) : (if c then x else y).kept = if c then x.kept else y.kept := apply_ite ..
end

/-- A fold of steps that each keep the two. -/
@[simp] theorem kept_foldl {α : Type} (f : State → α → State) (s : State) (l : List α) (h : ∀ s a, kept (f s a) = kept s) :
    kept (l.foldl f s) = kept s := by
  induction l generalizing s with
  | nil => rfl
  | cons a l ih => exact (ih (f s a)).trans (h s a)

/-- The invariants between two states: the canonical form of HBM is kept, and MIN_SVN does not fall. -/
def Rises (x y : Kept) : Prop := (Memory.wf x.1 = true → Memory.wf y.1 = true) ∧ x.2.toNat ≤ y.2.toNat

@[simp] theorem rises_refl (x : Kept) : Rises x x := ⟨id, Nat.le_refl _⟩

@[simp] theorem rises_ite {x y z : Kept} (c : Prop) [Decidable c] : Rises x (if c then y else z) ↔ if c then Rises x y else Rises x z := by
  split <;> rfl

/-- If there is an outcome state, it has risen. -/
def Risen (x : Kept) (o : Option Kept) : Prop := ∀ y ∈ o, Rises x y

@[simp] theorem risen_none (x : Kept) : Risen x none := nofun

@[simp] theorem risen_some {x y : Kept} : Risen x (some y) ↔ Rises x y :=
  ⟨fun h => h y rfl, fun h _ hz => Option.some.inj hz ▸ h⟩

@[simp] theorem risen_ite {x : Kept} {y z : Option Kept} (c : Prop) [Decidable c] : Risen x (if c then y else z) ↔ if c then Risen x y else Risen x z := by
  split <;> rfl

@[simp] theorem rises_foldl {α : Type} {x : Kept} {f : State → α → State} {s : State} {l : List α}
    (h : ∀ s a, Rises x (kept s) → Rises x (kept (f s a))) (hs : Rises x (kept s)) : Rises x (kept (l.foldl f s)) := by
  induction l generalizing s with
  | nil => exact hs
  | cons a l ih => exact ih (h s a hs)

/-- The two of the state, if any, on the left. -/
def leftKept {α : Type} : State ⊕ α → Option Kept
  | .inl t => some (kept t)
  | .inr _ => none

@[simp] theorem leftKept_inl {α : Type} (t : State) : leftKept (.inl t : State ⊕ α) = some (kept t) := Eq.trans rfl rfl

@[simp] theorem leftKept_inr {α : Type} (w : α) : leftKept (.inr w : State ⊕ α) = none := Eq.trans rfl rfl

@[simp] theorem leftKept_ite {α : Type} (c : Prop) [Decidable c] (x y : State ⊕ α) :
    leftKept (if c then x else y) = if c then leftKept x else leftKept y := apply_ite ..

/-- The two of a state on either side. -/
def bothKept : State ⊕ State → Kept
  | .inl t => kept t
  | .inr t => kept t

@[simp] theorem bothKept_inl (t : State) : bothKept (.inl t) = kept t := Eq.trans rfl rfl

@[simp] theorem bothKept_inr (t : State) : bothKept (.inr t) = kept t := Eq.trans rfl rfl

@[simp] theorem bothKept_ite (c : Prop) [Decidable c] (x y : State ⊕ State) :
    bothKept (if c then x else y) = if c then bothKept x else bothKept y := apply_ite ..

/-! What `Machine/Access.lean` defines. -/

@[simp] theorem State.setCore_kept (s : State) (k : Nat) (c : Core) : kept (s.setCore k c) = kept s := by simp [State.setCore]

@[simp] theorem State.updCore_kept (s : State) (k : Nat) (f : Core → Core) :
    kept (s.updCore k f) = kept s := by simp [State.updCore]

@[simp] theorem State.setCluster_kept (s : State) (c : Nat) (x : Cluster) :
    kept (s.setCluster c x) = kept s := by simp [State.setCluster]

@[simp] theorem State.setHome_kept (s : State) (d : Nat) (h : Home) : kept (s.setHome d h) = kept s := by simp [State.setHome]

@[simp] theorem State.setPort_kept (s : State) (p : Nat) (x : Port) : kept (s.setPort p x) = kept s := by simp [State.setPort]

@[simp] theorem State.setPart_kept (s : State) (q : Nat) (x : Partition) :
    kept (s.setPart q x) = kept s := by simp [State.setPart]

@[simp] theorem State.setCtx_kept (s : State) (n : Nat) (x : Ctx) : kept (s.setCtx n x) = kept s := by simp [State.setCtx]

@[simp] theorem State.setFn_kept (s : State) (f : Nat) (x : HostFn) : kept (s.setFn f x) = kept s := by simp [State.setFn]

@[simp] theorem State.setBuf_kept (s : State) (b : Nat) (x : TraceBuf) : kept (s.setBuf b x) = kept s := by simp [State.setBuf]

@[simp] theorem State.setBudget_kept (s : State) (k : Nat) (b : Budget) :
    kept (s.setBudget k b) = kept s := by simp [State.setBudget]

@[simp] theorem State.working_kept (s : State) (k : Nat) : kept (s.working k) = kept s := by simp [State.working]

@[simp] theorem State.setKeySlot_kept (s : State) (k : Nat) (x : KeySlot) :
    kept (s.setKeySlot k x) = kept s := by simp [State.setKeySlot]

@[simp] theorem State.setBank_kept (s : State) (b : Nat) (x : Bank) : kept (s.setBank b x) = kept s := by simp [State.setBank]

@[simp] theorem State.setKslot_kept (s : State) (k : Nat) (x : KSlot) :
    kept (s.setKslot k x) = kept s := by simp [State.setKslot]

@[simp] theorem State.setDomain_kept (s : State) (n : Nat) (w : W32) :
    kept (s.setDomain n w) = kept s := by simp [State.setDomain]

@[simp] theorem State.free_kept (s : State) : kept s.free.2 = kept s := by simp [State.free]

@[simp] theorem State.newId_kept (s : State) : kept s.newId.2 = kept s := by simp [State.newId]

@[simp] theorem State.setCtr_kept (s : State) (n : Nat) (c : Counter) : kept (s.setCtr n c) = kept s := by simp [State.setCtr]

@[simp] theorem State.bump_kept (s : State) (lo hi ev um n : Nat) (cx : Option Nat) :
    kept (s.bump lo hi ev um n cx) = kept s := by simp [State.bump]

@[simp] theorem State.touchCtr_kept (s : State) (n : Nat) : kept (s.touchCtr n) = kept s := by simp [State.touchCtr]

@[simp] theorem State.bumpCore_kept (s : State) (k ev um n : Nat) :
    kept (s.bumpCore k ev um n) = kept s := by simp [State.bumpCore]

@[simp] theorem State.bumpCluster_kept (s : State) (c ev um n : Nat) :
    kept (s.bumpCluster c ev um n) = kept s := by simp [State.bumpCluster]

@[simp] theorem State.bumpDie_kept (s : State) (d ev um n : Nat) :
    kept (s.bumpDie d ev um n) = kept s := by simp [State.bumpDie]

@[simp] theorem State.bumpHub_kept (s : State) (ev um n : Nat) : kept (s.bumpHub ev um n) = kept s := by simp [State.bumpHub]

@[simp] theorem State.bumpPort_kept (s : State) (ev p vc n : Nat) :
    kept (s.bumpPort ev p vc n) = kept s := by simp [State.bumpPort]

@[simp] theorem State.stamp_kept (s : State) : kept s.stamp.2 = kept s := by simp [State.stamp]

@[simp] theorem State.absorb_kept (s : State) (r : W64) : kept (s.absorb r) = kept s := by simp [State.absorb]

@[simp] theorem State.testTrig_kept (s : State) (b : Nat) (w0 : W64) : kept (s.testTrig b w0).1 = kept s := by
  simp only [State.testTrig]; split <;> simp

@[simp] theorem State.countDrops_kept (s : State) (b n : Nat) : kept (s.countDrops b n) = kept s := by simp [State.countDrops]

@[simp] theorem State.emit_kept (s : State) (b kind unit ctx info : Nat) (a0 a1 : W64) :
    kept (s.emit b kind unit ctx info a0 a1) = kept s := by simp [State.emit]

@[simp] theorem setUnit_kept (s : State) (d : Domain) (u : Nat) (x : UnitState) :
    kept (setUnit s d u x) = kept s := by simp [setUnit]

@[simp] theorem setIde_kept (s : State) (n : Nat) (x : IdeStream) : kept (setIde s n x) = kept s := by simp [setIde]

/-! What `Machine/Identity.lean` defines. -/

@[simp] theorem drawBytes_kept (s : State) : kept (drawBytes s).2 = kept s := by simp [drawBytes]

@[simp] theorem blockWrite_kept (s : State) : kept (blockWrite s) = kept s := by simp [blockWrite]

/-! What `Machine/Ops.lean` defines. -/

@[simp] theorem State.updCv_kept (s : State) (k v : Nat) (f : Caravan → Caravan) :
    kept (s.updCv k v f) = kept s := by simp [State.updCv]

@[simp] theorem wrReg_kept (s : State) (g : Grp) (lane r : Nat) (wide : Bool) (v : W64) :
    kept (wrReg s g lane r wide v) = kept s := by
  simp only [wrReg]; split <;> simp

@[simp] theorem wrLow_kept (s : State) (g : Grp) (lane r : Nat) (v : W32) : kept (wrLow s g lane r v) = kept s := by
  simp only [wrLow]; split <;> simp

@[simp] theorem wrQuad_kept (s : State) (g : Grp) (lane r : Nat) (v : W128) :
    kept (wrQuad s g lane r v) = kept s := by simp [wrQuad]

@[simp] theorem raiseFlags_kept (s : State) (g : Grp) (fl : Flags) : kept (raiseFlags s g fl) = kept s := by
  simp only [raiseFlags]; split <;> simp

@[simp] theorem setWait_kept (s : State) (g : Grp) (lanes : List Nat) (st : ThreadState) (w : Wait) :
    kept (setWait s g lanes st w) = kept s := by
  simp only [setWait]; split <;> simp

@[simp] theorem wakeCore_kept (s : State) (k : Nat) : kept (wakeCore s k) = kept s := by simp [wakeCore]

@[simp] theorem startTeardown_kept (s : State) (n cause : Nat) : kept (startTeardown s n cause) = kept s := by
  simp only [startTeardown]; split <;> simp

@[simp] theorem preempt_kept (s : State) (n : Nat) (halt : Bool) : kept (preempt s n halt) = kept s := by simp [preempt]

@[simp] theorem faultCore_kept (s : State) (k code src cv thread : Nat) (mask : W32) (pc addr : W64) :
    kept (faultCore s k code src cv thread mask pc addr) = kept s := by
  simp only [faultCore]; split <;> simp

@[simp] theorem faultGrp_kept (s : State) (g : Grp) (code : Nat) (lanes : List Nat) (addr : W64) :
    kept (faultGrp s g code lanes addr) = kept s := by
  simp only [faultGrp]; split <;> simp

@[simp] theorem advance_kept (s : State) (g : Grp) (lanes : List Nat) (len : Nat) : kept (advance s g lanes len) = kept s := by
  simp only [advance]; split <;> simp

@[simp] theorem issued_kept (s : State) (g : Grp) : kept (issued s g) = kept s := by
  simp only [issued]; split <;> simp

@[simp] theorem unwait_kept (s : State) (g : Grp) : kept (unwait s g) = kept s := by simp [unwait]

@[simp] theorem issue_kept {s : State} {k : Nat} {f : Face} {len : Nat} {legal : Bool} {us : List RegUse}
    {body : Grp → State → Did}
    (h : ∀ g t, kept t = kept s → Stays (kept s) (body g t).kept) :
    outKept (issue s k f len legal us body) = some (kept s) := by
  obtain ⟨t, ht⟩ := issue_next (s := s) (k := k) (f := f) (len := len) (legal := legal) (us := us) (body := body)
  rw [ht, outKept_next]
  have body_kept {g r} {d : Did} (hd : body g (unwait s g) = d) (hr : d.kept = some (kept r)) : kept r = kept s := by
    simpa [hd, hr] using h g (unwait s g) (unwait_kept s g)
  obtain ⟨-, rfl⟩ | ⟨g, -, ⟨rfl, -⟩ | ⟨rfl, -⟩ | ⟨-, hb⟩⟩ := issue_cases ht
  · rfl
  · simp
  · simp
  · obtain ⟨r, hd, rfl⟩ | ⟨r, hd, rfl⟩ | ⟨r, done, hd, rfl⟩ | ⟨r, hd, rfl⟩ | ⟨w, hd, rfl⟩ | ⟨code, ls, addr, hd, rfl⟩ := hb
    · simp [body_kept hd rfl]
    · simp [body_kept hd rfl]
    · simp [body_kept hd rfl]
    · simp [body_kept hd rfl]
    · simp
    · simp

@[simp] theorem eachLane_kept {g : Grp} {f : Nat → State → State} {s : State} (h : ∀ l s, kept (f l s) = kept s) :
    kept (eachLane g f s) = kept s := by
  simp [eachLane, h]

@[simp] theorem issuePriv_kept {s : State} {k : Nat} {f : Face} {len : Nat} {legal : Bool} {us : List RegUse}
    {body : Grp → State → Did}
    (h : ∀ g t, kept t = kept s → Stays (kept s) (body g t).kept) :
    outKept (issuePriv s k f len legal us body) = some (kept s) := by
  unfold issuePriv
  split
  · exact issue_kept h
  · split <;> simp

/-! What `Machine/Outward.lean` defines. -/

@[simp] theorem fabOut_kept (s : State) (p : Packet) : kept (fabOut s p) = kept s := by simp [fabOut]

@[simp] theorem fabSendFor_kept (s : State) (n k entry : Nat) (owner : Owner) (write : Bool) (pa : W64) (mask : Nat)
    (bs : Bytes) (poison : Nat) : kept (fabSendFor s n k entry owner write pa mask bs poison) = kept s := by simp [fabSendFor]

@[simp] theorem fabSend_kept (s : State) (k entry : Nat) (owner : Owner) (write : Bool) (pa : W64) (mask : Nat) (bs : Bytes)
    (poison : Nat) : kept (fabSend s k entry owner write pa mask bs poison) = kept s := by simp [fabSend]

@[simp] theorem fabJoin_kept (s : State) (id mask : Nat) (bs : Bytes) : kept (fabJoin s id mask bs) = kept s := by
  simp only [fabJoin]; split <;> simp

@[simp] theorem hostRead_kept (s : State) (f tag : Nat) (addr : W64) (len : Nat) (o : Owner) :
    kept (hostRead s f tag addr len o) = kept s := by simp [hostRead]

@[simp] theorem post_kept (s : State) (o : HostOut) : kept (post s o) = kept s := by simp [post]

@[simp] theorem hostWrite_kept (s : State) (f : Nat) (addr : W64) (bs : List Byte) :
    kept (hostWrite s f addr bs) = kept s := by simp [hostWrite]

@[simp] theorem msix_kept (s : State) (f v : Nat) : kept (msix s f v) = kept s := by simp [msix]

@[simp] theorem msixPump_kept (s : State) (f : Nat) : kept (msixPump s f) = kept s := by simp [msixPump]

@[simp] theorem waitEntry_kept (s : State) (k : Nat) (w : EntryWho) : kept (waitEntry s k w) = kept s := by simp [waitEntry]

@[simp] theorem leaveEntry_kept (s : State) (k : Nat) (w : EntryWho) : kept (leaveEntry s k w) = kept s := by simp [leaveEntry]

@[simp] theorem sendWbFor_kept (s : State) (n k : Nat) (pa : W64) (mask : Nat) (bs : Bytes) (poison : Nat) :
    kept (sendWbFor s n k pa mask bs poison) = kept s := by simp [sendWbFor]

@[simp] theorem sendWb_kept (s : State) (k : Nat) (pa : W64) (mask : Nat) (bs : Bytes) (poison : Nat) :
    kept (sendWb s k pa mask bs poison) = kept s := by simp [sendWb]

@[simp] theorem retryWb_kept (s : State) (k : Nat) : kept (retryWb s k) = kept s := by simp [retryWb]

@[simp] theorem fenceFace_kept (s : State) (k face : Nat) : kept (fenceFace s k face) = kept s := by
  simp only [fenceFace]; repeat' split
  all_goals simp

@[simp] theorem retryFence_kept (s : State) (k : Nat) : kept (retryFence s k) = kept s := by simp [retryFence]

@[simp] theorem fenceBack_kept (s : State) (k face id : Nat) : kept (fenceBack s k face id) = kept s := by simp [fenceBack]

/-! What `Machine/Coherence.lean` defines. -/

@[simp] theorem State.updL1_kept (s : State) (k : Nat) (f : Cache → Cache) :
    kept (s.updL1 k f) = kept s := by simp [State.updL1]

@[simp] theorem State.updL2_kept (s : State) (c : Nat) (f : Cache → Cache) :
    kept (s.updL2 c f) = kept s := by simp [State.updL2]

@[simp] theorem updL1Line_kept (s : State) (k key : Nat) (f : CLine → CLine) :
    kept (updL1Line s k key f) = kept s := by simp [updL1Line]

@[simp] theorem updL2Line_kept (s : State) (c key : Nat) (f : CLine → CLine) :
    kept (updL2Line s c key f) = kept s := by simp [updL2Line]

@[simp] theorem usedL1_kept (s : State) (k key : Nat) : kept (usedL1 s k key) = kept s := by simp [usedL1]

@[simp] theorem usedL2_kept (s : State) (c key : Nat) : kept (usedL2 s c key) = kept s := by simp [usedL2]

@[simp] theorem setPoison_kept (s : State) (line q : Nat) (p : Bool) :
    kept (setPoison s line q p) = kept s := by simp [setPoison]

@[simp] theorem hbmWrite_rises {x₀ : Kept} (s : State) (off n v : Nat) (hx : Rises x₀ (kept s)) :
    Rises x₀ (kept (hbmWrite s off n v)) :=
  ⟨fun h => wf_mwrite (hx.1 h) off n v, hx.2⟩

@[simp] theorem hbmPutSector_rises {x₀ : Kept} (s : State) (line q : Nat) (x : Sector) (hx : Rises x₀ (kept s)) :
    Rises x₀ (kept (hbmPutSector s line q x)) := by
  simp [hbmPutSector, hx]

/-- The sectors of a message reach HBM one by one. -/
@[simp] theorem foldl_hbmPutSector_rises {x₀ : Kept} {s : State} (qs : List Nat) (line : Nat) (f : Nat → Sector)
    (hx : Rises x₀ (kept s)) :
    Rises x₀ (kept (qs.foldl (fun s q => hbmPutSector s line q (f q)) s)) :=
  rises_foldl (fun t q ht => hbmPutSector_rises t line q (f q) ht) hx

@[simp] theorem hbmBytes_rises {x₀ : Kept} (s : State) (line : Nat) (bs : Bytes) (hx : Rises x₀ (kept s)) :
    Rises x₀ (kept (hbmBytes s line bs)) :=
  rises_foldl (fun t _ ht => hbmWrite_rises t _ _ _ ht) hx

@[simp] theorem voidFill_kept (s : State) (c key : Nat) : kept (voidFill s c key) = kept s := by simp [voidFill]

@[simp] theorem flushSector_kept (s : State) (k key q : Nat) : kept (flushSector s k key q) = kept s := by
  simp only [flushSector]; repeat' split
  all_goals simp

@[simp] theorem flushLine_kept (s : State) (k key : Nat) : kept (flushLine s k key) = kept s := by simp [flushLine]

@[simp] theorem mergeUp_kept (s : State) (k key : Nat) : kept (mergeUp s k key) = kept s := by
  simp only [mergeUp]; split <;> simp

@[simp] theorem dropL1_kept (s : State) (k key : Nat) : kept (dropL1 s k key) = kept s := by
  simp only [dropL1]; repeat' split
  all_goals simp

@[simp] theorem downgradeL1_kept (s : State) (k key : Nat) : kept (downgradeL1 s k key) = kept s := by
  simp only [downgradeL1]; split <;> simp

@[simp] theorem dropOthers_kept (s : State) (c key keep : Nat) : kept (dropOthers s c key keep) = kept s := by simp [dropOthers]

@[simp] theorem dropAllL1_kept (s : State) (c key : Nat) : kept (dropAllL1 s c key) = kept s := by simp [dropAllL1]

@[simp] theorem sendMsg_kept (s : State) (m : Msg) : kept (sendMsg s m) = kept s := by simp [sendMsg]

@[simp] theorem releaseL2_kept (s : State) (c key : Nat) (discard : Bool) : kept (releaseL2 s c key discard) = kept s := by
  simp only [releaseL2]; repeat' split
  all_goals simp

@[simp] theorem placeL2_kept (s : State) (c key : Nat) (l : CLine) : kept (placeL2 s c key l) = kept s := by
  simp only [placeL2]; split <;> simp

@[simp] theorem fillL1_kept (s : State) (k key q : Nat) (st : LineState) (x : Sector) :
    kept (fillL1 s k key q st x) = kept s := by
  simp only [fillL1]; repeat' split
  all_goals simp

@[simp] theorem cohPut_rises {x₀ : Kept} (s : State) (off : Nat) (b : Byte) (hx : Rises x₀ (kept s)) :
    Rises x₀ (kept (cohPut s off b)) := by simp [cohPut, hx]

@[simp] theorem cohWrite_rises {x₀ : Kept} (s : State) (off : Nat) (x2 : List Byte) (hx : Rises x₀ (kept s)) :
    Rises x₀ (kept (cohWrite s off x2)) := by
  fun_induction cohWrite <;> simp_all

/-! What `Machine/Upstream.lean` defines. -/

@[simp] theorem follow_kept (s : State) (c : Cand) : kept (follow s c) = kept s := by simp [follow]

@[simp] theorem followKeeper_kept (s : State) (c : Cand) : kept (followKeeper s c) = kept s := by simp [followKeeper]

@[simp] theorem standKeeper_kept (s : State) : kept (standKeeper s) = kept s := by simp [standKeeper]

@[simp] theorem reRank_kept (s : State) : kept (reRank s) = kept s := by
  simp only [reRank]; repeat' split
  all_goals simp

@[simp] theorem changeKeeperNow_kept (s : State) : kept (changeKeeperNow s) = kept s := by
  simp only [changeKeeperNow]; repeat' split
  all_goals simp

@[simp] theorem holdOver_kept (s : State) : kept (holdOver s) = kept s := by simp [holdOver]

@[simp] theorem loseUpstream_kept (s : State) : kept (loseUpstream s) = kept s := by
  simp only [loseUpstream]; split <;> simp

@[simp] theorem upstreamLeft_kept (s : State) (p : Nat) : kept (upstreamLeft s p) = kept s := by simp [upstreamLeft]

@[simp] theorem moveUpstream_kept (s : State) : kept (moveUpstream s) = kept s := by
  simp only [moveUpstream]; repeat' split
  all_goals simp

@[simp] theorem reOffset_kept (s : State) : kept (reOffset s) = kept s := by
  simp only [reOffset]; repeat' split
  all_goals simp

/-! What `Machine/Ports.lean` defines. -/

@[simp] theorem State.updPort_kept (s : State) (p : Nat) (f : Port → Port) :
    kept (s.updPort p f) = kept s := by simp [State.updPort]

@[simp] theorem State.portErr_kept (s : State) (p i : Nat) : kept (s.portErr p i) = kept s := by simp [State.portErr]

@[simp] theorem keepEvent_kept (s : State) (e : EventRec) : kept (keepEvent s e) = kept s := by simp [keepEvent]

@[simp] theorem postRec_kept (s : State) (e : EventRec) : kept (postRec s e) = kept s := by simp [postRec]

@[simp] theorem postEvent_kept (s : State) (kind port state peer : Nat) (w2 w3 : W64) :
    kept (postEvent s kind port state peer w2 w3) = kept s := by simp [postEvent]

@[simp] theorem portEvent_kept (s : State) (kind p : Nat) (w2 : W64) :
    kept (portEvent s kind p w2) = kept s := by simp [portEvent]

@[simp] theorem flushEvents_kept (s : State) : kept (flushEvents s) = kept s := by simp [flushEvents]

@[simp] theorem execEventFlush_kept (s : State) : outKept (execEventFlush s) = some (kept s) := by simp [execEventFlush]

@[simp] theorem endCut_kept (s : State) (p : Nat) : kept (endCut s p) = kept s := by
  simp only [endCut]; split <;> simp

@[simp] theorem stopPort_kept (s : State) (p : Nat) (st : PortState) : kept (stopPort s p st) = kept s := by simp [stopPort]

@[simp] theorem portEnters_kept (s : State) (p : Nat) (st : PortState) : kept (portEnters s p st) = kept s := by
  simp only [portEnters]; split <;> simp

@[simp] theorem enterPort_kept (s : State) (p : Nat) (st : PortState) : kept (enterPort s p st) = kept s := by simp [enterPort]

@[simp] theorem toEndpoint_kept (s : State) (p : Packet) (input : Option Nat) :
    kept (toEndpoint s p input) = kept s := by simp [toEndpoint]

/-! What `Machine/Flags.lean` defines. -/

@[simp] theorem raiseVe_kept (s : State) (k : Nat) (fl : Flags) : kept (raiseVe s k fl) = kept s := by simp [raiseVe]

@[simp] theorem raiseMx_kept (s : State) (k : Nat) (fl : Flags) : kept (raiseMx s k fl) = kept s := by simp [raiseMx]

/-! What `Machine/Operands.lean` defines. -/

@[simp] theorem intRrr_kept (o : RrrOp) (len : Nat) (twoSrc : Bool) (f : (w : Nat) → BitVec w → BitVec w → BitVec w) (s : State)
    : outKept (intRrr o len twoSrc f s) = some (kept s) := by simp [intRrr]

@[simp] theorem intRri_kept (o : RriOp) (f : (w : Nat) → BitVec w → BitVec w → BitVec w) (s : State) :
    outKept (intRri o f s) = some (kept s) := by simp [intRri]

@[simp] theorem intShi_kept (o : ShiOp) (f : (w : Nat) → BitVec w → Nat → BitVec w) (s : State) :
    outKept (intShi o f s) = some (kept s) := by simp [intShi]

@[simp] theorem setPc_kept (s : State) (g : Grp) (lane : Nat) (pc : W64) : kept (setPc s g lane pc) = kept s := by
  simp only [setPc]; split <;> simp

@[simp] theorem branch_kept (o : BrOp) (cond : (w : Nat) → BitVec w → BitVec w → Bool) (s : State) :
    outKept (branch o cond s) = some (kept s) := by simp [branch]

@[simp] theorem fpRun_kept (o : FpOp) (sh : FpShape) (f : FFmt → Nat → Nat → Nat → Nat × Flags) (s : State) :
    outKept (fpRun o sh f s) = some (kept s) := by simp [fpRun]

@[simp] theorem loadInto_kept (s : State) (g : Grp) (lane r n : Nat) (sgn : Bool) (v : W128) :
    kept (loadInto s g lane r n sgn v) = kept s := by simp [loadInto]

/-! What `Machine/MemOps.lean` defines. -/

@[simp] theorem veFault_kept (s : State) (k cause window fn op elem code : Nat) (pc addr : W64) :
    kept (veFault s k cause window fn op elem code pc addr) = kept s := by simp [veFault]

@[simp] theorem dropAccess_kept (s : State) (k id : Nat) : kept (dropAccess s k id) = kept s := by simp [dropAccess]

@[simp] theorem standAt_kept (s : State) (k : Nat) (r : Req) (lanes : List Nat) (pc : W64) :
    kept (standAt s k r lanes pc) = kept s := by
  simp only [standAt]; split <;> simp

@[simp] theorem accessFault_kept (s : State) (k : Nat) (a : Access) (code : Nat) : kept (accessFault s k a code) = kept s := by
  simp only [accessFault]; repeat' split
  all_goals simp

@[simp] theorem deliver_kept (s : State) (k : Nat) (a : Access) (v : Nat) (poison : Bool) :
    kept (deliver s k a v poison) = kept s := by
  simp only [deliver]; repeat' split
  all_goals simp

@[simp] theorem pullL1_kept (s : State) (k key q : Nat) : kept (pullL1 s k key q) = kept s := by
  simp only [pullL1]; repeat' split
  all_goals simp

theorem tryCached_kept {s t : State} {k : Nat} {a : Access} (h : tryCached s k a = some t) : kept t = kept s := by
  simp only [tryCached] at h
  split at h
  · split at h
    · obtain ⟨x, -, rfl⟩ := Option.map_eq_some_iff.mp h
      simp
    · split at h
      · cases h
      · obtain ⟨x, -, rfl⟩ := Option.map_eq_some_iff.mp h
        simp
  · split at h
    · cases h
    · obtain ⟨x, -, rfl⟩ := Option.map_eq_some_iff.mp h
      simp
  · split at h
    · cases h
    · obtain ⟨x, -, rfl⟩ := Option.map_eq_some_iff.mp h
      simp

@[simp] theorem askFor_kept (s : State) (k : Nat) (a : Access) : kept (askFor s k a) = kept s := by simp [askFor]

@[simp] theorem askOne_kept (s : State) (k : Nat) (a : Access) : kept (askOne s k a) = kept s := by simp [askOne]

@[simp] theorem askWaiting_kept (s : State) (c : Nat) : kept (askWaiting s c) = kept s := by simp [askWaiting]

@[simp] theorem retryLine_kept (s : State) (c key : Nat) : kept (retryLine s c key) = kept s := by
  simp only [retryLine, askWaiting_kept]
  refine kept_foldl _ _ _ fun s a => ?_
  cases h : tryCached s a.1 a.2 with
  | none => rfl
  | some t => exact tryCached_kept h

@[simp] theorem homeRequest_kept (s : State) (k : Nat) (a : Access) (kind : ReqKind) :
    kept (homeRequest s k a kind) = kept s := by simp [homeRequest]

@[simp] theorem homeJoin_kept (s : State) (a : Access) (xs : List Access) :
    kept (homeJoin s a xs) = kept s := by simp [homeJoin]

@[simp] theorem closeOpen_kept (s : State) (c key : Nat) : kept (closeOpen s c key) = kept s := by simp [closeOpen]

@[simp] theorem installGrant_kept (s : State) (c key : Nat) (st : Option LineState) (mask : Nat) (bs : Bytes) (poison : Nat) :
    kept (installGrant s c key st mask bs poison) = kept s := by
  simp only [installGrant]; repeat' split
  all_goals simp

/-! What `Machine/Scratchpad.lean` defines. -/

@[simp] theorem State.updSp_kept (s : State) (k : Nat) (f : Scratch → Scratch) :
    kept (s.updSp k f) = kept s := by simp [State.updSp]

@[simp] theorem spFault_kept (s : State) (k cause cls group ring addr : Nat) :
    kept (spFault s k cause cls group ring addr) = kept s := by simp [spFault]

@[simp] theorem orderWaits_kept (s : State) (k : Nat) (old : List TagWait) :
    kept (orderWaits s k old) = kept s := by simp [orderWaits]

/-! What `Machine/Footprint.lean` defines. -/

@[simp] theorem holdFences_kept (s : State) (k ord lo n : Nat) : kept (holdFences s k ord lo n) = kept s := by simp [holdFences]

/-! What `Machine/Counters.lean` defines. -/

@[simp] theorem writeCtl_kept (s : State) (n : Nat) (w : W64) : kept (writeCtl s n w) = kept s := by simp [writeCtl]

/-! What `Machine/HostRing.lean` defines. -/

@[simp] theorem putEntry_kept (s : State) (f : Nat) (addr : W64) (x3 : List W64) : kept (putEntry s f addr x3) = kept s := by
  simp only [putEntry]; split <;> simp

@[simp] theorem drainRing_kept (f : Nat) (i : RingId) (n : Nat) (s : State) (w : Bool) :
    kept (drainRing f i n s w).1 = kept s := by
  induction n generalizing s w with
  | zero => rfl
  | succ n ih =>
    simp only [drainRing]
    split
    · rfl
    · split
      · rfl
      · simp [ih]

@[simp] theorem pumpRing_kept (s : State) (f : Nat) (i : RingId) : kept (pumpRing s f i) = kept s := by simp [pumpRing]

@[simp] theorem pushEntry_kept (s : State) (f : Nat) (i : RingId) (e : List W64) :
    kept (pushEntry s f i e) = kept s := by simp [pushEntry]

/-! What `Machine/KedalBase.lean` defines. -/

@[simp] theorem kdStat_kept (s : State) (p : KPath) (i : Nat) : kept (kdStat s p i) = kept s := by simp [kdStat]

@[simp] theorem sendResponse_kept (s : State) (p : KPath) (src : W64) (etype : Nat) (rsp : List Byte) :
    kept (sendResponse s p src etype rsp) = kept s := by
  simp only [sendResponse]; split <;> simp

@[simp] theorem keepResponse_kept (s : State) (q : KReq) (rsp : List Byte) : kept (keepResponse s q rsp) = kept s := by
  simp only [keepResponse]; split <;> simp

@[simp] theorem respondAs_kept (s : State) (q : KReq) (etype : Nat) (rsp : List Byte) :
    kept (respondAs s q etype rsp) = kept s := by simp [respondAs]

@[simp] theorem respond_kept (s : State) (q : KReq) (rsp : List Byte) : kept (respond s q rsp) = kept s := by simp [respond]

@[simp] theorem submit_kept (s : State) (q : KReq) : kept (submit s q) = kept s := by simp [submit]

@[simp] theorem kedalRequest_kept (s : State) (q : KReq) : kept (kedalRequest s q) = kept s := by
  simp only [kedalRequest]; split <;> simp

@[simp] theorem slotGo_kept (s : State) (k : Fin 16) : kept (slotGo s k) = kept s := by
  simp only [slotGo]
  split
  · rfl
  · rw [submit_kept, State.setKslot_kept]

/-! What `Machine/Mmio.lean` defines. -/

@[simp] theorem fnWrite_kept (s : State) (f off : Nat) (v : W64) : kept (fnWrite s f off v) = kept s := by
  simp only [fnWrite]; repeat' split
  all_goals simp

@[simp] theorem slotCtrlWrite_kept (s : State) (k : Fin 16) (v : W32) :
    kept (slotCtrlWrite s k v) = kept s := by simp [slotCtrlWrite]

@[simp] theorem windowWrite_kept (s : State) (off : Nat) (bs : List Byte) :
    kept (windowWrite s off bs) = kept s := by simp [windowWrite]

@[simp] theorem barPut_kept (s : State) (off : Nat) (v : W64) : kept (barPut s off v) = kept s := by
  unfold barPut; repeat' split
  all_goals simp

@[simp] theorem vecWrite_kept (s : State) (f off : Nat) (v : W64) : kept (vecWrite s f off v) = kept s := by simp [vecWrite]

@[simp] theorem mmioRead_kept (s : State) (off n : Nat) : kept (mmioRead s off n).2 = kept s := by simp [mmioRead]

@[simp] theorem mmioWrite_kept (s : State) (off n v : Nat) : kept (mmioWrite s off n v) = kept s := by simp [mmioWrite]

/-! What `Machine/Home.lean` defines. -/

@[simp] theorem countHops_kept (n : Nat) (path : List Nat) (a : Nat) (x3 : State) : kept (countHops n path a x3) = kept x3 := by
  fun_induction countHops <;> simp_all

@[simp] theorem countMsg_kept (s : State) (m : Msg) (toHome : Bool) : kept (countMsg s m toHome) = kept s := by
  simp only [countMsg]; split <;> simp

theorem arrive_kept {s t : State} {who : Agent} {line : Nat} {b : Bool} {p : MsgKind → Bool} {m : Msg}
    (h : arrive s who line b p = some (m, t)) : kept t = kept s := by
  unfold arrive at h
  split at h
  · split at h
    · cases h; simp
    · cases h
  · cases h

@[simp] theorem State.updHome_kept (s : State) (d : Nat) (f : Home → Home) :
    kept (s.updHome d f) = kept s := by simp [State.updHome]

@[simp] theorem dirUpd_kept (s : State) (line : Nat) (f : DirEnt → DirEnt) : kept (dirUpd s line f) = kept s := by simp [dirUpd]

@[simp] theorem dirDel_kept (s : State) (line : Nat) : kept (dirDel s line) = kept s := by simp [dirDel]

@[simp] theorem dirTidy_kept (s : State) (line : Nat) : kept (dirTidy s line) = kept s := by
  simp only [dirTidy]; split <;> simp

@[simp] theorem dmaStore_rises {x₀ : Kept} (s : State) (line : Nat) (bs : Bytes) (poison : Nat) (hx : Rises x₀ (kept s)) :
    Rises x₀ (kept (dmaStore s line bs poison)) := by simp [dmaStore, hx]

@[simp] theorem reply_kept (s : State) (m : Msg) (kind : MsgKind) (mask : Nat) (bs : Bytes) (poison : Nat) (val : W64) :
    kept (reply s m kind mask bs poison val) = kept s := by simp [reply]

@[simp] theorem grantX_kept (s : State) (m : Msg) (mask : Nat) : kept (grantX s m mask) = kept s := by simp [grantX]

@[simp] theorem evicted_kept (s : State) (line w : Nat) : kept (evicted s line w) = kept s := by simp [evicted]

@[simp] theorem finishTxn_rises {x₀ : Kept} (s : State) (t : HomeTxn) (hx : Rises x₀ (kept s)) :
    Rises x₀ (kept (finishTxn s t)) := by
  simp only [finishTxn]; repeat' split
  all_goals simp [hx]

@[simp] theorem beginTxn_rises {x₀ : Kept} (s : State) (t : HomeTxn) (ps : List (Nat × MsgKind)) (hx : Rises x₀ (kept s)) :
    Rises x₀ (kept (beginTxn s t ps)) := by simp [beginTxn, hx]

@[simp] theorem dirTouch_kept (s : State) (line : Nat) : kept (dirTouch s line) = kept s := by simp [dirTouch]

@[simp] theorem evictEntry_rises {x₀ : Kept} (s : State) (e : DirEnt) (w : Nat) (hx : Rises x₀ (kept s)) :
    Rises x₀ (kept (evictEntry s e w)) := by simp [evictEntry, hx]

@[simp] theorem startLine_rises {x₀ : Kept} (s : State) (line : Nat) (hx : Rises x₀ (kept s)) :
    Rises x₀ (kept (startLine s line)) := by
  simp only [startLine]; repeat' split
  all_goals simp [hx]

@[simp] theorem poisonReply_kept (s : State) (m : Msg) : kept (poisonReply s m) = kept s := by
  simp only [poisonReply]; split <;> simp

@[simp] theorem requestArrives_kept (s : State) (who : Agent) (line : Nat) (p : ReqKind → Bool) :
    outKept (requestArrives s who line p) = some (kept s) := by
  simp only [requestArrives]
  split
  · next h => simp [arrive_kept h]
  · simp

@[simp] theorem execRdS_kept (c : Fin 32) (line : BitVec 31) (s : State) :
    outKept (execRdS c line s) = some (kept s) := by simp [execRdS]

@[simp] theorem execRdX_kept (c : Fin 32) (line : BitVec 31) (s : State) :
    outKept (execRdX c line s) = some (kept s) := by simp [execRdX]

@[simp] theorem execUpg_kept (c : Fin 32) (line : BitVec 31) (s : State) :
    outKept (execUpg c line s) = some (kept s) := by simp [execUpg]

@[simp] theorem execSf_kept (c : Fin 32) (line : BitVec 31) (s : State) :
    outKept (execSf c line s) = some (kept s) := by simp [execSf]

@[simp] theorem execWt_kept (c : Fin 32) (line : BitVec 31) (s : State) :
    outKept (execWt c line s) = some (kept s) := by simp [execWt]

@[simp] theorem execUcRd_kept (c : Fin 32) (line : BitVec 31) (s : State) :
    outKept (execUcRd c line s) = some (kept s) := by simp [execUcRd]

@[simp] theorem execUcWr_kept (c : Fin 32) (line : BitVec 31) (s : State) :
    outKept (execUcWr c line s) = some (kept s) := by simp [execUcWr]

@[simp] theorem execAmoH_kept (c : Fin 32) (line : BitVec 31) (s : State) :
    outKept (execAmoH c line s) = some (kept s) := by simp [execAmoH]

@[simp] theorem execDmaRd_kept (a : Agent) (line : BitVec 31) (s : State) :
    outKept (execDmaRd a line s) = some (kept s) := by simp [execDmaRd]

@[simp] theorem execDmaWr_kept (a : Agent) (line : BitVec 31) (s : State) :
    outKept (execDmaWr a line s) = some (kept s) := by simp [execDmaWr]

@[simp] theorem leaveLine_kept (s : State) (line c : Nat) : kept (leaveLine s line c) = kept s := by simp [leaveLine]

@[simp] theorem execWb_rises {x₀ : Kept} (c : Fin 32) (line : BitVec 31) (s : State) (hx : Rises x₀ (kept s)) :
    Risen x₀ (outKept (execWb c line s)) := by
  simp only [execWb]
  split
  · next h => simp [arrive_kept h, hx]
  · simp [hx]

@[simp] theorem execEvc_kept (c : Fin 32) (line : BitVec 31) (s : State) : outKept (execEvc c line s) = some (kept s) := by
  simp only [execEvc]
  split
  · next h => simp [arrive_kept h]
  · simp

@[simp] theorem execHomeTransactionStart_rises {x₀ : Kept} (line : BitVec 31) (s : State) (hx : Rises x₀ (kept s)) :
    Risen x₀ (outKept (execHomeTransactionStart line s)) := by simp [execHomeTransactionStart, hx]

@[simp] theorem answered_rises {x₀ : Kept} (s : State) (line c : Nat) (hx : Rises x₀ (kept s)) :
    Rises x₀ (kept (answered s line c)) := by
  simp only [answered]; split <;> simp [hx]

theorem lateAnswer_kept {s t : State} {l c : Nat} (h : lateAnswer s l c = some t) : kept t = kept s := by
  simp only [lateAnswer] at h
  split at h
  · cases h; simp
  · cases h

@[simp] theorem execInvAck_rises {x₀ : Kept} (c : Fin 32) (line : BitVec 31) (s : State) (hx : Rises x₀ (kept s)) :
    Risen x₀ (outKept (execInvAck c line s)) := by
  simp only [execInvAck]
  split
  · simp [hx]
  · next h =>
    split
    · next h' => simp [lateAnswer_kept h', arrive_kept h, hx]
    · simp [arrive_kept h, hx]

@[simp] theorem execFwdData_rises {x₀ : Kept} (c : Fin 32) (line : BitVec 31) (s : State) (hx : Rises x₀ (kept s)) :
    Risen x₀ (outKept (execFwdData c line s)) := by
  simp only [execFwdData]
  split
  · simp [hx]
  · next h =>
    split
    · next h' => simp [lateAnswer_kept h', arrive_kept h, hx]
    · simp [arrive_kept h, hx]

@[simp] theorem execNohold_rises {x₀ : Kept} (c : Fin 32) (line : BitVec 31) (s : State) (hx : Rises x₀ (kept s)) :
    Risen x₀ (outKept (execNohold c line s)) := by
  simp only [execNohold]
  split
  · simp [hx]
  · next h =>
    split
    · next h' => simp [lateAnswer_kept h', arrive_kept h, hx]
    · simp [arrive_kept h, hx]

theorem homeTimeout_rises {x₀ : Kept} {s t : State} {line : BitVec 31} {c : Fin 32} (hx : Rises x₀ (kept s))
    (h : homeTimeout s line c = some t) :
    Rises x₀ (kept t) := by
  simp only [homeTimeout] at h
  split at h
  · cases h
    simp [hx]
  · cases h

@[simp] theorem grantArrives_kept (s : State) (c : Fin 32) (line : BitVec 31) (kind : MsgKind) (st : Option LineState) :
    outKept (grantArrives s c line kind st) = some (kept s) := by
  simp only [grantArrives]
  split
  · next h => simp [arrive_kept h]
  · simp

@[simp] theorem execDataS_kept (c : Fin 32) (line : BitVec 31) (s : State) :
    outKept (execDataS c line s) = some (kept s) := by simp [execDataS]

@[simp] theorem execDataE_kept (c : Fin 32) (line : BitVec 31) (s : State) :
    outKept (execDataE c line s) = some (kept s) := by simp [execDataE]

@[simp] theorem execDataX_kept (c : Fin 32) (line : BitVec 31) (s : State) :
    outKept (execDataX c line s) = some (kept s) := by simp [execDataX]

@[simp] theorem execGnt_kept (c : Fin 32) (line : BitVec 31) (s : State) : outKept (execGnt c line s) = some (kept s) := by
  simp only [execGnt]
  split
  · next h => simp [arrive_kept h]
  · simp

@[simp] theorem answer_kept (s : State) (c line : Nat) (kind : MsgKind) (mask : Nat) (bs : Bytes) (poison : Nat) :
    kept (answer s c line kind mask bs poison) = kept s := by simp [answer]

@[simp] theorem execInvMsg_kept (c : Fin 32) (line : BitVec 31) (s : State) :
    outKept (execInvMsg c line s) = some (kept s) := by
  simp only [execInvMsg]
  split
  · simp
  · next h =>
    split <;> simp [arrive_kept h]

@[simp] theorem forward_kept (s : State) (c : Fin 32) (line : BitVec 31) (kind : MsgKind) {first : State → Nat → State}
    (named : Nat → Nat) (after : CLine → CLine)
   (hf : ∀ t n, kept (first t n) = kept t) : outKept (forward s c line kind first named after) = some (kept s) := by
  simp only [forward]
  split
  · simp
  · next h =>
    split
    · simp [arrive_kept h]
    · split <;> simp [arrive_kept h, hf]

@[simp] theorem execFwdS_kept (c : Fin 32) (line : BitVec 31) (s : State) :
    outKept (execFwdS c line s) = some (kept s) := by simp [execFwdS]

@[simp] theorem execFwdX_kept (c : Fin 32) (line : BitVec 31) (s : State) :
    outKept (execFwdX c line s) = some (kept s) := by simp [execFwdX]

@[simp] theorem execFwdR_kept (c : Fin 32) (line : BitVec 31) (s : State) :
    outKept (execFwdR c line s) = some (kept s) := by simp [execFwdR]

/-! What `Machine/Translate.lean` defines. -/

@[simp] theorem walkAsk_kept (s : State) (c line mask : Nat) : kept (walkAsk s c line mask) = kept s := by simp [walkAsk]

@[simp] theorem walkRead_kept (s : State) (c n vpn : Nat) : kept (walkRead s c n vpn) = kept s := by simp [walkRead]

@[simp] theorem fillL1Tlb_kept (s : State) (k : Nat) (e : TlbEnt) : kept (fillL1Tlb s k e) = kept s := by simp [fillL1Tlb]

@[simp] theorem fillL2Tlb_kept (s : State) (c : Nat) (e : TlbEnt) : kept (fillL2Tlb s c e) = kept s := by simp [fillL2Tlb]

@[simp] theorem fillDmaTlb_kept (s : State) (eng : Nat) (e : TlbEnt) :
    kept (fillDmaTlb s eng e) = kept s := by simp [fillDmaTlb]

@[simp] theorem lookup_kept (s : State) (k n vpn : Nat) : kept (lookup s k n vpn).2 = kept s := by
  simp only [lookup]; repeat' split
  all_goals simp

@[simp] theorem setPcause_kept (s : State) (k cause : Nat) : kept (setPcause s k cause) = kept s := by simp [setPcause]

@[simp] theorem openFault_kept (s : State) (n vpn level : Nat) (w : Walker) (eng need : Nat) (va : W64) :
    kept (openFault s n vpn level w eng need va) = kept s := by
  simp only [openFault]; repeat' split
  all_goals simp

@[simp] theorem parkWalker_kept (s : State) (vpn : Nat) (x2 : Walker) : kept (parkWalker s vpn x2) = kept s := by
  simp only [parkWalker]; split <;> simp

@[simp] theorem wakeWalker_kept (s : State) (vpn : Nat) (x2 : Walker) : kept (wakeWalker s vpn x2) = kept s := by
  simp only [wakeWalker]; repeat' split
  all_goals simp

@[simp] theorem walkFault_kept (s : State) (code cause : Nat) (va : W64) (w : Walker) (all : List Walker) :
    kept (walkFault s code cause va w all) = kept s := by
  simp only [walkFault]; repeat' split
  all_goals simp

@[simp] theorem startWalk_kept (s : State) (c n vpn : Nat) (w : Walker) (need : Nat) (va : W64) :
    kept (startWalk s c n vpn w need va) = kept s := by simp [startWalk]

@[simp] theorem cacheLevels_kept (s : State) (c n vpn fuel level table : Nat) :
    kept (cacheLevels s c n vpn fuel level table) = kept s := by
  induction fuel generalizing s level table with
  | zero => rfl
  | succ f ih =>
    simp only [cacheLevels]
    split
    · rfl
    · simp [ih]

@[simp] theorem tellDma_kept (s : State) (vpn : Nat) (f : Held ⊕ PageFail) (x3 : Walker) :
    kept (tellDma s vpn f x3) = kept s := by
  simp only [tellDma]; split <;> simp

@[simp] theorem walkFound_kept (s : State) (c v : Nat) (t : TlbEnt) (w : Walker) : kept (walkFound s c v t w) = kept s := by
  simp only [walkFound]; split <;> simp

@[simp] theorem execPageWalk_kept (c : Fin 32) (ctx : BitVec 12) (vpn : BitVec 52) (s : State) :
    outKept (execPageWalk c ctx vpn s) = some (kept s) := by
  simp only [execPageWalk]; repeat' split
  all_goals simp

/-! What `Machine/MemInstr.lean` defines. -/

@[simp] theorem pushAcc_kept (s : State) (k : Nat) (a : Access) : kept (pushAcc s k a) = kept s := by simp [pushAcc]

@[simp] theorem issueCached_kept (s : State) (k : Nat) (a : Access) : Stays (kept s) (leftKept (issueCached s k a)) := by
  simp only [issueCached]
  repeat' split
  all_goals simp

@[simp] theorem issueFabric_kept (s : State) (k : Nat) (a : Access) : Stays (kept s) (leftKept (issueFabric s k a)) := by
  simp only [issueFabric]
  repeat' split
  all_goals simp

@[simp] theorem issueHome_kept (s : State) (k : Nat) (a : Access) (kind : ReqKind) :
    Stays (kept s) (leftKept (issueHome s k a kind)) := by
  simp only [issueHome]
  repeat' split
  all_goals simp

@[simp] theorem countLookup_kept (s : State) (k : Nat) (a : Access) (via : Via) (t : State) :
    kept (countLookup s k a via t) = kept t := by
  simp [countLookup]

@[simp] theorem counted_kept (s : State) (k : Nat) (a : Access) (via : Via) (x : State ⊕ Wait) :
    leftKept (counted s k a via x) = leftKept x := by
  cases x <;> simp [counted, countLookup_kept]

@[simp] theorem issueHbm_kept (s : State) (k : Nat) (a : Access) : Stays (kept s) (leftKept (issueHbm s k a)) := by
  simp only [issueHbm]
  repeat' split
  · next h => simp [tryCached_kept h]
  all_goals simp

@[simp] theorem issueAccess_kept (s : State) (k n : Nat) (a : Access) : Stays (kept s) (leftKept (issueAccess s k n a)) := by
  simp only [issueAccess]
  repeat' split
  all_goals simp

/-- An access that goes its way keeps the two. -/
theorem kept_of_issueAccess {s t : State} {k n : Nat} {a : Access} (h : issueAccess s k n a = .inl t) : kept t = kept s := by
  simpa [h] using issueAccess_kept s k n a

@[simp] theorem placed_kept (k : Nat) (r : Req) (l : Lane) : (l.placed k r).kept = l.kept := by
  cases l with
  | done t => simp [Lane.placed]
  | wait t st w => cases w <;> simp [Lane.placed]
  | fault c p => rfl

@[simp] theorem laneAccess_kept {x : Kept} {s : State} (g : Grp) (iss lane : Nat) (w : Want) (h : kept s = x) :
    Stays x (laneAccess s g iss lane w).kept := by
  subst h
  rw [laneAccess, placed_kept]
  split
  · simp
  extract_lets writes n
  split
  · simp
  have looked := lookup_kept s g.k n (vpnOf w.va)
  split <;> rename_i found <;> rw [found] at looked
  · simp [looked]
  · extract_lets pa
    split
    · simp
    · split
      next fresh =>
      have hu := (congrArg (fun p => kept p.2) fresh).symm
      rw [State.newId_kept, looked] at hu
      extract_lets a key
      rw [Lane.kept_ite]
      split
      · simp [hu]
      · split
        · next r hr => simp [kept_of_issueAccess hr, hu]
        · simp [hu]

theorem runLanes_kept {x : Kept} {s : State} {g : Grp} {clash : State → Nat → Nat → Bool} {f : Nat → State → Lane}
    (h : kept s = x)
    (hf : ∀ l s, kept s = x → Stays x (f l s).kept) : Stays x (runLanes g clash f s).kept := by
  simp only [runLanes]
  split
  · simp
  · simp only [Did.kept_part, stays_some]
    apply List.foldlRecOn (motive := fun y : State × List Nat × Option (Nat × Nat) => kept y.1 = x)
    · exact h
    · intro y hy l _
      have hlane := hf l y.1 hy
      split
      · simpa using hy
      · split <;> rename_i hl <;> rw [hl] at hlane
        · simpa using hlane
        · simpa using hlane
        · exact hy

@[simp] theorem memRunWith_kept {x : Kept} {s : State} (first : Grp → Nat → Nat → (State → Lane) → State → Lane) (g : Grp)
    (want : State → Nat → Want)
    (h : kept s = x)
    (hf : ∀ iss l (f : State → Lane) s, kept s = x → (∀ s, kept s = x → Stays x (f s).kept) → Stays x (first g iss l f s).kept)
    :
    Stays x (memRunWith first g want s).kept := by
  rw [memRunWith]
  split
  · simp
  · exact runLanes_kept h fun l t ht => hf _ l _ t ht fun u hu => laneAccess_kept g _ l _ hu

@[simp] theorem memRun_kept {x : Kept} {s : State} (g : Grp) (want : State → Nat → Want)
    (h : kept s = x) : Stays x (memRun g want s).kept :=
  memRunWith_kept _ g want h fun _ _ _ s hs hf => hf s hs

@[simp] theorem touchLanes_kept (s : State) (g : Grp) (want : Nat → Want) : kept (touchLanes s g want) = kept s :=
  kept_foldl _ _ _ fun s l => by
    split
    · next h => simpa using (congrArg (fun p => kept p.2) h).symm
    · rfl

@[simp] theorem noteCause_kept (s : State) (k : Nat) (f : Face) (legal : Bool) (us : List RegUse)
    (want : Grp → State → Nat → Want) : kept (noteCause s k f legal us want) = kept s := by
  simp only [noteCause]; repeat' split
  all_goals simp

@[simp] theorem issueMem_kept (s : State) (k : Nat) (f : Face) (legal : Bool) (us : List RegUse)
    (want : Grp → State → Nat → Want) : outKept (issueMem s k f legal us want) = some (kept s) := by
  rw [issueMem, issue_kept fun g t ht => memRun_kept g (want g) ht, noteCause_kept]

@[simp] theorem loadInstr_kept (o : RriOp) (n : Nat) (sgn : Bool) (s : State) :
    outKept (loadInstr o n sgn s) = some (kept s) := by simp [loadInstr]

@[simp] theorem storeInstr_kept (o : RriOp) (n : Nat) (s : State) :
    outKept (storeInstr o n s) = some (kept s) := by simp [storeInstr]

@[simp] theorem execLb_kept (o : RriOp) (s : State) : outKept (execLb o s) = some (kept s) := by simp [execLb]

@[simp] theorem execLbu_kept (o : RriOp) (s : State) : outKept (execLbu o s) = some (kept s) := by simp [execLbu]

@[simp] theorem execLh_kept (o : RriOp) (s : State) : outKept (execLh o s) = some (kept s) := by simp [execLh]

@[simp] theorem execLhu_kept (o : RriOp) (s : State) : outKept (execLhu o s) = some (kept s) := by simp [execLhu]

@[simp] theorem execLw_kept (o : RriOp) (s : State) : outKept (execLw o s) = some (kept s) := by simp [execLw]

@[simp] theorem execLwu_kept (o : RriOp) (s : State) : outKept (execLwu o s) = some (kept s) := by simp [execLwu]

@[simp] theorem execLd_kept (o : RriOp) (s : State) : outKept (execLd o s) = some (kept s) := by simp [execLd]

@[simp] theorem execLq_kept (o : RriOp) (s : State) : outKept (execLq o s) = some (kept s) := by simp [execLq]

@[simp] theorem execSb_kept (o : RriOp) (s : State) : outKept (execSb o s) = some (kept s) := by simp [execSb]

@[simp] theorem execSh_kept (o : RriOp) (s : State) : outKept (execSh o s) = some (kept s) := by simp [execSh]

@[simp] theorem execSw_kept (o : RriOp) (s : State) : outKept (execSw o s) = some (kept s) := by simp [execSw]

@[simp] theorem execSd_kept (o : RriOp) (s : State) : outKept (execSd o s) = some (kept s) := by simp [execSd]

@[simp] theorem execSq_kept (o : RriOp) (s : State) : outKept (execSq o s) = some (kept s) := by simp [execSq]

@[simp] theorem relThread_kept (s : State) (k : Nat) (r : Req) : kept (relThread s k r).2 = kept s := by
  simp only [relThread]; split <;> simp

@[simp] theorem relCore_kept (s : State) (k iss : Nat) (r : Req) : kept (relCore s k iss r).2 = kept s := by simp [relCore]

@[simp] theorem relScope_kept (s : State) (k iss : Nat) (core : Bool) (r : Req) :
    kept (relScope s k iss core r).2 = kept s := by
  simp only [relScope]; split <;> simp

@[simp] theorem relDone_kept (s : State) (k : Nat) (r : Req) : kept (relDone s k r) = kept s := by simp [relDone]

@[simp] theorem afterRel_kept {x : Kept} {s : State} (rel core : Bool) (g : Grp) (iss l : Nat) (f : State → Lane)
    (h : kept s = x)
    (hf : ∀ s, kept s = x → Stays x (f s).kept) : Stays x (afterRel rel core g iss l f s).kept := by
  subst h
  have released := relScope_kept s g.k iss core (g.req l)
  rw [afterRel, Lane.kept_ite]
  split
  · exact hf s rfl
  · split <;> rename_i t hrel <;> rw [hrel] at released
    · have hlane := hf t released
      split
      · next r hr => simpa [hr] using hlane
      · exact hlane
    · simp [released]

@[simp] theorem execLdAcq_kept (o : AcqOp) (s : State) : outKept (execLdAcq o s) = some (kept s) := by simp [execLdAcq]

@[simp] theorem execStRel_kept (o : AcqOp) (s : State) : outKept (execStRel o s) = some (kept s) := by
  unfold execStRel
  extract_lets legal us want
  rw [issue_kept fun g t ht => ?_, noteCause_kept]
  exact memRunWith_kept _ g _ ht fun iss l f u hu hf => afterRel_kept _ _ g iss l f hu hf

@[simp] theorem spPerform_kept (s : State) (g : Grp) (lane : Nat) (x : SpAccess) : kept (spPerform s g lane x) = kept s := by
  simp only [spPerform]; split <;> simp

@[simp] theorem spLane_kept {x : Kept} {s : State} (g : Grp) (l : Nat) (a : SpAccess) (h : kept s = x) :
    Stays x (spLane s g l a).kept := by
  unfold spLane
  repeat' split
  all_goals simp [h]

@[simp] theorem noteSp_kept (s : State) (k : Nat) (f : Face) (legal : Bool) (us : List RegUse) (addr : Grp → State → Nat → Nat)
    (n : Nat) : kept (noteSp s k f legal us addr n) = kept s := by
  simp only [noteSp]; repeat' split
  all_goals simp

@[simp] theorem spInstr_kept (o : SpaOp) (store : Bool) (s : State) : outKept (spInstr o store s) = some (kept s) := by
  unfold spInstr
  extract_lets n addr us legal
  rw [issue_kept fun g t ht => ?_, noteSp_kept]
  split
  · simp
  · exact runLanes_kept ht fun l t ht => spLane_kept g l _ (by simp [ht])

@[simp] theorem execLds_kept (o : SpaOp) (s : State) : outKept (execLds o s) = some (kept s) := by simp [execLds]

@[simp] theorem execSts_kept (o : SpaOp) (s : State) : outKept (execSts o s) = some (kept s) := by simp [execSts]

@[simp] theorem amoInstr_kept (o : AmoOp) (op : AmoKind) (s : State) : outKept (amoInstr o op s) = some (kept s) := by
  unfold amoInstr
  extract_lets n us
  split
  · rw [issue_kept fun g t ht => ?_, noteSp_kept]
    split
    · simp
    · exact runLanes_kept ht fun l t ht => afterRel_kept _ _ g _ l _ ht fun u hu => spLane_kept g l _ (by simp [hu])
  · rw [issue_kept fun g t ht => ?_, noteCause_kept]
    exact memRunWith_kept _ g _ ht fun iss l f u hu hf => afterRel_kept _ _ g iss l f hu hf

@[simp] theorem execSwap_kept (o : AmoOp) (s : State) : outKept (execSwap o s) = some (kept s) := by simp [execSwap]

@[simp] theorem execCas_kept (o : AmoOp) (s : State) : outKept (execCas o s) = some (kept s) := by simp [execCas]

@[simp] theorem execAmoAdd_kept (o : AmoOp) (s : State) : outKept (execAmoAdd o s) = some (kept s) := by simp [execAmoAdd]

@[simp] theorem execAmoAnd_kept (o : AmoOp) (s : State) : outKept (execAmoAnd o s) = some (kept s) := by simp [execAmoAnd]

@[simp] theorem execAmoOr_kept (o : AmoOp) (s : State) : outKept (execAmoOr o s) = some (kept s) := by simp [execAmoOr]

@[simp] theorem execAmoXor_kept (o : AmoOp) (s : State) : outKept (execAmoXor o s) = some (kept s) := by simp [execAmoXor]

@[simp] theorem execAmoMin_kept (o : AmoOp) (s : State) : outKept (execAmoMin o s) = some (kept s) := by simp [execAmoMin]

@[simp] theorem execAmoMax_kept (o : AmoOp) (s : State) : outKept (execAmoMax o s) = some (kept s) := by simp [execAmoMax]

@[simp] theorem execAmoMinu_kept (o : AmoOp) (s : State) : outKept (execAmoMinu o s) = some (kept s) := by simp [execAmoMinu]

@[simp] theorem execAmoMaxu_kept (o : AmoOp) (s : State) : outKept (execAmoMaxu o s) = some (kept s) := by simp [execAmoMaxu]

@[simp] theorem execRel_kept (o : OrdOp) (s : State) : outKept (execRel o s) = some (kept s) := by
  unfold execRel
  rw [issue_kept fun g t ht => ?_]
  split
  · simp
  · exact runLanes_kept ht fun l u hu => afterRel_kept _ _ g _ l _ hu fun v hv => by simp [hv]

@[simp] theorem discardRem_kept (s : State) (k key : Nat) : kept (discardRem s k key) = kept s := by
  simp only [discardRem]; repeat' split
  all_goals simp

@[simp] theorem acquire_kept {x : Kept} {s : State} (g : Grp) (keys : State → Nat → List Nat) (h : kept s = x) :
    Stays x (acquire g keys s).kept := by
  refine runLanes_kept h fun l t ht => ?_
  repeat' split
  all_goals simp [ht]

@[simp] theorem execAcqA_kept (o : OrdOp) (s : State) : outKept (execAcqA o s) = some (kept s) :=
  issue_kept fun g _ ht => acquire_kept g _ ht

@[simp] theorem execAcqR_kept (o : OrdOp) (s : State) : outKept (execAcqR o s) = some (kept s) := by
  unfold execAcqR
  extract_lets legal us t
  have ht : kept t = kept s := by
    simp only [t]
    split <;> simp
  rw [issue_kept fun g u hu => ?_, ht]
  split
  · simp
  · exact acquire_kept g _ hu

@[simp] theorem freeWaiters_kept (s : State) (k : Nat) (ws : List Req) : kept (freeWaiters s k ws) = kept s :=
  kept_foldl _ _ _ fun s r => by split <;> simp

@[simp] theorem barArrive_kept (s : State) (g : Grp) (b count : Nat) (wait : Bool) :
    kept (barArrive s g b count wait) = kept s := by simp [barArrive]

/-- The threads that arrive release one after the other. -/
theorem foldl_relThread_kept (g : Grp) (ls : List Nat) (b : Bool) (s : State) :
    kept
    (ls.foldl (fun (x : Bool × State) l => ((x.1 && (relThread x.2 g.k (g.req l)).1), (relThread x.2 g.k (g.req l)).2)) (b,
    s)).2 = kept s :=
  List.foldlRecOn (motive := fun y : Bool × State => kept y.2 = kept s) _ _ rfl fun y hy l _ => by simp [hy]

@[simp] theorem barInstr_kept (o : BarOp) (wait : Bool) (s : State) : outKept (barInstr o wait s) = some (kept s) := by
  simp only [barInstr]
  rw [issue_kept fun g t ht => ?_]
  split
  · simp
  · split <;> simp [foldl_relThread_kept, ht]

@[simp] theorem execBarSync_kept (o : BarOp) (s : State) : outKept (execBarSync o s) = some (kept s) := by simp [execBarSync]

@[simp] theorem execBarArrive_kept (o : BarOp) (s : State) :
    outKept (execBarArrive o s) = some (kept s) := by simp [execBarArrive]

@[simp] theorem execCacheInvp_kept (o : RrrOp) (s : State) :
    outKept (execCacheInvp o s) = some (kept s) := by simp [execCacheInvp]

/-! What `Machine/Vector.lean` defines. -/

@[simp] theorem vecIssue_kept (o : VecOp) (sh : VecShape) (s : State) : outKept (vecIssue o sh s) = some (kept s) :=
  issue_kept fun g t ht => by
    dsimp only
    split
    · simp
    · split <;> simp [ht]

@[simp] theorem execVadd_kept (o : VecOp) (s : State) : outKept (execVadd o s) = some (kept s) := by simp [execVadd]

@[simp] theorem execVsub_kept (o : VecOp) (s : State) : outKept (execVsub o s) = some (kept s) := by simp [execVsub]

@[simp] theorem execVmul_kept (o : VecOp) (s : State) : outKept (execVmul o s) = some (kept s) := by simp [execVmul]

@[simp] theorem execVfma_kept (o : VecOp) (s : State) : outKept (execVfma o s) = some (kept s) := by simp [execVfma]

@[simp] theorem execVfnma_kept (o : VecOp) (s : State) : outKept (execVfnma o s) = some (kept s) := by simp [execVfnma]

@[simp] theorem execVdiv_kept (o : VecOp) (s : State) : outKept (execVdiv o s) = some (kept s) := by simp [execVdiv]

@[simp] theorem execVsqrt_kept (o : VecOp) (s : State) : outKept (execVsqrt o s) = some (kept s) := by simp [execVsqrt]

@[simp] theorem execVmin_kept (o : VecOp) (s : State) : outKept (execVmin o s) = some (kept s) := by simp [execVmin]

@[simp] theorem execVmax_kept (o : VecOp) (s : State) : outKept (execVmax o s) = some (kept s) := by simp [execVmax]

@[simp] theorem execVabs_kept (o : VecOp) (s : State) : outKept (execVabs o s) = some (kept s) := by simp [execVabs]

@[simp] theorem execVneg_kept (o : VecOp) (s : State) : outKept (execVneg o s) = some (kept s) := by simp [execVneg]

@[simp] theorem execVrcp_kept (o : VecOp) (s : State) : outKept (execVrcp o s) = some (kept s) := by simp [execVrcp]

@[simp] theorem execVadds_kept (o : VecOp) (s : State) : outKept (execVadds o s) = some (kept s) := by simp [execVadds]

@[simp] theorem execVmuls_kept (o : VecOp) (s : State) : outKept (execVmuls o s) = some (kept s) := by simp [execVmuls]

@[simp] theorem execVfmas_kept (o : VecOp) (s : State) : outKept (execVfmas o s) = some (kept s) := by simp [execVfmas]

@[simp] theorem execVmov_kept (o : VecOp) (s : State) : outKept (execVmov o s) = some (kept s) := by simp [execVmov]

@[simp] theorem execVbcast_kept (o : VecOp) (s : State) : outKept (execVbcast o s) = some (kept s) := by simp [execVbcast]

@[simp] theorem execVand_kept (o : VecOp) (s : State) : outKept (execVand o s) = some (kept s) := by simp [execVand]

@[simp] theorem execVor_kept (o : VecOp) (s : State) : outKept (execVor o s) = some (kept s) := by simp [execVor]

@[simp] theorem execVxor_kept (o : VecOp) (s : State) : outKept (execVxor o s) = some (kept s) := by simp [execVxor]

@[simp] theorem execVsll_kept (o : VecOp) (s : State) : outKept (execVsll o s) = some (kept s) := by simp [execVsll]

@[simp] theorem execVsrl_kept (o : VecOp) (s : State) : outKept (execVsrl o s) = some (kept s) := by simp [execVsrl]

@[simp] theorem execVsra_kept (o : VecOp) (s : State) : outKept (execVsra o s) = some (kept s) := by simp [execVsra]

@[simp] theorem execVsel_kept (o : VecOp) (s : State) : outKept (execVsel o s) = some (kept s) := by simp [execVsel]

@[simp] theorem execViota_kept (o : VecOp) (s : State) : outKept (execViota o s) = some (kept s) := by simp [execViota]

@[simp] theorem execVceq_kept (o : VecOp) (s : State) : outKept (execVceq o s) = some (kept s) := by simp [execVceq]

@[simp] theorem execVcne_kept (o : VecOp) (s : State) : outKept (execVcne o s) = some (kept s) := by simp [execVcne]

@[simp] theorem execVclt_kept (o : VecOp) (s : State) : outKept (execVclt o s) = some (kept s) := by simp [execVclt]

@[simp] theorem execVcle_kept (o : VecOp) (s : State) : outKept (execVcle o s) = some (kept s) := by simp [execVcle]

@[simp] theorem execVcltu_kept (o : VecOp) (s : State) : outKept (execVcltu o s) = some (kept s) := by simp [execVcltu]

@[simp] theorem execVcleu_kept (o : VecOp) (s : State) : outKept (execVcleu o s) = some (kept s) := by simp [execVcleu]

@[simp] theorem execVcnan_kept (o : VecOp) (s : State) : outKept (execVcnan o s) = some (kept s) := by simp [execVcnan]

@[simp] theorem execVmand_kept (o : VecOp) (s : State) : outKept (execVmand o s) = some (kept s) := by simp [execVmand]

@[simp] theorem execVmor_kept (o : VecOp) (s : State) : outKept (execVmor o s) = some (kept s) := by simp [execVmor]

@[simp] theorem execVmxor_kept (o : VecOp) (s : State) : outKept (execVmxor o s) = some (kept s) := by simp [execVmxor]

@[simp] theorem execVmnot_kept (o : VecOp) (s : State) : outKept (execVmnot o s) = some (kept s) := by simp [execVmnot]

@[simp] theorem execVcvt_kept (o : VecOp) (s : State) : outKept (execVcvt o s) = some (kept s) := by simp [execVcvt]

@[simp] theorem execVcvtBexp_kept (o : VecOp) (s : State) : outKept (execVcvtBexp o s) = some (kept s) := by simp [execVcvtBexp]

@[simp] theorem execVpmerge_kept (o : VecOp) (s : State) : outKept (execVpmerge o s) = some (kept s) := by simp [execVpmerge]

@[simp] theorem execVAny_kept (o : VecOp) (s : State) : outKept (execVAny o s) = some (kept s) := by simp [execVAny]

@[simp] theorem execVAll_kept (o : VecOp) (s : State) : outKept (execVAll o s) = some (kept s) := by simp [execVAll]

@[simp] theorem execVCount_kept (o : VecOp) (s : State) : outKept (execVCount o s) = some (kept s) := by simp [execVCount]

@[simp] theorem execVFirst_kept (o : VecOp) (s : State) : outKept (execVFirst o s) = some (kept s) := by simp [execVFirst]

@[simp] theorem execVsumMin_kept (o : VecOp) (s : State) : outKept (execVsumMin o s) = some (kept s) := by simp [execVsumMin]

@[simp] theorem execVsumMax_kept (o : VecOp) (s : State) : outKept (execVsumMax o s) = some (kept s) := by simp [execVsumMax]

@[simp] theorem execVSum_kept (o : VecOp) (s : State) : outKept (execVSum o s) = some (kept s) := by simp [execVSum]

@[simp] theorem execVNorm_kept (o : VecOp) (s : State) : outKept (execVNorm o s) = some (kept s) := by simp [execVNorm]

@[simp] theorem execVgather_kept (o : VecOp) (ch : Fin 2) (s : State) :
    outKept (execVgather o ch s) = some (kept s) := by simp [execVgather]

@[simp] theorem execVscatter_kept (o : VecOp) (ch : Fin 2) (s : State) :
    outKept (execVscatter o ch s) = some (kept s) := by simp [execVscatter]

@[simp] theorem execVwWr0_kept (o : VecOp) (s : State) : outKept (execVwWr0 o s) = some (kept s) := by simp [execVwWr0]

@[simp] theorem execVwWr1_kept (o : VecOp) (s : State) : outKept (execVwWr1 o s) = some (kept s) := by simp [execVwWr1]

@[simp] theorem execVwRd0_kept (o : VecOp) (s : State) : outKept (execVwRd0 o s) = some (kept s) := by simp [execVwRd0]

@[simp] theorem execVwRd1_kept (o : VecOp) (s : State) : outKept (execVwRd1 o s) = some (kept s) := by simp [execVwRd1]

@[simp] theorem execVlSet_kept (o : VecOp) (s : State) : outKept (execVlSet o s) = some (kept s) := by simp [execVlSet]

@[simp] theorem execVlGet_kept (o : VecOp) (s : State) : outKept (execVlGet o s) = some (kept s) := by simp [execVlGet]

@[simp] theorem State.updVe_kept (s : State) (k : Nat) (f : VecEng → VecEng) :
    kept (s.updVe k f) = kept s := by simp [State.updVe]

@[simp] theorem veReject_kept (s : State) (k : Nat) (v : VeInstr) (b : VeBad) : kept (veReject s k v b) = kept s := by
  simp only [veReject]; split <;> simp

@[simp] theorem veBlockDone_kept (s : State) (k : Nat) (v : VeInstr) (last : Nat) :
    kept (veBlockDone s k v last).1 = kept s := by
  simp only [veBlockDone]; split <;> simp

@[simp] theorem veReadOne_kept (s : State) (k : Nat) (v : VeInstr) : kept (veReadOne s k v).2 = kept s := by
  simp only [veReadOne]; repeat' split
  all_goals simp

@[simp] theorem veCharge_kept (s : State) (k : Nat) (v : VeInstr) : kept (veCharge s k v) = kept s := by simp [veCharge]

@[simp] theorem putVe_kept (s : State) (k : Nat) (v : VeInstr) : kept (putVe s k v) = kept s := by simp [putVe]

@[simp] theorem waitsOn_kept (s : State) (k : Nat) (w : Option TagWait) : kept (waitsOn s k w) = kept s := by
  simp only [waitsOn]; split <;> simp

@[simp] theorem veStop_kept (s : State) (k : Nat) (v : VeInstr) (write read : Option TagWait) :
    kept (veStop s k v write read) = kept s := by simp [veStop]

@[simp] theorem vePump_kept (k n : Nat) (s : State) (v : VeInstr) : kept (vePump k n s v) = kept s := by
  induction n generalizing s v with
  | zero => simp [vePump]
  | succ n ih =>
    simp only [vePump]
    split
    · simp [ih]
    · simp
    · split
      · simp
      · split
        · split
          · next h =>
            have hread := congrArg (fun p => kept p.2) h
            simp only [veReadOne_kept, veCharge_kept] at hread
            simp [ih, hread]
          · simp
          · simp
        · split <;> simp

@[simp] theorem veUnwait_kept (s : State) (k : Nat) (who : TagWho) : kept (veUnwait s k who) = kept s := by simp [veUnwait]

@[simp] theorem veRun_kept (s : State) (k : Nat) (v : VeInstr) : kept (veRun s k v) = kept s := by simp [veRun]

@[simp] theorem veFlush_kept (k x1 : Nat) (x2 : State) (x3 : VeInstr) : kept (veFlush k x1 x2 x3).1 = kept x2 := by
  fun_induction veFlush <;> simp_all

@[simp] theorem veWindowOp_kept (s : State) (k : Nat) (v : VeInstr) : kept (veWindowOp s k v) = kept s := by
  simp only [veWindowOp]; split <;> simp

@[simp] theorem chanAccess_kept (s : State) (k ch : Nat) (v : VeInstr) (raw data : Nat) :
    bothKept (chanAccess s k ch v raw data) = kept s := by
  rw [chanAccess]
  split
  · simp
  have looked := lookup_kept s k (ctxOf s k) (vpnOf (gsAddr v v.win raw))
  split <;> rename_i found <;> rw [found] at looked
  · simp [looked]
  · extract_lets pa
    split
    · simp [looked]
    · split
      next fresh =>
      have hu := (congrArg (fun p => kept p.2) fresh).symm
      rw [State.newId_kept, looked] at hu
      extract_lets a r
      split
      · simp [hu]
      · have hr : kept r = kept s := by simp [r, hu]
        split
        · next t ht => simp [kept_of_issueAccess ht, hr]
        · simp [hr]
        · simp [hr]

theorem kept_of_chanAccess_inl {s t : State} {k ch : Nat} {v : VeInstr} {raw data : Nat}
    (h : chanAccess s k ch v raw data = .inl t) : kept t = kept s := by
  simpa [h] using chanAccess_kept s k ch v raw data

theorem kept_of_chanAccess_inr {s t : State} {k ch : Nat} {v : VeInstr} {raw data : Nat}
    (h : chanAccess s k ch v raw data = .inr t) : kept t = kept s := by
  simpa [h] using chanAccess_kept s k ch v raw data

@[simp] theorem putChan_kept (s : State) (k ch : Nat) (v : VeInstr) : kept (putChan s k ch v) = kept s := by simp [putChan]

@[simp] theorem chanFinish_kept {x : Kept} {s : State} (k ch : Nat) (v : VeInstr) (h : kept s = x) :
    Stays x (chanFinish s k ch v).kept := by
  simp only [chanFinish]
  repeat' split
  all_goals simp [h]

@[simp] theorem chanIssue_kept {x : Kept} {s : State} (k ch : Nat) (v : VeInstr) (h : kept s = x) :
    Stays x (chanIssue s k ch v).kept := by
  subst h
  simp only [chanIssue]
  split
  · split
    · split
      · simp
      · split
        · next ht => simp [kept_of_chanAccess_inl ht]
        · next ht => simp [kept_of_chanAccess_inr ht]
    · simp
    · simp
  · simp
  · simp

@[simp] theorem chanCharge_kept (s : State) (k : Nat) (v : VeInstr) : kept (chanCharge s k v) = kept s := by simp [chanCharge]

@[simp] theorem chanPump_kept (k ch : Nat) (go : Bool) (n : Nat) (s : State) : kept (chanPump k ch go n s) = kept s := by
  induction n generalizing s with
  | zero => rfl
  | succ n ih =>
    unfold chanPump
    split
    · rfl
    · next v _ =>
      have hfin : Stays (kept s) (if v.idx < v.rd then chanFinish s k ch v else .stop s none).kept := by split <;> simp
      split <;> rename_i hd <;> rw [hd] at hfin
      · simpa [ih] using hfin
      · simp
      · have hiss := chanIssue_kept k ch v (stays_some.mp hfin)
        split
        · simpa using hfin
        · split <;> rename_i hj <;> rw [hj] at hiss
          · simpa [ih] using hiss
          · simpa using hfin
          · simpa using hiss

@[simp] theorem chanRun_kept (s : State) (k ch : Nat) : kept (chanRun s k ch) = kept s := by
  simp only [chanRun]; split <;> simp

@[simp] theorem execVectorQueueHead_kept (k : Fin 256) (s : State) : outKept (execVectorQueueHead k s) = some (kept s) := by
  simp only [execVectorQueueHead]; repeat' split
  all_goals simp

@[simp] theorem execVectorComplete_kept (k : Fin 256) (u : VeUnit) (s : State) :
    outKept (execVectorComplete k u s) = some (kept s) := by
  simp only [execVectorComplete]; repeat' split
  all_goals simp

/-! What `Machine/SpCtl.lean` defines. -/

@[simp] theorem execSpPmap_kept (o : RrrOp) (s : State) : outKept (execSpPmap o s) = some (kept s) := by
  unfold execSpPmap
  extract_lets us val badGroup t
  have ht : kept t = kept s := by
    simp only [t]
    split <;> simp
  rw [issue_kept fun g u hu => ?_, ht]
  extract_lets m sp
  split
  · simp
  · split <;> simp [hu]

@[simp] theorem execSpRingWr_kept (o : RrrOp) (s : State) : outKept (execSpRingWr o s) = some (kept s) := by
  unfold execSpRingWr
  extract_lets us r w0 w1 t
  have ht : kept t = kept s := by
    simp only [t]
    split <;> simp
  rw [issue_kept fun g u hu => ?_, ht]
  split
  · simp
  · extract_lets c
    split <;> simp [hu]

@[simp] theorem execSpRingRd_kept (o : RrrOp) (word1 : Bool) (s : State) :
    outKept (execSpRingRd o word1 s) = some (kept s) := by simp [execSpRingRd]

@[simp] theorem spTag_kept (o : RrrOp) (full : Bool) (s : State) : outKept (spTag o full s) = some (kept s) := by
  unfold spTag
  extract_lets us a t
  have ht : kept t = kept s := by
    simp only [t]
    split <;> simp
  rw [issue_kept fun g u hu => ?_, ht]
  split <;> simp [hu]

@[simp] theorem execSpTagFull_kept (o : RrrOp) (s : State) :
    outKept (execSpTagFull o s) = some (kept s) := by simp [execSpTagFull]

@[simp] theorem execSpTagEmpty_kept (o : RrrOp) (s : State) :
    outKept (execSpTagEmpty o s) = some (kept s) := by simp [execSpTagEmpty]

@[simp] theorem spGoesOn_kept (s : State) (k : Nat) (x : SpAccess) : kept (spGoesOn s k x) = kept s := by simp [spGoesOn]

@[simp] theorem spMoves_kept (s : State) (k : Nat) (x : SpAccess) : kept (spMoves s k x) = kept s := by
  simp only [spMoves]; split <;> simp

@[simp] theorem spFollow_kept (s : State) (k : Nat) : kept (spFollow s k) = kept s := by simp [spFollow]

@[simp] theorem execTransitEnd_kept (k : Fin 256) (g : Fin 8) (s : State) : outKept (execTransitEnd k g s) = some (kept s) := by
  simp only [execTransitEnd]; split <;> simp

@[simp] theorem execRingSlotReturn_kept (k : Fin 256) (slot : BitVec 15) (s : State) :
    outKept (execRingSlotReturn k slot s) = some (kept s) := by simp [execRingSlotReturn]

/-! What `Machine/Dma.lean` defines. -/

@[simp] theorem State.updDma_kept (s : State) (k : Nat) (f : DmaQueue → DmaQueue) :
    kept (s.updDma k f) = kept s := by simp [State.updDma]

@[simp] theorem dmaPut_kept (s : State) (k : Nat) (q : DmaCmd) : kept (dmaPut s k q) = kept s := by simp [dmaPut]

@[simp] theorem dmaFault_kept (s : State) (k : Nat) (q : DmaCmd) (cause side addr ring spa : Nat) :
    kept (dmaFault s k q cause side addr ring spa) = kept s := by
  unfold dmaFault; repeat' split
  all_goals simp

@[simp] theorem execDmaSub_kept (o : RrrOp) (s : State) : outKept (execDmaSub o s) = some (kept s) := by
  unfold execDmaSub
  extract_lets us legal want
  rw [issue_kept fun g t ht => ?_, noteCause_kept]
  extract_lets c
  split
  · simp
  split
  · simp
  · refine runLanes_kept ht fun l u hu => ?_
    have hlane := laneAccess_kept g u.mem.nextId l (want g u l) hu
    split
    · next h => simpa [h] using hlane
    · exact hlane

@[simp] theorem execDmaWait_kept (o : RrrOp) (s : State) : outKept (execDmaWait o s) = some (kept s) :=
  issue_kept fun g t ht => by
    extract_lets c n
    split <;> simp [ht]

@[simp] theorem execDmaDispatch_kept (e : Fin 64) (s : State) : outKept (execDmaDispatch e s) = some (kept s) := by
  simp only [execDmaDispatch]; repeat' split
  all_goals simp

@[simp] theorem dmaLookup_kept (s : State) (eng n vpn : Nat) : kept (dmaLookup s eng n vpn).2 = kept s := by
  simp only [dmaLookup]; repeat' split
  all_goals simp

@[simp] theorem dmaFindPages_kept (s : State) (k : Nat) (q : DmaCmd) (side : Nat) (ps : List Nat) :
    kept (dmaFindPages s k q side ps).1 = kept s := by
  simp only [dmaFindPages]
  apply List.foldlRecOn (motive := fun y : State × DmaCmd => kept y.1 = kept s)
  · rfl
  · intro y hy p _
    split
    · exact hy
    · have looked := dmaLookup_kept y.1 q.engine (ctxOf s k) p
      split <;> rename_i h <;> rw [h] at looked
      · simp [looked, hy]
      · simp [looked, hy]

@[simp] theorem execDmaTranslationDone_kept (k : Fin 256) (seq : W64) (s : State) :
    outKept (execDmaTranslationDone k seq s) = some (kept s) := by
  simp only [execDmaTranslationDone]; repeat' split
  all_goals simp

@[simp] theorem dmaTagWait_kept (s : State) (k : Nat) (q : DmaCmd) (w : TagWait) : (dmaTagWait s k q w).kept = kept s := by
  simp [dmaTagWait]

theorem kept_of_dmaTake {s : State} {k : Nat} {q : DmaCmd} {b : Bool} {m : DmaMove} (h : dmaTake s k q b = .inr m) :
    m.kept = kept s := by
  simp only [dmaTake] at h
  split at h
  · cases h; simp
  · split at h
    · cases h; simp
    · split at h
      · cases h; simp
      · cases h

@[simp] theorem dmaTook_kept (s : State) (k : Nat) (q : DmaCmd) (dst : Bool) (slot : Nat) :
    kept (dmaTook s k q dst slot) = kept s := by simp [dmaTook]

@[simp] theorem windowUnit_kept {s : State} {k : Nat} {q : DmaCmd} {pa : W64} {u : Nat} {b : Bool} {offs todo : List Nat}
   {act : State → Nat → Nat → State × DmaCmd} {last : DmaCmd → DmaCmd} (h : ∀ t j z, kept (act t j z).1 = kept t) :
     (windowUnit s k q pa u b offs todo act last).kept = kept s := by
  simp only [windowUnit]
  repeat' split
  all_goals simp [h]

@[simp] theorem dmaReadUnit_kept (s : State) (k : Nat) (q : DmaCmd) (u : Nat) : (dmaReadUnit s k q u).kept = kept s := by
  simp only [dmaReadUnit]
  split
  · split
    · next h => exact kept_of_dmaTake h
    · simp
  repeat' split
  all_goals simp

theorem kept_of_dmaReadUnit {s : State} {k u : Nat} {q : DmaCmd} {m : DmaMove} (h : dmaReadUnit s k q u = m) :
    m.kept = kept s := h ▸ dmaReadUnit_kept s k q u

@[simp] theorem dmaWriteUnit_kept (s : State) (k : Nat) (q : DmaCmd) (u : Nat) (bs : Bytes) :
    (dmaWriteUnit s k q u bs).kept = kept s := by
  simp only [dmaWriteUnit]
  split
  · simp
  split
  · split
    · next h => exact kept_of_dmaTake h
    · simp
  repeat' split
  all_goals simp

theorem kept_of_dmaWriteUnit {s : State} {k u : Nat} {q : DmaCmd} {bs : Bytes} {m : DmaMove} (h : dmaWriteUnit s k q u bs = m) :
    m.kept = kept s := h ▸ dmaWriteUnit_kept s k q u bs

@[simp] theorem dmaPump_kept (k n : Nat) (s : State) (q : DmaCmd) : kept (dmaPump k n s q) = kept s := by
  induction n generalizing s q with
  | zero => simp [dmaPump]
  | succ n ih =>
    unfold dmaPump
    extract_lets w
    have written {m} (hm : w = some m) : m.kept = kept s := by
      simp only [w] at hm
      split at hm
      · cases hm
      · obtain ⟨bs, -, rfl⟩ := Option.map_eq_some_iff.mp hm
        exact dmaWriteUnit_kept ..
    clear_value w
    split
    · simpa [ih] using written rfl
    · simpa using written rfl
    · split
      next t _ hst =>
      have ht : kept t = kept s := by
        split at hst
        · cases hst; exact written rfl
        · cases hst; rfl
      split
      · simp [ht]
      · split
        · simp [ht]
        · split <;> rename_i hr <;> have hk := kept_of_dmaReadUnit hr
          · simpa [ih, ht] using hk
          · simpa [ht] using hk
          · simpa [ht] using hk

@[simp] theorem dmaPartial_kept (s : State) (k seq : Nat) : kept (dmaPartial s k seq) = kept s := by
  simp only [dmaPartial]
  split
  · rfl
  split
  · rfl
  split
  · rfl
  split <;> rename_i h <;> have hk := kept_of_dmaWriteUnit h
  · simpa using hk
  · simpa using hk
  · simpa using hk

@[simp] theorem dmaRun_kept (s : State) (k seq : Nat) : kept (dmaRun s k seq) = kept s := by
  simp only [dmaRun]; repeat' split
  all_goals simp

@[simp] theorem dmaFences_kept (s : State) (k : Nat) (q : DmaCmd) : kept (dmaFences s k q) = kept s := by simp [dmaFences]

@[simp] theorem execDmaFirstRequest_kept (k : Fin 256) (seq : W64) (s : State) :
    outKept (execDmaFirstRequest k seq s) = some (kept s) := by
  simp only [execDmaFirstRequest]; split <;> simp

@[simp] theorem execDmaComplete_rises {x₀ : Kept} (k : Fin 256) (seq : W64) (s : State) (hx : Rises x₀ (kept s)) :
    Risen x₀ (outKept (execDmaComplete k seq s)) := by
  simp only [execDmaComplete]; repeat' split
  all_goals simp [hx]

@[simp] theorem dmaAnswer_kept (s : State) (k seq entry : Nat) (f : Nat → Byte) (poison : Nat) :
    kept (dmaAnswer s k seq entry f poison) = kept s := by
  simp only [dmaAnswer]; repeat' split
  all_goals simp

/-! What `Machine/Matrix.lean` defines. -/

@[simp] theorem State.updMx_kept (s : State) (k : Nat) (f : Matrix → Matrix) :
    kept (s.updMx k f) = kept s := by simp [State.updMx]

@[simp] theorem execMtWr_kept (o : RrrOp) (s : State) : outKept (execMtWr o s) = some (kept s) := by simp [execMtWr]

@[simp] theorem mtRead_kept (o : RrrOp) (hi : Bool) (s : State) : outKept (mtRead o hi s) = some (kept s) := by simp [mtRead]

@[simp] theorem execMtRdl_kept (o : RrrOp) (s : State) : outKept (execMtRdl o s) = some (kept s) := by simp [execMtRdl]

@[simp] theorem execMtRdh_kept (o : RrrOp) (s : State) : outKept (execMtRdh o s) = some (kept s) := by simp [execMtRdh]

@[simp] theorem mxEnter_kept {x : Kept} {s : State} (g : Grp) (d : Bool) (desc : W128) (h : kept s = x) :
    Stays x (mxEnter g d desc s).kept := by
  simp only [mxEnter]
  repeat' split
  all_goals simp [h]

@[simp] theorem execMxPass_kept (o : RrrOp) (s : State) : outKept (execMxPass o s) = some (kept s) :=
  issue_kept fun g _ ht => mxEnter_kept g _ _ ht

@[simp] theorem execMxDrain_kept (o : RrrOp) (s : State) : outKept (execMxDrain o s) = some (kept s) :=
  issue_kept fun g _ ht => mxEnter_kept g _ _ ht

@[simp] theorem noteMx_kept (s : State) (k cause : Nat) (q : MxCmd) : kept (noteMx s k cause q) = kept s := by simp [noteMx]

@[simp] theorem cutQueue_kept (s : State) (k i : Nat) : kept (cutQueue s k i) = kept s := by simp [cutQueue]

@[simp] theorem mxFault_kept (s : State) (k code : Nat) (q : MxCmd) : kept (mxFault s k code q) = kept s := by simp [mxFault]

@[simp] theorem mxReject_kept (s : State) (k i cause addr : Nat) (q : MxCmd) :
    kept (mxReject s k i cause addr q) = kept s := by simp [mxReject]

@[simp] theorem drainChecks_kept (k x1 : Nat) (x2 : State) : kept (drainChecks k x1 x2).1 = kept x2 := by
  fun_induction drainChecks <;> simp_all

@[simp] theorem putMx_kept (s : State) (k i : Nat) (q : MxCmd) : kept (putMx s k i q) = kept s := by simp [putMx]

theorem kept_of_drainChecks {s t : State} {k n : Nat} {b : Bool} (h : drainChecks k n s = (t, b)) : kept t = kept s := by
  simpa using (congrArg (fun p => kept p.1) h).symm

@[simp] theorem execPassValidate_kept (k : Fin 256) (s : State) : outKept (execPassValidate k s) = some (kept s) := by
  simp only [execPassValidate]
  split
  · rfl
  split <;> rename_i h <;> have hk := kept_of_drainChecks h
  · simp [hk]
  · split
    · simp [hk]
    · split
      · simp [hk]
      · split <;> simp [hk]

@[simp] theorem execWeightBandWrite_kept (k : Fin 256) (s : State) : outKept (execWeightBandWrite k s) = some (kept s) := by
  simp only [execWeightBandWrite]; repeat' split
  all_goals simp

@[simp] theorem chargePass_kept (s : State) (k : Nat) (d : W128) : kept (chargePass s k d) = kept s := by simp [chargePass]

@[simp] theorem startFront_kept (s : State) (k i : Nat) (q : MxCmd) : kept (startFront s k i q) = kept s := by simp [startFront]

@[simp] theorem execWeightFrontStart_kept (k : Fin 256) (s : State) : outKept (execWeightFrontStart k s) = some (kept s) := by
  simp only [execWeightFrontStart]
  split
  · rfl
  split <;> rename_i h <;> have hk := kept_of_drainChecks h
  · simp [hk]
  · split <;> simp [hk]

@[simp] theorem execPassLastVector_kept (k : Fin 256) (s : State) : outKept (execPassLastVector k s) = some (kept s) := by
  simp only [execPassLastVector]; split <;> simp

@[simp] theorem applyColumn_kept (k m n : Nat) (q : MxCmd) (s : State) : kept (applyColumn k m n q s) = kept s := by
  simp only [applyColumn]; split <;> simp

@[simp] theorem execAccumulatorWrite_kept (k : Fin 256) (s : State) : outKept (execAccumulatorWrite k s) = some (kept s) := by
  simp only [execAccumulatorWrite]; split <;> simp

@[simp] theorem execXRecordRelease_kept (k : Fin 256) (s : State) : outKept (execXRecordRelease k s) = some (kept s) := by
  simp only [execXRecordRelease]; split <;> simp

@[simp] theorem execPassDone_kept (k : Fin 256) (s : State) : outKept (execPassDone k s) = some (kept s) := by
  simp only [execPassDone]; split <;> simp

@[simp] theorem execDrainRowWrite_kept (k : Fin 256) (s : State) : outKept (execDrainRowWrite k s) = some (kept s) := by
  simp only [execDrainRowWrite]
  split <;> rename_i h <;> have hk := kept_of_drainChecks h
  · simp [hk]
  · split <;> simp [hk]

@[simp] theorem execArrayStreamExit_kept (k : Fin 256) (s : State) :
    outKept (execArrayStreamExit k s) = some (kept s) := by simp [execArrayStreamExit]

@[simp] theorem execYieldWindowEnd_kept (k : Fin 256) (s : State) :
    outKept (execYieldWindowEnd k s) = some (kept s) := by simp [execYieldWindowEnd]

@[simp] theorem execChainStepCompare_kept (k : Fin 256) (s : State) : outKept (execChainStepCompare k s) = some (kept s) := by
  simp only [execChainStepCompare]; repeat' split
  all_goals simp

@[simp] theorem execChainStepStart_kept (k : Fin 256) (s : State) : outKept (execChainStepStart k s) = some (kept s) := by
  simp only [execChainStepStart]; repeat' split
  all_goals simp

@[simp] theorem execChainMemberFrontStart_kept (k : Fin 256) (s : State) :
    outKept (execChainMemberFrontStart k s) = some (kept s) := by
  simp only [execChainMemberFrontStart]; split <;> simp

/-! What `Machine/Control.lean` defines. -/

@[simp] theorem execNop_kept (o : RrrOp) (s : State) : outKept (execNop o s) = some (kept s) := by simp [execNop]

@[simp] theorem execCtlEnd_kept (o : RrrOp) (s : State) : outKept (execCtlEnd o s) = some (kept s) := by simp [execCtlEnd]

theorem divergeFault_kept {s t : State} {g : Grp} {b : Bool} (h : divergeFault s g b = some t) : kept t = kept s := by
  simp only [divergeFault] at h
  split at h
  · cases h
  · split at h
    · cases h
    · cases h; simp

/-- A divergence fault of the group that may issue keeps the two. -/
theorem kept_of_mayIssue_divergeFault {s t : State} {o : Option Grp} {b : Bool}
    (h : o.bind (fun g => divergeFault s g b) = some t) :
    kept t = kept s := by
  obtain ⟨g, -, hg⟩ := Option.bind_eq_some_iff.mp h
  exact divergeFault_kept hg

@[simp] theorem execExit_kept (o : RrrOp) (s : State) : outKept (execExit o s) = some (kept s) := by
  simp only [execExit]
  split
  · next h => simp [kept_of_mayIssue_divergeFault h]
  · exact issue_kept fun g t ht => by simp [ht]

@[simp] theorem execCvYield_kept (o : RrrOp) (s : State) : outKept (execCvYield o s) = some (kept s) := by simp [execCvYield]

@[simp] theorem park_kept (s : State) (g : Grp) (op : Option MmaOp) : kept (park s g op) = kept s := by
  simp only [park]; split <;> simp

@[simp] theorem execCvConv_kept (o : RrrOp) (s : State) : outKept (execCvConv o s) = some (kept s) := by
  simp only [execCvConv]
  split
  · next h => simp [kept_of_mayIssue_divergeFault h]
  · exact issue_kept fun g t ht => by simp [ht]

@[simp] theorem execBrk_kept (o : RrrOp) (s : State) : outKept (execBrk o s) = some (kept s) :=
  issue_kept fun g t ht => by
    split
    · split <;> simp [ht]
    · simp

@[simp] theorem execCvLaunch_kept (o : LaunchOp) (s : State) : outKept (execCvLaunch o s) = some (kept s) :=
  issue_kept fun g t ht => by
    extract_lets c vs
    split <;> simp [ht]

@[simp] theorem execCvWait_kept (o : LaunchOp) (s : State) : outKept (execCvWait o s) = some (kept s) :=
  issue_kept fun g t ht => by
    extract_lets c
    split <;> simp [ht]

@[simp] theorem flushCore_kept (s : State) (k : Nat) : kept (flushCore s k) = kept s := by simp [flushCore]

@[simp] theorem execKernelEnd_kept (k : Fin 256) (s : State) :
    outKept (execKernelEnd k s) = some (kept s) := by simp [execKernelEnd]

@[simp] theorem execCvMma_kept (o : MmaOp) (s : State) : outKept (execCvMma o s) = some (kept s) := by
  simp only [execCvMma]
  split
  · next h =>
    split at h
    · simp [kept_of_mayIssue_divergeFault h]
    · cases h
  · refine issue_kept fun g t ht => ?_
    split <;> simp [ht]

@[simp] theorem execCollectiveConverge_kept (k : Fin 256) (v : Fin 32) (s : State) :
    outKept (execCollectiveConverge k v s) = some (kept s) := by
  simp only [execCollectiveConverge]; repeat' split
  all_goals simp

@[simp] theorem execCollectiveGrant_kept (k : Fin 256) (s : State) : outKept (execCollectiveGrant k s) = some (kept s) := by
  simp only [execCollectiveGrant]; repeat' split
  all_goals simp

@[simp] theorem execCollectiveSectionFree_kept (k : Fin 256) (sec : Fin 16) (s : State) :
    outKept (execCollectiveSectionFree k sec s) = some (kept s) := by
  simp only [execCollectiveSectionFree]; split <;> simp

@[simp] theorem execCollectiveCReadable_kept (k : Fin 256) (v : Fin 32) (s : State) :
    outKept (execCollectiveCReadable k v s) = some (kept s) := by
  simp only [execCollectiveCReadable]; split <;> simp

@[simp] theorem retryFace_kept (s : State) (k : Nat) (w : TagWait) (a : SpAccess) :
    kept (retryFace s k w a) = kept s := by simp [retryFace]

@[simp] theorem retryOne_kept (s : State) (k : Nat) (w : TagWait) : kept (retryOne s k w) = kept s := by
  simp only [retryOne]; repeat' split
  all_goals simp

@[simp] theorem execTagWaitRetry_kept (k : Fin 256) (s : State) :
    outKept (execTagWaitRetry k s) = some (kept s) := by simp [execTagWaitRetry]

/-! What `Machine/Save.lean` defines. -/

@[simp] theorem cohZero_rises {x₀ : Kept} (s : State) (lo hi : Nat) (hx : Rises x₀ (kept s)) :
    Rises x₀ (kept (cohZero s lo hi)) :=
  ⟨fun h => wf_mclear (hx.1 h) lo hi, hx.2⟩

@[simp] theorem putPieces_rises {x₀ : Kept} (s : State) (base : Nat) (ps : List Piece3) (hx : Rises x₀ (kept s)) :
    Rises x₀ (kept (putPieces s base ps)) :=
  rises_foldl (fun t _ ht => cohWrite_rises t _ _ ht) hx

/-- What the held cores leave of their faults reaches their save areas. -/
@[simp] theorem foldl_putPieces_rises {x₀ : Kept} {s : State} {α : Type} (l : List α) (base : State → α → Nat)
    (ps : State → α → List Piece3)
    (hx : Rises x₀ (kept s)) : Rises x₀ (kept (l.foldl (fun s a => putPieces s (base s a) (ps s a)) s)) :=
  rises_foldl (fun t _ ht => putPieces_rises t _ _ ht) hx

@[simp] theorem saveCore_rises {x₀ : Kept} (s : State) (n i k : Nat) (hx : Rises x₀ (kept s)) :
    Rises x₀ (kept (saveCore s n i k)) := by simp [saveCore, hx]

/-! What `Machine/Sched.lean` defines. -/

@[simp] theorem bestPlacement_kept (s : State) (n : Nat) (ok : Nat → Bool) : kept (bestPlacement s n ok).2 = kept s := by
  simp only [bestPlacement]; split <;> simp

@[simp] theorem wakeDies_kept (s : State) (ds : List Nat) : kept (wakeDies s ds) = kept s := by simp [wakeDies]

@[simp] theorem beginRestore_kept (s : State) (n : Nat) : kept (beginRestore s n) = kept s := by
  simp only [beginRestore]; split <;> simp

@[simp] theorem beginRestores_kept (s : State) : kept (beginRestores s) = kept s := by simp [beginRestores]

@[simp] theorem dispatch_kept (s : State) (n : Nat) (p : List Nat) : kept (dispatch s n p) = kept s := by simp [dispatch]

@[simp] theorem stopRestore_kept (s : State) (n : Nat) : kept (stopRestore s n) = kept s := by simp [stopRestore]

@[simp] theorem displace_kept (s : State) (n : Nat) : kept (displace s n) = kept s := by
  simp only [displace]; split <;> simp

theorem kept_of_bestPlacement {s t : State} {n : Nat} {ok : Nat → Bool} {r} (h : bestPlacement s n ok = (r, t)) :
    kept t = kept s :=
  by simpa using (congrArg (fun p => kept p.2) h).symm

@[simp] theorem offerTo_kept (s : State) (n : Nat) : kept (offerTo s n) = kept s := by
  simp only [offerTo]
  split
  · rfl
  split
  · simp
  split
  · next h => simp [kept_of_bestPlacement h]
  · next h =>
    split
    · split
      · next h' => simp [kept_of_bestPlacement h', kept_of_bestPlacement h]
      · next h' => simp [kept_of_bestPlacement h', kept_of_bestPlacement h]
    · exact kept_of_bestPlacement h

@[simp] theorem offerAll_kept (x0 : Nat) (x1 : List Nat) (x2 : State) : kept (offerAll x0 x1 x2) = kept x2 := by
  fun_induction offerAll <;> simp_all

@[simp] theorem offerCores_kept (s : State) : kept (offerCores s) = kept s := by simp [offerCores]

@[simp] theorem schedulePart_kept (s : State) (q : Nat) : kept (schedulePart s q) = kept s := by
  simp only [schedulePart]
  split
  · rfl
  rw [kept_foldl _ _ _ displace_kept]
  apply List.foldlRecOn (motive := fun y : State × List Nat × List (Nat × List Nat) => kept y.1 = kept s)
  · simp
  · intro y hy n _
    split
    · simpa using hy
    · split <;> rename_i h <;> have hp := congrArg (fun p => kept p.2) h <;> simp only [bestPlacement_kept, hy] at hp
      · exact hp.symm
      · split <;> simp [hp]

@[simp] theorem scheduleAll_kept (s : State) : kept (scheduleAll s) = kept s := by simp [scheduleAll]

@[simp] theorem getsWork_kept (s : State) (n : Nat) : kept (getsWork s n) = kept s := by
  simp only [getsWork]; split <;> simp

@[simp] theorem flushVector_kept (s : State) (k : Nat) : kept (flushVector s k) = kept s := by
  simp only [flushVector]; split <;> simp

@[simp] theorem execContextQuiescent_kept (k : Fin 256) (s : State) : outKept (execContextQuiescent k s) = some (kept s) := by
  simp only [execContextQuiescent]; split <;> simp

@[simp] theorem freeCores_kept (s : State) (n : Nat) : kept (freeCores s n) = kept s := by simp [freeCores]

@[simp] theorem execContextSaved_rises {x₀ : Kept} (n : BitVec 12) (s : State) (hx : Rises x₀ (kept s)) :
    Risen x₀ (outKept (execContextSaved n s)) := by
  have saved : Rises x₀ (kept ((heldCores s n.toNat).foldl (fun s e => saveCore s n.toNat e.2 e.1) s)) :=
    rises_foldl (fun t e ht => saveCore_rises t n.toNat e.2 e.1 ht) hx
  simp only [execContextSaved]
  split
  · simp [hx]
  · simp [saved]

@[simp] theorem restoreOne_kept (s : State) (n i k shift : Nat) (moved : Bool) :
    kept (restoreOne s n i k shift moved) = kept s := by simp [restoreOne]

@[simp] theorem execContextRestored_kept (n : BitVec 12) (s : State) :
    outKept (execContextRestored n s) = some (kept s) := by simp [execContextRestored]

@[simp] theorem cqProbe_kept (s : State) (n : Nat) (teardown : Bool) : kept (cqProbe s n teardown) = kept s := by
  simp only [cqProbe]; repeat' split
  all_goals simp

@[simp] theorem recordIrq_kept (s : State) (n : Nat) (urgent : Bool) :
    kept (recordIrq s n urgent) = kept s := by simp [recordIrq]

theorem writeRecord_rises {x₀ : Kept} {s t : State} {n kind cause tag : Nat} {urgent : Bool} {st : W64} (hx : Rises x₀ (kept s))
    (h : writeRecord s n kind cause tag urgent = some (t, st)) :
    Rises x₀ (kept t) := by
  simp only [writeRecord] at h
  split at h
  · cases h; simp [hx]
  · cases h; simp [hx]
  · cases h; simp [hx]
  · cases h

@[simp] theorem dropXlate_kept (s : State) (n lo hi : Nat) : kept (dropXlate s n lo hi) = kept s := by simp [dropXlate]

@[simp] theorem closeRecords_kept (s : State) (p : FaultRec → Bool) : kept (closeRecords s p) = kept s := by simp [closeRecords]

@[simp] theorem adminDone_kept (s : State) (f status ctx : Nat) (tag : W32) :
    kept (adminDone s f status ctx tag) = kept s := by simp [adminDone]

@[simp] theorem clearResid_kept (s : State) (n : Nat) : kept (clearResid s n) = kept s := by simp [clearResid]

@[simp] theorem forgetCtx_kept (s : State) (n : Nat) : kept (forgetCtx s n) = kept s := by simp [forgetCtx]

@[simp] theorem freeCtx_kept (s : State) (n : Nat) : kept (freeCtx s n) = kept s := by simp [freeCtx]

@[simp] theorem teardownRecord_rises {x₀ : Kept} (s : State) (n : Nat) (hx : Rises x₀ (kept s)) :
    Rises x₀ (kept (teardownRecord s n)) := by
  simp only [teardownRecord]
  split
  · next h =>
    split at h
    · cases h
    · exact writeRecord_rises hx h
  · simp [hx]

@[simp] theorem finishTeardown_rises {x₀ : Kept} (s : State) (n : Nat) (hx : Rises x₀ (kept s)) :
    Rises x₀ (kept (finishTeardown s n)) := by
  have saved := foldl_putPieces_rises (heldCores s n) (fun s e => saveArea (s.ctx n) e.2) (fun s e => saveFaults (s.core e.1))
    hx
  simp only [finishTeardown, offerCores_kept, beginRestores_kept, kept_ite, freeCores_kept]
  have recorded (t : State) (ht : Rises x₀ (kept t)) : Rises x₀ (kept (teardownRecord t n)) := teardownRecord_rises t n ht
  split
  · refine recorded _ ?_
    simp [saved]
  · simp only [kept_foldl, adminDone_kept, freeCtx_kept, freeCores_kept, implies_true]
    refine recorded _ ?_
    simp [saved]

@[simp] theorem execTeardownComplete_rises {x₀ : Kept} (n : BitVec 12) (s : State) (hx : Rises x₀ (kept s)) :
    Risen x₀ (outKept (execTeardownComplete n s)) := by simp [execTeardownComplete, hx]

/-! What `Machine/Contexts.lean` defines. -/

@[simp] theorem partCreate_kept (s : State) (c : PartCreate) : kept (partCreate s c).1 = kept s := by
  simp only [partCreate]; split <;> simp

@[simp] theorem execPartCreate_kept (c : PartCreate) (s : State) :
    outKept (execPartCreate c s) = some (kept s) := by simp [execPartCreate]

@[simp] theorem leaveHomes_kept (s : State) (c : Nat) : kept (leaveHomes s c) = kept s := by simp [leaveHomes]

@[simp] theorem clearCluster_kept (s : State) (c : Nat) : kept (clearCluster s c) = kept s := by simp [clearCluster]

@[simp] theorem dropExports_kept (s : State) (q : Nat) : kept (dropExports s q) = kept s := by simp [dropExports]

@[simp] theorem execPartCreateDone_rises {x₀ : Kept} (q : Fin 32) (s : State) (hx : Rises x₀ (kept s)) :
    Risen x₀ (outKept (execPartCreateDone q s)) := by
  simp only [execPartCreateDone]
  split
  · simp [hx]
  · simp only [outKept_next, risen_some, State.setPart_kept, State.stamp_kept, dropExports_kept]
    refine rises_foldl (fun t u ht => ?_) (by simp [hx])
    split
    · exact cohZero_rises t _ _ ht
    · exact ht

@[simp] theorem partDestroy_kept (s : State) (q : Nat) : kept (partDestroy s q).1 = kept s := by
  simp only [partDestroy]; repeat' split
  all_goals simp

@[simp] theorem execPartDestroy_kept (q : Fin 32) (s : State) :
    outKept (execPartDestroy q s) = some (kept s) := by simp [execPartDestroy]

@[simp] theorem eraseUnit_rises {x₀ : Kept} (s : State) (u : Nat) (hx : Rises x₀ (kept s)) : Rises x₀ (kept (eraseUnit s u)) :=
  ⟨fun h => wf_mclear (hx.1 h) _ _, hx.2⟩

@[simp] theorem execPartDestroyDone_rises {x₀ : Kept} (q : Fin 32) (s : State) (hx : Rises x₀ (kept s)) :
    Risen x₀ (outKept (execPartDestroyDone q s)) := by
  simp only [execPartDestroyDone]
  split
  · simp [hx]
  · simp only [outKept_next, risen_some, kept_mk, kept_eta]
    refine rises_foldl (fun t u ht => ?_) (by simp [hx])
    split
    · exact eraseUnit_rises t _ ht
    · exact ht

@[simp] theorem sliceWrite_kept (s : State) (q : Nat) (v : Byte) : kept (sliceWrite s q v).1 = kept s := by
  simp only [sliceWrite]; split <;> simp

@[simp] theorem execSliceWrite_kept (q : Fin 32) (v : Byte) (s : State) :
    outKept (execSliceWrite q v s) = some (kept s) := by simp [execSliceWrite]

@[simp] theorem bindWrite_kept (s : State) (vf : Nat) (v : Byte) : kept (bindWrite s vf v).1 = kept s := by
  simp only [bindWrite]; repeat' split
  all_goals simp

@[simp] theorem execVfBindingWrite_kept (vf v : Byte) (s : State) :
    outKept (execVfBindingWrite vf v s) = some (kept s) := by simp [execVfBindingWrite]

@[simp] theorem adminTake_kept (s : State) (f : Nat) : kept (adminTake s f) = kept s := by simp [adminTake]

@[simp] theorem execCtxCreate_kept (f : Byte) (entry : List W64) (s : State) :
    outKept (execCtxCreate f entry s) = some (kept s) := by simp [execCtxCreate]

@[simp] theorem execCtxDestroy_kept (f : Byte) (entry : List W64) (s : State) :
    outKept (execCtxDestroy f entry s) = some (kept s) := by simp [execCtxDestroy]

@[simp] theorem takeEntry_kept (s : State) (n : Nat) : kept (takeEntry s n) = kept s := by simp [takeEntry]

@[simp] theorem ctxFault_kept (s : State) (n code cause : Nat) : kept (ctxFault s n code cause) = kept s := by simp [ctxFault]

@[simp] theorem sqFault_kept (s : State) (n : Nat) : kept (sqFault s n) = kept s := by simp [sqFault]

@[simp] theorem cqFault_kept (s : State) (n : Nat) : kept (cqFault s n) = kept s := by simp [cqFault]

@[simp] theorem cqRead_kept (s : State) (n i w : Nat) (poison : Bool) :
    kept (cqRead s n i w poison) = kept s := by simp [cqRead]

@[simp] theorem settleCtx_kept (s : State) (n : Nat) : kept (settleCtx s n) = kept s := by simp [settleCtx]

@[simp] theorem execLaunch_kept (n : BitVec 12) (hostEntry : List W64) (s : State) :
    outKept (execLaunch n hostEntry s) = some (kept s) := by
  simp only [execLaunch]; repeat' split
  all_goals simp

@[simp] theorem execSubmissionNop_rises {x₀ : Kept} (n : BitVec 12) (e : List W64) (s : State) (hx : Rises x₀ (kept s)) :
    Risen x₀ (outKept (execSubmissionNop n e s)) := by
  simp only [execSubmissionNop]
  split
  · simp [hx]
  split
  · simp [hx]
  split
  · simp [hx]
  split
  · simp [hx]
  split
  · simp [hx]
  · simp [hx]
  · split
    · next h => simp [writeRecord_rises (by simpa using hx) h]
    · simp [hx]

@[simp] theorem execKernelDoneRecord_rises {x₀ : Kept} (n : BitVec 12) (s : State) (hx : Rises x₀ (kept s)) :
    Risen x₀ (outKept (execKernelDoneRecord n s)) := by
  simp only [execKernelDoneRecord]
  split
  · simp [hx]
  split
  · simp [hx]
  split
  · simp [hx]
  · simp [hx]
  · split
    · simp [hx]
    · next h => simp [writeRecord_rises hx h]

@[simp] theorem execCoalesceTimerExpiry_kept (n : BitVec 12) (s : State) :
    outKept (execCoalesceTimerExpiry n s) = some (kept s) := by simp [execCoalesceTimerExpiry]

/-! What `Machine/Answers.lean` defines. -/

@[simp] theorem accessBack_kept (s : State) (k id : Nat) (bs : Bytes) (poison : Nat) :
    kept (accessBack s k id bs poison) = kept s := by
  simp only [accessBack]; split <;> simp

@[simp] theorem updateCopies_kept (s : State) (c key : Nat) (bs : Bytes) :
    kept (updateCopies s c key bs) = kept s := by simp [updateCopies]

@[simp] theorem dmaBack_kept (s : State) (id : Nat) (f : Nat → Byte) (poison : Nat) :
    kept (dmaBack s id f poison) = kept s := by
  simp only [dmaBack]; split <;> simp

@[simp] theorem lateWrite_kept (s : State) (p : Packet) : kept (lateWrite s p) = kept s := by simp [lateWrite]

@[simp] theorem endpointBack_kept (s : State) (id : Nat) (bs : Bytes) (poison : Nat) :
    kept (endpointBack s id bs poison) = kept s := by
  simp only [endpointBack]; split <;> simp

@[simp] theorem execDataU_kept (a : Agent) (line : BitVec 31) (s : State) : outKept (execDataU a line s) = some (kept s) := by
  simp only [execDataU]
  split
  · simp
  · next h =>
    repeat' split
    all_goals simp [arrive_kept h]

@[simp] theorem execAck_kept (a : Agent) (line : BitVec 31) (s : State) : outKept (execAck a line s) = some (kept s) := by
  simp only [execAck]
  split
  · simp
  · next h =>
    repeat' split
    all_goals simp [arrive_kept h]

@[simp] theorem addLoss_kept (s : State) (kind : Nat) (t : FabTxn) : kept (addLoss s kind t) = kept s := by simp [addLoss]

@[simp] theorem closeTxn_kept (s : State) (id : Nat) : kept (closeTxn s id) = kept s := by simp [closeTxn]

@[simp] theorem lineFree_kept (s : State) (k : Nat) (t : FabTxn) : kept (lineFree s k t) = kept s := by simp [lineFree]

@[simp] theorem writeFailed_kept (s : State) (t : FabTxn) (code : Nat) : kept (writeFailed s t code) = kept s := by
  simp only [writeFailed]; repeat' split
  all_goals simp

@[simp] theorem readBack_kept (s : State) (t : FabTxn) (bs : Bytes) (poison : Nat) :
    kept (readBack s t bs poison) = kept s := by
  simp only [readBack]; split <;> simp

@[simp] theorem writeBack_kept (s : State) (t : FabTxn) : kept (writeBack s t) = kept s := by
  simp only [writeBack]; split <;> simp

@[simp] theorem txnLost_kept (s : State) (t : FabTxn) : kept (txnLost s t) = kept s := by simp [txnLost]

theorem takeEp_kept {s t : State} {ty : Nat} {p : Packet} {q : Option Nat} (h : takeEp s ty = some (p, q, t)) :
    kept t = kept s := by
  unfold takeEp at h
  split at h
  · split at h
    · cases h; simp
    · cases h
  · cases h

@[simp] theorem execRdRsp_kept (s : State) : outKept (execRdRsp s) = some (kept s) := by
  simp only [execRdRsp]
  split
  · simp
  · next h => split <;> simp [takeEp_kept h]

@[simp] theorem execWrAck_kept (s : State) : outKept (execWrAck s) = some (kept s) := by
  simp only [execWrAck]
  split
  · simp
  · next h => split <;> simp [takeEp_kept h]

@[simp] theorem execFabTxnTimeout_kept (id : W16) (s : State) : outKept (execFabTxnTimeout id s) = some (kept s) := by
  simp only [execFabTxnTimeout]; split <;> simp

@[simp] theorem execPcieCompletion_kept (tag : W16) (data : List Byte) (s : State) :
    outKept (execPcieCompletion tag data s) = some (kept s) := by
  simp only [execPcieCompletion]; repeat' split
  all_goals simp

/-! What `Machine/Resets.lean` defines. -/

@[simp] theorem testWays_kept (s : State) (out : List Nat) : kept (testWays s out).2 = kept s := by
  simp only [testWays]; split <;> simp

@[simp] theorem resetUnits_rises {x₀ : Kept} (s : State) (hx : Rises x₀ (kept s)) : Rises x₀ (kept (resetUnits s)) := by
  have empty : Rises x₀ ((Mem.reset.hbm : Memory), s.sec.minSvn) := ⟨fun _ => rfl, hx.2⟩
  simp [resetUnits, empty]

@[simp] theorem endTests_kept (s : State) (res : Nat) : kept (endTests s res) = kept s := by simp [endTests]

@[simp] theorem resetModule_rises {x₀ : Kept} (s : State) (hx : Rises x₀ (kept s)) :
    Rises x₀ (kept (resetModule s)) := by simp [resetModule, hx]

@[simp] theorem dropBank_kept (s : State) : kept (dropBank s) = kept s := by
  simp only [dropBank]; split <;> simp

@[simp] theorem resetAll_rises {x₀ : Kept} (s : State) (hx : Rises x₀ (kept s)) :
    Rises x₀ (kept (resetAll s)) := by simp [resetAll, hx]

@[simp] theorem setDomainRun_kept (s : State) (n : Nat) (on : Bool) :
    kept (setDomainRun s n on) = kept s := by simp [setDomainRun]

@[simp] theorem setDomains_kept (s : State) (ns : List Nat) (on : Bool) :
    kept (setDomains s ns on) = kept s := by simp [setDomains]

@[simp] theorem settlePower_kept (s : State) : kept (settlePower s) = kept s := by simp [settlePower]

@[simp] theorem enterStandby_rises {x₀ : Kept} (s : State) (trip : Bool) (hx : Rises x₀ (kept s)) :
    Rises x₀ (kept (enterStandby s trip)) := by simp [enterStandby, hx]

@[simp] theorem powerOff_rises {x₀ : Kept} (s : State) (hx : Rises x₀ (kept s)) :
    Rises x₀ (kept (powerOff s)) := by simp [powerOff, hx]

@[simp] theorem startFrom_kept (s : State) (step : Byte) : kept (startFrom s step) = kept s := by simp [startFrom]

@[simp] theorem resetFull_rises {x₀ : Kept} (s : State) (cmd : Bool) (hx : Rises x₀ (kept s)) :
    Rises x₀ (kept (resetFull s cmd)) := by simp [resetFull, hx]

@[simp] theorem resetRecovery_rises {x₀ : Kept} (s : State) (st : ModState) (cmd : Bool) (hx : Rises x₀ (kept s)) :
    Rises x₀ (kept (resetRecovery s st cmd)) := by simp [resetRecovery, hx]

@[simp] theorem doReset_rises {x₀ : Kept} (s : State) (code : Nat) (hx : Rises x₀ (kept s)) :
    Rises x₀ (kept (doReset s code)) := by
  simp only [doReset]; split <;> simp [hx]

@[simp] theorem resetCmd_kept (s : State) (code : Nat) : kept (resetCmd s code).1 = kept s := by simp [resetCmd]

@[simp] theorem runReset_rises {x₀ : Kept} (s : State) (code : Nat) (hx : Rises x₀ (kept s)) :
    Risen x₀ (outKept (runReset s code)) := by simp [runReset, hx]

@[simp] theorem execResetFull_rises {x₀ : Kept} (s : State) (hx : Rises x₀ (kept s)) :
    Risen x₀ (outKept (execResetFull s)) := by simp [execResetFull, hx]

@[simp] theorem execResetRecovery_rises {x₀ : Kept} (s : State) (hx : Rises x₀ (kept s)) :
    Risen x₀ (outKept (execResetRecovery s)) := by simp [execResetRecovery, hx]

@[simp] theorem execResetEnterStandby_rises {x₀ : Kept} (s : State) (hx : Rises x₀ (kept s)) :
    Risen x₀ (outKept (execResetEnterStandby s)) := by simp [execResetEnterStandby, hx]

@[simp] theorem execResetLeaveStandby_rises {x₀ : Kept} (s : State) (hx : Rises x₀ (kept s)) :
    Risen x₀ (outKept (execResetLeaveStandby s)) := by simp [execResetLeaveStandby, hx]

@[simp] theorem destroyCtxs_kept (s : State) (p : Ctx → Bool) : kept (destroyCtxs s p) = kept s := by simp [destroyCtxs]

@[simp] theorem forgetDestroy_kept (s : State) (p : Nat → Bool) : kept (forgetDestroy s p) = kept s := by simp [forgetDestroy]

@[simp] theorem vfReset_kept (s : State) (f : Nat) : kept (vfReset s f) = kept s := by simp [vfReset]

@[simp] theorem pfReset_kept (s : State) : kept (pfReset s) = kept s := by simp [pfReset]

@[simp] theorem execVfFlr_kept (vf : Byte) (s : State) : outKept (execVfFlr vf s) = some (kept s) := by simp [execVfFlr]

@[simp] theorem execPfFlr_kept (s : State) : outKept (execPfFlr s) = some (kept s) := by simp [execPfFlr]

@[simp] theorem pcieReset_kept (s : State) : kept (pcieReset s) = kept s := by simp [pcieReset]

@[simp] theorem execPerstAssert_kept (s : State) : outKept (execPerstAssert s) = some (kept s) := by simp [execPerstAssert]

@[simp] theorem execPerstRelease_kept (s : State) : outKept (execPerstRelease s) = some (kept s) := by simp [execPerstRelease]

@[simp] theorem execHotReset_kept (s : State) : outKept (execHotReset s) = some (kept s) := by simp [execHotReset]

@[simp] theorem linkUp_kept (s : State) (speed : BitVec 4) (width : BitVec 5) (flit : Bool) :
    kept (linkUp s speed width flit) = kept s := by simp [linkUp]

@[simp] theorem execPcieLinkRetrain_kept (speed : BitVec 4) (width : BitVec 5) (flit : Bool) (s : State) :
    outKept (execPcieLinkRetrain speed width flit s) = some (kept s) := by simp [execPcieLinkRetrain]

/-! What `Machine/Reliab.lean` defines. -/

@[simp] theorem addRecord_kept (s : State) (r : Recov) (action : Nat) (fin : W64) (us : W32) :
    kept (addRecord s r action fin us) = kept s := by simp [addRecord]

@[simp] theorem elapsedUs_kept (s : State) (r : Recov) : kept (elapsedUs s r).2 = kept s := by simp [elapsedUs]

@[simp] theorem endRecord_kept (s : State) (r : Recov) (action : Nat) :
    kept (endRecord s r action) = kept s := by simp [endRecord]

@[simp] theorem dropRecov_kept (s : State) (r : Recov) : kept (dropRecov s r) = kept s := by simp [dropRecov]

@[simp] theorem resetCore_kept (s : State) (k : Nat) : kept (resetCore s k) = kept s := by simp [resetCore]

@[simp] theorem poisonLine_kept (s : State) (line : Nat) : kept (poisonLine s line) = kept s := by simp [poisonLine]

@[simp] theorem homesDrop_kept (s : State) (c : Nat) : kept (homesDrop s c) = kept s := by simp [homesDrop]

@[simp] theorem resetCluster_kept (s : State) (c : Nat) : kept (resetCluster s c) = kept s := by simp [resetCluster]

@[simp] theorem dropHomeLines_kept (s : State) (d : Nat) : kept (dropHomeLines s d) = kept s := by simp [dropHomeLines]

@[simp] theorem resetDie_kept (s : State) (d : Nat) : kept (resetDie s d) = kept s := by simp [resetDie]

@[simp] theorem tearDownWhere_kept (s : State) (p : Nat → Ctx → Bool) :
    kept (tearDownWhere s p) = kept s := by simp [tearDownWhere]

@[simp] theorem loseGroup_kept (s : State) (p g : Nat) : kept (loseGroup s p g) = kept s := by simp [loseGroup]

@[simp] theorem startModule_rises {x₀ : Kept} (s : State) (r : Recov) (hx : Rises x₀ (kept s)) :
    Rises x₀ (kept (startModule s r)) := by simp [startModule, hx]

@[simp] theorem startEffects_kept (s : State) (d : Domain) (u cause : Nat) : kept (startEffects s d u cause) = kept s := by
  simp only [startEffects]; repeat' split
  all_goals simp

@[simp] theorem addResult_kept (s : State) (t : Test) (res : Nat) : kept (addResult s t res) = kept s := by simp [addResult]

@[simp] theorem failTest_kept (s : State) (t : Test) : kept (failTest s t) = kept s := by
  simp only [failTest]; split <;> simp

@[simp] theorem beginRecov_rises {x₀ : Kept} (s : State) (r : Recov) (hx : Rises x₀ (kept s)) :
    Rises x₀ (kept (beginRecov s r)) := by simp [beginRecov, hx]

@[simp] theorem restartModule_rises {x₀ : Kept} (s : State) (hx : Rises x₀ (kept s)) : Rises x₀ (kept (restartModule s)) := by
  simp only [restartModule]; split <;> simp [hx]

@[simp] theorem escalate_rises {x₀ : Kept} (s : State) (r : Recov) (hx : Rises x₀ (kept s)) :
    Rises x₀ (kept (escalate s r)) := by simp [escalate, hx]

@[simp] theorem countFault_kept (s : State) (d : Domain) (u : Nat) : kept (countFault s d u) = kept s := by simp [countFault]

@[simp] theorem newChain_rises {x₀ : Kept} (s : State) (d : Domain) (u cause : Nat) (st : W64) (hx : Rises x₀ (kept s)) :
    Rises x₀ (kept (newChain s d u cause st)) := by simp [newChain, hx]

@[simp] theorem absorb_kept (s : State) (r : Recov) (d : Domain) (u cause : Nat) :
    kept (absorb s r d u cause) = kept s := by simp [absorb]

@[simp] theorem portFaulted_rises {x₀ : Kept} (s : State) (p : Nat) (hx : Rises x₀ (kept s)) :
    Rises x₀ (kept (portFaulted s p)) := by
  simp only [portFaulted]; split <;> simp [hx]

@[simp] theorem calEnded_rises {x₀ : Kept} (s : State) (t : Test) (hx : Rises x₀ (kept s)) :
    Rises x₀ (kept (calEnded s t)) := by
  simp only [calEnded]; split <;> simp [hx]

@[simp] theorem faultDetect_rises {x₀ : Kept} (s : State) (d : Domain) (u cause : Nat) (hx : Rises x₀ (kept s)) :
    Rises x₀ (kept (faultDetect s d u cause)) := by
  simp only [faultDetect]; repeat' split
  all_goals simp [hx]

@[simp] theorem faultTogether_rises {x₀ : Kept} (s : State) (fs : List FaultIn) (hx : Rises x₀ (kept s)) :
    Rises x₀ (kept (faultTogether s fs)) := by
  refine rises_foldl (fun t f ht => ?_) hx
  split <;> simp [ht]

@[simp] theorem execFaultDetect_rises {x₀ : Kept} (d : Domain) (unit : BitVec 10) (cause : FaultCauses) (s : State)
    (hx : Rises x₀ (kept s)) : Risen x₀ (outKept (execFaultDetect d unit cause s)) := by simp [execFaultDetect, hx]

@[simp] theorem tearDownNoFit_kept (s : State) : kept (tearDownNoFit s) = kept s := by simp [tearDownNoFit]

@[simp] theorem checkDies_kept (s : State) : kept (checkDies s) = kept s := by simp [checkDies]

@[simp] theorem poisonStacks_kept (s : State) (d : Nat) : kept (poisonStacks s d) = kept s := by simp [poisonStacks]

@[simp] theorem relock_kept (s : State) (d : Domain) (u cause : Nat) : kept (relock s d u cause) = kept s := by
  simp only [relock]; split <;> simp

@[simp] theorem finishRecov_kept (s : State) (r : Recov) (out : Bool) (us : W32) : kept (finishRecov s r out us) = kept s := by
  simp only [finishRecov]; repeat' split
  all_goals simp

@[simp] theorem execRecoveryComplete_rises {x₀ : Kept} (d : Domain) (unit : BitVec 10) (ok : Bool) (us : W32) (s : State)
    (hx : Rises x₀ (kept s)) : Risen x₀ (outKept (execRecoveryComplete d unit ok us s)) := by
  simp only [execRecoveryComplete]; repeat' split
  all_goals simp [hx]

@[simp] theorem execModuleRecoveryTimeout_rises {x₀ : Kept} (s : State) (hx : Rises x₀ (kept s)) :
    Risen x₀ (outKept (execModuleRecoveryTimeout s)) := by simp [execModuleRecoveryTimeout, hx]

@[simp] theorem execAgentSilentTimeout_rises {x₀ : Kept} (d : Domain) (unit : BitVec 10) (s : State) (hx : Rises x₀ (kept s)) :
    Risen x₀ (outKept (execAgentSilentTimeout d unit s)) := by simp [execAgentSilentTimeout, hx]

@[simp] theorem execHomeTimeout_rises {x₀ : Kept} (line : BitVec 31) (c : Fin 32) (s : State) (hx : Rises x₀ (kept s)) :
    Risen x₀ (outKept (execHomeTimeout line c s)) := by
  simp only [execHomeTimeout]
  split
  · next h => simp [homeTimeout_rises hx h]
  · simp [hx]

@[simp] theorem execPllLossOfLock_rises {x₀ : Kept} (n : Fin 40) (s : State) (hx : Rises x₀ (kept s)) :
    Risen x₀ (outKept (execPllLossOfLock n s)) := by simp [execPllLossOfLock, hx]

@[simp] theorem execUcieModuleOutOfService_rises {x₀ : Kept} (l : DieLink) (m : Fin 16) (s : State) (hx : Rises x₀ (kept s)) :
    Risen x₀ (outKept (execUcieModuleOutOfService l m s)) := by
  simp only [execUcieModuleOutOfService]; repeat' split
  all_goals simp [hx]

@[simp] theorem execLinkReplayComplete_kept (i : Fin 4) (s : State) :
    outKept (execLinkReplayComplete i s) = some (kept s) := by simp [execLinkReplayComplete]

/-! What `Machine/Bcn.lean` defines. -/

@[simp] theorem queueSym_kept (s : State) (p : Nat) (sym : BitVec 3) (data : BitVec 11) :
    kept (queueSym s p sym data) = kept s := by simp [queueSym]

@[simp] theorem sendBeacon_kept (s : State) (n : BitVec 40) : kept (sendBeacon s n) = kept s := by simp [sendBeacon]

@[simp] theorem beaconSymbol_kept (s : State) (p : Nat) (bnum : BitVec 11) :
    kept (beaconSymbol s p bnum) = kept s := by simp [beaconSymbol]

@[simp] theorem execRangingProbe_kept (p : Fin 32) (token : BitVec 7) (s : State) :
    outKept (execRangingProbe p token s) = some (kept s) := by simp [execRangingProbe]

@[simp] theorem execRangingFrameSend_kept (p : Fin 32) (s : State) :
    outKept (execRangingFrameSend p s) = some (kept s) := by simp [execRangingFrameSend]

@[simp] theorem frameNumber_kept (s : State) (p : Nat) (w1 : W64) : kept (frameNumber s p w1) = kept s := by
  simp only [frameNumber]; split <;> simp

@[simp] theorem frameNext_kept (s : State) (p : Nat) (w1 w3 : W64) : kept (frameNext s p w1 w3) = kept s := by simp [frameNext]

@[simp] theorem execRangingFrame_kept (p : Fin 32) (w0 w1 w2 w3 : W64) (s : State) :
    outKept (execRangingFrame p w0 w1 w2 w3 s) = some (kept s) := by simp [execRangingFrame]

@[simp] theorem execMissedSymbol_kept (s : State) : outKept (execMissedSymbol s) = some (kept s) := by simp [execMissedSymbol]

@[simp] theorem execHoldoverExpiry_kept (s : State) :
    outKept (execHoldoverExpiry s) = some (kept s) := by simp [execHoldoverExpiry]

@[simp] theorem periodWrite_kept (s : State) (v : W64) (us : Nat) : kept (periodWrite s v us).1 = kept s := by
  simp only [periodWrite]; repeat' split
  all_goals simp

@[simp] theorem execPeriodChange_kept (v : W64) (untilUs : W32) (s : State) :
    outKept (execPeriodChange v untilUs s) = some (kept s) := by simp [execPeriodChange]

@[simp] theorem execHoldWindowStart_kept (s : State) :
    outKept (execHoldWindowStart s) = some (kept s) := by simp [execHoldWindowStart]

/-! What `Machine/Ecc.lean` defines. -/

@[simp] theorem retireFrame_rises {x₀ : Kept} (s : State) (f : Nat) (unc : Bool) (hx : Rises x₀ (kept s)) :
    Rises x₀ (kept (retireFrame s f unc)) := by simp [retireFrame, hx]

@[simp] theorem putWays_kept (s : State) (st : WayStruct) (u : Nat) (w : Ways) : kept (putWays s st u w) = kept s := by
  simp only [putWays]; split <;> simp

@[simp] theorem addWayRec_kept (s : State) (st : WayStruct) (u way action count window : Nat) :
    kept (addWayRec s st u way action count window) = kept s := by simp [addWayRec]

@[simp] theorem wayError_rises {x₀ : Kept} (s : State) (st : WayStruct) (u way : Nat) (hx : Rises x₀ (kept s)) :
    Rises x₀ (kept (wayError s st u way)) := by
  simp only [wayError]; split <;> simp [hx]

@[simp] theorem execCorrectedError_rises {x₀ : Kept} (p : EccPlace) (s : State) (hx : Rises x₀ (kept s)) :
    Risen x₀ (outKept (execCorrectedError p s)) := by
  simp only [execCorrectedError]; split <;> simp [hx]

@[simp] theorem emptyWay_rises {x₀ : Kept} (s : State) (st : WayStruct) (u way : Nat) (hx : Rises x₀ (kept s)) :
    Rises x₀ (kept (emptyWay s st u way)) := by
  cases st with
  | l1 => simp [emptyWay, hx]
  | l2 => simp [emptyWay, hx]
  | dir =>
    refine rises_foldl (fun t e ht => ?_) hx
    split
    · exact ht
    · exact evictEntry_rises t e e.line ht

@[simp] theorem execWayOutOfService_rises {x₀ : Kept} (st : WayStruct) (unit : Fin 256) (way : Fin 16) (s : State)
    (hx : Rises x₀ (kept s)) : Risen x₀ (outKept (execWayOutOfService st unit way s)) := by
  simp only [execWayOutOfService]; split <;> simp [hx]

@[simp] theorem tagError_kept (s : State) (k p : Nat) : kept (tagError s k p) = kept s := by
  simp only [tagError]; split <;> simp

@[simp] theorem execEccUncorrectable_rises {x₀ : Kept} (p : UncPlace) (s : State) (hx : Rises x₀ (kept s)) :
    Risen x₀ (outKept (execEccUncorrectable p s)) := by
  simp only [execEccUncorrectable]; split <;> simp [hx]

@[simp] theorem beginTest_kept (s : State) (t : Test) : kept (beginTest s t) = kept s := by
  simp only [beginTest]; repeat' split
  all_goals simp

@[simp] theorem selfTest_kept (s : State) (op : Nat) (c : TestCmd) : kept (selfTest s op c).1 = kept s := by
  simp only [selfTest]; repeat' split
  all_goals simp

@[simp] theorem execTestLogic_kept (c : TestCmd) (s : State) :
    outKept (execTestLogic c s) = some (kept s) := by simp [execTestLogic]

@[simp] theorem execTestMemory_kept (c : TestCmd) (s : State) :
    outKept (execTestMemory c s) = some (kept s) := by simp [execTestMemory]

@[simp] theorem execTestBoth_kept (c : TestCmd) (s : State) :
    outKept (execTestBoth c s) = some (kept s) := by simp [execTestBoth]

@[simp] theorem execTestOpticalCal_kept (c : TestCmd) (s : State) :
    outKept (execTestOpticalCal c s) = some (kept s) := by simp [execTestOpticalCal]

@[simp] theorem execTestCancel_kept (c : TestCmd) (s : State) :
    outKept (execTestCancel c s) = some (kept s) := by simp [execTestCancel]

@[simp] theorem execSelftestStart_kept (tag : W32) (s : State) : outKept (execSelftestStart tag s) = some (kept s) := by
  simp only [execSelftestStart]; split <;> simp

@[simp] theorem startCals_kept (s : State) : kept (startCals s) = kept s := by simp [startCals]

@[simp] theorem unretire_kept (s : State) (f : Nat) : kept (unretire s f) = kept s := by
  simp only [unretire]; split <;> simp

@[simp] theorem endUnitTest_rises {x₀ : Kept} (s : State) (t : Test) (failing passing : List Nat) (hx : Rises x₀ (kept s)) :
    Rises x₀ (kept (endUnitTest s t failing passing)) := by
  simp only [endUnitTest]
  have tested : Rises x₀ (kept ((failing.filter fun f => f / 2 ^ 18 == t.cmd.unit.toNat).foldl (fun s f => retireFrame s f true)
      (cohZero s (t.cmd.unit.toNat * 2 ^ 30) ((t.cmd.unit.toNat + 1) * 2 ^ 30)))) :=
    rises_foldl (fun u f hu => retireFrame_rises u f true hu) (cohZero_rises s _ _ hx)
  split
  · refine rises_foldl (fun u f hu => ?_) tested
    split <;> simp [hu]
  · exact tested

@[simp] theorem execSelftestEnd_rises {x₀ : Kept} (tag : W32) (pass : Bool) (failing passing : List Nat) (s : State)
    (hx : Rises x₀ (kept s)) : Risen x₀ (outKept (execSelftestEnd tag pass failing passing s)) := by
  simp only [execSelftestEnd]; repeat' split
  all_goals simp [hx]

/-! What `Machine/Link.lean` defines. -/

@[simp] theorem execLaneSignalDetect_kept (p : Fin 32) (groups : BitVec 4) (s : State) :
    outKept (execLaneSignalDetect p groups s) = some (kept s) := by simp [execLaneSignalDetect]

@[simp] theorem execTrainComplete_kept (p : Fin 32) (groups : BitVec 4) (peerWidth : BitVec 2) (s : State) :
    outKept (execTrainComplete p groups peerWidth s) = some (kept s) := by simp [execTrainComplete]

@[simp] theorem learnPeer_kept (s : State) (p : Nat) (h : Hello) : kept (learnPeer s p h) = kept s := by
  simp only [learnPeer]; split <;> simp

@[simp] theorem execHelloFrame_kept (p : Fin 32) (h : Hello) (s : State) :
    outKept (execHelloFrame p h s) = some (kept s) := by simp [execHelloFrame]

@[simp] theorem takeBundle_kept (s : State) (p : Nat) : kept (takeBundle s p) = kept s := by simp [takeBundle]

@[simp] theorem takeCipher_kept (s : State) (p : Nat) (ours : BitVec 256) :
    kept (takeCipher s p ours) = kept s := by simp [takeCipher]

@[simp] theorem secureStep_kept (s : State) (p : Nat) : kept (secureStep s p) = kept s := by
  simp only [secureStep]; repeat' split
  all_goals simp

@[simp] theorem execSecureComplete_kept (p : Fin 32) (peer : BitVec 256) (s : State) :
    outKept (execSecureComplete p peer s) = some (kept s) := by simp [execSecureComplete]

@[simp] theorem execRangeComplete_kept (p : Fin 32) (rtt : W32) (s : State) :
    outKept (execRangeComplete p rtt s) = some (kept s) := by simp [execRangeComplete]

@[simp] theorem portFault_rises {x₀ : Kept} (s : State) (p : Nat) (st : PortState) (hx : Rises x₀ (kept s)) :
    Rises x₀ (kept (portFault s p st)) := by simp [portFault, hx]

@[simp] theorem bringUpFails_rises {x₀ : Kept} (s : State) (p : Nat) (hx : Rises x₀ (kept s)) :
    Rises x₀ (kept (bringUpFails s p)) := by simp [bringUpFails, hx]

@[simp] theorem execPortStateTimeout_rises {x₀ : Kept} (p : Fin 32) (s : State) (hx : Rises x₀ (kept s)) :
    Risen x₀ (outKept (execPortStateTimeout p s)) := by
  simp only [execPortStateTimeout]; split <;> simp [hx]

@[simp] theorem execPortRetry_kept (p : Fin 32) (s : State) : outKept (execPortRetry p s) = some (kept s) := by
  simp only [execPortRetry]; split <;> simp

@[simp] theorem narrow_rises {x₀ : Kept} (s : State) (p g : Nat) (hx : Rises x₀ (kept s)) :
    Rises x₀ (kept (narrow s p g)) := by simp [narrow, hx]

@[simp] theorem lastGroup_rises {x₀ : Kept} (s : State) (p g : Nat) (hx : Rises x₀ (kept s)) :
    Rises x₀ (kept (lastGroup s p g)) := by simp [lastGroup, hx]

@[simp] theorem execLaneGroupLoss_rises {x₀ : Kept} (p : Fin 32) (g : Fin 4) (s : State) (hx : Rises x₀ (kept s)) :
    Risen x₀ (outKept (execLaneGroupLoss p g s)) := by
  simp only [execLaneGroupLoss]; repeat' split
  all_goals simp [hx]

@[simp] theorem execWidthComplete_kept (p : Fin 32) (s : State) :
    outKept (execWidthComplete p s) = some (kept s) := by simp [execWidthComplete]

@[simp] theorem execLinkKeySwitch_kept (p : Fin 32) (s : State) :
    outKept (execLinkKeySwitch p s) = some (kept s) := by simp [execLinkKeySwitch]

@[simp] theorem portCtrlWrite_rises {x₀ : Kept} (s : State) (p : Nat) (v : W32) (hx : Rises x₀ (kept s)) :
    Rises x₀ (kept (portCtrlWrite s p v).1) := by
  simp only [portCtrlWrite]; repeat' split
  all_goals simp [hx]

@[simp] theorem execPortEnWrite_rises {x₀ : Kept} (p : Fin 32) (v : W32) (s : State) (hx : Rises x₀ (kept s)) :
    Risen x₀ (outKept (execPortEnWrite p v s)) := by simp [execPortEnWrite, hx]

@[simp] theorem execPortDataWrite_rises {x₀ : Kept} (p : Fin 32) (v : W32) (s : State) (hx : Rises x₀ (kept s)) :
    Risen x₀ (outKept (execPortDataWrite p v s)) := by simp [execPortDataWrite, hx]

@[simp] theorem passUnits_kept (s : State) (p : Nat) (abt : Bool) : kept (passUnits s p abt).1 = kept s := by
  simp only [passUnits]; split <;> simp

@[simp] theorem takePackets_kept (s : State) (p : Nat) (abt : Bool) (n : Nat) : kept (takePackets s p abt n) = kept s := by
  induction n generalizing s abt with
  | zero => rfl
  | succ n ih =>
    simp only [takePackets]
    repeat' split
    all_goals simp [ih]

@[simp] theorem echoSample_kept (s : State) (p : Nat) (token : BitVec 7) (wait : Nat) :
    kept (echoSample s p token wait) = kept s := by simp [echoSample]

@[simp] theorem symbolArrives_kept (s : State) (p sym data : Nat) : kept (symbolArrives s p sym data) = kept s := by
  simp only [symbolArrives]; split <;> simp

@[simp] theorem flitOut_kept (s : State) (p : Nat) (h : HeldFlit) (l : LinkLayer) :
    kept (flitOut s p h l) = kept s := by simp [flitOut]

@[simp] theorem ageWaits_kept (s : State) (q : Nat) : kept (ageWaits s q) = kept s := by simp [ageWaits]

@[simp] theorem sendSlot_kept (s : State) (p : Nat) : kept (sendSlot s p) = kept s := by
  simp only [sendSlot]; split <;> simp

@[simp] theorem badFlit_rises {x₀ : Kept} (s : State) (p : Nat) (tag : Bool) (seq : Nat) (hx : Rises x₀ (kept s)) :
    Rises x₀ (kept (badFlit s p tag seq)) := by simp [badFlit, hx]

@[simp] theorem goodFlit_kept (s : State) (p : Nat) (f : FlitIn) : kept (goodFlit s p f) = kept s := by simp [goodFlit]

@[simp] theorem flitArrives_rises {x₀ : Kept} (s : State) (p : Nat) (f : FlitIn) (hx : Rises x₀ (kept s)) :
    Rises x₀ (kept (flitArrives s p f)) := by
  simp only [flitArrives]; split <;> simp [hx]

@[simp] theorem countSlot_kept (s : State) (p : Nat) : kept (countSlot s p) = kept s := by simp [countSlot]

@[simp] theorem execFlitArrival_rises {x₀ : Kept} (p : Fin 32) (f : FlitIn) (s : State) (hx : Rises x₀ (kept s)) :
    Risen x₀ (outKept (execFlitArrival p f s)) := by
  simp only [execFlitArrival]; split <;> simp [hx]

@[simp] theorem allocWrite_kept (s : State) (p : Nat) (bs : List Byte) : kept (allocWrite s p bs).1 = kept s := by
  simp only [allocWrite]; split <;> simp

/-! What `Machine/Switch.lean` defines. -/

@[simp] theorem leaveInput_kept (s : State) (i vc : Nat) : kept (leaveInput s i vc) = kept s := by
  simp only [leaveInput]; split <;> simp

@[simp] theorem beginPacket_kept (s : State) (i q : Nat) (p : Packet) :
    kept (beginPacket s i q p) = kept s := by simp [beginPacket]

@[simp] theorem leaveArriving_kept (s : State) (i q : Nat) (p : Packet) :
    kept (leaveArriving s i q p) = kept s := by simp [leaveArriving]

@[simp] theorem discard_kept (s : State) (i kind : Nat) (p : Packet) : kept (discard s i kind p) = kept s := by
  simp only [discard]; repeat' split
  all_goals simp

@[simp] theorem execPacketForward_kept (input : Fin 33) (vc : BitVec 3) (s : State) :
    outKept (execPacketForward input vc s) = some (kept s) := by
  simp only [execPacketForward]; repeat' split
  all_goals simp

@[simp] theorem freeUnits_kept (n : Nat) (s : State) : kept (freeUnits n s).2 = kept s := by
  induction n generalizing s with
  | zero => rfl
  | succ n ih => simp [freeUnits, ih]

@[simp] theorem refuseReq_kept (s : State) (p : Packet) (port : Option Nat) (status : Nat) :
    kept (refuseReq s p port status) = kept s := by
  simp only [refuseReq]; split <;> simp

@[simp] theorem serveReq_kept (s : State) (p : Packet) (port : Option Nat) :
    kept (serveReq s p port) = kept s := by simp [serveReq]

@[simp] theorem remoteReq_kept (s : State) (type : Nat) : outKept (remoteReq s type) = some (kept s) := by
  simp only [remoteReq]
  split
  · simp
  · next h => simp [takeEp_kept h]

@[simp] theorem execRdReq_kept (s : State) : outKept (execRdReq s) = some (kept s) := by simp [execRdReq]

@[simp] theorem execWrReq_kept (s : State) : outKept (execWrReq s) = some (kept s) := by simp [execWrReq]

@[simp] theorem execMgmt_kept (s : State) : outKept (execMgmt s) = some (kept s) := by
  simp only [execMgmt]
  split
  · simp
  · next h => simp [takeEp_kept h]

@[simp] theorem execEventPkt_kept (s : State) : outKept (execEventPkt s) = some (kept s) := by
  simp only [execEventPkt]
  split
  · simp
  · next h => split <;> simp [takeEp_kept h]

@[simp] theorem nodeWrite_kept (s : State) (v : W32) : kept (nodeWrite s v).1 = kept s := by
  simp only [nodeWrite]; split <;> simp

@[simp] theorem execNodeIdWrite_kept (v : W32) (s : State) :
    outKept (execNodeIdWrite v s) = some (kept s) := by simp [execNodeIdWrite]

@[simp] theorem routeCommit_kept (s : State) (v : W64) : kept (routeCommit s v).1 = kept s := by
  simp only [routeCommit]; repeat' split
  all_goals simp

@[simp] theorem execRouteCommit_kept (v : W64) (s : State) :
    outKept (execRouteCommit v s) = some (kept s) := by simp [execRouteCommit]

@[simp] theorem execRouteCommitCancel_kept (v : W64) (s : State) :
    outKept (execRouteCommitCancel v s) = some (kept s) := by simp [execRouteCommitCancel]

/-! What `Machine/Edge.lean` defines. -/

@[simp] theorem edgeNumber_kept (s : State) : kept (edgeNumber s) = kept s := by simp [edgeNumber]

@[simp] theorem edgeSkew_kept (s : State) (skew : Int) : kept (edgeSkew s skew) = kept s := by
  simp only [edgeSkew]; split <;> simp

@[simp] theorem edgeBeacon_kept (s : State) (skew : Int) : kept (edgeBeacon s skew) = kept s := by
  simp only [edgeBeacon]; split <;> simp

@[simp] theorem edgeFreeze_kept (s : State) : kept (edgeFreeze s) = kept s := by simp [edgeFreeze]

@[simp] theorem edgePeriod_kept (s : State) : kept (edgePeriod s).1 = kept s := by
  simp only [edgePeriod]; split <;> simp

@[simp] theorem edgePort_kept (s : State) (p : Nat) : kept (edgePort s p) = kept s := by
  simp only [edgePort]; split <;> simp

@[simp] theorem edgeCommit_kept (s : State) : kept (edgeCommit s) = kept s := by simp [edgeCommit]

@[simp] theorem edgeObjects_kept (s : State) : kept (edgeObjects s) = kept s := by simp [edgeObjects]

@[simp] theorem clearWindow_kept (s : State) : kept (clearWindow s) = kept s := by simp [clearWindow]

@[simp] theorem edgeWindow_kept (s : State) (before : BitVec 40) (newPeriod : Bool) :
    kept (edgeWindow s before newPeriod) = kept s := by simp [edgeWindow]

@[simp] theorem releaseHeld_kept (s : State) (p : Packet) : kept (releaseHeld s p) = kept s := by
  simp only [releaseHeld]; split <;> simp

@[simp] theorem edgeHold_kept (s : State) : kept (edgeHold s) = kept s := by simp [edgeHold]

@[simp] theorem edgeGovernor_kept (s : State) (i : EdgeIn) : kept (edgeGovernor s i) = kept s := by simp [edgeGovernor]

@[simp] theorem edgeIdle_kept (s : State) : kept (edgeIdle s) = kept s := by simp [edgeIdle]

@[simp] theorem edgeWatch_kept (s : State) : kept (edgeWatch s) = kept s := by simp [edgeWatch]

@[simp] theorem edgeTimes_kept (s : State) : kept (edgeTimes s) = kept s := by simp [edgeTimes]

@[simp] theorem edgeDry_kept (s : State) (p : Nat) : kept (edgeDry s p) = kept s := by simp [edgeDry]

@[simp] theorem edgeAge_kept (s : State) : kept (edgeAge s) = kept s := by simp [edgeAge]

@[simp] theorem execBeaconEdge_kept (i : EdgeIn) (s : State) :
    outKept (execBeaconEdge i s) = some (kept s) := by simp [execBeaconEdge]

/-! What `Machine/Startup.lean` defines. -/

@[simp] theorem execInputTurnOn_kept (s : State) : outKept (execInputTurnOn s) = some (kept s) := by simp [execInputTurnOn]

@[simp] theorem inputLost_rises {x₀ : Kept} (s : State) (hx : Rises x₀ (kept s)) :
    Rises x₀ (kept (inputLost s)) := by simp [inputLost, hx]

@[simp] theorem execInputUndervoltage_rises {x₀ : Kept} (s : State) (hx : Rises x₀ (kept s)) :
    Risen x₀ (outKept (execInputUndervoltage s)) := by simp [execInputUndervoltage, hx]

@[simp] theorem execInputOvervoltage_rises {x₀ : Kept} (s : State) (hx : Rises x₀ (kept s)) :
    Risen x₀ (outKept (execInputOvervoltage s)) := by simp [execInputOvervoltage, hx]

@[simp] theorem execPresentOpen_rises {x₀ : Kept} (s : State) (hx : Rises x₀ (kept s)) :
    Risen x₀ (outKept (execPresentOpen s)) := by simp [execPresentOpen, hx]

@[simp] theorem execPowerSample_kept (mw : W32) (dv : BitVec 10) (s : State) :
    outKept (execPowerSample mw dv s) = some (kept s) := by simp [execPowerSample]

@[simp] theorem pwrCapWrite_kept (s : State) (v : W32) : kept (pwrCapWrite s v).1 = kept s := by
  simp only [pwrCapWrite]; split <;> simp

@[simp] theorem execPwrCapWrite_kept (v : W32) (s : State) :
    outKept (execPwrCapWrite v s) = some (kept s) := by simp [execPwrCapWrite]

@[simp] theorem execFastCut_kept (s : State) : outKept (execFastCut s) = some (kept s) := by simp [execFastCut]

@[simp] theorem execThermalTrip_rises {x₀ : Kept} (die : Fin 5) (t : Byte) (s : State) (hx : Rises x₀ (kept s)) :
    Risen x₀ (outKept (execThermalTrip die t s)) := by simp [execThermalTrip, hx]

@[simp] theorem emptyDie_kept (s : State) (d : Nat) : kept (emptyDie s d) = kept s := by simp [emptyDie]

@[simp] theorem execCoreArrayDomainStop_kept (d : Fin 4) (s : State) :
    outKept (execCoreArrayDomainStop d s) = some (kept s) := by simp [execCoreArrayDomainStop]

@[simp] theorem execCoreArrayRelock_kept (d : Fin 4) (s : State) :
    outKept (execCoreArrayRelock d s) = some (kept s) := by simp [execCoreArrayRelock]

@[simp] theorem haltStart_kept (s : State) : kept (haltStart s) = kept s := by simp [haltStart]

@[simp] theorem nextStep_kept (s : State) : kept (nextStep s) = kept s := by simp [nextStep]

@[simp] theorem otherBank_kept (s : State) (b : Nat) : kept (otherBank s b) = kept s := by simp [otherBank]

@[simp] theorem failStage_kept (s : State) : kept (failStage s) = kept s := by
  simp only [failStage]; split <;> simp

@[simp] theorem stepBank_kept (s : State) : kept (stepBank s) = kept s := by
  simp only [stepBank]; split <;> simp

@[simp] theorem drawModuleKey_kept (s : State) : kept (drawModuleKey s) = kept s := by simp [drawModuleKey]

@[simp] theorem stepIdentity_kept (s : State) : kept (stepIdentity s) = kept s := by simp [stepIdentity]

@[simp] theorem stepDies_kept (s : State) (bad : BitVec 4) (chs : List Nat) :
    kept (stepDies s bad chs) = kept s := by simp [stepDies]

@[simp] theorem stepLink_kept (s : State) (i : StepIn) (up : Bool) : kept (stepLink s i up) = kept s := by simp [stepLink]

@[simp] theorem stepPart_rises {x₀ : Kept} (ok : Bool) (s : State) (q : Nat) (hx : Rises x₀ (kept s)) :
    Rises x₀ (kept (stepPart ok s q)) := by
  unfold stepPart
  split
  · have hdone := execPartCreateDone_rises (Fin.ofNat 32 q) s hx
    split
    · next h =>
      rw [h] at hdone
      simpa using hdone
    · exact hx
  · simp [hx]

@[simp] theorem stepLast_rises {x₀ : Kept} (s : State) (ok : Bool) (hx : Rises x₀ (kept s)) :
    Rises x₀ (kept (stepLast s ok)) := by
  have created := rises_foldl (l := (s.parts.filter (fun e => decide (e.2.st = .creating))).map Prod.fst)
    (fun t q ht => stepPart_rises ok t q ht) hx
  simpa [stepLast] using created

@[simp] theorem stepDone_rises {x₀ : Kept} (s : State) (i : StepIn) (hx : Rises x₀ (kept s)) :
    Rises x₀ (kept (stepDone s i)) := by
  simp only [stepDone]; split <;> simp [hx]

@[simp] theorem stepFailed_rises {x₀ : Kept} (s : State) (bad : BitVec 4) (chs : List Nat) (hx : Rises x₀ (kept s)) :
    Rises x₀ (kept (stepFailed s bad chs)) := by
  simp only [stepFailed]; split <;> simp [hx]

@[simp] theorem execStartupStepComplete_rises {x₀ : Kept} (i : StepIn) (s : State) (hx : Rises x₀ (kept s)) :
    Risen x₀ (outKept (execStartupStepComplete i s)) := by simp [execStartupStepComplete, hx]

@[simp] theorem execStartupStepTimeout_rises {x₀ : Kept} (s : State) (hx : Rises x₀ (kept s)) :
    Risen x₀ (outKept (execStartupStepTimeout s)) := by simp [execStartupStepTimeout, hx]

/-! What `Machine/Sec.lean` defines. -/

@[simp] theorem keyResult_kept (s : State) (st : Nat) : kept (keyResult s st).1 = kept s := by simp [keyResult]

@[simp] theorem keyEstablish_kept (s : State) (c : KeyCmd) (claim : Bool) : kept (keyEstablish s c claim).1 = kept s := by
  simp only [keyEstablish]; repeat' split
  all_goals simp

@[simp] theorem keyGenerate_kept (s : State) (c : KeyCmd) : kept (keyGenerate s c).1 = kept s := by
  simp only [keyGenerate]; repeat' split
  all_goals simp

@[simp] theorem keyRetire_kept (s : State) (c : KeyCmd) : kept (keyRetire s c).1 = kept s := by
  simp only [keyRetire]; repeat' split
  all_goals simp

@[simp] theorem execKeyEstablish_kept (c : KeyCmd) (s : State) :
    outKept (execKeyEstablish c s) = some (kept s) := by simp [execKeyEstablish]

@[simp] theorem execKeyRetire_kept (c : KeyCmd) (s : State) :
    outKept (execKeyRetire c s) = some (kept s) := by simp [execKeyRetire]

@[simp] theorem execKeyGenerate_kept (c : KeyCmd) (s : State) :
    outKept (execKeyGenerate c s) = some (kept s) := by simp [execKeyGenerate]

@[simp] theorem execKeyClaim_kept (c : KeyCmd) (s : State) :
    outKept (execKeyClaim c s) = some (kept s) := by simp [execKeyClaim]

@[simp] theorem startQuote_kept (s : State) (q : Quote) : kept (startQuote s q) = kept s := by simp [startQuote]

@[simp] theorem quoteReq_kept (s : State) (q : Quote) (rsv : BitVec 3) : kept (quoteReq s q rsv).1 = kept s := by
  simp only [quoteReq]; repeat' split
  all_goals simp

@[simp] theorem execQuoteReq_kept (who : Principal) (kind : Byte) (part : BitVec 5) (rsv : BitVec 3) (nonce : BitVec 256)
    (s : State) : outKept (execQuoteReq who kind part rsv nonce s) = some (kept s) := by simp [execQuoteReq]

@[simp] theorem execQuoteSigned_kept (s : State) : outKept (execQuoteSigned s) = some (kept s) := by
  simp only [execQuoteSigned]; repeat' split
  all_goals simp

@[simp] theorem setFw_kept (s : State) (st : FwState) : kept (setFw s st) = kept s := by simp [setFw]

@[simp] theorem fwBegin_kept (s : State) (c : FwCmd) : kept (fwBegin s c).1 = kept s := by
  simp only [fwBegin]; repeat' split
  all_goals simp

@[simp] theorem fwChunk_kept (s : State) (bs : List Byte) : kept (fwChunk s bs).1 = kept s := by
  simp only [fwChunk]; split <;> simp

@[simp] theorem fwCommit_kept (s : State) (c : FwCmd) : kept (fwCommit s c).1 = kept s := by
  simp only [fwCommit]; repeat' split
  all_goals simp

@[simp] theorem fwAbort_kept (s : State) (c : FwCmd) : kept (fwAbort s c).1 = kept s := by
  simp only [fwAbort]; split <;> simp

@[simp] theorem setMinSvn_rises {x₀ : Kept} (s : State) (c : FwCmd) (hx : Rises x₀ (kept s)) :
    Rises x₀ (kept (setMinSvn s c).1) := by
  simp only [setMinSvn]
  split
  · exact hx
  · next h =>
    obtain ⟨-, -, -, hlow⟩ : _ ∧ _ ∧ _ ∧ ¬ c.svn.toNat < s.sec.minSvn.toNat := by simpa only [not_or] using h
    exact ⟨hx.1, Nat.le_trans hx.2 (Nat.le_of_not_lt hlow)⟩

@[simp] theorem execFwBegin_kept (c : FwCmd) (s : State) : outKept (execFwBegin c s) = some (kept s) := by simp [execFwBegin]

@[simp] theorem execFwChunk_kept (data : List Byte) (s : State) :
    outKept (execFwChunk data s) = some (kept s) := by simp [execFwChunk]

@[simp] theorem execFwCommit_kept (c : FwCmd) (s : State) : outKept (execFwCommit c s) = some (kept s) := by simp [execFwCommit]

@[simp] theorem execFwAbort_kept (c : FwCmd) (s : State) : outKept (execFwAbort c s) = some (kept s) := by simp [execFwAbort]

@[simp] theorem execSetMinSvn_rises {x₀ : Kept} (c : FwCmd) (s : State) (hx : Rises x₀ (kept s)) :
    Risen x₀ (outKept (execSetMinSvn c s)) := by simp [execSetMinSvn, hx]

@[simp] theorem execFwVerifyDone_kept (s : State) : outKept (execFwVerifyDone s) = some (kept s) := by simp [execFwVerifyDone]

@[simp] theorem execSpdmMessage_kept (m : Spdm) (s : State) : outKept (execSpdmMessage m s) = some (kept s) := by
  simp only [execSpdmMessage]; split <;> simp

@[simp] theorem execIdeStreamInsecure_kept (stream : Fin 9) (s : State) :
    outKept (execIdeStreamInsecure stream s) = some (kept s) := by simp [execIdeStreamInsecure]

/-! What `Machine/SysRegs.lean` defines. -/

@[simp] theorem sregWrite_kept (s : State) (k v n : Nat) (w : W64) : kept (sregWrite s k v n w) = kept s := by
  simp only [sregWrite]; repeat' split
  all_goals simp

@[simp] theorem sregIssue_kept {o : RriOp} {legal : Bool} {us : List RegUse} {body : Grp → State → Did} {s : State}
    (h : ∀ g t, kept t = kept s → Stays (kept s) (body g t).kept) : outKept (sregIssue o legal us body s) = some (kept s) := by
  unfold sregIssue
  extract_lets
  split
  · exact issuePriv_kept h
  · exact issue_kept h

@[simp] theorem sregRd_kept (o : RriOp) (s : State) : outKept (sregRd o s) = some (kept s) :=
  sregIssue_kept fun g t ht => by
    split
    · simp
    · simp only [Did.kept_ok, stays_some, eachLane_kept, wrReg_kept, implies_true]
      split <;> simp [ht]

@[simp] theorem sregWr_kept (o : RriOp) (s : State) : outKept (sregWr o s) = some (kept s) :=
  sregIssue_kept fun g t ht => by split <;> simp [ht]

@[simp] theorem execSrRd_kept (o : RriOp) (s : State) : outKept (execSrRd o s) = some (kept s) := by simp [execSrRd]

@[simp] theorem execSrWr_kept (o : RriOp) (s : State) : outKept (execSrWr o s) = some (kept s) := by simp [execSrWr]

@[simp] theorem execMxChainWrite_kept (o : RriOp) (s : State) :
    outKept (execMxChainWrite o s) = some (kept s) := by simp [execMxChainWrite]

@[simp] theorem execVeFlagsAccess_kept (o : RriOp) (wr : Bool) (s : State) :
    outKept (execVeFlagsAccess o wr s) = some (kept s) := by simp [execVeFlagsAccess]

@[simp] theorem execTrcMark_kept (o : RriOp) (s : State) : outKept (execTrcMark o s) = some (kept s) := by simp [execTrcMark]

/-! What `Machine/Debug.lean` defines. -/

@[simp] theorem freezeWrite_kept (s : State) (v : W64) : kept (freezeWrite s v).1 = kept s := by
  simp only [freezeWrite]; repeat' split
  all_goals simp

@[simp] theorem execFreezeTriggerWrite_kept (v : W64) (s : State) :
    outKept (execFreezeTriggerWrite v s) = some (kept s) := by simp [execFreezeTriggerWrite]

@[simp] theorem freezeRelease_kept (s : State) (v : Byte) : kept (freezeRelease s v).1 = kept s := by
  simp only [freezeRelease]; repeat' split
  all_goals simp

@[simp] theorem execFreezeRelease_kept (v : Byte) (s : State) :
    outKept (execFreezeRelease v s) = some (kept s) := by simp [execFreezeRelease]

@[simp] theorem counterWrite_kept (s : State) (w : CtrWrite) : kept (counterWrite s w).1 = kept s := by
  simp only [counterWrite]; split <;> simp

@[simp] theorem execCounterWrite_kept (w : CtrWrite) (s : State) :
    outKept (execCounterWrite w s) = some (kept s) := by simp [execCounterWrite]

@[simp] theorem trcCtrlWrite_kept (s : State) (b : Nat) (v : W64) : kept (trcCtrlWrite s b v).1 = kept s := by
  simp only [trcCtrlWrite]; repeat' split
  all_goals simp

@[simp] theorem execTrcCtrlWrite_kept (b : Fin 5) (v : W64) (s : State) :
    outKept (execTrcCtrlWrite b v s) = some (kept s) := by simp [execTrcCtrlWrite]

@[simp] theorem sinkEntry_rises {x₀ : Kept} (s : State) (b : Nat) (e : TraceEnt) (trig : Bool) (hx : Rises x₀ (kept s)) :
    Rises x₀ (kept (sinkEntry s b e trig)) := by simp [sinkEntry, hx]

@[simp] theorem sinkGap_rises {x₀ : Kept} (s : State) (b : Nat) (st : W64) (hx : Rises x₀ (kept s)) :
    Rises x₀ (kept (sinkGap s b st)) := by simp [sinkGap, hx]

@[simp] theorem portArrival_kept (s : State) (b : Nat) : kept (portArrival s b) = kept s := by
  simp only [portArrival]; split <;> simp

@[simp] theorem sinkStep_rises {x₀ : Kept} (s : State) (b : Nat) (hx : Rises x₀ (kept s)) : Rises x₀ (kept (sinkStep s b)) := by
  simp only [sinkStep]; split <;> simp [hx]

@[simp] theorem execTraceEvent_rises {x₀ : Kept} (b : TraceIn) (s : State) (hx : Rises x₀ (kept s)) :
    Risen x₀ (outKept (execTraceEvent b s)) := by
  unfold execTraceEvent
  rw [outKept_next, risen_some]
  refine rises_foldl (fun t _ ht => sinkStep_rises t _ ht) ?_
  split <;> simp [hx]

@[simp] theorem trcDrain_kept (s : State) (b : Nat) (bus : W64) (first rsv count rsv2 : Nat) :
    kept (trcDrain s b bus first rsv count rsv2).1 = kept s := by
  simp only [trcDrain]; repeat' split
  all_goals simp

@[simp] theorem execTrcDrain_kept (b : Fin 5) (bus : W64) (first : BitVec 25) (rsv : BitVec 7) (count : BitVec 25)
    (rsv2 : BitVec 7) (s : State) :
    outKept (execTrcDrain b bus first rsv count rsv2 s) = some (kept s) := by simp [execTrcDrain]

@[simp] theorem execTrcDrainDone_kept (b : Fin 5) (s : State) :
    outKept (execTrcDrainDone b s) = some (kept s) := by simp [execTrcDrainDone]

@[simp] theorem beginGraph_kept (s : State) (scope id : Nat) : kept (beginGraph s scope id).1 = kept s := by simp [beginGraph]

@[simp] theorem graphRequest_kept (s : State) (scope rsv id : Nat) : kept (graphRequest s scope rsv id).1 = kept s := by
  simp only [graphRequest]; repeat' split
  all_goals simp

@[simp] theorem execWaitForGraphRequest_kept (scope : BitVec 2) (rsv : BitVec 6) (id : BitVec 12) (_tag : W32) (s : State) :
    outKept (execWaitForGraphRequest scope rsv id _tag s) = some (kept s) := by simp [execWaitForGraphRequest]

@[simp] theorem execWatchdog_kept (n : BitVec 12) (s : State) :
    outKept (execWatchdog n s) = some (kept s) := by simp [execWatchdog]

@[simp] theorem execGraphPublish_kept (s : State) : outKept (execGraphPublish s) = some (kept s) := by simp [execGraphPublish]

@[simp] theorem dbgCmd_kept (s : State) (stop : Bool) (who : Principal) (rsv n : Nat) :
    kept (dbgCmd s stop who rsv n).1 = kept s := by
  simp only [dbgCmd]; repeat' split
  all_goals simp

@[simp] theorem execDbgStop_kept (who : Principal) (rsv n : BitVec 12) (s : State) :
    outKept (execDbgStop who rsv n s) = some (kept s) := by simp [execDbgStop]

@[simp] theorem execDbgResume_kept (who : Principal) (rsv n : BitVec 12) (s : State) :
    outKept (execDbgResume who rsv n s) = some (kept s) := by simp [execDbgResume]

/-! What `Machine/TransCmd.lean` defines. -/

@[simp] theorem xlatTake_kept (s : State) (f : Nat) : kept (xlatTake s f) = kept s := by simp [xlatTake]

@[simp] theorem xlatDone_kept (s : State) (f status joins access : Nat) (tag : W32) :
    kept (xlatDone s f status joins access tag) = kept s := by simp [xlatDone]

@[simp] theorem untranslate_kept (s : State) (k : Nat) (rs : List (Nat × Nat)) :
    kept (untranslate s k rs) = kept s := by simp [untranslate]

@[simp] theorem invalidate_kept (s : State) (f n lo hi : Nat) (tag : W32) :
    kept (invalidate s f n lo hi tag) = kept s := by simp [invalidate]

@[simp] theorem execInvRange_kept (f : Byte) (cmd : List W64) (s : State) : outKept (execInvRange f cmd s) = some (kept s) := by
  simp only [execInvRange]; repeat' split
  all_goals simp

@[simp] theorem execInvCtx_kept (f : Byte) (cmd : List W64) (s : State) : outKept (execInvCtx f cmd s) = some (kept s) := by
  simp only [execInvCtx]; repeat' split
  all_goals simp

@[simp] theorem wakePage_kept (s : State) (n vpn : Nat) : kept (wakePage s n vpn) = kept s := by simp [wakePage]

@[simp] theorem invalidFault_kept (s : State) (all : List Walker) (w : Walker × W64) :
    kept (invalidFault s all w) = kept s := by
  simp only [invalidFault]; repeat' split
  all_goals simp

@[simp] theorem declareInvalid_kept (s : State) (n : Nat) (r : FaultRec) :
    kept (declareInvalid s n r) = kept s := by simp [declareInvalid]

@[simp] theorem execResolve_kept (f : Byte) (cmd : List W64) (s : State) : outKept (execResolve f cmd s) = some (kept s) := by
  simp only [execResolve]; repeat' split
  all_goals simp

@[simp] theorem execInvalidationDrainComplete_kept (f : Byte) (s : State) :
    outKept (execInvalidationDrainComplete f s) = some (kept s) := by
  simp only [execInvalidationDrainComplete]; split <;> simp

@[simp] theorem hostReq_kept {s : State} (f : HostReq) {g : State → State} (h : kept (g s) = kept s) :
    outKept (hostReq s f g) = some (kept s) := by
  simp [hostReq, h]

@[simp] theorem execTranslationCommandDoorbell_kept (f : HostReq) (tail : W64) (s : State) :
    outKept (execTranslationCommandDoorbell f tail s) = some (kept s) := by simp [execTranslationCommandDoorbell]

@[simp] theorem execAdminSubmissionDoorbell_kept (f : HostReq) (tail : W64) (s : State) :
    outKept (execAdminSubmissionDoorbell f tail s) = some (kept s) := by simp [execAdminSubmissionDoorbell]

@[simp] theorem execCompletionHeadDoorbell_kept (f : HostReq) (ring : Fin 3) (head : W64) (s : State) :
    outKept (execCompletionHeadDoorbell f ring head s) = some (kept s) := by simp [execCompletionHeadDoorbell]

@[simp] theorem doorbell_kept (s : State) (f off size : Nat) (v : W64) :
    kept (doorbell s f off size v) = kept s := by simp [doorbell]

@[simp] theorem execSubmissionDoorbell_kept (f : HostReq) (off : BitVec 24) (size : Nat) (v : W64) (s : State) :
    outKept (execSubmissionDoorbell f off size v s) = some (kept s) := by simp [execSubmissionDoorbell]

@[simp] theorem disableVfs_kept (s : State) : kept (disableVfs s) = kept s := by simp [disableVfs]

@[simp] theorem registerWrite_kept (s : State) (f : Byte) (v : W64) (x3 : HostReg) :
    kept (registerWrite s f v x3) = kept s := by
  simp only [registerWrite]; split <;> simp

@[simp] theorem execRegisterWrite_kept (f : HostReq) (reg : HostReg) (v : W64) (s : State) :
    outKept (execRegisterWrite f reg v s) = some (kept s) := by
  simp only [execRegisterWrite]; split <;> simp

/-! What `Machine/Kedal.lean` defines. -/

@[simp] theorem fieldWrite_kept (s : State) (u v : Nat) : kept (fieldWrite s u v).1 = kept s := by
  simp only [fieldWrite]; repeat' split
  all_goals simp

@[simp] theorem partCmd_kept (s : State) (v : Nat) : kept (partCmd s v).1 = kept s := by
  simp only [partCmd]; repeat' split
  all_goals simp

@[simp] theorem shadowWrite_kept (s : State) (k : Nat) (v : W64) : kept (shadowWrite s k v).1 = kept s := by
  simp only [shadowWrite]; repeat' split
  all_goals simp

@[simp] theorem fallbackWrite_kept (s : State) (k : Nat) (v : Byte) : kept (fallbackWrite s k v).1 = kept s := by
  simp only [fallbackWrite]; split <;> simp

@[simp] theorem exportWrite_kept (s : State) (k : Nat) (v : W128) : kept (exportWrite s k v).1 = kept s := by
  simp only [exportWrite]; split <;> simp

@[simp] theorem trcPlain_kept (s : State) (b u : Nat) (v : W64) : kept (trcPlain s b u v).1 = kept s := by
  simp only [trcPlain]; repeat' split
  all_goals simp

@[simp] theorem keyCmd_kept (s : State) (v : Nat) (who : Principal) (p : KPath) : kept (keyCmd s v who p).1 = kept s := by
  simp only [keyCmd]; repeat' split
  all_goals simp

@[simp] theorem keyClaim_kept (s : State) (v : Nat) (who : Principal) (p : KPath) : kept (keyClaim s v who p).1 = kept s := by
  simp only [keyClaim]; split <;> simp

@[simp] theorem fwCmd_rises {x₀ : Kept} (s : State) (v : Nat) (hx : Rises x₀ (kept s)) : Rises x₀ (kept (fwCmd s v).1) := by
  simp only [fwCmd]; split <;> simp [hx]

@[simp] theorem testCmd_kept (s : State) (v : Nat) : kept (testCmd s v).1 = kept s := by
  simp only [testCmd]; split <;> simp

@[simp] theorem writeLow_kept (s : State) (i u v : Nat) : kept (writeLow s i u v).1 = kept s := by
  simp only [writeLow]; repeat' split
  all_goals simp

@[simp] theorem writeFab_rises {x₀ : Kept} (s : State) (i u v : Nat) (bs : List Byte) (hx : Rises x₀ (kept s)) :
    Rises x₀ (kept (writeFab s i u v bs).1) := by
  simp only [writeFab]; repeat' split
  all_goals simp [hx]

@[simp] theorem writeRel_kept (s : State) (i u v : Nat) (who : Principal) : kept (writeRel s i u v who).1 = kept s := by
  simp only [writeRel]; repeat' split
  all_goals simp

@[simp] theorem writeSec_rises {x₀ : Kept} (s : State) (i u v : Nat) (bs : List Byte) (who : Principal) (p : KPath)
    (hx : Rises x₀ (kept s)) : Rises x₀ (kept (writeSec s i u v bs who p).1) := by
  simp only [writeSec]; repeat' split
  all_goals simp [hx]

@[simp] theorem writeObj_rises {x₀ : Kept} (s : State) (q : KReq) (i u : Nat) (hx : Rises x₀ (kept s)) :
    Rises x₀ (kept (writeObj s q i u).1) := by
  simp only [writeObj]; split <;> simp [hx]

@[simp] theorem noteChange_kept (s : State) (i u : Nat) : kept (noteChange s i u) = kept s := by simp [noteChange]

@[simp] theorem noteSeen_kept (s : State) (i u : Nat) : kept (noteSeen s i u) = kept s := by
  simp only [noteSeen]; split <;> simp

@[simp] theorem kRefuse_kept (s : State) (q : KReq) (st : Nat) : kept (kRefuse s q st) = kept s := by
  simp only [kRefuse]; split <;> simp

@[simp] theorem serveRead_kept (s : State) (q : KReq) : kept (serveRead s q) = kept s := by
  simp only [serveRead]; split <;> simp

@[simp] theorem serveValue_rises {x₀ : Kept} (s : State) (q : KReq) (o : Obj) (hx : Rises x₀ (kept s)) :
    Rises x₀ (kept (serveValue s q o)) := by simp [serveValue, hx]

@[simp] theorem serveWrite_rises {x₀ : Kept} (s : State) (q : KReq) (hx : Rises x₀ (kept s)) :
    Rises x₀ (kept (serveWrite s q)) := by
  simp only [serveWrite]; split <;> simp [hx]

@[simp] theorem serveCwrite_rises {x₀ : Kept} (s : State) (q : KReq) (hx : Rises x₀ (kept s)) :
    Rises x₀ (kept (serveCwrite s q)) := by
  simp only [serveCwrite]; split <;> simp [hx]

@[simp] theorem execKdSlotGo_kept (go : SlotGo) (frame : List Byte) (s : State) :
    outKept (execKdSlotGo go frame s) = some (kept s) := by
  rw [execKdSlotGo, outKept_ite, outKept_next, outKept_next, slotGo_kept, State.setKslot_kept, ite_self]

@[simp] theorem execKedalFrameArrival_kept (path : KPath) (src : KSender) (bcast : Bool) (frame : List Byte) (s : State) :
    outKept (execKedalFrameArrival path src bcast frame s) = some (kept s) := by
  simp only [execKedalFrameArrival]; repeat' split
  all_goals simp

@[simp] theorem serveHead_kept {s : State} (mine : List Byte → Bool) {f : State → KReq → State}
    (h : ∀ u q, kept (f u q) = kept u) : outKept (serveHead s mine f) = some (kept s) := by
  simp only [serveHead]
  split <;> simp [h]

theorem serveHead_rises {x₀ : Kept} {s : State} {mine : List Byte → Bool} {f : State → KReq → State}
    (hf : ∀ u q, Rises x₀ (kept u) → Rises x₀ (kept (f u q)))
    (hx : Rises x₀ (kept s)) : Risen x₀ (outKept (serveHead s mine f)) := by
  simp only [serveHead]
  split
  · simp [hx]
  · simp [hx, hf]

@[simp] theorem execKRead_kept (s : State) : outKept (execKRead s) = some (kept s) := by simp [execKRead]

@[simp] theorem execKWrite_rises {x₀ : Kept} (s : State) (hx : Rises x₀ (kept s)) : Risen x₀ (outKept (execKWrite s)) :=
  serveHead_rises (fun u q hu => serveWrite_rises u q hu) hx

@[simp] theorem execKCwrite_rises {x₀ : Kept} (s : State) (hx : Rises x₀ (kept s)) : Risen x₀ (outKept (execKCwrite s)) :=
  serveHead_rises (fun u q hu => serveCwrite_rises u q hu) hx

/-! What `Machine/Scalar.lean` defines. -/

@[simp] theorem execAdd_kept (o : RrrOp) (s : State) : outKept (execAdd o s) = some (kept s) := by simp [execAdd]

@[simp] theorem execSub_kept (o : RrrOp) (s : State) : outKept (execSub o s) = some (kept s) := by simp [execSub]

@[simp] theorem execIand_kept (o : RrrOp) (s : State) : outKept (execIand o s) = some (kept s) := by simp [execIand]

@[simp] theorem execIor_kept (o : RrrOp) (s : State) : outKept (execIor o s) = some (kept s) := by simp [execIor]

@[simp] theorem execIxor_kept (o : RrrOp) (s : State) : outKept (execIxor o s) = some (kept s) := by simp [execIxor]

@[simp] theorem execSll_kept (o : RrrOp) (s : State) : outKept (execSll o s) = some (kept s) := by simp [execSll]

@[simp] theorem execSrl_kept (o : RrrOp) (s : State) : outKept (execSrl o s) = some (kept s) := by simp [execSrl]

@[simp] theorem execSra_kept (o : RrrOp) (s : State) : outKept (execSra o s) = some (kept s) := by simp [execSra]

@[simp] theorem execSlt_kept (o : RrrOp) (s : State) : outKept (execSlt o s) = some (kept s) := by simp [execSlt]

@[simp] theorem execSltu_kept (o : RrrOp) (s : State) : outKept (execSltu o s) = some (kept s) := by simp [execSltu]

@[simp] theorem execImin_kept (o : RrrOp) (s : State) : outKept (execImin o s) = some (kept s) := by simp [execImin]

@[simp] theorem execImax_kept (o : RrrOp) (s : State) : outKept (execImax o s) = some (kept s) := by simp [execImax]

@[simp] theorem execMinu_kept (o : RrrOp) (s : State) : outKept (execMinu o s) = some (kept s) := by simp [execMinu]

@[simp] theorem execMaxu_kept (o : RrrOp) (s : State) : outKept (execMaxu o s) = some (kept s) := by simp [execMaxu]

@[simp] theorem execMul_kept (o : RrrOp) (s : State) : outKept (execMul o s) = some (kept s) := by simp [execMul]

@[simp] theorem execMulh_kept (o : RrrOp) (s : State) : outKept (execMulh o s) = some (kept s) := by simp [execMulh]

@[simp] theorem execMulhu_kept (o : RrrOp) (s : State) : outKept (execMulhu o s) = some (kept s) := by simp [execMulhu]

@[simp] theorem execDiv_kept (o : RrrOp) (s : State) : outKept (execDiv o s) = some (kept s) := by simp [execDiv]

@[simp] theorem execDivu_kept (o : RrrOp) (s : State) : outKept (execDivu o s) = some (kept s) := by simp [execDivu]

@[simp] theorem execRem_kept (o : RrrOp) (s : State) : outKept (execRem o s) = some (kept s) := by simp [execRem]

@[simp] theorem execRemu_kept (o : RrrOp) (s : State) : outKept (execRemu o s) = some (kept s) := by simp [execRemu]

@[simp] theorem execPopc_kept (o : RrrOp) (s : State) : outKept (execPopc o s) = some (kept s) := by simp [execPopc]

@[simp] theorem execClz_kept (o : RrrOp) (s : State) : outKept (execClz o s) = some (kept s) := by simp [execClz]

@[simp] theorem execCtz_kept (o : RrrOp) (s : State) : outKept (execCtz o s) = some (kept s) := by simp [execCtz]

@[simp] theorem execAddi_kept (o : RriOp) (s : State) : outKept (execAddi o s) = some (kept s) := by simp [execAddi]

@[simp] theorem execAndi_kept (o : RriOp) (s : State) : outKept (execAndi o s) = some (kept s) := by simp [execAndi]

@[simp] theorem execOri_kept (o : RriOp) (s : State) : outKept (execOri o s) = some (kept s) := by simp [execOri]

@[simp] theorem execXori_kept (o : RriOp) (s : State) : outKept (execXori o s) = some (kept s) := by simp [execXori]

@[simp] theorem execSlti_kept (o : RriOp) (s : State) : outKept (execSlti o s) = some (kept s) := by simp [execSlti]

@[simp] theorem execShiSll_kept (o : ShiOp) (s : State) : outKept (execShiSll o s) = some (kept s) := by simp [execShiSll]

@[simp] theorem execShiSrl_kept (o : ShiOp) (s : State) : outKept (execShiSrl o s) = some (kept s) := by simp [execShiSrl]

@[simp] theorem execShiSra_kept (o : ShiOp) (s : State) : outKept (execShiSra o s) = some (kept s) := by simp [execShiSra]

@[simp] theorem execLui_kept (o : RiOp) (s : State) : outKept (execLui o s) = some (kept s) := by simp [execLui]

@[simp] theorem execBeq_kept (o : BrOp) (s : State) : outKept (execBeq o s) = some (kept s) := by simp [execBeq]

@[simp] theorem execBne_kept (o : BrOp) (s : State) : outKept (execBne o s) = some (kept s) := by simp [execBne]

@[simp] theorem execBlt_kept (o : BrOp) (s : State) : outKept (execBlt o s) = some (kept s) := by simp [execBlt]

@[simp] theorem execBge_kept (o : BrOp) (s : State) : outKept (execBge o s) = some (kept s) := by simp [execBge]

@[simp] theorem execBltu_kept (o : BrOp) (s : State) : outKept (execBltu o s) = some (kept s) := by simp [execBltu]

@[simp] theorem execBgeu_kept (o : BrOp) (s : State) : outKept (execBgeu o s) = some (kept s) := by simp [execBgeu]

@[simp] theorem execJal_kept (o : RiOp) (s : State) : outKept (execJal o s) = some (kept s) := by simp [execJal]

@[simp] theorem execJalr_kept (o : RriOp) (s : State) : outKept (execJalr o s) = some (kept s) := by simp [execJalr]

@[simp] theorem execFadd_kept (o : FpOp) (s : State) : outKept (execFadd o s) = some (kept s) := by simp [execFadd]

@[simp] theorem execFsub_kept (o : FpOp) (s : State) : outKept (execFsub o s) = some (kept s) := by simp [execFsub]

@[simp] theorem execFmul_kept (o : FpOp) (s : State) : outKept (execFmul o s) = some (kept s) := by simp [execFmul]

@[simp] theorem execFma_kept (o : FpOp) (s : State) : outKept (execFma o s) = some (kept s) := by simp [execFma]

@[simp] theorem execFnma_kept (o : FpOp) (s : State) : outKept (execFnma o s) = some (kept s) := by simp [execFnma]

@[simp] theorem execFdiv_kept (o : FpOp) (s : State) : outKept (execFdiv o s) = some (kept s) := by simp [execFdiv]

@[simp] theorem execFsqrt_kept (o : FpOp) (s : State) : outKept (execFsqrt o s) = some (kept s) := by simp [execFsqrt]

@[simp] theorem execFmin_kept (o : FpOp) (s : State) : outKept (execFmin o s) = some (kept s) := by simp [execFmin]

@[simp] theorem execFmax_kept (o : FpOp) (s : State) : outKept (execFmax o s) = some (kept s) := by simp [execFmax]

@[simp] theorem execFeq_kept (o : FpOp) (s : State) : outKept (execFeq o s) = some (kept s) := by simp [execFeq]

@[simp] theorem execFlt_kept (o : FpOp) (s : State) : outKept (execFlt o s) = some (kept s) := by simp [execFlt]

@[simp] theorem execFle_kept (o : FpOp) (s : State) : outKept (execFle o s) = some (kept s) := by simp [execFle]

@[simp] theorem execFabs_kept (o : FpOp) (s : State) : outKept (execFabs o s) = some (kept s) := by simp [execFabs]

@[simp] theorem execFneg_kept (o : FpOp) (s : State) : outKept (execFneg o s) = some (kept s) := by simp [execFneg]

@[simp] theorem execFrcp_kept (o : FpOp) (s : State) : outKept (execFrcp o s) = some (kept s) := by simp [execFrcp]

@[simp] theorem execCvt_kept (o : CvtOp) (s : State) : outKept (execCvt o s) = some (kept s) := by simp [execCvt]

/-! What `Machine/Thehus.lean` defines. -/

@[simp] theorem returnCall_kept (s : State) (st : Nat) (out : List Tensor) (fl : Flags) (cause : Nat) :
    kept (returnCall s st out fl cause) = kept s := by simp [returnCall]

@[simp] theorem execThOpen_kept (dev : Nat) (members : List MemberIn) (exchBytes : W64) (s : State) :
    outKept (execThOpen dev members exchBytes s) = some (kept s) := by
  simp only [execThOpen]; split <;> simp

@[simp] theorem storeShares_rises {x₀ : Kept} (s : State) (o : CallOpt) (d : Device) (out : List Tensor)
    (hx : Rises x₀ (kept s)) : Rises x₀ (kept (storeShares s o d out)) := by
  refine rises_foldl (fun t e ht => ?_) hx
  split
  · exact rises_foldl (fun u p hu => cohWrite_rises u _ _ hu) ht
  · exact ht

@[simp] theorem pinMembers_kept (s : State) (o : CallOpt) (ms : List Member) :
    kept (pinMembers s o ms) = kept s := by simp [pinMembers]

@[simp] theorem thCall_rises {x₀ : Kept} (s : State) (o : CallOpt) (op : Nat) (ts : List Tensor) (run : CallOpt → CallRes)
    (hx : Rises x₀ (kept s)) : Risen x₀ (outKept (thCall s o op ts run)) := by
  simp only [thCall]; repeat' split
  all_goals simp [hx]

@[simp] theorem execThMatmul_rises {x₀ : Kept} (c : CallOpt) (a b : Tensor) (acc : Option Tensor) (s : State)
    (hx : Rises x₀ (kept s)) : Risen x₀ (outKept (execThMatmul c a b acc s)) := by simp [execThMatmul, hx]

@[simp] theorem execThBatched_rises {x₀ : Kept} (c : CallOpt) (entries : List (Tensor × Tensor × Option Tensor)) (s : State)
    (hx : Rises x₀ (kept s)) : Risen x₀ (outKept (execThBatched c entries s)) := by simp [execThBatched, hx]

@[simp] theorem execThConv_rises {x₀ : Kept} (c : CallOpt) (x w : Tensor) (g : ConvGeom) (s : State) (hx : Rises x₀ (kept s)) :
    Risen x₀ (outKept (execThConv c x w g s)) := by simp [execThConv, hx]

@[simp] theorem execThAttention_rises {x₀ : Kept} (c : CallOpt) (q k v : Tensor) (scale : Option W32) (mask : Option Tensor)
    (s : State) (hx : Rises x₀ (kept s)) :
    Risen x₀ (outKept (execThAttention c q k v scale mask s)) := by simp [execThAttention, hx]

@[simp] theorem execThReduce_rises {x₀ : Kept} (c : CallOpt) (op : RedOp) (x : Tensor) (axis : Nat) (s : State)
    (hx : Rises x₀ (kept s)) : Risen x₀ (outKept (execThReduce c op x axis s)) := by simp [execThReduce, hx]

@[simp] theorem execThScan_rises {x₀ : Kept} (c : CallOpt) (inclusive : Bool) (x : Tensor) (axis : Nat) (s : State)
    (hx : Rises x₀ (kept s)) : Risen x₀ (outKept (execThScan c inclusive x axis s)) := by simp [execThScan, hx]

@[simp] theorem execThElementwise_rises {x₀ : Kept} (c : CallOpt) (fns : List ElemFn) (x : Tensor) (xs : List Tensor)
    (s : State) (hx : Rises x₀ (kept s)) :
    Risen x₀ (outKept (execThElementwise c fns x xs s)) := by simp [execThElementwise, hx]

@[simp] theorem execThFft_rises {x₀ : Kept} (c : CallOpt) (inverse : Bool) (re im : Tensor) (s : State) (hx : Rises x₀ (kept s))
    : Risen x₀ (outKept (execThFft c inverse re im s)) := by simp [execThFft, hx]

@[simp] theorem execThStencil_rises {x₀ : Kept} (c : CallOpt) (x : Tensor) (offsets : List (List Int)) (weights : List W64)
    (s : State) (hx : Rises x₀ (kept s)) :
    Risen x₀ (outKept (execThStencil c x offsets weights s)) := by simp [execThStencil, hx]

@[simp] theorem execThGather_rises {x₀ : Kept} (c : CallOpt) (x idx : Tensor) (s : State) (hx : Rises x₀ (kept s)) :
    Risen x₀ (outKept (execThGather c x idx s)) := by simp [execThGather, hx]

@[simp] theorem execThScatter_rises {x₀ : Kept} (c : CallOpt) (x idx y : Tensor) (accum : Bool) (s : State)
    (hx : Rises x₀ (kept s)) : Risen x₀ (outKept (execThScatter c x idx y accum s)) := by simp [execThScatter, hx]

@[simp] theorem execThConvert_rises {x₀ : Kept} (c : CallOpt) (x : Tensor) (s : State) (hx : Rises x₀ (kept s)) :
    Risen x₀ (outKept (execThConvert c x s)) := by simp [execThConvert, hx]

@[simp] theorem execThExchange_rises {x₀ : Kept} (c : CallOpt) (op : ExchOp) (shares : List Tensor) (late : Nat) (s : State)
    (hx : Rises x₀ (kept s)) : Risen x₀ (outKept (execThExchange c op shares late s)) := by
  simp only [execThExchange]; split <;> simp [hx]

/-! What `Machine/Dispatch.lean` defines. -/

@[simp] theorem exec_rises {x₀ : Kept} (i : Instr) (s : State) (hx : Rises x₀ (kept s)) : Risen x₀ (outKept (exec i s)) := by
  unfold exec
  split <;> simp [hx]

/-! What `Machine/Words.lean` defines. -/

@[simp] theorem reservedWord_kept (k : Nat) (f : Face) (w : W64) (s : State) :
    outKept (reservedWord k f w s) = some (kept s) := by
  unfold reservedWord
  split
  · exact issuePriv_kept fun g t ht => by simp [ht]
  · exact issue_kept fun g t ht => by simp [ht]

@[simp] theorem execWord_rises {x₀ : Kept} (k : Fin 256) (f : Face) (w : W64) (s : State) (hx : Rises x₀ (kept s)) :
    Risen x₀ (outKept (execWord k f w s)) := by
  simp only [execWord]; split <;> simp [hx]

/-- HBM and MIN_SVN of the state, if any, after a fetch. -/
def Fetched.kept : Fetched → Option Kept
  | .bytes _ t | .miss _ t => some (Machine.kept t)
  | .fault _ _ => none

@[simp] theorem Fetched.kept_bytes (v : Nat) (t : State) : (Fetched.bytes v t).kept = some (Machine.kept t) := Eq.trans rfl rfl

@[simp] theorem Fetched.kept_miss (v : Nat) (t : State) : (Fetched.miss v t).kept = some (Machine.kept t) := Eq.trans rfl rfl

@[simp] theorem Fetched.kept_fault (c d : Nat) : (Fetched.fault c d).kept = none := Eq.trans rfl rfl

@[simp] theorem fetch4_kept {x : Kept} {s : State} (g : Grp) (va : W64) (h : kept s = x) : Stays x (fetch4 s g va).kept := by
  subst h
  have looked := lookup_kept s g.k (ctxOf s g.k) (vpnOf va)
  unfold fetch4
  extract_lets n
  split <;> rename_i found <;> rw [found] at looked
  · simp [looked]
  · split
    · simp
    · extract_lets off
      split <;> simp [looked]

@[simp] theorem fetchWord_kept {x : Kept} {s : State} (g : Grp) (h : kept s = x) : Stays x (fetchWord s g).kept := by
  have low := fetch4_kept g g.pc h
  unfold fetchWord
  split
  · next v t hlow =>
    rw [hlow, Fetched.kept_bytes, stays_some] at low
    have high := fetch4_kept g (g.pc + 4) low
    split
    · simp [low]
    · split
      · next hhigh =>
        rw [hhigh] at high
        simpa using high
      · exact high
  · exact low

@[simp] theorem fetchIssue_rises {x₀ : Kept} (k : Fin 256) (f : Face) (s : State) (hx : Rises x₀ (kept s)) :
    Risen x₀ (outKept (fetchIssue k f s)) := by
  unfold fetchIssue
  split
  · simp [hx]
  · next g _ =>
    have fetched := fetchWord_kept g (rfl : kept s = _)
    split
    · next h =>
      rw [h, Fetched.kept_bytes, stays_some] at fetched
      exact execWord_rises _ _ _ _ (fetched ▸ hx)
    · next h =>
      rw [h, Fetched.kept_miss, stays_some] at fetched
      simp [fetched, hx]
    · simp [hx]

@[simp] theorem selfStep_rises {x₀ : Kept} (s : State) (hx : Rises x₀ (kept s)) : Risen x₀ (outKept (selfStep s)) := by
  simp only [selfStep]; split <;> simp [hx]

/-! What `Machine/Step.lean` defines. -/

@[simp] theorem step_rises {x₀ : Kept} (s : State) (hx : Rises x₀ (kept s)) : Risen x₀ (outKept (step s)) := by
  simp only [step]; split <;> simp [hx]

/-! What a step does, and what any number of steps do. -/

/-- A step keeps the canonical form of HBM and does not lower MIN_SVN. -/
theorem rises_of_step {s t : State} (h : step s = .next t) : Rises (kept s) (kept t) := by
  have hstep := step_rises s (rises_refl (kept s))
  rwa [h, outKept_next, risen_some] at hstep

theorem minSvn_le_of_reaches {s t : State} {n : Nat} (h : Reaches s n t) : s.sec.minSvn.toNat ≤ t.sec.minSvn.toNat := by
  induction h with
  | zero s => exact Nat.le_refl _
  | succ hstep _ ih => exact Nat.le_trans (rises_of_step hstep).2 ih

end Sys2Proof.Machine

open Sys2Proof Sys2Proof.Machine

/-- Settles O58: HBM is written a byte at a time or cleared by the range, and each keeps the form. -/
theorem hbmFormKept : Obligations.HbmFormKept := by
  unfold Obligations.HbmFormKept
  exact fun s t hwf hstep => (rises_of_step hstep).1 hwf

/-- Settles O60: SET_MIN_SVN refuses an SVN below the present one, and every other function of the model keeps MIN_SVN. -/
theorem minSvnNeverFalls : Obligations.MinSvnNeverFalls := by
  unfold Obligations.MinSvnNeverFalls
  exact fun s t n h => minSvn_le_of_reaches h

/-- Settles O59: reset memory lists no byte. -/
theorem hbmFormAtReset : Obligations.HbmFormAtReset := by
  unfold Obligations.HbmFormAtReset
  rfl

end

section
/-!
The queue, reset, and the integer, branch and floating-point instructions: each instruction is a shared operation at its function,
and the law of `issue` for what the operation's body answers says what it leaves.
-/
namespace Sys2Proof.Machine

/-! The queue. -/

/-- The face that issues when nothing is queued is one of those that can (log 3). -/
theorem selfStep_of_issuers_ne_nil {s : State} (h : issuers s ≠ []) :
    ∃ e ∈ issuers s, selfStep s = fetchIssue (Fin.ofNat 256 e.1) e.2 s.free.2 := by
  unfold selfStep
  split
  · next hnil => exact absurd hnil h
  · next x xs hcons =>
    have inRange : s.free.1.toNat % (xs.length + 1) < (x :: xs).length := Nat.mod_lt _ (Nat.succ_pos _)
    refine ⟨(x :: xs).getD (s.free.1.toNat % (xs.length + 1)) x, ?_, rfl⟩
    rw [hcons, List.getD_eq_getElem?_getD, List.getElem?_eq_getElem inRange, Option.getD_some]
    exact List.getElem_mem inRange

theorem selfStep_of_issuers_nil {s : State} (h : issuers s = []) : selfStep s = .next s := by
  simp only [selfStep, h]

/-! The instructions and the operations that they share. -/

/-- The operations with an immediate are `intRri`. -/
theorem exec_of_mem_intOpsI {e : (RriOp → Instr) × ((w : Nat) → BitVec w → BitVec w → BitVec w)} (he : e ∈ intOpsI)
    (o : RriOp) (s : State) : exec (e.1 o) s = intRri o e.2 s := by
  unfold intOpsI at he
  repeat
    obtain _ | ⟨_, he⟩ := he
    · rfl
  nomatch he

/-- The shifts by an amount are `intShi`. -/
theorem exec_of_mem_shiftOps {e : (ShiOp → Instr) × ((w : Nat) → BitVec w → Nat → BitVec w)} (he : e ∈ shiftOps)
    (o : ShiOp) (s : State) : exec (e.1 o) s = intShi o e.2 s := by
  unfold shiftOps at he
  repeat
    obtain _ | ⟨_, he⟩ := he
    · rfl
  nomatch he

/-- The branches are `branch` at their condition. -/
theorem exec_of_mem_branchOps {e : (BrOp → Instr) × ((w : Nat) → BitVec w → BitVec w → Bool)} (he : e ∈ branchOps)
    (o : BrOp) (s : State) : exec (e.1 o) s = branch o e.2 s := by
  unfold branchOps at he
  repeat
    obtain _ | ⟨_, he⟩ := he
    · rfl
  nomatch he

theorem exec_lui (o : RiOp) (s : State) : exec (.lui o) s = execLui o s := rfl

theorem exec_jal (o : RiOp) (s : State) : exec (.jal o) s = execJal o s := rfl

theorem exec_jalr (o : RriOp) (s : State) : exec (.jalr o) s = execJalr o s := rfl

theorem exec_cvt (o : CvtOp) (s : State) : exec (.cvt o) s = execCvt o s := rfl

/-- The result of a compare as an integer. -/
theorem cmpBits_eq (r : Bool × Flags) : cmpBits r = (r.1.toNat, r.2) := by
  obtain ⟨b, fl⟩ := r
  cases b <;> rfl

/-- The floating-point operations are `fpRun` at their shape and function; whether RD is a source does not matter to it. -/
theorem exec_of_mem_floatOps {e : (FpOp → Instr) × Nat × Bool × Bool × (BitVec 2 → FFmt → Nat → Nat → Nat → Nat × Flags)}
    (he : e ∈ floatOps) (o : FpOp) (s : State) :
    ∃ src, exec (e.1 o) s = fpRun o ⟨e.2.1, src, e.2.2.2.1, e.2.2.1⟩ (e.2.2.2.2 o.rm) s := by
  unfold floatOps at he
  iterate 9
    obtain _ | ⟨_, he⟩ := he
    · exact ⟨_, rfl⟩
  iterate 3
    obtain _ | ⟨_, he⟩ := he
    · simp only [← cmpBits_eq]
      exact ⟨_, rfl⟩
  repeat
    obtain _ | ⟨_, he⟩ := he
    · exact ⟨_, rfl⟩
  nomatch he

/-! Words that spell no instruction. -/

/-- R140: no instruction has a reserved opcode. -/
theorem decodeWord_of_mem_reservedOps {k : Fin 256} {f : Face} {w : W64} (h : wordOp w ∈ reservedOps) : decodeWord k f w = none := by
  generalize hop : wordOp w = op at h
  unfold reservedOps at h
  unfold decodeWord
  rw [hop]
  repeat
    obtain _ | ⟨_, h⟩ := h
    · rfl
  nomatch h

/-- R137: outside the privileged group, a word that spells nothing raises 0x01. -/
theorem execWord_of_decodeWord_none {k : Fin 256} {f : Face} {w : W64} {s : State} {g : Grp} (hoffer : offer s k f = some g)
    (hop : wordOp w ≠ 0x28) (hnone : decodeWord k f w = none) : execWord k f w s = .next (faultGrp s g 1 g.lanes 0) := by
  simp only [execWord, hnone, reservedWord, hop, if_false]
  exact issue_illegal hoffer rfl

/-- R137: an operation of two registers with W on the control core, or with a register that its face does not have, raises 0x01. -/
theorem intRrr_illegal {o : RrrOp} {len : Nat} {f : (w : Nat) → BitVec w → BitVec w → BitVec w} {s : State} {g : Grp}
    (hoffer : offer s o.core o.face = some g)
    (hbad : (isCc o.face && o.w) = true ∨ [useOf o.rd (wideOp o.face o.w) true, useOf o.ra (wideOp o.face o.w) false,
      useOf o.rb (wideOp o.face o.w) false].all (regOk o.face) = false) :
    intRrr o len true f s = .next (faultGrp s g 1 g.lanes 0) := by
  unfold intRrr
  refine issue_illegal hoffer ?_
  obtain hw | hreg := hbad
  · rw [hw, Bool.not_true, Bool.false_and, Bool.false_and]
  · exact (congrArg _ hreg).trans (Bool.and_false _)

/-! The control core: what an instruction leaves of its core, and of the rest. -/

/-- The control core offers the instruction at its program counter, as one lane. -/
theorem offer_cc_some {s : State} {k : Nat} {g : Grp} (h : offer s k .cc = some g) : g = ⟨k, none, [0], (s.core k).pc, 0⟩ := by
  simp only [offer] at h
  split at h
  · cases h
  · split at h
    · cases h
    · exact (Option.some.inj h).symm

/-- Counting an event changes the counters and nothing else. -/
theorem bumpCore_frame (s : State) (k ev um n : Nat) : ∃ d, s.bumpCore k ev um n = { s with dbg := d } := by
  simp only [State.bumpCore, State.touchCtr, State.bump]
  repeat' split
  all_goals exact ⟨_, rfl⟩

/-- Issue on the control core advances its program counter, marks progress in the core's power budget and counts. -/
theorem issuedTo_cc (t : State) (k : Nat) (pc : W64) (len : Nat) :
    ∃ p d, issuedTo t ⟨k, none, [0], pc, 0⟩ len =
      { t.updCore k (fun c => { c with pc := c.pc + BitVec.ofNat 64 len }) with pwr := p, dbg := d } := by
  obtain ⟨d, hd⟩ := bumpCore_frame (t.working k) k 2 0xFFFF 1
  refine ⟨(t.working k).pwr, d, ?_⟩
  simp only [issuedTo, advance, issued, hd]
  rfl

/-- A register write of the control core, after its wait has ended. -/
theorem eachWrite_unwait_cc (s : State) (k : Nat) (pc : W64) (rd : BitVec 6) (wide : Bool) (v : State → Nat → W64) :
    eachWrite ⟨k, none, [0], pc, 0⟩ rd wide v (unwait s ⟨k, none, [0], pc, 0⟩) =
      (s.updCore k (fun c => { c with wait := .none })).updCore k
        (fun c => c.setSreg rd.toNat (v (s.updCore k (fun c => { c with wait := .none })) 0)) := rfl

/-- What a register write reads back, s0 being zero (R109). -/
theorem Core.sreg_setSreg_eq (c : Core) (r j : Nat) (v : W64) :
    (c.setSreg r v).sreg j = if j = r ∧ j ≠ 0 then v else c.sreg j := by
  by_cases hr : r = 0
  · subst hr
    rw [setSreg_zero, if_neg (fun ⟨h, h'⟩ => h' h)]
  · rw [sreg_setSreg c hr]
    by_cases hj : j = r <;> simp [hj, hr]

/-- The control core after an instruction that gave register `r` a value. -/
def ccDone (c : Core) (r : Nat) (v : W64) : Core :=
  let x := ({ c with wait := .none }).setSreg r v
  { x with pc := x.pc + 4 }

theorem ccDone_sreg (c : Core) (r j : Nat) (v : W64) : (ccDone c r v).sreg j = if j = r ∧ j ≠ 0 then v else c.sreg j :=
  Core.sreg_setSreg_eq { c with wait := .none } r j v

section CcDone
variable (c : Core) (r : Nat) (v : W64)

theorem ccDone_pc : (ccDone c r v).pc = c.pc + 4 := by simp only [ccDone, Core.setSreg]; split <;> rfl
theorem ccDone_flags : (ccDone c r v).flags = c.flags := by simp only [ccDone, Core.setSreg]; split <;> rfl
theorem ccDone_cvs : (ccDone c r v).cvs = c.cvs := by simp only [ccDone, Core.setSreg]; split <;> rfl
theorem ccDone_mx : (ccDone c r v).mx = c.mx := by simp only [ccDone, Core.setSreg]; split <;> rfl
theorem ccDone_ve : (ccDone c r v).ve = c.ve := by simp only [ccDone, Core.setSreg]; split <;> rfl
theorem ccDone_sp : (ccDone c r v).sp = c.sp := by simp only [ccDone, Core.setSreg]; split <;> rfl
theorem ccDone_dma : (ccDone c r v).dma = c.dma := by simp only [ccDone, Core.setSreg]; split <;> rfl

end CcDone

/-- An operation of two registers on the control core: one core changes, and the power budgets and the counters. -/
theorem intRrr_cc {o : RrrOp} {f : (w : Nat) → BitVec w → BitVec w → BitVec w} {s : State} {g : Grp} (hcc : o.face = .cc)
    (h : Issues s o.core .cc (!o.w) [useOf o.rd true true, useOf o.ra true false, useOf o.rb true false] g) :
    ∃ cs p d, intRrr o 4 true f s = .next { s with cores := cs, pwr := p, dbg := d } ∧ ∀ j, tget Core.dflt cs j =
      if j = o.core then ccDone (s.core o.core) o.rd.toNat (f 64 ((s.core o.core).sreg o.ra.toNat) ((s.core o.core).sreg o.rb.toNat))
      else s.core j := by
  have hg : g = ⟨o.core, none, [0], (s.core o.core).pc, 0⟩ := offer_cc_some h.1
  have hw : wideOp o.face o.w = true := by rw [hcc]; rfl
  have legal : (!(isCc o.face && o.w)) = !o.w := by rw [hcc]; rfl
  have run := intRrr_completes (o := o) (len := 4) (f := f) (g := g) (s := s) (by rw [legal, hw, hcc]; exact h)
  rw [hw, hg, eachWrite_unwait_cc] at run
  obtain ⟨p, d, ht⟩ := issuedTo_cc _ o.core.val (s.core o.core).pc 4
  refine ⟨_, p, d, run.trans (congrArg _ ht), fun j => ?_⟩
  by_cases hj : j = o.core
  · subst hj
    simp only [State.updCore, State.setCore, State.core, tget_tput_same, if_true, rdReg, atWidth, ccDone]
    rfl
  · simp only [State.updCore, State.setCore, State.core, tget_tput_ne _ _ _ hj, if_neg hj]

end Sys2Proof.Machine

open Sys2Proof Sys2Proof.Machine

/-- Settles O1. -/
theorem stepRunsTheFront : Obligations.StepRunsTheFront := by
  unfold Obligations.StepRunsTheFront
  refine ⟨fun c rest s h => ?front, fun s h hnone => ?idle, fun s h hsome => ?issues⟩
  case front => simp only [step, h]
  case idle => simpa only [step, h] using selfStep_of_issuers_nil hnone
  case issues => simpa only [step, h] using selfStep_of_issuers_ne_nil hsome

/-- Settles O2. -/
theorem resetValues : Obligations.ResetValues := by
  unfold Obligations.ResetValues
  exact ⟨rfl, rfl, rfl, rfl, rfl, rfl, rfl, rfl, rfl, rfl, rfl⟩

/-- Settles O4. -/
theorem immediateOpsComplete : Obligations.ImmediateOpsComplete := by
  unfold Obligations.ImmediateOpsComplete
  refine ⟨fun e he o s g h => ?immediate, fun e he o s g h => ?shift, fun o s g h => ?lui⟩
  case immediate =>
    rw [exec_of_mem_intOpsI he, intRri]
    exact issue_ok h.mayIssue rfl
  case shift =>
    rw [exec_of_mem_shiftOps he, intShi]
    exact issue_ok h.mayIssue rfl
  case lui =>
    rw [exec_lui, execLui]
    exact issue_ok h.mayIssue rfl

/-- Settles O5. -/
theorem branchesComplete : Obligations.BranchesComplete := by
  unfold Obligations.BranchesComplete
  refine ⟨fun e he o s g h => ?branch, fun o s g h => ?jal, fun o s g h => ?jalr⟩
  case branch =>
    rw [exec_of_mem_branchOps he, branch]
    exact issue_moved h.mayIssue rfl
  case jal =>
    rw [exec_jal, execJal]
    exact issue_moved h.mayIssue rfl
  case jalr =>
    rw [exec_jalr, execJalr]
    exact issue_moved h.mayIssue rfl

/-- Settles O6. -/
theorem floatOpsComplete : Obligations.FloatOpsComplete := by
  unfold Obligations.FloatOpsComplete
  refine ⟨fun e he o s g h => ?float, fun o s g h => ?convert⟩
  case float =>
    obtain ⟨src, hexec⟩ := exec_of_mem_floatOps he o s
    rw [hexec, fpRun]
    exact issue_ok h.mayIssue rfl
  case convert =>
    have wide (x : BitVec 5) : (cvtRegs x == 2) = decide (ebits x.toNat = 64) := by
      by_cases hx : ebits x.toNat = 64 <;> simp [cvtRegs, hx]
    rw [exec_cvt, execCvt]
    exact issue_ok h.mayIssue (by simp only [wide])

/-- Settles O8. -/
theorem illegalFieldsFault : Obligations.IllegalFieldsFault := by
  unfold Obligations.IllegalFieldsFault
  refine ⟨fun e he o s g hoffer hbad => ?fields, fun k f w s g hoffer hop hnone => ?word, fun k f w h => ?reserved⟩
  case fields => exact (exec_of_mem_intOps2 he o s).trans (intRrr_illegal hoffer hbad)
  case word => exact execWord_of_decodeWord_none hoffer hop hnone
  case reserved => exact decodeWord_of_mem_reservedOps h

/-- Settles O7: the state after the instruction is the state before it with one core changed, and the power budgets and counters. -/
theorem integerFrameControlCore : Obligations.IntegerFrameControlCore := by
  unfold Obligations.IntegerFrameControlCore
  intro e he o s g hcc _ h
  obtain ⟨cs, p, d, hrun, hcore⟩ := intRrr_cc (f := e.2) hcc h
  have same : tget Core.dflt cs o.core = ccDone (s.core o.core) o.rd.toNat _ := (hcore o.core).trans (if_pos rfl)
  refine ⟨_, (exec_of_mem_intOps2 he o s).trans hrun, fun r => ?_, ?_, ?_, ?_, ?_, ?_, ?_, ?_, fun j hj => ?_,
    rfl, rfl, rfl, rfl, rfl, rfl⟩
  case refine_9 => exact (hcore j).trans (if_neg hj)
  all_goals simp only [State.core, same, ccDone_sreg, ccDone_pc, ccDone_flags, ccDone_cvs, ccDone_mx, ccDone_ve, ccDone_sp, ccDone_dma]

end

section
/-!
Memory, scratchpad, ordering, system register and control instructions: what completes is what `issue` makes of the body's answer,
once the premises have ruled out the instruction's own faults and waits.
-/
namespace Sys2Proof.Machine

variable {s t : State} {k len n : Nat} {f : Face} {legal : Bool} {us : List RegUse} {g : Grp}

/-- Lanes that all make their access complete the instruction. -/
theorem issue_part {body : Grp → State → Did} (h : Issues s k f legal us g) (hb : body g (unwait s g) = .part t g.lanes) :
    issue s k f len legal us body = .next (issuedTo t g len) := by
  have some_lane : g.lanes.isEmpty = false := List.isEmpty_eq_false_iff.mpr h.2.2.2.2
  rw [issue_of_mayIssue h.mayIssue, hb]
  simp only [some_lane]
  rfl

/-! Accesses of memory and of the scratchpad. -/

/-- Where no lane meets a precise fault, none is noted. -/
theorem noteCause_of_none {want : Grp → State → Nat → Want} (h : Issues s k f legal us g) (hnone : laneFaults s g (want g s) = none) :
    noteCause s k f legal us want = s := by
  obtain ⟨hoffer, hlegal, hfree⟩ := mayIssue_some h.mayIssue
  simp only [noteCause, hoffer, hlegal, hfree, Bool.and_self, if_true, hnone]

/-- Where every lane's bytes lie in the C port's groups, SP_FAULT stays. -/
theorem noteSp_of_none {addr : Grp → State → Nat → Nat} (h : Issues s k f legal us g) (hnone : cPortBad s g (addr g s) n = none) :
    noteSp s k f legal us addr n = s := by
  obtain ⟨hoffer, hlegal, hfree⟩ := mayIssue_some h.mayIssue
  simp only [noteSp, hoffer, hlegal, hfree, Bool.and_self, if_true, hnone]

/-- R148: an instruction of memory whose lanes all make their access completes. -/
theorem issue_memRunWith_completes {want : Grp → State → Nat → Want} {first : Grp → Nat → Nat → (State → Lane) → State → Lane}
    (h : Issues s k f legal us g) (hnone : laneFaults s g (want g s) = none)
    (hrun : memRunWith first g (want g) (unwait s g) = .part t g.lanes) :
    issue (noteCause s k f legal us want) k f 4 legal us (fun g s => memRunWith first g (want g) s) = .next (issuedTo t g 4) := by
  rw [noteCause_of_none h hnone]
  exact issue_part h hrun

/-- R149: an instruction of the scratchpad whose lanes all make their access completes. -/
theorem issue_pad_completes {addr : Grp → State → Nat → Nat} {run : Grp → State → Did} (h : Issues s k f legal us g)
    (hnone : cPortBad s g (addr g s) n = none) (hnone' : cPortBad (unwait s g) g (addr g (unwait s g)) n = none)
    (hrun : run g (unwait s g) = .part t g.lanes) :
    issue (noteSp s k f legal us addr n) k f 4 legal us (fun g s => match cPortBad s g (addr g s) n with
      | some (code, lanes, _, _) => .fault code lanes 0
      | none => run g s) = .next (issuedTo t g 4) := by
  rw [noteSp_of_none h hnone]
  exact issue_part h (by simp only [hnone', hrun])

/-- An access of one lane of the scratchpad that nothing holds is performed. -/
theorem spLane_of_nothing {l : Nat} {x : SpAccess} (horder : orderBlock s g.k (g.req l) = none)
    (hheld : heldSp s g.k x.ord false x.map x.addr x.bytes x.writes = false) (hbehind : behindLower (s.core g.k).sp x = false)
    (hmeets : spMeets (s.core g.k).sp x = .nothing) : spLane s g l x = .done (spPerform s g l x) := by
  simp only [spLane, horder, hheld, hbehind, hmeets, if_false, Bool.false_eq_true]

/-- R154: an atomic of the scratchpad waits for no tag. -/
theorem spMeets_of_amo {sp : Scratch} {x : SpAccess} (hamo : x.amo.isSome = true) (htransit : transitBlock sp x.map x.addr x.bytes = false) :
    spMeets sp x = .nothing := by
  simp only [spMeets, htransit, hamo, if_false, if_true, Bool.false_eq_true]

theorem amoSp_bytes_of_w {o : AmoOp} {op : AmoKind} {l : Nat} (hw : o.w = true) : (amoSp o op g s l).bytes = 8 := by
  simp only [SpAccess.bytes, amoSp, hw]
  rfl

theorem amoReg_lt (s : State) (g : Grp) (l : Nat) (r : BitVec 6) (w : Bool) : amoReg s g l r w < if w then 2 ^ 64 else 2 ^ 32 := by
  cases w <;> exact Nat.mod_lt _ (by decide)

/-- R154: an atomic of eight bytes writes what it computes, and gives its destination the old value. -/
theorem spPerform_amo {op : AmoKind} {l : Nat} {x : SpAccess} (hamo : x.amo = some op) (hbytes : x.bytes = 8) :
    spPerform s g l x = wrReg (s.updSp g.k (fun sp => sp.write x.addr 8
      (amoApply op 8 (spRead (s.core g.k).sp x.addr 8) x.data.toNat x.cmp.toNat))) g l x.dst true
      (BitVec.ofNat 64 (spRead (s.core g.k).sp x.addr 8)) := by
  simp only [spPerform, hamo, hbytes, if_true]

/-- R154: a 64-bit atomic of the scratchpad gives RD the old value and the bytes the new one. -/
theorem spPerform_amoSp {o : AmoOp} {op : AmoKind} {l : Nat} (hw : o.w = true) :
    spPerform s g l (amoSp o op g s l) = wrReg (s.updSp g.k (fun sp => sp.write (spAddr s g l o.ra 0) 8
      (amoApply op 8 (spRead (s.core g.k).sp (spAddr s g l o.ra 0) 8) (amoReg s g l o.rb true) (amoReg s g l o.rd true))))
      g l o.rd.toNat true (BitVec.ofNat 64 (spRead (s.core g.k).sp (spAddr s g l o.ra 0) 8)) := by
  have hsrc : (BitVec.ofNat 128 (amoReg s g l o.rb true)).toNat = amoReg s g l o.rb true :=
    (BitVec.toNat_ofNat _ _).trans (Nat.mod_eq_of_lt (Nat.lt_of_lt_of_le (amoReg_lt s g l o.rb true) (by decide)))
  have hcmp : (BitVec.ofNat 64 (amoReg s g l o.rd true)).toNat = amoReg s g l o.rd true :=
    (BitVec.toNat_ofNat _ _).trans (Nat.mod_eq_of_lt (amoReg_lt s g l o.rd true))
  rw [spPerform_amo (op := op) rfl (amoSp_bytes_of_w hw)]
  simp only [amoSp, hw, hsrc, hcmp]

/-! A release gives out no number (R155): what its lanes do leaves `Mem.nextId`. -/

theorem startTeardown_mem (s : State) (n cause : Nat) : (startTeardown s n cause).mem = s.mem := by
  obtain ⟨cs, xs, h⟩ := startTeardown_frame s n cause
  rw [h]

theorem countDrops_mem (s : State) (b n : Nat) : (s.countDrops b n).mem = s.mem := by
  simp only [State.countDrops]
  split <;> rfl

theorem emit_mem (s : State) (b kind unit ctx info : Nat) (a0 a1 : W64) : (s.emit b kind unit ctx info a0 a1).mem = s.mem := by
  simp only [State.emit]
  split
  · rfl
  · split
    · exact countDrops_mem ..
    · rfl

theorem stamp_mem (s : State) : s.stamp.2.mem = s.mem := by simp only [State.stamp, State.bumpHub, State.bump]

theorem faultCore_mem (s : State) (k code src cv thread : Nat) (mask : W32) (pc addr : W64) :
    (faultCore s k code src cv thread mask pc addr).mem = s.mem := by
  simp only [faultCore]
  split <;> split <;> simp only [startTeardown_mem, emit_mem, State.updCore_mem, stamp_mem]

theorem leaveEntry_mem (s : State) (k : Nat) (w : EntryWho) : (leaveEntry s k w).mem = s.mem := by
  simp only [leaveEntry]
  split <;> rfl

theorem fenceFace_nextId (s : State) (k face : Nat) : (fenceFace s k face).mem.nextId = s.mem.nextId := by
  simp only [fenceFace]
  repeat' split
  all_goals simp only [faultCore_mem, State.updCore, State.setCore, hostRead, waitEntry, leaveEntry_mem]

theorem relThread_nextId (s : State) (k : Nat) (r : Req) : (relThread s k r).2.mem.nextId = s.mem.nextId := by
  simp only [relThread]
  split
  · exact fenceFace_nextId ..
  · rfl

/-- A fence for each face that has to be fenced. -/
theorem foldl_fenceFace_nextId (k b : Nat) (fs : List Nat) (s : State) :
    (fs.foldl (fun s f => if (s.core k).hostSt.any (fun h => h.req.faceNo == f && decide (h.ord < b)) then fenceFace s k f else s)
      s).mem.nextId = s.mem.nextId := by
  induction fs generalizing s with
  | nil => rfl
  | cons f fs ih =>
    rw [List.foldl_cons, ih]
    split
    · exact fenceFace_nextId ..
    · rfl

theorem relCore_nextId (s : State) (k iss : Nat) (r : Req) : (relCore s k iss r).2.mem.nextId = s.mem.nextId := by
  simp only [relCore]
  rw [foldl_fenceFace_nextId]
  split <;> rfl

theorem relScope_nextId (s : State) (k iss : Nat) (core : Bool) (r : Req) :
    (relScope s k iss core r).2.mem.nextId = s.mem.nextId := by
  cases core
  · exact relThread_nextId ..
  · exact relCore_nextId ..

theorem relDone_mem (s : State) (k : Nat) (r : Req) : (relDone s k r).mem = s.mem := by
  simp only [relDone]
  split <;> rfl

theorem setWait_mem (s : State) (g : Grp) (ls : List Nat) (st : ThreadState) (w : Wait) : (setWait s g ls st w).mem = s.mem := by
  obtain ⟨c, h⟩ := setWait_setCore s g ls st w
  rw [h]
  rfl

/-- The state that a lane answers, if any, has a property. -/
def Lane.Leaves (p : State → Prop) : Lane → Prop
  | .done t => p t
  | .wait t _ _ => p t
  | .fault _ _ => True

theorem afterRel_leaves_nextId {n : Nat} (core : Bool) (g : Grp) (iss l : Nat) {s : State} (h : s.mem.nextId = n) :
    (afterRel true core g iss l .done s).Leaves (fun t => t.mem.nextId = n) := by
  have hrel := relScope_nextId s g.k iss core (g.req l)
  simp only [afterRel, Bool.not_true, Bool.false_eq_true, if_false]
  split
  · next t ht =>
    rw [ht] at hrel
    exact (congrArg Mem.nextId (relDone_mem t g.k (g.req l))).trans (hrel.trans h)
  · next t ht =>
    rw [ht] at hrel
    exact hrel.trans h

/-- One lane's turn in `runLanes`: what has run so far, with the lanes that are done and the fault that one met. -/
def laneTurn (g : Grp) (clash : State → Nat → Nat → Bool) (f : Nat → State → Lane) (x : State × List Nat × Option (Nat × Nat)) (l : Nat) :
    State × List Nat × Option (Nat × Nat) :=
  if (List.range l).any (fun j => standsBehind x.1 g j && !x.2.1.contains j && clash x.1 j l) then
    (setWait x.1 g [l] .waitMemory .order, x.2.1, x.2.2)
  else match f l x.1 with
    | .done t => (t, x.2.1 ++ [l], x.2.2)
    | .wait t st w => (setWait t g [l] st w, x.2.1, x.2.2)
    | .fault c q => (x.1, x.2.1, some (c, q))

/-- What an instruction answers when its lanes have had their turns. -/
def lanesDid (g : Grp) (x : State × List Nat × Option (Nat × Nat)) : Did :=
  match x.2.2 with
  | some (c, _) => .fault c g.lanes 0
  | none => .part x.1 x.2.1

theorem runLanes_eq (g : Grp) (clash : State → Nat → Nat → Bool) (f : Nat → State → Lane) (s : State) :
    runLanes g clash f s = lanesDid g (g.lanes.foldl (laneTurn g clash f) (s, [], none)) := rfl

section Congr
variable {p : State → Prop} {g : Grp} {clash : State → Nat → Nat → Bool} {f f' : Nat → State → Lane}
  (hf : ∀ l s, p s → f l s = f' l s ∧ (f' l s).Leaves p) (hw : ∀ s ls st w, p s → p (setWait s g ls st w))
include hf hw

/-- A lane has the same turn under both functions, and leaves a state with the property. -/
theorem laneTurn_congr {x : State × List Nat × Option (Nat × Nat)} (hx : p x.1) (l : Nat) :
    laneTurn g clash f x l = laneTurn g clash f' x l ∧ p (laneTurn g clash f' x l).1 := by
  obtain ⟨heq, hleaves⟩ := hf l x.1 hx
  refine ⟨by simp only [laneTurn, heq], ?_⟩
  simp only [laneTurn]
  split
  · exact hw _ _ _ _ hx
  · revert hleaves
    cases f' l x.1 with
    | done t => exact id
    | wait t st w => exact hw _ _ _ _
    | fault c q => exact fun _ => hx

/-- Lanes run alike under two functions that agree in every state that the run passes through. -/
theorem runLanes_congr {s : State} (hs : p s) : runLanes g clash f s = runLanes g clash f' s := by
  have fold (ls : List Nat) : ∀ x : State × List Nat × Option (Nat × Nat), p x.1 →
      ls.foldl (laneTurn g clash f) x = ls.foldl (laneTurn g clash f') x := by
    induction ls with
    | nil => exact fun _ _ => rfl
    | cons l ls ih =>
      intro x hx
      obtain ⟨heq, hp⟩ := laneTurn_congr hf hw (clash := clash) hx l
      rw [List.foldl_cons, List.foldl_cons, heq]
      exact ih _ hp
  rw [runLanes_eq, runLanes_eq, fold g.lanes (s, [], none) hs]

end Congr

/-- The number before which a release covers accesses may be read in any state of its run. -/
theorem runLanes_afterRel_nextId (g : Grp) (core : Bool) (s : State) :
    runLanes g noClash (fun l t => afterRel true core g (unwait t g).mem.nextId l .done t) s =
      runLanes g noClash (fun l t => afterRel true core g s.mem.nextId l .done t) s := by
  refine runLanes_congr (p := fun t => t.mem.nextId = s.mem.nextId) (fun l t ht => ⟨?_, afterRel_leaves_nextId core g _ l ht⟩)
    (fun t ls st w ht => (congrArg Mem.nextId (setWait_mem t g ls st w)).trans ht) rfl
  rw [unwait, setWait_mem, ht]

/-! The instructions. -/

theorem exec_rel (o : OrdOp) (s : State) : exec (.rel o) s = execRel o s := rfl

theorem exec_acqA (o : OrdOp) (s : State) : exec (.acqA o) s = execAcqA o s := rfl

theorem exec_acqR (o : OrdOp) (s : State) : exec (.acqR o) s = execAcqR o s := rfl

theorem exec_cacheInvp (o : RrrOp) (s : State) : exec (.cacheInvp o) s = execCacheInvp o s := rfl

/-- BAR.SYNC and BAR.ARRIVE are `barInstr`. -/
theorem exec_of_mem_bars {e : (BarOp → Instr) × Bool} (he : e ∈ [(Instr.barSync, true), (Instr.barArrive, false)]) (o : BarOp)
    (s : State) : exec (e.1 o) s = barInstr o e.2 s := by
  repeat
    obtain _ | ⟨_, he⟩ := he
    · rfl
  nomatch he

/-- A range that no lane may not acquire leaves TLB_PCAUSE as it is (R157). -/
theorem execAcqR_completes {o : OrdOp}
    (h : Issues s o.core o.face (!o.fn0 && o.rd == 0) [useOf o.ra true false, useOf o.rb true false] g)
    (hnone : acqFault s g o = none) (hnone' : acqFault (unwait s g) g o = none)
    (hrun : acquire g (fun s l => rangeKeys s g.k (rdReg s g l o.ra.toNat true).toNat (rdReg s g l o.rb.toNat true).toNat) (unwait s g) =
      .part t g.lanes) :
    execAcqR o s = .next (issuedTo t g 4) := by
  simp only [execAcqR, h.mayIssue, Option.bind_some, hnone]
  exact issue_part h (by simp only [hnone', hrun])

theorem execRel_completes {o : OrdOp} (h : Issues s o.core o.face (o.rd == 0 && o.ra == 0 && o.rb == 0) [] g)
    (hfree : orderBlock (unwait s g) g.k (g.req (g.lanes.headD 0)) = none)
    (hrun : runLanes g noClash (fun l s => afterRel true o.fn0 g (unwait s g).mem.nextId l .done s) (unwait s g) = .part t g.lanes) :
    execRel o s = .next (issuedTo t g 4) := by
  unfold execRel
  rw [runLanes_afterRel_nextId] at hrun
  refine issue_part h ?_
  simp only [hfree]
  exact hrun

/-- R159: threads with a count in range whose stores are performed arrive. -/
theorem barInstr_completes {o : BarOp} {wait : Bool} (h : Issues s o.core o.face (o.rd == 0 && o.rb == 0) [⟨o.ra.toNat, 1, false⟩] g)
    (hcount : g.lanes.any (fun l => (rdReg (unwait s g) g l o.ra.toNat false).toNat = 0 ||
      decide (1025 < (rdReg (unwait s g) g l o.ra.toNat false).toNat)) = false)
    (hrel : g.lanes.foldl (fun (x : Bool × State) l => (x.1 && (relThread x.2 g.k (g.req l)).1, (relThread x.2 g.k (g.req l)).2))
      (true, unwait s g) = (true, t)) :
    barInstr o wait s =
      .next (issuedTo (barArrive t g o.bar.val (rdReg t g (g.lanes.headD 0) o.ra.toNat false).toNat wait) g 4) := by
  unfold barInstr
  exact issue_ok h.mayIssue (by simp only [hcount, hrel, if_false, if_true, Bool.false_eq_true])

/-- R174: outside a privileged context a privileged instruction raises 0x02. -/
theorem issuePriv_unprivileged {body : Grp → State → Did} (hpriv : privileged s k = false) (hoffer : offer s k f = some g) :
    issuePriv s k f len legal us body = .next (faultGrp s g 2 g.lanes 0) := by
  simp only [issuePriv, hpriv, hoffer, if_false, Bool.false_eq_true]

theorem issuePriv_privileged {body : Grp → State → Did} (hpriv : privileged s k = true) :
    issuePriv s k f len legal us body = issue s k f len legal us body := by
  simp only [issuePriv, hpriv, if_true]

/-! System registers and control. -/

/-- SR.RD and a read of VE_FLAGS are `sregRd`. -/
theorem exec_of_mem_sregReads {c : RriOp → Instr} (hc : c ∈ [Instr.srRd, fun o => .veFlagsAccess o false]) (o : RriOp) (s : State) :
    exec (c o) s = sregRd o s := by
  repeat
    obtain _ | ⟨_, hc⟩ := hc
    · rfl
  nomatch hc

/-- SR.WR, the writes of MX_CHAIN, TRC_MARK and VE_FLAGS are `sregWr`. -/
theorem exec_of_mem_sregWrites {c : RriOp → Instr}
    (hc : c ∈ [Instr.srWr, .mxChainWrite, .trcMark, fun o => .veFlagsAccess o true]) (o : RriOp) (s : State) :
    exec (c o) s = sregWr o s := by
  repeat
    obtain _ | ⟨_, hc⟩ := hc
    · rfl
  nomatch hc

/-- A register access issues as any instruction does, privileged numbers in a privileged context (R174). -/
theorem sregIssue_eq {o : RriOp} {body : Grp → State → Did} (h : RegIssues s o legal us g) :
    sregIssue o legal us body s =
      issue s o.core o.face 4 (legal && o.imm.toNat / 2 ^ 12 == 0 && sregFace (o.imm.toNat % 2 ^ 12) o.face) us body := by
  simp only [sregIssue, sregNo]
  by_cases hno : 0x800 ≤ o.imm.toNat % 2 ^ 12
  · exact (if_pos hno).trans (issuePriv_privileged (h.2 hno))
  · exact if_neg hno

theorem exec_nop (o : RrrOp) (s : State) : exec (.nop o) s = execNop o s := rfl

theorem exec_cvYield (o : RrrOp) (s : State) : exec (.cvYield o) s = execCvYield o s := rfl

theorem exec_ctlEnd (o : RrrOp) (s : State) : exec (.ctlEnd o) s = execCtlEnd o s := rfl

theorem exec_exit (o : RrrOp) (s : State) : exec (.exit o) s = execExit o s := rfl

theorem exec_cvConv (o : RrrOp) (s : State) : exec (.cvConv o) s = execCvConv o s := rfl

theorem exec_brk (o : RrrOp) (s : State) : exec (.brk o) s = execBrk o s := rfl

theorem issue_yield {body : Grp → State → Did} (h : Issues s k f legal us g) (hb : body g (unwait s g) = .yield t) :
    issue s k f len legal us body = .next (advance (issued t { g with served := BitVec.allOnes 32 }) g g.lanes len) := by
  rw [issue_of_mayIssue h.mayIssue, hb]

/-- R162: in a context with the debug attribute BRK stops the context. -/
theorem execBrk_stops {o : RrrOp} {n i : Nat} (h : Issues s o.core o.face (ctlLegal o) [] g)
    (hctx : ((unwait s g).core g.k).ctx = some (n, i)) (hdebug : bit (((unwait s g).ctx n).desc.headD 0) 61 = true) :
    execBrk o s = .next (issued (preempt (unwait s g) n true) g) := by
  unfold execBrk
  exact issue_moved h.mayIssue (by simp only [hctx, hdebug, if_true])

theorem execExit_completes {o : RrrOp} (h : Issues s o.core o.face (ctlLegal o && !isCc o.face) [] g)
    (hdiv : divergeFault s g true = none) :
    execExit o s = .next (issued (wakeCore (setWait (unwait s g) g g.lanes .idle .none) g.k) g) := by
  simp only [execExit, h.mayIssue, Option.bind_some, hdiv]
  exact issue_moved h.mayIssue rfl

theorem execCvConv_completes {o : RrrOp} (h : Issues s o.core o.face (ctlLegal o && !isCc o.face) [] g)
    (hdiv : divergeFault s g false = none) : execCvConv o s = .next (issued (park (unwait s g) g none) g) := by
  simp only [execCvConv, h.mayIssue, Option.bind_some, hdiv]
  exact issue_moved h.mayIssue rfl

end Sys2Proof.Machine

open Sys2Proof Sys2Proof.Machine

/-- Settles O9. -/
theorem loadsComplete : Obligations.LoadsComplete := by
  unfold Obligations.LoadsComplete
  refine ⟨fun e he o s t g h hacc => ?load, fun o s t g h hacc => ?acquire⟩
  case load =>
    rw [exec_of_mem_loadForms he]
    exact issue_memRunWith_completes h hacc.1 hacc.2
  case acquire =>
    rw [exec_ldAcq]
    exact issue_memRunWith_completes h hacc.1 hacc.2

/-- Settles O10. -/
theorem storesComplete : Obligations.StoresComplete := by
  unfold Obligations.StoresComplete
  refine ⟨fun e he o s t g h hacc => ?store, fun o s t g h hnone hrun => ?release⟩
  case store =>
    rw [exec_of_mem_storeForms he]
    exact issue_memRunWith_completes h hacc.1 hacc.2
  case release =>
    rw [exec_stRel]
    exact issue_memRunWith_completes h hnone hrun

/-- Settles O12. -/
theorem scratchpadAccessesComplete : Obligations.ScratchpadAccessesComplete := by
  unfold Obligations.ScratchpadAccessesComplete
  intro e he o s t g h hnone hnone' hrun
  rw [exec_of_mem_padForms he]
  exact issue_pad_completes (addr := fun g s l => spAddr s g l o.ra (o.off.signExtend 32)) h hnone hnone' hrun

/-- Settles O13. -/
theorem atomicsComplete : Obligations.AtomicsComplete := by
  unfold Obligations.AtomicsComplete
  refine ⟨fun e he o s t g h hacc => ?completes, fun e _ o s g l hw horder htransit hheld hbehind => ?value⟩
  case completes =>
    rw [exec_of_mem_amoForms he]
    cases hspace : o.space with
    | true =>
      simp only [hspace, if_true] at hacc
      obtain ⟨hnone, hnone', hrun⟩ := hacc
      simp only [amoInstr, hspace, if_true]
      exact issue_pad_completes (addr := fun g s l => spAddr s g l o.ra 0) h hnone hnone' hrun
    | false =>
      simp only [hspace, if_false, Bool.false_eq_true] at hacc
      obtain ⟨hnone, hrun⟩ := hacc
      simp only [amoInstr, hspace, if_false, Bool.false_eq_true]
      exact issue_memRunWith_completes h hnone hrun
  case value =>
    have hbytes := amoSp_bytes_of_w (s := s) (g := g) (op := e.2) (l := l) hw
    rw [spLane_of_nothing horder (hbytes.symm ▸ hheld) hbehind (spMeets_of_amo rfl (hbytes.symm ▸ htransit)), spPerform_amoSp hw]

/-- Settles O14. -/
theorem orderingComplete : Obligations.OrderingComplete := by
  unfold Obligations.OrderingComplete
  refine ⟨fun o s t g h hfree hrun => ?rel, fun o s t g h hrun => ?acqA, fun o s t g h hnone hnone' hrun => ?acqR⟩
  case rel => exact (exec_rel o s).trans (execRel_completes h hfree hrun)
  case acqA =>
    rw [exec_acqA, execAcqA]
    exact issue_part h hrun
  case acqR => exact (exec_acqR o s).trans (execAcqR_completes h hnone hnone' hrun)

/-- Settles O15. -/
theorem barriersComplete : Obligations.BarriersComplete := by
  unfold Obligations.BarriersComplete
  exact fun e he o s t g h hcount hrel => (exec_of_mem_bars he o s).trans (barInstr_completes h hcount hrel)

/-- Settles O16. -/
theorem cacheInvalidateCompletes : Obligations.CacheInvalidateCompletes := by
  unfold Obligations.CacheInvalidateCompletes
  refine ⟨fun o s g hpriv h => ?privileged, fun o s g hpriv hoffer => ?other⟩
  case privileged =>
    rw [exec_cacheInvp, execCacheInvp, issuePriv_privileged hpriv]
    exact issue_ok h.mayIssue rfl
  case other => exact (exec_cacheInvp o s).trans (issuePriv_unprivileged hpriv hoffer)

/-- Settles O17. -/
theorem systemRegistersComplete : Obligations.SystemRegistersComplete := by
  unfold Obligations.SystemRegistersComplete
  refine ⟨fun c hc o s g h hmark hwait => ?read, fun c hc o s g h hwait => ?write⟩
  case read =>
    rw [exec_of_mem_sregReads hc, sregRd, sregIssue_eq h]
    exact issue_ok h.1.mayIssue (by simp only [sregNo, hwait, hmark, if_false]; rfl)
  case write =>
    rw [exec_of_mem_sregWrites hc, sregWr, sregIssue_eq h]
    exact issue_ok h.1.mayIssue (by simp only [sregNo, hwait])

/-- Settles O18. -/
theorem controlInstructionsComplete : Obligations.ControlInstructionsComplete := by
  unfold Obligations.ControlInstructionsComplete
  refine ⟨fun o s g h => ?nop, fun o s g h => ?yields, fun o s g h => ?ends, fun o s g h hdiv => ?exits, fun o s g h hdiv => ?converges,
    fun o s g n i h hctx hdebug => ?breaks⟩
  case nop =>
    rw [exec_nop, execNop]
    exact issue_ok h.mayIssue rfl
  case yields =>
    rw [exec_cvYield, execCvYield]
    exact issue_yield h rfl
  case ends =>
    rw [exec_ctlEnd, execCtlEnd]
    exact issue_moved h.mayIssue rfl
  case exits => exact (exec_exit o s).trans (execExit_completes h hdiv)
  case converges => exact (exec_cvConv o s).trans (execCvConv_completes h hdiv)
  case breaks => exact (exec_brk o s).trans (execBrk_stops h hctx hdebug)

end


section
/-!
Rules of a core's parts: what the shared operations on the array, the caravans, the counters and the trace leave of a core.
-/
namespace Sys2Proof.Machine

@[simp] theorem core_updMx (s : State) (k j : Nat) (f : Matrix → Matrix) :
    (s.updMx k f).core j = if j = k then { s.core k with mx := f (s.core k).mx } else s.core j := State.core_updCore ..

@[simp] theorem core_updSp (s : State) (k j : Nat) (f : Scratch → Scratch) :
    (s.updSp k f).core j = if j = k then { s.core k with sp := f (s.core k).sp } else s.core j := State.core_updCore ..

@[simp] theorem core_updCv (s : State) (k v j : Nat) (f : Caravan → Caravan) :
    (s.updCv k v f).core j = if j = k then { s.core k with cvs := tput (s.core k).cvs v (f ((s.core k).cv v)) } else s.core j :=
  State.core_updCore ..

/-- The core is the same when the table of the cores is. -/
theorem core_of_cores {s t : State} (h : t.cores = s.cores) (j : Nat) : t.core j = s.core j := by simp only [State.core, h]

@[simp] theorem core_setBudget (s : State) (k j : Nat) (b : Budget) : (s.setBudget k b).core j = s.core j := rfl

@[simp] theorem core_working (s : State) (k j : Nat) : (s.working k).core j = s.core j := rfl

@[simp] theorem core_newId (s : State) (j : Nat) : s.newId.2.core j = s.core j := rfl

@[simp] theorem core_free (s : State) (j : Nat) : s.free.2.core j = s.core j := rfl

@[simp] theorem core_bumpCore (s : State) (k ev um n j : Nat) : (s.bumpCore k ev um n).core j = s.core j := by
  obtain ⟨d, h⟩ := bumpCore_frame s k ev um n
  rw [h]
  rfl

@[simp] theorem core_countDrops (s : State) (b n j : Nat) : (s.countDrops b n).core j = s.core j := by
  simp only [State.countDrops]
  split <;> rfl

@[simp] theorem core_emit (s : State) (b kind unit ctx info : Nat) (a0 a1 : W64) (j : Nat) :
    (s.emit b kind unit ctx info a0 a1).core j = s.core j := by
  simp only [State.emit]
  split
  · rfl
  · split
    · exact core_countDrops ..
    · rfl

@[simp] theorem core_wakeCore (s : State) (k j : Nat) :
    (wakeCore s k).core j = if j = k then (s.core k).wake Wait.again else s.core j := State.core_updCore ..

/-- Issue changes of a core the program counters and the order of its faces, and nothing else. -/
theorem core_issuedTo_frame (t : State) (g : Grp) (len j : Nat) : ∃ pc order cvs,
    (issuedTo t g len).core j = { t.core j with pc := pc, order := order, cvs := cvs } := by
  by_cases hj : j = g.k
  · subst hj
    simp only [issuedTo, advance, issued]
    cases g.cv <;> simp only [core_updCv, State.core_updCore, core_bumpCore, core_working, if_true] <;> exact ⟨_, _, _, rfl⟩
  · simp only [issuedTo, advance, issued]
    cases g.cv <;> simp only [core_updCv, State.core_updCore, core_bumpCore, core_working, if_neg hj] <;> exact ⟨_, _, _, rfl⟩

section IssuedTo
variable (t : State) (g : Grp) (len j : Nat)

@[simp] theorem mx_issuedTo : ((issuedTo t g len).core j).mx = (t.core j).mx := by
  obtain ⟨a, b, c, h⟩ := core_issuedTo_frame t g len j
  rw [h]

@[simp] theorem sp_issuedTo : ((issuedTo t g len).core j).sp = (t.core j).sp := by
  obtain ⟨a, b, c, h⟩ := core_issuedTo_frame t g len j
  rw [h]

@[simp] theorem ve_issuedTo : ((issuedTo t g len).core j).ve = (t.core j).ve := by
  obtain ⟨a, b, c, h⟩ := core_issuedTo_frame t g len j
  rw [h]

@[simp] theorem dma_issuedTo : ((issuedTo t g len).core j).dma = (t.core j).dma := by
  obtain ⟨a, b, c, h⟩ := core_issuedTo_frame t g len j
  rw [h]

@[simp] theorem sPend_issuedTo : ((issuedTo t g len).core j).sPend = (t.core j).sPend := by
  obtain ⟨a, b, c, h⟩ := core_issuedTo_frame t g len j
  rw [h]

end IssuedTo

/-! Waking threads changes their states and nothing else of the core's engines. -/

theorem tget_map {α β : Type} (d : α) (f : α → β) (t : Tbl α) (k : Nat) : tget (f d) (t.map (fun e => (e.1, f e.2))) k = f (tget d t k) := by
  induction t with
  | nil => rfl
  | cons e r ih =>
    simp only [List.map_cons, tget, ih]
    split <;> rfl

section Wake
variable (c : Core) (p : Wait → Bool)

@[simp] theorem Core.wake_mx : (c.wake p).mx = c.mx := rfl
@[simp] theorem Core.wake_sp : (c.wake p).sp = c.sp := rfl
@[simp] theorem Core.wake_ve : (c.wake p).ve = c.ve := rfl
@[simp] theorem Core.wake_dma : (c.wake p).dma = c.dma := rfl

/-- The threads of a caravan that wait for something of `p` are ready. -/
def wakeCv (x : Caravan) : Caravan := x.setState ((x.waits.filter (fun w => p w.2)).map Prod.fst) .ready .none

@[simp] theorem Core.cv_wake (v : Nat) : (c.wake p).cv v = wakeCv p (c.cv v) := tget_map Caravan.dflt (wakeCv p) c.cvs v

@[simp] theorem wakeCv_coll (x : Caravan) : (wakeCv p x).coll = x.coll := rfl

end Wake

section Settle
variable (m : Matrix)

/-- What settling the array can change (R80). -/
theorem Matrix.settle_frame : ∃ mode run window, m.settle = { m with mode := mode, run := run, window := window } := by
  simp only [Matrix.settle]
  repeat' split
  all_goals exact ⟨_, _, _, rfl⟩

@[simp] theorem Matrix.settle_queue : m.settle.queue = m.queue := by
  obtain ⟨a, b, c, h⟩ := m.settle_frame
  rw [h]

@[simp] theorem Matrix.settle_converged : m.settle.converged = m.converged := by
  obtain ⟨a, b, c, h⟩ := m.settle_frame
  rw [h]

@[simp] theorem Matrix.settle_sections : m.settle.sections = m.sections := by
  obtain ⟨a, b, c, h⟩ := m.settle_frame
  rw [h]

@[simp] theorem Matrix.settle_acc : m.settle.acc = m.acc := by
  obtain ⟨a, b, c, h⟩ := m.settle_frame
  rw [h]

end Settle

end Sys2Proof.Machine

end

section
/-!
The matrix array (03, 04, R126): collectives, the matrix queue, the stages of a pass, accumulation, drains, array modes and chains.
-/
namespace Sys2Proof.Machine

theorem exec_kernelEnd (k : Fin 256) (s : State) : exec (.kernelEnd k) s = execKernelEnd k s := rfl

theorem exec_collectiveConverge (k : Fin 256) (v : Fin 32) (s : State) :
    exec (.collectiveConverge k v) s = execCollectiveConverge k v s := rfl

theorem exec_collectiveSectionFree (k : Fin 256) (sec : Fin 16) (s : State) :
    exec (.collectiveSectionFree k sec) s = execCollectiveSectionFree k sec s := rfl

theorem exec_collectiveCReadable (k : Fin 256) (v : Fin 32) (s : State) :
    exec (.collectiveCReadable k v) s = execCollectiveCReadable k v s := rfl

/-- A collective that joins those that have converged: the mode that the array enters (R80). -/
theorem Matrix.enter_converged (m : Matrix) (v : Nat) :
    Matrix.enter { m with converged := m.converged ++ [v] } =
      { m with
        converged := m.converged ++ [v], mode := if m.mode = .idle then .sections else m.mode
        window := if m.mode = .idle then fld m.arb 31 24 != 0 && decide (fld m.arb 31 24 ≤ m.run) else m.window } := by
  have some_converged : (m.converged ++ [v]).isEmpty = false := by simp
  by_cases hm : m.mode = .idle
  · simp only [Matrix.enter, Matrix.yields, some_converged, hm, if_true, Bool.not_false, Bool.true_and]
  · simp only [Matrix.enter, hm, if_false]

/-- R126: the results of a finished collective reach its caravan, and the collective is over. -/
theorem execCollectiveCReadable_ends {k : Fin 256} {v : Fin 32} {s : State} {q : Coll} (hcoll : ((s.core k).cv v).coll = some q)
    (hphase : q.phase = 3) : ∃ t, execCollectiveCReadable k v s = .next t ∧ ((t.core k).cv v).coll = none := by
  have ended (u : State) : (((wakeCore ((u.updCv k v (fun x => { x with coll := none })).bumpCore k 7 2 16384) k).core k).cv v).coll = none := by
    simp only [core_wakeCore, if_true, Core.cv_wake, wakeCv_coll, core_bumpCore, core_updCv]
    simp only [Core.cv, tget_tput_same]
  simp only [execCollectiveCReadable, hcoll, hphase, ne_eq, not_true_eq_false, if_false]
  exact ⟨_, rfl, ended _⟩

/-- R123: the first collective that has converged takes a free section of the array, when the power budget admits it. -/
theorem execCollectiveGrant_grants {k : Fin 256} {s : State} {v sec : Nat} {rest : List Nat} {q : Coll} (hruns : coreRuns s k = true)
    (hconv : (s.core k).mx.converged = v :: rest) (hcoll : ((s.core k).cv v).coll = some q)
    (hfree : (List.range 16).find? (fun i => (tfind (s.core k).mx.sections i).isNone) = some sec)
    (hmode : (s.core k).mx.mode = .sections) (hbudget : geomR q.op.xfmt.toNat ≤ (s.budget k).mx) :
    ∃ t, execCollectiveGrant k s = .next t ∧
      ((t.core k).cv v).coll = some { q with phase := 2, sec := sec, frag := ((s.core k).cv v).regs } ∧
      (t.core k).mx.sections = tput (s.core k).mx.sections sec v ∧ (t.core k).mx.converged = rest := by
  have enough : decide ((s.budget k).mx < geomR q.op.xfmt.toNat) = false := decide_eq_false (Nat.not_lt.mpr hbudget)
  simp only [execCollectiveGrant, hconv, hcoll, hfree, hruns, hmode, enough, bne_self_eq_false, Bool.not_true, Bool.or_self, if_false,
    Bool.false_eq_true]
  refine ⟨_, rfl, ?_⟩
  simp only [core_wakeCore, core_emit, core_updMx, core_updCv, core_setBudget, if_true, Core.cv_wake, wakeCv_coll, Core.wake_mx,
    Matrix.settle_sections, Matrix.settle_converged, and_self, and_true]
  simp only [Core.cv, tget_tput_same]

end Sys2Proof.Machine

open Sys2Proof Sys2Proof.Machine

/-- Settles O20. -/
theorem collectivesComplete : Obligations.CollectivesComplete := by
  unfold Obligations.CollectivesComplete
  refine ⟨fun k s hruns hkend hdrained hquiet => ?ends, fun k v s op hruns hparked hall hop hcoll => ?converges,
    fun k s v sec rest q hruns hconv hcoll hfree hmode hbudget => ?granted, fun k sec s v hsec => ?freed,
    fun k v s q hcoll hphase => ?readable⟩
  case ends => simp only [exec_kernelEnd, execKernelEnd, hruns, hkend, hdrained, hquiet, bne_self_eq_false, Bool.not_true, Bool.or_self,
      if_false, if_true, Bool.false_eq_true]
  case converges =>
    have hall' : (List.range 32).all (fun l => decide (((s.core k).cv v).state l = .idle) || decide (((s.core k).cv v).state l = .parked)) =
        true := by
      simpa [List.all_eq_true] using hall
    have some_parked : ((s.core k).cv v).parked.isEmpty = false := List.isEmpty_eq_false_iff.mpr hparked
    simp only [exec_collectiveConverge, execCollectiveConverge, hruns, some_parked, hall', hop, hcoll, Matrix.enter_converged,
      Bool.not_true, Bool.or_self, if_false, Bool.false_eq_true, Option.isSome_none]
  case granted =>
    obtain ⟨t, ht, hq, hs, hc⟩ := execCollectiveGrant_grants hruns hconv hcoll hfree hmode hbudget
    exact ⟨t, ht, by rw [hq]; rfl, by rw [hq]; rfl, by rw [hq]; rfl, by rw [hs, tfind_tput_same], hc⟩
  case freed => simp only [exec_collectiveSectionFree, execCollectiveSectionFree, hsec]
  case readable => exact exec_collectiveCReadable k v s ▸ execCollectiveCReadable_ends hcoll hphase

end

section
namespace Sys2Proof.Machine

/-! The instructions of the array. -/

/-- A double word of two words, as `BitVec.append` writes it. -/
theorem ofNat_words_eq_append (lo hi : W64) : BitVec.ofNat 128 (lo.toNat + 2 ^ 64 * hi.toNat) = BitVec.append hi lo := by
  apply BitVec.eq_of_toNat_eq
  show _ = (hi ++ lo).toNat
  rw [BitVec.toNat_append, ← Nat.shiftLeft_add_eq_or_of_lt lo.isLt, Nat.shiftLeft_eq, BitVec.toNat_ofNat]
  have := lo.isLt
  have := hi.isLt
  omega

/-- The halves of a double word. -/
theorem ofNat_half_eq_extractLsb' (d : W128) (hi : Bool) :
    BitVec.ofNat 64 (if hi then d.toNat / 2 ^ 64 else d.toNat) = d.extractLsb' (if hi then 64 else 0) 64 := by
  apply BitVec.eq_of_toNat_eq
  cases hi <;> simp [BitVec.extractLsb'_toNat, Nat.shiftRight_eq_div_pow]

theorem exec_mtWr (o : RrrOp) (s : State) : exec (.mtWr o) s = execMtWr o s := rfl

/-- MT.RDL and MT.RDH are `mtRead` of a half, which stands at bit 0 or 64. -/
theorem exec_of_mem_mtReads {e : (RrrOp → Instr) × Nat} (he : e ∈ [(Instr.mtRdl, 0), (Instr.mtRdh, 64)]) (o : RrrOp) (s : State) :
    ∃ hi, exec (e.1 o) s = mtRead o hi s ∧ e.2 = if hi then 64 else 0 := by
  obtain _ | ⟨_, he⟩ := he
  · exact ⟨false, rfl, rfl⟩
  obtain _ | ⟨_, he⟩ := he
  · exact ⟨true, rfl, rfl⟩
  nomatch he

theorem exec_mxPass (o : RrrOp) (s : State) : exec (.mxPass o) s = execMxPass o s := rfl

theorem exec_mxDrain (o : RrrOp) (s : State) : exec (.mxDrain o) s = execMxDrain o s := rfl

/-- The entry that PASS or DRAIN makes: a pass of a chain member joins the member's next step (R90). -/
def enteredMx (s : State) (g : Grp) (drain : Bool) (desc : W128) : MxCmd :=
  MxCmd.fresh s.mem.nextId drain desc g.pc (s.core g.k).sp.pmap
    (if (chainOf s g.k).isSome && !drain then (s.core g.k).mx.stepIn + 1 else 0)

/-- R165: a queue with room takes the entry. -/
theorem mxEnter_ok {s : State} {g : Grp} {drain : Bool} {desc : W128} (horder : orderBlock s g.k .cc = none)
    (hroom : (s.core g.k).mx.queue.length < 16) :
    ∃ t, mxEnter g drain desc s = .ok t ∧ (t.core g.k).mx.queue = (s.core g.k).mx.queue ++ [enteredMx s g drain desc] := by
  simp only [mxEnter, horder, if_neg (Nat.not_le.mpr hroom)]
  exact ⟨_, rfl, by simp only [core_updMx, if_true, core_newId]; rfl⟩

/-- What an issue of PASS or DRAIN leaves in the queue. -/
theorem issue_mxEnter {s : State} {k : Nat} {f : Face} {legal : Bool} {us : List RegUse} {g : Grp} {drain : Bool}
    {desc : Grp → State → W128} (h : Issues s k f legal us g) (horder : orderBlock (unwait s g) g.k .cc = none)
    (hroom : ((unwait s g).core g.k).mx.queue.length < 16) :
    ∃ t, issue s k f 4 legal us (fun g s => mxEnter g drain (desc g s) s) = .next t ∧
      (t.core g.k).mx.queue = ((unwait s g).core g.k).mx.queue ++ [enteredMx (unwait s g) g drain (desc g (unwait s g))] := by
  obtain ⟨t, ht, hq⟩ := mxEnter_ok (drain := drain) (desc := desc g (unwait s g)) horder hroom
  exact ⟨_, issue_ok h.mayIssue ht, (congrArg Matrix.queue (mx_issuedTo t g 4 g.k)).trans hq⟩

end Sys2Proof.Machine

open Sys2Proof Sys2Proof.Machine

/-- Settles O21. -/
theorem matrixInstructionsComplete : Obligations.MatrixInstructionsComplete := by
  unfold Obligations.MatrixInstructionsComplete
  refine ⟨fun o s g h => ?writes, fun e he o s g h => ?reads, fun o s g h horder hroom => ?pass, fun o s g h horder hroom => ?drain⟩
  case writes =>
    have legal : (mxLegal o true true true && mtIndexOk o.rd) = (isCc o.face && !o.w && o.rd.toNat / 8 == 0) := by
      simp only [mxLegal, mtIndexOk, Bool.true_or, Bool.and_true]
    rw [exec_mtWr, execMtWr, legal]
    exact issue_ok h.mayIssue (by simp only [ofNat_words_eq_append])
  case reads =>
    have legal : (mxLegal o true true false && mtIndexOk o.ra) = (isCc o.face && !o.w && o.rb == 0 && o.ra.toNat / 8 == 0) := by
      simp only [mxLegal, mtIndexOk, Bool.true_or, Bool.false_or, Bool.and_true]
    obtain ⟨hi, hexec, hbit⟩ := exec_of_mem_mtReads he o s
    rw [hexec, mtRead, legal, hbit]
    exact issue_ok h.mayIssue (by simp only [ofNat_half_eq_extractLsb'])
  case pass =>
    have legal : (mxLegal o true false false && mtIndexOk o.rd) =
        (isCc o.face && !o.w && o.ra == 0 && o.rb == 0 && o.rd.toNat / 8 == 0) := by
      simp only [mxLegal, mtIndexOk, Bool.true_or, Bool.false_or, Bool.and_true]
    rw [exec_mxPass, execMxPass, legal]
    obtain ⟨t, ht, hq⟩ := issue_mxEnter (drain := false) (desc := fun g s => tget 0#128 (s.core g.k).mx.mt (o.rd.toNat % 8)) h horder hroom
    exact ⟨t, _, ht, hq, rfl, rfl, rfl, rfl, rfl, by simp only [enteredMx, MxCmd.fresh, Bool.not_false, Bool.and_true]⟩
  case drain =>
    have legal : mxLegal o false true true = (isCc o.face && !o.w && o.rd == 0) := by
      simp only [mxLegal, Bool.true_or, Bool.false_or, Bool.and_true]
    rw [exec_mxDrain, execMxDrain, legal]
    obtain ⟨t, ht, hq⟩ := issue_mxEnter (drain := true) (desc := fun _ s => BitVec.ofNat 128
      (((s.core o.core).sreg o.ra.toNat).toNat + 2 ^ 64 * ((s.core o.core).sreg o.rb.toNat).toNat)) h horder hroom
    refine ⟨t, _, ht, hq, rfl, ofNat_words_eq_append _ _, rfl, rfl, rfl, ?_⟩
    simp only [enteredMx, MxCmd.fresh, Bool.not_true, Bool.and_false, if_false, Bool.false_eq_true]

end

section
namespace Sys2Proof.Machine

/-! The stages of a pass. -/

theorem exec_passValidate (k : Fin 256) (s : State) : exec (.passValidate k) s = execPassValidate k s := rfl

theorem exec_weightBandWrite (k : Fin 256) (s : State) : exec (.weightBandWrite k) s = execWeightBandWrite k s := rfl

theorem exec_weightFrontStart (k : Fin 256) (s : State) : exec (.weightFrontStart k) s = execWeightFrontStart k s := rfl

theorem exec_passLastVector (k : Fin 256) (s : State) : exec (.passLastVector k) s = execPassLastVector k s := rfl

/-- R74: with no drain due, no check is made. -/
theorem drainChecks_of_noDrainDue {s : State} {k : Nat} (h : NoDrainDue s k) (n : Nat) : drainChecks k n s = (s, true) := by
  cases n with
  | zero => rfl
  | succ n => simp only [drainChecks, show nextCheck (s.core k).mx.queue 0 = none from h]

@[simp] theorem core_putMx (s : State) (k i j : Nat) (q : MxCmd) : (putMx s k i q).core j =
    if j = k then { s.core k with mx := { (s.core k).mx with queue := (s.core k).mx.queue.set i q } } else s.core j := core_updMx ..

@[simp] theorem core_chargePass (s : State) (k j : Nat) (d : W128) : (chargePass s k d).core j = s.core j := rfl

/-- A state whose core `k` has the queue with entry `i` replaced, every other core being the same. -/
theorem queueSet_of_core {s t : State} {k i : Nat} {q : MxCmd} (hk : (t.core k).mx.queue = (s.core k).mx.queue.set i q)
    (hj : ∀ j, j ≠ k → t.core j = s.core j) : QueueSet s t k i q :=
  ⟨hk, fun j h => by rw [hj j h]⟩

theorem queueSet_putMx (s : State) (k i : Nat) (q : MxCmd) : QueueSet s (putMx s k i q) k i q :=
  queueSet_of_core (by simp) (fun j h => by simp [h])

theorem queueSet_settle (s : State) (k i : Nat) (q : MxCmd) : QueueSet s ((putMx s k i q).updMx k Matrix.settle) k i q :=
  queueSet_of_core (by simp) (fun j h => by simp [h])

/-- What the start of a front leaves of the cores (R71). -/
theorem core_startFront (s : State) (k i j : Nat) (q : MxCmd) : (startFront s k i q).core j =
    if j = k then { s.core k with
      sp := (takeX (s.core k).sp q.desc).2.2
      mx := { (s.core k).mx with
        queue := (s.core k).mx.queue.set i { q with
          state := .running, fronted := true, ximg := (takeX (s.core k).sp q.desc).1, xslots := (takeX (s.core k).sp q.desc).2.1 }
        run := (s.core k).mx.run + 1 } } else s.core j := by
  by_cases hj : j = k
  · subst hj
    simp [startFront]
  · simp [startFront, hj]

/-- R69: the next band of a loading pass; the pass is READY with the last. -/
theorem execWeightBandWrite_loads {k : Fin 256} {s : State} {i : Nat} {q : MxCmd} (hruns : coreRuns s k = true)
    (hnext : nextPass (s.core k) = some (i, q)) (hstate : q.state = .loading)
    (hband : runWaits s k q ⟨false, ((64 * mtWAddr q.desc + 64 * q.bands : Nat) : Int), (64 * mtWStride q.desc : Nat),
      min 64 (wColBytes q.desc - 64 * q.bands), 128, false⟩ = false)
    (hexp : q.bands = 0 → runWaits s k q (wExpRun q.desc) = false) :
    ∃ t, execWeightBandWrite k s = .next t ∧ QueueSet s t k i { loadBand (s.core k).sp q.desc q.bands q with
      state := if 64 * (q.bands + 1) < wColBytes q.desc then .loading else .ready } := by
  have hexp' : (q.bands == 0 && runWaits s k q (wExpRun q.desc)) = false := by
    by_cases h0 : q.bands = 0 <;> simp [h0, hexp]
  have bands : (loadBand (s.core k).sp q.desc q.bands q).bands = q.bands + 1 := rfl
  have state : (loadBand (s.core k).sp q.desc q.bands q).state = .loading := hstate
  simp only [execWeightBandWrite, hruns, hnext, hstate, hband, hexp', bands, Bool.not_true, Bool.or_self, ne_eq, not_true_eq_false,
    if_false, Bool.false_eq_true]
  by_cases hmore : 64 * (q.bands + 1) < wColBytes q.desc
  · simp only [hmore, if_true, ← state]
    exact ⟨_, rfl, queueSet_putMx ..⟩
  · simp only [hmore, if_false]
    exact ⟨_, rfl, queueSet_settle ..⟩

end Sys2Proof.Machine

open Sys2Proof Sys2Proof.Machine

/-- Settles O22. -/
theorem passStagesComplete : Obligations.PassStagesComplete := by
  unfold Obligations.PassStagesComplete
  refine ⟨fun k s i q hruns hdrain hnext hstate hgood => ?valid, fun k s i q hruns hnext hstate hband hexp => ?band,
    fun k s i q hruns hdrain hnext hstep hready hadmits => ?front, fun k s i q hfind => ?last⟩
  case valid =>
    simp only [exec_passValidate, execPassValidate, hruns, drainChecks_of_noDrainDue hdrain, hnext, hstate, hgood, Bool.not_true, ne_eq,
      not_true_eq_false, if_false, Bool.false_eq_true]
    exact ⟨_, rfl, queueSet_putMx ..⟩
  case band => exact exec_weightBandWrite k s ▸ execWeightBandWrite_loads hruns hnext hstate hband hexp
  case front =>
    simp only [exec_weightFrontStart, execWeightFrontStart, hruns, drainChecks_of_noDrainDue hdrain, hnext, hstep, hready, hadmits,
      Bool.not_true, and_self, if_true, if_false, Bool.false_eq_true]
    refine ⟨_, rfl, queueSet_of_core ?_ (fun j hj => ?_), ?_, ?_⟩
    all_goals simp [core_startFront, *]
  case last =>
    simp only [exec_passLastVector, execPassLastVector, hfind]
    exact ⟨_, rfl, queueSet_putMx ..⟩

end

section
namespace Sys2Proof.Machine

/-! Accumulator columns. -/

/-- An accumulator pair reads back what was written to it, in the pair's width, and other columns of the row stay (R63). -/
theorem accPair_setAccPair (m : Matrix) (wide : Bool) (row v : Nat) {n j : Nat} (hn : n < 128) (hj : j < 128) :
    accPair (setAccPair m wide row n v) wide row j = if j = n then v % 2 ^ (if wide then 128 else 64) else accPair m wide row j := by
  have low : 128 * row + j = 128 * row + n ↔ j = n := by omega
  have high : 128 * (row + 1) + j = 128 * (row + 1) + n ↔ j = n := by omega
  have apart : ¬ 128 * row + j = 128 * (row + 1) + n := by omega
  have apart' : ¬ 128 * (row + 1) + j = 128 * row + n := by omega
  cases wide
  · simp only [accPair, setAccPair, tget_tset, low, if_false, Bool.false_eq_true]
    split <;> simp
  · simp only [accPair, setAccPair, tget_tset, low, high, apart, apart', if_true, if_false]
    by_cases h : j = n
    · simp only [h, if_true, BitVec.toNat_ofNat]
      omega
    · simp only [h, if_false]

/-- What pass `q` writes to column `n` of vector `m`, over a column that holds `p` (R63). -/
def columnValue (q : MxCmd) (m n p : Nat) : Nat :=
  if mtAccMode q.desc = 0 then (passColumn q m n 0).1 else (pairMerge (accFmt q.wide) p (passColumn q m n 0).1).1

@[simp] theorem core_raiseMx (s : State) (k j : Nat) (fl : Flags) : (raiseMx s k fl).core j =
    if j = k then { s.core k with mx := { (s.core k).mx with flags := (s.core k).mx.flags ||| fl.setWidth 32 } } else s.core j :=
  State.core_updCore ..

@[simp] theorem setAccPair_queue (m : Matrix) (wide : Bool) (row n v : Nat) : (setAccPair m wide row n v).queue = m.queue := rfl

theorem queue_updMx {f : Matrix → Matrix} (h : ∀ m, (f m).queue = m.queue) (s : State) (k j : Nat) :
    ((s.updMx k f).core j).mx.queue = (s.core j).mx.queue := by
  by_cases hj : j = k <;> simp [hj, h]

theorem queue_raiseMx (s : State) (k j : Nat) (fl : Flags) : ((raiseMx s k fl).core j).mx.queue = (s.core j).mx.queue := by
  by_cases hj : j = k <;> simp [hj]

/-- No column changes a queue. -/
theorem queue_applyColumn (k m n : Nat) (q : MxCmd) (s : State) (j : Nat) :
    ((applyColumn k m n q s).core j).mx.queue = (s.core j).mx.queue := by
  have linked (c : Prop) [Decidable c] (key : Nat) :
      ((if c then s.updMx k (fun x => { x with link := tdel x.link key }) else s).core j).mx.queue = (s.core j).mx.queue := by
    split
    · exact queue_updMx (fun _ => by rfl) ..
    · rfl
  simp only [applyColumn]
  split <;> exact (queue_updMx (fun _ => by rfl) ..).trans ((queue_raiseMx ..).trans (linked _ _))

theorem queue_foldl_applyColumn (k m : Nat) (q : MxCmd) (ns : List Nat) (s : State) (j : Nat) :
    ((ns.foldl (fun s n => applyColumn k m n q s) s).core j).mx.queue = (s.core j).mx.queue := by
  induction ns generalizing s with
  | nil => rfl
  | cons n ns ih => rw [List.foldl_cons, ih, queue_applyColumn]

theorem accPair_congr {m m' : Matrix} (h : m.acc = m'.acc) (wide : Bool) (row n : Nat) : accPair m wide row n = accPair m' wide row n := by
  simp only [accPair, h]

section Columns
variable {q : MxCmd} (htop : mtTop q.desc ≠ 1) (hmode : mtAccMode q.desc < 2)
include htop hmode

/-- A column of a pass that starts no chain and sends nothing on writes its value. -/
theorem accPair_applyColumn (k m : Nat) (s : State) {n j : Nat} (hn : n < 128) (hj : j < 128) :
    accPair ((applyColumn k m n q s).core k).mx q.wide (q.rowOf m) j =
      if j = n then columnValue q m n (accPair (s.core k).mx q.wide (q.rowOf m) n) % 2 ^ (if q.wide then 128 else 64)
      else accPair (s.core k).mx q.wide (q.rowOf m) j := by
  have raised (fl : Flags) (n : Nat) : accPair ((raiseMx s k fl).core k).mx q.wide (q.rowOf m) n =
      accPair (s.core k).mx q.wide (q.rowOf m) n := accPair_congr (by simp) ..
  obtain h0 | h1 : mtAccMode q.desc = 0 ∨ mtAccMode q.desc = 1 := by omega
  · simp only [applyColumn, columnValue, htop, h0, if_false, if_true, core_updMx, accPair_setAccPair _ _ _ _ hn hj, raised]
  · simp only [applyColumn, columnValue, htop, h1, if_false, if_true, core_updMx, accPair_setAccPair _ _ _ _ hn hj, raised, Nat.one_ne_zero]

theorem accPair_foldl_applyColumn (k m : Nat) (ns : List Nat) (hnodup : ns.Nodup) (hns : ∀ n ∈ ns, n < 128) (s : State) {j : Nat}
    (hj : j < 128) : accPair ((ns.foldl (fun s n => applyColumn k m n q s) s).core k).mx q.wide (q.rowOf m) j =
      if j ∈ ns then columnValue q m j (accPair (s.core k).mx q.wide (q.rowOf m) j) % 2 ^ (if q.wide then 128 else 64)
      else accPair (s.core k).mx q.wide (q.rowOf m) j := by
  induction ns generalizing s with
  | nil => rfl
  | cons n ns ih =>
    obtain ⟨hnot, hnodup'⟩ := List.nodup_cons.mp hnodup
    rw [List.foldl_cons, ih hnodup' (fun n h => hns n (List.mem_cons_of_mem _ h)),
      accPair_applyColumn htop hmode k m s (hns n List.mem_cons_self) hj]
    by_cases hjn : j = n
    · subst hjn
      simp [hnot]
    · simp [hjn]

end Columns

theorem exec_accumulatorWrite (k : Fin 256) (s : State) : exec (.accumulatorWrite k) s = execAccumulatorWrite k s := rfl

theorem exec_xRecordRelease (k : Fin 256) (s : State) : exec (.xRecordRelease k) s = execXRecordRelease k s := rfl

theorem exec_passDone (k : Fin 256) (s : State) : exec (.passDone k) s = execPassDone k s := rfl

/-- The state after the columns of a vector are written, and the entry has counted it. -/
def accWritten (k i : Nat) (q : MxCmd) (s : State) : State :=
  (putMx ((List.range 128).foldl (fun s n => applyColumn k q.vec n q s) s) k i { q with vec := q.vec + 1 }).bumpCore k 7 1
    (128 * mtK q.desc)

/-- R63: the next vector is written when its rows are read and its sums have come. -/
theorem execAccumulatorWrite_writes {k : Fin 256} {s : State} {i : Nat} {q : MxCmd}
    (hfind : findMx (s.core k) (fun q => !q.drain && q.fronted && decide (q.vec < mtM q.desc)) = some (i, q)) (hrows : rowsFree s k i q)
    (hlink : mtTop q.desc = 1 → (tfind (s.core k).mx.link (linkKey q.step q.vec 127)).isSome = true) :
    execAccumulatorWrite k s = .next (accWritten k i q s) := by
  have read : ((s.core k).mx.queue.take i).any (fun e =>
      meets (if q.toAcc then slotRows q.wide (q.rowOf q.vec) 1 else []) e.unread) = false := by
    rw [← hrows]
    refine congrArg _ (funext fun e => ?_)
    cases hdrain : e.drain <;> simp [MxCmd.unread, meets, hdrain]
  have come : (mtTop q.desc == 1 && (tfind (s.core k).mx.link (linkKey q.step q.vec 127)).isNone) = false := by
    by_cases htop : mtTop q.desc = 1
    · simp [htop, Option.isNone_eq_false_iff.mpr (hlink htop)]
    · simp [htop]
  simp only [execAccumulatorWrite, hfind, read, come, Bool.or_self, if_false, Bool.false_eq_true]
  rfl

theorem queue_accWritten (k i : Nat) (q : MxCmd) (s : State) :
    ((accWritten k i q s).core k).mx.queue = (s.core k).mx.queue.set i { q with vec := q.vec + 1 } := by
  simp only [accWritten, core_bumpCore, core_putMx, if_true, queue_foldl_applyColumn]

theorem accPair_accWritten (k i : Nat) {q : MxCmd} (s : State) (htop : mtTop q.desc ≠ 1) (hmode : mtAccMode q.desc < 2) {n : Nat}
    (hn : n < 128) : accPair ((accWritten k i q s).core k).mx q.wide (q.rowOf q.vec) n =
      columnValue q q.vec n (accPair (s.core k).mx q.wide (q.rowOf q.vec) n) % 2 ^ (if q.wide then 128 else 64) := by
  simp only [accWritten, core_bumpCore, core_putMx, if_true]
  exact (accPair_foldl_applyColumn htop hmode k q.vec _ List.nodup_range (fun _ => List.mem_range.mp) s hn).trans
    (if_pos (List.mem_range.mpr hn))

end Sys2Proof.Machine

open Sys2Proof Sys2Proof.Machine

/-- Settles O23. -/
theorem accumulationCompletes : Obligations.AccumulationCompletes := by
  unfold Obligations.AccumulationCompletes
  refine ⟨fun k s i q hfind hrows hlink => ?written, fun k s i q hfind => ?released, fun k s i q hfind hstate hvec hxrel => ?done⟩
  case written => exact ⟨_, (exec_accumulatorWrite k s).trans (execAccumulatorWrite_writes hfind hrows hlink), queue_accWritten ..,
      fun _ htop hmode n hn => accPair_accWritten k i s htop hmode hn⟩
  case released =>
    simp only [exec_xRecordRelease, execXRecordRelease, hfind]
    refine ⟨_, rfl, queueSet_of_core ?_ (fun j hj => ?_), ?_⟩
    all_goals simp [*]
  case done =>
    have finished : ¬ (q.state ≠ .flushing ∨ q.vec < mtM q.desc ∨ ((!q.xslots.isEmpty) = true ∧ q.xrel < mtM q.desc)) := by
      rintro (h | h | ⟨hslots, h⟩)
      · exact h hstate
      · omega
      · obtain hnil | hx := hxrel
        · simp [hnil] at hslots
        · omega
    simp only [exec_passDone, execPassDone, hfind, if_neg finished]
    exact ⟨_, rfl, by simp⟩

end

section
namespace Sys2Proof.Machine

/-! Drains, the modes of the array and chains. -/

theorem exec_drainRowWrite (k : Fin 256) (s : State) : exec (.drainRowWrite k) s = execDrainRowWrite k s := rfl

theorem exec_arrayStreamExit (k : Fin 256) (s : State) : exec (.arrayStreamExit k) s = execArrayStreamExit k s := rfl

theorem exec_yieldWindowEnd (k : Fin 256) (s : State) : exec (.yieldWindowEnd k) s = execYieldWindowEnd k s := rfl

theorem exec_chainStepCompare (k : Fin 256) (s : State) : exec (.chainStepCompare k) s = execChainStepCompare k s := rfl

theorem exec_chainStepStart (k : Fin 256) (s : State) : exec (.chainStepStart k) s = execChainStepStart k s := rfl

theorem exec_chainMemberFrontStart (k : Fin 256) (s : State) : exec (.chainMemberFrontStart k) s = execChainMemberFrontStart k s := rfl

/-- The accumulator row that drain `q` writes next. -/
def drainSlot (q : MxCmd) : Nat := drAcc q.desc + (if q.wide then 2 * q.row else q.row)

/-- The scratchpad after a row of drain `q`, with its bits and exponents (R77, R78). -/
def drainedSp (q : MxCmd) (bits exps : List Nat) (sp : Scratch) : Scratch :=
  let sp := sp.write (64 * drDst q.desc + 64 * drStride q.desc * q.row) (drRowBytes q.desc) (packBits (ebits (drFmt q.desc)) bits)
  { sp with data := mwriteBytes sp.data (64 * drDs q.desc + drRowExps q.desc * q.row) (exps.map (BitVec.ofNat 8)) }

/-- R78: the oldest drain writes its next row when no pass before it still writes the accumulator and nothing holds its bytes. -/
theorem execDrainRowWrite_writes {k : Fin 256} {s : State} {i : Nat} {q : MxCmd} (hruns : coreRuns s k = true) (hdue : NoDrainDue s k)
    (hfind : findMx (s.core k) (fun q => q.drain) = some (i, q)) (hagreed : q.agreed = true)
    (hbefore : ∀ e ∈ (s.core k).mx.queue.take i, e.toAcc = false)
    (hwaits : ∀ r ∈ [drRun q.desc, drExpRun q.desc], runWaits s k q r = false) {bits exps : List Nat} {fl : Flags}
    (hrow : drainRow (s.core k).mx q.wide q.desc (drainSlot q) = (bits, exps, fl)) :
    execDrainRowWrite k s = .next (
      if q.row + 1 < drRows q.desc then
        putMx (raiseMx (s.updSp k (drainedSp q bits exps)) k fl) k i { q with state := .running, row := q.row + 1 }
      else wakeCore (((raiseMx (s.updSp k (drainedSp q bits exps)) k fl).working k).updMx k
        (fun m => { m with queue := m.queue.eraseIdx i })) k) := by
  have written : ((s.core k).mx.queue.take i).any (fun e => meets (slotRows q.wide (drainSlot q) 1) e.unwritten) = false := by
    refine List.any_eq_false.mpr fun e he => ?_
    simp [MxCmd.unwritten, hbefore e he, meets]
  have free : drainHeld s k q = false := by
    simp [drainHeld, hwaits (drRun q.desc) (by simp), hwaits (drExpRun q.desc) (by simp)]
  unfold drainSlot at hrow written
  simp only [execDrainRowWrite, hruns, if_true, drainChecks_of_noDrainDue hdue, hfind, hagreed, written, free, hrow, Bool.true_or,
    Bool.not_true, Bool.or_self, Bool.and_false, if_false, Bool.false_eq_true]
  split <;> rfl

/-- A comparison of every two elements of a list, as a truth value. -/
theorem all_all_beq_iff {α : Type} (l : List α) (f : α → Nat) :
    l.all (fun e => l.all (fun g => f e == f g)) = true ↔ ∀ e ∈ l, ∀ g ∈ l, f e = f g := by
  simp only [List.all_eq_true, beq_iff_eq]

/-- R90, R93, R94: the passes of a complete step agree, or every one is rejected with cause 0x7. -/
theorem execChainStepCompare_compares {k : Fin 256} {s : State} {n : Nat} {l : List (Nat × Nat × MxCmd)} (hruns : coreRuns s k = true)
    (hfirst : firstStep s k (fun q => !q.agreed) = some n) (hstep : stepOf s k n = some l) (hvalid : ∀ e ∈ l, e.2.2.state ≠ .queued) :
    execChainStepCompare k s = .next (
      if (∀ e ∈ l, ∀ g ∈ l, mtX e.2.2.desc = mtX g.2.2.desc ∧ mtW e.2.2.desc = mtW g.2.2.desc ∧ mtM e.2.2.desc = mtM g.2.2.desc) then
        l.foldl (fun s e => putMx s e.1 e.2.1 { e.2.2 with agreed := true }) s
      else l.foldl (fun s e => mxFault s e.1 0x0A e.2.2) (l.foldl (fun s e => cutQueue (noteMx s e.1 7 e.2.2) e.1 e.2.1) s)) := by
  have none_queued : l.any (fun e => e.2.2.state == .queued) = false := by
    simpa [List.any_eq_false] using hvalid
  have agree : (l.all (fun e => l.all (fun g => mtX e.2.2.desc == mtX g.2.2.desc)) &&
      l.all (fun e => l.all (fun g => mtW e.2.2.desc == mtW g.2.2.desc)) &&
      l.all (fun e => l.all (fun g => mtM e.2.2.desc == mtM g.2.2.desc))) = true ↔
      ∀ e ∈ l, ∀ g ∈ l, mtX e.2.2.desc = mtX g.2.2.desc ∧ mtW e.2.2.desc = mtW g.2.2.desc ∧ mtM e.2.2.desc = mtM g.2.2.desc := by
    rw [Bool.and_eq_true, Bool.and_eq_true, all_all_beq_iff l (fun e => mtX e.2.2.desc), all_all_beq_iff l (fun e => mtW e.2.2.desc),
      all_all_beq_iff l (fun e => mtM e.2.2.desc)]
    exact ⟨fun ⟨⟨hx, hw⟩, hm⟩ e he g hg => ⟨hx e he g hg, hw e he g hg, hm e he g hg⟩,
      fun h => ⟨⟨fun e he g hg => (h e he g hg).1, fun e he g hg => (h e he g hg).2.1⟩, fun e he g hg => (h e he g hg).2.2⟩⟩
  simp only [execChainStepCompare, hruns, hfirst, hstep, Option.bind_some, none_queued, Bool.not_true, if_false, Bool.false_eq_true]
  split
  · next h => rw [if_pos (agree.mp h)]
  · next h => rw [if_neg (fun h' => h (agree.mpr h'))]

/-- R94: a step whose passes have all agreed, are ready and fit the power budget starts, with the head's front. -/
theorem execChainStepStart_starts {k : Fin 256} {s : State} {n : Nat} {e : Nat × Nat × MxCmd} {l : List (Nat × Nat × MxCmd)}
    (hruns : coreRuns s k = true) (hfirst : firstStep s k (fun q => !q.fronted) = some n) (hstep : stepOf s k n = some (e :: l))
    (hready : ∀ x ∈ e :: l, x.2.2.agreed = true ∧ x.2.2.go = false ∧ x.2.2.fronted = false ∧ frontReady s x.1 x.2.1 x.2.2 = true ∧
      admitsPass s x.1 ((e :: l).any (fun y => bigPass s y.1 y.2.2.desc)) x.2.2.desc = true) :
    execChainStepStart k s = .next (startFront (((e :: l).foldl (fun s x =>
      putMx (chargePass s x.1 x.2.2.desc) x.1 x.2.1 { x.2.2 with go := true }) s).bumpCluster (clusterOf k) 7 0xFFFF 1)
      e.1 e.2.1 { e.2.2 with go := true }) := by
  have all_ready : (e :: l).all (fun x => x.2.2.agreed && !x.2.2.go && !x.2.2.fronted && frontReady s x.1 x.2.1 x.2.2 &&
      admitsPass s x.1 ((e :: l).any (fun y => bigPass s y.1 y.2.2.desc)) x.2.2.desc) = true := by
    refine List.all_eq_true.mpr fun x hx => ?_
    obtain ⟨hagreed, hgo, hfronted, hfront, hadmits⟩ := hready x hx
    rw [hagreed, hgo, hfronted, hfront, hadmits]
    rfl
  simp only [execChainStepStart, hruns, hfirst, hstep, Option.bind_some, all_ready, Bool.not_true, if_false, if_true, Bool.false_eq_true]

/-- R83: the array leaves STREAM, for SECTIONS while a collective has converged and else for IDLE. -/
theorem execArrayStreamExit_exits {k : Fin 256} {s : State} (hmode : (s.core k).mx.mode = .stream)
    (hrun : (s.core k).mx.queue.any (fun q => !q.drain && (q.fronted || q.go) && decide (q.vec < mtM q.desc)) = false)
    (hyield : readyPass (s.core k).mx = false ∨ Matrix.yields (s.core k).mx = true) :
    execArrayStreamExit k s = .next (s.updMx k (fun m =>
      if (s.core k).mx.converged.isEmpty then { m with mode := .idle } else { m with mode := .sections, window := m.yields })) := by
  have exits : ¬ ((s.core k).mx.mode ≠ .stream ∨
      (s.core k).mx.queue.any (fun q => !q.drain && (q.fronted || q.go) && decide (q.vec < mtM q.desc)) = true ∨
      (readyPass (s.core k).mx = true ∧ (!(s.core k).mx.yields) = true)) := by
    simp only [hmode, hrun, ne_eq, not_true_eq_false, Bool.false_eq_true, false_or, Bool.not_eq_true']
    rintro ⟨hr, hy⟩
    obtain h | h := hyield
    · exact absurd (hr.symm.trans h) (by decide)
    · exact absurd (h.symm.trans hy) (by decide)
  simp only [execArrayStreamExit, if_neg exits]
  cases (s.core k).mx.converged.isEmpty <;> rfl

/-- What closing the yield window leaves of the array's mode (R83). -/
theorem settle_window_closed {m : Matrix} (hmode : m.mode = .sections) :
    (Matrix.settle { m with window := false }).window = false ∧
    (Matrix.settle { m with window := false }).mode = if readyPass m then (if m.sections.isEmpty then .stream else .toStream)
      else if m.sections.isEmpty && m.converged.isEmpty then .idle else .sections := by
  simp only [Matrix.settle, readyPass, hmode, Bool.false_and, if_false, Bool.false_eq_true]
  (repeat' split) <;> exact ⟨rfl, rfl⟩

end Sys2Proof.Machine

open Sys2Proof Sys2Proof.Machine

/-- Settles O24. -/
theorem drainRowCompletes : Obligations.DrainRowCompletes := by
  unfold Obligations.DrainRowCompletes
  intro k s i q hruns hdue hfind hagreed hbefore hwaits
  obtain ⟨bits, exps, fl, hrow⟩ : ∃ bits exps fl, drainRow (s.core k).mx q.wide q.desc (drainSlot q) = (bits, exps, fl) := ⟨_, _, _, rfl⟩
  refine ⟨_, (exec_drainRowWrite k s).trans (execDrainRowWrite_writes hruns hdue hfind hagreed hbefore hwaits hrow), ?_, bits, exps, fl, hrow, ?_⟩
  · split <;> simp
  · split <;> simp <;> rfl

/-- Settles O25. -/
theorem arrayModesAndChainsComplete : Obligations.ArrayModesAndChainsComplete := by
  unfold Obligations.ArrayModesAndChainsComplete
  refine ⟨fun k s hmode hrun hyield => ?exits, fun k s hwindow hmode => ?closes, fun k s n l hruns hfirst hstep hvalid => ?compares,
    fun k s n e l hruns hfirst hstep hready => ?starts, fun k s i q hfind hbefore => ?next⟩
  case exits =>
    refine ⟨_, (exec_arrayStreamExit k s).trans (execArrayStreamExit_exits hmode hrun hyield), ?_, fun hconv => ?_, ?_, ?_⟩
    · cases (s.core k).mx.converged.isEmpty <;> simp
    · simp [hconv]
    all_goals cases (s.core k).mx.converged.isEmpty <;> simp
  case closes =>
    simp only [exec_yieldWindowEnd, execYieldWindowEnd, hwindow, Bool.not_true, if_false, Bool.false_eq_true]
    refine ⟨_, rfl, ?_⟩
    simpa only [core_updMx, if_true] using settle_window_closed hmode
  case compares => exact (exec_chainStepCompare k s).trans (execChainStepCompare_compares hruns hfirst hstep hvalid)
  case starts => exact (exec_chainStepStart k s).trans (execChainStepStart_starts hruns hfirst hstep hready)
  case next =>
    have passed : (s.core (k.val - 1)).mx.queue.any (fun e => !e.drain && e.step == q.step && e.go && !e.fronted) = false := by
      refine List.any_eq_false.mpr fun e he h => hbefore e he ?_
      simpa [and_assoc] using h
    simp only [exec_chainMemberFrontStart, execChainMemberFrontStart, hfind, passed, if_false, Bool.false_eq_true]

end

section
/-!
The vector engine (07): issue, elements, the head of the queue and its end.
-/
namespace Sys2Proof.Machine

/-! Vector instructions: their issue, and what their element functions compute (R182 to R188). -/

/-- Every vector instruction is `vecIssue` at its shape. -/
theorem exec_of_mem_vectorForms {e : (VecOp → Instr) × Nat × Nat × Bool × Bool × Bool × Bool} (he : e ∈ vectorForms) (o : VecOp)
    (s : State) :
    exec (e.1 o) s = vecIssue o ⟨e.2.1, e.2.2.1, e.2.2.2.1, e.2.2.2.2.1, e.2.2.2.2.2.1, e.2.2.2.2.2.2⟩ s := by
  simp only [vectorForms, List.map_cons, List.map_nil, List.cons_append, List.nil_append] at he
  repeat
    obtain _ | ⟨_, he⟩ := he
    · rfl
  nomatch he

/-- The entry that a vector instruction makes in the queue: its fields, and the value of SD at its issue (R182). -/
def enteredVe (o : VecOp) (sh : VecShape) (g : Grp) (s : State) : VeInstr where
  ord := s.mem.nextId
  win := []
  vl := 0
  op := sh.op
  fn := sh.fn
  rm := o.rm
  sat := o.sat
  sd := o.sd.toNat
  vd := o.vd.toNat
  va := o.va.toNat
  vb := o.vb.toNat
  vm := o.vm.toNat
  maskEn := o.maskEn
  s := (s.core g.k).sreg o.sd.toNat
  pc := g.pc
  map := (s.core g.k).sp.pmap
  started := false
  idx := 0
  rd := 0
  slots := []
  taken := []
  lanes := []
  folded := 0
  seen := []
  got := []
  issue := 0
  done := false

/-- R110, R182: a vector instruction enters a queue with room, and the s register that it will write is pending. -/
theorem vecIssue_completes {o : VecOp} {sh : VecShape} {s : State} {g : Grp}
    (h : Issues s o.core o.face (vecLegal o sh) (if sh.sdRd || sh.sdWr then [⟨o.sd.toNat, 1, sh.sdWr⟩] else []) g)
    (horder : orderBlock (unwait s g) g.k .cc = none) (hroom : ((unwait s g).core g.k).ve.count < 32) :
    vecIssue o sh s = .next (issuedTo ((unwait s g).newId.2.updCore g.k (fun c => { c with
      sPend := if sh.sdWr then c.sPend ++ [o.sd.toNat] else c.sPend
      ve := { c.ve with queue := c.ve.queue ++ [enteredVe o sh g (unwait s g)] } })) g 8) := by
  unfold vecIssue
  exact issue_ok h.mayIssue (by simp only [horder, if_neg (Nat.not_le.mpr hroom)]; rfl)

/-! Elements. -/

theorem ebits_of_int {fmt : Nat} (h : fmt = 6 ∨ fmt = 7) : ebits fmt = 32 ∨ ebits fmt = 64 := by
  obtain rfl | rfl := h
  · exact .inl rfl
  · exact .inr rfl

theorem isIntFmt_of_int {fmt : Nat} (h : fmt = 6 ∨ fmt = 7) : isIntFmt fmt = true := by
  obtain rfl | rfl := h <;> rfl

/-- The functions that `intElem` computes: no conversion, move, selection, mask operation or compare. -/
def IsArith (fn : Nat) : Prop := fn < 0x40 ∧ fn ≠ 0x0F ∧ fn ≠ 0x17

/-- R187: an arithmetic function on an integer window is `intElem` on the elements' words, and raises no flag. -/
theorem vecElem_arith {fn fmt : Nat} (hfn : IsArith fn) (hfmt : fmt = 6 ∨ fmt = 7) (rm : BitVec 2) (d : Nat)
    (a b c : BitVec (ebits fmt)) (m : Bool) (ea i : Nat) :
    vecElem fn fmt fmt rm false d a.toNat b.toNat (c.setWidth 64) m ea i = ((intElem (ebits fmt) fn a b c i).toNat, 0) := by
  obtain ⟨hlt, hmove, hsel⟩ := hfn
  have hconv : ¬ (fn = 0x60 ∨ fn = 0x61) := by omega
  have hmerge : ¬ fn = 0x70 := by omega
  have hmask : ¬ (0x48 ≤ fn ∧ fn ≤ 0x4B) := by omega
  have hcmp : ¬ (0x40 ≤ fn ∧ fn ≤ 0x46) := by omega
  have hwidth : ebits fmt ≤ 64 := by
    obtain h | h := ebits_of_int hfmt <;> omega
  have scalar : (c.setWidth 64).toNat % 2 ^ ebits fmt = c.toNat := by
    rw [BitVec.toNat_setWidth, Nat.mod_eq_of_lt (Nat.lt_of_lt_of_le c.isLt (Nat.pow_le_pow_right (by decide) hwidth)), Nat.mod_eq_of_lt c.isLt]
  simp only [vecElem, if_neg hconv, if_neg hmerge, if_neg hmove, if_neg hsel, if_neg hmask, if_neg hcmp, isIntFmt_of_int hfmt, if_true,
    scalar, BitVec.ofNat_toNat, BitVec.setWidth_eq]

/-- R187: the function of a form is `intElem` at its number, or a move. -/
theorem vecElem_of_mem_vecIntForms {e : Nat × ((w : Nat) → BitVec w → BitVec w → BitVec w → Nat → BitVec w)} (he : e ∈ vecIntForms) :
    (IsArith e.1 ∧ ∀ w a b c i, intElem w e.1 a b c i = e.2 w a b c i) ∨ (e.1 = 0x0F ∧ ∀ w a b c i, e.2 w a b c i = a) := by
  unfold vecIntForms at he
  unfold IsArith
  iterate 10
    obtain _ | ⟨_, he⟩ := he
    · exact .inl ⟨by decide, fun _ _ _ _ _ => rfl⟩
  obtain _ | ⟨_, he⟩ := he
  · exact .inr ⟨rfl, fun _ _ _ _ _ => rfl⟩
  repeat
    obtain _ | ⟨_, he⟩ := he
    · exact .inl ⟨by decide, fun _ _ _ _ _ => rfl⟩
  nomatch he

/-- R188: the compare of a form. -/
theorem cmpElem_of_mem_vecCmpForms {e : Nat × ((w : Nat) → BitVec w → BitVec w → Bool)} (he : e ∈ vecCmpForms) {fmt : Nat}
    (hfmt : fmt = 6 ∨ fmt = 7) (a b : BitVec (ebits fmt)) :
    (0x40 ≤ e.1 ∧ e.1 ≤ 0x46) ∧ cmpElem fmt e.1 a.toNat b.toNat = (e.2 (ebits fmt) a b, 0) := by
  simp only [cmpElem, isIntFmt_of_int hfmt, if_true, BitVec.ofNat_toNat, BitVec.setWidth_eq]
  unfold vecCmpForms at he
  repeat
    obtain _ | ⟨_, he⟩ := he
    · exact ⟨by decide, rfl⟩
  nomatch he

/-- R188: a compare gives 1 or 0. -/
theorem vecElem_compare {fn fmt a b : Nat} {r : Bool} (hfn : 0x40 ≤ fn ∧ fn ≤ 0x46) (hcmp : cmpElem fmt fn a b = (r, 0)) (dst : Nat)
    (rm : BitVec 2) (d : Nat) (c : W64) (m : Bool) (ea i : Nat) : vecElem fn fmt dst rm false d a b c m ea i = (r.toNat, 0) := by
  have hconv : ¬ (fn = 0x60 ∨ fn = 0x61) := by omega
  have hmerge : ¬ fn = 0x70 := by omega
  have hmove : ¬ fn = 0x0F := by omega
  have hsel : ¬ fn = 0x17 := by omega
  have hmask : ¬ (0x48 ≤ fn ∧ fn ≤ 0x4B) := by omega
  simp only [vecElem, if_neg hconv, if_neg hmerge, if_neg hmove, if_neg hsel, if_neg hmask, if_pos hfn, hcmp]
  cases r <;> rfl

/-- R188: a mask operation on bits. -/
theorem vecElem_mask {e : Nat × (Bool → Bool → Bool)}
    (he : e ∈ [(0x48, fun (a b : Bool) => a && b), (0x49, fun a b => a || b), (0x4A, fun a b => a != b), (0x4B, fun a _ => !a)])
    (f dst : Nat) (rm : BitVec 2) (d : Nat) (a b : Bool) (c : W64) (m : Bool) (ea i : Nat) :
    vecElem e.1 f dst rm false d a.toNat b.toNat c m ea i = ((e.2 a b).toNat, 0) := by
  repeat
    obtain _ | ⟨_, he⟩ := he
    · cases a <;> cases b <;> rfl
  nomatch he

end Sys2Proof.Machine

open Sys2Proof Sys2Proof.Machine

/-- Settles O26. -/
theorem vectorInstructionsComplete : Obligations.VectorInstructionsComplete := by
  unfold Obligations.VectorInstructionsComplete
  intro e he o s g h horder hroom
  refine ⟨_, enteredVe o ⟨e.2.1, e.2.2.1, e.2.2.2.1, e.2.2.2.2.1, e.2.2.2.2.2.1, e.2.2.2.2.2.2⟩ g (unwait s g),
    (exec_of_mem_vectorForms he o s).trans (vecIssue_completes h horder hroom), ?_, rfl, rfl, rfl,
    rfl, rfl, rfl, rfl, rfl, rfl, rfl, rfl, rfl, rfl, rfl, rfl, ?_⟩
  · simp
  · simp only [sPend_issuedTo, State.core_updCore, if_true, core_newId]
    split <;> simp

/-- Settles O27. -/
theorem vectorElementResults : Obligations.VectorElementResults := by
  unfold Obligations.VectorElementResults
  refine ⟨fun e he fmt hfmt rm d a b c m ea i => ?arith, fun e he fmt hfmt rm d dst a b c m ea i => ?compare,
    fun e he f dst rm d a b c m ea i => vecElem_mask he f dst rm d a b c m ea i, fun f rm d a b c m ea i => rfl⟩
  case arith =>
    obtain ⟨hfn, hint⟩ | ⟨hmove, hint⟩ := vecElem_of_mem_vecIntForms he
    · rw [vecElem_arith hfn hfmt, hint]
    · rw [hmove, hint]
      rfl
  case compare =>
    obtain ⟨hfn, hcmp⟩ := cmpElem_of_mem_vecCmpForms he hfmt a b
    exact vecElem_compare hfn hcmp dst rm d c m ea i

end

section
namespace Sys2Proof.Machine

/-! The head of the vector queue, and its end (R182, R196, R203). -/

theorem exec_vectorQueueHead (k : Fin 256) (s : State) : exec (.vectorQueueHead k) s = execVectorQueueHead k s := rfl

theorem exec_vectorComplete (k : Fin 256) (u : VeUnit) (s : State) : exec (.vectorComplete k u) s = execVectorComplete k u s := rfl

@[simp] theorem core_updVe (s : State) (k j : Nat) (f : VecEng → VecEng) :
    (s.updVe k f).core j = if j = k then { s.core k with ve := f (s.core k).ve } else s.core j := State.core_updCore ..

@[simp] theorem core_raiseVe (s : State) (k j : Nat) (fl : Flags) : (raiseVe s k fl).core j =
    if j = k then { s.core k with ve := { (s.core k).ve with flags := (s.core k).ve.flags ||| fl.setWidth 32 } } else s.core j :=
  State.core_updCore ..

@[simp] theorem core_putVe (s : State) (k j : Nat) (v : VeInstr) : (putVe s k v).core j = if j = k then
    { s.core k with ve := { (s.core k).ve with queue := match (s.core k).ve.queue with | [] => [] | _ :: r => v :: r } } else s.core j :=
  State.core_updCore ..

@[simp] theorem Core.wake_sPend (c : Core) (p : Wait → Bool) : (c.wake p).sPend = c.sPend := rfl

@[simp] theorem Core.wake_sregs (c : Core) (p : Wait → Bool) : (c.wake p).sregs = c.sregs := rfl

theorem Core.sreg_congr {c c' : Core} (h : c.sregs = c'.sregs) (r : Nat) : c.sreg r = c'.sreg r := by
  simp only [Core.sreg, h]

/-- A register that an engine writes, and that is pending no longer (R110). -/
def giveSreg (s : State) (k r : Nat) (x : W64) : State :=
  wakeCore (s.updCore k (fun c => { c.setSreg r x with sPend := c.sPend.erase r })) k

theorem sPend_giveSreg (s : State) (k r : Nat) (x : W64) : ((giveSreg s k r x).core k).sPend = (s.core k).sPend.erase r := by
  simp [giveSreg]

theorem ve_giveSreg (s : State) (k r : Nat) (x : W64) : ((giveSreg s k r x).core k).ve = (s.core k).ve := by
  simp only [giveSreg, core_wakeCore, State.core_updCore, if_true, Core.wake_ve, Core.setSreg]
  split <;> rfl

theorem sreg_giveSreg (s : State) (k : Nat) {r : Nat} (hr : 0 < r) (x : W64) : ((giveSreg s k r x).core k).sreg r = x := by
  have written : ((giveSreg s k r x).core k).sregs = ((s.core k).setSreg r x).sregs := by simp [giveSreg]
  rw [Core.sreg_congr written, sreg_setSreg _ (Nat.ne_of_gt hr), if_pos rfl]

/-! A head that begins. -/

section Head
variable {k : Fin 256} {s : State} {v : VeInstr} {rest : List VeInstr} (hruns : coreRuns s k = true)
  (hqueue : (s.core k).ve.queue = v :: rest) (hdone : v.done = false)
include hruns hqueue hdone

theorem execVectorQueueHead_rejects (hstarted : v.started = false) {b : VeBad} (hbad : veCheck (s.core k).sp (headOf s k v) = some b) :
    execVectorQueueHead k s = .next (veReject s k (headOf s k v) b) := by
  simp only [headOf, hdone, hstarted] at hbad ⊢
  simp only [execVectorQueueHead, hruns, hqueue, hdone, hstarted, hbad, Bool.not_true, if_false, Bool.false_eq_true]

/-- A head that no check fails: a window instruction acts, a gather or scatter takes its channel or waits for it, any other runs. -/
theorem execVectorQueueHead_begins (hstarted : v.started = false) (hgood : veCheck (s.core k).sp (headOf s k v) = none) :
    execVectorQueueHead k s =
      if v.isWindowOp then .next (veWindowOp s k { headOf s k v with started := true })
      else if v.isGs then
        if (tfind (s.core k).ve.chans (v.fn / 2)).isSome then .next s
        else .next (chanRun (s.updVe k (fun e => { e with
          queue := rest, chans := tput e.chans (v.fn / 2) { headOf s k v with started := true } })) k (v.fn / 2))
      else .next (veRun s k { headOf s k v with started := true }) := by
  simp only [headOf, hdone, hstarted] at hgood ⊢
  simp only [execVectorQueueHead, hruns, hqueue, hdone, hstarted, hgood, Bool.not_true, if_false, Bool.false_eq_true]
  rfl

/-- A head that has begun and is no window instruction, gather or scatter runs on. -/
theorem execVectorQueueHead_runs_on (hstarted : v.started = true) (hop : v.op ≠ 0x3B) :
    execVectorQueueHead k s = .next (veRun s k v) := by
  have window : v.isWindowOp = false := by simp [VeInstr.isWindowOp, hop]
  have gs : v.isGs = false := by simp [VeInstr.isGs, hop]
  have same : { v with started := true, done := false } = v := by rw [← hstarted, ← hdone]
  simp only [execVectorQueueHead, hruns, hqueue, hdone, hstarted, window, gs, same, Bool.not_true, if_false, if_true, Bool.false_eq_true]

end Head

/-- A head that is no window instruction, gather or scatter. -/
theorem not_windowOp_of_op {v : VeInstr} (hop : v.op ≠ 0x3B) : v.isWindowOp = false ∧ v.isGs = false := by
  simp [VeInstr.isWindowOp, VeInstr.isGs, hop]

theorem isGs_of_fn {v : VeInstr} (hop : v.op = 0x3B) (hfn : v.fn < 4) : v.isWindowOp = false ∧ v.isGs = true := by
  have : ¬ 0x10 ≤ v.fn := by omega
  simp [VeInstr.isWindowOp, VeInstr.isGs, hop, hfn, this]

theorem isWindowOp_of_fn {v : VeInstr} (hop : v.op = 0x3B) (hfn : 0x10 ≤ v.fn) : v.isWindowOp = true := by
  simp [VeInstr.isWindowOp, hop, hfn]

/-- R196: a VL.SET that passes its check sets a length that VE_VL holds. -/
theorem vlSet_length {sp : Scratch} {v : VeInstr} (hop : v.op = 0x3B) (hfn : v.fn = 0x14) (hgood : veCheck sp v = none) :
    v.s.toNat % 2 ^ 17 = v.s.toNat := by
  simp only [veCheck, isWindowOp_of_fn hop (hfn.symm ▸ (by decide : 0x10 ≤ 0x14)), hfn, if_true, true_and] at hgood
  by_cases hbig : 65536 < v.s.toNat
  · rw [if_pos hbig] at hgood
    cases hgood
  · omega

/-- What a window instruction that reads leaves (R196). -/
theorem veWindowOp_reads {s : State} {k : Nat} {v : VeInstr} {x : W64}
    (h : (v.fn = 0x12 ∧ x = tget 0 (s.core k).ve.win (2 * v.va)) ∨ (v.fn = 0x13 ∧ x = tget 0 (s.core k).ve.win (2 * v.va + 1)) ∨
      (v.fn = 0x15 ∧ x = BitVec.ofNat 64 (s.core k).ve.vl)) :
    veWindowOp s k v = putVe (giveSreg s k v.sd x) k { v with done := true } := by
  obtain ⟨hfn, rfl⟩ | ⟨hfn, rfl⟩ | ⟨hfn, rfl⟩ := h <;> simp only [veWindowOp, hfn] <;> rfl

/-- What a window instruction that writes leaves (R196). -/
theorem veWindowOp_writes {s : State} {k : Nat} {v : VeInstr} (h : v.fn ≠ 0x12 ∧ v.fn ≠ 0x13 ∧ v.fn ≠ 0x15) :
    ((veWindowOp s k v).core k).ve.win = (afterVe ((s.core k).ve.win, (s.core k).ve.vl) v).1 ∧
    ((veWindowOp s k v).core k).ve.vl = (afterVe ((s.core k).ve.win, (s.core k).ve.vl) v).2 := by
  obtain ⟨h12, h13, h15⟩ := h
  simp [veWindowOp]

/-- What the window instructions that write do to the windows and to VE_VL (R196). -/
theorem afterVe_windowOp {v : VeInstr} (hop : v.op = 0x3B) (hdone : v.done = false) (x : Tbl W64 × Nat) :
    (v.fn = 0x10 → afterVe x v = (tset 0 x.1 (2 * v.vd) (v.s &&& 0xFFFFFFFFFFFFF000#64), x.2)) ∧
    (v.fn = 0x11 → afterVe x v = (tset 0 x.1 (2 * v.vd + 1) (v.s &&& 0xFFFFFFFFF8000000#64), x.2)) ∧
    (v.fn = 0x14 → afterVe x v = (x.1, v.s.toNat % 2 ^ 17)) := by
  refine ⟨fun hfn => ?_, fun hfn => ?_, fun hfn => ?_⟩ <;>
    simp only [afterVe, hop, hdone, hfn, Bool.not_false, and_self, if_true]

end Sys2Proof.Machine

open Sys2Proof Sys2Proof.Machine

/-- Settles O28. -/
theorem vectorQueueHeadCompletes : Obligations.VectorQueueHeadCompletes := by
  unfold Obligations.VectorQueueHeadCompletes
  refine ⟨fun k s v rest hruns hqueue hdone hstarted => ⟨fun b hbad => ?rejected, fun hgood => ?begins⟩,
    fun k s v rest hruns hqueue hdone hstarted hop => ?runsOn, fun k s h => ?nothing⟩
  case rejected => exact execVectorQueueHead_rejects hruns hqueue hdone hstarted hbad
  case runsOn => exact execVectorQueueHead_runs_on hruns hqueue hdone hstarted hop
  case nothing =>
    obtain h | h | ⟨v, rest, hqueue, hdone⟩ := h
    · simp [exec_vectorQueueHead, execVectorQueueHead, h]
    · simp [exec_vectorQueueHead, execVectorQueueHead, h]
    · simp [exec_vectorQueueHead, execVectorQueueHead, hqueue, hdone]
  case begins =>
    have hbegins := execVectorQueueHead_begins hruns hqueue hdone hstarted hgood
    simp only [exec_vectorQueueHead, hbegins]
    refine ⟨fun ⟨hop, hfn⟩ => ?vlSet, fun e he ⟨hop, hfn⟩ _ => ?windowWrite, fun e he ⟨hop, hfn⟩ _ hsd => ?reads, fun ⟨hop, hfn⟩ hfree => ?channel,
      fun ⟨hop, hfn⟩ htaken => ?waits, fun hop => ?runs⟩
    case runs => simp only [not_windowOp_of_op hop, if_false, Bool.false_eq_true]
    case channel => simp only [isGs_of_fn hop hfn, hfree, Option.isSome_none, if_true, if_false, Bool.false_eq_true]
    case waits => simp only [isGs_of_fn hop hfn, htaken, if_true, if_false, Bool.false_eq_true]
    case reads =>
      obtain ⟨fn, r⟩ := e
      have reads : (v.fn = 0x12 ∧ r = tget 0 (s.core k).ve.win (2 * v.va)) ∨ (v.fn = 0x13 ∧ r = tget 0 (s.core k).ve.win (2 * v.va + 1)) ∨
          (v.fn = 0x15 ∧ r = BitVec.ofNat 64 (s.core k).ve.vl) := by
        simp only [List.mem_cons, List.not_mem_nil, or_false, Prod.mk.injEq] at he
        simpa only [hfn] using he
      have window : v.isWindowOp = true := isWindowOp_of_fn hop (by omega)
      simp only [window, if_true]
      refine ⟨_, rfl, ?_⟩
      rw [veWindowOp_reads (v := { headOf s k v with started := true }) reads]
      simp only [core_putVe, if_true]
      exact ⟨(Core.sreg_congr rfl _).trans (sreg_giveSreg s k hsd r), sPend_giveSreg ..⟩
    case vlSet =>
      have window : v.isWindowOp = true := isWindowOp_of_fn hop (by omega)
      simp only [window, if_true]
      obtain ⟨hwin, hvl⟩ := veWindowOp_writes (s := s) (k := k) (v := { headOf s k v with started := true })
        (by simp only [headOf, hfn]; decide)
      have after := (afterVe_windowOp (v := { headOf s k v with started := true }) hop hdone ((s.core k).ve.win, (s.core k).ve.vl)).2.2 hfn
      have length : v.s.toNat % 2 ^ 17 = v.s.toNat := vlSet_length (v := headOf s k v) hop hfn hgood
      exact ⟨_, rfl, by rw [hvl, after]; exact length, by rw [hwin, after]⟩
    case windowWrite =>
      have after := afterVe_windowOp (v := { headOf s k v with started := true }) hop hdone ((s.core k).ve.win, (s.core k).ve.vl)
      obtain ⟨hfn0, hfn1, -⟩ := after
      obtain rfl | rfl : e = (0x10, 0, 0xFFFFFFFFFFFFF000#64) ∨ e = (0x11, 1, 0xFFFFFFFFF8000000#64) := by
        simpa only [List.mem_cons, List.not_mem_nil, or_false] using he
      all_goals
        simp only [isWindowOp_of_fn hop (hfn ▸ by decide), if_true]
        obtain ⟨hwin, hvl⟩ := veWindowOp_writes (s := s) (k := k) (v := { headOf s k v with started := true }) (by simp [headOf, hfn])
      · rw [hfn0 hfn] at hwin hvl
        exact ⟨_, rfl, hvl, fun j => hwin ▸ tget_tset ..⟩
      · rw [hfn1 hfn] at hwin hvl
        exact ⟨_, rfl, hvl, fun j => hwin ▸ tget_tset ..⟩

end

section
namespace Sys2Proof.Machine

/-- The state after the finished head `v` of the queue has left it (R183, R193). -/
def leaveHead (s : State) (k : Nat) (v : VeInstr) (rest : List VeInstr) : State :=
  let s := s.updVe k (fun e => { e with queue := rest })
  let s := (if v.isWindowOp then s else s.bumpCore k 9 0xFFFF v.vl).working k
  if v.isSummary then
    let r := sumResult v.fn (v.window v.win 1).fmt v.rm v.lanes
    giveSreg (raiseVe s k r.2) k v.sd r.1
  else wakeCore s k

theorem leaveHead_leaves (s : State) (k : Nat) (v : VeInstr) (rest : List VeInstr) : HeadLeaves s (leaveHead s k v rest) k v rest := by
  have counted (t : State) : (if v.isWindowOp then t else t.bumpCore k 9 0xFFFF v.vl).core = t.core := by
    funext j
    split
    · rfl
    · exact core_bumpCore ..
  have core : ∀ t : State, (State.working (if v.isWindowOp then t else t.bumpCore k 9 0xFFFF v.vl) k).core k = t.core k := fun t => by
    rw [core_working, counted]
  by_cases hsum : v.op = 0x3A
  · have summary : v.isSummary = true := by simp [VeInstr.isSummary, hsum]
    simp only [HeadLeaves, leaveHead, summary, if_true]
    refine ⟨?_, fun _ => ⟨?_, fun _ hsd => sreg_giveSreg _ _ hsd _⟩, fun hop => absurd hsum hop⟩
    · simp [ve_giveSreg, core]
    · simp [sPend_giveSreg, core]
  · have summary : v.isSummary = false := by simp [VeInstr.isSummary, hsum]
    simp only [HeadLeaves, leaveHead, summary, if_false, Bool.false_eq_true]
    exact ⟨by simp [core], fun hop => absurd hop hsum, fun _ => by simp [core]⟩

section Queue
variable {k : Fin 256} {s : State} {v : VeInstr} {rest : List VeInstr} (hruns : coreRuns s k = true)
  (hqueue : (s.core k).ve.queue = v :: rest)
include hruns hqueue

theorem execVectorComplete_finished (hfin : v.finished = true) : execVectorComplete k .queue s = .next (leaveHead s k v rest) := by
  simp only [execVectorComplete, hruns, hqueue, hfin, Bool.not_true, Bool.and_false, if_false, Bool.false_eq_true]
  simp only [leaveHead]
  split <;> rfl

theorem execVectorComplete_not_started (hfin : v.finished = false) (hstarted : v.started = false) :
    execVectorComplete k .queue s = .next s := by
  simp only [execVectorComplete, hruns, hqueue, hfin, hstarted, Bool.not_true, Bool.not_false, Bool.false_and, if_false, if_true,
    Bool.false_eq_true]

theorem execVectorComplete_ran (hfin : v.finished = false) (hstarted : v.started = true) {w : VeInstr} {r : List VeInstr}
    (hrun : ((veRun s k v).core k).ve.queue = w :: r) :
    execVectorComplete k .queue s = .next (if w.finished then leaveHead (veRun s k v) k w r else veRun s k v) := by
  have hdone : v.done = false := by
    simp only [VeInstr.finished, Bool.or_eq_false_iff] at hfin
    exact hfin.1
  simp only [execVectorComplete, hruns, hqueue, hfin, hstarted, hdone, hrun, Bool.not_true, Bool.not_false, Bool.and_self, if_false, if_true,
    Bool.false_eq_true]
  cases w.finished
  · rfl
  · simp only [leaveHead, Bool.not_true, if_false, if_true, Bool.false_eq_true]
    split <;> rfl

end Queue

/-- R203: a channel that has served all its elements frees; else what it has served stays. -/
theorem execVectorComplete_chan {k : Fin 256} {ch : Fin 2} {s : State} {v : VeInstr} (hruns : coreRuns s k = true)
    (hbusy : (tfind (s.core k).ve.chans ch).isSome = true) (hrun : tfind ((chanRun s k ch).core k).ve.chans ch = some v) :
    execVectorComplete k (.chan ch) s = .next (if v.idx < v.vl then chanRun s k ch else
      wakeCore (((chanRun s k ch).updVe k (fun e => { e with chans := tdel e.chans ch })).working k |>.bumpCore k 9 0xFFFF v.vl) k) := by
  obtain ⟨u, hu⟩ := Option.isSome_iff_exists.mp hbusy
  simp only [execVectorComplete, hruns, hu, hrun, Bool.not_true, if_false, Bool.false_eq_true]
  split <;> rfl

end Sys2Proof.Machine

open Sys2Proof Sys2Proof.Machine

/-- Settles O29. -/
theorem vectorCompleteCompletes : Obligations.VectorCompleteCompletes := by
  unfold Obligations.VectorCompleteCompletes
  refine ⟨fun k s v rest hruns hqueue => ⟨fun hfin => ?finished, fun hfin hstarted => ?notStarted, fun hfin hstarted w r hrun => ?ran⟩,
    fun k ch s hruns hbusy v hrun => ⟨fun hall => ?frees, fun hmore => ?serves⟩, fun k ch s h => ?noChannel, fun k s h => ?noHead⟩
  case finished => exact ⟨_, (exec_vectorComplete ..).trans (execVectorComplete_finished hruns hqueue hfin), leaveHead_leaves ..⟩
  case notStarted => exact execVectorComplete_not_started hruns hqueue hfin hstarted
  case ran =>
    simp only [exec_vectorComplete, execVectorComplete_ran hruns hqueue hfin hstarted hrun]
    refine ⟨fun hw => ?_, fun hw => ?_⟩ <;> simp only [hw, if_true, if_false, Bool.false_eq_true]
    exact ⟨_, rfl, leaveHead_leaves ..⟩
  case frees =>
    rw [exec_vectorComplete, execVectorComplete_chan hruns hbusy hrun, if_neg (Nat.not_lt.mpr hall)]
    exact ⟨_, rfl, by simp, by simp⟩
  case serves => rw [exec_vectorComplete, execVectorComplete_chan hruns hbusy hrun, if_pos hmore]
  case noChannel => obtain h | h := h <;> simp [exec_vectorComplete, execVectorComplete, h]
  case noHead => obtain h | h := h <;> simp [exec_vectorComplete, execVectorComplete, h]

end

section
/-!
DMA commands (09) and the control of the scratchpad (08).
-/
namespace Sys2Proof.Machine

/-! DMA instructions and the stages of a DMA command (R167, R229 to R245). -/

@[simp] theorem core_updDma (s : State) (k j : Nat) (f : DmaQueue → DmaQueue) :
    (s.updDma k f).core j = if j = k then { s.core k with dma := f (s.core k).dma } else s.core j := State.core_updCore ..

@[simp] theorem core_dmaPut (s : State) (k j : Nat) (q : DmaCmd) : (dmaPut s k q).core j = if j = k then { s.core k with
    dma := { (s.core k).dma with queue := updFirst (fun x => x.seq == q.seq) (fun _ => q) (s.core k).dma.queue } } else s.core j :=
  core_updDma ..

@[simp] theorem core_setCluster (s : State) (c j : Nat) (x : Cluster) : (s.setCluster c x).core j = s.core j := rfl

@[simp] theorem core_bumpCluster (s : State) (c ev um n j : Nat) : (s.bumpCluster c ev um n).core j = s.core j := rfl

@[simp] theorem core_stamp (s : State) (j : Nat) : s.stamp.2.core j = s.core j := by
  simp only [State.stamp, State.bumpHub, State.bump, State.core]

theorem exec_dmaSub (o : RrrOp) (s : State) : exec (.dmaSub o) s = execDmaSub o s := rfl

theorem exec_dmaWait (o : RrrOp) (s : State) : exec (.dmaWait o) s = execDmaWait o s := rfl

theorem exec_dmaDispatch (e : Fin 64) (s : State) : exec (.dmaDispatch e) s = execDmaDispatch e s := rfl

theorem exec_dmaTranslationDone (k : Fin 256) (seq : W64) (s : State) :
    exec (.dmaTranslationDone k seq) s = execDmaTranslationDone k seq s := rfl

theorem exec_dmaFirstRequest (k : Fin 256) (seq : W64) (s : State) : exec (.dmaFirstRequest k seq) s = execDmaFirstRequest k seq s := rfl

theorem exec_dmaComplete (k : Fin 256) (seq : W64) (s : State) : exec (.dmaComplete k seq) s = execDmaComplete k seq s := rfl

/-- The control core's group of an instruction that only it may issue. -/
theorem Issues.cc_group {s : State} {k : Nat} {f : Face} {legal : Bool} {us : List RegUse} {g : Grp} (h : Issues s k f legal us g)
    (hcc : isCc f = true) : g = ⟨k, none, [0], (s.core k).pc, 0⟩ := by
  cases f with
  | cc => exact offer_cc_some h.1
  | cv v => cases hcc

/-- A single lane that makes its access. -/
theorem runLanes_single {g : Grp} {clash : State → Nat → Nat → Bool} {f : Nat → State → Lane} {s t : State} (hg : g.lanes = [0])
    (hf : f 0 s = .done t) : runLanes g clash f s = .part t [0] := by
  simp only [runLanes, hg, List.foldl_cons, List.foldl_nil, List.range_zero, List.any_nil, hf, if_false, Bool.false_eq_true, List.nil_append]

/-- R167, R230: DMA.SUB captures its descriptor and gives RD the next number. -/
theorem execDmaSub_completes {o : RrrOp} {s t : State} {g : Grp}
    (h : Issues s o.core o.face (spLegal o true false) [⟨o.rd.toNat, 1, true⟩, ⟨o.ra.toNat, 1, false⟩] g) (hcc : isCc o.face = true)
    (hnone : laneFaults s g (fun _ => descWant o g s) = none)
    (hnone' : laneFaults (unwait s g) g (fun _ => descWant o g (unwait s g)) = none)
    (hroom : ((unwait s g).core g.k).dma.queue.length < 64)
    (hacc : laneAccess (unwait s g) g (unwait s g).mem.nextId 0 (descWant o g (unwait s g)) = .done t) :
    execDmaSub o s = .next (issuedTo (wrReg (t.updDma g.k (fun d => { d with issued := d.issued + 1 })) g 0 o.rd.toNat true
      (BitVec.ofNat 64 (((unwait s g).core g.k).dma.issued + 1))) g 4) := by
  have lanes : g.lanes = [0] := by rw [h.cc_group hcc]
  have noted := noteCause_of_none (want := fun g s _ => descWant o g s) h hnone
  simp only [descWant] at noted hnone' hacc
  simp only [execDmaSub, noted]
  refine issue_part h ?_
  simp only [hnone', if_neg (Nat.not_le.mpr hroom), lanes]
  exact runLanes_single lanes (by simp only [hacc])

/-- R242: DMA.WAIT goes on when nothing numbered at most RA is queued or being captured. -/
theorem execDmaWait_completes {o : RrrOp} {s : State} {g : Grp} (h : Issues s o.core o.face (spLegal o false false) [⟨o.ra.toNat, 1, false⟩] g)
    (hdesc : ∀ a ∈ ((unwait s g).core g.k).acc, a.op ≠ .desc)
    (hseq : ∀ q ∈ ((unwait s g).core g.k).dma.queue, (rdReg (unwait s g) g 0 o.ra.toNat true).toNat < q.seq) :
    execDmaWait o s = .next (issuedTo (unwait s g) g 4) := by
  have captured : ((unwait s g).core g.k).acc.any (fun a => a.op == .desc &&
      decide (a.data.toNat ≤ (rdReg (unwait s g) g 0 o.ra.toNat true).toNat)) = false :=
    List.any_eq_false.mpr fun a ha => by simp [hdesc a ha]
  have gone : ((unwait s g).core g.k).dma.queue.any (fun q => decide (q.seq ≤ (rdReg (unwait s g) g 0 o.ra.toNat true).toNat)) = false :=
    List.any_eq_false.mpr fun q hq => by simpa using hseq q hq
  unfold execDmaWait
  exact issue_ok h.mayIssue (by simp only [captured, gone, Bool.or_self, if_false, Bool.false_eq_true])

/-! Dispatch. -/

/-- The first command with a number is the one that was put. -/
theorem find?_updFirst {α : Type} {p : α → Bool} {x : α} (hx : p x = true) {l : List α} (hl : ∃ y ∈ l, p y = true) :
    (updFirst p (fun _ => x) l).find? p = some x := by
  induction l with
  | nil => simp at hl
  | cons y l ih =>
    cases hy : p y with
    | true => simp [updFirst, hy, hx]
    | false =>
      simp only [updFirst, hy, if_false, Bool.false_eq_true, List.find?_cons]
      exact ih (by simpa [hy] using hl)

/-- A command that may be dispatched is in its core's queue. -/
theorem mem_of_nextDispatch {s : State} {k : Nat} {q : DmaCmd} (h : nextDispatch s k = some q) : q ∈ (s.core k).dma.queue := by
  unfold nextDispatch at h
  split at h
  · cases h
  · dsimp only at h
    split at h
    · cases h
    · next p hp =>
      split at h
      · cases h
      · obtain rfl := Option.some.inj h
        exact List.mem_of_find?_eq_some hp

/-- The cores of a cluster that can dispatch are the one core that has work (R229). -/
theorem ready_eq {s : State} {c k start : Nat} (hk : k / 8 = c) {q : DmaCmd} (hq : nextDispatch s k = some q)
    (hothers : ∀ j, j / 8 = c → j ≠ k → nextDispatch s j = none) :
    (∀ j ∈ ((List.range 8).map (fun i => 8 * c + (start + i) % 8)).filter (fun j => (nextDispatch s j).isSome), j = k) ∧
    k ∈ ((List.range 8).map (fun i => 8 * c + (start + i) % 8)).filter (fun j => (nextDispatch s j).isSome) := by
  constructor
  · intro j hj
    obtain ⟨hj, hsome⟩ := List.mem_filter.mp hj
    obtain ⟨i, hi, rfl⟩ := List.mem_map.mp hj
    refine Decidable.byContradiction fun hne => ?_
    rw [hothers _ (by omega) hne] at hsome
    cases hsome
  · refine List.mem_filter.mpr ⟨List.mem_map.mpr ⟨(k + 8 * start + 8 - start % 8) % 8, List.mem_range.mpr (by omega), by omega⟩, ?_⟩
    rw [hq]
    rfl

/-- A list of one value, not empty, gives that value to a search that it passes. -/
theorem find?_of_all_eq {α : Type} {p : α → Bool} {x : α} {l : List α} (hall : ∀ y ∈ l, y = x) (hmem : x ∈ l) (hp : p x = true) :
    l.find? p = some x := by
  cases l with
  | nil => cases hmem
  | cons y l =>
    obtain rfl := hall y List.mem_cons_self
    exact List.find?_cons_of_pos hp

theorem foldl_add_eq_zero {α : Type} (f : α → Nat) (l : List α) (h : ∀ x ∈ l, f x = 0) : (l.map f).foldl (· + ·) 0 = 0 := by
  induction l with
  | nil => rfl
  | cons x l ih =>
    rw [List.map_cons, List.foldl_cons, h x List.mem_cons_self]
    exact ih (fun y hy => h y (List.mem_cons_of_mem _ hy))

/-- R229: an engine that runs nothing takes the next command of the one core with work. -/
theorem execDmaDispatch_dispatches {e : Fin 64} {k : Nat} {s : State} {q : DmaCmd} (hk : k / 8 = e.val / 2)
    (hq : nextDispatch s k = some q) (hothers : ∀ j, j / 8 = e.val / 2 → j ≠ k → nextDispatch s j = none)
    (hidle : ∀ j, j / 8 = e.val / 2 → ∀ p ∈ (s.core j).dma.queue, p.stage ≠ .queued → p.engine ≠ e.val) :
    execDmaDispatch e s =
      let t := dmaPut (s.setCluster (e.val / 2) { s.cluster (e.val / 2) with served := k % 8 }) k
        { q with stage := .dispatched, engine := e.val }
      match dmaCheck (s.core k).sp { q with stage := .dispatched, engine := e.val } with
      | some b => .next (dmaFault t k { q with stage := .dispatched, engine := e.val } b.cause b.side b.addr b.ring b.addr)
      | none => .next t := by
  have load : ((coresOf (e.val / 2)).map (fun k =>
      ((s.core k).dma.queue.filter (fun q => decide (q.stage ≠ .queued) && q.engine == e.val)).length)).foldl (· + ·) 0 = 0 := by
    refine foldl_add_eq_zero _ _ fun j hj => ?_
    obtain ⟨i, hi, rfl⟩ := List.mem_map.mp hj
    have hi8 : i < 8 := List.mem_range.mp hi
    rw [List.length_eq_zero_iff, List.filter_eq_nil_iff]
    intro p hp h
    simp only [Bool.and_eq_true, decide_eq_true_eq, beq_iff_eq] at h
    exact hidle _ (by omega) p hp h.1 h.2
  obtain ⟨hall, hmem⟩ := ready_eq (start := (s.cluster (e.val / 2)).served + 1) hk hq hothers
  have next := find?_of_all_eq (p := fun j => decide (activeCount (s.core j) < 8) || (((List.range 8).map (fun i =>
    8 * (e.val / 2) + ((s.cluster (e.val / 2)).served + 1 + i) % 8)).filter (fun k => (nextDispatch s k).isSome)).all (· == j)) hall hmem
    (by rw [Bool.or_eq_true]; exact .inr (List.all_eq_true.mpr fun j hj => beq_iff_eq.mpr (hall j hj)))
  have sp : ∀ x : Cluster, ((dmaPut (s.setCluster (e.val / 2) x) k { q with stage := .dispatched, engine := e.val }).core k).sp =
      (s.core k).sp := fun x => by simp
  simp only [execDmaDispatch, load, next, hq, sp]
  rfl

/-- R235: a dispatched command whose pages are all known, few enough and allowed is translated. -/
theorem execDmaTranslationDone_translates {k : Fin 256} {seq : W64} {s s1 s2 s3 : State} {q q1 q2 q3 : DmaCmd} {cr : Tbl Nat}
    (hfind : dmaFind s k seq.toNat = some q) (hstage : q.stage = .dispatched) (hruns : coreRuns s k = true)
    (hcr : cr = if q.crAddr = 0 then [] else [(vpnOf q.crAddr, 0)])
    (h1 : dmaFindPages s k q 0 ((q.pagesLeft false).map Prod.fst) = (s1, q1))
    (h2 : dmaFindPages s1 k q1 1 ((q.pagesLeft true).map Prod.fst) = (s2, q2)) (h3 : dmaFindPages s2 k q2 2 (cr.map Prod.fst) = (s3, q3))
    (hknown : ∀ e ∈ q.pagesLeft false ++ q.pagesLeft true ++ cr, (q3.heldPage e.1).isSome = true ∨ ∃ f ∈ q3.failed, f.1 = e.1)
    (hsrc : q3.countPages ((q.pagesLeft false).map Prod.fst) ≤ 512) (hdst : q3.countPages ((q.pagesLeft true).map Prod.fst) ≤ 512)
    (hfails : ∀ x ∈ [(0, q.pagesLeft false), (1, q.pagesLeft true), (2, cr)], dmaSideFails (dmaPut s3 k q3) k q3 x.1 x.2 = []) :
    execDmaTranslationDone k seq s = .next (dmaPut (dmaPut s3 k q3) k { q3 with stage := .translated }) := by
  have known : (q.pagesLeft false ++ q.pagesLeft true ++ cr).all
      (fun p => (q3.heldPage p.1).isSome || q3.failed.any (fun f => f.1 == p.1)) = true := by
    refine List.all_eq_true.mpr fun p hp => ?_
    obtain h | ⟨f, hf, hfp⟩ := hknown p hp
    · simp [h]
    · rw [Bool.or_eq_true]
      exact .inr (List.any_eq_true.mpr ⟨f, hf, beq_iff_eq.mpr hfp⟩)
  have noFail0 := hfails (0, q.pagesLeft false) (by simp)
  have noFail1 := hfails (1, q.pagesLeft true) (by simp)
  have noFail2 := hfails (2, cr) (by simp)
  simp only [execDmaTranslationDone, hfind, hstage, hruns, ← hcr, h1, h2, h3, known, if_neg (Nat.not_lt.mpr hsrc),
    if_neg (Nat.not_lt.mpr hdst), noFail0, noFail1, noFail2, List.append_nil, Bool.not_true, ne_eq, not_true_eq_false, or_self, if_false,
    Bool.false_eq_true]

/-- R238: a translated command that nothing holds begins to move. -/
theorem execDmaFirstRequest_moves {k : Fin 256} {seq : W64} {s : State} {q : DmaCmd} (hfind : dmaFind s k seq.toNat = some q)
    (hstage : q.stage = .translated) (hruns : coreRuns s k = true) (hdirty : dmaDirty s k q = []) (hheld : dmaHeld s k q = false)
    (hwb : dmaWbOpen s k q = false) :
    execDmaFirstRequest k seq s = .next (dmaRun (dmaPut s k { q with stage := .moving }) k q.seq) := by
  have not_moving : ¬ DmaStage.translated = .moving := by decide
  simp only [execDmaFirstRequest, hfind, hstage, if_neg not_moving, hruns, hdirty, hheld, hwb, List.isEmpty_nil, Bool.not_true, ne_eq,
    not_true_eq_false, or_self, if_false, Bool.false_eq_true]

/-- R242: a command that has moved everything leaves the queue, and its number counts as done. -/
theorem execDmaComplete_completes {k : Fin 256} {seq : W64} {s : State} {q : DmaCmd}
    (hfind : dmaFind (dmaRun s k seq.toNat) k seq.toNat = some q) (hstage : q.stage = .moving) (hdoomed : q.doomed = 0)
    (hmoved : q.movedAll = true) (hlast : q.hostLast = none) (hfence : dmaFenced (dmaRun s k seq.toNat) k q.seq = false)
    (hrecord : q.crAddr = 0) :
    ∃ t, execDmaComplete k seq s = .next t ∧ (t.core k).dma = ((dmaRun s k seq.toNat).core k).dma.finish q.seq := by
  simp only [execDmaComplete, hfind, hstage, hdoomed, hmoved, hlast, hfence, hrecord, Bool.not_true, ne_eq, not_true_eq_false,
    Option.isSome_none, or_self, if_false, if_true, Bool.false_eq_true]
  exact ⟨_, rfl, by simp⟩

/-- A number that is done is in no queue entry. -/
theorem dmaFind_of_finish {s t : State} {k seq : Nat} (h : (t.core k).dma = (s.core k).dma.finish seq) : dmaFind t k seq = none := by
  simp only [dmaFind, h, DmaQueue.finish]
  refine List.find?_eq_none.mpr fun q hq => ?_
  simpa using (List.mem_filter.mp hq).2

end Sys2Proof.Machine

open Sys2Proof Sys2Proof.Machine

/-- Settles O30. -/
theorem dmaInstructionsComplete : Obligations.DmaInstructionsComplete := by
  unfold Obligations.DmaInstructionsComplete
  refine ⟨fun o s t g h hnone hnone' hroom hacc => ?sub, fun o s g h hdesc hseq => ?wait⟩
  case sub =>
    have legal : spLegal o true false = (isCc o.face && !o.w && o.rb == 0) := by simp only [spLegal, Bool.true_or, Bool.false_or, Bool.and_true]
    have hcc : isCc o.face = true := by
      have := h.2.1
      simp only [Bool.and_eq_true] at this
      exact this.1.1
    exact (exec_dmaSub o s).trans (execDmaSub_completes (legal ▸ h) hcc hnone hnone' hroom hacc)
  case wait =>
    have legal : spLegal o false false = (isCc o.face && !o.w && o.rd == 0 && o.rb == 0) := by simp only [spLegal, Bool.false_or]
    exact (exec_dmaWait o s).trans (execDmaWait_completes (legal ▸ h) hdesc hseq)

/-- Settles O31. -/
theorem dmaStagesComplete : Obligations.DmaStagesComplete := by
  unfold Obligations.DmaStagesComplete
  refine ⟨fun e k s q hk hq hothers hidle => ⟨fun b hbad => ?faults, fun hgood => ?dispatched⟩,
    fun k seq s s1 s2 s3 q q1 q2 q3 cr hfind hstage hruns hcr h1 h2 h3 hknown hsrc hdst hfails => ?translated,
    fun k seq s q hfind hstage hruns hdirty hheld hwb => ?moves,
    fun k seq s q hfind hstage hdoomed hmoved hlast hfence hrecord => ?completes⟩
  case faults =>
    rw [exec_dmaDispatch, execDmaDispatch_dispatches hk hq hothers hidle]
    simp only [hbad]
    exact ⟨_, rfl⟩
  case dispatched =>
    rw [exec_dmaDispatch, execDmaDispatch_dispatches hk hq hothers hidle]
    simp only [hgood]
    refine ⟨_, rfl, ?_, fun j hj => by simp [hj]⟩
    simp only [dmaFind, core_dmaPut, if_true, core_setCluster]
    exact find?_updFirst (p := fun x : DmaCmd => x.seq == q.seq) (x := { q with stage := .dispatched, engine := e.val })
      (beq_self_eq_true q.seq) ⟨q, mem_of_nextDispatch hq, beq_self_eq_true q.seq⟩
  case translated =>
    exact (exec_dmaTranslationDone ..).trans
      (execDmaTranslationDone_translates hfind hstage hruns hcr h1 h2 h3 hknown hsrc hdst hfails)
  case moves => exact (exec_dmaFirstRequest ..).trans (execDmaFirstRequest_moves hfind hstage hruns hdirty hheld hwb)
  case completes =>
    obtain ⟨t, ht, hdma⟩ := execDmaComplete_completes hfind hstage hdoomed hmoved hlast hfence hrecord
    have seq_eq : q.seq = seq.toNat := by simpa using List.find?_some hfind
    exact ⟨t, (exec_dmaComplete ..).trans ht, dmaFind_of_finish (seq_eq ▸ hdma), hdma⟩

end

section
namespace Sys2Proof.Machine

/-! Scratchpad control (R168, R209 to R219). -/

/-- A wait that has ended changes of a core its waits and its caravans, and nothing else. -/
theorem core_unwait_frame (s : State) (g : Grp) (j : Nat) :
    ∃ wait cvs, (unwait s g).core j = { s.core j with wait := wait, cvs := cvs } := by
  by_cases hj : j = g.k
  · subst hj
    simp only [unwait, setWait]
    cases g.cv <;> simp only [core_updCv, State.core_updCore, if_true] <;> exact ⟨_, _, rfl⟩
  · simp only [unwait, setWait]
    cases g.cv <;> simp only [core_updCv, State.core_updCore, if_neg hj] <;> exact ⟨_, _, rfl⟩

@[simp] theorem sp_unwait (s : State) (g : Grp) (j : Nat) : ((unwait s g).core j).sp = (s.core j).sp := by
  obtain ⟨a, b, h⟩ := core_unwait_frame s g j
  rw [h]

@[simp] theorem sreg_unwait (s : State) (g : Grp) (j r : Nat) : ((unwait s g).core j).sreg r = (s.core j).sreg r := by
  obtain ⟨a, b, h⟩ := core_unwait_frame s g j
  rw [h]
  rfl

/-- An update of the scratchpad sees the scratchpad that it updates. -/
theorem updSp_congr {s : State} {k : Nat} {f f' : Scratch → Scratch} (h : f (s.core k).sp = f' (s.core k).sp) :
    s.updSp k f = s.updSp k f' := by
  simp only [State.updSp, State.updCore, h]

theorem exec_spPmap (o : RrrOp) (s : State) : exec (.spPmap o) s = execSpPmap o s := rfl

theorem exec_spRingWr (o : RrrOp) (s : State) : exec (.spRingWr o) s = execSpRingWr o s := rfl

theorem exec_spRingRd (o : RrrOp) (b : Bool) (s : State) : exec (.spRingRd o b) s = execSpRingRd o b s := rfl

/-- SP.TAG.FULL and SP.TAG.EMPTY are `spTag`. -/
theorem exec_of_mem_tags {e : (RrrOp → Instr) × Bool} (he : e ∈ [(Instr.spTagFull, true), (Instr.spTagEmpty, false)]) (o : RrrOp)
    (s : State) : exec (e.1 o) s = spTag o e.2 s := by
  repeat
    obtain _ | ⟨_, he⟩ := he
    · rfl
  nomatch he

theorem exec_tagWaitRetry (k : Fin 256) (s : State) : exec (.tagWaitRetry k) s = execTagWaitRetry k s := rfl

section Control
variable {o : RrrOp} {s : State} {g : Grp}

/-- R209, R210: a map of good classes comes in force, and the groups that it changes are in transit. -/
theorem execSpPmap_completes {m : W32} (h : Issues s o.core o.face (spLegal o false false) [⟨o.ra.toNat, 1, false⟩] g) (hk : g.k = o.core)
    (hm : m = ((s.core o.core).sreg o.ra.toNat).setWidth 32) (hclass : ∀ i < 8, mapClass m i ≤ 4)
    (htransit : (s.core o.core).sp.transit = []) :
    execSpPmap o s = .next (issuedTo ((unwait s g).updSp g.k (fun sp => { sp with
      pmap := m
      transit := ((List.range 8).filter (fun i => mapField sp.pmap i != mapField m i)).map
        (fun i => (i, BitVec.ofNat 4 (mapField sp.pmap i))) })) g 4) := by
  have good : (List.range 8).find? (fun i => decide (4 < mapClass m i)) = none := by
    refine List.find?_eq_none.mpr fun i hi => ?_
    simpa using hclass i (List.mem_range.mp hi)
  simp only [execSpPmap, h.1, ← hm, good]
  refine issue_ok h.mayIssue ?_
  simp only [sreg_unwait, ← hm, good, sp_unwait, hk, htransit, Option.isSome_none, List.isEmpty_nil, Bool.not_true, if_false,
    Bool.false_eq_true]
  exact congrArg Did.ok (updSp_congr (by rw [sp_unwait]))

/-- R217, R218: a ring whose words are good, and that nothing takes slots of, has its words written. -/
theorem execSpRingWr_completes
    (h : Issues s o.core o.face (spLegal o true true) [⟨o.ra.toNat, 1, false⟩, ⟨o.rb.toNat, 1, false⟩] g)
    (hgood : ringBad ((s.core o.core).sreg o.ra.toNat) ((s.core o.core).sreg o.rb.toNat) = false)
    (htaken : ∀ t ∈ ((unwait s g).core g.k).sp.taken, t.ring ≠ o.rd.toNat) (hwanted : ringWanted ((unwait s g).core g.k) o.rd.toNat = false) :
    execSpRingWr o s = .next (issuedTo ((unwait s g).updSp g.k (fun sp => { sp with
      rings := tset 0 (tset 0 sp.rings (2 * o.rd.toNat) ((s.core o.core).sreg o.ra.toNat &&& 0xFFFFFFFFF8000000#64))
        (2 * o.rd.toNat + 1) ((s.core o.core).sreg o.rb.toNat &&& 0x7FFF7FFF#64) })) g 4) := by
  have free : ((unwait s g).core g.k).sp.taken.any (fun t => t.ring == o.rd.toNat) = false :=
    List.any_eq_false.mpr fun t ht => by simpa using htaken t ht
  simp only [execSpRingWr, h.1, hgood, Bool.and_false, if_false, Bool.false_eq_true]
  exact issue_ok h.mayIssue (by simp only [sreg_unwait, hgood, free, hwanted, Bool.or_self, if_false, Bool.false_eq_true])

/-- R168: a word of a ring reaches RD. -/
theorem execSpRingRd_completes {b : Bool} (h : Issues s o.core o.face (spLegal o true false) [⟨o.rd.toNat, 1, true⟩] g) :
    execSpRingRd o b s = .next (issuedTo (wrReg (unwait s g) g 0 o.rd.toNat true
      (tget 0 ((unwait s g).core g.k).sp.rings (2 * o.ra.toNat + b.toNat))) g 4) := by
  unfold execSpRingRd
  exact issue_ok h.mayIssue (by cases b <;> rfl)

/-- R215: the tag of a slot is set. -/
theorem spTag_completes {full : Bool} (h : Issues s o.core o.face (spLegal o false false) [⟨o.ra.toNat, 1, false⟩] g)
    (hin : ((s.core o.core).sreg o.ra.toNat).toNat % 2 ^ 32 < 2 ^ 21) :
    spTag o full s = .next (issuedTo ((unwait s g).updSp g.k (fun sp =>
      sp.setTag (((s.core o.core).sreg o.ra.toNat).toNat % 2 ^ 32 / 64) full)) g 4) := by
  have out : ¬ 2 ^ 21 ≤ ((s.core o.core).sreg o.ra.toNat).toNat % 2 ^ 32 := Nat.not_le.mpr hin
  have slot : spSlot (((s.core o.core).sreg o.ra.toNat).toNat % 2 ^ 32) = ((s.core o.core).sreg o.ra.toNat).toNat % 2 ^ 32 / 64 :=
    Nat.mod_eq_of_lt (by omega)
  simp only [spTag, h.1, decide_eq_false out, Bool.and_false, if_false, Bool.false_eq_true]
  exact issue_ok h.mayIssue (by simp only [sreg_unwait, if_neg out, slot])

end Control

/-! An access that no face makes (R216). -/

/-- A store to the scratchpad whose requester is a descriptor capture. -/
def captureStore : SpAccess := ⟨.desc, 0, 0, true, 0, 0, 0, 0, 0, none, 0⟩

/-- It waits for the slot 0 to be empty. -/
def captureWait : TagWait := ⟨0, false, .face captureStore, none⟩

/-- A scratchpad in which nothing else waits. -/
def captureSp : Scratch := { Scratch.dflt with waits := [captureWait] }

/-- A core of a running context with that scratchpad. -/
def captureState : State := (State.reset.setCtx 0 { Ctx.dflt with st := .running }).setCore 0
  { Core.dflt with ctx := some (0, 0), sp := captureSp }

theorem core_captureState : captureState.core 0 = { Core.dflt with ctx := some (0, 0), sp := captureSp } := rfl

/-- The tag table counts as an entry what threads or the control core wait for, so it lists nothing here. -/
theorem listed_captureSp : listed captureSp = [] := rfl

/-- What is not listed is not tried again, even where its tag has come. -/
theorem execTagWaitRetry_captureState : execTagWaitRetry 0 captureState = .next captureState := by
  have runs : coreRuns captureState 0 = true := rfl
  have waits : (captureState.core 0).sp.waits = [captureWait] := rfl
  have behind : (captureState.core 0).sp.behind = [] := rfl
  have not_tried : retryOne captureState 0 captureWait = captureState := by
    have unlisted : listed (captureState.core 0).sp = [] := listed_captureSp
    simp only [retryOne, unlisted, List.contains_nil, Bool.not_false, Bool.true_or, if_true]
  simp only [execTagWaitRetry, runs, waits, List.foldl_cons, List.foldl_nil, not_tried, spFollow, behind, Bool.not_true, if_false,
    Bool.false_eq_true, show ((0 : Fin 256) : Nat) = 0 from rfl]

end Sys2Proof.Machine

open Sys2Proof Sys2Proof.Machine

/-- Settles O32. -/
theorem scratchpadControlCompletes : Obligations.ScratchpadControlCompletes := by
  unfold Obligations.ScratchpadControlCompletes
  have two (o : RrrOp) : spLegal o false false = (isCc o.face && !o.w && o.rd == 0 && o.rb == 0) := by simp only [spLegal, Bool.false_or]
  have cc {b : Bool} {f : Face} {x y : Bool} (h : (isCc f && x && y && b) = true) : isCc f = true := by
    simp only [Bool.and_eq_true] at h
    exact h.1.1.1
  refine ⟨fun o s g m h hm hclass htransit => ?map, fun o s g h hgood htaken hwanted => ?ringWrite, fun o b s g h => ?ringRead,
    fun e he o s g h hin => ?tag⟩
  case map =>
    have hg := h.cc_group (cc h.2.1)
    exact (exec_spPmap o s).trans (execSpPmap_completes (two o ▸ h) (by rw [hg]) hm hclass htransit)
  case ringWrite =>
    have legal : spLegal o true true = (isCc o.face && !o.w) := by simp only [spLegal, Bool.true_or, Bool.and_true]
    exact (exec_spRingWr o s).trans (execSpRingWr_completes (legal ▸ h) hgood htaken hwanted)
  case ringRead =>
    have legal : spLegal o true false = (isCc o.face && !o.w && o.rb == 0) := by
      simp only [spLegal, Bool.true_or, Bool.false_or, Bool.and_true]
    exact (exec_spRingRd o b s).trans (execSpRingRd_completes (legal ▸ h))
  case tag => exact (exec_of_mem_tags he o s).trans (spTag_completes (two o ▸ h) hin)

/-- Refutes O33: its last clause takes any access for that of a face; one whose requester is neither a thread nor the control core is
in no entry of the tag table, so TAG_WAIT_RETRY does not make it, and it goes on waiting where its tag has come. -/
theorem not_scratchpadEventsComplete : ¬ Obligations.ScratchpadEventsComplete := by
  unfold Obligations.ScratchpadEventsComplete
  rintro ⟨-, -, -, -, retried⟩
  obtain ⟨t, ht, hwaits, -⟩ := retried 0 captureState captureWait captureStore rfl rfl rfl rfl rfl rfl
  rw [exec_tagWaitRetry, execTagWaitRetry_captureState] at ht
  obtain rfl : captureState = t := by injection ht
  exact absurd hwaits (by rw [show ((0 : Fin 256) : Nat) = 0 from rfl, core_captureState]; decide)

end

section
/-!
Coherence: requests, homes, answers, grants and probes.
-/
namespace Sys2Proof.Machine

/-! Bumping a counter and sending a message leave the homes and HBM. -/

theorem bumpDie_frame (s : State) (d ev um n : Nat) : ∃ g, s.bumpDie d ev um n = { s with dbg := g } := ⟨_, rfl⟩

theorem countHops_frame (n : Nat) : ∀ (path : List Nat) (a : Nat) (s : State), ∃ g, countHops n path a s = { s with dbg := g }
  | [], _, s => ⟨s.dbg, rfl⟩
  | i :: r, a, s => by
    obtain ⟨g, hg⟩ := countHops_frame n r (if ringDie i = a then ringDie (i + 1) else ringDie i)
      (s.bumpDie a 6 (if (if ringDie i = a then ringDie (i + 1) else ringDie i) <
        (if ringPos a = i then ringDie (ringPos a + 3) else ringDie (ringPos a + 1)) then 2 else 4) n)
    exact ⟨g, hg⟩

/-- The count of a message's bytes changes the counters only (R485). -/
theorem countMsg_frame (s : State) (m : Msg) (toHome : Bool) : ∃ g, countMsg s m toHome = { s with dbg := g } := by
  simp only [countMsg]
  split
  · split
    · exact ⟨s.dbg, rfl⟩
    · exact bumpDie_frame s _ _ _ _
  · split
    · exact countHops_frame _ _ _ s
    · exact countHops_frame _ _ _ s

@[simp] theorem mem_countMsg (s : State) (m : Msg) (toHome : Bool) : (countMsg s m toHome).mem = s.mem := by
  obtain ⟨g, h⟩ := countMsg_frame s m toHome
  rw [h]

@[simp] theorem rel_countMsg (s : State) (m : Msg) (toHome : Bool) : (countMsg s m toHome).rel = s.rel := by
  obtain ⟨g, h⟩ := countMsg_frame s m toHome
  rw [h]

/-- The first element that a list gives up satisfies the test. -/
theorem takeFirst_prop {α : Type} {p : α → Bool} {x : α} : ∀ {l r : List α}, takeFirst p l = some (x, r) → p x = true
  | y :: l, r, h => by
    simp only [takeFirst] at h
    split at h
    · next hy =>
      obtain ⟨rfl, -⟩ : y = x ∧ l = r := by simpa using h
      exact hy
    · obtain ⟨⟨z, r'⟩, hz, he⟩ := Option.map_eq_some_iff.1 h
      obtain ⟨rfl, -⟩ : z = x ∧ y :: r' = r := by simpa using he
      exact takeFirst_prop hz

@[simp] theorem mem_bumpDie (s : State) (d ev um n : Nat) : (s.bumpDie d ev um n).mem = s.mem := rfl
@[simp] theorem rel_bumpDie (s : State) (d ev um n : Nat) : (s.bumpDie d ev um n).rel = s.rel := rfl

/-- The state in which a message has arrived (R286); towards a cluster it is the obligations' `received`. -/
def incoming (s : State) (m : Msg) (rest : List Msg) (toHome : Bool) : State :=
  countMsg { s with mem := { s.mem with msgs := rest } } m toHome

theorem incoming_false (s : State) (m : Msg) (rest : List Msg) : incoming s m rest false = received s m rest := rfl

@[simp] theorem mem_incoming (s : State) (m : Msg) (rest : List Msg) (b : Bool) :
    (incoming s m rest b).mem = { s.mem with msgs := rest } := by simp [incoming]

@[simp] theorem rel_incoming (s : State) (m : Msg) (rest : List Msg) (b : Bool) : (incoming s m rest b).rel = s.rel := by
  simp [incoming]

@[simp] theorem home_incoming (s : State) (m : Msg) (rest : List Msg) (b : Bool) (d : Nat) :
    (incoming s m rest b).home d = s.home d := by simp [State.home]

theorem dieDown_incoming (s : State) (m : Msg) (rest : List Msg) (b : Bool) (d : Nat) :
    dieDown (incoming s m rest b) d = dieDown s d := by simp [dieDown, unitSt]

/-- The first message of its way arrives when it is of the named kind (R286). -/
theorem arrive_of_arrives {s : State} {who : Agent} {line : Nat} {toHome : Bool} {m : Msg} {rest : List Msg}
    (h : Arrives s who line toHome m rest) {p : MsgKind → Bool} (hp : p m.kind = true) :
    arrive s who line toHome p = some (m, incoming s m rest toHome) := by
  obtain ⟨htake, hheld⟩ := h
  simp [arrive, incoming, htake, hheld, hp]

/-- Nothing arrives where the first message of its way is of another kind, or waits for a link. -/
theorem arrive_none {s : State} {who : Agent} {line : Nat} {toHome : Bool} {p : MsgKind → Bool}
    (h : ∀ m rest, Arrives s who line toHome m rest → p m.kind = false) : arrive s who line toHome p = none := by
  simp only [arrive]
  split
  case h_2 => rfl
  case h_1 m rest htake =>
    cases hheld : linkHeld s who line
    · simp [h m rest ⟨htake, hheld⟩]
    · simp

/-- A message that has arrived was about the line. -/
theorem Arrives.line_eq {s : State} {who : Agent} {line : Nat} {toHome : Bool} {m : Msg} {rest : List Msg}
    (h : Arrives s who line toHome m rest) : m.line = line := by
  obtain ⟨htake, -⟩ := h
  have hp := takeFirst_prop htake
  simp only [Bool.and_eq_true, beq_iff_eq] at hp
  exact hp.1.2

theorem home_updHome (s : State) (d j : Nat) (f : Home → Home) :
    (s.updHome d f).home j = if j = d then f (s.home d) else s.home j := by
  simp [State.updHome]

@[simp] theorem home_updHome_same (s : State) (d : Nat) (f : Home → Home) : (s.updHome d f).home d = f (s.home d) := by
  simp [State.updHome]

@[simp] theorem msgs_updHome (s : State) (d : Nat) (f : Home → Home) : (s.updHome d f).mem.msgs = s.mem.msgs := rfl
@[simp] theorem hbm_updHome (s : State) (d : Nat) (f : Home → Home) : (s.updHome d f).mem.hbm = s.mem.hbm := rfl
@[simp] theorem rel_updHome (s : State) (d : Nat) (f : Home → Home) : (s.updHome d f).rel = s.rel := rfl

/-- A request reaches a home whose die is up: it takes the last place in the queue (R288). -/
theorem requestArrives_queues {s : State} {who : Agent} {line : Nat} {m : Msg} {k : ReqKind} {rest : List Msg} {p : ReqKind → Bool}
    (h : Arrives s who line true m rest) (hk : m.kind = .req k) (hp : p k = true) (hd : dieDown s (homeOf line) = false) :
    ∃ t, requestArrives s who line p = .next t ∧ t.mem.msgs = rest ∧
      (t.home (homeOf line)).queue = (s.home (homeOf line)).queue ++ [m] ∧
      (t.home (homeOf line)).dir = (s.home (homeOf line)).dir := by
  refine ⟨(incoming s m rest true).updHome (homeOf line) (fun h => { h with queue := h.queue ++ [m] }), ?_, ?_, ?_, ?_⟩
  · unfold requestArrives
    rw [arrive_of_arrives h (by simpa [hk] using hp)]
    simp only [dieDown_incoming, hd, Bool.false_eq_true, if_false]
  · simp
  · simp
  · simp

end Sys2Proof.Machine

open Sys2Proof Sys2Proof.Machine

/-- Settles O34: each request's instruction is the arrival of its kind. -/
theorem requestsReachTheirHome : Obligations.RequestsReachTheirHome := by
  refine ⟨?_, ?_⟩
  · intro e he c line s m k rest h hk hp hd
    obtain ⟨t, ht, hmsgs, hq, hdir⟩ := requestArrives_queues h hk hp hd
    refine ⟨t, ?_, hmsgs, hq, hdir⟩
    rw [← ht]
    simp only [requestForms] at he
    repeat obtain _ | ⟨_, he⟩ := he; · rfl
    nomatch he
  · intro e he a line s m rest h hk hd
    obtain ⟨t, ht, hmsgs, hq, -⟩ := requestArrives_queues (p := (· == e.2)) h hk (by simp) hd
    refine ⟨t, ?_, hmsgs, hq⟩
    rw [← ht]
    repeat obtain _ | ⟨_, he⟩ := he; · rfl
    nomatch he

end

section
namespace Sys2Proof.Machine

/-! The directory: what a line's entry is after a put, a change and a tidying. -/

theorem tfind_tput_ne {α : Type} (t : Tbl α) {k j : Nat} (v : α) (h : j ≠ k) : tfind (tput t k v) j = tfind t j := by
  induction t with
  | nil => simp [tput, tfind, Ne.symm h]
  | cons e r ih =>
    obtain ⟨i, w⟩ := e
    simp only [tput]
    split
    · simp [tfind, Ne.symm h]
    · split
      · next hik => subst hik; simp [tfind, Ne.symm h]
      · simp [tfind, ih]

theorem tfind_tdel_same {α : Type} (t : Tbl α) (k : Nat) : tfind (tdel t k) k = none := by
  induction t with
  | nil => rfl
  | cons e r ih =>
    obtain ⟨i, w⟩ := e
    simp only [tdel]
    split
    · exact ih
    · next h => simpa [tfind, h] using ih

/-- The positions of a line's set (R276). -/
def dirWays (line : Nat) : List Nat := (List.range 16).map (16 * dirSet line + ·)

/-- The entry at a position of the directory, where it is the line's. -/
def dirAt (dir : Tbl DirEnt) (line p : Nat) : Option (Nat × DirEnt) :=
  match tfind dir p with
  | some e => if e.line == line then some (p, e) else none
  | none => none

theorem dirFind_eq (h : Home) (line : Nat) : dirFind h line = (dirWays line).findSome? (dirAt h.dir line) := by
  simp only [dirFind, dirWays]
  congr 1

theorem dirAt_some {dir : Tbl DirEnt} {line q p : Nat} {e : DirEnt} (h : dirAt dir line q = some (p, e)) :
    q = p ∧ tfind dir p = some e ∧ e.line = line := by
  simp only [dirAt] at h
  split at h
  case h_2 => simp at h
  case h_1 e' he =>
    split at h
    case isTrue hl =>
      obtain ⟨rfl, rfl⟩ : q = p ∧ e' = e := by simpa using h
      exact ⟨rfl, he, by simpa using hl⟩
    case isFalse => cases h

theorem dirAt_put_same (dir : Tbl DirEnt) {line p : Nat} {e : DirEnt} (he : e.line = line) :
    dirAt (tput dir p e) line p = some (p, e) := by
  simp [dirAt, tfind_tput_same, he]

theorem dirAt_put_ne (dir : Tbl DirEnt) (line : Nat) {p q : Nat} (e : DirEnt) (h : q ≠ p) :
    dirAt (tput dir p e) line q = dirAt dir line q := by
  simp [dirAt, tfind_tput_ne _ _ h]

theorem dirFind_some {h : Home} {line p : Nat} {e : DirEnt} (hf : dirFind h line = some (p, e)) :
    tfind h.dir p = some e ∧ e.line = line := by
  rw [dirFind_eq] at hf
  obtain ⟨q, -, hq⟩ := List.exists_of_findSome?_eq_some hf
  exact (dirAt_some hq).2

theorem dirFind_congr {h h' : Home} (hd : h'.dir = h.dir) (line : Nat) : dirFind h' line = dirFind h line := by
  rw [dirFind_eq, dirFind_eq, hd]

/-- The first position that holds the line is found. -/
theorem dirFind_put {h h' : Home} {line p : Nat} {e : DirEnt} {before behind : List Nat} (hw : dirWays line = before ++ p :: behind)
    (hne : ∀ q ∈ before, q ≠ p ∧ dirAt h.dir line q = none) (he : e.line = line) (hd : h'.dir = tput h.dir p e) :
    dirFind h' line = some (p, e) := by
  rw [dirFind_eq, hd, hw, List.findSome?_append, List.findSome?_cons, dirAt_put_same _ he,
    List.findSome?_eq_none_iff.2 (fun q hq => by rw [dirAt_put_ne _ _ _ (hne q hq).1]; exact (hne q hq).2)]
  rfl

/-- A line's entry that is changed is found where it was. -/
theorem dirFind_put_found {h h' : Home} {line p : Nat} {e e' : DirEnt} (hf : dirFind h line = some (p, e)) (he : e'.line = line)
    (hd : h'.dir = tput h.dir p e') : dirFind h' line = some (p, e') := by
  rw [dirFind_eq] at hf
  obtain ⟨before, q, behind, hw, hq, hnone⟩ := List.findSome?_eq_some_iff.1 hf
  obtain ⟨rfl, -, -⟩ := dirAt_some hq
  refine dirFind_put hw (fun r hr => ⟨?_, hnone r hr⟩) he hd
  rintro rfl
  simp [hnone r hr] at hq

/-- A new entry of a line that had none is found. -/
theorem dirFind_put_new {h h' : Home} {line p : Nat} {e : DirEnt} (hf : dirFind h line = none) (hp : p ∈ dirWays line)
    (he : e.line = line) (hd : h'.dir = tput h.dir p e) : dirFind h' line = some (p, e) := by
  rw [dirFind_eq, List.findSome?_eq_none_iff] at hf
  obtain ⟨before, behind, hw, hnot⟩ := List.eq_append_cons_of_mem hp
  refine dirFind_put hw (fun q hq => ⟨?_, hf q (by simp [hw, hq])⟩) he hd
  rintro rfl
  exact hnot hq

/-- The pseudo-LRU victim is one of the ways. -/
theorem plruVictim_lt : ∀ (k node lo bits : Nat) (ok : Nat → Bool), lo ≤ plruVictim k node lo bits ok ∧ plruVictim k node lo bits ok < lo + 2 ^ k
  | 0, _, lo, _, _ => by simp [plruVictim]
  | k + 1, node, lo, bits, ok => by
    simp only [plruVictim]
    generalize hside : (if (List.range (2 ^ k)).any (fun i => ok (lo + bits / 2 ^ node % 2 * 2 ^ k + i)) = true then
      bits / 2 ^ node % 2 else 1 - bits / 2 ^ node % 2) = side
    have hle : side ≤ 1 := by
      have := Nat.mod_lt (bits / 2 ^ node) (y := 2) (by omega)
      rw [← hside]
      split <;> omega
    have hmul : side * 2 ^ k ≤ 2 ^ k := by simpa using Nat.mul_le_mul_right (2 ^ k) hle
    have := plruVictim_lt k (2 * node + 1 + side) (lo + side * 2 ^ k) bits ok
    have hpow : 2 ^ (k + 1) = 2 ^ k + 2 ^ k := by omega
    omega

/-- The place of a new entry is in its line's set. -/
theorem dirVictim_ways {h : Home} {line p : Nat} {o : Option DirEnt} (hv : dirVictim h line = some (p, o)) : p ∈ dirWays line := by
  have hway : ∀ w < 16, 16 * dirSet line + w ∈ dirWays line := fun w hw => by simp [dirWays, hw]
  simp only [dirVictim] at hv
  split at hv
  case h_1 w hw =>
    obtain ⟨rfl, -⟩ : 16 * dirSet line + w = p ∧ none = o := by simpa using hv
    exact hway w (by simpa using List.mem_of_find?_eq_some hw)
  case h_2 =>
    split at hv
    case isTrue =>
      simp only [Option.some.injEq, Prod.mk.injEq] at hv
      rw [← hv.1]
      exact hway _ (by simpa using (plruVictim_lt 4 0 0 _ _).2)
    case isFalse => cases hv

/-- A change of a line's entry. -/
theorem home_dirUpd {s : State} {line p : Nat} {e : DirEnt} (f : DirEnt → DirEnt) (hf : dirFind (s.home (homeOf line)) line = some (p, e)) :
    (dirUpd s line f).home (homeOf line) = { s.home (homeOf line) with dir := tput (s.home (homeOf line)).dir p (f e) } := by
  simp [dirUpd, hf]

/-- A line whose entry names a cluster keeps its entry. -/
theorem dirTidy_of_shar {s : State} {line p : Nat} {e : DirEnt} (hf : dirFind (s.home (homeOf line)) line = some (p, e))
    (he : e.shar ≠ 0) : dirTidy s line = s := by
  simp only [dirTidy, hf]
  exact if_neg (fun h => he h.1)

@[simp] theorem rel_dirUpd (s : State) (line : Nat) (f : DirEnt → DirEnt) : (dirUpd s line f).rel = s.rel := rfl
@[simp] theorem hbm_dirUpd (s : State) (line : Nat) (f : DirEnt → DirEnt) : (dirUpd s line f).mem.hbm = s.mem.hbm := rfl
@[simp] theorem msgs_dirUpd (s : State) (line : Nat) (f : DirEnt → DirEnt) : (dirUpd s line f).mem.msgs = s.mem.msgs := rfl
@[simp] theorem home_sendMsg (s : State) (m : Msg) (d : Nat) : (sendMsg s m).home d = s.home d := rfl
@[simp] theorem rel_sendMsg (s : State) (m : Msg) : (sendMsg s m).rel = s.rel := rfl
@[simp] theorem hbm_sendMsg (s : State) (m : Msg) : (sendMsg s m).mem.hbm = s.mem.hbm := rfl
@[simp] theorem msgs_sendMsg (s : State) (m : Msg) : (sendMsg s m).mem.msgs = s.mem.msgs ++ [m] := rfl
@[simp] theorem home_bumpDie (s : State) (d ev um n j : Nat) : (s.bumpDie d ev um n).home j = s.home j := rfl

/-- The change of an entry and its tidying leave the rest of the home. -/
theorem rest_dirUpd (s : State) (line : Nat) (f : DirEnt → DirEnt) (d : Nat) :
    ∃ dir, (dirUpd s line f).home d = { s.home d with dir := dir } := by
  simp only [dirUpd, home_updHome]
  split
  next hd =>
    subst hd
    split <;> exact ⟨_, rfl⟩
  next hd =>
    exact ⟨_, rfl⟩

theorem rest_dirTidy (s : State) (line : Nat) (d : Nat) : ∃ dir, (dirTidy s line).home d = { s.home d with dir := dir } := by
  simp only [dirTidy]
  split
  case h_2 => exact ⟨_, rfl⟩
  case h_1 =>
    split
    · simp only [dirDel, home_updHome]
      split
      next hd =>
        subst hd
        split <;> exact ⟨_, rfl⟩
      next hd =>
        exact ⟨_, rfl⟩
    · exact ⟨_, rfl⟩

@[simp] theorem active_dirUpd (s : State) (line : Nat) (f : DirEnt → DirEnt) (d : Nat) :
    ((dirUpd s line f).home d).active = (s.home d).active := by
  obtain ⟨dir, h⟩ := rest_dirUpd s line f d
  rw [h]

@[simp] theorem late_dirUpd (s : State) (line : Nat) (f : DirEnt → DirEnt) (d : Nat) :
    ((dirUpd s line f).home d).late = (s.home d).late := by
  obtain ⟨dir, h⟩ := rest_dirUpd s line f d
  rw [h]

@[simp] theorem active_dirTidy (s : State) (line d : Nat) : ((dirTidy s line).home d).active = (s.home d).active := by
  obtain ⟨dir, h⟩ := rest_dirTidy s line d
  rw [h]

@[simp] theorem late_dirTidy (s : State) (line d : Nat) : ((dirTidy s line).home d).late = (s.home d).late := by
  obtain ⟨dir, h⟩ := rest_dirTidy s line d
  rw [h]

@[simp] theorem queue_dirTidy (s : State) (line d : Nat) : ((dirTidy s line).home d).queue = (s.home d).queue := by
  obtain ⟨dir, h⟩ := rest_dirTidy s line d
  rw [h]

/-- What the homes' own steps leave: HBM, its poison, the messages in flight and the units. -/
structure SameStore (s t : State) : Prop where
  hbm : t.mem.hbm = s.mem.hbm
  poison : t.mem.poison = s.mem.poison
  badUnits : t.mem.badUnits = s.mem.badUnits
  rel : t.rel = s.rel

theorem SameStore.refl (s : State) : SameStore s s := ⟨rfl, rfl, rfl, rfl⟩

theorem SameStore.trans {s t u : State} (h : SameStore s t) (h' : SameStore t u) : SameStore s u :=
  ⟨h'.hbm.trans h.hbm, h'.poison.trans h.poison, h'.badUnits.trans h.badUnits, h'.rel.trans h.rel⟩

theorem sameStore_updHome (s : State) (d : Nat) (f : Home → Home) : SameStore s (s.updHome d f) := ⟨rfl, rfl, rfl, rfl⟩
theorem sameStore_bumpDie (s : State) (d ev um n : Nat) : SameStore s (s.bumpDie d ev um n) := ⟨rfl, rfl, rfl, rfl⟩
theorem sameStore_dirUpd (s : State) (line : Nat) (f : DirEnt → DirEnt) : SameStore s (dirUpd s line f) := ⟨rfl, rfl, rfl, rfl⟩

theorem sameStore_dirTidy (s : State) (line : Nat) : SameStore s (dirTidy s line) := by
  simp only [dirTidy]
  split
  · split
    · exact ⟨rfl, rfl, rfl, rfl⟩
    · exact .refl s
  · exact .refl s

@[simp] theorem msgs_dirTidy (s : State) (line : Nat) : (dirTidy s line).mem.msgs = s.mem.msgs := by
  simp only [dirTidy]
  split
  · (repeat' split) <;> rfl
  · rfl

theorem SameStore.hbmSector {s t : State} (h : SameStore s t) (line q : Nat) : hbmSector t line q = hbmSector s line q := by
  simp [Machine.hbmSector, h.hbm]

theorem SameStore.storedPoison {s t : State} (h : SameStore s t) (line q : Nat) : storedPoison t line q = storedPoison s line q := by
  simp [Machine.storedPoison, h.poison, h.badUnits]

theorem SameStore.readSectors {s t : State} (h : SameStore s t) (line mask : Nat) : readSectors t line mask = readSectors s line mask := by
  simp [Machine.readSectors, Machine.hbmPoison, h.hbmSector, h.storedPoison, unitSt, h.rel]

end Sys2Proof.Machine

end

section
namespace Sys2Proof.Machine

/-! HOME_TRANSACTION_START: the grant of an unheld line and the probes of a shared one. -/

theorem oneBit_ne_zero (c : Fin 32) : oneBit c.val ≠ 0 := by
  revert c
  decide

theorem clusterOfAgent_l2 (c : Fin 32) : clusterOfAgent (.l2 c) = c.val := rfl

/-- The home without a line's transactions. -/
def endActive (line : Nat) (h : Home) : Home := { h with active := h.active.filter (fun u => u.msg.line != line) }

theorem homeBusy_of_filter {h : Home} {line : Nat} {l : List HomeTxn} (ha : h.active = l.filter (fun u => u.msg.line != line)) :
    homeBusy h line = false := by
  simp [homeBusy, ha]

/-- The message with which the home grants an unheld line (R286). -/
def grantE (s : State) (m : Msg) : Msg :=
  ⟨.dataE, m.who, m.line, m.mask, (readSectors s m.line m.mask).1, (readSectors s m.line m.mask).2, m.id, m.size, 0, 0⟩

/-- The steps of the grant that do not touch the directory. -/
def ended (s : State) (m : Msg) : State :=
  s.updHome (homeOf m.line) (fun h => { h with active := h.active.filter (fun u => u.msg.line != m.line) })

theorem home_ended (s : State) (m : Msg) : (ended s m).home (homeOf m.line) = endActive m.line (s.home (homeOf m.line)) := by
  simp [ended, endActive]

/-- An RD_S of a line whose entry names no cluster ends with DATA_E, and its cluster owns the line. -/
theorem finishTxn_rdS_unheld {s : State} {m : Msg} {c : Fin 32} {p : Nat} {x : Bool} (await : List Nat) (hk : m.kind = .req .rdS)
    (hw : m.who = .l2 c) (hsize : m.size = 0)
    (hf : dirFind (s.home (homeOf m.line)) m.line = some (p, ⟨m.line, x, 0⟩)) :
    (finishTxn s ⟨m, await, none⟩).mem.msgs = s.mem.msgs ++ [grantE s m] ∧
      (finishTxn s ⟨m, await, none⟩).home (homeOf m.line) =
        { endActive m.line (s.home (homeOf m.line)) with dir := tput (s.home (homeOf m.line)).dir p ⟨m.line, true, oneBit c.val⟩ } := by
  have hread : readSectors ((ended s m).bumpDie (homeOf m.line) 1 0xFFFF 1) m.line m.mask = readSectors s m.line m.mask :=
    ((sameStore_updHome s _ _).trans (sameStore_bumpDie _ _ _ _ _)).readSectors _ _
  have hf₁ : dirFind ((ended s m).home (homeOf m.line)) m.line = some (p, ⟨m.line, x, 0⟩) := by
    rw [← hf]
    rw [home_ended]
    exact dirFind_congr rfl _
  generalize hu : ((ended s m).bumpDie (homeOf m.line) 1 0xFFFF 1).bumpDie (homeOf m.line) 3 (stackBit m.line)
    (readSectors s m.line m.mask).1.length = u
  have hhome : u.home (homeOf m.line) = endActive m.line (s.home (homeOf m.line)) := by
    rw [← hu]
    simp [home_ended]
  have hmsgs : u.mem.msgs = s.mem.msgs := by
    rw [← hu]
    rfl
  have hfin : finishTxn s ⟨m, await, none⟩ =
      dirTidy (sendMsg (dirUpd u m.line (setShar true (oneBit c.val))) (grantE s m)) m.line := by
    simp only [ended] at hf₁ hu hread
    simp only [finishTxn, hk, hsize, hw, clusterOfAgent_l2, hf₁, hread, hu, Option.map_some, Option.getD_some, and_self,
      if_true, reply, grantE]
  have hupd : (dirUpd u m.line (setShar true (oneBit c.val))).home (homeOf m.line) =
      { endActive m.line (s.home (homeOf m.line)) with dir := tput (s.home (homeOf m.line)).dir p ⟨m.line, true, oneBit c.val⟩ } := by
    have hfu : dirFind (u.home (homeOf m.line)) m.line = some (p, ⟨m.line, x, 0⟩) := by
      rw [hhome, ← hf]
      exact dirFind_congr rfl _
    rw [home_dirUpd _ hfu, hhome]
    rfl
  have hnew : dirFind ((sendMsg (dirUpd u m.line (setShar true (oneBit c.val))) (grantE s m)).home (homeOf m.line)) m.line =
      some (p, ⟨m.line, true, oneBit c.val⟩) := by
    rw [home_sendMsg, hupd]
    exact dirFind_put_found hf rfl rfl
  rw [hfin, dirTidy_of_shar hnew (oneBit_ne_zero c)]
  exact ⟨by simp [hmsgs], hupd⟩

/-- What the home does before it serves the first request of a line whose place in the directory is known. -/
def starting (s : State) (line : Nat) (rest : List Msg) : State :=
  dirTouch (s.updHome (homeOf line) (fun h => { h with queue := rest })) line

theorem home_starting (s : State) (line : Nat) (rest : List Msg) :
    ∃ plru, (starting s line rest).home (homeOf line) = { s.home (homeOf line) with queue := rest, plru := plru } := by
  simp only [starting, dirTouch, home_updHome_same]
  split <;> exact ⟨_, rfl⟩

theorem sameStore_starting (s : State) (line : Nat) (rest : List Msg) : SameStore s (starting s line rest) := ⟨rfl, rfl, rfl, rfl⟩

theorem msgs_starting (s : State) (line : Nat) (rest : List Msg) : (starting s line rest).mem.msgs = s.mem.msgs := rfl

/-- The first request of a line that is not BUSY, whose entry is there, is served. -/
theorem startLine_found {s : State} {line : Nat} {m : Msg} {rest : List Msg} {k : ReqKind} {p : Nat} {e : DirEnt}
    (hbusy : homeBusy (s.home (homeOf line)) line = false) (hch : unitSt s .channel (channelOf line) ≠ .recovering)
    (htake : takeFirst (fun m => m.line == line) (s.home (homeOf line)).queue = some (m, rest)) (hk : m.kind = .req k)
    (hf : dirFind (s.home (homeOf line)) line = some (p, e)) :
    startLine s line = beginTxn (starting s line rest) ⟨m, [], none⟩ (probes (some e) k (clusterOfAgent m.who)) := by
  have hfind : dirFind ({ s.home (homeOf line) with queue := rest }) line = some (p, e) := by
    rw [← hf]
    exact dirFind_congr rfl _
  simp only [startLine, hbusy, Bool.false_or, beq_eq_false_iff_ne.2 hch, Bool.false_eq_true, if_false, htake, hk, hf, Option.isNone_some,
    Bool.and_false, starting, home_updHome_same, hfind, Option.map_some]

/-- A request that takes a line without an entry gets the free place of its set. -/
theorem startLine_new {s : State} {line : Nat} {m : Msg} {rest : List Msg} {k : ReqKind} {p : Nat}
    (hbusy : homeBusy (s.home (homeOf line)) line = false) (hch : unitSt s .channel (channelOf line) ≠ .recovering)
    (htake : takeFirst (fun m => m.line == line) (s.home (homeOf line)).queue = some (m, rest)) (hk : m.kind = .req k)
    (htakes : k.takes = true) (hev : ∀ x ∈ (s.home (homeOf line)).active, x.evict ≠ some line)
    (hf : dirFind (s.home (homeOf line)) line = none) (hv : dirVictim (s.home (homeOf line)) line = some (p, none)) :
    startLine s line =
      beginTxn (starting (s.updHome (homeOf line) (fun h => { h with dir := tput h.dir p ⟨line, false, 0⟩ })) line rest)
        ⟨m, [], none⟩ (probes (some ⟨line, false, 0⟩) k (clusterOfAgent m.who)) := by
  have hany : (s.home (homeOf line)).active.any (fun t => t.evict == some line) = false := by
    rw [List.any_eq_false]
    intro x hx
    simpa using hev x hx
  have hfind : dirFind ({ s.home (homeOf line) with queue := rest, dir := tput (s.home (homeOf line)).dir p ⟨line, false, 0⟩ }) line =
      some (p, ⟨line, false, 0⟩) := dirFind_put_new hf (dirVictim_ways hv) rfl rfl
  simp only [startLine, hbusy, Bool.false_or, beq_eq_false_iff_ne.2 hch, Bool.false_eq_true, if_false, htake, hk, hf, Option.isNone_none,
    htakes, Bool.and_self, if_true, hany, hv, starting, home_updHome_same, hfind, Option.map_some]

/-- The messages of the probes that the home sends. -/
theorem foldl_sendMsg {α : Type} (f : α → Msg) (l : List α) (s : State) :
    (l.foldl (fun s x => sendMsg s (f x)) s).mem.msgs = s.mem.msgs ++ l.map f ∧
      ∀ d, (l.foldl (fun s x => sendMsg s (f x)) s).home d = s.home d := by
  induction l generalizing s with
  | nil => simp
  | cons x r ih =>
    obtain ⟨hm, hh⟩ := ih (sendMsg s (f x))
    exact ⟨by simp [hm], fun d => by simp [hh d]⟩

/-- A transaction that awaits answers has sent its probes and keeps the line BUSY. -/
theorem beginTxn_probes (s : State) (t : HomeTxn) {ps : List (Nat × MsgKind)} (hps : ps ≠ []) :
    (beginTxn s t ps).mem.msgs = s.mem.msgs ++
        ps.map (fun p => { Msg.bare p.2 (agentL2 p.1) t.msg.line with mask := t.msg.mask }) ∧
      (beginTxn s t ps).home (homeOf t.msg.line) = { s.home (homeOf t.msg.line) with
        active := (s.home (homeOf t.msg.line)).active ++ [{ t with await := ps.map Prod.fst }] } := by
  have hne : ps.isEmpty = false := by simpa using hps
  obtain ⟨hm, hh⟩ := foldl_sendMsg (fun p : Nat × MsgKind => { Msg.bare p.2 (agentL2 p.1) t.msg.line with mask := t.msg.mask }) ps
    (s.updHome (homeOf t.msg.line) (fun h => { h with active := h.active ++ [{ t with await := ps.map Prod.fst }] }))
  simp only [beginTxn, hne, Bool.false_eq_true, if_false]
  exact ⟨hm, by rw [hh, home_updHome_same]⟩

/-- A transaction that awaits nobody finishes at once. -/
theorem beginTxn_alone (s : State) (t : HomeTxn) :
    beginTxn s t [] = finishTxn (s.updHome (homeOf t.msg.line) (fun h => { h with active := h.active ++ [{ t with await := [] }] }))
      { t with await := [] } := rfl

end Sys2Proof.Machine

open Sys2Proof Sys2Proof.Machine

/-- Settles O35: the grant of an unheld line, and the probes to a shared one. -/
theorem homeTransactionsStart : Obligations.HomeTransactionsStart := by
  refine ⟨?_, ?_⟩
  · intro line s m c rest p hbusy hch htake hline hk hw hsize hev hf hv
    refine ⟨_, rfl, ?_⟩
    rw [startLine_new hbusy hch htake hk rfl hev hf hv, show probes (some ⟨line.toNat, false, 0⟩) .rdS (clusterOfAgent m.who) = [] from rfl,
      beginTxn_alone]
    dsimp only
    obtain ⟨plru, hhome⟩ := home_starting
      (s.updHome (homeOf line.toNat) (fun h => { h with dir := tput h.dir p ⟨line.toNat, false, 0⟩ })) line.toNat rest
    have hstore := (sameStore_updHome s (homeOf line.toNat) (fun h => { h with dir := tput h.dir p ⟨line.toNat, false, 0⟩ })).trans
      (sameStore_starting _ line.toNat rest)
    have hmsgs := msgs_starting (s.updHome (homeOf line.toNat) (fun h => { h with dir := tput h.dir p ⟨line.toNat, false, 0⟩ }))
      line.toNat rest
    generalize starting (s.updHome (homeOf line.toNat) (fun h => { h with dir := tput h.dir p ⟨line.toNat, false, 0⟩ })) line.toNat rest = u
      at hhome hstore hmsgs
    rw [home_updHome_same] at hhome
    rw [← hline] at *
    have hfu : dirFind ((u.updHome (homeOf m.line) (fun h => { h with active := h.active ++ [⟨m, [], none⟩] })).home (homeOf m.line)) m.line =
        some (p, ⟨m.line, false, 0⟩) := by
      rw [home_updHome_same]
      exact dirFind_put_new hf (dirVictim_ways hv) rfl (by rw [hhome])
    obtain ⟨hm, hh⟩ := finishTxn_rdS_unheld [] hk hw hsize hfu
    refine ⟨?_, ?_, ?_, ?_⟩
    · rw [hm, grantE, ((hstore.trans (sameStore_updHome u _ _)).readSectors m.line m.mask)]
      exact congrArg (· ++ _) hmsgs
    · rw [hh]
      exact dirFind_put_found hfu rfl rfl
    · rw [hh]
      simp [endActive, hhome]
    · rw [hh]
      exact homeBusy_of_filter rfl
  · intro line s m c rest p e hbusy hch htake hline hk hw hf hx hne
    refine ⟨_, rfl, ?_⟩
    rw [startLine_found hbusy hch htake hk hf,
      show probes (some e) .rdX (clusterOfAgent m.who) = ((sharers e.shar).filter (· ≠ c.val)).map (fun j => (j, MsgKind.inv)) by
        simp only [probes, hx, hw, clusterOfAgent_l2, Bool.false_eq_true, if_false]
        congr 2
        funext j
        exact decide_not.symm]
    obtain ⟨plru, hhome⟩ := home_starting s line.toNat rest
    obtain ⟨hm, hh⟩ := beginTxn_probes (starting s line.toNat rest) ⟨m, [], none⟩ (by simpa using hne :
      ((sharers e.shar).filter (· ≠ c.val)).map (fun j => (j, MsgKind.inv)) ≠ [])
    dsimp only at hm hh
    rw [hline] at hm hh
    refine ⟨?_, ?_, ?_⟩
    · rw [hm, List.map_map, msgs_starting]
      rfl
    · rw [hh, hhome]
    · rw [hh]
      simp [homeBusy, hline]

end

section
namespace Sys2Proof.Machine

/-! HBM sectors: what a write of sectors leaves in HBM, and what the homes' answers leave of it. -/

theorem mread_congr {m m' : Memory} {a n : Nat} (h : ∀ i < n, mget m' (a + i) = mget m (a + i)) : mread m' a n = mread m a n := by
  induction n generalizing a with
  | zero => rfl
  | succ n ih =>
    have h0 : mget m' a = mget m a := h 0 (by omega)
    simp only [mread, h0]
    rw [ih (fun i hi => by
      have := h (i + 1) (by omega)
      rwa [show a + (i + 1) = a + 1 + i by omega] at this)]

theorem mread_of_bytes {m : Memory} {a n v : Nat} (h : ∀ i < n, mget m (a + i) = BitVec.ofNat 8 (v / 256 ^ i)) :
    mread m a n = v % 256 ^ n := by
  induction n generalizing a v with
  | zero => simp [mread, Nat.mod_one]
  | succ n ih =>
    have h0 : mget m a = BitVec.ofNat 8 v := by simpa using h 0 (by omega)
    have hr := ih (a := a + 1) (v := v / 256) (fun i hi => by
      have := h (i + 1) (by omega)
      rwa [show a + (i + 1) = a + 1 + i by omega, Nat.pow_succ', ← Nat.div_div_eq_div_mul] at this)
    simp only [mread, h0, hr, BitVec.toNat_ofNat]
    have hpow : 256 ^ (n + 1) = 256 * 256 ^ n := Nat.pow_succ'
    rw [hpow, Nat.mod_mul]

/-- What is written is read back. -/
theorem mread_mwrite_same (m : Memory) (a n v : Nat) : mread (mwrite m a n v) a n = v % 256 ^ n :=
  mread_of_bytes (fun _ hi => mget_mwrite_of_in hi)

/-- A write leaves what lies beside it. -/
theorem mread_mwrite_beside {m : Memory} {a n v b k : Nat} (h : b + k ≤ a ∨ a + n ≤ b) : mread (mwrite m a n v) b k = mread m b k :=
  mread_congr (fun i hi => mget_mwrite_of_out (by omega))

theorem hbmSector_put_same (s : State) (line q : Nat) (x : Sector) : hbmSector (hbmPutSector s line q x) line q = x.data := by
  have hlt : x.data.toNat < 256 ^ 64 := by
    have := x.data.isLt
    omega
  simp only [hbmSector, hbmPutSector, setPoison, hbmWrite]
  rw [mread_mwrite_same, Nat.mod_eq_of_lt hlt, BitVec.ofNat_toNat, BitVec.setWidth_eq]

theorem hbmSector_put_other (s : State) (line : Nat) {q r : Nat} (x : Sector) (h : r ≠ q) :
    hbmSector (hbmPutSector s line q x) line r = hbmSector s line r := by
  simp only [hbmSector, hbmPutSector, setPoison, hbmWrite]
  rw [mread_mwrite_beside (by omega)]

theorem storedPoison_set_same (s : State) (line q : Nat) (p : Bool) : storedPoison (setPoison s line q p) line q = p := by
  simp only [storedPoison, setPoison]
  cases p <;> cases s.mem.badUnits.contains (line / 2 ^ 22) <;> simp

theorem storedPoison_set_other (s : State) (line : Nat) {q r : Nat} (p : Bool) (h : r ≠ q) :
    storedPoison (setPoison s line q p) line r = storedPoison s line r := by
  have hne : 4 * line + r ≠ 4 * line + q := by omega
  have hrest : (s.mem.poison.filter (· != 4 * line + q)).contains (4 * line + r) = s.mem.poison.contains (4 * line + r) := by
    rw [Bool.eq_iff_iff]
    simp [h]
  simp only [storedPoison, setPoison]
  split
  · rw [List.contains_cons, hrest, beq_eq_false_iff_ne.2 hne, Bool.false_or]
  · rw [hrest]

theorem storedPoison_put_same (s : State) (line q : Nat) (x : Sector) :
    storedPoison (hbmPutSector s line q x) line q = x.poison := storedPoison_set_same _ line q _

theorem storedPoison_put_other (s : State) (line : Nat) {q r : Nat} (x : Sector) (h : r ≠ q) :
    storedPoison (hbmPutSector s line q x) line r = storedPoison s line r := storedPoison_set_other _ line _ h

/-- The sectors of a message written to HBM (R287). -/
def putSectors (s : State) (line : Nat) (m : Msg) (qs : List Nat) : State :=
  qs.foldl (fun s q => hbmPutSector s line q ⟨sectorOf m.bytes q, false, m.poison / 2 ^ q % 2 == 1, 0⟩) s

theorem putSectors_read (line : Nat) (m : Msg) (r : Nat) : ∀ (qs : List Nat) (s : State),
    hbmSector (putSectors s line m qs) line r = (if r ∈ qs then sectorOf m.bytes r else hbmSector s line r) ∧
      storedPoison (putSectors s line m qs) line r = (if r ∈ qs then (m.poison / 2 ^ r % 2 == 1) else storedPoison s line r)
  | [], s => by simp [putSectors]
  | q :: qs, s => by
    obtain ⟨hd, hp⟩ := putSectors_read line m r qs (hbmPutSector s line q ⟨sectorOf m.bytes q, false, m.poison / 2 ^ q % 2 == 1, 0⟩)
    simp only [putSectors, List.foldl_cons] at hd hp ⊢
    rw [hd, hp]
    by_cases hq : r = q
    · subst hq
      simp [hbmSector_put_same, storedPoison_put_same]
    · rw [hbmSector_put_other _ _ _ hq, storedPoison_put_other _ _ _ hq]
      simp [hq]

theorem sectorsHome_put (s : State) (line : Nat) (m : Msg) : SectorsHome s (putSectors s line m (sectorsOf m.mask)) line m := by
  refine ⟨fun q hq => ?_, fun q _ hq => ?_⟩
  · obtain ⟨hd, hp⟩ := putSectors_read line m q (sectorsOf m.mask) s
    rw [hd, hp, if_pos hq, if_pos hq]
    exact ⟨rfl, rfl⟩
  · obtain ⟨hd, hp⟩ := putSectors_read line m q (sectorsOf m.mask) s
    rw [hd, hp, if_neg hq, if_neg hq]
    exact ⟨rfl, rfl⟩

theorem SectorsHome.of_same {s s' t t' : State} {line : Nat} {m : Msg} (h : SectorsHome s t line m) (hs : SameStore s' s)
    (ht : SameStore t t') : SectorsHome s' t' line m := by
  obtain ⟨hin, hout⟩ := h
  refine ⟨fun q hq => ?_, fun q hq hn => ?_⟩
  · rw [ht.hbmSector, ht.storedPoison]
    exact hin q hq
  · rw [ht.hbmSector, ht.storedPoison, ← hs.hbmSector, ← hs.storedPoison]
    exact hout q hq hn

/-! What a step leaves of the messages in flight, the units, and the homes' transactions. -/

structure HomeQuiet (s t : State) : Prop where
  msgs : t.mem.msgs = s.mem.msgs
  rel : t.rel = s.rel
  active : ∀ d, (t.home d).active = (s.home d).active
  late : ∀ d, (t.home d).late = (s.home d).late

theorem HomeQuiet.refl (s : State) : HomeQuiet s s := ⟨rfl, rfl, fun _ => rfl, fun _ => rfl⟩

theorem HomeQuiet.trans {s t u : State} (h : HomeQuiet s t) (h' : HomeQuiet t u) : HomeQuiet s u :=
  ⟨h'.msgs.trans h.msgs, h'.rel.trans h.rel, fun d => (h'.active d).trans (h.active d), fun d => (h'.late d).trans (h.late d)⟩

theorem quiet_bumpDie (s : State) (d ev um n : Nat) : HomeQuiet s (s.bumpDie d ev um n) := ⟨rfl, rfl, fun _ => rfl, fun _ => rfl⟩
theorem quiet_setPoison (s : State) (line q : Nat) (p : Bool) : HomeQuiet s (setPoison s line q p) := ⟨rfl, rfl, fun _ => rfl, fun _ => rfl⟩
theorem quiet_hbmWrite (s : State) (off n v : Nat) : HomeQuiet s (hbmWrite s off n v) := ⟨rfl, rfl, fun _ => rfl, fun _ => rfl⟩

theorem quiet_dirUpd (s : State) (line : Nat) (f : DirEnt → DirEnt) : HomeQuiet s (dirUpd s line f) :=
  ⟨rfl, rfl, fun d => active_dirUpd s line f d, fun d => late_dirUpd s line f d⟩

theorem quiet_dirTidy (s : State) (line : Nat) : HomeQuiet s (dirTidy s line) :=
  ⟨msgs_dirTidy s line, (sameStore_dirTidy s line).rel, fun d => active_dirTidy s line d, fun d => late_dirTidy s line d⟩

/-- A fold of quiet steps is quiet. -/
theorem quiet_foldl {α : Type} {f : State → α → State} (hf : ∀ s x, HomeQuiet s (f s x)) (l : List α) (s : State) :
    HomeQuiet s (l.foldl f s) := by
  induction l generalizing s with
  | nil => exact .refl s
  | cons x r ih => exact (hf s x).trans (ih (f s x))

theorem quiet_putSectors (s : State) (line : Nat) (m : Msg) (qs : List Nat) : HomeQuiet s (putSectors s line m qs) :=
  quiet_foldl (fun s _ => (quiet_hbmWrite s _ _ _).trans (quiet_setPoison _ _ _ _)) qs s

theorem quiet_hbmBytes (s : State) (line : Nat) (bs : Bytes) : HomeQuiet s (hbmBytes s line bs) :=
  quiet_foldl (fun s _ => quiet_hbmWrite s _ _ _) bs s

theorem quiet_dmaStore (s : State) (line : Nat) (bs : Bytes) (poison : Nat) : HomeQuiet s (dmaStore s line bs poison) := by
  refine (quiet_hbmBytes s line bs).trans (.trans (quiet_foldl (fun u q => ?_) (List.range 4) _)
    (.trans (quiet_foldl (fun u q => ?_) (sectorsOf poison) _) (quiet_bumpDie _ _ _ _ _)))
  · split
    · exact quiet_setPoison _ _ _ _
    · exact .refl u
  · exact quiet_setPoison _ _ _ _

/-- The home has sent a request's grant or completion, and its transactions are as before. -/
structure HomeReplied (m : Msg) (s t : State) : Prop where
  msgs : ∃ g, t.mem.msgs = s.mem.msgs ++ [g] ∧ g.who = m.who ∧ g.line = m.line ∧ g.id = m.id
  rel : t.rel = s.rel
  active : ∀ d, (t.home d).active = (s.home d).active
  late : ∀ d, (t.home d).late = (s.home d).late

theorem HomeReplied.after {m : Msg} {s t u : State} (h : HomeReplied m t u) (hq : HomeQuiet s t) : HomeReplied m s u := by
  obtain ⟨⟨g, hg, hm⟩, hrel, ha, hl⟩ := h
  exact ⟨⟨g, by rw [hg, hq.msgs], hm⟩, hrel.trans hq.rel, fun d => (ha d).trans (hq.active d), fun d => (hl d).trans (hq.late d)⟩

theorem HomeReplied.before {m : Msg} {s t u : State} (h : HomeReplied m s t) (hq : HomeQuiet t u) : HomeReplied m s u := by
  obtain ⟨⟨g, hg, hm⟩, hrel, ha, hl⟩ := h
  exact ⟨⟨g, by rw [hq.msgs, hg], hm⟩, hq.rel.trans hrel, fun d => (hq.active d).trans (ha d), fun d => (hq.late d).trans (hl d)⟩

theorem replied_reply (s : State) (m : Msg) (kind : MsgKind) (mask : Nat) (bs : Bytes) (poison : Nat) (val : W64) :
    HomeReplied m s (reply s m kind mask bs poison val) := ⟨⟨_, rfl, rfl, rfl, rfl⟩, rfl, fun _ => rfl, fun _ => rfl⟩

theorem replied_grantX (s : State) (m : Msg) (mask : Nat) : HomeReplied m s (grantX s m mask) :=
  ((replied_reply _ m .dataX mask _ _ 0).after (quiet_dirUpd s m.line _)).before (quiet_bumpDie _ _ _ _ _)

/-- A transaction that has ended is the home's no longer. -/
theorem active_ended (s : State) (m : Msg) : homeBusy ((ended s m).home (homeOf m.line)) m.line = false := by
  rw [home_ended]
  exact homeBusy_of_filter rfl

theorem rest_evicted (s : State) (line w d : Nat) : ∃ dir, (evicted s line w).home d = { s.home d with dir := dir } := by
  rw [evicted, home_updHome]
  by_cases hd : d = homeOf line
  · subst hd
    rw [if_pos rfl]
    split <;> exact ⟨_, rfl⟩
  · rw [if_neg hd]
    exact ⟨_, rfl⟩

theorem quiet_evicted (s : State) (line w : Nat) : HomeQuiet s (evicted s line w) := by
  refine ⟨rfl, rfl, fun d => ?_, fun d => ?_⟩ <;>
  · obtain ⟨dir, h⟩ := rest_evicted s line w d
    rw [h]

/-- Every request is answered when its transaction ends (R286, R287). -/
theorem finishTxn_replied (s : State) (m : Msg) (await : List Nat) {r : ReqKind} (hk : m.kind = .req r) :
    HomeReplied m (ended s m) (finishTxn s ⟨m, await, none⟩) := by
  have hq := quiet_bumpDie (ended s m) (homeOf m.line) 1 0xFFFF 1
  simp only [finishTxn, hk]
  refine HomeReplied.before ?_ (quiet_dirTidy _ _)
  refine HomeReplied.after ?_ hq
  cases r with
  | rdS =>
    dsimp only
    (repeat' split) <;> exact (replied_reply _ m _ _ _ _ 0).after ((quiet_bumpDie _ _ _ _ _).trans (quiet_dirUpd _ _ _))
  | rdX => exact replied_grantX _ m _
  | upg =>
    dsimp only
    split
    · exact (replied_reply _ m _ _ _ _ 0).after (quiet_dirUpd _ _ _)
    · exact replied_grantX _ m _
  | sf =>
    dsimp only
    split
    · exact (replied_reply _ m _ _ _ _ 0).before (quiet_bumpDie _ _ _ _ _)
    · exact replied_grantX _ m _
  | wt | ucWr =>
    dsimp only
    split
    · exact replied_reply _ m _ _ _ _ 0
    · exact (replied_reply _ m _ _ _ _ 0).after ((quiet_hbmBytes _ _ _).trans (quiet_bumpDie _ _ _ _ _))
  | ucRd | dmaRd => exact (replied_reply _ m _ _ _ _ 0).before (quiet_bumpDie _ _ _ _ _)
  | dmaWr => exact (replied_reply _ m _ _ _ _ 0).after (quiet_dmaStore _ _ _ _)
  | amo op =>
    dsimp only
    split
    · exact replied_reply _ m _ _ _ _ 0
    · exact (replied_reply _ m _ _ _ _ _).after
        (((quiet_bumpDie _ _ _ _ _).trans (quiet_bumpDie _ _ _ _ _)).trans (quiet_hbmWrite _ _ _ _))

end Sys2Proof.Machine

end

section
namespace Sys2Proof.Machine

/-! The answers of the clusters: what they leave of the vector, of HBM and of the transaction. -/

/-- A read that a home serves, and an eviction that it ends, write no HBM. -/
theorem sameStore_finishTxn (s : State) (x : HomeTxn)
    (h : x.msg.kind = .req .rdS ∨ x.msg.kind = .req .rdX ∨ x.evict.isSome = true) : SameStore s (finishTxn s x) := by
  obtain ⟨m, await, evict⟩ := x
  cases evict with
  | some w => exact ⟨rfl, rfl, rfl, rfl⟩
  | none =>
    rcases h with hk | hk | hk
    · simp only at hk
      simp only [finishTxn, hk]
      refine SameStore.trans ?_ (sameStore_dirTidy _ _)
      (repeat' split) <;> exact ⟨rfl, rfl, rfl, rfl⟩
    · simp only at hk
      simp only [finishTxn, hk]
      refine SameStore.trans ?_ (sameStore_dirTidy _ _)
      exact ⟨rfl, rfl, rfl, rfl⟩
    · simp at hk

theorem late_ended (s : State) (m : Msg) (d : Nat) : ((ended s m).home d).late = (s.home d).late := by
  simp only [ended, home_updHome]
  split
  next hd =>
    rw [hd]
  next hd =>
    rfl

/-- What a transaction leaves that has ended (R287). -/
structure TxnEnded (s t : State) (x : HomeTxn) : Prop where
  idle : homeBusy (t.home (homeOf x.msg.line)) x.msg.line = false
  rel : t.rel = s.rel
  late : ∀ d, (t.home d).late = (s.home d).late
  reply : ∀ r, x.evict = none → x.msg.kind = .req r →
    ∃ g, t.mem.msgs = s.mem.msgs ++ [g] ∧ g.who = x.msg.who ∧ g.line = x.msg.line ∧ g.id = x.msg.id

theorem homeBusy_congr {h h' : Home} (ha : h'.active = h.active) (line : Nat) : homeBusy h' line = homeBusy h line := by
  simp [homeBusy, ha]

theorem finishTxn_ended (s : State) (x : HomeTxn) : TxnEnded s (finishTxn s x) x := by
  obtain ⟨m, await, evict⟩ := x
  cases evict with
  | some w =>
    have hq := (quiet_evicted (ended s m) m.line w).trans (quiet_bumpDie _ (homeOf m.line) 2 0xFFFF 1)
    exact ⟨(homeBusy_congr (hq.active _) _).trans (active_ended s m), hq.rel, fun d => (hq.late d).trans (late_ended s m d),
      fun r h => nomatch h⟩
  | none =>
    by_cases hreq : ∃ r, m.kind = .req r
    · obtain ⟨r, hk⟩ := hreq
      have hr := finishTxn_replied s m await hk
      exact ⟨(homeBusy_congr (hr.active _) _).trans (active_ended s m), hr.rel, fun d => (hr.late d).trans (late_ended s m d),
        fun _ _ _ => hr.msgs⟩
    · have hfin : finishTxn s ⟨m, await, none⟩ = dirTidy ((ended s m).bumpDie (homeOf m.line) 1 0xFFFF 1) m.line := by
        simp only [finishTxn]
        cases hk : m.kind with
        | req r => exact absurd ⟨r, hk⟩ hreq
        | _ => rfl
      have hq := (quiet_bumpDie (ended s m) (homeOf m.line) 1 0xFFFF 1).trans (quiet_dirTidy _ m.line)
      rw [hfin]
      exact ⟨(homeBusy_congr (hq.active _) _).trans (active_ended s m), hq.rel, fun d => (hq.late d).trans (late_ended s m d),
        fun r _ h => absurd ⟨r, h⟩ hreq⟩

/-- The transaction without one of the clusters that it awaited. -/
def HomeTxn.without (x : HomeTxn) (c : Nat) : HomeTxn := { x with await := x.await.filter (· != c) }

/-- The home's transactions when one goes on without a cluster. -/
def goesOn (s : State) (line c : Nat) (x : HomeTxn) : State :=
  s.updHome (homeOf line) (fun h => { h with active := updFirst (fun u => u.msg.line == line) (fun _ => x.without c) h.active })

theorem answered_on {s : State} {line c : Nat} {x : HomeTxn} (hs : Serving s line x) (hne : x.await.filter (· != c) ≠ []) :
    answered s line c = goesOn s line c x := by
  have hs' : (s.home (homeOf line)).active.find? (fun t => t.msg.line == line) = some x := hs
  simp only [answered, hs', List.isEmpty_eq_false_iff.2 hne, Bool.false_eq_true, if_false]
  rfl

theorem answered_last {s : State} {line c : Nat} {x : HomeTxn} (hs : Serving s line x) (hnil : x.await.filter (· != c) = []) :
    answered s line c = finishTxn (goesOn s line c x) (x.without c) := by
  have hs' : (s.home (homeOf line)).active.find? (fun t => t.msg.line == line) = some x := hs
  simp only [answered, hs', hnil, List.isEmpty_nil, if_true]
  simp only [goesOn, HomeTxn.without, hnil]

theorem Serving.line {s : State} {line : Nat} {x : HomeTxn} (hs : Serving s line x) : x.msg.line = line := by
  simpa using List.find?_some hs

theorem Serving.quiet {s t : State} {line : Nat} {x : HomeTxn} (hs : Serving s line x) (hq : HomeQuiet s t) : Serving t line x := by
  rw [Serving, hq.active]
  exact hs

theorem Serving.awaits {s : State} {line : Nat} {x : HomeTxn} (hs : Serving s line x) {c : Nat} (hc : c ∈ x.await) :
    awaits s line c = true := by
  rw [Machine.awaits, List.any_eq_true]
  exact ⟨x, List.mem_of_find?_eq_some hs, by simp [hs.line, hc]⟩

/-- What the last answer leaves, seen from the state before the answer. -/
theorem answered_ends {s t : State} {line c : Nat} {x : HomeTxn} (hq : HomeQuiet s t) (hs : Serving s line x)
    (hnil : x.await.filter (· != c) = []) : TxnEnds (answered t line c) line s.mem.msgs x := by
  have he := finishTxn_ended (goesOn t line c x) (x.without c)
  have hl : (x.without c).msg.line = line := hs.line
  rw [answered_last (hs.quiet hq) hnil]
  refine ⟨?_, fun r hev hk => ?_⟩
  · have := he.idle
    rwa [hl] at this
  · obtain ⟨g, hg, hwho, hline, hid⟩ := he.reply r hev hk
    exact ⟨g, hg.trans (congrArg (· ++ [g]) hq.msgs), hwho, hline.trans hl, hid⟩

theorem answered_goesOn {s t : State} {line c : Nat} {x : HomeTxn} (hq : HomeQuiet s t) (hs : Serving s line x)
    (hne : x.await.filter (· != c) ≠ []) :
    (answered t line c).mem.msgs = s.mem.msgs ∧ TxnGoesOn s (answered t line c) line c x := by
  rw [answered_on (hs.quiet hq) hne]
  refine ⟨hq.msgs, ?_⟩
  rw [TxnGoesOn, goesOn, home_updHome_same, ← hq.active]
  rfl

theorem sameStore_answered_on {s : State} {line c : Nat} {x : HomeTxn} (hs : Serving s line x) (hne : x.await.filter (· != c) ≠ []) :
    SameStore s (answered s line c) := by
  rw [answered_on hs hne]
  exact ⟨rfl, rfl, rfl, rfl⟩

theorem dir_answered_on {s : State} {line c : Nat} {x : HomeTxn} (hs : Serving s line x) (hne : x.await.filter (· != c) ≠ []) :
    ((answered s line c).home (homeOf line)).dir = (s.home (homeOf line)).dir := by
  rw [answered_on hs hne, goesOn, home_updHome_same]

/-- The vector does not name the cluster where the change of the entry clears its bit. -/
theorem leftVector_dirUpd {s : State} {line c : Nat} {f : DirEnt → DirEnt} (hf : ∀ e, bit (f e).shar c = false) :
    LeftVector s (dirUpd s line f) line c := by
  intro p e he e' he'
  rw [home_dirUpd f he] at he'
  dsimp only at he'
  rw [tfind_tput_same, Option.some.injEq] at he'
  rw [← he']
  exact hf e

theorem LeftVector.of_dir {s t u : State} {line c : Nat} (h : LeftVector s t line c)
    (hd : (u.home (homeOf line)).dir = (t.home (homeOf line)).dir) : LeftVector s u line c := by
  intro p e he e' he'
  rw [hd] at he'
  exact h p e he e' he'

theorem LeftVector.of_home {s s' t : State} {line c : Nat} (h : LeftVector s t line c)
    (hd : s'.home (homeOf line) = s.home (homeOf line)) : LeftVector s' t line c := by
  intro p e he
  rw [hd] at he
  exact h p e he

theorem bit_setBit_false (v : W32) (c : Nat) : bit (setBit v c false) c = false := by
  have hsplit : v.toNat - v.toNat / 2 ^ c % 2 * 2 ^ c = 2 * (v.toNat / 2 ^ c / 2) * 2 ^ c + v.toNat % 2 ^ c := by
    have h := Nat.div_add_mod v.toNat (2 ^ c)
    have h2 := Nat.div_add_mod (v.toNat / 2 ^ c) 2
    have hmul : 2 ^ c * (v.toNat / 2 ^ c) = 2 * (v.toNat / 2 ^ c / 2) * 2 ^ c + v.toNat / 2 ^ c % 2 * 2 ^ c := by
      rw [← Nat.add_mul, h2, Nat.mul_comm]
    omega
  have hdiv : (2 * (v.toNat / 2 ^ c / 2) * 2 ^ c + v.toNat % 2 ^ c) / 2 ^ c = 2 * (v.toNat / 2 ^ c / 2) := by
    rw [Nat.add_comm, Nat.add_mul_div_right _ _ (Nat.two_pow_pos c), Nat.div_eq_of_lt (Nat.mod_lt _ (Nat.two_pow_pos c)), Nat.zero_add]
  have hn : c + 1 - c = 1 := by omega
  simp only [bit, setBit, setFld, BitVec.getLsbD_ofNat, hn, Nat.pow_one, Bool.false_eq_true, if_false, Nat.zero_mod, Nat.zero_mul,
    Nat.add_zero, hsplit, Nat.testBit_eq_decide_div_mod_eq, hdiv, Nat.mul_mod_right]
  simp

theorem LeftVector.tidy {s t : State} {line c : Nat} (h : LeftVector s t line c)
    (hsame : ∀ p e, dirFind (s.home (homeOf line)) line = some (p, e) → ∃ e', dirFind (t.home (homeOf line)) line = some (p, e')) :
    LeftVector s (dirTidy t line) line c := by
  simp only [dirTidy]
  split
  case h_2 => exact h
  case h_1 q e hq =>
    split
    · intro p e' hp e'' he''
      obtain ⟨e₁, h₁⟩ := hsame p e' hp
      obtain ⟨rfl, -⟩ : q = p ∧ e = e₁ := by simpa [hq] using h₁
      simp [dirDel, hq, tfind_tdel_same] at he''
    · exact h

/-- The sender of an answer has left the vector. -/
theorem leftVector_leaveLine (s : State) (line : Nat) (c : Nat) : LeftVector s (leaveLine s line c) line c := by
  refine LeftVector.tidy (leftVector_dirUpd (fun e => bit_setBit_false e.shar c)) (fun p e he => ?_)
  rw [home_dirUpd _ he]
  obtain ⟨-, hline⟩ := dirFind_some he
  exact ⟨_, dirFind_put_found (e' := { e with shar := setBit e.shar c false }) he hline rfl⟩

end Sys2Proof.Machine

end

section
namespace Sys2Proof.Machine

/-! WB, EVC, INV_ACK, FWD_DATA, NOHOLD and HOME_TIMEOUT. -/

@[simp] theorem home_putSectors (line : Nat) (m : Msg) (d : Nat) : ∀ (qs : List Nat) (s : State), (putSectors s line m qs).home d = s.home d
  | [], _ => rfl
  | _ :: qs, _ => home_putSectors line m d qs _

theorem quiet_leaveLine (s : State) (line c : Nat) : HomeQuiet s (leaveLine s line c) := (quiet_dirUpd s line _).trans (quiet_dirTidy _ line)

theorem sameStore_leaveLine (s : State) (line c : Nat) : SameStore s (leaveLine s line c) :=
  (sameStore_dirUpd s line _).trans (sameStore_dirTidy _ line)

theorem sameStore_incoming (s : State) (m : Msg) (rest : List Msg) (b : Bool) : SameStore s (incoming s m rest b) := by
  constructor <;> simp

/-- What a WB writes to HBM where its die is up (R287, R465). -/
def wbStored (s : State) (line : Nat) (m : Msg) : State := if dieDown s (homeOf line) then s else putSectors s line m (sectorsOf m.mask)

theorem quiet_wbStored (s : State) (line : Nat) (m : Msg) : HomeQuiet s (wbStored s line m) := by
  simp only [wbStored]
  split
  · exact .refl s
  · exact quiet_putSectors _ _ _ _

theorem home_wbStored (s : State) (line : Nat) (m : Msg) (d : Nat) : (wbStored s line m).home d = s.home d := by
  simp only [wbStored]
  (repeat' split) <;> simp

section
variable {s : State} {c : Fin 32} {line : BitVec 31} {m : Msg} {rest : List Msg}

theorem exec_wb_arrives (h : Arrives s (.l2 c) line.toNat true m rest) (hk : m.kind = .wb) :
    exec (.wb c line) s = .next ((leaveLine (wbStored (incoming s m rest true) line.toNat m) line.toNat c.val).bumpDie
      (homeOf line.toNat) 4 (stackBit line.toNat) m.bytes.length) := by
  rw [show exec (.wb c line) s = execWb c line s from rfl, execWb, arrive_of_arrives h (by simp [hk])]
  simp only [h.line_eq]
  rfl

theorem exec_evc_arrives (h : Arrives s (.l2 c) line.toNat true m rest) (hk : m.kind = .evc) :
    exec (.evc c line) s = .next (leaveLine (incoming s m rest true) line.toNat c.val) := by
  rw [show exec (.evc c line) s = execEvc c line s from rfl, execEvc, arrive_of_arrives h (by simp [hk])]
  simp only [h.line_eq]

/-- The release of a line reaches its home (R287): EVC and WB. -/
theorem leaves (s₁ : State) (line c : Nat) (hd : (s₁.home (homeOf line)) = s.home (homeOf line)) :
    LeftVector s (leaveLine s₁ line c) line c := (leftVector_leaveLine s₁ line c).of_home hd.symm

theorem lateAnswer_none (h : (line.toNat, c.val) ∉ (s.home (homeOf line.toNat)).late) :
    lateAnswer (incoming s m rest true) line.toNat c.val = none := by
  simpa [lateAnswer] using h

/-- The home without a late answer that has come (R294). -/
def lateCame (s : State) (line c : Nat) : State := s.updHome (homeOf line) (fun h => { h with late := h.late.erase (line, c) })

theorem lateAnswer_some (h : (line.toNat, c.val) ∈ (s.home (homeOf line.toNat)).late) :
    lateAnswer (incoming s m rest true) line.toNat c.val = some (lateCame (incoming s m rest true) line.toNat c.val) := by
  have hc : ((incoming s m rest true).home (homeOf line.toNat)).late.contains (line.toNat, c.val) = true := by simpa using h
  simp only [lateAnswer, hc, if_true]
  rfl

/-- The vector's entry as the answers of the three kinds change it (R287). -/
def invAcked (s : State) (line c : Nat) : State := dirUpd s line (fun e => { e with shar := setBit e.shar c false })

def fwdStored (s : State) (line : Nat) (m : Msg) : State :=
  (putSectors s line m (sectorsOf m.mask)).bumpDie (homeOf line) 4 (stackBit line) m.bytes.length

def fwdGiven (s : State) (line : Nat) (m : Msg) (c : Nat) : State :=
  dirUpd (fwdStored s line m) line (fun e => { e with
    shar := if (probeKeeps (fwdStored s line m) line).1 then e.shar else setBit e.shar c false
    x := e.x && (probeKeeps (fwdStored s line m) line).2 })

theorem exec_invAck_arrives (h : Arrives s (.l2 c) line.toNat true m rest) (hk : m.kind = .invAck)
    (hlate : (line.toNat, c.val) ∉ (s.home (homeOf line.toNat)).late) :
    exec (.invAck c line) s = .next (answered (invAcked (incoming s m rest true) line.toNat c.val) line.toNat c.val) := by
  rw [show exec (.invAck c line) s = execInvAck c line s from rfl, execInvAck, arrive_of_arrives h (by simp [hk])]
  simp only [h.line_eq, lateAnswer_none hlate]
  rfl

theorem exec_nohold_arrives (h : Arrives s (.l2 c) line.toNat true m rest) (hk : m.kind = .nohold)
    (hlate : (line.toNat, c.val) ∉ (s.home (homeOf line.toNat)).late) :
    exec (.nohold c line) s = .next (answered (incoming s m rest true) line.toNat c.val) := by
  rw [show exec (.nohold c line) s = execNohold c line s from rfl, execNohold, arrive_of_arrives h (by simp [hk])]
  simp only [h.line_eq, lateAnswer_none hlate]

theorem Serving.incoming {x : HomeTxn} {l : Nat} (hs : Serving s l x) (b : Bool) : Serving (incoming s m rest b) l x := by
  simpa [Serving] using hs

theorem exec_fwdData_arrives {x : HomeTxn} (h : Arrives s (.l2 c) line.toNat true m rest) (hk : m.kind = .fwdData)
    (hlate : (line.toNat, c.val) ∉ (s.home (homeOf line.toNat)).late) (hs : Serving s line.toNat x) (hc : c.val ∈ x.await) :
    exec (.fwdData c line) s = .next (answered (fwdGiven (incoming s m rest true) line.toNat m c.val) line.toNat c.val) := by
  rw [show exec (.fwdData c line) s = execFwdData c line s from rfl, execFwdData, arrive_of_arrives h (by simp [hk])]
  simp only [h.line_eq, lateAnswer_none hlate, (hs.incoming true).awaits hc, Bool.not_true, Bool.false_eq_true, if_false]
  rfl

theorem quiet_fwdStored (u : State) (l : Nat) : HomeQuiet u (fwdStored u l m) :=
  (quiet_putSectors u l m _).trans (quiet_bumpDie _ _ _ _ _)

theorem quiet_fwdGiven (u : State) (l j : Nat) : HomeQuiet u (fwdGiven u l m j) := (quiet_fwdStored u l).trans (quiet_dirUpd _ _ _)

theorem sectorsHome_fwdGiven (u : State) (l j : Nat) : SectorsHome u (fwdGiven u l m j) l m :=
  (sectorsHome_put u l m).of_same (.refl u) ((sameStore_bumpDie _ _ _ _ _).trans (sameStore_dirUpd _ _ _))

/-- A message that a late answer brings is discarded. -/
theorem exec_late {e : (Fin 32 → BitVec 31 → Instr) × MsgKind}
    (he : e ∈ [(Instr.invAck, MsgKind.invAck), (Instr.fwdData, MsgKind.fwdData), (Instr.nohold, MsgKind.nohold)])
    (h : Arrives s (.l2 c) line.toNat true m rest) (hk : m.kind = e.2) (hlate : (line.toNat, c.val) ∈ (s.home (homeOf line.toNat)).late) :
    exec (e.1 c line) s = .next (lateCame (incoming s m rest true) line.toNat c.val) := by
  obtain _ | ⟨_, he⟩ := he
  · rw [show exec (.invAck c line) s = execInvAck c line s from rfl, execInvAck, arrive_of_arrives h (by simp [hk])]
    simp only [h.line_eq, lateAnswer_some hlate]
  obtain _ | ⟨_, he⟩ := he
  · rw [show exec (.fwdData c line) s = execFwdData c line s from rfl, execFwdData, arrive_of_arrives h (by simp [hk])]
    simp only [h.line_eq, lateAnswer_some hlate]
  obtain _ | ⟨_, he⟩ := he
  · rw [show exec (.nohold c line) s = execNohold c line s from rfl, execNohold, arrive_of_arrives h (by simp [hk])]
    simp only [h.line_eq, lateAnswer_some hlate]
  nomatch he

/-- The home after a wait that has passed without an answer (R294), before the transaction goes on. -/
def timedOut (s : State) (l c : Nat) (comes : Bool) : State :=
  let s := (List.range 4).foldl (fun s q => setPoison s l q true) s
  let s := invAcked s l c
  let s := if comes then s.updHome (homeOf l) (fun h => { h with late := h.late ++ [(l, c)] }) else s
  { s with rel := { s.rel with timeouts := s.rel.timeouts ++ [⟨l, homeOf l, c⟩] } }

theorem exec_homeTimeout_awaits {x : HomeTxn} (hs : Serving s line.toNat x) (hc : c.val ∈ x.await) :
    exec (.homeTimeout line c) s = .next (faultDetect
      ((answered (timedOut s line.toNat c.val (answerComes s line.toNat c)) line.toNat c.val).bumpDie (homeOf line.toNat) 5 0xFFFF 1)
      .cluster c.val 9) := by
  rw [show exec (.homeTimeout line c) s = execHomeTimeout line c s from rfl, execHomeTimeout, homeTimeout]
  simp only [hs.awaits hc, if_true]
  rfl

end

/-- Poisoned sectors (R294). -/
theorem storedPoison_timedOut (s : State) (l c : Nat) (comes : Bool) {q : Nat} (hq : q < 4) :
    storedPoison (timedOut s l c comes) l q = true := by
  have hfold : ∀ (qs : List Nat) (u : State), q ∈ qs ∨ storedPoison u l q = true →
      storedPoison (qs.foldl (fun s q => setPoison s l q true) u) l q = true := by
    intro qs
    induction qs with
    | nil => exact fun u h => h.resolve_left (by simp)
    | cons r qs ih =>
      refine fun u h => ih _ ?_
      by_cases hr : q = r
      · exact .inr (by rw [hr, storedPoison_set_same])
      · rw [storedPoison_set_other _ _ _ hr]
        exact h.imp_left (fun h => (List.mem_cons.1 h).resolve_left hr)
  have hp := hfold (List.range 4) s (.inl (by simpa using hq))
  simp only [timedOut]
  (repeat' split) <;> exact hp

theorem timedOut_rest (s : State) (l c : Nat) (comes : Bool) : (timedOut s l c comes).mem.msgs = s.mem.msgs ∧
    (timedOut s l c comes).rel.timeouts = s.rel.timeouts ++ [⟨l, homeOf l, c⟩] ∧
    ∀ d, ((timedOut s l c comes).home d).active = (s.home d).active := by
  simp only [timedOut]
  split
  · refine ⟨rfl, rfl, fun d => ?_⟩
    exact (show _ = ((invAcked s l c).updHome (homeOf l) (fun h => { h with late := h.late ++ [(l, c)] }) |>.home d).active from rfl).trans
      (by rw [home_updHome]
          split
          next hd =>
            subst hd
            exact active_dirUpd s l _ _
          next hd =>
            exact active_dirUpd s l _ _)
  · exact ⟨rfl, rfl, fun d => active_dirUpd s l _ d⟩

end Sys2Proof.Machine

end

section
namespace Sys2Proof.Machine

/-! The four kinds of answers of O36. -/

theorem home_foldl_setPoison (l d : Nat) : ∀ (qs : List Nat) (s : State), (qs.foldl (fun s q => setPoison s l q true) s).home d = s.home d
  | [], _ => rfl
  | _ :: qs, s => home_foldl_setPoison l d qs (setPoison s l _ true)

theorem leftVector_timedOut (s : State) (l c : Nat) (comes : Bool) : LeftVector s (timedOut s l c comes) l c := by
  have h := leftVector_dirUpd (s := (List.range 4).foldl (fun s q => setPoison s l q true) s) (line := l)
    (f := fun e => { e with shar := setBit e.shar c false }) (fun e => bit_setBit_false e.shar c)
  refine (h.of_home (home_foldl_setPoison l _ _ s).symm).of_dir ?_
  simp only [timedOut]
  split
  · rw [show ∀ (u : State) (r : Rel), ({ u with rel := r } : State).home (homeOf l) = u.home (homeOf l) from fun _ _ => rfl,
      home_updHome_same]
    rfl
  · rfl

theorem late_answered {s : State} {line c : Nat} {x : HomeTxn} (hs : Serving s line x) (d : Nat) :
    ((answered s line c).home d).late = (s.home d).late ∧ (answered s line c).rel = s.rel := by
  have hgo : ((goesOn s line c x).home d).late = (s.home d).late := by
    rw [goesOn, home_updHome]
    split
    next hd =>
      rw [hd]
    next hd =>
      rfl
  by_cases hne : x.await.filter (· != c) = []
  · have he := finishTxn_ended (goesOn s line c x) (x.without c)
    rw [answered_last hs hne]
    exact ⟨(he.late d).trans hgo, he.rel⟩
  · rw [answered_on hs hne]
    exact ⟨hgo, rfl⟩

theorem wbCompletes {s : State} {c : Fin 32} {line : BitVec 31} {m : Msg} {rest : List Msg}
    (h : Arrives s (.l2 c) line.toNat true m rest) (hk : m.kind = .wb) :
    ∃ t, exec (.wb c line) s = .next t ∧ t.mem.msgs = rest ∧ LeftVector s t line.toNat c.val ∧
      (dieDown s (homeOf line.toNat) = false → SectorsHome s t line.toNat m) := by
  have hhome : ∀ d, (wbStored (incoming s m rest true) line.toNat m).home d = s.home d := fun d => by simp [home_wbStored]
  refine ⟨_, exec_wb_arrives h hk, ?_, (leaves _ line.toNat c.val (hhome _)).of_dir rfl, fun hup => ?_⟩
  · have hq := ((quiet_wbStored (incoming s m rest true) line.toNat m).trans (quiet_leaveLine _ line.toNat c.val)).trans
      (quiet_bumpDie _ (homeOf line.toNat) 4 (stackBit line.toNat) m.bytes.length)
    rw [hq.msgs]
    simp
  · have hstored : wbStored (incoming s m rest true) line.toNat m =
        putSectors (incoming s m rest true) line.toNat m (sectorsOf m.mask) := by
      simp only [wbStored, dieDown_incoming, hup, Bool.false_eq_true, if_false]
    rw [hstored]
    exact (sectorsHome_put _ _ _).of_same (sameStore_incoming s m rest true)
      ((sameStore_leaveLine _ _ _).trans (sameStore_bumpDie _ _ _ _ _))

theorem evcCompletes {s : State} {c : Fin 32} {line : BitVec 31} {m : Msg} {rest : List Msg}
    (h : Arrives s (.l2 c) line.toNat true m rest) (hk : m.kind = .evc) :
    ∃ t, exec (.evc c line) s = .next t ∧ t.mem.msgs = rest ∧ LeftVector s t line.toNat c.val := by
  refine ⟨_, exec_evc_arrives h hk, ?_, leaves _ line.toNat c.val (home_incoming _ _ _ _ _)⟩
  rw [(quiet_leaveLine _ _ _).msgs]
  simp

/-- What an awaited answer brings, whose state before the home counts it is `u` (R287). -/
theorem answerCompletes {s u : State} {line c : Nat} {rest : List Msg} {m : Msg} {x : HomeTxn} (hq : HomeQuiet (incoming s m rest true) u)
    (hs : Serving s line x) :
    (x.await.filter (· != c) ≠ [] → (answered u line c).mem.msgs = rest ∧ TxnGoesOn s (answered u line c) line c x) ∧
      (x.await.filter (· != c) = [] → TxnEnds (answered u line c) line rest x) := by
  refine ⟨fun hne => ?_, fun hnil => ?_⟩
  · obtain ⟨hm, hg⟩ := answered_goesOn hq (hs.incoming true) hne
    rw [mem_incoming] at hm
    exact ⟨hm, by simpa [TxnGoesOn] using hg⟩
  · have := answered_ends hq (hs.incoming true) hnil
    rwa [mem_incoming] at this

theorem awaitedAnswerCompletes {e : (Fin 32 → BitVec 31 → Instr) × MsgKind}
    (he : e ∈ [(Instr.invAck, MsgKind.invAck), (Instr.fwdData, MsgKind.fwdData), (Instr.nohold, MsgKind.nohold)])
    {s : State} {c : Fin 32} {line : BitVec 31} {m : Msg} {rest : List Msg} {x : HomeTxn}
    (h : Arrives s (.l2 c) line.toNat true m rest) (hk : m.kind = e.2) (hlate : (line.toNat, c.val) ∉ (s.home (homeOf line.toNat)).late)
    (hs : Serving s line.toNat x) (hc : c.val ∈ x.await) :
    ∃ t, exec (e.1 c line) s = .next t ∧
      (x.await.filter (· != c.val) ≠ [] → t.mem.msgs = rest ∧ TxnGoesOn s t line.toNat c.val x ∧
        (m.kind = .invAck → LeftVector s t line.toNat c.val) ∧ (m.kind = .fwdData → SectorsHome s t line.toNat m)) ∧
      (x.await.filter (· != c.val) = [] → TxnEnds t line.toNat rest x ∧
        (m.kind = .fwdData → x.msg.kind = .req .rdS ∨ x.msg.kind = .req .rdX ∨ x.evict.isSome = true → SectorsHome s t line.toNat m)) := by
  have hs₀ := hs.incoming (m := m) (rest := rest) true
  obtain _ | ⟨_, he⟩ := he
  · have hq : HomeQuiet (incoming s m rest true) (invAcked (incoming s m rest true) line.toNat c.val) := quiet_dirUpd _ _ _
    obtain ⟨hon, hend⟩ := answerCompletes (c := c.val) hq hs
    refine ⟨_, exec_invAck_arrives h hk hlate, fun hne => ⟨(hon hne).1, (hon hne).2, fun _ => ?_, fun hf => ?_⟩,
      fun hnil => ⟨hend hnil, fun hf => ?_⟩⟩
    · have hl := leftVector_dirUpd (s := incoming s m rest true) (line := line.toNat) (c := c.val)
        (f := fun e => { e with shar := setBit e.shar c.val false }) (fun e => bit_setBit_false e.shar _)
      exact (hl.of_home (home_incoming s m rest true _).symm).of_dir (dir_answered_on (hs₀.quiet hq) hne)
    · exact nomatch hk.symm.trans hf
    · exact nomatch hk.symm.trans hf
  obtain _ | ⟨_, he⟩ := he
  · have hq := quiet_fwdGiven (m := m) (incoming s m rest true) line.toNat c.val
    have hhome := (sectorsHome_fwdGiven (m := m) (incoming s m rest true) line.toNat c.val).of_same (sameStore_incoming s m rest true) (.refl _)
    obtain ⟨hon, hend⟩ := answerCompletes (c := c.val) hq hs
    refine ⟨_, exec_fwdData_arrives h hk hlate hs hc, fun hne => ⟨(hon hne).1, (hon hne).2, fun hf => ?_, fun _ => ?_⟩,
      fun hnil => ⟨hend hnil, fun _ hread => ?_⟩⟩
    · exact nomatch hk.symm.trans hf
    · exact hhome.of_same (.refl s) (sameStore_answered_on (hs₀.quiet hq) hne)
    · rw [answered_last (hs₀.quiet hq) hnil]
      refine hhome.of_same (.refl s) (SameStore.trans ?_ (sameStore_finishTxn _ _ hread))
      exact ⟨rfl, rfl, rfl, rfl⟩
  obtain _ | ⟨_, he⟩ := he
  · obtain ⟨hon, hend⟩ := answerCompletes (c := c.val) (HomeQuiet.refl (incoming s m rest true)) hs
    refine ⟨_, exec_nohold_arrives h hk hlate, fun hne => ⟨(hon hne).1, (hon hne).2, fun hf => ?_, fun hf => ?_⟩,
      fun hnil => ⟨hend hnil, fun hf => ?_⟩⟩ <;> exact nomatch hk.symm.trans hf
  nomatch he

theorem homeTimeoutCompletes {s : State} {c : Fin 32} {line : BitVec 31} {x : HomeTxn} (hs : Serving s line.toNat x) (hc : c.val ∈ x.await) :
    ∃ u, exec (.homeTimeout line c) s = .next (faultDetect u .cluster c.val 9) ∧
      u.rel.timeouts = s.rel.timeouts ++ [⟨line.toNat, homeOf line.toNat, c.val⟩] ∧
      (x.await.filter (· != c.val) ≠ [] → u.mem.msgs = s.mem.msgs ∧ TxnGoesOn s u line.toNat c.val x ∧ LeftVector s u line.toNat c.val ∧
        (∀ q < 4, storedPoison u line.toNat q = true)) ∧
      (x.await.filter (· != c.val) = [] → TxnEnds u line.toNat s.mem.msgs x) ∧
      (answerComes s line.toNat c = true → (line.toNat, c.val) ∈ (u.home (homeOf line.toNat)).late) := by
  refine ⟨_, exec_homeTimeout_awaits hs hc, ?_⟩
  obtain ⟨hmsgs, hrel, hactive⟩ := timedOut_rest s line.toNat c.val (answerComes s line.toNat c)
  have hleft := leftVector_timedOut s line.toNat c.val (answerComes s line.toNat c)
  have hpoison := fun q (hq : q < 4) => storedPoison_timedOut s line.toNat c.val (answerComes s line.toNat c) hq
  have hlate : answerComes s line.toNat c = true →
      (line.toNat, c.val) ∈ ((timedOut s line.toNat c.val (answerComes s line.toNat c)).home (homeOf line.toNat)).late := by
    intro hcomes
    simp only [timedOut, hcomes, if_true]
    rw [show ∀ (u : State) (r : Rel), ({ u with rel := r } : State).home (homeOf line.toNat) = u.home (homeOf line.toNat) from
      fun _ _ => rfl, home_updHome_same]
    simp
  generalize timedOut s line.toNat c.val (answerComes s line.toNat c) = t at *
  have hst : Serving t line.toNat x := by
    rw [Serving, hactive]
    exact hs
  have hq := quiet_bumpDie (answered t line.toNat c.val) (homeOf line.toNat) 5 0xFFFF 1
  obtain ⟨hkeep, hrel'⟩ := late_answered (c := c.val) hst (homeOf line.toNat)
  refine ⟨?_, fun hne => ?_, fun hnil => ?_, fun hcomes => ?_⟩
  · rw [hq.rel, hrel', hrel]
  · obtain ⟨hm, hg⟩ := answered_goesOn (HomeQuiet.refl t) hst hne
    refine ⟨hm.trans hmsgs, ?_, hleft.of_dir (dir_answered_on hst hne), fun q hq4 => ?_⟩
    · rw [TxnGoesOn, ← hactive]
      exact hg
    · rw [((sameStore_answered_on hst hne).trans (sameStore_bumpDie _ _ _ _ _)).storedPoison]
      exact hpoison q hq4
  · have he := answered_ends (HomeQuiet.refl t) hst hnil
    rw [hmsgs] at he
    exact he
  · rw [hq.late, hkeep]
    exact hlate hcomes

end Sys2Proof.Machine

open Sys2Proof Sys2Proof.Machine

/-- Settles O36: releases, awaited answers, late answers and answers that do not come. -/
theorem answersReachTheirHome : Obligations.AnswersReachTheirHome := by
  refine ⟨?_, ?_, ?_, ?_⟩
  · intro e he c line s m rest h hk
    obtain _ | ⟨_, he⟩ := he
    · obtain ⟨t, ht, hm, hl, hsec⟩ := wbCompletes h hk
      exact ⟨t, ht, hm, hl, fun _ => hsec⟩
    obtain _ | ⟨_, he⟩ := he
    · obtain ⟨t, ht, hm, hl⟩ := evcCompletes h hk
      exact ⟨t, ht, hm, hl, fun hw => nomatch hk.symm.trans hw⟩
    nomatch he
  · intro e he c line s m rest x h hk hlate hs hc
    exact awaitedAnswerCompletes he h hk hlate hs hc
  · intro e he c line s m rest h hk hlate
    refine ⟨_, exec_late he h hk hlate, ?_⟩
    simp [lateCame]
  · intro c line s x hs hc
    exact homeTimeoutCompletes hs hc

end

section
namespace Sys2Proof.Machine

/-! Grants, uncached answers and probes at a cluster: what a received message leaves of the cores, and each command as its arrival. -/

@[simp] theorem core_received (s : State) (m : Msg) (rest : List Msg) (k : Nat) : (received s m rest).core k = s.core k := by
  obtain ⟨g, h⟩ := countMsg_frame { s with mem := { s.mem with msgs := rest } } m false
  rw [received, h]
  rfl

@[simp] theorem cluster_received (s : State) (m : Msg) (rest : List Msg) (k : Nat) : (received s m rest).cluster k = s.cluster k := by
  obtain ⟨g, h⟩ := countMsg_frame { s with mem := { s.mem with msgs := rest } } m false
  rw [received, h]
  rfl

@[simp] theorem msgs_received (s : State) (m : Msg) (rest : List Msg) : (received s m rest).mem.msgs = rest := by
  rw [← incoming_false, mem_incoming]

theorem accOf_congr {s t : State} (h : ∀ k, (t.core k).acc = (s.core k).acc) (ks : List Nat) (id : Nat) : accOf t ks id = accOf s ks id := by
  simp only [accOf, h]

theorem core_updL1 (s : State) (k j : Nat) (f : Cache → Cache) :
    ((s.updL1 k f).core j) = if j = k then { s.core k with l1 := f (s.core k).l1 } else s.core j := by
  simp [State.updL1]

@[simp] theorem acc_updL1 (s : State) (k j : Nat) (f : Cache → Cache) : ((s.updL1 k f).core j).acc = (s.core j).acc := by
  rw [core_updL1]
  split
  next h =>
    rw [h]
  next h =>
    rfl

@[simp] theorem core_updL2 (s : State) (c k : Nat) (f : Cache → Cache) : (s.updL2 c f).core k = s.core k := rfl

/-- The new bytes of a write reach copies of the caches, no access of a core (R291). -/
theorem acc_updateCopies (s : State) (c key : Nat) (bs : Bytes) (k : Nat) :
    ((updateCopies s c key bs).core k).acc = (s.core k).acc := by
  have hfold : ∀ (put : CLine → CLine) (ks : List Nat) (u : State),
      ((ks.foldl (fun s j => usedL1 (updL1Line s j key put) j key) u).core k).acc = (u.core k).acc := by
    intro put ks
    induction ks with
    | nil => exact fun _ => rfl
    | cons j ks ih =>
      intro u
      rw [List.foldl_cons, ih, usedL1, acc_updL1, updL1Line, acc_updL1]
  simp only [updateCopies, hfold]
  rfl

section
variable {s : State} {line : BitVec 31} {m : Msg} {rest : List Msg}

theorem arrive_received {who : Agent} {l : Nat} {kind : MsgKind} (h : Arrives s who l false m rest) (hk : m.kind = kind) :
    arrive s who l false (· == kind) = some (m, received s m rest) := by
  rw [arrive_of_arrives h (by simp [hk]), incoming_false]

theorem arrive_missing {who : Agent} {l : Nat} {kind : MsgKind}
    (h : ∀ m rest, Arrives s who l false m rest → m.kind ≠ kind) : arrive s who l false (· == kind) = none :=
  arrive_none (fun m rest hm => by simpa using h m rest hm)

/-- A grant with data reaches its L2 (R278, R286). -/
theorem grantArrives_cases {c : Fin 32} {kind : MsgKind} (st : LineState) (h : Arrives s (.l2 c) line.toNat false m rest) (hk : m.kind = kind) :
    (grantStands (received s m rest) c m.line = false →
      grantArrives s c line kind (some st) = .next (retryLine (closeOpen (received s m rest) c.val m.line) c.val m.line)) ∧
    (grantStands (received s m rest) c m.line = true → roomL2 s c.val m.line = false → grantArrives s c line kind (some st) = .next s) ∧
    (grantStands (received s m rest) c m.line = true → roomL2 s c.val m.line = true → grantArrives s c line kind (some st) =
      .next (retryLine (installGrant (received s m rest) c.val m.line (some st) m.mask m.bytes m.poison) c.val m.line)) := by
  have harr := arrive_received h hk
  refine ⟨fun hg => ?_, fun hg hr => ?_, fun hg hr => ?_⟩
  · simp only [grantArrives, harr, hg, Bool.not_false, if_true]
  · simp only [grantArrives, harr, hg, hr, Bool.not_true, Bool.false_eq_true, if_false]
  · simp only [grantArrives, harr, hg, hr, Bool.not_true, Bool.false_eq_true, if_false, if_true]

theorem grantArrives_missing {c : Fin 32} {kind : MsgKind} (st : Option LineState)
    (h : ∀ m rest, Arrives s (.l2 c) line.toNat false m rest → m.kind ≠ kind) : grantArrives s c line kind st = .next s := by
  simp only [grantArrives, arrive_missing h]

theorem execGnt_arrives {c : Fin 32} (h : Arrives s (.l2 c) line.toNat false m rest) (hk : m.kind = .gnt) :
    execGnt c line s = .next (retryLine (updL2Line (closeOpen (received s m rest) c.val m.line) c.val m.line (fun l =>
      { l with st := if l.st = LineState.s then .e else l.st })) c.val m.line) := by
  simp only [execGnt, arrive_received h hk]

theorem execDataU_l2 {c : Fin 32} (h : Arrives s (.l2 c) line.toNat false m rest) (hk : m.kind = .dataU) :
    (∀ k a, accOf s (coresOf c.val) m.id = some (k, a) →
      execDataU (.l2 c) line s = .next (retryLine (accessBack (received s m rest) k a.id m.bytes m.poison) c.val m.line)) ∧
    (accOf s (coresOf c.val) m.id = none → execDataU (.l2 c) line s = .next (askWaiting (received s m rest) c.val)) := by
  have hacc := accOf_congr (s := s) (t := received s m rest) (fun k => by simp) (coresOf c.val) m.id
  refine ⟨fun k a ha => ?_, fun ha => ?_⟩ <;> simp only [execDataU, arrive_received h hk, hacc, ha]

/-- The bytes and the poison bit of a load's line reach its register (R291). -/
theorem accessBack_load {k : Nat} {a : Access} (bs : Bytes) (p : Nat) (hacc : accOf s [k] a.id = some (k, a)) (ha : a ∈ (s.core k).acc)
    (hserved : served s k a = [a]) (hload : a.isStore = false) :
    accessBack s k a.id bs p =
      deliver s k a (leNat ((List.range a.size).map (fun i => byteIn bs (64 * a.sec + a.off + i)))) (p / 2 ^ a.sec % 2 == 1) := by
  have hany : (s.core k).acc.any (fun x => x.id == a.id) = true := List.any_eq_true.2 ⟨a, ha, by simp⟩
  simp only [accessBack, hacc, hserved, List.foldl_cons, List.foldl_nil, hany, hload, Bool.false_and, Bool.false_eq_true, if_false, if_true]
  rfl

theorem execAck_l2 {c : Fin 32} {u : State} (h : Arrives s (.l2 c) line.toNat false m rest) (hk : m.kind = .ack)
    (hu : u = (if m.poison = 0 then updateCopies (received s m rest) c.val m.line m.bytes else received s m rest)) :
    (∀ k a, accOf s (coresOf c.val) m.id = some (k, a) → execAck (.l2 c) line s = .next (retryLine
      (if a.isAmo then deliver u k a m.val.toNat (m.poison != 0) else accessBack u k a.id [] m.poison) c.val m.line)) ∧
    (accOf s (coresOf c.val) m.id = none → execAck (.l2 c) line s = .next (retryLine u c.val m.line)) := by
  have hacc : accOf u (coresOf c.val) m.id = accOf s (coresOf c.val) m.id := by
    refine accOf_congr (fun k => ?_) _ _
    rw [hu]
    split
    · rw [acc_updateCopies, core_received]
    · rw [core_received]
  refine ⟨fun k a ha => ?_, fun ha => ?_⟩
  · simp only [execAck, arrive_received h hk, ← hu, hacc, ha]
  · simp only [execAck, arrive_received h hk, ← hu, hacc, ha]

end

end Sys2Proof.Machine

open Sys2Proof Sys2Proof.Machine

/-- Settles O37: every grant and every uncached answer is what its arrival does. -/
theorem grantsReachTheirCluster : Obligations.GrantsReachTheirCluster := by
  refine ⟨?_, ?_, ?_, ?_, ?_, ?_, ?_, ?_, ?_⟩
  · intro e he c line s m rest h hk
    obtain _ | ⟨_, he⟩ := he
    · exact grantArrives_cases .s h hk
    obtain _ | ⟨_, he⟩ := he
    · exact grantArrives_cases .e h hk
    obtain _ | ⟨_, he⟩ := he
    · exact grantArrives_cases .e h hk
    nomatch he
  · exact fun c line s m rest h hk => execGnt_arrives h hk
  · exact fun c line s m rest h hk => execDataU_l2 h hk
  · exact fun s k a bs p hacc ha hserved hload => accessBack_load bs p hacc ha hserved hload
  · exact fun c line s u m rest h hk hu => execAck_l2 h hk hu
  · refine fun e line s m rest h => ⟨fun hk => ?_, fun hk => ?_⟩
    · rw [show exec (.dataU (.dma e) line) s = execDataU (.dma e) line s from rfl]
      simp only [execDataU, arrive_received h hk]
    · rw [show exec (.ack (.dma e) line) s = execAck (.dma e) line s from rfl]
      simp only [execAck, arrive_received h hk]
  · refine fun line s m rest h => ⟨fun hk => ?_, fun hk => ?_⟩
    · rw [show exec (.dataU .hub line) s = execDataU .hub line s from rfl]
      simp only [execDataU, arrive_received h hk]
    · rw [show exec (.ack .hub line) s = execAck .hub line s from rfl]
      simp only [execAck, arrive_received h hk]
  · intro e he c line s h
    obtain _ | ⟨_, he⟩ := he
    · exact grantArrives_missing (some .s) h
    obtain _ | ⟨_, he⟩ := he
    · exact grantArrives_missing (some .e) h
    obtain _ | ⟨_, he⟩ := he
    · exact grantArrives_missing (some .e) h
    obtain _ | ⟨_, he⟩ := he
    · rw [show exec (.gnt c line) s = execGnt c line s from rfl]
      simp only [execGnt, arrive_missing h]
    nomatch he
  · intro e he w line s h
    obtain _ | ⟨_, he⟩ := he
    · rw [show exec (.dataU w line) s = execDataU w line s from rfl]
      simp only [execDataU, arrive_missing h]
    obtain _ | ⟨_, he⟩ := he
    · rw [show exec (.ack w line) s = execAck w line s from rfl]
      simp only [execAck, arrive_missing h]
    nomatch he

end

section
namespace Sys2Proof.Machine

/-! Probes: what a cluster's own steps on a line leave of the messages in flight, and that its L2 still holds the line. -/

/-- The messages in flight are the same, and an L2 that held the line holds it. -/
structure HoldsLine (key : Nat) (s t : State) : Prop where
  msgs : t.mem.msgs = s.mem.msgs
  l2 : ∀ c, (l2Line s c key).isSome = true → (l2Line t c key).isSome = true

theorem HoldsLine.refl (key : Nat) (s : State) : HoldsLine key s s := ⟨rfl, fun _ h => h⟩

theorem HoldsLine.trans {key : Nat} {s t u : State} (h : HoldsLine key s t) (h' : HoldsLine key t u) : HoldsLine key s u :=
  ⟨h'.msgs.trans h.msgs, fun c hc => h'.l2 c (h.l2 c hc)⟩

/-- A step that leaves the messages and every L2. -/
theorem HoldsLine.of_eq {key : Nat} {s t : State} (hm : t.mem.msgs = s.mem.msgs) (hc : ∀ c, (t.cluster c).l2 = (s.cluster c).l2) :
    HoldsLine key s t := ⟨hm, fun c h => by simpa [l2Line, hc] using h⟩

theorem holdsLine_foldl {α : Type} {key : Nat} {f : State → α → State} (hf : ∀ s x, HoldsLine key s (f s x)) (l : List α) (s : State) :
    HoldsLine key s (l.foldl f s) := by
  induction l generalizing s with
  | nil => exact .refl key s
  | cons x r ih => exact (hf s x).trans (ih (f s x))

theorem holdsLine_updL1 (key : Nat) (s : State) (k : Nat) (f : Cache → Cache) : HoldsLine key s (s.updL1 k f) := .of_eq rfl (fun _ => rfl)

theorem holdsLine_updL1Line (key : Nat) (s : State) (k : Nat) (f : CLine → CLine) : HoldsLine key s (updL1Line s k key f) :=
  holdsLine_updL1 key s k _

theorem tget_of_tfind {α : Type} {d v : α} : ∀ {t : Tbl α} {k : Nat}, tfind t k = some v → tget d t k = v
  | (j, w) :: r, k, h => by
    simp only [tfind] at h
    simp only [tget]
    split at h
    · next hj => rw [if_pos hj, Option.some.inj h]
    · next hj => rw [if_neg hj, tget_of_tfind h]

/-- A position that a cache has found holds the line. -/
theorem find_some {x : Cache} {ways set key p : Nat} (h : x.find ways set key = some p) :
    p ∈ (List.range ways).map (ways * set + ·) ∧ ∃ l, tfind x.lines p = some l ∧ l.line = key ∧ l.st ≠ .i ∧ x.get p = l := by
  have hp := List.find?_some h
  refine ⟨List.mem_of_find?_eq_some h, ?_⟩
  split at hp
  case h_2 => simp at hp
  case h_1 l hl =>
    simp only [Bool.and_eq_true, beq_iff_eq, decide_eq_true_eq] at hp
    exact ⟨l, hl, hp.1, hp.2, tget_of_tfind hl⟩

/-- A change that keeps a line's number and leaves it valid leaves it to be found. -/
theorem find_upd {x : Cache} {ways set key : Nat} {f : CLine → CLine} (hf : ∀ l, l.st ≠ .i → (f l).st ≠ .i ∧ (f l).line = l.line)
    (h : (x.find ways set key).isSome = true) : ((x.upd ways set key f).find ways set key).isSome = true := by
  obtain ⟨p, hp⟩ := Option.isSome_iff_exists.1 h
  obtain ⟨hmem, l, hl, hkey, hst, hget⟩ := find_some hp
  obtain ⟨hst', hline'⟩ := hf l hst
  have hput : tfind (x.upd ways set key f).lines p = some (f l) := by
    simp only [Cache.upd, hp, hget, Cache.put, if_neg hst', tfind_tput_same]
  rw [Cache.find, List.find?_isSome]
  exact ⟨p, hmem, by simp [hput, hline', hkey, hst']⟩

theorem l2Line_isSome (s : State) (c key : Nat) :
    (l2Line s c key).isSome = ((s.cluster c).l2.find 16 (l2Set key) key).isSome := by simp [l2Line]

theorem holdsLine_updL2Line {key : Nat} (s : State) (c : Nat) {f : CLine → CLine}
    (hf : ∀ l, l.st ≠ .i → (f l).st ≠ .i ∧ (f l).line = l.line) : HoldsLine key s (updL2Line s c key f) := by
  refine ⟨rfl, fun j h => ?_⟩
  rw [l2Line_isSome] at h ⊢
  by_cases hj : j = c
  · subst hj
    simpa [updL2Line, State.updL2] using find_upd hf h
  · simpa [updL2Line, State.updL2, hj] using h

theorem holdsLine_fabOut (key : Nat) (s : State) (p : Packet) : HoldsLine key s (fabOut s p) := by
  simp only [fabOut]
  (repeat' split) <;> exact .of_eq rfl (fun _ => rfl)

theorem holdsLine_fabSendFor (key : Nat) (s : State) (n k entry : Nat) (o : Owner) (w : Bool) (pa : W64) (mask : Nat) (bs : Bytes)
    (poison : Nat) : HoldsLine key s (fabSendFor s n k entry o w pa mask bs poison) := by
  simp only [fabSendFor]
  refine HoldsLine.trans ?_ (holdsLine_fabOut key _ _)
  exact .of_eq (by simp only [stamp_mem]) (fun _ => by simp only [State.cluster, stamp_mem])

theorem holdsLine_sendWb (key : Nat) (s : State) (k : Nat) (pa : W64) (mask : Nat) (bs : Bytes) (poison : Nat) :
    HoldsLine key s (sendWb s k pa mask bs poison) := by
  simp only [sendWb, sendWbFor]
  split
  · refine HoldsLine.trans ?_ (holdsLine_fabSendFor key _ _ _ _ _ _ _ _ _ _)
    exact .of_eq rfl (fun _ => rfl)
  · exact .of_eq rfl (fun _ => rfl)

theorem holdsLine_voidFill (key : Nat) (s : State) (c j : Nat) : HoldsLine key s (voidFill s c j) := by
  simp only [voidFill]
  split
  · refine .of_eq rfl (fun d => ?_)
    rw [State.cluster_setCluster]
    split
    next hd =>
      rw [hd]
    next hd =>
      rfl
  · exact .refl key s

theorem holdsLine_flushSector (s : State) (k key q : Nat) : HoldsLine key s (flushSector s k key q) := by
  simp only [flushSector]
  split
  case h_1 => exact .refl key s
  case h_2 =>
    split
    case h_1 => exact .refl key s
    case h_2 =>
      split
      · exact .refl key s
      all_goals
        refine (holdsLine_updL1Line key _ _ _).trans (.trans (holdsLine_updL2Line _ _ (fun l hl => ?_))
          ((holdsLine_voidFill key _ _ _).trans (holdsLine_sendWb key _ _ _ _ _ _)))
        split <;> exact ⟨hl, rfl⟩

theorem holdsLine_mergeUp (s : State) (k key : Nat) : HoldsLine key s (mergeUp s k key) := by
  simp only [mergeUp]
  split
  case h_1 => exact .refl key s
  case h_2 =>
    refine HoldsLine.trans ?_ (holdsLine_updL1Line key _ k _)
    refine holdsLine_updL2Line s _ (fun l hl => ⟨?_, rfl⟩)
    dsimp only
    split
    · exact hl
    · exact nofun

/-- A cluster's own note that a core has no copy of a line leaves the line. -/
theorem holdsLine_shar (s : State) (c key j : Nat) :
    HoldsLine key s (updL2Line s c key (fun x => { x with shar := setBit x.shar j false })) :=
  holdsLine_updL2Line s c (fun _ hl => ⟨hl, rfl⟩)

theorem holdsLine_dropL1 (s : State) (k key : Nat) : HoldsLine key s (dropL1 s k key) := by
  simp only [dropL1]
  split
  case h_1 => exact .refl key s
  case h_2 l hl =>
    refine HoldsLine.trans ?_ (holdsLine_shar _ _ key _)
    refine HoldsLine.trans ?_ (holdsLine_updL1Line key _ k _)
    split
    · exact holdsLine_mergeUp s k key
    · exact holdsLine_foldl (fun s q => holdsLine_flushSector s k key q) _ s
    · exact .refl key s

theorem holdsLine_downgradeL1 (s : State) (k key : Nat) : HoldsLine key s (downgradeL1 s k key) := by
  simp only [downgradeL1]
  split
  · split
    · exact (holdsLine_mergeUp s k key).trans (holdsLine_updL1Line key _ _ _)
    · exact .refl key s
  · exact .refl key s

theorem holdsLine_dropAllL1 (s : State) (c key : Nat) : HoldsLine key s (dropAllL1 s c key) :=
  holdsLine_foldl (fun s j => holdsLine_dropL1 s j key) _ s

theorem l2Owns_isSome {s : State} {c key : Nat} (h : l2Owns s c key = true) : (l2Line s c key).isSome = true := by
  simp only [l2Owns] at h
  split at h
  · next l hl => simp [hl]
  · simp at h

theorem l2Line_received (s : State) (m : Msg) (rest : List Msg) (c key : Nat) : l2Line (received s m rest) c key = l2Line s c key := by
  simp [l2Line]

theorem l2Owns_received (s : State) (m : Msg) (rest : List Msg) (c key : Nat) : l2Owns (received s m rest) c key = l2Owns s c key := by
  simp [l2Owns, l2Line_received]

section
variable {s : State} {c : Fin 32} {line : BitVec 31} {m : Msg} {rest : List Msg}

/-- The holder of a probed line answers with its dirty sectors, another cluster with NOHOLD (R286, R293). -/
theorem forward_answers {kind : MsgKind} {first : State → Nat → State} {named : Nat → Nat} {after : CLine → CLine}
    (hfirst : ∀ u key, HoldsLine key u (first u key)) (h : Arrives s (.l2 c) line.toNat false m rest) (hk : m.kind = kind) :
    ∃ t, forward s c line kind first named after = .next t ∧
      (l2Owns s c.val m.line = false → t.mem.msgs = rest ++ [Msg.bare .nohold (agentL2 c) m.line]) ∧
      (l2Owns s c.val m.line = true → ∃ l, l2Line (first (received s m rest) m.line) c.val m.line = some l ∧
        t.mem.msgs = rest ++ [{ Msg.bare .fwdData (agentL2 c) m.line with
          mask := (dirtyLoad l (named m.mask)).1, bytes := (dirtyLoad l (named m.mask)).2.1, poison := (dirtyLoad l (named m.mask)).2.2 }]) := by
  have hf := hfirst (received s m rest) m.line
  cases hown : l2Owns s c.val m.line
  · refine ⟨answer (received s m rest) c.val m.line .nohold 0 [] 0, ?_, fun _ => ?_, nofun⟩
    · simp only [forward, arrive_received h hk, l2Owns_received, hown, Bool.not_false, if_true]
    · simp only [answer, msgs_sendMsg, msgs_received]
      rfl
  · obtain ⟨l, hl⟩ := Option.isSome_iff_exists.1 (hf.l2 c.val (by rw [l2Line_received]; exact l2Owns_isSome hown))
    refine ⟨answer (updL2Line (first (received s m rest) m.line) c.val m.line (fun l' => after { l' with
        sec := l'.sec.map (fun e => (e.1, { e.2 with dirty := e.2.dirty && (dirtyLoad l (named m.mask)).1 / 2 ^ e.1 % 2 == 0 })) }))
      c.val m.line .fwdData (dirtyLoad l (named m.mask)).1 (dirtyLoad l (named m.mask)).2.1 (dirtyLoad l (named m.mask)).2.2, ?_, nofun,
      fun _ => ⟨l, hl, ?_⟩⟩
    · simp only [forward, arrive_received h hk, l2Owns_received, hown, Bool.not_true, Bool.false_eq_true, if_false, hl]
    · simp only [answer, msgs_sendMsg]
      have hm := hf.msgs
      rw [msgs_received] at hm
      rw [show ∀ (u : State) (f : CLine → CLine), (updL2Line u c.val m.line f).mem.msgs = u.mem.msgs from fun _ _ => rfl, hm]

theorem execInvMsg_answers (h : Arrives s (.l2 c) line.toNat false m rest) (hk : m.kind = .inv) :
    ∃ t, execInvMsg c line s = .next t ∧
      (l2Line s c.val m.line = none → t.mem.msgs = rest ++ [Msg.bare .nohold (agentL2 c) m.line]) ∧
      ((l2Line s c.val m.line).isSome = true → t.mem.msgs = rest ++ [Msg.bare .invAck (agentL2 c) m.line]) := by
  have hl₀ := l2Line_received s m rest c.val m.line
  cases hl : l2Line s c.val m.line with
  | none =>
    rw [hl] at hl₀
    refine ⟨answer (received s m rest) c.val m.line .nohold 0 [] 0, ?_, fun _ => ?_, nofun⟩
    · simp only [execInvMsg, arrive_received h hk, hl₀]
    · simp only [answer, msgs_sendMsg, msgs_received]
      rfl
  | some l =>
    rw [hl] at hl₀
    refine ⟨answer (updL2Line (dropAllL1 (received s m rest) c.val m.line) c.val m.line (fun l => { l with st := LineState.i })) c.val m.line
      .invAck 0 [] 0, ?_, nofun, fun _ => ?_⟩
    · simp only [execInvMsg, arrive_received h hk, hl₀]
    · have hm := (holdsLine_dropAllL1 (received s m rest) c.val m.line).msgs
      rw [msgs_received] at hm
      simp only [answer, msgs_sendMsg]
      rw [show ∀ (u : State) (f : CLine → CLine), (updL2Line u c.val m.line f).mem.msgs = u.mem.msgs from fun _ _ => rfl, hm]
      rfl

end

end Sys2Proof.Machine

open Sys2Proof Sys2Proof.Machine

/-- Settles O38: each probe is answered, whatever the cluster holds of the line. -/
theorem probesReachTheirCluster : Obligations.ProbesReachTheirCluster := by
  refine ⟨?_, ?_, ?_, ?_, ?_⟩
  · exact fun c line s m rest h hk => execInvMsg_answers h hk
  · intro c line s m rest h hk
    have hfirst : ∀ u key, HoldsLine key u ((coresOf c.val).foldl (fun s k => downgradeL1 s k key) u) :=
      fun u key => holdsLine_foldl (fun s k => holdsLine_downgradeL1 s k key) _ u
    exact forward_answers (first := fun s l => (coresOf c.val).foldl (fun s k => downgradeL1 s k l) s) (named := fun _ => 0xF)
      (after := fun l => { l with st := .s }) hfirst h hk
  · intro c line s m rest h hk
    exact forward_answers (first := fun s l => dropAllL1 s c.val l) (named := fun _ => 0xF) (after := fun l => { l with st := .i })
      (fun u key => holdsLine_dropAllL1 u c.val key) h hk
  · intro c line s m rest h hk
    have hfirst : ∀ u key, HoldsLine key u ((coresOf c.val).foldl (fun s k => mergeUp s k key) u) :=
      fun u key => holdsLine_foldl (fun s k => holdsLine_mergeUp s k key) _ u
    exact forward_answers (first := fun s l => (coresOf c.val).foldl (fun s k => mergeUp s k l) s) (named := id) (after := id) hfirst h hk
  · intro e he c line s h
    obtain _ | ⟨_, he⟩ := he
    · rw [show exec (.invMsg c line) s = execInvMsg c line s from rfl]
      simp only [execInvMsg, arrive_missing h]
    obtain _ | ⟨_, he⟩ := he
    · rw [show exec (.fwdS c line) s = execFwdS c line s from rfl]
      simp only [execFwdS, forward, arrive_missing h]
    obtain _ | ⟨_, he⟩ := he
    · rw [show exec (.fwdX c line) s = execFwdX c line s from rfl]
      simp only [execFwdX, forward, arrive_missing h]
    obtain _ | ⟨_, he⟩ := he
    · rw [show exec (.fwdR c line) s = execFwdR c line s from rfl]
      simp only [execFwdR, forward, arrive_missing h]
    nomatch he

end

section
/-!
Translation, its commands, and the host's doorbells.
-/
namespace Sys2Proof.Machine

/-! What the trace, the stamps and the host's rings change of the state: frames that name the changed parts. -/

theorem countDrops_frame (s : State) (b n : Nat) : ∃ g, s.countDrops b n = { s with dbg := g } := by
  simp only [State.countDrops]
  split <;> exact ⟨_, rfl⟩

theorem emit_frame (s : State) (b kind unit ctx info : Nat) (a0 a1 : W64) : ∃ g, s.emit b kind unit ctx info a0 a1 = { s with dbg := g } := by
  simp only [State.emit]
  split
  · exact ⟨_, rfl⟩
  split
  · obtain ⟨g, h⟩ := countDrops_frame (s.setBuf b { s.buf b with
      offered := holdInc 0xFFFFFFFF (s.buf b).offered, dieQ := State.loseEvent (s.buf b).dieQ false }) b 1
    rw [h]
    exact ⟨g, rfl⟩
  · exact ⟨_, rfl⟩

theorem stamp_frame (s : State) : ∃ x g, s.stamp.2 = { s with stamps := x, dbg := g } := ⟨_, _, rfl⟩

/-- Only the host interface and the counters have changed. -/
def HostOnly (s t : State) : Prop := ∃ h g, t = { s with host := h, dbg := g }

theorem HostOnly.refl (s : State) : HostOnly s s := ⟨s.host, s.dbg, rfl⟩

theorem HostOnly.trans {s t u : State} (h : HostOnly s t) (h' : HostOnly t u) : HostOnly s u := by
  obtain ⟨a, b, rfl⟩ := h
  obtain ⟨c, d, rfl⟩ := h'
  exact ⟨c, d, rfl⟩

theorem hostOnly_setFn (s : State) (f : Nat) (x : HostFn) : HostOnly s (s.setFn f x) := ⟨_, _, rfl⟩

theorem hostOnly_post (s : State) (o : HostOut) : HostOnly s (post s o) := ⟨_, _, rfl⟩

theorem hostOnly_hostWrite (s : State) (f : Nat) (addr : W64) (bs : List Byte) : HostOnly s (hostWrite s f addr bs) := ⟨_, _, rfl⟩

theorem hostOnly_msix (s : State) (f v : Nat) : HostOnly s (msix s f v) := by
  simp only [msix]
  split
  · exact .refl s
  split
  · exact hostOnly_post s _
  · exact hostOnly_setFn s f _

theorem hostOnly_putEntry (s : State) (f : Nat) (addr : W64) : ∀ e, HostOnly s (putEntry s f addr e)
  | [] => .refl s
  | w0 :: rest => by
    simp only [putEntry]
    refine HostOnly.trans ?_ (hostOnly_hostWrite _ _ _ _)
    split
    · exact .refl s
    · exact hostOnly_hostWrite s _ _ _

theorem hostOnly_drainRing (f : Nat) (i : RingId) : ∀ (n : Nat) (s : State) (w : Bool), HostOnly s (drainRing f i n s w).1
  | 0, s, _ => .refl s
  | n + 1, s, w => by
    simp only [drainRing]
    split
    · exact .refl s
    · split
      · exact .refl s
      · exact ((hostOnly_putEntry s f _ _).trans (hostOnly_setFn _ f _)).trans (hostOnly_drainRing f i n _ true)

theorem hostOnly_pumpRing (s : State) (f : Nat) (i : RingId) : HostOnly s (pumpRing s f i) := by
  have h := hostOnly_drainRing f i (getRing (s.fn f) i).held.length s false
  simp only [pumpRing]
  split
  · exact h.trans (hostOnly_msix _ _ _)
  · exact h

theorem hostOnly_pushEntry (s : State) (f : Nat) (i : RingId) (e : List W64) : HostOnly s (pushEntry s f i e) :=
  (hostOnly_setFn s f _).trans (hostOnly_pumpRing _ f i)

/-- An invariant of every step of a fold. -/
theorem foldl_keeps {α β : Type} {P : β → Prop} {f : β → α → β} (hf : ∀ s x, P s → P (f s x)) (l : List α) {s : β} (h : P s) :
    P (l.foldl f s) := by
  induction l generalizing s with
  | nil => exact h
  | cons x r ih => exact ih (hf s x h)

/-- What a step of a fold establishes of one of its elements, and every step keeps. -/
theorem foldl_establishes {α β : Type} {I P : β → Prop} {f : β → α → β} {l : List α} {x : α} (hx : x ∈ l)
    (hI : ∀ s y, I s → I (f s y)) (hP : ∀ s, I s → P (f s x)) (hkeep : ∀ s y, P s → P (f s y)) {s : β} (h : I s) :
    P (l.foldl f s) := by
  induction l generalizing s with
  | nil => simp at hx
  | cons y r ih =>
    obtain rfl | hx := List.mem_cons.1 hx
    · exact foldl_keeps hkeep r (hP s h)
    · exact ih hx (hI s y h)

/-! A walk's reads, its entry and its requesters (12). -/

/-- The walks of the clusters and the open fault records are as before. -/
structure SameWalks (s t : State) : Prop where
  recs : t.mem.recs = s.mem.recs
  walks : ∀ c, (t.cluster c).walks = (s.cluster c).walks

theorem SameWalks.refl (s : State) : SameWalks s s := ⟨rfl, fun _ => rfl⟩

theorem SameWalks.trans {s t u : State} (h : SameWalks s t) (h' : SameWalks t u) : SameWalks s u :=
  ⟨h'.recs.trans h.recs, fun c => (h'.walks c).trans (h.walks c)⟩

theorem sameWalks_foldl {α : Type} {f : State → α → State} (hf : ∀ s x, SameWalks s (f s x)) (l : List α) (s : State) :
    SameWalks s (l.foldl f s) := foldl_keeps (P := SameWalks s) (fun u x h => h.trans (hf u x)) l (.refl s)

theorem sameWalks_setCluster (s : State) (c : Nat) {x : Cluster} (h : x.walks = (s.cluster c).walks) : SameWalks s (s.setCluster c x) := by
  refine ⟨rfl, fun d => ?_⟩
  rw [State.cluster_setCluster]
  split
  next hd =>
    rw [h, hd]
  next hd =>
    rfl

theorem sameWalks_updL1Line (s : State) (k key : Nat) (f : CLine → CLine) : SameWalks s (updL1Line s k key f) := ⟨rfl, fun _ => rfl⟩

theorem sameWalks_updL2 (s : State) (c : Nat) (f : Cache → Cache) : SameWalks s (s.updL2 c f) := sameWalks_setCluster s c rfl

theorem sameWalks_updL2Line (s : State) (c key : Nat) (f : CLine → CLine) : SameWalks s (updL2Line s c key f) := sameWalks_updL2 s c _

theorem sameWalks_usedL2 (s : State) (c key : Nat) : SameWalks s (usedL2 s c key) := sameWalks_updL2 s c _

theorem sameWalks_mergeUp (s : State) (k key : Nat) : SameWalks s (mergeUp s k key) := by
  simp only [mergeUp]
  split
  · exact .refl s
  · refine SameWalks.trans ?_ (sameWalks_updL1Line _ k key _)
    exact sameWalks_updL2Line s _ key _

theorem sameWalks_downgradeL1 (s : State) (k key : Nat) : SameWalks s (downgradeL1 s k key) := by
  simp only [downgradeL1]
  split
  · split
    · refine SameWalks.trans ?_ (sameWalks_updL1Line _ k key _)
      exact sameWalks_mergeUp s k key
    · exact .refl s
  · exact .refl s

theorem sameWalks_walkRead (s : State) (c n v : Nat) : SameWalks s (walkRead s c n v) := by
  refine sameWalks_foldl (fun u r => ?_) _ s
  refine SameWalks.trans ?_ (sameWalks_usedL2 _ c r.1)
  exact sameWalks_foldl (fun u k => sameWalks_downgradeL1 u k r.1) _ u

/-- A cluster's TLBs and walk cache are no part of what the caches hold. -/
theorem l2Line_setCluster (s : State) (c : Nat) {x : Cluster} (h : x.l2 = (s.cluster c).l2) (j line : Nat) :
    l2Line (s.setCluster c x) j line = l2Line s j line := by
  simp only [l2Line, State.cluster_setCluster]
  by_cases hj : j = c
  · rw [if_pos hj, h, hj]
  · rw [if_neg hj]

theorem cohSector_setCluster (s : State) (c : Nat) {x : Cluster} (h : x.l2 = (s.cluster c).l2) (line q : Nat) :
    cohSector (s.setCluster c x) line q = cohSector s line q := by
  simp only [cohSector, l2Line_setCluster s c h]
  rfl

theorem mergedEntry_setCluster (s : State) (c : Nat) {x : Cluster} (h : x.l2 = (s.cluster c).l2) (n level off v : Nat) (e : W64) :
    mergedEntry (s.setCluster c x) n level off v e = mergedEntry s n level off v e := by
  simp only [mergedEntry, groupOk, cohWord, cohRead, cohByte, cohPoison, cohSector_setCluster s c h]
  rfl

/-- The walk cache fills: what a walk installs in it is no part of the caches, the cores or the walks (R314). -/
structure WalkCached (s t : State) : Prop where
  cores : t.cores = s.cores
  same : SameWalks s t
  merged : ∀ n level off v e, mergedEntry t n level off v e = mergedEntry s n level off v e

theorem walkCached_cacheLevels (c n v : Nat) : ∀ (fuel level table : Nat) (s : State), WalkCached s (cacheLevels s c n v fuel level table)
  | 0, _, _, s => ⟨rfl, .refl s, fun _ _ _ _ _ => rfl⟩
  | fuel + 1, level, table, s => by
    simp only [cacheLevels]
    split
    · exact ⟨rfl, .refl s, fun _ _ _ _ _ => rfl⟩
    · refine ⟨(walkCached_cacheLevels c n v fuel _ _ _).cores, SameWalks.trans ?_ (walkCached_cacheLevels c n v fuel _ _ _).same,
        fun n level off v e => ((walkCached_cacheLevels c _ _ fuel _ _ _).merged n level off v e).trans ?_⟩
      · exact sameWalks_setCluster s c rfl
      · exact mergedEntry_setCluster s c (by rfl) n level off v e

end Sys2Proof.Machine

end

section
namespace Sys2Proof.Machine

/-! The requesters of a walk: what a translation gives them, and how they park. -/

theorem Tlb.put_has (t : Tlb) (k ways set : Nat) (e : TlbEnt) : ∃ p, tfind (t.put k ways set e).ents p = some e :=
  ⟨_, tfind_tput_same _ _ _⟩

/-- The waits of a core's threads and of its control core. -/
def waitOf (s : State) (k : Nat) : Req → Wait
  | .chan _ => .none
  | .thread j l => tget Wait.none ((s.core k).cv j).waits l
  | _ => (s.core k).wait

/-- The core's L1 TLB holds the entry. -/
def HasEntry (s : State) (k : Nat) (e : TlbEnt) : Prop := ∃ p, tfind (s.core k).tlb.ents p = some e

theorem translated_face {t : State} {e : TlbEnt} {k : Nat} {r : Req} (hw : waitOf t k r = .none) (he : HasEntry t k e) :
    Translated t e (.face k r) := by
  cases r with
  | chan ch => exact he
  | thread j l => exact ⟨hw, he⟩
  | cc | desc => exact ⟨hw, he⟩

theorem parked_face {t : State} {v k : Nat} {r : Req} (hw : (∀ ch, r ≠ .chan ch) → waitOf t k r = .fault v)
    (hc : ∀ ch, r = .chan ch → tfind (t.core k).ve.parked ch = some v) : ParkedAt t v (.face k r) := by
  cases r with
  | chan ch => exact hc ch rfl
  | thread j l => exact hw nofun
  | cc | desc => exact hw nofun

theorem waits_setState (x : Caravan) (l j : Nat) (st : ThreadState) (w : Wait) :
    tget Wait.none (x.setState [l] st w).waits j = if j = l then w else tget Wait.none x.waits j := by
  simp [Caravan.setState, tget_tset]

/-- A change of one caravan, and the waits of its threads. -/
theorem waitOf_updCv (s : State) (k v : Nat) (f : Caravan → Caravan) (j : Nat) (r : Req) :
    waitOf (s.updCv k v f) j r = match r with
      | .thread a l => if j = k ∧ a = v then tget Wait.none (f ((s.core k).cv v)).waits l else waitOf s j r
      | _ => waitOf s j r := by
  by_cases hj : j = k
  · subst hj
    cases r with
    | thread a l =>
      simp only [waitOf, core_updCv, if_true, Core.cv, tget_tput, true_and]
      (repeat' split) <;> rfl
    | _ => simp [waitOf]
  · cases r <;> simp [waitOf, hj]

/-- A change of a core that leaves its caravans, and the wait of its control core. -/
theorem waitOf_updCore (s : State) (k : Nat) {f : Core → Core} (h : (f (s.core k)).cvs = (s.core k).cvs) (j : Nat) (r : Req) :
    waitOf (s.updCore k f) j r = match r with
      | .chan _ => .none
      | .thread _ _ => waitOf s j r
      | _ => if j = k then (f (s.core k)).wait else (s.core j).wait := by
  by_cases hj : j = k
  · subst hj
    cases r <;> simp [waitOf, Core.cv, h]
  · cases r <;> simp [waitOf, hj]

theorem waitOf_updCore_same (s : State) (k : Nat) {f : Core → Core} (h : (f (s.core k)).cvs = (s.core k).cvs)
    (hw : (f (s.core k)).wait = (s.core k).wait) (j : Nat) (r : Req) : waitOf (s.updCore k f) j r = waitOf s j r := by
  rw [waitOf_updCore s k h]
  cases r with
  | cc | desc =>
    by_cases hj : j = k
    · simp [waitOf, hj, hw]
    · simp [waitOf, hj]
  | _ => rfl

/-- A control core that waited on the page waits no longer (R321). -/
def wokenCc (v : Nat) (c : Core) : Core := if c.wait = .walk v ∨ c.wait = .fault v then { c with wait := .none } else c

theorem wokenCc_cvs (v : Nat) (c : Core) : (wokenCc v c).cvs = c.cvs := by
  simp only [wokenCc]
  (repeat' split) <;> rfl

theorem wokenCc_wait (v : Nat) (c : Core) : (wokenCc v c).wait = if c.wait = .walk v ∨ c.wait = .fault v then .none else c.wait := by
  simp only [wokenCc]
  (repeat' split) <;> rfl

/-- What the wake of a requester leaves of another's wait, or it wakes that too. -/
theorem waitOf_wakeWalker (s : State) (v : Nat) (z : Walker) (k : Nat) (r : Req) :
    waitOf (wakeWalker s v z) k r = waitOf s k r ∨ waitOf (wakeWalker s v z) k r = .none := by
  cases z with
  | dma j seq => exact .inl (waitOf_updCore_same s j (by rfl) (by rfl) k r)
  | face j q =>
    cases q with
    | chan ch =>
      refine .inl (waitOf_updCore_same s j ?_ ?_ k r) <;>
      · dsimp only
        (repeat' split) <;> rfl
    | thread a l =>
      simp only [wakeWalker, waitOf_updCv]
      cases r with
      | thread b i =>
        dsimp only
        split
        next hj =>
          split
          · rw [waits_setState]
            split
            · exact .inr rfl
            · exact .inl (by rw [hj.1, hj.2]; rfl)
          · exact .inl (by rw [hj.1, hj.2]; rfl)
        · exact .inl rfl
      | _ => exact .inl rfl
    | cc | desc =>
      change waitOf (s.updCore j (wokenCc v)) k r = _ ∨ waitOf (s.updCore j (wokenCc v)) k r = _
      rw [waitOf_updCore s j (wokenCc_cvs v _)]
      cases r with
      | thread b i => exact .inl rfl
      | chan ch => exact .inl rfl
      | cc | desc =>
        simp only [wokenCc_wait]
        split
        next hj =>
          split
          · exact .inr rfl
          · exact .inl (by rw [hj]; rfl)
        · exact .inl rfl

/-- A requester that waits on the page waits no longer when it is woken. -/
theorem waitOf_wakeWalker_self (s : State) (v k : Nat) (r : Req) (h : waitOf s k r = .walk v ∨ waitOf s k r = .none) :
    waitOf (wakeWalker s v (.face k r)) k r = .none := by
  cases r with
  | chan ch => rfl
  | thread a l =>
    simp only [wakeWalker, waitOf_updCv, and_self, if_true]
    split
    next hw =>
      simp [waits_setState]
    next hw =>
      exact (h.resolve_left (fun hw' => hw (.inl hw')))
  | cc | desc =>
    change waitOf (s.updCore k (wokenCc v)) k .cc = _
    rw [waitOf_updCore s k (wokenCc_cvs v _)]
    simp only [if_true, wokenCc_wait]
    split
    next hw =>
      rfl
    next hw =>
      exact (h.resolve_left (fun hw' => hw (.inl hw')))

/-- A wake leaves the TLBs. -/
theorem tlb_wakeWalker (s : State) (v : Nat) (z : Walker) (k : Nat) : ((wakeWalker s v z).core k).tlb = (s.core k).tlb := by
  have hsame : ∀ (j : Nat) (f : Core → Core), (f (s.core j)).tlb = (s.core j).tlb → ((s.updCore j f).core k).tlb = (s.core k).tlb := by
    intro j f h
    rw [State.core_updCore]
    split
    next hk =>
      rw [h, hk]
    next hk =>
      rfl
  cases z with
  | dma j seq => exact hsame j _ rfl
  | face j q =>
    cases q with
    | chan ch =>
      refine hsame j _ ?_
      dsimp only
      (repeat' split) <;> rfl
    | thread a l => exact hsame j _ rfl
    | cc | desc =>
      refine hsame j (wokenCc v) ?_
      simp only [wokenCc]
      (repeat' split) <;> rfl

theorem waitOf_fillL1Tlb (s : State) (j : Nat) (e : TlbEnt) (k : Nat) (r : Req) : waitOf (fillL1Tlb s j e) k r = waitOf s k r :=
  waitOf_updCore_same s j rfl rfl k r

theorem core_tellDma (s : State) (v : Nat) (f : Held ⊕ PageFail) (z : Walker) (k : Nat) :
    ∃ dma, (tellDma s v f z).core k = { s.core k with dma := dma } := by
  cases z with
  | face j q => exact ⟨_, rfl⟩
  | dma j seq =>
    simp only [tellDma, State.core_updCore]
    split
    next hk =>
      rw [hk]
      exact ⟨_, rfl⟩
    next hk =>
      exact ⟨_, rfl⟩

theorem waitOf_of_core {s t : State} {k : Nat} {dma : DmaQueue} (h : t.core k = { s.core k with dma := dma }) (r : Req) :
    waitOf t k r = waitOf s k r := by
  cases r <;> simp [waitOf, h, Core.cv]

/-- One requester's translation leaves another's wait, or ends it. -/
theorem waitOf_walkFound (s : State) (c v : Nat) (e : TlbEnt) (z : Walker) (k : Nat) (r : Req) :
    waitOf (walkFound s c v e z) k r = waitOf s k r ∨ waitOf (walkFound s c v e z) k r = .none := by
  cases z with
  | face j q =>
    have h := waitOf_wakeWalker (fillL1Tlb s j e) v (.face j q) k r
    rwa [waitOf_fillL1Tlb] at h
  | dma j seq =>
    obtain ⟨dma, h⟩ := core_tellDma (fillDmaTlb s _ e) v (.inl (heldOf s e v)) (.dma j seq) k
    exact .inl (waitOf_of_core (s := s) h r)

/-- A TLB keeps the entry that it holds when the entry is put again. -/
theorem hasEntry_walkFound (s : State) (c v : Nat) (e : TlbEnt) (z : Walker) {k : Nat} (h : HasEntry s k e) :
    HasEntry (walkFound s c v e z) k e := by
  cases z with
  | face j q =>
    rw [HasEntry, show walkFound s c v e (.face j q) = wakeWalker (fillL1Tlb s j e) v (.face j q) from rfl, tlb_wakeWalker, fillL1Tlb,
      State.core_updCore]
    split
    next hk =>
      exact Tlb.put_has _ _ _ _ e
    next hk =>
      exact h
  | dma j seq =>
    obtain ⟨dma, hc⟩ := core_tellDma (fillDmaTlb s _ e) v (.inl (heldOf s e v)) (.dma j seq) k
    obtain ⟨p, hp⟩ := h
    refine ⟨p, ?_⟩
    rw [show walkFound s c v e (.dma j seq) = tellDma (fillDmaTlb s _ e) v (.inl (heldOf s e v)) (.dma j seq) from rfl, hc]
    exact hp

theorem hasEntry_walkFound_self (s : State) (c v : Nat) (e : TlbEnt) (k : Nat) (r : Req) :
    HasEntry (walkFound s c v e (.face k r)) k e := by
  rw [HasEntry, show walkFound s c v e (.face k r) = wakeWalker (fillL1Tlb s k e) v (.face k r) from rfl, tlb_wakeWalker, fillL1Tlb,
    State.core_updCore, if_pos rfl]
  exact Tlb.put_has _ _ _ _ e

/-- Every requester of a walk that has found a leaf is given its translation. -/
theorem translated_foldl {s : State} (c v : Nat) (e : TlbEnt) {all : List Walker} {w : Walker} (hw : w ∈ all)
    (hwait : ∀ k r, w = .face k r → waitOf s k r = .walk v ∨ waitOf s k r = .none) :
    Translated (all.foldl (fun s y => walkFound s c v e y) s) e w := by
  cases w with
  | dma k seq => trivial
  | face k r =>
    have hpend := hwait k r rfl
    have hdone : waitOf (all.foldl (fun s y => walkFound s c v e y) s) k r = .none ∧
        HasEntry (all.foldl (fun s y => walkFound s c v e y) s) k e := by
      refine foldl_establishes (I := fun u => waitOf u k r = .walk v ∨ waitOf u k r = .none)
        (P := fun u => waitOf u k r = .none ∧ HasEntry u k e) hw (fun u y hu => ?_) (fun u hu => ?_) (fun u y hu => ?_) hpend
      · obtain h | h := waitOf_walkFound u c v e y k r
        · rwa [h]
        · exact .inr h
      · refine ⟨?_, hasEntry_walkFound_self u c v e k r⟩
        exact waitOf_wakeWalker_self _ v k r (by rwa [waitOf_fillL1Tlb])
      · refine ⟨?_, hasEntry_walkFound u c v e y hu.2⟩
        obtain h | h := waitOf_walkFound u c v e y k r
        · rw [h]
          exact hu.1
        · exact h
    exact translated_face hdone.1 hdone.2

/-- What waits on a walk of a page. -/
theorem waitOf_of_waitsHere {s : State} {n v k : Nat} {r : Req} (h : waitsHere s n v (.face k r) = true) :
    waitOf s k r = .walk v ∨ waitOf s k r = .none := by
  cases r <;> simp_all [waitsHere, waitOf]

/-! What finds a walk's requesters leaves the clusters' walks and their L2 TLBs. -/

theorem sameWalks_walkFound (s : State) (c v : Nat) (e : TlbEnt) (z : Walker) : SameWalks s (walkFound s c v e z) := by
  cases z with
  | face j q =>
    cases q <;> exact ⟨rfl, fun _ => rfl⟩
  | dma j seq =>
    refine SameWalks.trans ?_ (show SameWalks (fillDmaTlb s (((s.core j).dma.queue.find? (fun q => q.seq == seq)).map DmaCmd.engine |>.getD (2 * c)) e) _ from
      ⟨rfl, fun _ => rfl⟩)
    exact sameWalks_setCluster s _ rfl

theorem l2tlb_walkFound (s : State) (c v : Nat) (e : TlbEnt) (z : Walker) (d : Nat) :
    ((walkFound s c v e z).cluster d).tlb = (s.cluster d).tlb := by
  cases z with
  | face j q => cases q <;> rfl
  | dma j seq =>
    generalize heng : (((s.core j).dma.queue.find? (fun q => q.seq == seq)).map DmaCmd.engine).getD (2 * c) = eng
    have h : ((fillDmaTlb s eng e).cluster d).tlb = (s.cluster d).tlb := by
      simp only [fillDmaTlb, State.cluster_setCluster]
      split
      next hd =>
        rw [hd]
      next hd =>
        rfl
    rw [← h, ← heng]
    rfl

end Sys2Proof.Machine

end

section
namespace Sys2Proof.Machine

/-! The requesters of a page with V = 0 park, and a record of the page is open (R319, R320). -/

theorem parkWalker_face (s : State) (v k : Nat) (r : Req) (h : ∀ ch, r ≠ .chan ch) :
    parkWalker s v (.face k r) = setWait s (r.grp k 0) [r.lane] .waitFault (.fault v) := by
  cases r with
  | chan ch => exact absurd rfl (h ch)
  | _ => rfl

/-- A requester that parks leaves another's wait, or that parks on the page too. -/
theorem waitOf_parkWalker (s : State) (v : Nat) (z : Walker) (k : Nat) (r : Req) :
    waitOf (parkWalker s v z) k r = waitOf s k r ∨ waitOf (parkWalker s v z) k r = .fault v := by
  cases z with
  | dma j seq => exact .inl rfl
  | face j q =>
    cases q with
    | chan ch => exact .inl (waitOf_updCore_same s j (by rfl) (by rfl) k r)
    | thread a l =>
      change waitOf (s.updCv j a (fun x => x.setState [l] .waitFault (.fault v))) k r = _ ∨
        waitOf (s.updCv j a (fun x => x.setState [l] .waitFault (.fault v))) k r = _
      rw [waitOf_updCv]
      cases r with
      | thread b i =>
        dsimp only
        split
        next hj =>
          rw [waits_setState]
          split
          · exact .inr rfl
          · exact .inl (by rw [hj.1, hj.2]; rfl)
        next hj =>
          exact .inl rfl
      | _ => exact .inl rfl
    | cc | desc =>
      change waitOf (s.updCore j (fun c => { c with wait := .fault v })) k r = _ ∨
        waitOf (s.updCore j (fun c => { c with wait := .fault v })) k r = _
      rw [waitOf_updCore s j (by rfl)]
      cases r with
      | thread b i => exact .inl rfl
      | chan ch => exact .inl rfl
      | cc | desc =>
        dsimp only
        split
        · exact .inr rfl
        · exact .inl rfl

theorem waitOf_parkWalker_self (s : State) (v k : Nat) (r : Req) (h : ∀ ch, r ≠ .chan ch) :
    waitOf (parkWalker s v (.face k r)) k r = .fault v := by
  cases r with
  | chan ch => exact absurd rfl (h ch)
  | thread a l =>
    change waitOf (s.updCv k a (fun x => x.setState [l] .waitFault (.fault v))) k _ = _
    simp [waitOf_updCv, waits_setState]
  | cc | desc =>
    change waitOf (s.updCore k (fun c => { c with wait := .fault v })) k .cc = _
    rw [waitOf_updCore s k (by rfl)]
    simp

/-- The channels' parks that a parking requester leaves. -/
theorem parked_parkWalker (s : State) (v : Nat) (z : Walker) (k ch : Nat) :
    tfind ((parkWalker s v z).core k).ve.parked ch = tfind (s.core k).ve.parked ch ∨
      tfind ((parkWalker s v z).core k).ve.parked ch = some v := by
  cases z with
  | dma j seq => exact .inl rfl
  | face j q =>
    by_cases hq : ∃ c, q = .chan c
    · obtain ⟨c, rfl⟩ := hq
      simp only [parkWalker, State.core_updCore]
      split
      next hk =>
        by_cases hc : ch = c
        · rw [hc, tfind_tput_same]
          exact .inr rfl
        · rw [tfind_tput_ne _ _ hc, hk]
          exact .inl rfl
      next hk =>
        exact .inl rfl
    · rw [parkWalker_face s v j q (fun c hc => hq ⟨c, hc⟩)]
      refine .inl ?_
      cases q <;> simp only [setWait, Req.grp, core_updCv, State.core_updCore] <;> split <;> first | rfl | (next hk => rw [hk])

theorem parked_parkWalker_self (s : State) (v k ch : Nat) : tfind ((parkWalker s v (.face k (.chan ch))).core k).ve.parked ch = some v := by
  simp only [parkWalker, State.core_updCore, if_true, tfind_tput_same]

/-- A record of a page is open. -/
def hasRec (s : State) (n v : Nat) : Bool := s.mem.recs.any (fun r => r.ctx == n && r.vpn == v)

/-- What a translation fault leaves: the cores, the clusters, and every open record. -/
structure FaultOpened (n v : Nat) (s t : State) : Prop where
  cores : t.cores = s.cores
  clusters : t.mem.clusters = s.mem.clusters
  keeps : hasRec s n v = true → hasRec t n v = true
  opens : s.mem.recs.length < 256 → hasRec t n v = true

theorem hasRec_updFirst {p : FaultRec → Bool} {f : FaultRec → FaultRec} (hf : ∀ r, (f r).ctx = r.ctx ∧ (f r).vpn = r.vpn) (n v : Nat) :
    ∀ l : List FaultRec, (updFirst p f l).any (fun r => r.ctx == n && r.vpn == v) = l.any (fun r => r.ctx == n && r.vpn == v)
  | [] => rfl
  | r :: l => by
    simp only [updFirst]
    split
    · simp only [List.any_cons, (hf r).1, (hf r).2]
    · simp only [List.any_cons, hasRec_updFirst hf n v l]

theorem hostOnly_emit (s : State) (b kind unit ctx info : Nat) (a0 a1 : W64) : HostOnly s (s.emit b kind unit ctx info a0 a1) := by
  obtain ⟨g, h⟩ := emit_frame s b kind unit ctx info a0 a1
  exact ⟨s.host, g, h⟩

theorem hostOnly_bumpCore (s : State) (k ev um n : Nat) : HostOnly s (s.bumpCore k ev um n) := by
  obtain ⟨g, h⟩ := bumpCore_frame s k ev um n
  exact ⟨s.host, g, h⟩

theorem HostOnly.mem {s t : State} (h : HostOnly s t) : t.mem = s.mem := by
  obtain ⟨a, b, rfl⟩ := h
  rfl

theorem HostOnly.cores {s t : State} (h : HostOnly s t) : t.cores = s.cores := by
  obtain ⟨a, b, rfl⟩ := h
  rfl

/-- The count of a translation fault (R485). -/
def walkerCount (s : State) : Walker → State
  | .face k _ => s.bumpCore k 0x10 0xFFFF 1
  | .dma k _ => s.bumpCore k 0x10 0xFFFF 1

theorem hostOnly_walkerCount (s : State) (w : Walker) : HostOnly s (walkerCount s w) := by
  cases w <;> exact hostOnly_bumpCore s _ _ _ _

/-- A state with the records `recs`, whose cores and clusters are those of `s`. -/
structure WithRecs (s : State) (recs : List FaultRec) (t : State) : Prop where
  cores : t.cores = s.cores
  clusters : t.mem.clusters = s.mem.clusters
  recs : t.mem.recs = recs

theorem WithRecs.hostOnly {s t u : State} {recs : List FaultRec} (h : WithRecs s recs t) (ho : HostOnly t u) : WithRecs s recs u :=
  ⟨ho.cores.trans h.cores, by rw [ho.mem]; exact h.clusters, by rw [ho.mem]; exact h.recs⟩

theorem openFault_join {s : State} {n v : Nat} (level : Nat) (w : Walker) (eng need : Nat) (va : W64) (h : hasRec s n v = true) :
    WithRecs s (updFirst (fun r => r.ctx == n && r.vpn == v) (fun r => r.join w eng need va) s.mem.recs)
      (openFault s n v level w eng need va) := by
  have heq : openFault s n v level w eng need va = walkerCount { s with mem := { s.mem with
      recs := updFirst (fun r => r.ctx == n && r.vpn == v) (fun r => r.join w eng need va) s.mem.recs } } w := by
    rw [hasRec] at h
    simp only [openFault, h, if_true]
    cases w <;> rfl
  rw [heq]
  refine WithRecs.hostOnly ?_ (hostOnly_walkerCount _ w)
  exact ⟨rfl, rfl, rfl⟩

/-- The record that a requester opens (R320). -/
def newRec (s : State) (n v level : Nat) (w : Walker) (eng need : Nat) (va : W64) : FaultRec :=
  (⟨recordId s, n, v, va, level, 0, 0, 0, 0, s.stamp.1, []⟩ : FaultRec).join w eng need va

/-- The state in which a new record is counted and its event offered, before its entry goes to the ring. -/
def recOpened (s : State) (n : Nat) (w : Walker) (va : W64) (r : FaultRec) : State :=
  (walkerCount { s.stamp.2 with mem := { s.stamp.2.mem with
    recs := s.stamp.2.mem.recs ++ [r], nextRec := (recordId s + 1) % 65536 } } w).emit 4 0x0B 0 n (recordId s) va s.stamp.1

theorem withRecs_recOpened (s : State) (n : Nat) (w : Walker) (va : W64) (r : FaultRec) :
    WithRecs s (s.mem.recs ++ [r]) (recOpened s n w va r) := by
  refine WithRecs.hostOnly ?_ ((hostOnly_walkerCount _ w).trans (hostOnly_emit _ _ _ _ _ _ _ _))
  obtain ⟨x, g, hst⟩ := stamp_frame s
  rw [hst]
  exact ⟨rfl, rfl, rfl⟩

theorem openFault_new {s : State} {n v : Nat} (level : Nat) (w : Walker) (eng need : Nat) (va : W64) (h : hasRec s n v = false)
    (hroom : s.mem.recs.length < 256) :
    ∃ r : FaultRec, r.ctx = n ∧ r.vpn = v ∧ WithRecs s (s.mem.recs ++ [r]) (openFault s n v level w eng need va) := by
  refine ⟨newRec s n v level w eng need va, rfl, rfl, ?_⟩
  generalize hu : recOpened s n w va (newRec s n v level w eng need va) = u
  have heq : openFault s n v level w eng need va =
      pushEntry u (u.ctx n).fn.toNat .fault ((newRec s n v level w eng need va).words (u.ctx n).partNo) := by
    rw [hasRec] at h
    have hroom' : ¬ 256 ≤ s.mem.recs.length := by omega
    rw [← hu]
    simp only [openFault, h, Bool.false_eq_true, if_false, hroom']
    cases w <;> rfl
  rw [heq]
  refine WithRecs.hostOnly ?_ (hostOnly_pushEntry _ _ _ _)
  rw [← hu]
  exact withRecs_recOpened s n w va _

theorem openFault_full {s : State} {n v : Nat} (level : Nat) (w : Walker) (eng need : Nat) (va : W64) (h : hasRec s n v = false)
    (hfull : 256 ≤ s.mem.recs.length) : WithRecs s s.mem.recs (openFault s n v level w eng need va) := by
  rw [hasRec] at h
  simp only [openFault, h, Bool.false_eq_true, if_false, hfull, if_true]
  (repeat' split) <;> exact ⟨rfl, rfl, rfl⟩

theorem faultOpened_openFault (s : State) (n v level : Nat) (w : Walker) (eng need : Nat) (va : W64) :
    FaultOpened n v s (openFault s n v level w eng need va) := by
  cases hrec : hasRec s n v with
  | true =>
    have h := openFault_join level w eng need va hrec
    have hopen : hasRec (openFault s n v level w eng need va) n v = true := by
      rw [hasRec, h.recs, hasRec_updFirst (f := fun r => r.join w eng need va) (fun r => ⟨rfl, rfl⟩)]
      exact hrec
    exact ⟨h.cores, h.clusters, fun _ => hopen, fun _ => hopen⟩
  | false =>
    by_cases hroom : s.mem.recs.length < 256
    · obtain ⟨r, hn, hv, h⟩ := openFault_new level w eng need va hrec hroom
      have hopen : hasRec (openFault s n v level w eng need va) n v = true := by
        rw [hasRec, h.recs]
        simp [hn, hv]
      exact ⟨h.cores, h.clusters, fun _ => hopen, fun _ => hopen⟩
    · have h := openFault_full level w eng need va hrec (by omega)
      exact ⟨h.cores, h.clusters, fun hr => absurd (hrec.symm.trans hr) (by simp), fun hlt => absurd hlt hroom⟩

/-- A requester parks on the fault that it has opened or joined. -/
def faultAndPark (n v level : Nat) (s : State) (y : Walker × Nat × W64) : State :=
  parkWalker (openFault s n v level y.1 0 y.2.1 y.2.2) v y.1

theorem waitOf_of_cores {s t : State} (h : t.cores = s.cores) (k : Nat) (r : Req) : waitOf t k r = waitOf s k r := by
  cases r <;> simp [waitOf, core_of_cores h]

/-- What parks leaves the clusters and the records. -/
theorem parkWalker_rest (s : State) (v : Nat) (z : Walker) : (parkWalker s v z).mem = s.mem := by
  cases z with
  | dma j seq => rfl
  | face j q => cases q <;> rfl

/-- Every requester that a fold of faults names is parked on its page. -/
theorem parked_foldl {s : State} (n v level : Nat) {faces : List (Walker × Nat × W64)} {y : Walker × Nat × W64} (hy : y ∈ faces) :
    ParkedAt (faces.foldl (faultAndPark n v level) s) v y.1 := by
  have hcores := fun (u : State) (z : Walker × Nat × W64) => (faultOpened_openFault u n v level z.1 0 z.2.1 z.2.2).cores
  obtain ⟨w, need, va⟩ := y
  cases w with
  | dma k seq => trivial
  | face k r =>
    refine parked_face (fun hch => ?_) (fun ch hch => ?_)
    · refine foldl_establishes (I := fun _ => True) (P := fun u => waitOf u k r = .fault v) hy (fun _ _ h => h) (fun u _ => waitOf_parkWalker_self _ v k r hch)
        (fun u z h => ?_) trivial
      · obtain h' | h' := waitOf_parkWalker (openFault u n v level z.1 0 z.2.1 z.2.2) v z.1 k r
        · rw [faultAndPark, h', waitOf_of_cores (hcores u z)]
          exact h
        · exact h'
    · subst hch
      refine foldl_establishes (I := fun _ => True) (P := fun u : State => tfind (u.core k).ve.parked ch = some v) hy (fun _ _ h => h)
        (fun u _ => parked_parkWalker_self _ v k ch) (fun u z h => ?_) trivial
      obtain h' | h' := parked_parkWalker (openFault u n v level z.1 0 z.2.1 z.2.2) v z.1 k ch
      · rw [faultAndPark, h', core_of_cores (hcores u z)]
        exact h
      · exact h'

/-- Faults leave the clusters, and one at least leaves a record of the page open where there is room. -/
theorem clusters_foldl (n v level : Nat) (faces : List (Walker × Nat × W64)) (s : State) :
    (faces.foldl (faultAndPark n v level) s).mem.clusters = s.mem.clusters :=
  foldl_keeps (P := fun u : State => u.mem.clusters = s.mem.clusters)
    (fun u y h => by rw [faultAndPark, parkWalker_rest, (faultOpened_openFault u n v level _ _ _ _).clusters, h]) faces rfl

theorem hasRec_foldl {s : State} (n v level : Nat) {faces : List (Walker × Nat × W64)} (hne : faces ≠ []) (hroom : s.mem.recs.length < 256) :
    hasRec (faces.foldl (faultAndPark n v level) s) n v = true := by
  have hrest : ∀ (u : State) (y : Walker × Nat × W64), hasRec (faultAndPark n v level u y) n v =
      hasRec (openFault u n v level y.1 0 y.2.1 y.2.2) n v := fun u y => by simp only [hasRec, faultAndPark, parkWalker_rest]
  cases faces with
  | nil => exact absurd rfl hne
  | cons y r =>
    refine foldl_keeps (P := fun u => hasRec u n v = true) (fun u z h => ?_) r ?_
    · rw [hrest]
      exact (faultOpened_openFault u n v level _ _ _ _).keeps h
    · rw [hrest]
      exact (faultOpened_openFault s n v level _ _ _ _).opens hroom

end Sys2Proof.Machine

end

section
namespace Sys2Proof.Machine

/-! PAGE_WALK: its request, its leaf and its fault. -/

/-- The requesters of a walk that still wait for it. -/
def stillWaits (s : State) (n v : Nat) (w : Walk) : List (Walker × Nat × W64) := w.who.filter (fun y => waitsHere s n v y.1)

def isFace : Walker → Bool
  | .face _ _ => true
  | .dma _ _ => false

/-- The state in which a walk gives its result: its reads are counted and its levels are in the walk cache. -/
def walkDone (s : State) (c n v : Nat) (rest : List Walk) : State :=
  cacheLevels ((walkBase s c n v rest).bumpCluster c 6 0xFFFF (walkCount s c n v)) c n v 3 1 (rootTable (walkBase s c n v rest) n)

theorem walkCached_walkDone (s : State) (c n v : Nat) (rest : List Walk) : WalkCached (walkBase s c n v rest) (walkDone s c n v rest) := by
  have h := walkCached_cacheLevels c n v 3 1 (rootTable (walkBase s c n v rest) n)
    ((walkBase s c n v rest).bumpCluster c 6 0xFFFF (walkCount s c n v))
  refine ⟨h.cores, SameWalks.trans ?_ h.same, fun n level off v e => (h.merged n level off v e).trans rfl⟩
  exact ⟨rfl, fun _ => rfl⟩

section
variable {s : State} {c : Fin 32} {ctx : BitVec 12} {vpn : BitVec 52} {w : Walk} {rest : List Walk}

theorem walks_walkBase (n v : Nat) : ((walkBase s c.val n v rest).cluster c.val).walks = rest ++ (s.cluster c.val).walks.drop 16 := by
  rw [walkBase, (sameWalks_walkRead _ _ _ _).walks, State.cluster_setCluster, if_pos rfl]

theorem recs_walkBase (n v : Nat) : (walkBase s c.val n v rest).mem.recs = s.mem.recs := (sameWalks_walkRead _ _ _ _).recs

/-- A walk that finds a leaf (R313, R316). -/
theorem exec_pageWalk_leaf {level off : Nat} {e : W64} (h : WalkReady s c.val ctx.toNat vpn.toNat w rest)
    (hres : walk (walkBase s c.val ctx.toNat vpn.toNat rest) c.val ctx.toNat vpn.toNat = .leaf level e off) :
    exec (.pageWalk c ctx vpn) s = .next (((stillWaits (walkBase s c.val ctx.toNat vpn.toNat rest) ctx.toNat vpn.toNat w).map Prod.fst).foldl
      (fun u y => walkFound u c.val vpn.toNat
        (mergedEntry (walkDone s c.val ctx.toNat vpn.toNat rest) ctx.toNat level off vpn.toNat e) y)
      (fillL2Tlb (walkDone s c.val ctx.toNat vpn.toNat rest) c.val
        (mergedEntry (walkDone s c.val ctx.toNat vpn.toNat rest) ctx.toNat level off vpn.toNat e))) := by
  obtain ⟨htake, hmiss⟩ := h
  rw [show exec (.pageWalk c ctx vpn) s = execPageWalk c ctx vpn s from rfl]
  rw [walkBase] at hres
  simp only [execPageWalk, htake, hmiss, hres]
  rfl

/-- The DMA commands of a walk keep how the page fails (R235). -/
def dmaTold (s : State) (v : Nat) (all : List Walker) (f : PageFail) : State := all.foldl (fun u y => tellDma u v (.inr f) y) s

/-- A walk that finds V = 0 (R313, R319). -/
theorem exec_pageWalk_invalid {level : Nat} (h : WalkReady s c.val ctx.toNat vpn.toNat w rest)
    (hres : walk (walkBase s c.val ctx.toNat vpn.toNat rest) c.val ctx.toNat vpn.toNat = .invalid level) :
    exec (.pageWalk c ctx vpn) s = .next
      (((stillWaits (walkBase s c.val ctx.toNat vpn.toNat rest) ctx.toNat vpn.toNat w).filter (fun y => isFace y.1)).foldl
        (faultAndPark ctx.toNat vpn.toNat level)
        (dmaTold (walkDone s c.val ctx.toNat vpn.toNat rest) vpn.toNat
          ((stillWaits (walkBase s c.val ctx.toNat vpn.toNat rest) ctx.toNat vpn.toNat w).map Prod.fst) (.unmapped level))) := by
  obtain ⟨htake, hmiss⟩ := h
  rw [show exec (.pageWalk c ctx vpn) s = execPageWalk c ctx vpn s from rfl]
  rw [walkBase] at hres
  have hface : (fun y : Walker × Nat × W64 => isFace y.1) = (fun y => !(match y.1 with | .dma _ _ => true | _ => false)) := by
    funext y
    obtain ⟨w, r⟩ := y
    cases w <;> rfl
  simp only [execPageWalk, htake, hmiss, hres, hface]
  rfl

/-- A walk that lacks a line asks for it (R312). -/
theorem exec_pageWalk_asks {line mask : Nat}
    (htake : takeFirst (fun t => t.ctx == ctx.toNat && t.vpn == vpn.toNat) ((s.cluster c.val).walks.take 16) = some (w, rest))
    (hmiss : walkMiss s c.val ctx.toNat vpn.toNat = some (line, mask)) (hopen : ∀ o ∈ (s.cluster c.val).open_, o.1 ≠ line)
    (hcredit : hasCredit s line c.val = true) :
    exec (.pageWalk c ctx vpn) s = .next (sendMsg (s.setCluster c.val { s.cluster c.val with open_ := (s.cluster c.val).open_ ++
      [(line, if l2Owns s c.val line then .sf else .rdS, mask)] })
      { Msg.bare (.req (if l2Owns s c.val line then .sf else .rdS)) (agentL2 c.val) line with mask := mask }) := by
  have hany : (s.cluster c.val).open_.any (fun o => o.1 == line) = false := by
    rw [List.any_eq_false]
    exact fun o ho => by simpa using hopen o ho
  rw [show exec (.pageWalk c ctx vpn) s = execPageWalk c ctx vpn s from rfl]
  simp only [execPageWalk, htake, hmiss, walkAsk, hany, hcredit, Bool.not_true, Bool.or_self, Bool.false_eq_true, if_false]

theorem l2tlb_fill (u : State) (d : Nat) (e : TlbEnt) : ∃ p, tfind ((fillL2Tlb u d e).cluster d).tlb.ents p = some e := by
  simp only [fillL2Tlb, State.cluster_setCluster, if_true]
  exact Tlb.put_has _ _ _ _ e

theorem leafCompletes {level off : Nat} {e : W64} (h : WalkReady s c.val ctx.toNat vpn.toNat w rest)
    (hres : walk (walkBase s c.val ctx.toNat vpn.toNat rest) c.val ctx.toNat vpn.toNat = .leaf level e off) :
    ∃ t p x, exec (.pageWalk c ctx vpn) s = .next t ∧ (t.cluster c.val).walks = rest ++ (s.cluster c.val).walks.drop 16 ∧
      x = mergedEntry (walkBase s c.val ctx.toNat vpn.toNat rest) ctx.toNat level off vpn.toNat e ∧
      tfind (t.cluster c.val).tlb.ents p = some x ∧
      ∀ y ∈ w.who, waitsHere (walkBase s c.val ctx.toNat vpn.toNat rest) ctx.toNat vpn.toNat y.1 = true → Translated t x y.1 := by
  have hdone := walkCached_walkDone s c.val ctx.toNat vpn.toNat rest
  have hexec := exec_pageWalk_leaf h hres
  rw [hdone.merged] at hexec
  generalize mergedEntry (walkBase s c.val ctx.toNat vpn.toNat rest) ctx.toNat level off vpn.toNat e = x at *
  generalize hu : fillL2Tlb (walkDone s c.val ctx.toNat vpn.toNat rest) c.val x = u at *
  generalize hall : (stillWaits (walkBase s c.val ctx.toNat vpn.toNat rest) ctx.toNat vpn.toNat w).map Prod.fst = all at *
  obtain ⟨p, hp⟩ := l2tlb_fill (walkDone s c.val ctx.toNat vpn.toNat rest) c.val x
  rw [hu] at hp
  have hwalks : SameWalks (walkBase s c.val ctx.toNat vpn.toNat rest) u := by
    rw [← hu]
    exact hdone.same.trans (sameWalks_setCluster _ _ rfl)
  have hcores : u.cores = (walkBase s c.val ctx.toNat vpn.toNat rest).cores := by
    rw [← hu]
    exact hdone.cores
  refine ⟨_, p, x, hexec, ?_, rfl, ?_, fun y hy hwait => ?_⟩
  · rw [(sameWalks_foldl (fun u y => sameWalks_walkFound u c.val vpn.toNat x y) all u).walks, hwalks.walks, walks_walkBase]
  · refine foldl_keeps (P := fun t : State => tfind (t.cluster c.val).tlb.ents p = some x) (fun t y ht => ?_) all hp
    rw [l2tlb_walkFound]
    exact ht
  · refine translated_foldl c.val vpn.toNat x ?_ (fun k r hy' => ?_)
    · rw [← hall, stillWaits]
      exact List.mem_map_of_mem (List.mem_filter.2 ⟨hy, hwait⟩)
    · rw [waitOf_of_cores hcores]
      rw [hy'] at hwait
      exact waitOf_of_waitsHere hwait

theorem sameWalks_dmaTold (u : State) (v : Nat) (all : List Walker) (f : PageFail) : SameWalks u (dmaTold u v all f) :=
  sameWalks_foldl (fun u y => by cases y <;> exact ⟨rfl, fun _ => rfl⟩) all u

theorem invalidCompletes {level : Nat} (h : WalkReady s c.val ctx.toNat vpn.toNat w rest)
    (hres : walk (walkBase s c.val ctx.toNat vpn.toNat rest) c.val ctx.toNat vpn.toNat = .invalid level) :
    ∃ t, exec (.pageWalk c ctx vpn) s = .next t ∧ (t.cluster c.val).walks = rest ++ (s.cluster c.val).walks.drop 16 ∧
      (∀ y ∈ w.who, waitsHere (walkBase s c.val ctx.toNat vpn.toNat rest) ctx.toNat vpn.toNat y.1 = true → ParkedAt t vpn.toNat y.1) ∧
      (s.mem.recs.length < 256 → (∃ k r b, (Walker.face k r, b) ∈ w.who ∧
        waitsHere (walkBase s c.val ctx.toNat vpn.toNat rest) ctx.toNat vpn.toNat (.face k r) = true) →
        t.mem.recs.any (fun r => r.ctx == ctx.toNat && r.vpn == vpn.toNat) = true) := by
  have hsame : SameWalks (walkBase s c.val ctx.toNat vpn.toNat rest) (dmaTold (walkDone s c.val ctx.toNat vpn.toNat rest) vpn.toNat
      ((stillWaits (walkBase s c.val ctx.toNat vpn.toNat rest) ctx.toNat vpn.toNat w).map Prod.fst) (.unmapped level)) :=
    (walkCached_walkDone s c.val ctx.toNat vpn.toNat rest).same.trans (sameWalks_dmaTold _ _ _ _)
  have hmem : ∀ y ∈ w.who, waitsHere (walkBase s c.val ctx.toNat vpn.toNat rest) ctx.toNat vpn.toNat y.1 = true → isFace y.1 = true →
      y ∈ (stillWaits (walkBase s c.val ctx.toNat vpn.toNat rest) ctx.toNat vpn.toNat w).filter (fun y => isFace y.1) :=
    fun y hy hwait hface => List.mem_filter.2 ⟨List.mem_filter.2 ⟨hy, hwait⟩, hface⟩
  refine ⟨_, exec_pageWalk_invalid h hres, ?_, fun y hy hwait => ?_, fun hroom hface => ?_⟩
  · rw [show ∀ (t u : State), t.mem.clusters = u.mem.clusters → t.cluster c.val = u.cluster c.val from
      fun t u h => by rw [State.cluster, State.cluster, h], hsame.walks, walks_walkBase]
    exact clusters_foldl _ _ _ _ _
  · cases hw : y.1 with
    | dma k seq => trivial
    | face k r =>
      rw [← hw]
      exact parked_foldl _ _ _ (hmem y hy hwait (by rw [hw]; rfl))
  · obtain ⟨k, r, b, hin, hwait⟩ := hface
    refine hasRec_foldl _ _ _ (List.ne_nil_of_mem (hmem _ hin hwait rfl)) ?_
    rw [hsame.recs, recs_walkBase]
    exact hroom

theorem pageWalk_completes (c : Fin 32) (ctx : BitVec 12) (vpn : BitVec 52) (s : State) : ∃ t, exec (.pageWalk c ctx vpn) s = .next t := by
  rw [show exec (.pageWalk c ctx vpn) s = execPageWalk c ctx vpn s from rfl]
  simp only [execPageWalk]
  split
  · exact ⟨_, rfl⟩
  · split
    · exact ⟨_, rfl⟩
    · split <;> exact ⟨_, rfl⟩

end

end Sys2Proof.Machine

open Sys2Proof Sys2Proof.Machine

/-- Settles O39: a walk asks, gives its requesters the leaf's entry, or parks them on a record. -/
theorem pageWalkCompletes : Obligations.PageWalkCompletes :=
  ⟨pageWalk_completes, fun _ _ _ _ _ _ _ _ _ h hres => leafCompletes h hres, fun _ _ _ _ _ _ _ h hres => invalidCompletes h hres,
    fun _ _ _ _ _ _ _ _ htake hmiss hopen hcredit => exec_pageWalk_asks htake hmiss hopen hcredit⟩

end

section
namespace Sys2Proof.Machine

/-! Translation commands (R321 to R323). -/

section
variable {f : Byte} {cmd : List W64} {s : State}

theorem goodRange_iff (base len : Nat) : GoodRange base len ↔
    ¬ (base % 4096 ≠ 0 ∨ len = 0 ∨ len % 4096 ≠ 0 ∨
      (!(decide (base + len ≤ 2 ^ 47) || (decide (2 ^ 64 - 2 ^ 47 ≤ base) && decide (base + len ≤ 2 ^ 64)))) = true) := by
  simp only [GoodRange, Bool.not_eq_true', Bool.or_eq_false_iff, Bool.and_eq_false_iff, decide_eq_false_iff_not]
  omega

theorem execInvRange_good (hn : NextXlat s f) (hop : fld (cmd.headD 0) 63 56 = 1) (hst : xlatCheck (xlatTake s f.toNat) f.toNat cmd false = 0) :
    (GoodRange (cmd.getD 1 0).toNat (cmd.getD 2 0).toNat →
      execInvRange f cmd s = .next (invalidate (xlatTake s f.toNat) f.toNat (fld (cmd.headD 0) 55 44) ((cmd.getD 1 0).toNat / 4096)
        (((cmd.getD 1 0).toNat + (cmd.getD 2 0).toNat) / 4096) ((cmd.headD 0).setWidth 32))) ∧
    (¬ GoodRange (cmd.getD 1 0).toNat (cmd.getD 2 0).toNat →
      execInvRange f cmd s = .next (xlatDone (xlatTake s f.toNat) f.toNat 3 0 0 ((cmd.headD 0).setWidth 32))) := by
  rw [NextXlat] at hn
  have h1 : (1 == 2) = false := rfl
  have h2 : (1 == 3) = false := rfl
  have h3 : (1 != 1) = false := rfl
  refine ⟨fun hg => ?_, fun hg => ?_⟩
  · rw [goodRange_iff] at hg
    simp only [execInvRange, hn, hop, h1, h2, h3, hst, Bool.not_true, Bool.or_self, Bool.false_eq_true, if_false, if_neg hg]
  · rw [goodRange_iff, Classical.not_not] at hg
    simp only [execInvRange, hn, hop, h1, h2, h3, hst, Bool.not_true, Bool.or_self, Bool.false_eq_true, if_false, if_pos hg]

theorem execInvRange_refused {op st : Nat} (hn : NextXlat s f) (hop : fld (cmd.headD 0) 63 56 = op) (h2 : op ≠ 2) (h3 : op ≠ 3)
    (hst : xlatCheck (xlatTake s f.toNat) f.toNat cmd (op != 1) = st) (hne : st ≠ 0) :
    execInvRange f cmd s = .next (xlatDone (xlatTake s f.toNat) f.toNat st 0 0 ((cmd.headD 0).setWidth 32)) := by
  rw [NextXlat] at hn
  simp only [execInvRange, hn, hop, beq_eq_false_iff_ne.2 h2, beq_eq_false_iff_ne.2 h3, hst, Bool.not_true, Bool.or_self, Bool.false_eq_true,
    if_false]

theorem execInvCtx_cases {st : Nat} (hn : NextXlat s f) (hop : fld (cmd.headD 0) 63 56 = 2)
    (hst : xlatCheck (xlatTake s f.toNat) f.toNat cmd (cmd.getD 1 0 != 0 || cmd.getD 2 0 != 0) = st) :
    (st = 0 → execInvCtx f cmd s = .next (invalidate (xlatTake s f.toNat) f.toNat (fld (cmd.headD 0) 55 44) 0 (2 ^ 52)
      ((cmd.headD 0).setWidth 32))) ∧
    (st ≠ 0 → execInvCtx f cmd s = .next (xlatDone (xlatTake s f.toNat) f.toNat st 0 0 ((cmd.headD 0).setWidth 32))) := by
  rw [NextXlat] at hn
  have h2 : (2 != 2) = false := rfl
  refine ⟨fun h => ?_, fun h => ?_⟩
  · rw [h] at hst
    simp only [execInvCtx, hn, hop, h2, hst, Bool.not_true, Bool.or_self, Bool.false_eq_true, if_false]
  · simp only [execInvCtx, hn, hop, h2, hst, Bool.not_true, Bool.or_self, Bool.false_eq_true, if_false]

theorem execResolve_record {r : FaultRec} (hn : NextXlat s f) (hop : fld (cmd.headD 0) 63 56 = 3)
    (hst : xlatCheck (xlatTake s f.toNat) f.toNat cmd (fld (cmd.getD 1 0) 63 17 != 0 || cmd.getD 2 0 != 0) = 0)
    (hr : s.mem.recs.find? (fun r => r.id == fld (cmd.getD 1 0) 15 0 && r.ctx == fld (cmd.headD 0) 55 44) = some r) :
    execResolve f cmd s = .next (xlatDone (if bit (cmd.getD 1 0) 16 then
        declareInvalid (closeRecords (xlatTake s f.toNat) (fun x => x.id == r.id)) (fld (cmd.headD 0) 55 44) r
      else wakePage (closeRecords (xlatTake s f.toNat) (fun x => x.id == r.id)) (fld (cmd.headD 0) 55 44) r.vpn)
      f.toNat 0 r.joins r.access ((cmd.headD 0).setWidth 32)) := by
  rw [NextXlat] at hn
  have h3 : (3 != 3) = false := rfl
  have hr' : (xlatTake s f.toNat).mem.recs.find? (fun r => r.id == fld (cmd.getD 1 0) 15 0 && r.ctx == fld (cmd.headD 0) 55 44) = some r := hr
  simp only [execResolve, hn, hop, h3, hst, hr', Bool.not_true, Bool.or_self, Bool.false_eq_true, if_false]

theorem execResolve_refused {st : Nat} (hn : NextXlat s f) (hop : fld (cmd.headD 0) 63 56 = 3)
    (hst : xlatCheck (xlatTake s f.toNat) f.toNat cmd (fld (cmd.getD 1 0) 63 17 != 0 || cmd.getD 2 0 != 0) = st)
    (h : st ≠ 0 ∨ s.mem.recs.find? (fun r => r.id == fld (cmd.getD 1 0) 15 0 && r.ctx == fld (cmd.headD 0) 55 44) = none) :
    execResolve f cmd s =
      .next (xlatDone (xlatTake s f.toNat) f.toNat (if st = 0 then 4 else st) 0 0 ((cmd.headD 0).setWidth 32)) := by
  rw [NextXlat] at hn
  have h3 : (3 != 3) = false := rfl
  simp only [execResolve, hn, hop, h3, hst, Bool.not_true, Bool.or_self, Bool.false_eq_true, if_false]
  cases st with
  | zero =>
    have hr : (xlatTake s f.toNat).mem.recs.find? (fun r => r.id == fld (cmd.getD 1 0) 15 0 && r.ctx == fld (cmd.headD 0) 55 44) = none :=
      h.resolve_left (fun h => h rfl)
    simp only [hr, if_true]
  | succ n => rfl

theorem any_false_of {α : Type} {p : α → Bool} {l : List α} (h : ∀ x ∈ l, p x = false) : l.any p = false :=
  List.any_eq_false.2 (fun x hx => by simp [h x hx])

theorem execDrainComplete_idle {d : Drain} (hd : (s.fn f.toNat).drain = some d)
    (haccs : ∀ a ∈ d.accs, ∀ x ∈ (s.core a.1).acc, x.id ≠ a.2)
    (hcmds : ∀ a ∈ d.cmds, ∀ q ∈ (s.core a.1).dma.queue, q.seq = a.2.1 → q.tries ≠ a.2.2)
    (hwbs : ∀ t ∈ s.mem.fab, t.id ∉ d.wbs) (hlate : ∀ a ∈ d.late, ∀ w ∈ (s.core a.1).wbs, w.id ≠ a.2)
    (hhosts : ∀ a ∈ d.hosts, ∀ h ∈ (s.core a.1).hostSt, h.id ≠ a.2) :
    execInvalidationDrainComplete f s =
      .next (xlatDone (s.setFn f.toNat { s.fn f.toNat with drain := none }) f.toNat 0 0 0 d.tag) := by
  have h1 : d.accs.any (fun a => (s.core a.1).acc.any (fun x => x.id == a.2)) = false :=
    any_false_of (fun a ha => any_false_of (fun x hx => by simpa using haccs a ha x hx))
  have h2 : d.cmds.any (fun a => (s.core a.1).dma.queue.any (fun q => q.seq == a.2.1 && q.tries == a.2.2)) = false :=
    any_false_of (fun a ha => any_false_of (fun x hx => by simpa using hcmds a ha x hx))
  have h3 : s.mem.fab.any (fun t => d.wbs.contains t.id) = false := any_false_of (fun a ha => by simpa using hwbs a ha)
  have h4 : d.late.any (fun a => (s.core a.1).wbs.any (fun w => w.id == a.2)) = false :=
    any_false_of (fun a ha => any_false_of (fun x hx => by simpa using hlate a ha x hx))
  have h5 : d.hosts.any (fun a => (s.core a.1).hostSt.any (fun h => h.id == a.2)) = false :=
    any_false_of (fun a ha => any_false_of (fun x hx => by simpa using hhosts a ha x hx))
  simp only [execInvalidationDrainComplete, hd, h1, h2, h3, h4, h5, Bool.or_self, Bool.false_eq_true, if_false]

end

end Sys2Proof.Machine

open Sys2Proof Sys2Proof.Machine

/-- Settles O40: each command by its checks in the model's order. -/
theorem translationCommandsComplete : Obligations.TranslationCommandsComplete := by
  refine ⟨?_, ?_, ?_, ?_, ?_, ?_⟩
  · exact fun f cmd s hn hop hst => execInvRange_good hn hop hst
  · exact fun f cmd s op st hn hop h2 h3 hst hne => execInvRange_refused hn hop h2 h3 hst hne
  · exact fun f cmd s st hn hop hst => execInvCtx_cases hn hop hst
  · intro f cmd s r hn hop hst hr
    rw [show exec (.resolve f cmd) s = execResolve f cmd s from rfl, execResolve_record hn hop hst hr]
    exact ⟨fun hb => by rw [hb]; rfl, fun hb => by rw [hb]; rfl⟩
  · exact fun f cmd s st hn hop hst h => execResolve_refused hn hop hst h
  · exact fun f s d hd h1 h2 h3 h4 h5 => execDrainComplete_idle hd h1 h2 h3 h4 h5

end

section
namespace Sys2Proof.Machine

/-! Doorbells and registers of the host (R407 to R414). -/

section
variable {f : Byte} {v : W64} {st : Option (Fin 9)} {s : State}

theorem hostReq_taken {g : State → State} (h : hostTakes s f st = true) : hostReq s ⟨f, st⟩ g = .next (g s) := by
  simp only [hostReq, h, if_true]

theorem hostReq_not_taken {g : State → State} (h : hostTakes s f st = false) : hostReq s ⟨f, st⟩ g = .next s := by
  simp only [hostReq, h, Bool.false_eq_true, if_false]

/-- The third register of a ring that is on: the tail of one that the host writes (R412). -/
theorem fnWrite_tail {f j : Nat} (hj : j < 5) (hd : deviceRing j = none) (hon : (ringAt (s.fn f) j).on = true)
    (hv : v.toNat < (ringAt (s.fn f) j).size) :
    fnWrite s f (0x20 + 0x20 * j) v = s.setFn f (putRingAt (s.fn f) j { ringAt (s.fn f) j with tail := v.toNat }) := by
  have h8 : ¬ 0x20 + 0x20 * j = 8 := by omega
  have hin : 0x10 ≤ 0x20 + 0x20 * j ∧ 0x20 + 0x20 * j < 0xB0 := by omega
  have hdiv : (0x20 + 0x20 * j - 0x10) / 0x20 = j := by omega
  have hmod : (0x20 + 0x20 * j - 0x10) % 0x20 = 0x10 := by omega
  have hsize : ¬ (ringAt (s.fn f) j).size ≤ v.toNat := by omega
  simp only [fnWrite, if_neg h8, if_pos hin, hdiv, hmod, hon, hsize, hd, Bool.not_true, decide_false, Bool.or_self, Bool.false_eq_true,
    if_false]

/-- And the head of one that the device writes (R414). -/
theorem fnWrite_head {f j : Nat} {i : RingId} (hj : j < 5) (hd : deviceRing j = some i) (hon : (ringAt (s.fn f) j).on = true)
    (hv : v.toNat < (ringAt (s.fn f) j).size) :
    fnWrite s f (0x20 + 0x20 * j) v = pumpRing (s.setFn f (putRingAt (s.fn f) j { ringAt (s.fn f) j with head := v.toNat })) f i := by
  have h8 : ¬ 0x20 + 0x20 * j = 8 := by omega
  have hin : 0x10 ≤ 0x20 + 0x20 * j ∧ 0x20 + 0x20 * j < 0xB0 := by omega
  have hdiv : (0x20 + 0x20 * j - 0x10) / 0x20 = j := by omega
  have hmod : (0x20 + 0x20 * j - 0x10) % 0x20 = 0x10 := by omega
  have hsize : ¬ (ringAt (s.fn f) j).size ≤ v.toNat := by omega
  simp only [fnWrite, if_neg h8, if_pos hin, hdiv, hmod, hon, hsize, hd, Bool.not_true, decide_false, Bool.or_self, Bool.false_eq_true,
    if_false]

theorem doorbell_good {off size : Nat} {f : Nat} (h : GoodTail s f off size v) :
    doorbell s f off size v = if hasWork ((s.setCtx (off / 0x1000) { s.ctx (off / 0x1000) with sqTail := v.toNat }).ctx (off / 0x1000)) then
        getsWork (s.setCtx (off / 0x1000) { s.ctx (off / 0x1000) with sqTail := v.toNat }) (off / 0x1000)
      else s.setCtx (off / 0x1000) { s.ctx (off / 0x1000) with sqTail := v.toNat } := by
  obtain ⟨hoff, hsize, hfree, htd, hdead, hown, hv⟩ := h
  have hlive : ((s.ctx (off / 0x1000)).st != .free && (s.ctx (off / 0x1000)).st != .teardown && (s.ctx (off / 0x1000)).st != .dead) = true := by
    simp [hfree, htd, hdead]
  have hcond : off % 0x1000 = 0 ∧ size = 8 ∧
      ((s.ctx (off / 0x1000)).st != .free && (s.ctx (off / 0x1000)).st != .teardown && (s.ctx (off / 0x1000)).st != .dead) = true ∧
      ownsCtx s f (off / 0x1000) = true ∧ v.toNat < sqSize (s.ctx (off / 0x1000)) := ⟨hoff, hsize, hlive, hown, hv⟩
  simp only [doorbell, if_pos hcond]

theorem doorbell_bad {off size : Nat} {f : Nat} (h : ¬ GoodTail s f off size v) :
    doorbell s f off size v = s.setFn f { s.fn f with
      dropped := if (s.fn f).dropped < 0xFFFFFFFF then (s.fn f).dropped + 1 else 0xFFFFFFFF } := by
  have hcond : ¬ (off % 0x1000 = 0 ∧ size = 8 ∧
      ((s.ctx (off / 0x1000)).st != .free && (s.ctx (off / 0x1000)).st != .teardown && (s.ctx (off / 0x1000)).st != .dead) = true ∧
      ownsCtx s f (off / 0x1000) = true ∧ v.toNat < sqSize (s.ctx (off / 0x1000))) := by
    rintro ⟨hoff, hsize, hlive, hown, hv⟩
    simp only [Bool.and_eq_true, bne_iff_ne] at hlive
    exact h ⟨hoff, hsize, hlive.1.1, hlive.1.2, hlive.2, hown, hv⟩
  simp only [doorbell, if_neg hcond, holdInc]

/-- A word whose low bytes are those of `v` and whose others are those of `x`: byte `i` of `v` joins them. -/
theorem setByte_low {x y : W64} {v i : Nat} (hi : i < 8) (hy : y.toNat = x.toNat / 256 ^ i * 256 ^ i + v % 256 ^ i) :
    (setByte y i (BitVec.ofNat 8 (v / 256 ^ i))).toNat = x.toNat / 256 ^ (i + 1) * 256 ^ (i + 1) + v % 256 ^ (i + 1) := by
  have hx := x.isLt
  have hlt := y.isLt
  simp only [setByte, setFld, BitVec.toNat_ofNat]
  obtain rfl | rfl | rfl | rfl | rfl | rfl | rfl | rfl : i = 0 ∨ i = 1 ∨ i = 2 ∨ i = 3 ∨ i = 4 ∨ i = 5 ∨ i = 6 ∨ i = 7 := by omega
  all_goals
    simp only [Nat.reduceMul, Nat.reduceAdd, Nat.reduceSub, Nat.reducePow] at *
    omega

/-- All eight bytes of a word written. -/
theorem setByte_all (x v : W64) :
    (leBytes 8 v.toNat).zipIdx.foldl (fun (w : W64) e => setByte w e.2 e.1) x = v := by
  refine BitVec.eq_of_toNat_eq ?_
  have h0 : x.toNat = x.toNat / 256 ^ 0 * 256 ^ 0 + v.toNat % 256 ^ 0 := by omega
  have h := setByte_low (by omega) (setByte_low (by omega) (setByte_low (by omega) (setByte_low (by omega) (setByte_low (by omega)
    (setByte_low (by omega) (setByte_low (by omega) (setByte_low (by omega) h0)))))))
  have hx := x.isLt
  have hv := v.isLt
  simp only [leBytes, List.zipIdx_cons, List.zipIdx_nil, List.foldl_cons, List.foldl_nil, Nat.div_div_eq_div_mul]
  simp only [Nat.reduceMul, Nat.reduceAdd, Nat.reducePow, Nat.div_one] at h ⊢
  rw [h]
  omega

/-- A word of the PF's BAR0 (R410) that the host writes whole. -/
theorem mmioWrite_word (s : State) (v : W64) : mmioWrite s 8 8 v.toNat = fnWrite s 0 8 v := by
  have hw := setByte_all ((barWord s 8).getD 0) v
  have hno : ¬ (0x100000 ≤ 8 ∧ 8 < 0x200000) := by omega
  have hlow : (8 : Nat) < 0x1000 := by omega
  have hrange : List.range ((8 % 8 + 8 + 7) / 8) = [0] := by decide
  simp only [leBytes, List.zipIdx_cons, List.zipIdx_nil, List.foldl_cons, List.foldl_nil] at hw
  simp only [mmioWrite, if_neg hno, hrange, leBytes, List.zipIdx_cons, List.zipIdx_nil, List.foldl_cons, List.foldl_nil]
  simp only [Nat.reduceMul, Nat.reduceAdd, Nat.reduceDiv, Nat.reduceSub, Nat.reduceLeDiff, Nat.reduceLT, and_self, if_true] at hw ⊢
  rw [hw, barPut, if_pos hlow]

theorem registerWrite_window (s : State) (f : Byte) (v : W64) :
    registerWrite s f v (.bar0 8) = s.setFn f.toNat { s.fn f.toNat with win := v &&& 0xFFFFFF0000000001#64 } := by
  have hlt : (8 : BitVec 26).toNat < 0x1000 := by decide
  have h8 : (8 : BitVec 26).toNat = 8 := rfl
  simp only [registerWrite]
  split
  next hf =>
    rw [h8, mmioWrite_word, hf]
    simp only [fnWrite, if_true]
    rfl
  next hf =>
    rw [h8]
    simp only [fnWrite, if_true]

/-! Each command of a request that the device serves. -/

theorem exec_xlatDoorbell (h : hostTakes s f st = true) :
    exec (.translationCommandDoorbell ⟨f, st⟩ v) s = .next (fnWrite s f.toNat (0x20 + 0x20 * 2) v) :=
  hostReq_taken (g := fun s => fnWrite s f.toNat 0x60 v) h

theorem exec_adminDoorbell (h : hostTakes s f st = true) :
    exec (.adminSubmissionDoorbell ⟨f, st⟩ v) s = .next (fnWrite s f.toNat (0x20 + 0x20 * 0) v) :=
  hostReq_taken (g := fun s => fnWrite s f.toNat 0x20 v) h

theorem exec_adminHead (h : hostTakes s f st = true) :
    exec (.completionHeadDoorbell ⟨f, st⟩ 0 v) s = .next (fnWrite s f.toNat (0x20 + 0x20 * 1) v) :=
  hostReq_taken (g := fun s => fnWrite s f.toNat 0x40 v) h

theorem exec_xlatHead (h : hostTakes s f st = true) :
    exec (.completionHeadDoorbell ⟨f, st⟩ 1 v) s = .next (fnWrite s f.toNat (0x20 + 0x20 * 3) v) :=
  hostReq_taken (g := fun s => fnWrite s f.toNat 0x80 v) h

theorem exec_faultHead (h : hostTakes s f st = true) :
    exec (.completionHeadDoorbell ⟨f, st⟩ 2 v) s = .next (fnWrite s f.toNat (0x20 + 0x20 * 4) v) :=
  hostReq_taken (g := fun s => fnWrite s f.toNat 0xA0 v) h

theorem exec_submissionDoorbell {off : BitVec 24} {size : Nat} (h : hostTakes s f st = true) :
    exec (.submissionDoorbell ⟨f, st⟩ off size v) s = .next (doorbell s f.toNat off.toNat size v) :=
  hostReq_taken (g := fun s => doorbell s f.toNat off.toNat size v) h

theorem exec_registerWrite_bar0 {off : BitVec 26} (h : hostTakes s f st = true) :
    exec (.registerWrite ⟨f, st⟩ (.bar0 off) v) s = .next (registerWrite s f v (.bar0 off)) :=
  hostReq_taken (g := fun s => registerWrite s f v (.bar0 off)) h

end

end Sys2Proof.Machine

open Sys2Proof Sys2Proof.Machine

/-- Settles O42: a served request writes the ring's index or the register; another changes nothing. -/
theorem doorbellsComplete : Obligations.DoorbellsComplete := by
  refine ⟨?_, ?_, ?_, ?_, ?_, ?_⟩
  · intro f v st s ht hon hv
    refine ⟨_, exec_xlatDoorbell ht, ?_⟩
    rw [fnWrite_tail (j := 2) (by omega) rfl hon hv]
    simp [putRingAt, ringAt]
  · intro f v st s ht hon hv
    refine ⟨_, exec_adminDoorbell ht, ?_⟩
    rw [fnWrite_tail (j := 0) (by omega) rfl hon hv]
    simp [putRingAt, ringAt]
  · intro e he f v st s ht hon hv
    obtain _ | ⟨_, he⟩ := he
    · rw [exec_adminHead ht, fnWrite_head (j := 1) (by omega) rfl hon hv]
      rfl
    obtain _ | ⟨_, he⟩ := he
    · rw [exec_xlatHead ht, fnWrite_head (j := 3) (by omega) rfl hon hv]
      rfl
    obtain _ | ⟨_, he⟩ := he
    · rw [exec_faultHead ht, fnWrite_head (j := 4) (by omega) rfl hon hv]
      rfl
    nomatch he
  · intro f off size v st s u ht hg hu
    rw [exec_submissionDoorbell ht, doorbell_good hg, ← hu]
    exact ⟨fun hw => by rw [hw]; rfl, fun hw => by rw [hw]; rfl⟩
  · intro f v st s ht
    refine ⟨_, exec_registerWrite_bar0 ht, ?_⟩
    rw [registerWrite_window]
    simp
  · intro f off size e r v st s ht
    refine ⟨?_, ?_, ?_, ?_, ?_⟩
    · exact hostReq_not_taken (g := fun s => fnWrite s f.toNat 0x60 v) ht
    · exact hostReq_not_taken (g := fun s => fnWrite s f.toNat 0x20 v) ht
    · rw [show exec (.completionHeadDoorbell ⟨f, st⟩ e v) s = execCompletionHeadDoorbell ⟨f, st⟩ e v s from rfl]
      simp only [execCompletionHeadDoorbell, hostReq_not_taken ht]
    · exact hostReq_not_taken (g := fun s => doorbell s f.toNat off.toNat size v) ht
    · exact hostReq_not_taken (g := fun s => registerWrite s f v (.bar0 r)) ht

/-- Settles O43: a write that is no good tail only counts. -/
theorem badDoorbellIsCounted : Obligations.BadDoorbellIsCounted := by
  intro f off size v st s ht hbad
  rw [exec_submissionDoorbell ht, doorbell_bad hbad]

end

section
/-!
The fabric: ports, packets, flits and the beacon (13, 14; O44 to O47).
-/
namespace Sys2Proof.Machine

/-! What events, the trace and the upstream leave of a port, and what a change of a port's state does to it (R333, R351, R352). -/

@[simp] theorem fab_emit (s : State) (b kind unit ctx info : Nat) (a0 a1 : W64) : (s.emit b kind unit ctx info a0 a1).fab = s.fab := by
  obtain ⟨g, h⟩ := emit_frame s b kind unit ctx info a0 a1
  rw [h]

@[simp] theorem port_emit (s : State) (b kind unit ctx info : Nat) (a0 a1 : W64) (q : Nat) :
    (s.emit b kind unit ctx info a0 a1).port q = s.port q := by
  simp only [State.port, fab_emit]

@[simp] theorem fab_stamp (s : State) : s.stamp.2.fab = s.fab := by
  simp only [State.stamp, State.bumpHub, State.bump]

@[simp] theorem port_updPort (s : State) (p q : Nat) (f : Port → Port) :
    (s.updPort p f).port q = if q = p then f (s.port p) else s.port q := by
  simp [State.updPort]

theorem ports_postRec (s : State) (e : EventRec) : (postRec s e).fab.ports = s.fab.ports := by
  simp only [postRec, keepEvent]
  (repeat' split) <;> rfl

@[simp] theorem port_postEvent (s : State) (kind p st peer : Nat) (w2 w3 : W64) (q : Nat) :
    (postEvent s kind p st peer w2 w3).port q = s.port q := by
  simp only [postEvent, State.port, ports_postRec, fab_stamp]

@[simp] theorem port_portEvent (s : State) (kind p : Nat) (w2 : W64) (q : Nat) : (portEvent s kind p w2).port q = s.port q :=
  port_postEvent ..

theorem fab_loseUpstream (s : State) : (loseUpstream s).fab = s.fab := by
  simp only [loseUpstream]
  split
  · rfl
  · rfl
  · (repeat' split) <;> rfl

@[simp] theorem port_upstreamLeft (s : State) (p q : Nat) : (upstreamLeft s p).port q = s.port q := by
  simp only [upstreamLeft]
  split
  · simp only [State.port, fab_loseUpstream]
  · rfl

/-- A port's change of state is that of `portEnters`; the trace leaves it. -/
@[simp] theorem port_enterPort (s : State) (p : Nat) (st : PortState) (q : Nat) : (enterPort s p st).port q = (portEnters s p st).port q := by
  simp only [enterPort]
  split
  · rfl
  · exact port_emit ..

/-- A peer that is learnt (R333). -/
theorem port_learnPeer (s : State) (p : Nat) (h : Hello) : (learnPeer s p h).port p = { s.port p with
    peerPort := h.port.val, peerValid := h.node != 0xFFFFF#20, peerNode := h.node, peerDigest := some h.digest } := by
  simp only [learnPeer]
  refine foldl_keeps (P := fun u : State => u.port p = { s.port p with
    peerPort := h.port.val, peerValid := h.node != 0xFFFFF#20, peerNode := h.node, peerDigest := some h.digest })
    (fun u q hu => by rw [port_postEvent, hu]) _ ?_
  split
  · (repeat' split) <;> simp
  · simp

/-- A port that stops may first end a packet that another port carries on; its own state is that of `Port.drop`, up to its link. -/
theorem port_endCut (s : State) (p q : Nat) : ∃ link, (endCut s p).port q = { s.port q with link := link } := by
  simp only [endCut]
  split
  · exact ⟨_, rfl⟩
  · simp only [port_updPort]
    split
    next hq =>
      subst hq
      split
      · (repeat' split) <;> exact ⟨_, rfl⟩
      · exact ⟨_, rfl⟩
    next hq =>
      exact ⟨_, rfl⟩

theorem drop_link (x : Port) (link : LinkLayer) (st : PortState) : ({ x with link := link } : Port).drop st = x.drop st := rfl

@[simp] theorem port_stopPort (s : State) (p : Nat) (st : PortState) : (stopPort s p st).port p = (s.port p).drop st := by
  obtain ⟨link, h⟩ := port_endCut s p p
  simp only [stopPort, port_upstreamLeft, port_updPort, if_true, h, drop_link]

section
variable {p : Fin 32} {s : State}

theorem port_enter_train : (portEnters s p .train).port p = { s.port p with st := .train, alloc := (s.port p).allocNew } := by
  simp [portEnters]

theorem port_enter_hello : (portEnters s p .hello).port p = { s.port p with st := .hello, helloLast := none, helloRun := 0 } := by
  simp [portEnters]

theorem port_enter_secure : (portEnters s p .secure).port p = { s.port p with st := .secure, link := (s.port p).link.secure } := by
  simp [portEnters]

theorem port_enter_range : (portEnters s p .range).port p = { s.port p with st := .range, samples := [] } := by
  simp [portEnters]

theorem port_enter_activeM : (portEnters s p .activeM).port p = { s.port p with st := .activeM } := by
  simp [portEnters]

theorem port_enter_active : (portEnters s p .active).port p = { s.port p with st := .active } := by
  simp [portEnters]

theorem port_enter_width : (portEnters s p .width).port p = { s.port p with
    back := if (s.port p).st = .width then (s.port p).back else (s.port p).st, st := .width
    link := { (s.port p).link with resend := if (s.port p).link.replay = [] then none else some 0 } } := by
  simp only [portEnters, port_upstreamLeft, port_portEvent, port_updPort, if_true, LinkLayer.again, List.isEmpty_iff]

theorem port_enter_disabled : (portEnters s p .disabled).port p = (s.port p).drop .disabled := by
  simp only [portEnters, port_stopPort]

/-! The commands. -/

theorem execLaneSignalDetect_starts {gs : BitVec 4} (hst : (s.port p).st = .down) (htry : (s.port p).mayTry = true) (hgs : gs ≠ 0) :
    execLaneSignalDetect p gs s = .next (enterPort (s.setPort p { s.port p with groups := gs }) p .train) := by
  simp only [execLaneSignalDetect, if_pos (show (s.port p).st = .down ∧ (s.port p).mayTry = true ∧ gs ≠ 0 from ⟨hst, htry, hgs⟩)]

theorem execTrainComplete_agrees {gs : BitVec 4} {w : BitVec 2} (hst : (s.port p).st = .train) (hw : agreedWidth (s.port p) gs w.toNat ≠ 0) :
    execTrainComplete p gs w s = .next (enterPort (s.setPort p { s.port p with
      groups := gs, width := BitVec.ofNat 2 (agreedWidth (s.port p) gs w.toNat) }) p .hello) := by
  have hno : ¬ ((s.port p).st ≠ .train ∨ agreedWidth (s.port p) gs w.toNat = 0) := by
    rintro (h | h)
    · exact h hst
    · exact hw h
  simp only [execTrainComplete, if_neg hno]

theorem execHelloFrame_hello {h : Hello} {n : Nat} (hst : (s.port p).st = .hello)
    (hn : n = if (s.port p).helloLast = some h then (s.port p).helloRun + 1 else 1) :
    execHelloFrame p h s = .next (if 3 ≤ n then
        enterPort (learnPeer (s.setPort p { s.port p with helloLast := some h, helloRun := n }) p h) p .secure
      else s.setPort p { s.port p with helloLast := some h, helloRun := n }) := by
  have hno : ¬ ((s.port p).st ≠ .hello) := fun h => h hst
  rw [hn]
  simp only [execHelloFrame, if_neg hno]

theorem execSecureComplete_agrees {peer : BitVec 256} (hp : (s.port p).peerDigest = some peer) (ha : secureAgreed s p = true) :
    execSecureComplete p peer s = .next ((enterPort s p .range).updPort p (fun x => { x with link := { x.link with keyed := true } })) := by
  simp [execSecureComplete, hp, ha]

theorem takeCipher_prk {dig ours theirs : BitVec 256} (hdig : (s.port p).peerDigest = some dig)
    (ht : theirs = Config.kemDecaps kemSeed (bytesOf (((s.port p).link.heard.drop bundleUnits).take cipherUnits))) :
    ((takeCipher s p ours).port p).link.prk = digOf (hkdfExtract
      (if s.sec.digest.toNat < dig.toNat then digBytes s.sec.digest ++ digBytes dig else digBytes dig ++ digBytes s.sec.digest)
      (if s.sec.digest.toNat < dig.toNat then digBytes ours ++ digBytes theirs else digBytes theirs ++ digBytes ours)) := by
  have hprk : ((takeCipher s p ours).port p).link.prk = linkPrk s dig ours theirs := by
    rw [ht]
    simp only [takeCipher, State.port_setPort, if_true, hdig, Option.getD_some]
  rw [hprk]
  by_cases h : s.sec.digest.toNat < dig.toNat
  · have hl : lowEnd s dig = true := by simpa [lowEnd] using h
    simp only [linkPrk, hl, if_true, if_pos h]
  · have hl : lowEnd s dig = false := by simpa [lowEnd] using h
    simp only [linkPrk, hl, Bool.false_eq_true, if_false, if_neg h]

theorem execRangeComplete_range {rtt : W32} (hst : (s.port p).st = .range) :
    execRangeComplete p rtt s = .next (enterPort (s.setPort p { s.port p with
      hop := hopOf rtt.toNat
      link := { (s.port p).link with credits := (s.port p).alloc.zipIdx.map (fun e => (e.2, e.1)) } }) p .activeM) := by
  have hno : ¬ ((s.port p).st ≠ .range) := fun h => h hst
  simp only [execRangeComplete, if_neg hno]

theorem execPortStateTimeout_bringUp (hst : (s.port p).st ∈ [PortState.train, .hello, .secure, .range]) :
    execPortStateTimeout p s = .next (bringUpFails s p) := by
  simp only [List.mem_cons, List.not_mem_nil, or_false] at hst
  rcases hst with h | h | h | h <;> simp only [execPortStateTimeout, h]

theorem bringUpFails_fault (h : ∀ r ∈ s.rel.running, r.dom = .port → r.unit ≠ p.val) :
    bringUpFails s p = (portFault s p .down).updPort p (fun x => { x with mayTry := false }) := by
  have hany : s.rel.running.any (fun r => r.dom == .port && r.unit == p.val) = false :=
    any_false_of (fun r hr => by simpa using h r hr)
  simp only [bringUpFails, hany, Bool.false_eq_true, if_false]

theorem bringUpFails_recovering (h : ∃ r ∈ s.rel.running, r.dom = .port ∧ r.unit = p.val) :
    bringUpFails s p = (enterPort s p .down).updPort p (fun x => { x with mayTry := false }) := by
  have hany : s.rel.running.any (fun r => r.dom == .port && r.unit == p.val) = true := by
    obtain ⟨r, hr, hd, hu⟩ := h
    exact List.any_eq_true.2 ⟨r, hr, by simp [hd, hu]⟩
  simp only [bringUpFails, hany, if_true]

theorem execLaneGroupLoss_lit {g : Fin 4} (hg : bit (s.port p).groups g = true) :
    execLaneGroupLoss p g s = .next (if (s.port p).st ∈ [PortState.activeM, .active, .width] then
        (if setBit (s.port p).groups g false = 0 then lastGroup s p g else narrow s p g)
      else s.setPort p { s.port p with groups := setBit (s.port p).groups g false }) := by
  simp only [execLaneGroupLoss, hg, Bool.not_true, Bool.false_eq_true, if_false]
  by_cases hlast : setBit (s.port p).groups g false = 0
  · simp only [if_pos hlast]
    cases (s.port p).st <;> rfl
  · simp only [if_neg hlast]
    cases (s.port p).st <;> rfl

theorem execWidthComplete_back (hst : (s.port p).st = .width) : execWidthComplete p s = .next (enterPort s p (s.port p).back) := by
  have hno : ¬ ((s.port p).st ≠ .width) := fun h => h hst
  simp only [execWidthComplete, if_neg hno]

theorem execLinkKeySwitch_due (hk : (s.port p).link.keyed = true) (hslots : 2 ^ 35 ≤ (s.port p).link.slots - (s.port p).link.epochAt)
    (hsym : ∀ e ∈ (s.port p).link.symbols, e.1 ≠ 4) : execLinkKeySwitch p s = .next (queueSym s p 4 0) := by
  have hany : (s.port p).link.symbols.any (fun e => e.1 == 4) = false := any_false_of (fun e he => by simpa using hsym e he)
  have hno : ¬ epochSlots (s.port p).link < 2 ^ 35 := by
    simp only [epochSlots]
    omega
  have hno' : ¬ ((!(s.port p).link.keyed) = true ∨ epochSlots (s.port p).link < 2 ^ 35 ∨
      (s.port p).link.symbols.any (fun e => e.1 == 4) = true) := by
    rw [hk, hany]
    rintro (h | h | h)
    · simp at h
    · exact hno h
    · simp at h
  simp only [execLinkKeySwitch, if_neg hno']

/-- The flit that carries a key switch begins the next epoch (R457). -/
theorem flitOut_keySwitch {h : HeldFlit} {l : LinkLayer} (hh : h.hello = none) (hs : (nextSym l).1 = some (4#3, 0#11)) :
    ((flitOut s p h l).port p).link.epochTx = l.epochTx + 1 ∧ ((flitOut s p h l).port p).link.epochAt = l.slots := by
  obtain ⟨rest, hr⟩ : ∃ rest, nextSym l = (some (4#3, 0#11), rest) := ⟨_, Prod.ext hs rfl⟩
  simp [flitOut, hh, hr]

theorem portCtrlWrite_reserved {v : W32} (h : fld v 29 28 = 0 ∨ fld v 27 0 ≠ 0) : (portCtrlWrite s p v).1 = s := by
  simp only [portCtrlWrite, if_pos h]

theorem portCtrlWrite_enabled {v : W32} (hw : fld v 29 28 ≠ 0) (hr : fld v 27 0 = 0) (hen : bit v 31 = true) :
    (portCtrlWrite s p v).1 = (if (s.port p).st = .disabled ∧ unitSt s .port p ≠ .testing then
      portFault (s.setPort p { s.port p with ctrl := v }) p .down else s.setPort p { s.port p with ctrl := v }) := by
  have hno : ¬ (fld v 29 28 = 0 ∨ fld v 27 0 ≠ 0) := by
    rintro (h | h)
    · exact hw h
    · exact h hr
  have hu : unitSt (s.setPort p { s.port p with ctrl := v }) .port p = unitSt s .port p := rfl
  simp only [portCtrlWrite, if_neg hno, hen, Bool.not_true, Bool.false_eq_true, if_false, hu]
  by_cases hst : (s.port p).st = .disabled <;> by_cases htest : unitSt s .port p = .testing <;> simp [hst, htest]

theorem portCtrlWrite_disabled {v : W32} (hw : fld v 29 28 ≠ 0) (hr : fld v 27 0 = 0) (hen : bit v 31 = false) :
    ((portCtrlWrite s p v).1.port p).st = .disabled ∧ ((s.port p).st.carries = false → ((portCtrlWrite s p v).1.port p).ctrl = v) := by
  have hno : ¬ (fld v 29 28 = 0 ∨ fld v 27 0 ≠ 0) := by
    rintro (h | h)
    · exact hw h
    · exact h hr
  have heq : (portCtrlWrite s p v).1 = if (s.port p).st = .disabled then s.setPort p { s.port p with ctrl := v } else
      enterPort (s.setPort p { s.port p with ctrl := v }) p .disabled := by
    simp only [portCtrlWrite, if_neg hno, hen, Bool.not_false, if_true]
  rw [heq]
  split
  next hst =>
    simp [hst]
  next hst =>
    rw [port_enterPort, port_enter_disabled]
    refine ⟨rfl, fun hc => ?_⟩
    simp [Port.drop, hc]

end

end Sys2Proof.Machine

open Sys2Proof Sys2Proof.Machine

/-- Settles O44: each command of a port by what it does to the port's state. -/
theorem portCommandsComplete : Obligations.PortCommandsComplete := by
  refine ⟨?_, ?_, ?_, ?_, ?_, ?_, ?_, ?_, ?_, ?_, ?_, ?_, ?_, ?_, ?_⟩
  · intro p gs s hst htry hgs
    refine ⟨_, execLaneSignalDetect_starts hst htry hgs, ?_⟩
    rw [port_enterPort, port_enter_train]
    simp
  · intro p gs w s hst hw
    refine ⟨_, execTrainComplete_agrees hst hw, ?_⟩
    rw [port_enterPort, port_enter_hello]
    simp [agreedWidth]
  · intro p h s hst hlast hrun
    refine ⟨_, execHelloFrame_hello hst rfl, ?_⟩
    rw [if_pos hlast, if_pos (by omega), port_enterPort, port_enter_secure, port_learnPeer]
    exact ⟨rfl, rfl, rfl, rfl, rfl⟩
  · intro p h s n hst hn hlt
    exact (execHelloFrame_hello hst hn).trans (by rw [if_neg (by omega)])
  · intro p peer s hp ha
    refine ⟨_, execSecureComplete_agrees hp ha, ?_⟩
    rw [port_updPort, if_pos rfl, port_enterPort, port_enter_range]
    exact ⟨rfl, rfl, rfl⟩
  · exact fun p s dig ours theirs hdig ht => takeCipher_prk hdig ht
  · intro p rtt s hst
    refine ⟨_, execRangeComplete_range hst, ?_⟩
    rw [port_enterPort, port_enter_activeM]
    simp [hopOf]
  · intro p s hst
    exact ⟨fun h => (execPortStateTimeout_bringUp hst).trans (congrArg _ (bringUpFails_fault h)),
      fun h => (execPortStateTimeout_bringUp hst).trans (congrArg _ (bringUpFails_recovering h))⟩
  · refine fun p s => ⟨fun hst => ?_, fun hst => ?_⟩
    · refine ⟨s.setPort p { s.port p with mayTry := true }, ?_, by simp⟩
      rw [show exec (.portRetry p) s = execPortRetry p s from rfl]
      simp only [execPortRetry, hst]
    · refine ⟨enterPort s p .train, ?_, ?_⟩
      · rw [show exec (.portRetry p) s = execPortRetry p s from rfl]
        simp only [execPortRetry, hst]
      · rw [port_enterPort, port_enter_train]
  · exact fun p g s hg => execLaneGroupLoss_lit hg
  · intro p s hst hback
    refine ⟨_, execWidthComplete_back hst, ?_⟩
    rw [port_enterPort]
    rcases hback with h | h
    · rw [h, port_enter_activeM]
      exact ⟨rfl, rfl⟩
    · rw [h, port_enter_active]
      exact ⟨rfl, rfl⟩
  · intro p s
    rw [port_enterPort, port_enter_width]
  · intro p s hk hslots hsym
    exact ⟨_, execLinkKeySwitch_due hk hslots hsym, by simp [queueSym]⟩
  · exact fun p h s l hh hs => flitOut_keySwitch hh hs
  · intro e he p v s
    have hexec : exec (e p v) s = .next (portCtrlWrite s p v).1 := by
      repeat obtain _ | ⟨_, he⟩ := he; · rfl
      nomatch he
    rw [hexec]
    exact ⟨fun h => congrArg _ (portCtrlWrite_reserved h), fun hw hr hen => congrArg _ (portCtrlWrite_enabled hw hr hen),
      fun hw hr hen => ⟨_, rfl, portCtrlWrite_disabled hw hr hen⟩⟩

end

section
namespace Sys2Proof.Machine

/-! Fields of words that are put together from their parts. -/

theorem fld_or {w : Nat} (x y : BitVec w) (hi lo : Nat) : fld (x ||| y) hi lo = fld x hi lo ||| fld y hi lo := by
  simp only [fld, BitVec.toNat_or, ← Nat.shiftRight_eq_div_pow, Nat.shiftRight_or_distrib, Nat.or_mod_two_pow]

/-- A part that lies above a field is no part of it. -/
theorem fld_at_above {w lo v hi k : Nat} (h : hi < k) (hlo : lo ≤ hi) (hw : hi < w) : fld (at_ k v : BitVec w) hi lo = 0 := by
  have hk : v * 2 ^ k = 2 ^ (hi + 1) * (v * 2 ^ (k - (hi + 1))) := by
    rw [Nat.mul_comm (2 ^ (hi + 1)), Nat.mul_assoc, ← Nat.pow_add]
    congr 2
    omega
  have hsplit : 2 ^ (hi + 1) = 2 ^ lo * 2 ^ (hi + 1 - lo) := by
    rw [← Nat.pow_add]
    congr 1
    omega
  have hdvd : 2 ^ (hi + 1) ∣ 2 ^ w := Nat.pow_dvd_pow 2 (by omega)
  rw [fld, at_, BitVec.toNat_ofNat, ← Nat.mod_mul_right_div_self, ← hsplit, Nat.mod_mod_of_dvd _ hdvd, hk, Nat.mul_mod_right, Nat.zero_div]

/-- A part that ends below a field is no part of it. -/
theorem fld_at_below {w lo v hi k n : Nat} (hv : v < 2 ^ n) (h : k + n ≤ lo) : fld (at_ k v : BitVec w) hi lo = 0 := by
  have hlt : v * 2 ^ k < 2 ^ lo := calc
    v * 2 ^ k < 2 ^ n * 2 ^ k := Nat.mul_lt_mul_of_pos_right hv (Nat.two_pow_pos k)
    _ = 2 ^ (k + n) := by rw [← Nat.pow_add, Nat.add_comm]
    _ ≤ 2 ^ lo := Nat.pow_le_pow_right (by omega) h
  rw [fld, at_, BitVec.toNat_ofNat, Nat.div_eq_of_lt (Nat.lt_of_le_of_lt (Nat.mod_le _ _) hlt), Nat.zero_mod]

/-- The part of a field is its value. -/
theorem fld_at_same {w lo v hi : Nat} (hv : v < 2 ^ (hi + 1 - lo)) (hlo : lo ≤ hi) (hw : hi < w) : fld (at_ lo v : BitVec w) hi lo = v := by
  have hlt : v * 2 ^ lo < 2 ^ w := calc
    v * 2 ^ lo < 2 ^ (hi + 1 - lo) * 2 ^ lo := Nat.mul_lt_mul_of_pos_right hv (Nat.two_pow_pos lo)
    _ = 2 ^ (hi + 1) := by rw [← Nat.pow_add]; congr 1; omega
    _ ≤ 2 ^ w := Nat.pow_le_pow_right (by omega) hw
  rw [fld, at_, BitVec.toNat_ofNat, Nat.mod_eq_of_lt hlt, Nat.mul_div_cancel _ (Nat.two_pow_pos lo), Nat.mod_eq_of_lt hv]

theorem fld_lt {w : Nat} (x : BitVec w) (hi lo : Nat) : fld x hi lo < 2 ^ (hi + 1 - lo) := Nat.mod_lt _ (Nat.two_pow_pos _)

/-! The answer to a remote request (R353). -/

/-- The TYPE of a header (R337). -/
theorem type_hdr0 {dst src vc tc type len : Nat} (ht : type < 64) (hl : len < 64) : fld (hdr0 dst src vc tc type len) 18 13 = type := by
  simp only [hdr0, fld_or]
  rw [fld_at_above (k := 44) (by omega) (by omega) (by omega), fld_at_above (k := 24) (by omega) (by omega) (by omega),
    fld_at_above (k := 21) (by omega) (by omega) (by omega), fld_at_above (k := 19) (by omega) (by omega) (by omega),
    fld_at_same (by omega) (by omega) (by omega), fld_at_below (n := 6) hl (by omega)]
  simp

/-- Word 3 of an answer: the number, and the status. -/
theorem respWord3 {txn mask poison status : Nat} (ht : txn < 2 ^ 16) (hm : mask < 16) (hp : poison < 16) (hs : status < 8) :
    fld (at_ 48 txn ||| at_ 44 mask ||| at_ 38 poison ||| at_ 35 status : W64) 37 35 = status ∧
      fld (at_ 48 txn ||| at_ 44 mask ||| at_ 38 poison ||| at_ 35 status : W64) 63 48 = txn := by
  constructor
  · simp only [fld_or]
    rw [fld_at_above (k := 48) (by omega) (by omega) (by omega), fld_at_above (k := 44) (by omega) (by omega) (by omega),
      fld_at_above (k := 38) (by omega) (by omega) (by omega), fld_at_same (by omega) (by omega) (by omega)]
    simp
  · simp only [fld_or]
    rw [fld_at_same (by omega) (by omega) (by omega), fld_at_below (k := 44) (n := 4) (by omega) (by omega),
      fld_at_below (k := 38) (n := 4) (by omega) (by omega), fld_at_below (k := 35) (n := 3) (by omega) (by omega)]
    simp

theorem respPacket_fields {s : State} {req : Packet} {port : Option Nat} {type status poison : Nat} {body : List W64} {st : W64}
    (ht : type < 64) (hl : body.length < 64) (hp : poison < 16) (hs : status < 8) :
    pkType (respPacket s req port type status poison body st) = type ∧ pkStatus (respPacket s req port type status poison body st) = status ∧
      pkTxn (respPacket s req port type status poison body st) = pkTxn req := by
  obtain ⟨hstatus, htxn⟩ := respWord3 (txn := pkTxn req) (mask := pkMask req) (poison := poison) (status := status)
    (fld_lt _ _ _) (fld_lt _ _ _) hp hs
  exact ⟨type_hdr0 ht hl, hstatus, htxn⟩

/-- Free units change the count of free values only. -/
theorem freeUnits_frame : ∀ (n : Nat) (s : State), (freeUnits n s).1.length = n ∧ ∃ c, (freeUnits n s).2 = { s with freeCtr := c }
  | 0, s => ⟨rfl, s.freeCtr, rfl⟩
  | n + 1, s => by
    obtain ⟨hlen, c, hc⟩ := freeUnits_frame n (s.free).2
    refine ⟨?_, c, ?_⟩
    · simp [freeUnits, hlen]
    · rw [show (freeUnits (n + 1) s).2 = (freeUnits n s.free.2).2 from rfl, hc]
      rfl

theorem sectorsOf_length (mask : Nat) : (sectorsOf mask).length ≤ 4 := by
  have := List.length_filter_le (fun q => mask / 2 ^ q % 2 == 1) (List.range 4)
  simpa [sectorsOf] using this

theorem refuseReq_answers {s : State} {p : Packet} {port : Option Nat} {status : Nat} (ht : pkType p = 1 ∨ pkType p = 3) (hs : status < 8) :
    ∃ a, (refuseReq s p port status).fab.epOut = s.fab.epOut ++ [a] ∧ pkType a = (if pkType p = 1 then 2 else 4) ∧ pkStatus a = status ∧
      pkTxn a = pkTxn p ∧ (refuseReq s p port status).mem = s.mem := by
  obtain ⟨x, g, hst⟩ := stamp_frame s
  rcases ht with ht | ht
  · obtain ⟨hlen, c, hc⟩ := freeUnits_frame (8 * (sectorsOf (pkMask p)).length) s.stamp.2
    have hl := sectorsOf_length (pkMask p)
    have heq : refuseReq s p port status = { (freeUnits (8 * (sectorsOf (pkMask p)).length) s.stamp.2).2 with fab := {
        (freeUnits (8 * (sectorsOf (pkMask p)).length) s.stamp.2).2.fab with
        epOut := (freeUnits (8 * (sectorsOf (pkMask p)).length) s.stamp.2).2.fab.epOut ++
          [respPacket (freeUnits (8 * (sectorsOf (pkMask p)).length) s.stamp.2).2 p port 2 status (pkMask p)
            (freeUnits (8 * (sectorsOf (pkMask p)).length) s.stamp.2).1 s.stamp.1] } } := by
      simp only [refuseReq, ht, if_true]
    obtain ⟨h1, h2, h3⟩ := respPacket_fields (s := (freeUnits (8 * (sectorsOf (pkMask p)).length) s.stamp.2).2) (req := p) (port := port)
      (type := 2) (st := s.stamp.1) (poison := pkMask p) (status := status)
      (body := (freeUnits (8 * (sectorsOf (pkMask p)).length) s.stamp.2).1) (by omega) (by omega) (fld_lt _ _ _) hs
    refine ⟨_, ?_, h1.trans (if_pos ht).symm, h2, h3, ?_⟩
    · rw [heq]
      simp only [hc, fab_stamp]
    · rw [heq]
      simp only [hc, stamp_mem]
  · have hne : ¬ pkType p = 1 := by omega
    obtain ⟨h1, h2, h3⟩ := respPacket_fields (s := s.stamp.2) (req := p) (port := port) (type := 4) (st := s.stamp.1) (poison := 0)
      (status := status) (body := []) (by omega) (by simp) (by omega) hs
    refine ⟨respPacket s.stamp.2 p port 4 status 0 [] s.stamp.1, ?_, h1.trans (if_neg hne).symm, h2, h3, ?_⟩
    · simp only [refuseReq, if_neg hne, fab_stamp]
    · simp only [refuseReq, if_neg hne, stamp_mem]

/-! The endpoint's packets. -/

theorem takeFirst_append {α : Type} {f : α → Bool} {x : α} {r : List α} (hx : f x = true) : ∀ {l : List α}, (∀ y ∈ l, f y = false) →
    takeFirst f (l ++ x :: r) = some (x, l ++ r)
  | [], _ => by simp [takeFirst, hx]
  | y :: l, h => by
    have hy := h y (List.mem_cons_self ..)
    have ih := takeFirst_append (r := r) hx (l := l) (fun z hz => h z (List.mem_cons_of_mem _ hz))
    simp [takeFirst, hy, ih]

theorem AtEndpoint.takeEp {s : State} {type : Nat} {p : Packet} {port : Option Nat} {l r : List (Packet × Option Nat)}
    (h : AtEndpoint s type p port l r) : takeEp s type = some (p, port, offEndpoint s l r) := by
  obtain ⟨hin, hl, hp, ht⟩ := h
  have htake : takeFirst (fun e => !fillWaits s e.1) s.fab.epIn = some ((p, port), l ++ r) := by
    rw [hin]
    exact takeFirst_append (by simp [hp]) (fun y hy => by simp [hl y hy])
  simp only [Machine.takeEp, htake, ht, if_true]
  rfl

theorem AtEndpoint.type {s : State} {type : Nat} {p : Packet} {port : Option Nat} {l r : List (Packet × Option Nat)}
    (h : AtEndpoint s type p port l r) : pkType p = type := h.2.2.2

/-- Served with a credit, or refused with the status (R338, R353). -/
theorem remoteReq_cases {s : State} {type : Nat} {p : Packet} {port : Option Nat} {l r : List (Packet × Option Nat)}
    (h : AtEndpoint s type p port l r) :
    (reqStatus s p = 0 → hasCredit s (pkOff p / 256 % 2 ^ 31) 32 = true → remoteReq s type = .next (serveReq (offEndpoint s l r) p port)) ∧
      (reqStatus s p ≠ 0 → remoteReq s type = .next (refuseReq (offEndpoint s l r) p port (reqStatus s p))) := by
  have hstatus : reqStatus (offEndpoint s l r) p = reqStatus s p := rfl
  have hcredit : hasCredit (offEndpoint s l r) (pkOff p / 256 % 2 ^ 31) 32 = hasCredit s (pkOff p / 256 % 2 ^ 31) 32 := rfl
  have htake := h.takeEp
  refine ⟨fun h0 hc => ?_, fun hne => ?_⟩
  · have hno : ¬ (0 ≠ 0) := fun h => h rfl
    simp only [remoteReq, htake, hstatus, h0, hcredit, hc, if_neg hno, if_true]
  · simp only [remoteReq, htake, hstatus, if_pos hne]

theorem reqStatus_lt (s : State) (p : Packet) : reqStatus s p < 8 := by
  simp only [reqStatus]
  (repeat' split) <;> omega

theorem serveReq_asks (s : State) (p : Packet) (port : Option Nat) :
    ∃ m, (serveReq s p port).mem.msgs = s.mem.msgs ++ [m] ∧ m.who = .hub ∧ m.line = pkOff p / 256 % 2 ^ 31 ∧ m.mask = pkMask p ∧
      m.kind = .req (if pkType p = 1 then .dmaRd else .dmaWr) ∧ (pkType p ≠ 1 → m.bytes = writeBytes p) := by
  refine ⟨_, rfl, rfl, rfl, rfl, rfl, fun h => ?_⟩
  exact if_neg h

end Sys2Proof.Machine

end

section
namespace Sys2Proof.Machine

/-! PACKET_FORWARD, the answers of other modules, time-outs, management packets and events. -/

section
variable {i : Fin 33} {vc : BitVec 3} {s : State} {p : Packet}

theorem pathFill_frame (s : State) (i : Fin 33) (p : Packet) : ∃ c, (pathFill s i p).2 = { s with freeCtr := c } := by
  simp only [pathFill]
  (repeat' split) <;> exact ⟨_, rfl⟩

@[simp] theorem fab_pathFill (s : State) (i : Fin 33) (p : Packet) : (pathFill s i p).2.fab = s.fab := by
  obtain ⟨c, h⟩ := pathFill_frame s i p
  rw [h]

@[simp] theorem port_pathFill (s : State) (i : Fin 33) (p : Packet) (q : Nat) : (pathFill s i p).2.port q = s.port q := by
  simp only [State.port, fab_pathFill]

/-- The routes of a packet, with the number that stands for the endpoint. -/
theorem packetForward_routed (hq : (inputQueue s i).find? (fun p => pkVc p == vc.toNat) = some p) :
    execPacketForward i vc s = match routeOf (pathFill s i p).2 i (pathFill s i p).1 p with
      | .endpoint => if packetLen p.w0 ≤ 4 + p.body.length then
          .next (toEndpoint (leaveInput (pathFill s i p).2 i vc.toNat) p (if i.val = 32 then none else some i.val)) else .next s
      | .drop kind => if packetLen p.w0 ≤ 4 + p.body.length then
          .next (discard (leaveInput (pathFill s i p).2 i vc.toNat) i kind p) else .next s
      | .port q k =>
        if !creditsHeld (s.port q).link k then .next (s.bumpPort 4 q vc.toNat 1)
        else if !(portOpen (s.port q) && mayBegin (pathFill s i p).2 (pathFill s i p).1 i q k) then .next s
        else if packetLen p.w0 ≤ 4 + p.body.length then .next (beginPacket (leaveInput (pathFill s i p).2 i vc.toNat) i q k)
        else .next (beginPacket (leaveArriving (pathFill s i p).2 i q p) i q k) := by
  have hfill : ((if i.val = 32 ∧ pkPathed p = true then s.free else (0, s)).1.toNat % 32,
      (if i.val = 32 ∧ pkPathed p = true then s.free else (0, s)).2) = pathFill s i p := by
    simp only [pathFill]
    (repeat' split) <;> rfl
  have h1 : (if i.val = 32 ∧ pkPathed p = true then s.free else (0, s)).1.toNat % 32 = (pathFill s i p).1 := congrArg Prod.fst hfill
  have h2 : (if i.val = 32 ∧ pkPathed p = true then s.free else (0, s)).2 = (pathFill s i p).2 := congrArg Prod.snd hfill
  simp only [execPacketForward, hq, h1, h2, port_pathFill, decide_eq_true_eq] <;> cases routeOf (pathFill s i p).2 i (pathFill s i p).1 p <;> rfl

theorem epIn_leaveInput (s : State) (j vc : Nat) : (leaveInput s j vc).fab.epIn = s.fab.epIn := by
  simp only [leaveInput]
  split
  · rfl
  · (repeat' split) <;> rfl

/-- A packet that leaves an input leaves what its ports have to send, and their credits. -/
theorem link_leaveInput (s : State) (j vc q : Nat) :
    ((leaveInput s j vc).port q).link.txUnits = (s.port q).link.txUnits ∧ ((leaveInput s j vc).port q).link.credits = (s.port q).link.credits := by
  simp only [leaveInput]
  split
  · exact ⟨rfl, rfl⟩
  · split
    · exact ⟨rfl, rfl⟩
    · simp only [port_updPort]
      split
      next hq =>
        rw [hq]
        exact ⟨rfl, rfl⟩
      next hq =>
        exact ⟨rfl, rfl⟩

theorem creditsHeld_of_mayBegin {u : State} {fill j q : Nat} {k : Packet} (h : mayBegin u fill j q k = true) :
    creditsHeld (u.port q).link k = true := by
  simp only [mayBegin, Bool.and_eq_true] at h
  exact h.1

theorem forward_endpoint (hq : (inputQueue s i).find? (fun p => pkVc p == vc.toNat) = some p)
    (hr : routeOf (pathFill s i p).2 i (pathFill s i p).1 p = .endpoint) (hw : packetLen p.w0 ≤ 4 + p.body.length) :
    ∃ t, exec (.packetForward i vc) s = .next t ∧ t.fab.epIn = s.fab.epIn ++ [(p, if i.val = 32 then none else some i.val)] := by
  refine ⟨toEndpoint (leaveInput (pathFill s i p).2 i vc.toNat) p (if i.val = 32 then none else some i.val), ?_, ?_⟩
  · rw [show exec (.packetForward i vc) s = execPacketForward i vc s from rfl, packetForward_routed hq]
    simp only [hr, if_pos hw]
  · simp only [toEndpoint, epIn_leaveInput, fab_pathFill]

theorem forward_drop {n : Nat} (hq : (inputQueue s i).find? (fun p => pkVc p == vc.toNat) = some p)
    (hr : routeOf (pathFill s i p).2 i (pathFill s i p).1 p = .drop n) (hw : packetLen p.w0 ≤ 4 + p.body.length) :
    exec (.packetForward i vc) s = .next (discard (leaveInput (pathFill s i p).2 i vc.toNat) i n p) := by
  rw [show exec (.packetForward i vc) s = execPacketForward i vc s from rfl, packetForward_routed hq]
  simp only [hr, if_pos hw]

/-- A packet that may begin begins on its port, whether all of it has arrived or not (R342). -/
theorem forward_port {q : Nat} {k : Packet} (hq : (inputQueue s i).find? (fun p => pkVc p == vc.toNat) = some p)
    (hr : routeOf (pathFill s i p).2 i (pathFill s i p).1 p = .port q k) (ho : portOpen (s.port q) = true)
    (hm : mayBegin (pathFill s i p).2 (pathFill s i p).1 i q k = true) :
    exec (.packetForward i vc) s = if packetLen p.w0 ≤ 4 + p.body.length then
        .next (beginPacket (leaveInput (pathFill s i p).2 i vc.toNat) i q k)
      else .next (beginPacket (leaveArriving (pathFill s i p).2 i q p) i q k) := by
  have hc : creditsHeld (s.port q).link k = true := by simpa using creditsHeld_of_mayBegin hm
  rw [show exec (.packetForward i vc) s = execPacketForward i vc s from rfl, packetForward_routed hq]
  simp only [hr, hc, ho, hm, Bool.not_true, Bool.and_self, Bool.false_eq_true, if_false]

theorem beginPacket_sends (u : State) (j q : Nat) (k : Packet) : ((beginPacket u j q k).port q).link.txUnits = (u.port q).link.txUnits ++ pkUnits k ∧
    tget 0 ((beginPacket u j q k).port q).link.credits (pkVc k) = tget 0 (u.port q).link.credits (pkVc k) - packetLen k.w0 := by
  simp only [beginPacket, port_updPort, if_true, tget_tput_same, and_self]

end

section
variable {s : State} {p : Packet} {port : Option Nat} {l r : List (Packet × Option Nat)}

theorem execRdRsp_ends {x : FabTxn} (h : AtEndpoint s 2 p port l r) (hx : txnOf s p = some x) (ht : pkType x.pkt = 1) :
    execRdRsp s = .next (readBack (if pkStatus p = 1 then addLoss (closeTxn (offEndpoint s l r) x.id) 1 x
        else closeTxn (offEndpoint s l r) x.id) x
      (payloadBytes (pkMask x.pkt) p.body) (if pkStatus p = 0 then pkPoison p else pkMask x.pkt)) := by
  have htake := h.takeEp
  have hx' : txnOf (offEndpoint s l r) p = some x := hx
  have hno : ¬ pkType x.pkt ≠ 1 := fun h => h ht
  simp only [execRdRsp, htake, hx', if_neg hno]

theorem execWrAck_ends {x : FabTxn} (h : AtEndpoint s 4 p port l r) (hx : txnOf s p = some x) (ht : pkType x.pkt = 3) :
    (pkStatus p = 0 → execWrAck s = .next (writeBack (closeTxn (offEndpoint s l r) x.id) x)) ∧
    (pkStatus p ≠ 0 → execWrAck s = .next (writeFailed
      (if pkStatus p = 1 then addLoss (closeTxn (offEndpoint s l r) x.id) 1 x else closeTxn (offEndpoint s l r) x.id) x 5)) := by
  have htake := h.takeEp
  have hx' : txnOf (offEndpoint s l r) p = some x := hx
  have hno : ¬ pkType x.pkt ≠ 3 := fun h => h ht
  refine ⟨fun h0 => ?_, fun h0 => ?_⟩
  · simp only [execWrAck, htake, hx', if_neg hno, if_pos h0]
  · simp only [execWrAck, htake, hx', if_neg hno, if_neg h0]

/-- An answer to no transaction is discarded. -/
theorem execRdRsp_stray (h : AtEndpoint s 2 p port l r) (hx : ∀ x, txnOf s p = some x → pkType x.pkt ≠ 1) :
    execRdRsp s = .next (offEndpoint s l r) := by
  have htake := h.takeEp
  have hsame : txnOf (offEndpoint s l r) p = txnOf s p := rfl
  cases hf : txnOf s p with
  | none => simp only [execRdRsp, htake, hsame, hf]
  | some x => simp only [execRdRsp, htake, hsame, hf, if_pos (hx x hf)]

theorem execWrAck_stray (h : AtEndpoint s 4 p port l r) (hx : ∀ x, txnOf s p = some x → pkType x.pkt ≠ 3) :
    execWrAck s = .next (offEndpoint s l r) := by
  have htake := h.takeEp
  have hsame : txnOf (offEndpoint s l r) p = txnOf s p := rfl
  cases hf : txnOf s p with
  | none => simp only [execWrAck, htake, hsame, hf]
  | some x => simp only [execWrAck, htake, hsame, hf, if_pos (hx x hf)]

/-- A request that is sent once more (R352). -/
def resent (x : FabTxn) (k : Packet) : FabTxn := { x with pkt := k, age := 0, retry := true }

/-- Its packet has the retry bit set. -/
def sentAgain (x : FabTxn) : FabTxn := resent x { x.pkt with w3 := setBit x.pkt.w3 42 true }

theorem resent_id (x : FabTxn) (k : Packet) : (resent x k).id = x.id := rfl

theorem resent_pkt (x : FabTxn) (k : Packet) : (resent x k).pkt = k := rfl

theorem mem_fabOut (u : State) (k : Packet) : (fabOut u k).mem = u.mem := by
  simp only [fabOut]
  (repeat' split) <;> rfl

theorem bit_setBit_true {w : Nat} (v : BitVec w) {c : Nat} (hc : c < w) : bit (setBit v c true) c = true := by
  have hsplit : v.toNat - v.toNat / 2 ^ c % 2 * 2 ^ c + 2 ^ c = (2 * (v.toNat / 2 ^ c / 2) + 1) * 2 ^ c + v.toNat % 2 ^ c := by
    have h := Nat.div_add_mod v.toNat (2 ^ c)
    have h2 := Nat.div_add_mod (v.toNat / 2 ^ c) 2
    have hmul : 2 ^ c * (v.toNat / 2 ^ c) = 2 * (v.toNat / 2 ^ c / 2) * 2 ^ c + v.toNat / 2 ^ c % 2 * 2 ^ c := by
      rw [← Nat.add_mul, h2, Nat.mul_comm]
    rw [Nat.add_mul]
    omega
  have hdiv : ((2 * (v.toNat / 2 ^ c / 2) + 1) * 2 ^ c + v.toNat % 2 ^ c) / 2 ^ c = 2 * (v.toNat / 2 ^ c / 2) + 1 := by
    rw [Nat.add_comm, Nat.add_mul_div_right _ _ (Nat.two_pow_pos c), Nat.div_eq_of_lt (Nat.mod_lt _ (Nat.two_pow_pos c)), Nat.zero_add]
  have hn : c + 1 - c = 1 := by omega
  have h1 : 1 % 2 * 2 ^ c = 2 ^ c := by simp
  simp only [bit, setBit, setFld, BitVec.getLsbD_ofNat, hn, Nat.pow_one, if_true, h1, hsplit, Nat.testBit_eq_decide_div_mod_eq, hdiv, hc,
    decide_true, Bool.true_and, decide_eq_true_eq]
  omega

theorem sentAgain_id (x : FabTxn) : (sentAgain x).id = x.id := resent_id x _

theorem sentAgain_bit (x : FabTxn) : bit (sentAgain x).pkt.w3 42 = true := by
  rw [sentAgain, resent_pkt]
  exact bit_setBit_true (w := 64) x.pkt.w3 (c := 42) (by decide)

/-- The transactions, each where it stands, with that of `x` sent once more. -/
def withSentAgain (s : State) (x : FabTxn) : State :=
  { s with mem := { s.mem with fab := s.mem.fab.map (fun t => if t.id = x.id then sentAgain x else t) } }

theorem sentAgain_mem {x : FabTxn} (hx : x ∈ s.mem.fab) : sentAgain x ∈ (withSentAgain s x).mem.fab :=
  List.mem_map.2 ⟨x, hx, if_pos rfl⟩

theorem exec_fabTxnTimeout_again {id : W16} {x : FabTxn} (hx : s.mem.fab.find? (fun t => t.id == id.toNat) = some x)
    (hage : s.fab.timeout ≤ x.age) (hr : x.retry = false) :
    exec (.fabTxnTimeout id) s = .next (fabOut (withSentAgain s x) (sentAgain x).pkt) := by
  have hno : ¬ x.age < s.fab.timeout := by omega
  rw [show exec (.fabTxnTimeout id) s = execFabTxnTimeout id s from rfl]
  simp only [execFabTxnTimeout, hx, if_neg hno, hr, Bool.false_eq_true, if_false, withSentAgain, sentAgain, resent]

theorem exec_fabTxnTimeout_lost {id : W16} {x : FabTxn} (hx : s.mem.fab.find? (fun t => t.id == id.toNat) = some x)
    (hage : s.fab.timeout ≤ x.age) (hr : x.retry = true) : exec (.fabTxnTimeout id) s = .next (txnLost s x) := by
  have hno : ¬ x.age < s.fab.timeout := by omega
  rw [show exec (.fabTxnTimeout id) s = execFabTxnTimeout id s from rfl]
  simp only [execFabTxnTimeout, hx, if_neg hno, hr, if_true]

theorem fabTxnTimeout_cases {id : W16} {x : FabTxn} (hx : s.mem.fab.find? (fun t => t.id == id.toNat) = some x) (hage : s.fab.timeout ≤ x.age) :
    (x.retry = false →
      ∃ t y, exec (.fabTxnTimeout id) s = .next t ∧ y ∈ t.mem.fab ∧ y.id = x.id ∧ y.retry = true ∧ y.age = 0 ∧ bit y.pkt.w3 42 = true) ∧
    (x.retry = true → exec (.fabTxnTimeout id) s = .next (txnLost s x)) := by
  refine ⟨fun hr => ⟨_, sentAgain x, exec_fabTxnTimeout_again hx hage hr, ?_, sentAgain_id x, rfl, rfl, sentAgain_bit x⟩,
    exec_fabTxnTimeout_lost hx hage⟩
  rw [mem_fabOut]
  exact sentAgain_mem (List.mem_of_find?_eq_some hx)

theorem execMgmt_request (h : AtEndpoint s 5 p port l r) :
    execMgmt s = if !fmAdmits s (mgmtReq (offEndpoint s l r) p port) || frOp (bytesOf p.body) == 4 then .next (offEndpoint s l r)
      else .next (kedalRequest (offEndpoint s l r) (mgmtReq (offEndpoint s l r) p port)) := by
  have htake := h.takeEp
  have hsender : (BitVec.ofNat 20 (pkSrc p)).setWidth 64 = BitVec.ofNat 64 (pkSrc p % 2 ^ 20) := by
    refine BitVec.eq_of_toNat_eq ?_
    simp only [BitVec.toNat_setWidth, BitVec.toNat_ofNat]
  have hadm : ∀ q, fmAdmits (offEndpoint s l r) q = fmAdmits s q := fun q => by
    simp only [fmAdmits]
    cases q.path <;> rfl
  simp only [execMgmt, htake, senderOf, hsender, mgmtReq, hadm] <;> rfl

/-- A request of the dictionary joins the queue where it has room, unless its answer is kept (R430). -/
theorem kedalRequest_queues {u : State} {q : KReq} (hk : keptResponse u q = none) (hroom : u.kedal.queue.length < 64) :
    kedalRequest u q = { u with kedal := { u.kedal with queue := u.kedal.queue ++ [q] } } := by
  have hno : ¬ 64 ≤ u.kedal.queue.length := by omega
  simp only [kedalRequest, hk, submit, if_neg hno]

theorem execEventPkt_records {a b c d : W64} {w : List W64} (h : AtEndpoint s 6 p port l r) (hb : p.body = a :: b :: c :: d :: w) :
    ∃ t, execEventPkt s = .next t ∧ t.fab.events = s.fab.events ++ [⟨a, b, c, d⟩] := by
  have htake := h.takeEp
  refine ⟨{ offEndpoint s l r with fab := { (offEndpoint s l r).fab with events := s.fab.events ++ [⟨a, b, c, d⟩] } }, ?_, rfl⟩
  simp only [execEventPkt, htake, hb]
  rfl

/-! EVENT_FLUSH: every kept event goes out, oldest first. -/

/-- The packets that leave by the endpoint, and what is kept, do not matter to a route (R344). -/
structure SameRoutes (s t : State) : Prop where
  node : t.fab.node = s.fab.node
  fmNode : t.fab.fmNode = s.fab.fmNode
  routes : t.fab.routes = s.fab.routes
  fallback : t.fab.fallback = s.fab.fallback
  ports : t.fab.ports = s.fab.ports

theorem SameRoutes.eventPacket {s t : State} (h : SameRoutes s t) (e : EventRec) : eventPacket t e = eventPacket s e := by
  simp only [Machine.eventPacket, h.node, h.fmNode]

theorem SameRoutes.fmReached {s t : State} (h : SameRoutes s t) : fmReached t = fmReached s := by
  have hport : ∀ p, t.port p = s.port p := fun p => by simp only [State.port, h.ports]
  have hcarries : ∀ p k, portCarries t p k = portCarries s p k := fun p k => by
    simp only [portCarries, hport]
  have hfind : ∀ d, routeFind t d = routeFind s d := fun d => by simp only [routeFind, h.routes]
  have hroute : ∀ i f k, routeOf t i f k = routeOf s i f k := fun i f k => by
    simp only [routeOf, h.node, hport, hcarries, hfind, h.fallback]
  simp only [Machine.fmReached, h.fmNode, h.eventPacket, hroute]

theorem postRec_reached {u : State} (e : EventRec) (hr : fmReached u = true) (hk : u.fab.kept = []) :
    postRec u e = { u with fab := { u.fab with epOut := u.fab.epOut ++ [eventPacket u e] } } := by
  simp only [postRec, hr, hk, List.isEmpty_nil, Bool.and_self, if_true]

/-- Events that go out while the manager is reached, with nothing kept. -/
structure EventsOut (s t : State) (es : List EventRec) : Prop where
  same : SameRoutes s t
  kept : t.fab.kept = []
  dropped : t.fab.dropped = s.fab.dropped
  out : t.fab.epOut = s.fab.epOut ++ es.map (eventPacket s)

theorem foldl_postRec : ∀ (es : List EventRec) {u : State}, fmReached u = true → u.fab.kept = [] → EventsOut u (es.foldl postRec u) es
  | [], u, _, hk => ⟨⟨rfl, rfl, rfl, rfl, rfl⟩, hk, rfl, by simp⟩
  | e :: es, u, hr, hk => by
    have hstep := postRec_reached e hr hk
    have hsame : SameRoutes u (postRec u e) := by
      rw [hstep]
      exact ⟨rfl, rfl, rfl, rfl, rfl⟩
    obtain ⟨hs, hkept, hdropped, hout⟩ := foldl_postRec es (u := postRec u e) (hsame.fmReached.trans hr) (by rw [hstep]; exact hk)
    refine ⟨⟨hs.node.trans hsame.node, hs.fmNode.trans hsame.fmNode, hs.routes.trans hsame.routes, hs.fallback.trans hsame.fallback,
      hs.ports.trans hsame.ports⟩, hkept, by rw [List.foldl_cons, hdropped, hstep], ?_⟩
    have hpk : eventPacket (postRec u e) = eventPacket u := funext hsame.eventPacket
    rw [List.foldl_cons, hout, hpk, hstep]
    simp

theorem flushEvents_reached (hr : fmReached s = true) :
    ∃ n, (flushEvents s).fab.kept = [] ∧ (flushEvents s).fab.dropped = 0 ∧
      (flushEvents s).fab.epOut = s.fab.epOut ++ n ++ s.fab.kept.map (eventPacket s) ∧ (s.fab.dropped = 0 → n = []) ∧
      (s.fab.dropped ≠ 0 → ∃ st, n = [eventPacket s ⟨eventW0 0x0D 0 0 0, st, BitVec.ofNat 64 s.fab.dropped, 0⟩]) := by
  generalize hu : ({ s with fab := { s.fab with kept := [], dropped := 0 } } : State) = u
  have hsame : SameRoutes s u := by
    rw [← hu]
    exact ⟨rfl, rfl, rfl, rfl, rfl⟩
  have hru : fmReached u = true := hsame.fmReached.trans hr
  have hku : u.fab.kept = [] := by rw [← hu]
  have hdu : u.fab.dropped = 0 := by rw [← hu]
  have hou : u.fab.epOut = s.fab.epOut := by rw [← hu]
  by_cases hd : s.fab.dropped = 0
  · refine ⟨[], ?_⟩
    by_cases hk : s.fab.kept = []
    · have hflush : flushEvents s = s := by simp [flushEvents, hr, hk, hd]
      rw [hflush]
      exact ⟨hk, hd, by simp [hk], fun _ => rfl, fun h => absurd hd h⟩
    · have hflush : flushEvents s = s.fab.kept.foldl postRec u := by
        simp only [flushEvents, hr, Bool.not_true, Bool.false_or, List.isEmpty_eq_false_iff.2 hk, Bool.false_and, Bool.false_eq_true, if_false,
          hd, if_true, ← hu]
      obtain ⟨-, hkept, hdropped, hout⟩ := foldl_postRec s.fab.kept hru hku
      rw [hflush]
      refine ⟨hkept, hdropped.trans hdu, ?_, fun _ => rfl, fun h => absurd hd h⟩
      rw [hout, hou, funext hsame.eventPacket]
      simp
  · generalize hv : postEvent u 0x0D 0 0 0 (BitVec.ofNat 64 s.fab.dropped) 0 = v
    have hflush : flushEvents s = s.fab.kept.foldl postRec v := by
      simp only [flushEvents, hr, Bool.not_true, Bool.false_or, beq_eq_false_iff_ne.2 hd, Bool.and_false, Bool.false_eq_true, if_false,
        if_neg hd, ← hv, ← hu]
    have hstamp : SameRoutes u u.stamp.2 := by
      constructor <;> rw [fab_stamp]
    have hkstamp : u.stamp.2.fab.kept = [] := by rw [fab_stamp, hku]
    have hpost : v = { u.stamp.2 with fab := { u.stamp.2.fab with epOut := u.stamp.2.fab.epOut ++
        [eventPacket u.stamp.2 ⟨eventW0 0x0D 0 0 0, u.stamp.1, BitVec.ofNat 64 s.fab.dropped, 0⟩] } } := by
      rw [← hv]
      exact postRec_reached _ (hstamp.fmReached.trans hru) hkstamp
    have hsv : SameRoutes u v := by
      rw [hpost]
      constructor <;> simp only [fab_stamp]
    obtain ⟨-, hkept, hdropped, hout⟩ := foldl_postRec s.fab.kept (u := v) (hsv.fmReached.trans hru) (by rw [hpost]; simp only [fab_stamp, hku])
    rw [hflush]
    refine ⟨[eventPacket s ⟨eventW0 0x0D 0 0 0, u.stamp.1, BitVec.ofNat 64 s.fab.dropped, 0⟩], hkept, ?_, ?_, fun h => absurd h hd,
      fun _ => ⟨_, rfl⟩⟩
    · rw [hdropped, hpost]
      simp only [fab_stamp, hdu]
    · rw [hout, funext hsv.eventPacket, funext hsame.eventPacket, hpost]
      simp only [fab_stamp, hou, hstamp.eventPacket, hsame.eventPacket]

end

end Sys2Proof.Machine

open Sys2Proof Sys2Proof.Machine

/-- Settles O45: forwarding, remote requests and their answers, time-outs, management packets and events. -/
theorem packetCommandsComplete : Obligations.PacketCommandsComplete := by
  refine ⟨?_, ?_, ?_, ?_, ?_, ?_, ?_, ?_, ?_⟩
  · intro i vc s p hq
    refine ⟨fun hr hw => forward_endpoint hq hr hw, fun n hr hw => forward_drop hq hr hw, fun q k hr ho hm hw => ?_,
      fun q k hr ho hm hw => ?_⟩
    · refine ⟨_, (forward_port hq hr ho hm).trans (if_pos hw), ?_⟩
      obtain ⟨htx, hcr⟩ := beginPacket_sends (leaveInput (pathFill s i p).2 i vc.toNat) i q k
      obtain ⟨htx', hcr'⟩ := link_leaveInput (pathFill s i p).2 i vc.toNat q
      rw [port_pathFill] at htx' hcr'
      rw [htx, hcr, htx', hcr']
      exact ⟨rfl, rfl⟩
    · exact (forward_port hq hr ho hm).trans (if_neg (by omega))
  · intro e he s p port l r h
    have hexec : exec e.1 s = remoteReq s e.2.1 ∧ (e.2.1 = 1 ∨ e.2.1 = 3) ∧ e.2.2 = (if e.2.1 = 1 then 2 else 4) := by
      obtain _ | ⟨_, he⟩ := he
      · exact ⟨rfl, .inl rfl, rfl⟩
      obtain _ | ⟨_, he⟩ := he
      · exact ⟨rfl, .inr rfl, rfl⟩
      nomatch he
    obtain ⟨hexec, htype, hresp⟩ := hexec
    obtain ⟨hserve, hrefuse⟩ := remoteReq_cases h
    refine ⟨fun h0 hc => ?_, fun hne => ?_⟩
    · obtain ⟨m, hmsgs, hwho, hline, hmask, hkind, hbytes⟩ := serveReq_asks (offEndpoint s l r) p port
      rw [h.type] at hkind hbytes
      exact ⟨_, m, hexec.trans (hserve h0 hc), hmsgs, hwho, hline, hmask, hkind, fun h3 => hbytes (by omega)⟩
    · rw [← h.type] at htype
      obtain ⟨a, hout, ht, hs, hn, hmem⟩ := refuseReq_answers (s := offEndpoint s l r) (port := port) htype (reqStatus_lt s p)
      refine ⟨_, a, hexec.trans (hrefuse hne), hout, ?_, hs, hn, by rw [hmem]; rfl, by rw [hmem]; rfl⟩
      rw [ht, hresp, h.type]
  · exact fun s p port l r x h hx ht => execRdRsp_ends h hx ht
  · exact fun s p port l r x h hx ht => execWrAck_ends h hx ht
  · intro e he s p port l r h hx
    obtain _ | ⟨_, he⟩ := he
    · exact execRdRsp_stray h hx
    obtain _ | ⟨_, he⟩ := he
    · exact execWrAck_stray h hx
    nomatch he
  · exact fun id s x hx hage => fabTxnTimeout_cases hx hage
  · intro s p port l r h
    have hexec : exec .mgmt s = _ := execMgmt_request h
    refine ⟨fun hadm hop => ?_, fun hno => ?_⟩
    · have hgo : exec .mgmt s = .next (kedalRequest (offEndpoint s l r) (mgmtReq (offEndpoint s l r) p port)) := by
        rw [hexec, hadm, beq_eq_false_iff_ne.2 hop]
        rfl
      refine ⟨fun hk hroom => ⟨_, hgo, ?_⟩, hgo⟩
      rw [kedalRequest_queues (u := offEndpoint s l r) hk hroom]
      rfl
    · rw [hexec]
      refine if_pos ?_
      rcases hno with h | h
      · simp [h]
      · simp [h]
  · exact fun s p port l r a b c d w h hb => execEventPkt_records h hb
  · intro s hr
    obtain ⟨n, h⟩ := flushEvents_reached hr
    exact ⟨_, n, rfl, h⟩

end

section
namespace Sys2Proof.Machine

/-! FLIT_ARRIVAL: what a slot's sending, a symbol and the handshake leave of the receiver (R330, R331). -/

section
variable {s : State} {p : Nat}

/-- What the receiver of a link keeps of the flits that have come (R331, R334). -/
def rxOf (l : LinkLayer) : BitVec 12 × Bool × Nat × Nat × List W64 := (l.rxSeq, l.nak, l.badRun, l.tagFails, l.asm)

/-- The state of a port, and what it has received. -/
def heardBy (x : Port) : PortState × Option (Nat × Nat × Nat) × List Packet × BitVec 12 × Bool × Nat × Nat × List W64 :=
  (x.st, x.cut, x.rx, rxOf x.link)

@[simp] theorem port_bumpPort (s : State) (ev p vc n q : Nat) : (s.bumpPort ev p vc n).port q = s.port q := rfl

theorem port_portErr (s : State) (p i : Nat) : (s.portErr p i).port p =
    { s.port p with errs := (s.port p).errs.set i (holdInc 0xFFFFFFFF ((s.port p).errs.getD i 0)) } := by
  rw [State.portErr, port_updPort, if_pos rfl]

theorem heardBy_portErr (s : State) (p i : Nat) : heardBy ((s.portErr p i).port p) = heardBy (s.port p) := by
  rw [port_portErr]
  rfl

theorem heardBy_setPort (s : State) (p : Nat) (x : Port) : heardBy ((s.setPort p x).port p) = heardBy x := by
  simp

/-- A change of a port that leaves what `g` tells of it. -/
theorem port_updPort_keeps {α : Type} (g : Port → α) {f : Port → Port} (hf : ∀ x, g (f x) = g x) (s : State) (q p : Nat) :
    g ((s.updPort q f).port p) = g (s.port p) := by
  rw [port_updPort]
  split
  next h =>
    rw [hf, h]
  next h =>
    rfl

theorem rxOf_nextFlit (s : State) (p : Nat) (l : LinkLayer) : rxOf (nextFlit s p l).2 = rxOf l := by
  simp only [nextFlit]
  split
  · rfl
  · rfl
  · rfl
  · split <;> (repeat' split) <;> rfl

theorem heardBy_flitOut (s : State) (p : Nat) (h : HeldFlit) (l : LinkLayer) :
    heardBy ((flitOut s p h l).port p) = ((s.port p).st, (s.port p).cut, (s.port p).rx, rxOf l) := by
  simp only [flitOut]
  rw [heardBy_setPort]
  rfl

theorem heardBy_sendSlot (s : State) (p : Nat) : heardBy ((sendSlot s p).port p) = heardBy (s.port p) := by
  have hage : heardBy ((ageWaits s p).port p) = heardBy (s.port p) := by
    apply port_updPort_keeps heardBy
    exact fun _ => rfl
  rw [← hage]
  simp only [sendSlot]
  generalize ageWaits s p = u
  split
  · rw [port_bumpPort, heardBy_portErr, heardBy_flitOut]
    rfl
  · split
    · rw [heardBy_setPort]
      rfl
    split
    · rw [heardBy_flitOut]
      exact congrArg (fun r => ((u.port p).st, (u.port p).cut, (u.port p).rx, r)) (rxOf_nextFlit u p _)
    · rw [port_bumpPort, heardBy_flitOut]
      exact congrArg (fun r => ((u.port p).st, (u.port p).cut, (u.port p).rx, r)) (rxOf_nextFlit u p _)

theorem heardBy_countSlot (s : State) (p : Nat) : heardBy ((countSlot s p).port p) = heardBy (s.port p) := by
  apply port_updPort_keeps heardBy
  exact fun _ => rfl

/-- What stands before the arrival of a flit in a slot: the port has received as much as before. -/
theorem exec_flitArrival (p : Fin 32) (f : FlitIn) (hst : (s.port p).st ∈ flitStates) :
    ∃ u, exec (.flitArrival p f) s = .next (flitArrives u p f) ∧ heardBy (u.port p) = heardBy (s.port p) := by
  have hsent := heardBy_sendSlot s p.val
  have hcounted := (heardBy_countSlot (sendSlot s p.val) p.val).trans hsent
  rw [show exec (.flitArrival p f) s = execFlitArrival p f s from rfl]
  simp only [execFlitArrival]
  cases h : (s.port p.val).st with
  | train => exact ⟨_, rfl, hsent⟩
  | hello => exact ⟨_, rfl, hsent⟩
  | secure => exact ⟨_, rfl, hcounted⟩
  | range => exact ⟨_, rfl, hcounted⟩
  | activeM => exact ⟨_, rfl, hcounted⟩
  | active => exact ⟨_, rfl, hcounted⟩
  | width => exact ⟨_, rfl, hcounted⟩
  | disabled => exact absurd (h ▸ hst) (by decide)
  | down => exact absurd (h ▸ hst) (by decide)
  | retrain => exact absurd (h ▸ hst) (by decide)

/-! Symbols and the handshake. -/

theorem heardBy_queueSym (s : State) (q p : Nat) (sym : BitVec 3) (data : BitVec 11) :
    heardBy ((queueSym s q sym data).port p) = heardBy (s.port p) := by
  apply port_updPort_keeps heardBy
  exact fun _ => rfl

theorem heardBy_beaconSymbol (s : State) (q p : Nat) (n : BitVec 11) : heardBy ((beaconSymbol s q n).port p) = heardBy (s.port p) := by
  have hall : ∀ l : List Nat, heardBy ((l.foldl (fun s q => queueSym s q 2 n) s).port p) = heardBy (s.port p) := fun l =>
    foldl_keeps (P := fun u : State => heardBy (u.port p) = heardBy (s.port p)) (fun u q hu => (heardBy_queueSym u q p 2 n).trans hu) l rfl
  simp only [beaconSymbol]
  split
  · rfl
  split
  · exact hall _
  split <;> exact hall _

theorem heardBy_echoSample (s : State) (q p : Nat) (tok : BitVec 7) (w : Nat) : heardBy ((echoSample s q tok w).port p) = heardBy (s.port p) := by
  simp only [echoSample]
  split
  · rfl
  · rw [port_updPort_keeps heardBy (fun _ => by rfl)]
    rfl

theorem heardBy_symbolArrives (s : State) (q p sym data : Nat) : heardBy ((symbolArrives s q sym data).port p) = heardBy (s.port p) := by
  simp only [symbolArrives]
  split
  · exact heardBy_beaconSymbol ..
  · split
    · exact heardBy_queueSym ..
    split
    · exact heardBy_echoSample ..
    · rfl
  · rfl

@[simp] theorem port_drawBytes (s : State) (q : Nat) : (drawBytes s).2.port q = s.port q := rfl

theorem port_withSec (s : State) (x : Security) (q : Nat) : ({ s with sec := x } : State).port q = s.port q := rfl

theorem heardBy_takeBundle (s : State) (p : Nat) : heardBy ((takeBundle s p).port p) = heardBy (s.port p) := by
  simp only [takeBundle]
  split
  · rfl
  · rw [port_updPort_keeps heardBy (fun _ => by rfl), port_drawBytes, port_withSec]

theorem heardBy_withLink (x : Port) {l : LinkLayer} (h : rxOf l = rxOf x.link) : heardBy { x with link := l } = heardBy x := by
  simp only [heardBy, h]

theorem rxOf_proved (l : LinkLayer) (k : BitVec 256) (w : List W64) : rxOf { l with prk := k, proved := true, text := w } = rxOf l := rfl

theorem heardBy_takeCipher (s : State) (p : Nat) (k : BitVec 256) : heardBy ((takeCipher s p k).port p) = heardBy (s.port p) := by
  simp only [takeCipher]
  rw [heardBy_setPort, heardBy_withLink _ (rxOf_proved ..)]

theorem heardBy_secureStep (s : State) (p : Nat) : heardBy ((secureStep s p).port p) = heardBy (s.port p) := by
  simp only [secureStep]
  have hbundle : ∀ b : Bool, heardBy ((if b = true then takeBundle s p else s).port p) = heardBy (s.port p) := fun b => by
    split
    · exact heardBy_takeBundle s p
    · rfl
  split
  · rfl
  · generalize ((s.port p).link.secret.isNone && decide (bundleUnits ≤ (s.port p).link.heard.length)) = b
    rw [← hbundle b]
    generalize (if b = true then takeBundle s p else s) = u
    split
    · split
      · exact heardBy_takeCipher ..
      · rfl
    · rfl

/-! Packets leave the assembly. -/

theorem passUnits_uncut (h : (s.port p).cut = none) (abt : Bool) : passUnits s p abt = (s, abt) := by
  simp only [passUnits, h]

theorem takePackets_short {abt : Bool} (h : ∀ w r, (s.port p).link.asm = w :: r → r.length + 1 < packetLen w) (n : Nat) :
    takePackets s p abt n = s := by
  cases n with
  | zero => rfl
  | succ n =>
    rw [takePackets]
    cases ha : (s.port p).link.asm with
    | nil => simp only
    | cons w r =>
      have hlt := h w r ha
      simp only [List.length_cons, hlt, or_true, if_true]

/-- What the taking of packets leaves: the state of the port and what it says to the sender. -/
def linkSays (x : Port) : PortState × BitVec 12 × Bool := (x.st, x.link.rxSeq, x.link.nak)

theorem linkSays_setPort (s : State) (p : Nat) (x : Port) : linkSays ((s.setPort p x).port p) = linkSays x := by simp

theorem linkSays_passUnits (s : State) (p : Nat) (abt : Bool) : linkSays ((passUnits s p abt).1.port p) = linkSays (s.port p) := by
  simp only [passUnits]
  split
  · rfl
  · rw [port_updPort_keeps linkSays, linkSays_setPort]
    · rfl
    · intro y
      split
      · split <;> rfl
      · rfl

theorem linkSays_takePackets (n : Nat) : ∀ (s : State) (abt : Bool), linkSays ((takePackets s p abt n).port p) = linkSays (s.port p) := by
  induction n with
  | zero => exact fun _ _ => rfl
  | succ n ih =>
    intro s abt
    rw [takePackets]
    simp only
    split
    · rfl
    · split
      · rfl
      · split
        · rfl
        · rw [ih]
          split
          · rw [linkSays_setPort]
            rfl
          split
          · rw [State.portErr, port_updPort_keeps linkSays (fun _ => by rfl), linkSays_setPort]
            rfl
          · rw [linkSays_setPort]
            rfl

/-! Good and bad flits. -/

theorem rxOf_ackFlits (l : LinkLayer) (a : Nat) (n : Bool) : rxOf (ackFlits l a n) = rxOf l := rfl

theorem rxOf_addCredits (l : LinkLayer) (w : W64) : rxOf (addCredits l w) = rxOf l := by
  simp only [addCredits]
  (repeat' split) <;> rfl

/-- The receiver after the control word of a good flit (R331, R332, R340). -/
def ctrlTaken (s : State) (p : Nat) (f : FlitIn) : LinkLayer :=
  let l := addCredits (ackFlits (s.port p).link (fld f.ctrl 51 40) (bit f.ctrl 39)) f.ctrl
  if f.check = .tagNextKey ∨ fld f.ctrl 14 12 = 4 then { l with epochRx := l.epochRx + 1 } else l

theorem rxOf_ctrlTaken (s : State) (p : Nat) (f : FlitIn) : rxOf (ctrlTaken s p f) = rxOf (s.port p).link := by
  have h : rxOf (addCredits (ackFlits (s.port p).link (fld f.ctrl 51 40) (bit f.ctrl 39)) f.ctrl) = rxOf (s.port p).link :=
    (rxOf_addCredits ..).trans (rxOf_ackFlits ..)
  rw [← h]
  simp only [ctrlTaken]
  (repeat' split) <;> rfl


theorem rxSeq_ctrlTaken (s : State) (p : Nat) (f : FlitIn) : (ctrlTaken s p f).rxSeq = (s.port p).link.rxSeq :=
  congrArg Prod.fst (rxOf_ctrlTaken s p f)

/-- The receiver has taken the packet space of a flit with the number that is awaited (R331). -/
def spaceTaken (x : Port) (l : LinkLayer) (us : List W64) : LinkLayer :=
  { l with
    rxSeq := l.rxSeq + 1, nak := false, badRun := 0
    asm := if x.st.hears then l.asm ++ us else l.asm
    heard := if x.st = .hello ∨ x.st = .secure then l.heard ++ us else l.heard }

/-- The words of a flit that belong to packets, or to SECURE (R359). -/
def spaceWords (f : FlitIn) : List W64 :=
  if (fld f.ctrl 14 12 == 3 && fld f.ctrl 10 9 == 2) || fld f.ctrl 14 12 == 1 then [] else f.units.filterMap id

/-- The symbol of a flit, in the states in which the port hears them. -/
def symbolTaken (s : State) (p : Nat) (st : PortState) (f : FlitIn) : State :=
  if st.hears then symbolArrives s p (fld f.ctrl 14 12) (fld f.ctrl 10 0) else s

theorem heardBy_symbolTaken (s : State) (p : Nat) (st : PortState) (f : FlitIn) :
    heardBy ((symbolTaken s p st f).port p) = heardBy (s.port p) := by
  simp only [symbolTaken]
  split
  · exact heardBy_symbolArrives ..
  · rfl

/-- The state in which a good flit with the number that is awaited leaves the port, but for its packets; `l` has its control word. -/
def freshTaken (s : State) (p : Nat) (f : FlitIn) (l : LinkLayer) : State :=
  symbolTaken ((s.bumpPort 2 p 0 1).setPort p { s.port p with link := spaceTaken (s.port p) l (spaceWords f) }) p (s.port p).st f

/-- A good flit, once its control word has taken effect. -/
def goodTaken (s : State) (p : Nat) (f : FlitIn) (l : LinkLayer) : State :=
  let fresh := decide (BitVec.ofNat 12 (fld f.ctrl 63 52) = l.rxSeq)
  let l := if fresh then spaceTaken (s.port p) l (spaceWords f) else l
  let s' := symbolTaken ((s.bumpPort 2 p 0 1).setPort p { s.port p with link := l }) p (s.port p).st f
  if !fresh then s'
  else if !(s.port p).st.hears then secureStep s' p
  else takePackets (passUnits s' p (bit f.ctrl 11)).1 p (passUnits s' p (bit f.ctrl 11)).2 8

theorem goodFlit_eq (s : State) (p : Nat) (f : FlitIn) : goodFlit s p f = goodTaken s p f (ctrlTaken s p f) := rfl

theorem goodTaken_fresh {l : LinkLayer} (f : FlitIn) (h : BitVec.ofNat 12 (fld f.ctrl 63 52) = l.rxSeq) : goodTaken s p f l =
    if (s.port p).st.hears then
      takePackets (passUnits (freshTaken s p f l) p (bit f.ctrl 11)).1 p (passUnits (freshTaken s p f l) p (bit f.ctrl 11)).2 8
    else secureStep (freshTaken s p f l) p := by
  simp only [goodTaken, h, decide_true, if_true, Bool.not_true, Bool.false_eq_true, if_false, freshTaken]
  cases (s.port p).st.hears <;> rfl

theorem goodTaken_stale {l : LinkLayer} (f : FlitIn) (h : BitVec.ofNat 12 (fld f.ctrl 63 52) ≠ l.rxSeq) : goodTaken s p f l =
    symbolTaken ((s.bumpPort 2 p 0 1).setPort p { s.port p with link := l }) p (s.port p).st f := by
  simp only [goodTaken, h, decide_false, Bool.false_eq_true, if_false, Bool.not_false, if_true]

/-- A good flit with another number: only its control word takes effect. -/
theorem heardBy_goodFlit_stale (f : FlitIn) (hseq : BitVec.ofNat 12 (fld f.ctrl 63 52) ≠ (s.port p).link.rxSeq) :
    heardBy ((goodFlit s p f).port p) = heardBy (s.port p) := by
  have hl := rxOf_ctrlTaken s p f
  rw [goodFlit_eq, goodTaken_stale f (by rwa [rxSeq_ctrlTaken]), heardBy_symbolTaken, heardBy_setPort, heardBy_withLink _ hl]

theorem heardBy_freshTaken (s : State) (p : Nat) (f : FlitIn) :
    heardBy ((freshTaken s p f (ctrlTaken s p f)).port p) = ((s.port p).st, (s.port p).cut, (s.port p).rx, (s.port p).link.rxSeq + 1, false, 0,
      (s.port p).link.tagFails, if (s.port p).st.hears then (s.port p).link.asm ++ spaceWords f else (s.port p).link.asm) := by
  have hl := rxOf_ctrlTaken s p f
  simp only [rxOf, Prod.mk.injEq] at hl
  obtain ⟨hseq, -, -, htag, hasm⟩ := hl
  rw [freshTaken, heardBy_symbolTaken, heardBy_setPort]
  simp only [heardBy, rxOf, spaceTaken, hseq, htag, hasm]

theorem linkSays_of_heardBy {x y : Port} (h : heardBy x = heardBy y) : linkSays x = linkSays y := by
  simp only [heardBy, rxOf, Prod.mk.injEq] at h
  simp only [linkSays, h]

theorem linkSays_goodFlit_fresh (f : FlitIn) (hseq : BitVec.ofNat 12 (fld f.ctrl 63 52) = (s.port p).link.rxSeq) :
    linkSays ((goodFlit s p f).port p) = ((s.port p).st, (s.port p).link.rxSeq + 1, false) := by
  have hfresh : linkSays ((freshTaken s p f (ctrlTaken s p f)).port p) = ((s.port p).st, (s.port p).link.rxSeq + 1, false) := by
    have h := heardBy_freshTaken s p f
    simp only [heardBy, rxOf, Prod.mk.injEq] at h
    simp only [linkSays, h]
  rw [goodFlit_eq, goodTaken_fresh f (by rwa [rxSeq_ctrlTaken]), ← hfresh]
  split
  · rw [linkSays_takePackets, linkSays_passUnits]
  · exact linkSays_of_heardBy (heardBy_secureStep ..)

/-- Units that end no packet join those before them. -/
theorem asm_goodFlit_fresh (f : FlitIn) (hseq : BitVec.ofNat 12 (fld f.ctrl 63 52) = (s.port p).link.rxSeq) (hears : (s.port p).st.hears = true)
    (hsym : fld f.ctrl 14 12 = 0) (hcut : (s.port p).cut = none)
    (hshort : ∀ w0 r, (s.port p).link.asm ++ f.units.filterMap id = w0 :: r → r.length + 1 < packetLen w0) :
    ((goodFlit s p f).port p).link.asm = (s.port p).link.asm ++ f.units.filterMap id := by
  have h := heardBy_freshTaken s p f
  have hwords : spaceWords f = f.units.filterMap id := by simp [spaceWords, hsym]
  simp only [heardBy, rxOf, Prod.mk.injEq, hears, if_true, hwords] at h
  obtain ⟨-, hc, -, -, -, -, -, hasm⟩ := h
  rw [goodFlit_eq, goodTaken_fresh f (by rwa [rxSeq_ctrlTaken]), if_pos hears, passUnits_uncut (hc.trans hcut), takePackets_short, hasm]
  rw [hasm]
  exact hshort

/-- A bad flit (R330, R331, R334), before the limits are looked at. -/
def badTaken (s : State) (p : Nat) (tag : Bool) (seq : Nat) : State :=
  let s := s.portErr p 2
  let s := if tag then s.portErr p 4 else s
  let x := s.port p
  s.setPort p { x with link := { x.link with
    nak := true
    badRun := if !x.link.nak then 0 else if seq = x.link.rxSeq.toNat then x.link.badRun + 1 else x.link.badRun
    tagFails := if tag then x.link.tagFails + 1 else x.link.tagFails } }

theorem heardBy_badErrs (s : State) (p : Nat) (tag : Bool) :
    heardBy ((if tag then (s.portErr p 2).portErr p 4 else s.portErr p 2).port p) = heardBy (s.port p) := by
  split
  · rw [heardBy_portErr, heardBy_portErr]
  · exact heardBy_portErr ..

theorem heardBy_badTaken (s : State) (p : Nat) (tag : Bool) (seq : Nat) :
    heardBy ((badTaken s p tag seq).port p) = ((s.port p).st, (s.port p).cut, (s.port p).rx, (s.port p).link.rxSeq, true,
      (if !(s.port p).link.nak then 0 else if seq = (s.port p).link.rxSeq.toNat then (s.port p).link.badRun + 1 else (s.port p).link.badRun),
      (if tag then (s.port p).link.tagFails + 1 else (s.port p).link.tagFails), (s.port p).link.asm) := by
  have h := heardBy_badErrs s p tag
  simp only [heardBy, rxOf, Prod.mk.injEq] at h
  obtain ⟨hst, hcut, hrx, hseq, hnak, hrun, htag, hasm⟩ := h
  simp only [badTaken]
  rw [heardBy_setPort]
  simp only [heardBy, rxOf, hst, hcut, hrx, hseq, hnak, hrun, htag, hasm]

theorem badFlit_eq (s : State) (p : Nat) (tag : Bool) (seq : Nat) : badFlit s p tag seq =
    if ((s.port p).st = .active ∨ (s.port p).st = .activeM) ∧
        (16 ≤ ((badTaken s p tag seq).port p).link.badRun ∨ 8 < ((badTaken s p tag seq).port p).link.tagFails) then
      portFault (badTaken s p tag seq) p .retrain
    else badTaken s p tag seq := by
  have hst := congrArg Prod.fst (heardBy_badErrs s p tag)
  have hst' : ((if tag then (s.portErr p 2).portErr p 4 else s.portErr p 2).port p).st = (s.port p).st := hst
  simp only [badFlit, badTaken, hst', State.port_setPort, if_true]

end
end Sys2Proof.Machine

open Sys2Proof Sys2Proof.Machine

/-- Settles O46: sending in the slot leaves what the port has received (`exec_flitArrival`); a good flit that is awaited and a bad one are
`linkSays_goodFlit_fresh`, `heardBy_goodFlit_stale` and `heardBy_badTaken`. -/
theorem flitArrivalCompletes : Obligations.FlitArrivalCompletes := by
  unfold Obligations.FlitArrivalCompletes
  refine ⟨fun e he p f s hst hf => ?_, fun e he p f s hst hf => ?_⟩
  · obtain ⟨u, hu, hheard⟩ := exec_flitArrival p f hst
    have hgood : flitArrives u p f = goodFlit u p f := by
      subst hf
      simp only [flitArrives]
      obtain h | h : f.check = .good ∨ f.check = .tagNextKey := by simpa using he
      · rw [h]
      · rw [h]
    rw [hgood] at hu
    simp only [heardBy, rxOf, Prod.mk.injEq] at hheard
    obtain ⟨hst', hcut, hrx, hseq, hnak, -, -, hasm⟩ := hheard
    refine ⟨fun h => ⟨_, hu, ?_⟩, fun h => ⟨_, hu, ?_⟩⟩
    · have hsays := linkSays_goodFlit_fresh (s := u) (p := p) f (h.trans hseq.symm)
      simp only [linkSays, Prod.mk.injEq] at hsays
      obtain ⟨hst2, hseq2, hnak2⟩ := hsays
      refine ⟨by rw [hseq2, hseq], hnak2, hst2.trans hst', fun hears hsym hc hshort => ?_⟩
      rw [asm_goodFlit_fresh f (h.trans hseq.symm) (by rw [hst', hears]) hsym (hcut.trans hc) (by rw [hasm]; exact hshort), hasm]
    · have hstale := heardBy_goodFlit_stale (s := u) (p := p) f (by rwa [hseq])
      simp only [heardBy, rxOf, Prod.mk.injEq] at hstale
      obtain ⟨hst2, -, hrx2, hseq2, hnak2, -, -, hasm2⟩ := hstale
      exact ⟨hseq2.trans hseq, hnak2.trans hnak, hasm2.trans hasm, hrx2.trans hrx, hst2.trans hst'⟩
  · obtain ⟨u, hu, hheard⟩ := exec_flitArrival p f hst
    simp only [heardBy, rxOf, Prod.mk.injEq] at hheard
    obtain ⟨hst', -, hrx, hseq, -, hrun, htag, hasm⟩ := hheard
    have hbad : flitArrives u p f = badFlit u p (decide (e = .tag)) (fld f.ctrl 63 52) := by
      subst hf
      simp only [flitArrives]
      obtain h | h | h : f.check = .fec ∨ f.check = .crc ∨ f.check = .tag := by simpa using he
      all_goals rw [h]; rfl
    have htaken := heardBy_badTaken u p (decide (e = .tag)) (fld f.ctrl 63 52)
    rw [hbad, badFlit_eq] at hu
    generalize badTaken u p (decide (e = .tag)) (fld f.ctrl 63 52) = v at hu htaken
    simp only [heardBy, rxOf, Prod.mk.injEq] at htaken
    obtain ⟨hst2, -, hrx2, hseq2, hnak2, hrun2, htag2, hasm2⟩ := htaken
    refine ⟨fun h => ⟨v, ?_, hseq2.trans hseq, hnak2, hasm2.trans hasm, hrx2.trans hrx, hst2.trans hst'⟩, fun hact htype h8 => ⟨v, ?_, hnak2,
      hrx2.trans hrx⟩⟩
    · rw [hu, if_neg]
      rintro ⟨hact, hlimit⟩
      rw [hst'] at hact
      obtain ⟨h1, h2⟩ | ⟨h1, h2⟩ := h
      · exact hact.elim h1 h2
      · rw [hrun2, htag2, hrun, htag] at hlimit
        (repeat' split at hlimit) <;> omega
    · rw [hu, if_pos]
      refine ⟨by rwa [hst'], Or.inr ?_⟩
      rw [htag2, htag, h8, htype]
      decide

end

section
namespace Sys2Proof.Machine

/-! What the steps of a beacon edge leave of the beacon number, the hold window and the power cap (R361, R370, R371, R514). One lemma for each
function that an edge calls, each resting on those of its callees. -/

section

/-- The beacon number, the hold window, and the power cap with the one that waits for an edge. -/
def beat (s : State) : BitVec 40 × Bool × Nat × Option Nat := (s.bcn.num, s.bcn.holding, s.pwr.cap, s.pwr.capNew)

@[simp] theorem beat_mk (a b c d e f g h i j k l m n o p q r) :
    beat (State.mk a b c d e f g h i j k l m n o p q r) = (d.num, d.holding, o.cap, o.capNew) := Eq.trans rfl rfl

@[simp] theorem beat_eta (s : State) : (s.bcn.num, s.bcn.holding, s.pwr.cap, s.pwr.capNew) = beat s := Eq.trans rfl rfl

@[simp] theorem beat_ite (c : Prop) [Decidable c] (s t : State) : beat (if c then s else t) = if c then beat s else beat t :=
  apply_ite ..

@[simp] theorem beat_foldl {α : Type} (f : State → α → State) (s : State) (l : List α) (h : ∀ s a, beat (f s a) = beat s) :
    beat (l.foldl f s) = beat s := by
  induction l generalizing s with
  | nil => rfl
  | cons a l ih => exact (ih (f s a)).trans (h s a)

@[simp] theorem beat_setPort (s : State) (p : Nat) (x : Port) : beat (s.setPort p x) = beat s := by simp [State.setPort]

@[simp] theorem beat_updPort (s : State) (p : Nat) (f : Port → Port) : beat (s.updPort p f) = beat s := by simp [State.updPort]

@[simp] theorem beat_setCtx (s : State) (n : Nat) (x : Ctx) : beat (s.setCtx n x) = beat s := by simp [State.setCtx]

@[simp] theorem beat_updCore (s : State) (k : Nat) (f : Core → Core) : beat (s.updCore k f) = beat s := by
  simp [State.updCore, State.setCore]

@[simp] theorem beat_setBudget (s : State) (k : Nat) (b : Budget) : beat (s.setBudget k b) = beat s := by simp [State.setBudget]

@[simp] theorem beat_free (s : State) : beat s.free.2 = beat s := by simp [State.free]

@[simp] theorem beat_emit (s : State) (b kind unit ctx info : Nat) (a0 a1 : W64) : beat (s.emit b kind unit ctx info a0 a1) = beat s := by
  obtain ⟨g, h⟩ := emit_frame s b kind unit ctx info a0 a1
  rw [h]
  simp

@[simp] theorem beat_stamp (s : State) : beat s.stamp.2 = beat s := by simp [State.stamp, State.bumpHub, State.bump]

@[simp] theorem beat_setUnit (s : State) (d : Domain) (u : Nat) (x : UnitState) : beat (setUnit s d u x) = beat s := by simp [setUnit]

/-! The upstream and the keeper. -/

@[simp] theorem beat_follow (s : State) (c : Cand) : beat (follow s c) = beat s := by simp [follow]

@[simp] theorem beat_followKeeper (s : State) (c : Cand) : beat (followKeeper s c) = beat s := by
  have h := beat_follow s c
  simp only [followKeeper, beat_mk, beat_eta, h]

@[simp] theorem beat_standKeeper (s : State) : beat (standKeeper s) = beat s := by simp [standKeeper]

@[simp] theorem beat_holdOver (s : State) : beat (holdOver s) = beat s := by simp [holdOver]

@[simp] theorem beat_loseUpstream (s : State) : beat (loseUpstream s) = beat s := by
  simp only [loseUpstream]
  split <;> simp

@[simp] theorem beat_upstreamLeft (s : State) (p : Nat) : beat (upstreamLeft s p) = beat s := by simp [upstreamLeft]

@[simp] theorem beat_moveUpstream (s : State) : beat (moveUpstream s) = beat s := by
  simp only [moveUpstream]
  split
  · rfl
  · split <;> simp

@[simp] theorem beat_reOffset (s : State) : beat (reOffset s) = beat s := by
  simp only [reOffset]
  split
  · rfl
  · split <;> simp

@[simp] theorem beat_changeKeeperNow (s : State) : beat (changeKeeperNow s) = beat s := by
  simp only [changeKeeperNow]
  split
  · rfl
  · split <;> simp

@[simp] theorem beat_edgeSkew (s : State) (skew : Int) : beat (edgeSkew s skew) = beat s := by
  simp only [edgeSkew]
  split <;> simp

@[simp] theorem beat_queueSym (s : State) (p : Nat) (sym : BitVec 3) (data : BitVec 11) : beat (queueSym s p sym data) = beat s := by
  simp [queueSym]

@[simp] theorem beat_sendBeacon (s : State) (n : BitVec 40) : beat (sendBeacon s n) = beat s := by simp [sendBeacon]

/-! Ports. -/

@[simp] theorem beat_postRec (s : State) (e : EventRec) : beat (postRec s e) = beat s := by simp [postRec, keepEvent]

@[simp] theorem beat_portEvent (s : State) (kind p : Nat) (w2 : W64) : beat (portEvent s kind p w2) = beat s := by
  simp [portEvent, postEvent]

@[simp] theorem beat_endCut (s : State) (p : Nat) : beat (endCut s p) = beat s := by
  simp only [endCut]
  split <;> simp

@[simp] theorem beat_stopPort (s : State) (p : Nat) (st : PortState) : beat (stopPort s p st) = beat s := by simp [stopPort]

@[simp] theorem beat_portEnters (s : State) (p : Nat) (st : PortState) : beat (portEnters s p st) = beat s := by
  simp only [portEnters]
  split <;> simp

@[simp] theorem beat_enterPort (s : State) (p : Nat) (st : PortState) : beat (enterPort s p st) = beat s := by simp [enterPort]

/-! Contexts and their cores. -/

@[simp] theorem beat_bestPlacement (s : State) (n : Nat) (ok : Nat → Bool) : beat (bestPlacement s n ok).2 = beat s := by
  simp only [bestPlacement]
  split <;> simp

@[simp] theorem beat_wakeDies (s : State) (ds : List Nat) : beat (wakeDies s ds) = beat s := by simp [wakeDies]

@[simp] theorem beat_beginRestore (s : State) (n : Nat) : beat (beginRestore s n) = beat s := by
  simp only [beginRestore]
  split <;> simp

@[simp] theorem beat_dispatch (s : State) (n : Nat) (p : List Nat) : beat (dispatch s n p) = beat s := by simp [dispatch]

@[simp] theorem beat_startTeardown (s : State) (n cause : Nat) : beat (startTeardown s n cause) = beat s := by
  simp only [startTeardown]
  split <;> simp

@[simp] theorem beat_preempt (s : State) (n : Nat) (halt : Bool) : beat (preempt s n halt) = beat s := by simp [preempt]

@[simp] theorem beat_stopRestore (s : State) (n : Nat) : beat (stopRestore s n) = beat s := by simp [stopRestore]

@[simp] theorem beat_displace (s : State) (n : Nat) : beat (displace s n) = beat s := by
  simp only [displace]
  split <;> simp

@[simp] theorem beat_schedulePart (s : State) (q : Nat) : beat (schedulePart s q) = beat s := by
  simp only [schedulePart]
  split
  · rfl
  rw [beat_foldl _ _ _ beat_displace]
  apply List.foldlRecOn (motive := fun y : State × List Nat × List (Nat × List Nat) => beat y.1 = beat s)
  · simp
  · intro y hy n _
    split
    · simpa using hy
    · split <;> rename_i h <;> have hp := congrArg (fun p => beat p.2) h <;> simp only [beat_bestPlacement, hy] at hp
      · exact hp.symm
      · split <;> simp [hp]

@[simp] theorem beat_scheduleAll (s : State) : beat (scheduleAll s) = beat s := by simp [scheduleAll, beginRestores]

@[simp] theorem beat_beginTest (s : State) (t : Test) : beat (beginTest s t) = beat s := by
  simp only [beginTest]
  split
  · split <;> simp
  · simp

@[simp] theorem beat_startCals (s : State) : beat (startCals s) = beat s := by simp [startCals]

/-! The actions of an edge. -/

@[simp] theorem beat_edgeWatch (s : State) : beat (edgeWatch s) = beat s := by simp [edgeWatch]

@[simp] theorem beat_edgeTimes (s : State) : beat (edgeTimes s) = beat s := by simp [edgeTimes]

/-- The number of an edge (R361). -/
def nextNumber (s : State) : BitVec 40 :=
  match numberTaken s with
  | some n => if bcnLater s.bcn.num n then n else s.bcn.num + 1
  | none => s.bcn.num + 1

theorem beat_edgeNumber (s : State) : beat (edgeNumber s) = (nextNumber s, s.bcn.holding, s.pwr.cap, s.pwr.capNew) := by
  simp only [edgeNumber, nextNumber, beat_mk] <;> cases numberTaken s <;> rfl

theorem beat_edgeBeacon (s : State) (skew : Int) : beat (edgeBeacon s skew) = (nextNumber s, s.bcn.holding, s.pwr.cap, s.pwr.capNew) := by
  rw [← beat_edgeNumber]
  simp only [edgeBeacon]
  split <;> simp

@[simp] theorem beat_edgeFreeze (s : State) : beat (edgeFreeze s) = beat s := by simp [edgeFreeze]

@[simp] theorem beat_edgePeriod (s : State) : beat (edgePeriod s).1 = beat s := by
  simp only [edgePeriod]
  split <;> simp

@[simp] theorem beat_edgePort (s : State) (p : Nat) : beat (edgePort s p) = beat s := by
  simp only [edgePort]
  split <;> simp

@[simp] theorem beat_edgeCommit (s : State) : beat (edgeCommit s) = beat s := by simp [edgeCommit]

@[simp] theorem beat_edgeObjects (s : State) : beat (edgeObjects s) = beat s := by simp [edgeObjects]

@[simp] theorem beat_edgeWindow (s : State) (b : BitVec 40) (n : Bool) : beat (edgeWindow s b n) = beat s := by
  simp [edgeWindow, clearWindow]

@[simp] theorem beat_releaseHeld (s : State) (p : Packet) : beat (releaseHeld s p) = beat s := by
  simp only [releaseHeld]
  split <;> simp

theorem beat_edgeHold (s : State) : beat (edgeHold s) = ((beat s).1, false, (beat s).2.2) :=
  (by simp [edgeHold] : beat (edgeHold s) = (s.bcn.num, false, s.pwr.cap, s.pwr.capNew))

theorem beat_edgeGovernor (s : State) (i : EdgeIn) : beat (edgeGovernor s i) =
    ((beat s).1, (beat s).2.1, (beat s).2.2.2.getD (beat s).2.2.1, none) :=
  (by simp [edgeGovernor] : beat (edgeGovernor s i) = (s.bcn.num, s.bcn.holding, s.pwr.capNew.getD s.pwr.cap, none))

@[simp] theorem beat_edgeAge (s : State) : beat (edgeAge s) = beat s := by simp [edgeAge]

@[simp] theorem beat_edgeDry (s : State) (p : Nat) : beat (edgeDry s p) = beat s := by simp [edgeDry]

@[simp] theorem beat_edgeIdle (s : State) : beat (edgeIdle s) = beat s := by simp [edgeIdle]


theorem numberTaken_of {s t : State} (hb : t.bcn = s.bcn) (hf : t.fab = s.fab) : numberTaken t = numberTaken s := by
  have hport : ∀ p, t.port p = s.port p := fun p => by simp only [State.port, hf]
  simp only [numberTaken, hb, hport]

theorem bcn_edgeTimes (s : State) : (edgeTimes s).bcn = s.bcn := by
  simp only [edgeTimes]
  (repeat' split) <;> rfl

theorem fab_edgeTimes (s : State) : (edgeTimes s).fab = s.fab := by
  simp only [edgeTimes]
  (repeat' split) <;> rfl

theorem bcn_edgeWatch (s : State) : (edgeWatch s).bcn = s.bcn := rfl

theorem fab_edgeWatch (s : State) : (edgeWatch s).fab = s.fab := rfl

theorem nextNumber_edgeTimes (s : State) : nextNumber (edgeTimes (edgeWatch s)) = nextNumber s := by
  have hb : (edgeTimes (edgeWatch s)).bcn = s.bcn := (bcn_edgeTimes _).trans (bcn_edgeWatch s)
  simp only [nextNumber, hb, numberTaken_of hb ((fab_edgeTimes _).trans (fab_edgeWatch s))]

/-- An edge (R361, R370, R371, R514): its number, the end of the hold window, and the power cap in force. -/
theorem exec_beaconEdge (i : EdgeIn) (s : State) :
    ∃ t, exec (.beaconEdge i) s = .next t ∧ beat t = (nextNumber s, false, s.pwr.capNew.getD s.pwr.cap, none) := by
  have hfirst : beat (edgeBeacon (edgeTimes (edgeWatch s)) i.skew) = (nextNumber s, (beat s).2) := by
    rw [beat_edgeBeacon, nextNumber_edgeTimes]
    have h : beat (edgeTimes (edgeWatch s)) = beat s := by simp
    exact congrArg (fun b => (nextNumber s, b.2)) h
  generalize hu : edgeBeacon (edgeTimes (edgeWatch s)) i.skew = u at hfirst
  obtain ⟨v, new, hv⟩ : ∃ v new, edgePeriod (edgeFreeze u) = (v, new) := ⟨_, _, rfl⟩
  have hsecond : beat v = (nextNumber s, (beat s).2) := by
    have h := beat_edgePeriod (edgeFreeze u)
    rwa [hv, beat_edgeFreeze, hfirst] at h
  rw [show exec (.beaconEdge i) s = execBeaconEdge i s from rfl]
  simp only [execBeaconEdge, hu, hv]
  refine ⟨_, rfl, ?_⟩
  rw [beat_edgeIdle, beat_foldl _ _ _ beat_edgeDry, beat_edgeAge, beat_scheduleAll, beat_edgeGovernor, beat_edgeHold, beat_edgeWindow,
    beat_edgeObjects, hsecond]
  rfl

/-! Symbols, frames and the loss of the upstream. -/

theorem port_reRank (s : State) (q : Nat) : (reRank s).port q = s.port q := by
  have hfollow : ∀ (s : State) (c : Cand), (follow s c).port q = s.port q := fun _ _ => rfl
  simp only [reRank]
  split
  · rfl
  · split
    · split <;> rfl
    · split
      · rfl
      · split
        · rfl
        · rfl
        · split
          · split
            · exact hfollow ..
            · rfl
          · split
            · rfl
            · exact hfollow ..

theorem port_reOffset (s : State) (q : Nat) : (reOffset s).port q = s.port q := by
  simp only [reOffset]
  split
  · rfl
  · split <;> rfl

theorem port_frameNumber (s : State) (p : Nat) (w : W64) (q : Nat) : (frameNumber s p w).port q = s.port q := by
  simp only [frameNumber]
  split <;> (repeat' split) <;> rfl

theorem port_frameNext (s : State) (p : Nat) (w1 w3 : W64) (q : Nat) : (frameNext s p w1 w3).port q = s.port q := by
  simp only [frameNext]
  (repeat' split) <;> rfl

theorem symbols_queueSym (s : State) (p : Nat) (sym : BitVec 3) (data : BitVec 11) :
    ((queueSym s p sym data).port p).link.symbols = (s.port p).link.symbols ++ [(sym, data)] := by
  rw [queueSym, port_updPort, if_pos rfl]

theorem exec_rangingFrame {s : State} (p : Fin 32) (w0 w1 w2 w3 : W64) (hst : (s.port p).st.symbols = true) :
    ∃ t, exec (.rangingFrame p w0 w1 w2 w3) s = .next t ∧ (t.port p).cand = some (w0, w1, w2, w3) := by
  rw [show exec (.rangingFrame p w0 w1 w2 w3) s = execRangingFrame p w0 w1 w2 w3 s from rfl]
  simp only [execRangingFrame, hst, Bool.not_true, Bool.false_eq_true, if_false]
  refine ⟨_, rfl, ?_⟩
  rw [port_frameNext, port_frameNumber]
  split
  · rw [port_reOffset, port_reRank, port_updPort, if_pos rfl]
  · rw [port_reRank, port_updPort, if_pos rfl]

theorem exec_missedSymbol {s : State} (h : s.bcn.st = .locked ∨ s.bcn.st = .acquire) :
    ∃ u, u.bcn = { s.bcn with misses := s.bcn.misses + 1 } ∧ u.fab = s.fab ∧
      u.stamps.missed = (if s.stamps.missed < 0xFFFFFFFF then s.stamps.missed + 1 else 0xFFFFFFFF) ∧
      exec .missedSymbol s = .next (if s.bcn.misses = 2 then loseUpstream u else u) := by
  have hno : ¬ (s.bcn.st = .keeper ∨ s.bcn.st = .holdover) := by
    rcases h with h | h <;> simp [h]
  refine ⟨({ s with bcn := { s.bcn with misses := s.bcn.misses + 1 }, stamps := { s.stamps with missed := holdInc 0xFFFFFFFF s.stamps.missed } } :
    State).bumpHub 9 0xFFFF 1, rfl, rfl, rfl, ?_⟩
  rw [show exec .missedSymbol s = execMissedSymbol s from rfl]
  simp only [execMissedSymbol, if_neg hno, Nat.succ.injEq]

theorem exec_holdoverExpiry {s : State} (hst : s.bcn.st = .holdover) (h8 : 8 ≤ s.bcn.holdPeriods) (hc : candidates s = []) :
    exec .holdoverExpiry s = .next (standKeeper s) := by
  rw [show exec .holdoverExpiry s = execHoldoverExpiry s from rfl]
  simp [execHoldoverExpiry, hst, h8, hc]

theorem standKeeper_stands {s : State} (hst : s.bcn.st ≠ .keeper) :
    (standKeeper s).bcn.st = .keeper ∧ (standKeeper s).bcn.up = none ∧ (standKeeper s).bcn.num = s.bcn.num ∧
      (standKeeper s).bcn.keyPrio = s.bcn.prio := by
  rw [standKeeper, if_neg hst]
  exact ⟨rfl, rfl, rfl, rfl⟩

/-! Period changes (R369). -/

/-- A period change of a keeper that nothing speaks against. -/
def periodPending (b : Beacon) (v : W64) : Beacon :=
  { b with
    pend := true, pendTarget := BitVec.ofNat 40 (fld v 63 24), pendPeriod := fld v 23 10, pstatus := 1
    target := BitVec.ofNat 40 (fld v 63 24), periodObj := fld v 23 10 }

theorem exec_periodChange {s : State} (v : W64) (us : W32) (h9 : bit v 9 = false) : exec (.periodChange v us) s = .next (
    if s.bcn.st ≠ .keeper then { s with bcn := { s.bcn with pstatus := 5 } }
    else if fld v 23 10 < 8 ∨ 16000 < fld v 23 10 then { s with bcn := { s.bcn with pstatus := 4 } }
    else if !bcnAhead s.bcn.num (BitVec.ofNat 40 (fld v 63 24)) ∨ (BitVec.ofNat 40 (fld v 63 24) - s.bcn.num).toNat < 2 ∨
        us.toNat + ((BitVec.ofNat 40 (fld v 63 24) - s.bcn.num).toNat - 1) * s.bcn.period < 1000 then
      { s with bcn := { s.bcn with pstatus := 3 } }
    else { s with bcn := periodPending s.bcn v }) := by
  rw [show exec (.periodChange v us) s = .next (periodWrite s v us.toNat).1 from rfl]
  simp only [periodWrite, h9, Bool.false_eq_true, if_false]
  (repeat' split) <;> rfl

end
end Sys2Proof.Machine

open Sys2Proof Sys2Proof.Machine

/-- Settles O47: an edge by `exec_beaconEdge`, which follows the beacon number, the hold window and the cap through its nine actions. -/
theorem beaconCommandsComplete : Obligations.BeaconCommandsComplete := by
  unfold Obligations.BeaconCommandsComplete
  refine ⟨fun i s => ?_, fun s => rfl, fun p tok s hst => ?_, fun p s hst => ?_, fun p w0 w1 w2 w3 s hst => exec_rangingFrame p w0 w1 w2 w3 hst,
    fun s h => exec_missedSymbol h, fun s hst h8 hc => ?_, fun v us s hst h9 hlo hhi hahead hfar hsoon => ?_, fun v us s h9 => ?_⟩
  · obtain ⟨t, ht, hbeat⟩ := exec_beaconEdge i s
    simp only [beat, Prod.mk.injEq] at hbeat
    obtain ⟨hnum, hhold, hcap, hnew⟩ := hbeat
    refine ⟨t, ht, hnum.trans ?_, hhold, hcap, hnew⟩
    unfold nextNumber
    cases numberTaken s <;> rfl
  · refine ⟨(queueSym s p 3 (tok.setWidth 11)).updPort p (fun x => { x with probeAt := some tok }), ?_, ?_, ?_⟩
    · rw [show exec (.rangingProbe p tok) s = execRangingProbe p tok s from rfl]
      simp only [execRangingProbe, hst, if_true]
    · rw [port_updPort, if_pos rfl]
    · rw [port_updPort, if_pos rfl]
      exact symbols_queueSym ..
  · refine ⟨queueSym s p 3 0x400#11, ?_, ?_⟩
    · rw [show exec (.rangingFrameSend p) s = execRangingFrameSend p s from rfl]
      simp only [execRangingFrameSend, hst, if_true]
    · exact symbols_queueSym ..
  · exact ⟨_, exec_holdoverExpiry hst h8 hc, standKeeper_stands (by simp [hst])⟩
  · refine ⟨{ s with bcn := periodPending s.bcn v }, ?_, rfl⟩
    rw [exec_periodChange v us h9, if_neg (by simp [hst]), if_neg (by omega), if_neg]
    simp only [hahead, Bool.not_true, Bool.false_eq_true, false_or]
    omega
  · refine ⟨fun hst => ?_, fun hst hper => ?_, fun hst hlo hhi hearly => ?_⟩
    · rw [exec_periodChange v us h9, if_pos hst]
    · rw [exec_periodChange v us h9, if_neg (by simp [hst]), if_pos hper]
    · rw [exec_periodChange v us h9, if_neg (by simp [hst]), if_neg (by omega), if_pos]
      simpa using hearly

end

section
/-!
Partitions and contexts (15, 16 R418; O48).
-/
namespace Sys2Proof.Machine

/-! What the steps of partition and context commands leave of contexts, partitions, bindings and exports (15, 16 R418). One lemma for each
function, resting on those of its callees. -/

section

/-- Contexts, partitions, bindings and export entries. -/
def owned (s : State) : Tbl Ctx × Tbl Partition × Tbl Byte × Tbl W128 := (s.ctxs, s.parts, s.bindings, s.fab.expo)

@[simp] theorem owned_mk (a b c d e f g h i j k l m n o p q r) :
    owned (State.mk a b c d e f g h i j k l m n o p q r) = (g, f, h, c.expo) := Eq.trans rfl rfl

@[simp] theorem owned_eta (s : State) : (s.ctxs, s.parts, s.bindings, s.fab.expo) = owned s := Eq.trans rfl rfl

@[simp] theorem owned_ite (c : Prop) [Decidable c] (s t : State) : owned (if c then s else t) = if c then owned s else owned t :=
  apply_ite ..

@[simp] theorem owned_foldl {α : Type} (f : State → α → State) (s : State) (l : List α) (h : ∀ s a, owned (f s a) = owned s) :
    owned (l.foldl f s) = owned s := by
  induction l generalizing s with
  | nil => rfl
  | cons a l ih => exact (ih (f s a)).trans (h s a)

theorem HostOnly.owned {s t : State} (h : HostOnly s t) : owned t = owned s := by
  obtain ⟨a, b, rfl⟩ := h
  simp

@[simp] theorem owned_setCore (s : State) (k : Nat) (c : Core) : owned (s.setCore k c) = owned s := by simp [State.setCore]

@[simp] theorem owned_updCore (s : State) (k : Nat) (f : Core → Core) : owned (s.updCore k f) = owned s := by simp [State.updCore]

@[simp] theorem owned_updCv (s : State) (k v : Nat) (f : Caravan → Caravan) : owned (s.updCv k v f) = owned s := by simp [State.updCv]

@[simp] theorem owned_setCluster (s : State) (c : Nat) (x : Cluster) : owned (s.setCluster c x) = owned s := by simp [State.setCluster]

@[simp] theorem owned_emit (s : State) (b kind unit ctx info : Nat) (a0 a1 : W64) : owned (s.emit b kind unit ctx info a0 a1) = owned s := by
  obtain ⟨g, h⟩ := emit_frame s b kind unit ctx info a0 a1
  rw [h]
  simp

@[simp] theorem owned_stamp (s : State) : owned s.stamp.2 = owned s := by simp [State.stamp, State.bumpHub, State.bump]

@[simp] theorem owned_newId (s : State) : owned s.newId.2 = owned s := by simp [State.newId]

@[simp] theorem owned_free (s : State) : owned s.free.2 = owned s := by simp [State.free]

@[simp] theorem owned_pushEntry (s : State) (f : Nat) (i : RingId) (e : List W64) : owned (pushEntry s f i e) = owned s :=
  (hostOnly_pushEntry s f i e).owned

@[simp] theorem owned_msix (s : State) (f v : Nat) : owned (msix s f v) = owned s := (hostOnly_msix s f v).owned

@[simp] theorem owned_putEntry (s : State) (f : Nat) (a : W64) (e : List W64) : owned (putEntry s f a e) = owned s :=
  (hostOnly_putEntry s f a e).owned

@[simp] theorem owned_adminDone (s : State) (f st n : Nat) (tag : W32) : owned (adminDone s f st n tag) = owned s := by
  simp only [adminDone, owned_pushEntry, owned_stamp]

/-! Memory and caches. -/

@[simp] theorem owned_cohZero (s : State) (lo hi : Nat) : owned (cohZero s lo hi) = owned s := by
  simp only [cohZero, owned_mk, owned_eta]

@[simp] theorem owned_cohPut (s : State) (a : Nat) (b : Byte) : owned (cohPut s a b) = owned s := by
  simp only [cohPut, hbmWrite, owned_mk, owned_eta]

@[simp] theorem owned_cohWrite (s : State) (a : Nat) (l : List Byte) : owned (cohWrite s a l) = owned s := by
  induction l generalizing s a with
  | nil => rfl
  | cons b l ih => exact (ih _ _).trans (owned_cohPut s a b)

@[simp] theorem owned_putPieces (s : State) (base : Nat) (l : List Piece3) : owned (putPieces s base l) = owned s := by simp [putPieces]

@[simp] theorem owned_saveCore (s : State) (n i k : Nat) : owned (saveCore s n i k) = owned s := by simp [saveCore]

@[simp] theorem owned_voidFill (s : State) (c key : Nat) : owned (voidFill s c key) = owned s := by simp [voidFill]

@[simp] theorem owned_updL1Line (s : State) (k key : Nat) (f : CLine → CLine) : owned (updL1Line s k key f) = owned s := by
  simp [updL1Line, State.updL1]

@[simp] theorem owned_updL2Line (s : State) (c key : Nat) (f : CLine → CLine) : owned (updL2Line s c key f) = owned s := by
  simp [updL2Line, State.updL2]

@[simp] theorem owned_discardRem (s : State) (k key : Nat) : owned (discardRem s k key) = owned s := by
  simp only [discardRem]
  repeat' split
  all_goals simp

@[simp] theorem owned_clearCluster (s : State) (c : Nat) : owned (clearCluster s c) = owned s := by simp [clearCluster, leaveHomes]

@[simp] theorem owned_eraseUnit (s : State) (u : Nat) : owned (eraseUnit s u) = owned s := by simp [eraseUnit]

/-! Fault records and translations. -/

@[simp] theorem owned_wakeWalker (s : State) (vpn : Nat) (w : Walker) : owned (wakeWalker s vpn w) = owned s := by
  simp only [wakeWalker]
  repeat' split
  all_goals simp

@[simp] theorem owned_closeRecords (s : State) (p : FaultRec → Bool) : owned (closeRecords s p) = owned s := by simp [closeRecords]

@[simp] theorem owned_dropXlate (s : State) (n lo hi : Nat) : owned (dropXlate s n lo hi) = owned s := by simp [dropXlate]

@[simp] theorem owned_forgetCtx (s : State) (n : Nat) : owned (forgetCtx s n) = owned s := by simp [forgetCtx, clearResid]

@[simp] theorem owned_clearResid (s : State) (n : Nat) : owned (clearResid s n) = owned s := by simp [clearResid]

@[simp] theorem owned_freeCores (s : State) (n : Nat) : owned (freeCores s n) = owned s := by simp [freeCores]

/-! Fabric writes. -/

@[simp] theorem owned_fabOut (s : State) (p : Packet) : owned (fabOut s p) = owned s := by simp [fabOut]

@[simp] theorem owned_fabSendFor (s : State) (n k entry : Nat) (o : Owner) (w : Bool) (pa : W64) (mask : Nat) (bs : Bytes) (poison : Nat) :
    owned (fabSendFor s n k entry o w pa mask bs poison) = owned s := by simp [fabSendFor, -fab_stamp]

@[simp] theorem owned_sendWbFor (s : State) (n k : Nat) (pa : W64) (mask : Nat) (bs : Bytes) (poison : Nat) :
    owned (sendWbFor s n k pa mask bs poison) = owned s := by simp [sendWbFor, waitEntry]

end
end Sys2Proof.Machine

end

section
namespace Sys2Proof.Machine

/-! Partitions (R379 to R384). -/

section
variable {s : State}

theorem parts_of_owned {s t : State} (h : owned t = owned s) : t.parts = s.parts := congrArg (fun x => x.2.1) h

theorem ctxs_of_owned {s t : State} (h : owned t = owned s) : t.ctxs = s.ctxs := congrArg (fun x => x.1) h

theorem ctx_of_owned {s t : State} (h : owned t = owned s) (n : Nat) : t.ctx n = s.ctx n := by
  simp only [State.ctx, ctxs_of_owned h]

theorem expo_of_owned {s t : State} (h : owned t = owned s) : t.fab.expo = s.fab.expo := congrArg (fun x => x.2.2.2) h

theorem bindings_of_owned {s t : State} (h : owned t = owned s) : t.bindings = s.bindings := congrArg (fun x => x.2.2.1) h

/-- A byte of a table from which a range is cleared. -/
theorem mget_mclear (m : Memory) (lo hi a : Nat) : mget (mclear m lo hi) a = if lo ≤ a ∧ a < hi then 0 else mget m a := by
  induction m with
  | nil => simp [mclear, mget, tget]
  | cons e m ih =>
    obtain ⟨j, v⟩ := e
    have hstep : mget ((j, v) :: m) a = if j = a then v else mget m a := rfl
    by_cases hj : lo ≤ j ∧ j < hi
    · have hdrop : mclear ((j, v) :: m) lo hi = mclear m lo hi := by
        have h1 : ¬ j < lo := by omega
        have h2 : ¬ hi ≤ j := by omega
        simp [mclear, h1, h2]
      rw [hdrop, ih, hstep]
      by_cases ha : lo ≤ a ∧ a < hi
      · rw [if_pos ha, if_pos ha]
      · rw [if_neg ha, if_neg ha, if_neg (by rintro rfl; exact ha hj)]
    · have hkeep : mclear ((j, v) :: m) lo hi = (j, v) :: mclear m lo hi := by
        have h1 : j < lo ∨ hi ≤ j := by omega
        simp [mclear, h1]
      have hstep' : mget ((j, v) :: mclear m lo hi) a = if j = a then v else mget (mclear m lo hi) a := rfl
      rw [hkeep, hstep', ih, hstep]
      by_cases ha : j = a
      · rw [if_pos ha, if_pos ha, if_neg (by rwa [← ha])]
      · rw [if_neg ha, if_neg ha]

theorem exec_partCreate_good (c : PartCreate) (h : createStatus s c = 0) :
    ∃ t, exec (.partCreate c) s = .next t ∧ t.partStatus = 0 ∧ t.part c.q.val = {
      st := .creating, clusters := c.clusters, hbmMap := c.hbmMap, slice := c.slice.toNat, sliceNew := none,
      vcFirst := c.vcFirst.toNat, vcLast := c.vcLast.toNat, keySlot := c.keySlot.toNat, stamp := 0 } := by
  rw [show exec (.partCreate c) s = .next (partCreate s c).1 from rfl]
  simp only [partCreate, h, ne_eq, not_true_eq_false, if_false]
  exact ⟨_, rfl, rfl, by simp⟩

theorem exec_partCreate_bad (c : PartCreate) (h : createStatus s c ≠ 0) :
    exec (.partCreate c) s = .next { s with partStatus := BitVec.ofNat 8 (createStatus s c) } := by
  rw [show exec (.partCreate c) s = .next (partCreate s c).1 from rfl]
  simp only [partCreate, if_pos h]

/-- `f` on every unit of HBM of the map `m`. -/
def overUnits (m : W512) (f : State → Nat → State) (s : State) : State := (List.range 512).foldl (fun s u => if bit m u then f s u else s) s

/-- What sets a unit to zero, or drops it, leaves the units of a map reading zero. -/
theorem overUnits_reads_zero {f : State → Nat → State} (hf : ∀ (s : State) (u a : Nat), mget (f s u).mem.hbm a =
    if u * 2 ^ 30 ≤ a ∧ a < (u + 1) * 2 ^ 30 then 0 else mget s.mem.hbm a) (m : W512) (s : State) {a : Nat}
    (ha : a / 2 ^ 30 < 512) (hbit : bit m (a / 2 ^ 30) = true) : mget (overUnits m f s).mem.hbm a = 0 := by
  have hin : a / 2 ^ 30 * 2 ^ 30 ≤ a ∧ a < (a / 2 ^ 30 + 1) * 2 ^ 30 := by omega
  generalize a / 2 ^ 30 = i at ha hbit hin
  have hi : i ∈ List.range 512 := List.mem_range.2 ha
  rw [overUnits]
  generalize List.range 512 = l at hi
  refine foldl_establishes (I := fun _ : State => True) (P := fun u : State => mget u.mem.hbm a = 0) hi (fun _ _ _ => trivial)
    (fun s _ => ?_) (fun s u h => ?_) trivial
  · rw [if_pos hbit, hf, if_pos hin]
  · split
    · rw [hf, h]
      (repeat' split) <;> rfl
    · exact h

@[simp] theorem owned_overUnits {f : State → Nat → State} (hf : ∀ s u, owned (f s u) = owned s) (m : W512) (s : State) :
    owned (overUnits m f s) = owned s :=
  owned_foldl _ _ _ fun s u => by
    split
    · exact hf s u
    · rfl

/-- The export entries of partition `q` are gone. -/
theorem expo_dropExports (s : State) (q : Nat) : ∀ e ∈ (dropExports s q).fab.expo, e.1 / 64 ≠ q := by
  intro e he
  simpa using (List.mem_filter.1 he).2

/-- R381: a unit of a new partition reads zero. -/
def zeroUnit (s : State) (u : Nat) : State := cohZero s (u * 2 ^ 30) ((u + 1) * 2 ^ 30)

theorem hbm_cohZero (s : State) (lo hi : Nat) : (cohZero s lo hi).mem.hbm = mclear s.mem.hbm lo hi := rfl

theorem zeroUnit_reads (s : State) (u a : Nat) :
    mget (zeroUnit s u).mem.hbm a = if u * 2 ^ 30 ≤ a ∧ a < (u + 1) * 2 ^ 30 then 0 else mget s.mem.hbm a := by
  rw [zeroUnit, hbm_cohZero, mget_mclear]

theorem hbm_eraseUnit (s : State) (u : Nat) : (eraseUnit s u).mem.hbm = mclear s.mem.hbm (u * 2 ^ 30) ((u + 1) * 2 ^ 30) := rfl

theorem eraseUnit_reads (s : State) (u a : Nat) :
    mget (eraseUnit s u).mem.hbm a = if u * 2 ^ 30 ≤ a ∧ a < (u + 1) * 2 ^ 30 then 0 else mget s.mem.hbm a := by
  rw [hbm_eraseUnit, mget_mclear]

theorem exec_partCreateDone_eq (q : Fin 32) (hst : (s.part q.val).st = .creating) : ∃ u, exec (.partCreateDone q) s =
    .next ((dropExports (overUnits (s.part q.val).hbmMap zeroUnit u) q.val).stamp.2.setPart q.val { s.part q.val with
      st := .active, stamp := (dropExports (overUnits (s.part q.val).hbmMap zeroUnit u) q.val).stamp.1 }) := by
  refine ⟨(clustersOf (s.part q.val).clusters).foldl clearCluster s, ?_⟩
  rw [show exec (.partCreateDone q) s = execPartCreateDone q s from rfl]
  simp only [execPartCreateDone, hst, ne_eq, not_true_eq_false, if_false, overUnits, zeroUnit]

theorem exec_partCreateDone (q : Fin 32) (hst : (s.part q.val).st = .creating) :
    ∃ t, exec (.partCreateDone q) s = .next t ∧ (t.part q.val).st = .active ∧ (t.part q.val).clusters = (s.part q.val).clusters ∧
      (t.part q.val).hbmMap = (s.part q.val).hbmMap ∧ (∀ e ∈ t.fab.expo, e.1 / 64 ≠ q.val) ∧
      (∀ a, a / 2 ^ 30 < 512 → bit (s.part q.val).hbmMap (a / 2 ^ 30) = true → mget t.mem.hbm a = 0) := by
  obtain ⟨u, hu⟩ := exec_partCreateDone_eq q hst
  have hzero := fun a => overUnits_reads_zero zeroUnit_reads (s.part q.val).hbmMap u (a := a)
  generalize overUnits (s.part q.val).hbmMap zeroUnit u = v at hu hzero
  refine ⟨_, hu, by simp, by simp, by simp, by simpa using expo_dropExports v q, ?_⟩
  rw [State.setPart_mem, stamp_mem]
  exact hzero

/-- A teardown that begins (R400): of the contexts, it changes `n` only, which is in TEARDOWN then where it is alive. -/
theorem ctx_startTeardown (s : State) (n c m : Nat) : (startTeardown s n c).ctx m =
    if m = n ∧ (s.ctx n).st ∉ [CtxState.free, .dead, .teardown] then { s.ctx n with st := .teardown, cause := c, kernel := none } else s.ctx m := by
  simp only [startTeardown]
  split
  case h_4 h1 h2 h3 =>
    have hno : (s.ctx n).st ∉ [CtxState.free, .dead, .teardown] := by simpa using ⟨h1, h2, h3⟩
    by_cases hm : m = n
    · rw [if_pos ⟨hm, hno⟩]
      exact (State.ctx_setCtx _ n m _).trans (if_pos hm)
    · rw [if_neg (fun h => hm h.1)]
      exact (State.ctx_setCtx _ n m _).trans (if_neg hm)
  all_goals rename_i h; simp [h]

theorem startTeardown_alive {n : Nat} (c : Nat) (h : (s.ctx n).st ∉ [CtxState.free, .dead]) :
    ((startTeardown s n c).ctx n).st = .teardown ∧ ((startTeardown s n c).ctx n).destroyReq = (s.ctx n).destroyReq := by
  rw [ctx_startTeardown]
  by_cases ht : (s.ctx n).st = .teardown
  · rw [if_neg (by simp [ht])]
    exact ⟨ht, rfl⟩
  · have hno : (s.ctx n).st ∉ [CtxState.free, .dead, .teardown] := by
      simp only [List.mem_cons, List.not_mem_nil, or_false, not_or] at h ⊢
      exact ⟨h.1, h.2, ht⟩
    rw [if_pos ⟨rfl, hno⟩]
    exact ⟨rfl, rfl⟩

theorem parts_startTeardown (s : State) (n c : Nat) : (startTeardown s n c).parts = s.parts := by
  simp only [startTeardown]
  split <;> rfl

theorem bindings_startTeardown (s : State) (n c : Nat) : (startTeardown s n c).bindings = s.bindings := by
  simp only [startTeardown]
  split <;> rfl


theorem part_foldl_teardown (cause q : Nat) (l : List Nat) (s : State) : (l.foldl (fun s n => startTeardown s n cause) s).part q = s.part q := by
  simp only [State.part]
  exact foldl_keeps (P := fun u : State => tget Partition.dflt u.parts q = tget Partition.dflt s.parts q)
    (fun u n hu => by rw [parts_startTeardown, hu]) l rfl

theorem bindings_foldl_teardown (cause : Nat) (l : List Nat) (s : State) :
    (l.foldl (fun s n => startTeardown s n cause) s).bindings = s.bindings :=
  foldl_keeps (P := fun u : State => u.bindings = s.bindings) (fun u n hu => by rw [bindings_startTeardown, hu]) l rfl

theorem partStatus_foldl_teardown (cause : Nat) (l : List Nat) (s : State) :
    (l.foldl (fun s n => startTeardown s n cause) s).partStatus = s.partStatus := by
  refine foldl_keeps (P := fun u : State => u.partStatus = s.partStatus) (fun u n hu => ?_) l rfl
  rw [← hu]
  simp only [startTeardown]
  split <;> rfl

theorem exec_partDestroy (q : Fin 32) :
    ((s.part q.val).st = .active →
      ∃ t, exec (.partDestroy q) s = .next t ∧ t.partStatus = 0 ∧ (t.part q.val).st = .destroying) ∧
    ((s.part q.val).st = .none → exec (.partDestroy q) s = .next { s with partStatus := 2 }) ∧
    ((s.part q.val).st = .creating ∨ (s.part q.val).st = .destroying → exec (.partDestroy q) s = .next { s with partStatus := 7 }) := by
  rw [show exec (.partDestroy q) s = .next (partDestroy s q.val).1 from rfl]
  refine ⟨fun h => ⟨_, rfl, ?_⟩, fun h => ?_, fun h => ?_⟩
  · simp only [partDestroy, h, reduceCtorEq, or_self, if_false, ne_eq, not_true_eq_false]
    rw [partStatus_foldl_teardown, part_foldl_teardown]
    exact ⟨rfl, by simp⟩
  · simp [partDestroy, h]
  · simp [partDestroy, h]

/-- The bindings of partition `q` are gone (R383). -/
def unbind (s : State) (q : Nat) : State := { s with bindings := s.bindings.filter (fun e => !(bit e.2 7 && fld e.2 4 0 == q)) }

theorem bindings_unbind (s : State) (q : Nat) : ∀ e ∈ (unbind s q).bindings, bit e.2 7 = true → fld e.2 4 0 ≠ q := by
  intro e he hbit
  have h := (List.mem_filter.1 he).2
  simpa [hbit] using h

theorem exec_partDestroyDone_eq (q : Fin 32) (hst : (s.part q.val).st = .destroying)
    (hgone : ctxsOf s q.val (fun x => decide (x.st ≠ .dead)) = []) : ∃ u, owned u = owned s ∧ exec (.partDestroyDone q) s =
      .next { overUnits (s.part q.val).hbmMap eraseUnit (unbind (dropExports u q.val) q.val) with
        parts := tdel (overUnits (s.part q.val).hbmMap eraseUnit (unbind (dropExports u q.val) q.val)).parts q.val } := by
  refine ⟨closeRecords ((clustersOf (s.part q.val).clusters).foldl clearCluster s)
    (fun r => (((clustersOf (s.part q.val).clusters).foldl clearCluster s).ctx r.ctx).partNo == q.val), by simp, ?_⟩
  rw [show exec (.partDestroyDone q) s = execPartDestroyDone q s from rfl]
  simp only [execPartDestroyDone, hst, hgone, ne_eq, not_true_eq_false, decide_false, List.isEmpty_nil, Bool.false_or, beq_iff_eq,
    Bool.true_eq_false, if_false, overUnits, unbind]

theorem exec_partDestroyDone (q : Fin 32) (hst : (s.part q.val).st = .destroying)
    (hgone : ctxsOf s q.val (fun x => decide (x.st ≠ .dead)) = []) :
    ∃ t, exec (.partDestroyDone q) s = .next t ∧ t.parts = tdel s.parts q.val ∧ (∀ e ∈ t.fab.expo, e.1 / 64 ≠ q.val) ∧
      (∀ e ∈ t.bindings, bit e.2 7 = true → fld e.2 4 0 ≠ q.val) ∧
      (∀ a, a / 2 ^ 30 < 512 → bit (s.part q.val).hbmMap (a / 2 ^ 30) = true → mget t.mem.hbm a = 0) := by
  obtain ⟨u, hown, hu⟩ := exec_partDestroyDone_eq q hst hgone
  have hzero := fun a => overUnits_reads_zero eraseUnit_reads (s.part q.val).hbmMap (unbind (dropExports u q.val) q.val) (a := a)
  have hover := owned_overUnits owned_eraseUnit (s.part q.val).hbmMap (unbind (dropExports u q.val) q.val)
  generalize overUnits (s.part q.val).hbmMap eraseUnit (unbind (dropExports u q.val) q.val) = v at hu hzero hover
  refine ⟨_, hu, ?_, ?_, ?_, hzero⟩
  · rw [parts_of_owned hover, ← parts_of_owned hown]
    rfl
  · rw [expo_of_owned hover]
    exact expo_dropExports u q
  · rw [bindings_of_owned hover]
    exact bindings_unbind _ q

theorem exec_vfBindingWrite (vf v : Byte) (hvf : vf ≠ 0) (hres : fld v 6 5 = 0) (hact : bit v 7 = true → (s.part (fld v 4 0)).st = .active) :
    ∃ t, exec (.vfBindingWrite vf v) s = .next t ∧ t.bindings = tset 0 s.bindings vf.toNat v := by
  rw [show exec (.vfBindingWrite vf v) s = .next (bindWrite s vf.toNat v).1 from rfl]
  have hno : ¬ (vf.toNat = 0 ∨ fld v 6 5 ≠ 0 ∨ (bit v 7 = true ∧ (s.part (fld v 4 0)).st ≠ .active)) := by
    rintro (h | h | ⟨h1, h2⟩)
    · exact hvf (BitVec.eq_of_toNat_eq h)
    · exact h hres
    · exact h2 (hact h1)
  refine ⟨_, rfl, ?_⟩
  simp only [bindWrite, if_neg hno]
  split
  · exact bindings_foldl_teardown ..
  · rfl

/-! The admin commands (R418). -/

theorem ctx_adminDone (s : State) (f st n : Nat) (tag : W32) (m : Nat) : (adminDone s f st n tag).ctx m = s.ctx m :=
  ctx_of_owned (owned_adminDone ..) m

theorem ctx_adminTake (s : State) (f m : Nat) : (adminTake s f).ctx m = s.ctx m := rfl

theorem ready_adminTake (s : State) (f : Nat) : (adminTake s f).host.ready = s.host.ready := rfl

/-! What reaches a ring of a function leaves its queues of commands. -/

theorem adminSq_setRing (h : HostFn) (r : Ring) (i : RingId) : (setRing h r i).adminSq = h.adminSq := by
  cases i <;> rfl

theorem adminSq_setFn {f : Nat} {x : HostFn} (hx : x.adminSq = (s.fn f).adminSq) (g : Nat) : ((s.setFn f x).fn g).adminSq = (s.fn g).adminSq := by
  rw [State.fn_setFn]
  split
  next h =>
    rw [hx, h]
  next h =>
    rfl

theorem fn_hostWrite (s : State) (f : Nat) (a : W64) (bs : List Byte) (g : Nat) : (hostWrite s f a bs).fn g = s.fn g := rfl

theorem fn_putEntry (s : State) (f : Nat) (a : W64) (e : List W64) (g : Nat) : (putEntry s f a e).fn g = s.fn g := by
  cases e with
  | nil => rfl
  | cons w0 rest =>
    simp only [putEntry]
    rw [fn_hostWrite]
    split
    · rfl
    · exact fn_hostWrite ..

theorem adminSq_drainRing (f : Nat) (i : RingId) (g : Nat) : ∀ (n : Nat) (s : State) (w : Bool),
    (((drainRing f i n s w).1).fn g).adminSq = (s.fn g).adminSq
  | 0, _, _ => rfl
  | n + 1, s, w => by
    simp only [drainRing]
    split
    · rfl
    · split
      · rfl
      · rw [adminSq_drainRing f i g n, adminSq_setFn (adminSq_setRing ..), fn_putEntry]

theorem adminSq_msix (s : State) (f v g : Nat) : ((msix s f v).fn g).adminSq = (s.fn g).adminSq := by
  simp only [msix]
  split
  · rfl
  split
  · rfl
  · exact adminSq_setFn (x := { s.fn f with pba := _ }) (by rfl) g

theorem adminSq_pumpRing (s : State) (f : Nat) (i : RingId) (g : Nat) : ((pumpRing s f i).fn g).adminSq = (s.fn g).adminSq := by
  have h := adminSq_drainRing f i g (getRing (s.fn f) i).held.length s false
  simp only [pumpRing]
  split
  · rw [adminSq_msix, h]
  · exact h

theorem adminSq_pushEntry (s : State) (f : Nat) (i : RingId) (e : List W64) (g : Nat) :
    ((pushEntry s f i e).fn g).adminSq = (s.fn g).adminSq := by
  simp only [pushEntry]
  rw [adminSq_pumpRing, adminSq_setFn (adminSq_setRing ..)]

theorem fn_stamp (s : State) (g : Nat) : s.stamp.2.fn g = s.fn g := by simp only [State.stamp, State.bumpHub, State.bump, State.fn]

theorem adminSq_adminDone (s : State) (f st n : Nat) (tag : W32) (g : Nat) : ((adminDone s f st n tag).fn g).adminSq = (s.fn g).adminSq := by
  simp only [adminDone]
  rw [adminSq_pushEntry, fn_stamp]

/-! CTX_CREATE and CTX_DESTROY. -/

/-- A command that nothing speaks against has a free number. -/
theorem createCtx_free {f : Nat} {e d : List W64} (h : createCtxStatus s f e d = 0) :
    ∃ n, (List.range 4096).find? (fun n => decide ((s.ctx n).st = .free)) = some n := by
  refine Classical.byContradiction fun hno => ?_
  have hnone : (List.range 4096).find? (fun n => decide ((s.ctx n).st = .free)) = none := by
    cases hf : (List.range 4096).find? (fun n => decide ((s.ctx n).st = .free)) with
    | none => rfl
    | some n => exact absurd ⟨n, hf⟩ hno
  have hall : (List.range 4096).any (fun n => decide ((s.ctx n).st = .free)) = false := by
    rw [List.any_eq_false]
    exact List.find?_eq_none.1 hnone
  simp only [createCtxStatus, hall, Bool.not_false, if_true] at h
  (repeat' split at h) <;> exact absurd h (by decide)

theorem ctxCreate_taken {f : Byte} {e : List W64} (hw : adminWaits s f.toNat = true) (hop : fld (e.headD 0) 63 56 ≠ 2) :
    exec (.ctxCreate f e) s =
      if createCtxStatus (adminTake s f.toNat) f.toNat e ((e.drop 8).take 8) ≠ 0 then
        .next (adminDone (adminTake s f.toNat) f.toNat (createCtxStatus (adminTake s f.toNat) f.toNat e ((e.drop 8).take 8)) 0 (admTag e))
      else .next (adminDone ((adminTake s f.toNat).setCtx
          (((List.range 4096).find? (fun n => decide (((adminTake s f.toNat).ctx n).st = .free))).getD 0)
          { Ctx.dflt with st := .idle, desc := (e.drop 8).take 8, fn := f, fresh := true }) f.toNat 0
        (((List.range 4096).find? (fun n => decide (((adminTake s f.toNat).ctx n).st = .free))).getD 0) (admTag e)) := by
  rw [show exec (.ctxCreate f e) s = execCtxCreate f e s from rfl]
  simp only [execCtxCreate, hw, Bool.not_true, Bool.false_or, beq_iff_eq, hop, if_false]

theorem exec_ctxCreate_good {f : Byte} {e : List W64} (hw : adminWaits s f.toNat = true) (hop : fld (e.headD 0) 63 56 ≠ 2)
    (hok : createCtxStatus (adminTake s f.toNat) f.toNat e ((e.drop 8).take 8) = 0) :
    ∃ t n, exec (.ctxCreate f e) s = .next t ∧ n < 4096 ∧ (s.ctx n).st = .free ∧
      t.ctx n = { Ctx.dflt with st := .idle, desc := (e.drop 8).take 8, fn := f, fresh := true } ∧
      (t.fn f.toNat).adminSq.head = ((s.fn f.toNat).adminSq.head + 1) % (s.fn f.toNat).adminSq.size ∧
      (∀ m < n, (s.ctx m).st ≠ .free) := by
  obtain ⟨n, hn⟩ := createCtx_free hok
  have hexec := ctxCreate_taken hw hop
  rw [if_neg (not_not_intro hok), hn, Option.getD_some] at hexec
  obtain ⟨hfree, as, bs, hsplit, hbefore⟩ := List.find?_eq_some_iff_append.1 hn
  have hlt : n < 4096 := List.mem_range.1 (List.mem_of_find?_eq_some hn)
  refine ⟨_, n, hexec, hlt, of_decide_eq_true hfree, ?_, ?_, fun m hm hmfree => ?_⟩
  · rw [ctx_adminDone, State.ctx_setCtx, if_pos rfl]
  · rw [adminSq_adminDone]
    simp only [adminTake, State.setCtx, State.setFn, State.fn, tget_tput_same]
  · have hidx : as.length = n := by
      have h := congrArg (fun l : List Nat => l[as.length]?) hsplit
      simp only [List.getElem?_append_right (Nat.le_refl _), Nat.sub_self, List.getElem?_cons_zero] at h
      obtain ⟨_, h⟩ := List.getElem?_eq_some_iff.1 h
      simpa using h
    have hmem : m ∈ as := by
      have h := congrArg (fun l : List Nat => l[m]?) hsplit
      simp only [List.getElem?_append_left (hidx ▸ hm), List.getElem?_range (Nat.lt_trans hm hlt)] at h
      exact List.mem_of_getElem? h.symm
    have hno := hbefore m hmem
    rw [ctx_adminTake, hmfree] at hno
    exact absurd hno (by decide)

/-- The state of CTX_DESTROY once its entry is taken (R418). -/
theorem ctxDestroy_taken {f : Byte} {e : List W64} (hw : adminWaits s f.toNat = true) (hop : fld (e.headD 0) 63 56 = 2)
    (hready : s.host.ready = true) (hres : fld (e.headD 0) 43 32 = 0) (hzero : ∀ w ∈ e.drop 1, w = 0)
    (hfn : f = 0 ∨ (s.ctx (fld (e.headD 0) 55 44)).fn = f) (hst : (s.ctx (fld (e.headD 0) 55 44)).st ≠ .free) :
    exec (.ctxDestroy f e) s =
      if (s.ctx (fld (e.headD 0) 55 44)).st = .dead then
        .next (adminDone (freeCtx (adminTake s f.toNat) (fld (e.headD 0) 55 44)) f.toNat 0 (fld (e.headD 0) 55 44) (admTag e))
      else .next (startTeardown ((adminTake s f.toNat).setCtx (fld (e.headD 0) 55 44) { s.ctx (fld (e.headD 0) 55 44) with
        destroyReq := (s.ctx (fld (e.headD 0) 55 44)).destroyReq ++ [(f.toNat, admTag e)] }) (fld (e.headD 0) 55 44) 4) := by
  have hany : (e.drop 1).any (· != 0) = false := by
    rw [List.any_eq_false]
    intro w hw
    simp [hzero w hw]
  have hown : ¬ ((s.ctx (fld (e.headD 0) 55 44)).st = .free ∨ (f.toNat ≠ 0 ∧ (s.ctx (fld (e.headD 0) 55 44)).fn ≠ f)) := by
    rintro (h | ⟨h0, h⟩)
    · exact hst h
    · obtain rfl | h' := hfn
      · exact h0 rfl
      · exact h h'
  rw [show exec (.ctxDestroy f e) s = execCtxDestroy f e s from rfl]
  simp only [execCtxDestroy, hw, hop, ctx_adminTake, ready_adminTake, hready, Bool.not_true, bne_self_eq_false, Bool.or_self,
    Bool.false_eq_true, if_false]
  have hgood : ¬ (fld (e.headD 0) 43 32 ≠ 0 ∨ (e.drop 1).any (· != 0) = true) := by
    rw [hres, hany]
    decide
  rw [if_neg hgood]
  exact if_neg hown

theorem exec_ctxDestroy_dead {f : Byte} {e : List W64} (hw : adminWaits s f.toNat = true) (hop : fld (e.headD 0) 63 56 = 2)
    (hready : s.host.ready = true) (hres : fld (e.headD 0) 43 32 = 0) (hzero : ∀ w ∈ e.drop 1, w = 0)
    (hfn : f = 0 ∨ (s.ctx (fld (e.headD 0) 55 44)).fn = f) (hst : (s.ctx (fld (e.headD 0) 55 44)).st = .dead) :
    ∃ t, exec (.ctxDestroy f e) s = .next t ∧ (t.ctx (fld (e.headD 0) 55 44)).st = .free := by
  refine ⟨_, (ctxDestroy_taken hw hop hready hres hzero hfn (by rw [hst]; decide)).trans (if_pos hst), ?_⟩
  rw [ctx_adminDone, freeCtx, ctx_of_owned (owned_clearResid ..)]
  simp only [State.ctx, tget_tdel_same]
  rfl

theorem exec_ctxDestroy_live {f : Byte} {e : List W64} (hw : adminWaits s f.toNat = true) (hop : fld (e.headD 0) 63 56 = 2)
    (hready : s.host.ready = true) (hres : fld (e.headD 0) 43 32 = 0) (hzero : ∀ w ∈ e.drop 1, w = 0)
    (hfn : f = 0 ∨ (s.ctx (fld (e.headD 0) 55 44)).fn = f) (hst : (s.ctx (fld (e.headD 0) 55 44)).st ∉ [CtxState.free, .dead]) :
    ∃ t, exec (.ctxDestroy f e) s = .next t ∧ (t.ctx (fld (e.headD 0) 55 44)).st = .teardown ∧
      (t.ctx (fld (e.headD 0) 55 44)).destroyReq = (s.ctx (fld (e.headD 0) 55 44)).destroyReq ++ [(f.toNat, admTag e)] := by
  have hfree : (s.ctx (fld (e.headD 0) 55 44)).st ≠ .free := fun h => hst (by rw [h]; decide)
  have hdead : (s.ctx (fld (e.headD 0) 55 44)).st ≠ .dead := fun h => hst (by rw [h]; decide)
  have hexec := (ctxDestroy_taken hw hop hready hres hzero hfn hfree).trans (if_neg hdead)
  generalize fld (e.headD 0) 55 44 = n at hst hexec
  generalize hx : ({ s.ctx n with destroyReq := (s.ctx n).destroyReq ++ [(f.toNat, admTag e)] } : Ctx) = x at hexec
  have hxst : x.st = (s.ctx n).st := by rw [← hx]
  have hctx : ((adminTake s f.toNat).setCtx n x).ctx n = x := (State.ctx_setCtx _ n n x).trans (if_pos rfl)
  obtain ⟨h1, h2⟩ := startTeardown_alive (s := (adminTake s f.toNat).setCtx n x) (n := n) 4 (by rwa [hctx, hxst])
  exact ⟨_, hexec, h1, by rw [h2, hctx, ← hx]⟩

end
end Sys2Proof.Machine

end

section
namespace Sys2Proof.Machine

/-! A context that has left its cores takes none again of itself (R387, R400). -/

section
variable {s : State} {n : Nat} {st : CtxState}

theorem mem_tput_cases {α : Type} {t : Tbl α} {k : Nat} {v : α} {e : Nat × α} (h : e ∈ tput t k v) : e = (k, v) ∨ e ∈ t := by
  induction t with
  | nil => simpa [tput] using h
  | cons x r ih =>
    obtain ⟨j, w⟩ := x
    simp only [tput] at h
    split at h
    · exact (List.mem_cons.1 h).imp_right id
    split at h
    · exact (List.mem_cons.1 h).imp_right (List.mem_cons_of_mem _)
    · obtain h | h := List.mem_cons.1 h
      · exact .inr (by rw [h]; exact List.mem_cons_self)
      · exact (ih h).imp_right (List.mem_cons_of_mem _)

theorem tget_mem_or {α : Type} (d : α) (t : Tbl α) (k : Nat) : tget d t k = d ∨ (k, tget d t k) ∈ t := by
  induction t with
  | nil => exact .inl rfl
  | cons x r ih =>
    obtain ⟨j, w⟩ := x
    simp only [tget]
    split
    next h =>
      exact .inr (by rw [h]; exact List.mem_cons_self)
    next h =>
      exact ih.imp_right (List.mem_cons_of_mem _)

/-- The context is in state `st` and holds no core. -/
structure Off (s : State) (n : Nat) (st : CtxState) : Prop where
  st : (s.ctx n).st = st
  held : ∀ e ∈ s.cores, e.2.ctx.map Prod.fst ≠ some n

theorem Off.heldCores (h : Off s n st) : heldCores s n = [] := by
  refine List.filterMap_eq_nil_iff.2 fun e he => ?_
  have hno := h.held e he
  cases hc : e.2.ctx with
  | none => rfl
  | some x =>
    obtain ⟨m, i⟩ := x
    have hm : m ≠ n := fun hm => hno (by simp [hc, hm])
    simp [hm]

theorem Off.core (h : Off s n st) (k : Nat) : (s.core k).ctx.map Prod.fst ≠ some n := by
  have hmem : s.core k = Core.dflt ∨ (k, s.core k) ∈ s.cores := tget_mem_or ..
  obtain hd | hm := hmem
  · rw [hd]
    exact fun h => nomatch h
  · exact h.held _ hm

theorem Off.of_ctxs {t : State} (h : Off s n st) (hst : (t.ctx n).st = (s.ctx n).st) (hc : t.cores = s.cores) : Off t n st :=
  ⟨hst.trans h.st, by rw [hc]; exact h.held⟩

theorem Off.setCtx {m : Nat} {x : Ctx} (h : Off s n st) (hm : m ≠ n) : Off (s.setCtx m x) n st :=
  h.of_ctxs (by rw [State.ctx_setCtx, if_neg (Ne.symm hm)]) rfl

theorem Off.emit {b kind unit ctx info : Nat} {a0 a1 : W64} (h : Off s n st) : Off (s.emit b kind unit ctx info a0 a1) n st := by
  obtain ⟨g, he⟩ := emit_frame s b kind unit ctx info a0 a1
  rw [he]
  exact ⟨h.st, h.held⟩

/-- A change of every core that takes none for the context. -/
theorem Off.mapCores {f : Nat × Core → Nat × Core} (h : Off s n st)
    (hf : ∀ e, (f e).2.ctx.map Prod.fst = e.2.ctx.map Prod.fst ∨ (f e).2.ctx = none) : Off { s with cores := s.cores.map f } n st := by
  refine ⟨h.st, fun e he => ?_⟩
  obtain ⟨x, hx, rfl⟩ := List.mem_map.1 he
  obtain heq | hnone := hf x
  · rw [heq]
    exact h.held x hx
  · rw [hnone]
    exact fun h => nomatch h

theorem Off.updCore {k : Nat} {f : Core → Core} (h : Off s n st) (hf : (f (s.core k)).ctx.map Prod.fst ≠ some n) : Off (s.updCore k f) n st := by
  refine ⟨h.st, fun e he => ?_⟩
  obtain rfl | he := mem_tput_cases he
  · exact hf
  · exact h.held e he

theorem Off.startTeardown {m c : Nat} (h : Off s n st) (hm : m ≠ n) : Off (startTeardown s m c) n st := by
  simp only [Machine.startTeardown]
  split
  · exact h
  · exact h
  · exact h
  · refine (h.setCtx hm).mapCores fun e => ?_
    split
    · exact .inl rfl
    · exact .inl rfl

/-- States in which a context waits for nothing and holds nothing. -/
def Resting (st : CtxState) : Prop := st = .free ∨ st = .dead

theorem Off.ne_of_st {m : Nat} (h : Off s n st) (hr : Resting st) (hst : (s.ctx m).st ≠ .free) (hst' : (s.ctx m).st ≠ .dead) : m ≠ n := by
  rintro rfl
  rw [h.st] at hst hst'
  exact hr.elim hst hst'

theorem Off.wakeDies {ds : List Nat} (h : Off s n st) : Off (wakeDies s ds) n st := ⟨h.st, h.held⟩

theorem Off.beginRestore (h : Off s n st) (hr : Resting st) (m : Nat) : Off (beginRestore s m) n st := by
  simp only [Machine.beginRestore]
  split
  · exact h
  · split
    · exact h
    split
    · exact h.wakeDies
    · next hwait hrun =>
      have hst : (s.ctx m).st = .waiting := by
        exact Decidable.byContradiction fun hno => hwait (.inl hno)
      have hm : m ≠ n := h.ne_of_st hr (by rw [hst]; decide) (by rw [hst]; decide)
      refine foldl_keeps (P := fun u : State => Off u n st) (fun u e hu => hu.updCore ?_) _ (h.wakeDies.setCtx hm)
      simpa using hm

theorem Off.beginRestores (h : Off s n st) (hr : Resting st) : Off (beginRestores s) n st :=
  foldl_keeps (P := fun u : State => Off u n st) (fun _ m hu => hu.beginRestore hr m) _ h

theorem Off.dispatch {m : Nat} {p : List Nat} (h : Off s n st) (hm : m ≠ n) : Off (dispatch s m p) n st :=
  (h.setCtx hm).emit

theorem Off.preempt {m : Nat} {b : Bool} (h : Off s n st) (hr : Resting st) : Off (preempt s m b) n st := by
  simp only [Machine.preempt]
  split
  next hst =>
    have hm : m ≠ n := h.ne_of_st hr (by rcases hst with hst | hst <;> rw [hst] <;> decide) (by rcases hst with hst | hst <;> rw [hst] <;> decide)
    refine (h.setCtx hm).mapCores fun e => ?_
    split
    · exact .inl rfl
    · exact .inl rfl
  next hst =>
    exact h

theorem Off.stopRestore {m : Nat} (h : Off s n st) (hr : Resting st) : Off (stopRestore s m) n st := by
  simp only [Machine.stopRestore]
  split
  next hst =>
    exact h
  next hst =>
    have hst : (s.ctx m).st = .restoring := Classical.not_not.1 hst
    have hm : m ≠ n := h.ne_of_st hr (by rw [hst]; decide) (by rw [hst]; decide)
    refine (h.setCtx hm).mapCores fun e => ?_
    split
    · split <;> exact .inr rfl
    · split <;> exact .inl rfl

theorem Off.displace {m : Nat} (h : Off s n st) (hr : Resting st) : Off (displace s m) n st := by
  simp only [Machine.displace]
  split
  · exact h.stopRestore hr
  · exact h.preempt hr

theorem Off.bestPlacement {m : Nat} {ok : Nat → Bool} (h : Off s n st) : Off (bestPlacement s m ok).2 n st := by
  simp only [Machine.bestPlacement]
  split
  · exact h
  · exact h
  · exact ⟨h.st, h.held⟩

theorem Off.offerTo (h : Off s n st) (hr : Resting st) (m : Nat) : Off (offerTo s m) n st := by
  simp only [Machine.offerTo]
  by_cases hwait : waitingCtx (s.ctx m) = true
  · have hst : (s.ctx m).st = .waiting := by
      simp only [waitingCtx, Bool.and_eq_true, decide_eq_true_eq] at hwait
      exact hwait.1
    have hm : m ≠ n := h.ne_of_st hr (by rw [hst]; decide) (by rw [hst]; decide)
    have htake : ∀ {u : State} (p : List Nat), Off u n st → Off ((holdersOf u m p).foldl Machine.displace (Machine.dispatch u m p)) n st := fun p hu =>
      foldl_keeps (P := fun u : State => Off u n st) (fun _ _ hv => hv.displace hr) _ (hu.dispatch hm)
    rw [hwait]
    simp only [Bool.not_true, Bool.false_eq_true, if_false]
    split
    · exact h.startTeardown hm
    have hbest : ∀ {u v : State} {ok : Nat → Bool} {r : Option (List Nat)}, Off u n st → Machine.bestPlacement u m ok = (r, v) → Off v n st :=
      fun {_ _ ok _} hu hv => by
        have hb := hu.bestPlacement (m := m) (ok := ok)
        rwa [hv] at hb
    split
    · next hp => exact htake _ (hbest h hp)
    · next hp =>
      split
      · split
        · next hp' => exact htake _ (hbest (hbest h hp) hp')
        · next hp' => exact hbest (hbest h hp) hp'
      · exact hbest h hp
  · rw [Bool.not_eq_true] at hwait
    rw [hwait]
    exact h

theorem Off.offerAll (hr : Resting st) : ∀ (f : Nat) (gone : List Nat) {s : State}, Off s n st → Off (offerAll f gone s) n st
  | 0, _, _, h => h
  | f + 1, gone, s, h => by
    rw [Machine.offerAll]
    split
    · exact h
    · exact Off.offerAll hr f _ (h.offerTo hr _)

theorem Off.offerCores (h : Off s n st) (hr : Resting st) : Off (offerCores s) n st :=
  (Off.offerAll hr _ _ h).beginRestores hr


/-! The end of a teardown (R400). -/

theorem off_freeCores (s : State) (n : Nat) : Off (freeCores s n) n (s.ctx n).st := by
  refine ⟨rfl, fun e he => ?_⟩
  obtain ⟨x, -, rfl⟩ := List.mem_map.1 he
  split
  next h =>
    exact fun h => nomatch h
  next h =>
    exact h

theorem Off.adminDone {f code m : Nat} {tag : W32} (h : Off s n st) : Off (adminDone s f code m tag) n st := by
  refine h.of_ctxs (by rw [ctx_adminDone]) ?_
  simp only [Machine.adminDone]
  rw [(hostOnly_pushEntry ..).cores]
  obtain ⟨x, g, hs⟩ := stamp_frame s
  rw [hs]

theorem Off.freeCtx (h : Off s n st) : Off (freeCtx s n) n .free := by
  refine ⟨?_, fun e he => ?_⟩
  · rw [Machine.freeCtx, ctx_of_owned (owned_clearResid ..)]
    simp only [State.ctx, tget_tdel_same]
    rfl
  · obtain ⟨x, hx, rfl⟩ := List.mem_map.1 he
    have hno := h.held x hx
    split
    · exact hno
    · exact hno

/-- What a record of a context leaves: its state, and the DESTROY commands that wait for it. -/
structure SameEnd (s t : State) (n : Nat) : Prop where
  st : (t.ctx n).st = (s.ctx n).st
  destroyReq : (t.ctx n).destroyReq = (s.ctx n).destroyReq

theorem SameEnd.refl (s : State) (n : Nat) : SameEnd s s n := ⟨rfl, rfl⟩

theorem SameEnd.trans {u v : State} (h : SameEnd s u n) (h' : SameEnd u v n) : SameEnd s v n :=
  ⟨h'.st.trans h.st, h'.destroyReq.trans h.destroyReq⟩

theorem SameEnd.of_owned {u : State} (h : owned u = owned s) : SameEnd s u n := ⟨by rw [ctx_of_owned h], by rw [ctx_of_owned h]⟩

theorem sameEnd_setCtx {x : Ctx} (hst : x.st = (s.ctx n).st) (hreq : x.destroyReq = (s.ctx n).destroyReq) : SameEnd s (s.setCtx n x) n := by
  constructor
  · rw [State.ctx_setCtx, if_pos rfl, hst]
  · rw [State.ctx_setCtx, if_pos rfl, hreq]

theorem sameEnd_recordIrq (s : State) (n : Nat) (urgent : Bool) : SameEnd s (recordIrq s n urgent) n := by
  simp only [recordIrq]
  split
  · refine SameEnd.trans (sameEnd_setCtx ?_ ?_) (.of_owned (owned_msix ..))
    · rfl
    · rfl
  · exact sameEnd_setCtx rfl rfl

theorem sameEnd_writeRecord {kind cause tag : Nat} {urgent : Bool} {t : State} {w : W64} (h : writeRecord s n kind cause tag urgent = some (t, w)) :
    SameEnd s t n := by
  have htail : SameEnd s (s.stamp.2.setCtx n { s.ctx n with
      cqTail := ((s.ctx n).cqTail + 1) % cqSize (s.ctx n), cqKnown := (s.ctx n).cqKnown - 1 }) n := by
    have hs : s.stamp.2.ctx n = s.ctx n := ctx_of_owned (owned_stamp s) n
    exact SameEnd.trans (.of_owned (owned_stamp s)) (sameEnd_setCtx (by rw [hs]) (by rw [hs]))
  have hdone : ∀ {u : State}, SameEnd s u n → some (recordIrq u n urgent, s.stamp.1) = some (t, w) → SameEnd s t n := fun hu he => by
    obtain ⟨rfl, -⟩ := Prod.mk.injEq .. ▸ Option.some.inj he
    exact hu.trans (sameEnd_recordIrq ..)
  simp only [writeRecord] at h
  split at h
  · exact hdone (htail.trans (.of_owned (owned_cohWrite ..))) h
  · exact hdone (htail.trans (.of_owned (owned_putEntry ..))) h
  · exact hdone (htail.trans (.of_owned (owned_sendWbFor ..))) h
  · exact nomatch h

theorem sameEnd_teardownRecord (s : State) (n : Nat) : SameEnd s (teardownRecord s n) n := by
  simp only [teardownRecord]
  split
  · next h =>
    split at h
    · exact nomatch h
    · exact sameEnd_writeRecord h
  · exact .of_owned ((owned_pushEntry ..).trans (owned_stamp s))

/-- The end of a teardown, once its record has been written (R400 steps 4 and 5, R401). -/
def teardownEnded (v : State) (n : Nat) : State :=
  offerCores (beginRestores (if (v.ctx n).destroyReq.isEmpty then v
    else (v.ctx n).destroyReq.foldl (fun s d => adminDone s d.1 0 n d.2) (freeCtx v n)))

/-- The state of a context that is torn down. -/
def deadCtx (x : Ctx) : Ctx := { x with st := .dead, next := none, kernel := none, kept := [] }

theorem finishTeardown_eq (s : State) (n : Nat) : ∃ u, owned u = owned s ∧
    finishTeardown s n = teardownEnded (freeCores (teardownRecord (u.setCtx n (deadCtx (u.ctx n))) n) n) n := by
  refine ⟨_, ?_, rfl⟩
  rw [owned_emit, owned_forgetCtx, owned_dropXlate]
  have hcut : ∀ (v : State) (l : List (Nat × Nat × Walker)), owned { v with mem := { v.mem with noRec := l } } = owned v := fun v l => by simp
  rw [hcut, owned_closeRecords, owned_foldl, owned_foldl]
  · exact fun v e => owned_putPieces ..
  · exact fun v k => owned_foldl _ _ _ fun v key => owned_discardRem ..

/-- A teardown that has ended: the state that its DESTROY commands ask for, and no core. -/
theorem off_finishTeardown (s : State) (n : Nat) :
    Off (finishTeardown s n) n (if (s.ctx n).destroyReq ≠ [] then .free else .dead) := by
  obtain ⟨u, hown, hu⟩ := finishTeardown_eq s n
  rw [hu]
  have hrec := sameEnd_teardownRecord (u.setCtx n (deadCtx (u.ctx n))) n
  have hctx : (u.setCtx n (deadCtx (u.ctx n))).ctx n = deadCtx (s.ctx n) := by
    rw [State.ctx_setCtx, if_pos rfl, ctx_of_owned hown]
  have hoff := off_freeCores (teardownRecord (u.setCtx n (deadCtx (u.ctx n))) n) n
  rw [hrec.st, hctx] at hoff
  have hreq : ((freeCores (teardownRecord (u.setCtx n (deadCtx (u.ctx n))) n) n).ctx n).destroyReq = (s.ctx n).destroyReq := by
    rw [ctx_of_owned (owned_freeCores ..), hrec.destroyReq, hctx]
    rfl
  generalize freeCores (teardownRecord (u.setCtx n (deadCtx (u.ctx n))) n) n = v at hoff hreq
  have hrest : Resting (if (s.ctx n).destroyReq ≠ [] then .free else .dead) := by
    split
    · exact .inl rfl
    · exact .inr rfl
  rw [teardownEnded, hreq]
  refine Off.offerCores (Off.beginRestores ?_ hrest) hrest
  by_cases hnone : (s.ctx n).destroyReq = []
  · rw [hnone]
    exact hoff
  · rw [if_neg (by simpa using hnone), if_pos hnone]
    exact foldl_keeps (P := fun w : State => Off w n .free) (fun _ _ hw => hw.adminDone) _ hoff.freeCtx

theorem exec_teardownComplete {m : BitVec 12} (hst : (s.ctx m.toNat).st = .teardown)
    (hended : ∀ e ∈ heldCores s m.toNat, coreEnded (drainedCtx s m.toNat) e.1 = true)
    (hroom : cqRoom (drainedCtx s m.toNat) m.toNat true ≠ some false) :
    exec (.teardownComplete m) s = .next (finishTeardown (drainedCtx s m.toNat) m.toNat) := by
  have hall : ((heldCores s m.toNat).map Prod.fst).all (coreEnded (drainedCtx s m.toNat)) = true := by
    simp only [List.all_eq_true, List.mem_map]
    rintro k ⟨e, he, rfl⟩
    exact hended e he
  rw [drainedCtx] at hall hroom
  rw [show exec (.teardownComplete m) s = execTeardownComplete m s from rfl]
  simp only [execTeardownComplete, hst, ne_eq, not_true_eq_false, if_false, hall, Bool.not_true, Bool.false_eq_true, hroom, drainedCtx]

end
end Sys2Proof.Machine

end

section
namespace Sys2Proof.Machine

/-! Saving and restoring a context (R393 to R395). -/

section
variable {s : State} {n : Nat}

theorem exec_contextQuiescent {k : Fin 256} {i : Nat} (hctx : (s.core k.val).ctx = some (n, i)) (hst : (s.ctx n).st = .saving)
    (hquiet : (s.core k.val).quiet = false)
    (hstop : (enginesStopped ((drainedCore s k.val).core k.val) && coreQuiet (drainedCore s k.val) k.val) = true) :
    exec (.contextQuiescent k) s = .next ((drainedCore s k.val).updCore k.val Core.settleQueues) := by
  rw [drainedCore] at hstop ⊢
  rw [show exec (.contextQuiescent k) s = execContextQuiescent k s from rfl]
  simp only [execContextQuiescent, hctx, hst, hquiet, hstop, ne_eq, not_true_eq_false, Bool.false_eq_true, or_self, if_false, if_true]

/-- The cores of a context keep what it leaves in them (R396). -/
def tagCores (s : State) (n : Nat) (held : List (Nat × Nat)) : State :=
  held.foldl (fun s e => s.updCore e.1 (fun c => { c with resid := some (n, e.2) })) s

theorem owned_tagCores (s : State) (n : Nat) (held : List (Nat × Nat)) : owned (tagCores s n held) = owned s :=
  owned_foldl _ _ _ fun s e => owned_updCore s e.1 _

theorem mem_tagCores (s : State) (n : Nat) (held : List (Nat × Nat)) : (tagCores s n held).mem = s.mem :=
  foldl_keeps (P := fun u : State => u.mem = s.mem)
    (f := fun (s : State) (e : Nat × Nat) => s.updCore e.1 (fun c => { c with resid := some (n, e.2) })) (fun _ _ hu => hu) held rfl

theorem tagCores_resid {held : List (Nat × Nat)} {e : Nat × Nat} (he : e ∈ held) :
    ((tagCores s n held).core e.1).resid.map Prod.fst = some n := by
  refine foldl_establishes (I := fun _ : State => True) (P := fun u : State => (u.core e.1).resid.map Prod.fst = some n) he
    (fun _ _ _ => trivial) (fun u _ => ?_) (fun u d hu => ?_) trivial
  · rw [State.core_updCore, if_pos rfl]
    rfl
  · rw [State.core_updCore]
    split
    · rfl
    · exact hu

/-- A core that is set free. -/
def freedCore (n : Nat) (c : Core) : Core := if c.ctx.map Prod.fst = some n then { c with ctx := none, stopped := false, quiet := false } else c

theorem core_freeCores (s : State) (n k : Nat) : (freeCores s n).core k = freedCore n (s.core k) := by
  have h := tget_map Core.dflt (freedCore n) s.cores k
  have hd : freedCore n Core.dflt = Core.dflt := rfl
  have hcores : (freeCores s n).cores = s.cores.map (fun e => (e.1, freedCore n e.2)) := by
    simp only [freeCores, freedCore]
    refine List.map_congr_left fun e _ => ?_
    (repeat' split) <;> rfl
  rw [hd] at h
  rw [State.core, hcores, h]
  rfl

theorem resid_freedCore (n : Nat) (c : Core) : (freedCore n c).resid = c.resid := by
  simp only [freedCore]
  (repeat' split) <;> rfl

/-- Where a context that has been saved goes (R394). -/
def afterSave (x : Ctx) : CtxState := if x.toStop then .stopped else if hasWork x then .waiting else .idle

theorem exec_contextSaved_eq {m : BitVec 12} (hst : (s.ctx m.toNat).st = .saving) (hheld : heldCores s m.toNat ≠ [])
    (hquiet : ∀ e ∈ heldCores s m.toNat, (s.core e.1).quiet = true) :
    ∃ kept next, exec (.contextSaved m) s = .next (offerCores (beginRestores (
      ((freeCores (tagCores ((heldCores s m.toNat).foldl (fun s e => saveCore s m.toNat e.2 e.1) s) m.toNat (heldCores s m.toNat)) m.toNat).setCtx
        m.toNat { s.ctx m.toNat with
          st := afterSave (s.ctx m.toNat), fresh := false, toStop := false, expired := false, kept := kept, savedOn := (s.ctx m.toNat).cores
          next := next }).emit 4 8 ((s.ctx m.toNat).cores.headD 0) m.toNat 0
        ((freeCores (tagCores ((heldCores s m.toNat).foldl (fun s e => saveCore s m.toNat e.2 e.1) s) m.toNat (heldCores s m.toNat))
          m.toNat).bcn.num.setWidth 64) 0))) := by
  have hall : (heldCores s m.toNat).all (fun e => (s.core e.1).quiet) = true := List.all_eq_true.2 hquiet
  have hempty : (heldCores s m.toNat).isEmpty = false := List.isEmpty_eq_false_iff.2 hheld
  have hctx : (freeCores (tagCores ((heldCores s m.toNat).foldl (fun s e => saveCore s m.toNat e.2 e.1) s) m.toNat (heldCores s m.toNat))
      m.toNat).ctx m.toNat = s.ctx m.toNat :=
    ctx_of_owned (((owned_freeCores ..).trans (owned_tagCores ..)).trans (owned_foldl _ _ _ fun _ _ => owned_saveCore ..)) _
  rw [tagCores] at hctx ⊢
  rw [show exec (.contextSaved m) s = execContextSaved m s from rfl]
  simp only [execContextSaved, hst, hall, hempty, ne_eq, not_true_eq_false, Bool.false_eq_true, Bool.not_true, or_self, if_false, hctx, afterSave]
  exact ⟨_, _, rfl⟩

theorem exec_contextSaved {m : BitVec 12} (hst : (s.ctx m.toNat).st = .saving) (hheld : heldCores s m.toNat ≠ [])
    (hquiet : ∀ e ∈ heldCores s m.toNat, (s.core e.1).quiet = true) :
    ∃ u, exec (.contextSaved m) s = .next (offerCores (beginRestores u)) ∧ heldCores u m.toNat = [] ∧
      (u.ctx m.toNat).st = (if (s.ctx m.toNat).toStop then .stopped else if hasWork (s.ctx m.toNat) then .waiting else .idle) ∧
      (u.ctx m.toNat).savedOn = (s.ctx m.toNat).cores ∧ (u.ctx m.toNat).fresh = false ∧
      u.mem.hbm = ((heldCores s m.toNat).foldl (fun s e => saveCore s m.toNat e.2 e.1) s).mem.hbm ∧
      (∀ e ∈ heldCores s m.toNat, (u.core e.1).resid.map Prod.fst = some m.toNat) := by
  obtain ⟨kept, next, hexec⟩ := exec_contextSaved_eq hst hheld hquiet
  generalize (heldCores s m.toNat).foldl (fun s e => saveCore s m.toNat e.2 e.1) s = v at hexec
  have hoff := off_freeCores (tagCores v m.toNat (heldCores s m.toNat)) m.toNat
  have hresid : ∀ e ∈ heldCores s m.toNat,
      ((freeCores (tagCores v m.toNat (heldCores s m.toNat)) m.toNat).core e.1).resid.map Prod.fst = some m.toNat := fun e he => by
    rw [core_freeCores, resid_freedCore]
    exact tagCores_resid he
  have hmem : (freeCores (tagCores v m.toNat (heldCores s m.toNat)) m.toNat).mem = v.mem := mem_tagCores ..
  generalize freeCores (tagCores v m.toNat (heldCores s m.toNat)) m.toNat = w at hexec hoff hresid hmem
  generalize hx : ({ s.ctx m.toNat with
    st := afterSave (s.ctx m.toNat), fresh := false, toStop := false, expired := false, kept := kept, savedOn := (s.ctx m.toNat).cores
    next := next } : Ctx) = x at hexec
  have hctx : (w.setCtx m.toNat x).ctx m.toNat = x := by rw [State.ctx_setCtx, if_pos rfl]
  have hset : Off (w.setCtx m.toNat x) m.toNat x.st := ⟨by rw [hctx], hoff.held⟩
  refine ⟨_, hexec, hset.emit.heldCores, ?_, ?_, ?_, ?_, fun e he => ?_⟩
  · rw [hset.emit.st, ← hx]
    rfl
  · rw [ctx_of_owned (owned_emit ..), hctx, ← hx]
  · rw [ctx_of_owned (owned_emit ..), hctx, ← hx]
  · rw [(hostOnly_emit ..).mem, State.setCtx_mem, hmem]
  · rw [core_emit]
    exact hresid e he

/-! A restore. -/

/-- The context runs on core `k`. -/
def RunsOn (n k : Nat) (s : State) : Prop := (s.core k).ctx.map Prod.fst = some n ∧ (s.core k).stopped = false

theorem RunsOn.updL1Line {k j key : Nat} {f : CLine → CLine} (h : RunsOn n k s) : RunsOn n k (updL1Line s j key f) := by
  rw [RunsOn, Machine.updL1Line, core_updL1]
  split
  next hk =>
    subst hk
    exact h
  next hk =>
    exact h

theorem RunsOn.voidFill {k c key : Nat} (h : RunsOn n k s) : RunsOn n k (voidFill s c key) := by
  simp only [Machine.voidFill]
  (repeat' split) <;> exact h

/-- The clean sectors of a remote line leave the L1 of core `j` (R273). -/
def dropCleanL1 (s : State) (j key : Nat) : State :=
  match l1Line s j key with
  | some l => if l.st = .rem then updL1Line s j key (fun l =>
      { l with sec := l.sec.filter (fun e => e.2.dirty), st := if (l.sec.filter (fun e => e.2.dirty)).isEmpty then LineState.i else l.st }) else s
  | none => s

theorem RunsOn.dropCleanL1 {k j key : Nat} (h : RunsOn n k s) : RunsOn n k (dropCleanL1 s j key) := by
  simp only [Machine.dropCleanL1]
  split
  · split
    · exact h.updL1Line
    · exact h
  · exact h

theorem discardRem_cases (s : State) (j key : Nat) : discardRem s j key = dropCleanL1 (voidFill s (clusterOf j) key) j key ∨
    ∃ f, discardRem s j key = updL2Line (dropCleanL1 (voidFill s (clusterOf j) key) j key) (clusterOf j) key f := by
  generalize hu : dropCleanL1 (voidFill s (clusterOf j) key) j key = u
  have hd : discardRem s j key = match l2Line u (clusterOf j) key with
    | some l => if l.st = .rem then updL2Line u (clusterOf j) key (fun l => { l with sec := [] }) else u
    | none => u := by
    rw [← hu]
    rfl
  rw [hd]
  split
  · split
    · exact .inr ⟨_, rfl⟩
    · exact .inl rfl
  · exact .inl rfl

theorem RunsOn.discardRem {k j key : Nat} (h : RunsOn n k s) : RunsOn n k (discardRem s j key) := by
  have hd : RunsOn n k (Machine.dropCleanL1 (Machine.voidFill s (clusterOf j) key) j key) := h.voidFill.dropCleanL1
  obtain he | ⟨f, he⟩ := discardRem_cases s j key
  · rw [he]
    exact hd
  · rw [he]
    exact hd

/-- The core of a restore, and the copies of remote lines that it drops where the context has moved (R395). -/
theorem restoreOne_eq (s : State) (n i k shift : Nat) (moved : Bool) : ∃ c : Core, c.ctx = some (n, i) ∧ c.stopped = false ∧
    restoreOne s n i k shift moved =
      if moved then (remKeys (s.setCore k c) k).foldl (fun s key => discardRem s k key) (s.setCore k c) else s.setCore k c :=
  ⟨_, rfl, rfl, rfl⟩

theorem runsOn_restoreOne (s : State) (n i k shift : Nat) (moved : Bool) : RunsOn n k (restoreOne s n i k shift moved) := by
  obtain ⟨c, hctx, hstop, he⟩ := restoreOne_eq s n i k shift moved
  have hset : RunsOn n k (s.setCore k c) := by
    rw [RunsOn, State.core_setCore, if_pos rfl, hctx]
    exact ⟨rfl, hstop⟩
  rw [he]
  split
  · exact foldl_keeps (P := fun u : State => RunsOn n k u) (fun _ _ hu => hu.discardRem) _ hset
  · exact hset

theorem RunsOn.restoreOne {k : Nat} (h : RunsOn n k s) (i j shift : Nat) (moved : Bool) : RunsOn n k (restoreOne s n i j shift moved) := by
  by_cases hk : k = j
  · rw [hk]
    exact runsOn_restoreOne ..
  · obtain ⟨c, -, -, he⟩ := restoreOne_eq s n i j shift moved
    have hset : RunsOn n k (s.setCore j c) := by
      rw [RunsOn, State.core_setCore, if_neg hk]
      exact h
    rw [he]
    split
    · exact foldl_keeps (P := fun u : State => RunsOn n k u) (fun _ _ hu => hu.discardRem) _ hset
    · exact hset

theorem owned_restoreOne (s : State) (n i k shift : Nat) (moved : Bool) : owned (restoreOne s n i k shift moved) = owned s := by
  obtain ⟨c, -, -, he⟩ := restoreOne_eq s n i k shift moved
  rw [he]
  split
  · rw [owned_foldl _ _ _ fun _ _ => owned_discardRem .., owned_setCore]
  · exact owned_setCore ..

/-- Nothing speaks against the resumption of a context (R395). -/
def ImagesGood (s : State) (n : Nat) : Prop := (s.ctx n).fresh = true ∨
  (∀ e ∈ heldCores s n, badImage s (saveArea (s.ctx n) e.2) = false ∧
    ((s.ctx n).resumed = true → badEdit s (saveArea (s.ctx n) e.2) = false) ∧
    poisonedImage s (saveArea (s.ctx n) e.2) ((s.core e.1).resid == some (n, e.2)) = false)

theorem ImagesGood.none_poisoned (h : ImagesGood s n) : (!(s.ctx n).fresh && (heldCores s n).any (fun e =>
    poisonedImage s (saveArea (s.ctx n) e.2) ((s.core e.1).resid == some (n, e.2)))) = false := by
  obtain h | h := h
  · rw [h]
    rfl
  · rw [Bool.and_eq_false_iff, List.any_eq_false]
    exact .inr fun e he => by simp [(h e he).2.2]

theorem ImagesGood.none_bad (h : ImagesGood s n) : (!(s.ctx n).fresh && (heldCores s n).any (fun e =>
    badImage s (saveArea (s.ctx n) e.2) || ((s.ctx n).resumed && badEdit s (saveArea (s.ctx n) e.2)))) = false := by
  obtain h | h := h
  · rw [h]
    rfl
  · rw [Bool.and_eq_false_iff, List.any_eq_false]
    refine .inr fun e he => ?_
    obtain ⟨himg, hedit, -⟩ := h e he
    rw [himg]
    cases hr : (s.ctx n).resumed with
    | false => simp
    | true => simp [hedit hr]

/-- The cores of a restore, one after the other (R395). -/
def restoreAll (s : State) (n : Nat) : State :=
  (heldCores s n).foldl (fun u e => restoreOne u n e.2 e.1
    (if (s.ctx n).width < 8 ∧ !(s.ctx n).fresh then e.1 % 8 + 8 - (s.ctx n).savedOn.getD e.2 e.1 % 8 else 0)
    (!(s.ctx n).fresh && clusterOf ((s.ctx n).savedOn.getD e.2 e.1) != clusterOf e.1)) s

theorem owned_restoreAll (s : State) (n : Nat) : owned (restoreAll s n) = owned s :=
  owned_foldl _ _ _ fun _ _ => owned_restoreOne ..

theorem runsOn_restoreAll {e : Nat × Nat} (he : e ∈ heldCores s n) : RunsOn n e.1 (restoreAll s n) :=
  foldl_establishes (I := fun _ : State => True) (P := fun u : State => RunsOn n e.1 u) he (fun _ _ _ => trivial)
    (fun u _ => runsOn_restoreOne u n e.2 e.1 _ _) (fun _ d hu => hu.restoreOne d.2 d.1 _ _) trivial

/-- The clusters of a restore list the context first. -/
def listRecent (s : State) (n : Nat) (cl : List Nat) : State :=
  cl.foldl (fun s c => s.setCluster c { s.cluster c with recent := (n :: (s.cluster c).recent.filter (· != n)).take 4 }) s

theorem owned_listRecent (s : State) (n : Nat) (cl : List Nat) : owned (listRecent s n cl) = owned s :=
  owned_foldl _ _ _ fun s c => owned_setCluster s c _

theorem RunsOn.listRecent {k : Nat} (h : RunsOn n k s) (cl : List Nat) : RunsOn n k (listRecent s n cl) :=
  foldl_keeps (P := fun u : State => RunsOn n k u)
    (f := fun s c => s.setCluster c { s.cluster c with recent := (n :: (s.cluster c).recent.filter (· != n)).take 4 }) (fun _ _ hu => hu) cl h

/-- The context that resumes. -/
def resumedCtx (x : Ctx) : Ctx := { x with st := .running, resumed := false }

theorem exec_contextRestored_eq {m : BitVec 12} (hst : (s.ctx m.toNat).st = .restoring) (hgood : ImagesGood s m.toNat) :
    ∃ cl, exec (.contextRestored m) s = .next (
      if hasWork (resumedCtx (s.ctx m.toNat)) then (listRecent (restoreAll s m.toNat) m.toNat cl).setCtx m.toNat (resumedCtx (s.ctx m.toNat))
      else ((listRecent (restoreAll s m.toNat) m.toNat cl).setCtx m.toNat (resumedCtx (s.ctx m.toNat))).setCtx m.toNat
        { resumedCtx (s.ctx m.toNat) with st := .holding }) := by
  have hpoison := hgood.none_poisoned
  have hbad := hgood.none_bad
  refine ⟨((heldCores s m.toNat).map (fun e => clusterOf e.1)).eraseDups, ?_⟩
  have hctx : (listRecent (restoreAll s m.toNat) m.toNat ((heldCores s m.toNat).map (fun e => clusterOf e.1)).eraseDups).ctx m.toNat =
      s.ctx m.toNat := ctx_of_owned ((owned_listRecent ..).trans (owned_restoreAll ..)) _
  rw [show exec (.contextRestored m) s = execContextRestored m s from rfl]
  rw [listRecent, restoreAll] at hctx ⊢
  simp only [execContextRestored, hst, hpoison, hbad, ne_eq, not_true_eq_false, if_false, Bool.false_eq_true, hctx, State.ctx_setCtx, if_true,
    resumedCtx] <;> rfl

theorem exec_contextRestored {m : BitVec 12} (hst : (s.ctx m.toNat).st = .restoring) (hgood : ImagesGood s m.toNat) :
    ∃ t, exec (.contextRestored m) s = .next t ∧ (t.ctx m.toNat).st = (if hasWork (s.ctx m.toNat) then .running else .holding) ∧
      (∀ e ∈ heldCores s m.toNat, (t.core e.1).ctx.map Prod.fst = some m.toNat ∧ (t.core e.1).stopped = false) := by
  obtain ⟨cl, hexec⟩ := exec_contextRestored_eq hst hgood
  have hwork : hasWork (resumedCtx (s.ctx m.toNat)) = hasWork (s.ctx m.toNat) := rfl
  rw [hwork] at hexec
  have hruns : ∀ e ∈ heldCores s m.toNat, RunsOn m.toNat e.1 (listRecent (restoreAll s m.toNat) m.toNat cl) := fun e he =>
    (runsOn_restoreAll he).listRecent cl
  generalize listRecent (restoreAll s m.toNat) m.toNat cl = v at hexec hruns
  refine ⟨_, hexec, ?_, fun e he => ?_⟩
  · split
    · rw [State.ctx_setCtx, if_pos rfl]
      rfl
    · rw [State.ctx_setCtx, if_pos rfl]
  · split
    · exact hruns e he
    · exact hruns e he

end
end Sys2Proof.Machine

open Sys2Proof Sys2Proof.Machine

/-- Settles O48: a step of a teardown, a save or a restore leaves contexts, partitions, bindings and exports but for what it is about
(`owned`); a context that has left its cores takes none of itself (`Off`). -/
theorem partitionAndContextCommandsComplete : Obligations.PartitionAndContextCommandsComplete := by
  unfold Obligations.PartitionAndContextCommandsComplete
  refine ⟨fun c s h => exec_partCreate_good c h, fun c s h => exec_partCreate_bad c h, fun q s h => exec_partCreateDone q h,
    fun q s => exec_partDestroy q, fun q s h hgone => exec_partDestroyDone q h hgone, fun q v s hv hst => ?_,
    fun vf v s hvf hres hact => exec_vfBindingWrite vf v hvf hres hact, fun f e s hw hop hok => exec_ctxCreate_good hw hop hok,
    fun f e s hw hop hbad => (ctxCreate_taken hw hop).trans (if_pos hbad),
    fun f e s hw hop hr hres hz hst hfn => exec_ctxDestroy_live hw hop hr hres hz hfn hst,
    fun f e s hw hop hr hres hz hst hfn => exec_ctxDestroy_dead hw hop hr hres hz hfn hst, fun n s hst hended hroom => ?_,
    fun k s n i hctx hst hq hstop => exec_contextQuiescent hctx hst hq hstop, fun n s hst hheld hq => exec_contextSaved hst hheld hq,
    fun n s hst hgood => exec_contextRestored hst hgood⟩
  · have hno : ¬ (v = 0 ∨ (s.part q.val).st = .none) := fun h => h.elim hv hst
    rw [show exec (.sliceWrite q v) s = .next (sliceWrite s q.val v).1 from rfl]
    simp only [sliceWrite, if_neg hno]
  · have hoff := off_finishTeardown (drainedCtx s n.toNat) n.toNat
    exact ⟨_, exec_teardownComplete hst hended hroom, rfl, hoff.st, hoff.heldCores⟩

end

section
/-!
Reliability: faults, recoveries, ways, frames and uncorrectable errors (O55).
-/
namespace Sys2Proof.Machine

/-! What the steps of a recovery leave of the records of reliability and of the UCIe modules that are out (R13, R463 to R470). One lemma for
each function, resting on those of its callees. -/

section

/-- The records of reliability, and the UCIe modules that are out of service. -/
def ledger (s : State) : Rel × List (Nat × Nat) := (s.rel, s.mem.ucieOut)

@[simp] theorem ledger_mk (a b c d e f g h i j k l m n o p q r) :
    ledger (State.mk a b c d e f g h i j k l m n o p q r) = (m, b.ucieOut) := Eq.trans rfl rfl

@[simp] theorem ledger_eta (s : State) : (s.rel, s.mem.ucieOut) = ledger s := Eq.trans rfl rfl

@[simp] theorem ledger_ite (c : Prop) [Decidable c] (s t : State) : ledger (if c then s else t) = if c then ledger s else ledger t :=
  apply_ite ..

@[simp] theorem ledger_foldl {α : Type} (f : State → α → State) (s : State) (l : List α) (h : ∀ s a, ledger (f s a) = ledger s) :
    ledger (l.foldl f s) = ledger s := by
  induction l generalizing s with
  | nil => rfl
  | cons a l ih => exact (ih (f s a)).trans (h s a)

@[simp] theorem ledger_setPort (s : State) (p : Nat) (x : Port) : ledger (s.setPort p x) = ledger s := by simp [State.setPort]

@[simp] theorem ledger_updPort (s : State) (p : Nat) (f : Port → Port) : ledger (s.updPort p f) = ledger s := by simp [State.updPort]

@[simp] theorem ledger_setCtx (s : State) (n : Nat) (x : Ctx) : ledger (s.setCtx n x) = ledger s := by simp [State.setCtx]

@[simp] theorem ledger_setCore (s : State) (k : Nat) (c : Core) : ledger (s.setCore k c) = ledger s := by simp [State.setCore]

@[simp] theorem ledger_updCore (s : State) (k : Nat) (f : Core → Core) : ledger (s.updCore k f) = ledger s := by simp [State.updCore]

@[simp] theorem ledger_updMx (s : State) (k : Nat) (f : Matrix → Matrix) : ledger (s.updMx k f) = ledger s := by simp [State.updMx]

@[simp] theorem ledger_setCluster (s : State) (c : Nat) (x : Cluster) : ledger (s.setCluster c x) = ledger s := by simp [State.setCluster]

@[simp] theorem ledger_setHome (s : State) (d : Nat) (x : Home) : ledger (s.setHome d x) = ledger s := by simp [State.setHome]

@[simp] theorem ledger_setPoison (s : State) (line q : Nat) (p : Bool) : ledger (setPoison s line q p) = ledger s := by simp [setPoison]

@[simp] theorem ledger_free (s : State) : ledger s.free.2 = ledger s := by simp [State.free]

@[simp] theorem ledger_stamp (s : State) : ledger s.stamp.2 = ledger s := by simp [State.stamp, State.bumpHub, State.bump]

@[simp] theorem ledger_emit (s : State) (b kind unit ctx info : Nat) (a0 a1 : W64) : ledger (s.emit b kind unit ctx info a0 a1) = ledger s := by
  obtain ⟨g, h⟩ := emit_frame s b kind unit ctx info a0 a1
  rw [h]
  simp

/-! Ports. -/

@[simp] theorem ledger_postRec (s : State) (e : EventRec) : ledger (postRec s e) = ledger s := by simp [postRec, keepEvent]

@[simp] theorem ledger_postEvent (s : State) (kind p st peer : Nat) (w2 w3 : W64) : ledger (postEvent s kind p st peer w2 w3) = ledger s := by
  simp [postEvent]

@[simp] theorem ledger_portEvent (s : State) (kind p : Nat) (w2 : W64) : ledger (portEvent s kind p w2) = ledger s := by simp [portEvent]

@[simp] theorem ledger_loseUpstream (s : State) : ledger (loseUpstream s) = ledger s := by
  simp only [loseUpstream]
  split <;> simp [holdOver]

@[simp] theorem ledger_upstreamLeft (s : State) (p : Nat) : ledger (upstreamLeft s p) = ledger s := by simp [upstreamLeft]

@[simp] theorem ledger_endCut (s : State) (p : Nat) : ledger (endCut s p) = ledger s := by
  simp only [endCut]
  split <;> simp

@[simp] theorem ledger_stopPort (s : State) (p : Nat) (st : PortState) : ledger (stopPort s p st) = ledger s := by simp [stopPort]

@[simp] theorem ledger_portEnters (s : State) (p : Nat) (st : PortState) : ledger (portEnters s p st) = ledger s := by
  simp only [portEnters]
  split <;> simp

@[simp] theorem ledger_enterPort (s : State) (p : Nat) (st : PortState) : ledger (enterPort s p st) = ledger s := by simp [enterPort]

@[simp] theorem ledger_loseGroup (s : State) (p g : Nat) : ledger (loseGroup s p g) = ledger s := by simp [loseGroup]

/-! Contexts. -/

@[simp] theorem ledger_startTeardown (s : State) (n c : Nat) : ledger (startTeardown s n c) = ledger s := by
  simp only [startTeardown]
  split <;> simp

@[simp] theorem ledger_tearDownWhere (s : State) (p : Nat → Ctx → Bool) : ledger (tearDownWhere s p) = ledger s := by simp [tearDownWhere]

@[simp] theorem ledger_tearDownNoFit (s : State) : ledger (tearDownNoFit s) = ledger s := by simp [tearDownNoFit]

@[simp] theorem ledger_wakeDies (s : State) (ds : List Nat) : ledger (wakeDies s ds) = ledger s := by simp [wakeDies]

@[simp] theorem ledger_beginRestore (s : State) (n : Nat) : ledger (beginRestore s n) = ledger s := by
  simp only [beginRestore]
  split <;> simp

@[simp] theorem ledger_dispatch (s : State) (n : Nat) (p : List Nat) : ledger (dispatch s n p) = ledger s := by simp [dispatch]

@[simp] theorem ledger_preempt (s : State) (n : Nat) (b : Bool) : ledger (preempt s n b) = ledger s := by simp [preempt]

@[simp] theorem ledger_stopRestore (s : State) (n : Nat) : ledger (stopRestore s n) = ledger s := by simp [stopRestore]

@[simp] theorem ledger_displace (s : State) (n : Nat) : ledger (displace s n) = ledger s := by
  simp only [displace]
  split <;> simp

@[simp] theorem ledger_bestPlacement (s : State) (n : Nat) (ok : Nat → Bool) : ledger (bestPlacement s n ok).2 = ledger s := by
  simp only [bestPlacement]
  split <;> simp

theorem ledger_of_bestPlacement {s t : State} {n : Nat} {ok : Nat → Bool} {r : Option (List Nat)} (h : bestPlacement s n ok = (r, t)) :
    ledger t = ledger s := by
  have hb := ledger_bestPlacement s n ok
  rwa [h] at hb

@[simp] theorem ledger_offerTo (s : State) (n : Nat) : ledger (offerTo s n) = ledger s := by
  simp only [offerTo]
  split
  · rfl
  split
  · simp
  split
  · next h => simp [ledger_of_bestPlacement h]
  · next h =>
    split
    · split
      · next h' => simp [ledger_of_bestPlacement h', ledger_of_bestPlacement h]
      · next h' => simp [ledger_of_bestPlacement h', ledger_of_bestPlacement h]
    · simp [ledger_of_bestPlacement h]

@[simp] theorem ledger_offerAll (f : Nat) (gone : List Nat) (s : State) : ledger (offerAll f gone s) = ledger s := by
  induction f generalizing gone s with
  | zero => rfl
  | succ f ih =>
    rw [offerAll]
    split
    · rfl
    · rw [ih, ledger_offerTo]

@[simp] theorem ledger_offerCores (s : State) : ledger (offerCores s) = ledger s := by simp [offerCores, beginRestores]

/-! Units that are reset. -/

@[simp] theorem ledger_resetCore (s : State) (k : Nat) : ledger (resetCore s k) = ledger s := by simp [resetCore]

@[simp] theorem ledger_leaveHomes (s : State) (c : Nat) : ledger (leaveHomes s c) = ledger s := by simp [leaveHomes]

@[simp] theorem ledger_homesDrop (s : State) (c : Nat) : ledger (homesDrop s c) = ledger s := by simp [homesDrop, poisonLine]

theorem ucieOut_setCluster (s : State) (c : Nat) (x : Cluster) : (s.setCluster c x).mem.ucieOut = s.mem.ucieOut := rfl

@[simp] theorem ledger_resetCluster (s : State) (c : Nat) : ledger (resetCluster s c) = ledger s := by
  simp [resetCluster, ucieOut_setCluster]

@[simp] theorem ledger_dropHomeLines (s : State) (d : Nat) : ledger (dropHomeLines s d) = ledger s := by simp [dropHomeLines]

@[simp] theorem ledger_reply (s : State) (m : Msg) (kind : MsgKind) (mask : Nat) (bs : Bytes) (poison : Nat) (val : W64) :
    ledger (reply s m kind mask bs poison val) = ledger s := by simp [reply, sendMsg]

@[simp] theorem ledger_poisonReply (s : State) (m : Msg) : ledger (poisonReply s m) = ledger s := by
  simp only [poisonReply]
  split <;> simp

@[simp] theorem ledger_resetDie (s : State) (d : Nat) : ledger (resetDie s d) = ledger s := by simp [resetDie]

@[simp] theorem ledger_startEffects (s : State) (d : Domain) (u cause : Nat) : ledger (startEffects s d u cause) = ledger s := by
  cases d with
  | laneGroup => simp [startEffects]
  | port =>
    simp only [startEffects]
    split <;> simp
  | core => simp [startEffects]
  | cluster => simp [startEffects]
  | channel => simp [startEffects]
  | die => simp [startEffects]
  | module => simp [startEffects]

@[simp] theorem ledger_poisonStacks (s : State) (d : Nat) : ledger (poisonStacks s d) = ledger s := by simp [poisonStacks]

@[simp] theorem ledger_setDomainRun (s : State) (n : Nat) (on : Bool) : ledger (setDomainRun s n on) = ledger s := by
  simp [setDomainRun, State.setDomain]

@[simp] theorem ledger_setDomains (s : State) (ns : List Nat) (on : Bool) : ledger (setDomains s ns on) = ledger s := by simp [setDomains]

@[simp] theorem ledger_settlePower (s : State) : ledger (settlePower s) = ledger s := by simp [settlePower]

@[simp] theorem ledger_relock (s : State) (d : Domain) (u cause : Nat) : ledger (relock s d u cause) = ledger s := by
  cases d <;> simp [relock]

end
end Sys2Proof.Machine

end

section
namespace Sys2Proof.Machine

/-! Faults and the recoveries that they begin (R463 to R469). -/

section
variable {s : State} {d : Domain} {u cause : Nat}

theorem rel_of_ledger {s t : State} (h : ledger t = ledger s) : t.rel = s.rel := congrArg Prod.fst h

theorem ucieOut_of_ledger {s t : State} (h : ledger t = ledger s) : t.mem.ucieOut = s.mem.ucieOut := congrArg Prod.snd h

theorem faultOrder_one (s : State) (f : FaultIn) : faultOrder s [f] = [f] := by
  have hdom : ([6, 5, 4, 3, 2, 1, 0].flatMap (fun n => [f].filter (fun f => domCode f.dom == n))) = [f] := by
    cases hd : f.dom <;> simp [hd, domCode]
  simp only [faultOrder, List.partition_eq_filter_filter]
  by_cases h : thirdEscalation s f = true
  · simp [h]
  · simp only [List.filter_cons, List.filter_nil, h, Bool.false_eq_true, if_false, Function.comp, Bool.not_false, if_true, List.nil_append]
    simpa only [List.filter_cons, List.filter_nil] using hdom

theorem faultTogether_one (f : FaultIn) (h : s.rel.running = []) : faultTogether s [f] = faultDetect s f.dom f.unit f.cause := by
  simp only [faultTogether, faultOrder_one, List.foldl_cons, List.foldl_nil, h, List.find?_nil]

theorem exec_faultDetect_one {d : Domain} {u : BitVec 10} (cause : Byte) (hex : unitExists d u.toNat = true) (h : s.rel.running = []) :
    exec (.faultDetect d u ⟨cause, []⟩) s = .next (faultDetect s d u.toNat cause.toNat) := by
  rw [show exec (.faultDetect d u ⟨cause, []⟩) s = execFaultDetect d u ⟨cause, []⟩ s from rfl]
  simp only [execFaultDetect, List.map_cons, List.map_nil, List.filter_cons, hex, if_true, List.filter_nil]
  rw [faultTogether_one _ h]

theorem powered_iff : Powered s ↔ ¬ (s.pwr.st = .off ∨ (s.pwr.st = .standby ∧ s.pwr.start = 0)) := by
  simp only [Powered, not_or, not_and, ne_eq]

theorem faultDetect_halted (hp : Powered s) (ht : s.rel.testing.find? (testNames d u) = none) (hh : s.rel.modState = .halted) :
    faultDetect s d u cause = countFault s d u := by
  simp only [faultDetect, if_neg (powered_iff.1 hp)]
  have ht' : (countFault s d u).rel.testing.find? (testNames d u) = none := ht
  have hh' : (countFault s d u).rel.modState = .halted := hh
  rw [ht', hh']
  rfl

theorem faultDetect_quiet (hp : Powered s) (ht : s.rel.testing.find? (testNames d u) = none) (hq : Quiet s) :
    faultDetect s d u cause = newChain (countFault s d u).stamp.2 d u cause (countFault s d u).stamp.1 := by
  obtain ⟨hrun, hmod⟩ := hq
  have h1 : s.rel.modState ≠ .halted := fun h => hmod (by rw [h]; decide)
  have h2 : s.rel.modState ≠ .moduleRecovery := fun h => hmod (by rw [h]; decide)
  simp only [faultDetect, if_neg (powered_iff.1 hp)]
  have ht' : (countFault s d u).rel.testing.find? (testNames d u) = none := ht
  have hm' : (countFault s d u).rel.modState = s.rel.modState := rfl
  have hr' : (countFault s d u).rel.running = [] := hrun
  rw [ht', hm', hr', if_neg h1, if_neg h2]
  rfl

/-! Tests that a recovery ends. -/

theorem addResult_frame (s : State) (t : Test) (res : Nat) : ∃ l n, (addResult s t res).rel = { s.rel with results := l, resTotal := n } ∧
    (addResult s t res).mem = s.mem := by
  have hrel : s.stamp.2.rel = s.rel := rel_of_ledger (ledger_stamp s)
  simp only [addResult, hrel]
  exact ⟨_, _, rfl, stamp_mem s⟩

theorem unitSt_setUnit (s : State) (d e : Domain) (u v : Nat) (x : UnitState) :
    unitSt (setUnit s e v x) d u = if unitKey d u = unitKey e v then x else unitSt s d u := by
  simp only [unitSt, setUnit, tget_tset]

/-- A test that has failed leaves the recoveries, and every unit but its own. -/
theorem failTest_frame (s : State) (t : Test) : ∃ l n y z, (failTest s t).rel = { s.rel with testing := y, results := l, resTotal := n, units := z } ∧
    (failTest s t).mem = s.mem := by
  obtain ⟨l, n, hrel, hmem⟩ := addResult_frame { s with rel := { s.rel with testing := s.rel.testing.filter (· != t) } } t 1
  simp only [failTest]
  generalize addResult { s with rel := { s.rel with testing := s.rel.testing.filter (· != t) } } t 1 = v at hrel hmem
  split
  · exact ⟨l, n, _, _, by rw [setUnit, hrel], hmem⟩
  · exact ⟨l, n, _, _, by rw [setUnit, hrel], hmem⟩
  · exact ⟨l, n, _, _, hrel, hmem⟩

theorem unitSt_of_units {s t : State} (h : t.rel.units = s.rel.units) (d : Domain) (u : Nat) : unitSt t d u = unitSt s d u := by
  simp only [unitSt, h]

theorem unitSt_failTest {t : Test} (h : ∀ e v, testUnit t = some (e, v) → unitKey d u ≠ unitKey e v) : unitSt (failTest s t) d u = unitSt s d u := by
  obtain ⟨l, n, hrel, hmem⟩ := addResult_frame { s with rel := { s.rel with testing := s.rel.testing.filter (· != t) } } t 1
  have hunit : ∀ e v, unitSt (addResult { s with rel := { s.rel with testing := s.rel.testing.filter (· != t) } } t 1) e v = unitSt s e v :=
    fun e v => unitSt_of_units (by rw [hrel]) e v
  simp only [failTest]
  split
  · next w hw => rw [unitSt_setUnit, if_neg (h _ _ hw), hunit]
  · next e w _ hw => rw [unitSt_setUnit, if_neg (h _ _ hw), hunit]
  · exact hunit d u

/-- What the tests that a recovery ends leave. -/
structure TestsEnded (s t : State) (d : Domain) (u : Nat) : Prop where
  rel : ∃ l n y z, t.rel = { s.rel with testing := y, results := l, resTotal := n, units := z }
  mem : t.mem = s.mem
  unit : unitSt t d u = unitSt s d u

theorem TestsEnded.refl (s : State) (d : Domain) (u : Nat) : TestsEnded s s d u := ⟨⟨_, _, _, _, rfl⟩, rfl, rfl⟩

theorem TestsEnded.failTest {v : State} {t : Test} (hv : TestsEnded s v d u) (h : ∀ e w, testUnit t = some (e, w) → unitKey d u ≠ unitKey e w) :
    TestsEnded s (failTest v t) d u := by
  obtain ⟨⟨l, n, y, z, hrel⟩, hmem, hunit⟩ := hv
  obtain ⟨l', n', y', z', hrel', hmem'⟩ := failTest_frame v t
  exact ⟨⟨l', n', y', z', by rw [hrel', hrel]⟩, hmem'.trans hmem, (unitSt_failTest h).trans hunit⟩

theorem testsEnded_foldl {l : List Test} (h : ∀ t ∈ l, ∀ e w, testUnit t = some (e, w) → unitKey d u ≠ unitKey e w) (s : State) :
    TestsEnded s (l.foldl failTest s) d u := by
  apply List.foldlRecOn (motive := fun v : State => TestsEnded s v d u)
  · exact .refl s d u
  · exact fun v hv t ht => hv.failTest (h t ht)

/-- The tests that a recovery of a unit ends (R468, R479). -/
def endedTests (s : State) (d : Domain) (u : Nat) : List Test :=
  s.rel.testing.filter (fun t => match testUnit t with
    | some (e, v) => (e == d && v == u) || (d != .module && encloses d u e v)
    | none => onStack d u t.cmd.unit.toNat)

/-- A test names its own unit. -/
theorem testNames_testUnit {t : Test} (h : testUnit t = some (d, u)) : testNames d u t = true := by
  simp only [testUnit] at h
  split at h
  · next ht => cases h; simp [testNames, ht]
  · next ht => cases h; simp [testNames, ht]
  · next ht => cases h; simp [testNames, ht]
  · cases h

theorem testUnit_dom {t : Test} (h : testUnit t = some (d, u)) : d = .core ∨ d = .cluster ∨ d = .port := by
  simp only [testUnit] at h
  split at h
  · cases h; exact .inl rfl
  · cases h; exact .inr (.inl rfl)
  · cases h; exact .inr (.inr rfl)
  · cases h

/-- What a unit encloses has a key of its own. -/
theorem unitKey_ne_of_encloses {e : Domain} {v : Nat} (hd : d ≠ .module) (hex : unitExists d u = true) (h : encloses d u e v = true)
    (he : e = .core ∨ e = .cluster ∨ e = .port) : unitKey d u ≠ unitKey e v := by
  cases d with
  | module => exact absurd rfl hd
  | die => rcases he with rfl | rfl | rfl <;> simp_all [encloses, unitKey, unitExists, dieOfCluster, dieOfCore] <;> omega
  | cluster => rcases he with rfl | rfl | rfl <;> simp_all [encloses, unitKey, unitExists, clusterOf] <;> omega
  | port => rcases he with rfl | rfl | rfl <;> simp [encloses] at h
  | core => rcases he with rfl | rfl | rfl <;> simp [encloses] at h
  | channel => rcases he with rfl | rfl | rfl <;> simp [encloses] at h
  | laneGroup => rcases he with rfl | rfl | rfl <;> simp [encloses] at h

/-- They have other units than the recovery, where none names that. -/
theorem endedTests_other (hex : unitExists d u = true) (ht : s.rel.testing.find? (testNames d u) = none) :
    ∀ t ∈ endedTests s d u, ∀ e v, testUnit t = some (e, v) → unitKey d u ≠ unitKey e v := by
  intro t htest e v hu
  obtain ⟨hmem, hcond⟩ := List.mem_filter.1 htest
  have hno := List.find?_eq_none.1 ht t hmem
  simp only [hu, Bool.or_eq_true, Bool.and_eq_true, beq_iff_eq, bne_iff_ne] at hcond
  rcases hcond with ⟨rfl, rfl⟩ | ⟨hd, hin⟩
  · exact absurd (testNames_testUnit hu) hno
  · exact unitKey_ne_of_encloses hd hex hin (testUnit_dom hu)

end
end Sys2Proof.Machine

end

section
namespace Sys2Proof.Machine

/-! Recoveries of units and of the module: their begin and their end (R464 to R469). -/

section
variable {s : State} {r : Recov}

/-- What is kept as a recovery of a unit begins in a module that runs none: the unit recovers, and its recovery is the only one. -/
structure Begun (s t : State) (r : Recov) : Prop where
  running : t.rel.running = [{ r with was := unitSt s r.dom r.unit }]
  unit : unitSt t r.dom r.unit = .recovering
  chain : t.rel.nextChain = s.rel.nextChain
  ucie : t.mem.ucieOut = s.mem.ucieOut

theorem beginRecov_unit (hd : r.dom ≠ .module) :
    beginRecov s r =
      let v := (endedTests ((s.rel.running.filter (fun x => encloses r.dom r.unit x.dom x.unit)).foldl
          (fun s x => addRecord (setUnit (dropRecov s x) x.dom x.unit x.was) x 3 0 0) s) r.dom r.unit).foldl failTest
        ((s.rel.running.filter (fun x => encloses r.dom r.unit x.dom x.unit)).foldl
          (fun s x => addRecord (setUnit (dropRecov s x) x.dom x.unit x.was) x 3 0 0) s)
      offerCores (startEffects (setUnit { v with rel := { v.rel with running := v.rel.running ++ [{ r with was := unitSt v r.dom r.unit }] } }
        r.dom r.unit .recovering) r.dom r.unit r.cause) := by
  simp only [beginRecov, if_neg hd]
  rfl

theorem begun_beginRecov (hd : r.dom ≠ .module) (hex : unitExists r.dom r.unit = true)
    (ht : s.rel.testing.find? (testNames r.dom r.unit) = none) (hrun : s.rel.running = []) : Begun s (beginRecov s r) r := by
  rw [beginRecov_unit hd]
  simp only [hrun, List.filter_nil, List.foldl_nil]
  obtain ⟨⟨l, n, y, z, hrel⟩, hmem, hunit⟩ := testsEnded_foldl (endedTests_other hex ht) s
  generalize (endedTests s r.dom r.unit).foldl failTest s = v at hrel hmem hunit
  have hl := (ledger_offerCores _).trans (ledger_startEffects
    (setUnit { v with rel := { v.rel with running := v.rel.running ++ [{ r with was := unitSt v r.dom r.unit }] } } r.dom r.unit .recovering)
    r.dom r.unit r.cause)
  generalize offerCores _ = t at hl
  have ht' := rel_of_ledger hl
  exact {
    running := by rw [ht', hunit]; simp only [setUnit, hrel, hrun, List.nil_append]
    unit := by rw [unitSt_of_units (congrArg Rel.units ht'), unitSt_setUnit, if_pos rfl]
    chain := by rw [ht']; simp only [setUnit, hrel]
    ucie := (ucieOut_of_ledger hl).trans (congrArg Mem.ucieOut hmem) }

theorem beginRecov_module (hd : r.dom = .module) :
    ∃ v w, beginRecov s r = startModule v { r with was := w } ∧ v.rel.starts = 1 := by
  simp only [beginRecov, if_pos hd]
  exact ⟨_, _, rfl, rfl⟩

/-- A start of the module in its recovery (R469). -/
theorem startModule_spec (s : State) (r : Recov) : (startModule s r).rel.modState = .moduleRecovery ∧ (startModule s r).pwr.start = 4 ∧
    (startModule s r).ctxs = [] ∧ (startModule s r).rel.running = [r] := ⟨rfl, rfl, rfl, rfl⟩

theorem rel_testWays (s : State) (out : List Nat) : (testWays s out).2.rel = s.rel := by
  simp only [testWays]
  split
  · rfl
  · rfl

/-- The units are reset one after the other, each after the test of its ways. -/
theorem rel_foldl_testWays {α : Type} {out : α → List Nat} {f : State → α → State}
    (hf : ∀ s a, (f s a).rel = (testWays s (out a)).2.rel) (l : List α) (s : State) : (l.foldl f s).rel = s.rel :=
  foldl_keeps (P := fun t : State => t.rel = s.rel) (fun t a ht => ((hf t a).trans (rel_testWays t (out a))).trans ht) l rfl

theorem rel_resetUnits (s : State) : (resetUnits s).rel = s.rel := by
  simp only [resetUnits]
  refine (rel_foldl_testWays (out := fun e => e.2.out) (fun t e => ?_) _ _).trans ((rel_foldl_testWays (out := fun e => e.2.l2.out)
    (fun t e => ?_) _ _).trans (rel_foldl_testWays (out := fun e => e.2.l1.out) (fun t e => ?_) _ _))
  · split <;> rfl
  · split <;> rfl
  · split <;> rfl

theorem starts_endTests (s : State) (n : Nat) : (endTests s n).rel.starts = s.rel.starts := by
  simp only [endTests, rel_of_ledger (ledger_stamp s)]

theorem rel_dropBank (s : State) : (dropBank s).rel = s.rel := by
  simp only [dropBank]
  split
  · rfl
  · rfl
  · rfl

theorem starts_startModule (s : State) (r : Recov) : (startModule s r).rel.starts = s.rel.starts := by
  have hreset : (startModule s r).rel.starts = (resetUnits (endTests (dropBank s) 3)).rel.starts := rfl
  rw [hreset, rel_resetUnits, starts_endTests, rel_dropBank]

/-! Records. -/

theorem ledger_addRecord (s : State) (r : Recov) (action : Nat) (fin : W64) (us : W32) : ∃ l n,
    ledger (addRecord s r action fin us) = ledger { s with rel := { s.rel with records := l, recTotal := n } } := by
  simp only [addRecord, ledger_emit, ledger_postEvent]
  exact ⟨_, _, rfl⟩

theorem pwr_stamp (s : State) : s.stamp.2.pwr = s.pwr := by simp only [State.stamp, State.bumpHub, State.bump]

theorem pwr_postRec (s : State) (e : EventRec) : (postRec s e).pwr = s.pwr := by
  simp only [postRec, keepEvent]
  split
  · rfl
  · split
    · rfl
    · rfl

theorem pwr_postEvent (s : State) (kind p st peer : Nat) (w2 w3 : W64) : (postEvent s kind p st peer w2 w3).pwr = s.pwr := by
  simp only [postEvent, pwr_postRec, pwr_stamp]

theorem pwr_emit (s : State) (b kind unit ctx info : Nat) (a0 a1 : W64) : (s.emit b kind unit ctx info a0 a1).pwr = s.pwr := by
  obtain ⟨g, h⟩ := emit_frame s b kind unit ctx info a0 a1
  rw [h]

theorem pwr_addRecord (s : State) (r : Recov) (action : Nat) (fin : W64) (us : W32) : (addRecord s r action fin us).pwr = s.pwr := by
  simp only [addRecord, pwr_emit, pwr_postEvent]

theorem ledger_elapsedUs (s : State) (r : Recov) : ledger (elapsedUs s r).2 = ledger s := ledger_free s

theorem ledger_endRecord (s : State) (r : Recov) (action : Nat) : ∃ l n,
    ledger (endRecord s r action) = ledger { s with rel := { s.rel with records := l, recTotal := n } } := by
  simp only [endRecord]
  obtain ⟨l, n, h⟩ := ledger_addRecord (elapsedUs s.stamp.2 r).2 r action s.stamp.1
    (BitVec.ofNat 32 (min 0xFFFFFFFF (elapsedUs s.stamp.2 r).1))
  have hled := (ledger_elapsedUs s.stamp.2 r).trans (ledger_stamp s)
  refine ⟨l, n, h.trans ?_⟩
  simp only [ledger_mk, rel_of_ledger hled, ucieOut_of_ledger hled]

theorem pwr_endRecord (s : State) (r : Recov) (action : Nat) : (endRecord s r action).pwr = s.pwr := by
  simp only [endRecord, elapsedUs, State.free, pwr_addRecord, pwr_stamp]

/-! What a fault begins. -/

/-- A chain that begins leaves the next number to the next one. -/
def chainNumbered (s : State) (d : Domain) : State :=
  { s with rel := { s.rel with
    nextChain := (s.rel.nextChain + 1) % 65536
    svcFaults := if (d != .laneGroup && d != .port) then holdInc 0xFFFFFFFF s.rel.svcFaults else s.rel.svcFaults } }

theorem newChain_eq (s : State) (d : Domain) (u cause : Nat) (st : W64) : newChain s d u cause st =
    beginRecov (chainNumbered s d) ⟨d, u, cause, s.rel.nextChain, 0, st, timeUs (chainNumbered s d), .inService⟩ := rfl

theorem timeUs_of_rel {s t : State} (h : t.rel = s.rel) : timeUs t = timeUs s := by simp only [timeUs, h]

theorem newChain_begins {d : Domain} {u cause : Nat} {st : W64} (hd : d ≠ .module) (hex : unitExists d u = true)
    (ht : s.rel.testing.find? (testNames d u) = none) (hrun : s.rel.running = []) :
    unitSt (newChain s d u cause st) d u = .recovering ∧ (newChain s d u cause st).rel.nextChain = (s.rel.nextChain + 1) % 65536 ∧
      (newChain s d u cause st).rel.running = [⟨d, u, cause, s.rel.nextChain, 0, st, timeUs s, unitSt s d u⟩] ∧
      (newChain s d u cause st).mem.ucieOut = s.mem.ucieOut := by
  rw [newChain_eq]
  have hb := begun_beginRecov (s := chainNumbered s d)
    (r := ⟨d, u, cause, s.rel.nextChain, 0, st, timeUs (chainNumbered s d), .inService⟩) hd hex ht hrun
  exact ⟨hb.unit, hb.chain, hb.running, hb.ucie⟩

theorem newChain_module {u cause : Nat} {st : W64} : ∃ r, r.dom = .module ∧ r.cause = cause ∧
    (newChain s .module u cause st).rel.modState = .moduleRecovery ∧ (newChain s .module u cause st).pwr.start = 4 ∧
    (newChain s .module u cause st).ctxs = [] ∧ (newChain s .module u cause st).rel.starts = 1 ∧
    (newChain s .module u cause st).rel.running = [r] := by
  rw [newChain_eq]
  obtain ⟨v, w, h, hstarts⟩ := beginRecov_module (s := chainNumbered s .module)
    (r := ⟨.module, u, cause, s.rel.nextChain, 0, st, timeUs (chainNumbered s .module), .inService⟩) rfl
  rw [h]
  obtain ⟨hmod, hpwr, hctx, hrun⟩ := startModule_spec v ⟨.module, u, cause, s.rel.nextChain, 0, st, timeUs (chainNumbered s .module), w⟩
  exact ⟨_, rfl, rfl, hmod, hpwr, hctx, (starts_startModule v _).trans hstarts, hrun⟩

/-- R467, R468: a unit's fault in a quiet module begins a chain. -/
theorem faultDetect_begins {d : Domain} {u cause : Nat} (hd : d ≠ .module) (hex : unitExists d u = true) (hp : Powered s)
    (ht : s.rel.testing.find? (testNames d u) = none) (hq : Quiet s) :
    unitSt (faultDetect s d u cause) d u = .recovering ∧ (faultDetect s d u cause).rel.nextChain = (s.rel.nextChain + 1) % 65536 ∧
      (faultDetect s d u cause).rel.running = [⟨d, u, cause, s.rel.nextChain, 0, s.stamp.1, timeUs s, unitSt s d u⟩] ∧
      (faultDetect s d u cause).mem.ucieOut = s.mem.ucieOut := by
  rw [faultDetect_quiet hp ht hq]
  have hled := ledger_stamp (countFault s d u)
  have hrel := rel_of_ledger hled
  have hst : (countFault s d u).stamp.1 = s.stamp.1 := rfl
  obtain ⟨hunit, hchain, hrun, hucie⟩ := newChain_begins (s := (countFault s d u).stamp.2) (cause := cause) (st := (countFault s d u).stamp.1)
    hd hex (by rw [hrel]; exact ht) (by rw [hrel]; exact hq.1)
  rw [hst] at *
  refine ⟨hunit, hchain.trans (by rw [hrel]; rfl), hrun.trans ?_, hucie.trans (show _ = (countFault s d u).mem.ucieOut from ucieOut_of_ledger hled)⟩
  rw [timeUs_of_rel hrel, unitSt_of_units (congrArg Rel.units hrel), hrel]
  rfl

/-- R469: a fault of the module in a quiet module begins its recovery. -/
theorem faultDetect_module {u cause : Nat} (hp : Powered s) (ht : s.rel.testing.find? (testNames .module u) = none) (hq : Quiet s) :
    ∃ r, r.dom = .module ∧ r.cause = cause ∧ (faultDetect s .module u cause).rel.modState = .moduleRecovery ∧
      (faultDetect s .module u cause).pwr.start = 4 ∧ (faultDetect s .module u cause).ctxs = [] ∧
      (faultDetect s .module u cause).rel.starts = 1 ∧ (faultDetect s .module u cause).rel.running = [r] := by
  rw [faultDetect_quiet hp ht hq]
  exact newChain_module

/-! The module's recovery times out. -/

theorem restartModule_again (hr : s.rel.running.find? (fun r => r.dom == .module) = some r) (h3 : s.rel.starts < 3) :
    (restartModule s).rel.modState = .moduleRecovery ∧ (restartModule s).pwr.start = 4 ∧ (restartModule s).rel.starts = s.rel.starts + 1 := by
  simp only [restartModule, hr, if_neg (Nat.not_le.2 h3)]
  obtain ⟨l, n, hl⟩ := ledger_endRecord (startModule s r) r 4
  have hrel := rel_of_ledger hl
  refine ⟨?_, ?_, trivial⟩
  · exact (congrArg Rel.modState hrel).trans (startModule_spec s r).1
  · exact (congrArg Power.start (pwr_endRecord (startModule s r) r 4)).trans (startModule_spec s r).2.1

theorem restartModule_halts (hr : s.rel.running.find? (fun r => r.dom == .module) = some r) (h3 : ¬ s.rel.starts < 3) :
    (restartModule s).rel.modState = .halted ∧ (restartModule s).rel.running = [] := by
  simp only [restartModule, hr, if_pos (Nat.not_lt.1 h3)]
  trivial

end
end Sys2Proof.Machine

end

section
namespace Sys2Proof.Machine

/-! The end of a unit's recovery (R464, R466, R467). -/

section
variable {s : State} {r : Recov} {d : Domain} {u : BitVec 10} {ok : Bool} {us : W32}

theorem units_checkDies (s : State) : (checkDies s).rel.units = s.rel.units ∧ (checkDies s).rel.running = s.rel.running := by
  simp only [checkDies]
  split
  · exact ⟨rfl, rfl⟩
  · exact ⟨rfl, rfl⟩

/-- The state of a unit, and the recoveries, as a recovery has ended. -/
def recovDone (s : State) (r : Recov) (out : Bool) : State := setUnit (dropRecov s r) r.dom r.unit (if out then .outOfService else .inService)

/-- Whether the unit of a recovery goes out of service, or stays so (R464). -/
def staysAway (r : Recov) (out : Bool) : Bool := out || (r.was == .outOfService && r.dom != .laneGroup && r.dom != .port)

/-- What the end of a recovery does besides: stacks, contexts, clocks, power. -/
def recovTidied (s : State) (r : Recov) (out : Bool) : State :=
  let s := match r.dom with
    | .die => poisonStacks (dropHomeLines s r.unit) r.unit
    | .channel => if out then
        tearDownWhere s (fun _ x => partOnUnits s x.partNo ((List.range 64).map (64 * (r.unit / 32) + ·)))
      else s
    | _ => s
  settlePower (if out then (if r.dom = .die then setDomains s (dieDomains r.unit) false else s) else relock s r.dom r.unit r.cause)

theorem ledger_recovTidied (s : State) (r : Recov) (out : Bool) : ledger (recovTidied s r out) = ledger s := by
  have hdom : ∀ t : State, ledger (settlePower (if out then (if r.dom = .die then setDomains t (dieDomains r.unit) false else t)
      else relock t r.dom r.unit r.cause)) = ledger t := fun t => by simp
  simp only [recovTidied, hdom]
  split
  · simp
  · simp
  · rfl

theorem finishRecov_eq (s : State) (r : Recov) (out : Bool) (us : W32) : finishRecov s r out us =
    let t := recovTidied (recovDone s r (staysAway r out)) r (staysAway r out)
    let v := addRecord t.stamp.2 r (if staysAway r out then 1 else 0) t.stamp.1 us
    if staysAway r out then checkDies (tearDownNoFit v) else offerCores v := rfl

theorem finishRecov_keeps (s : State) (r : Recov) (out : Bool) (us : W32) :
    (finishRecov s r out us).rel.units = (recovDone s r (staysAway r out)).rel.units ∧
      (finishRecov s r out us).rel.running = (recovDone s r (staysAway r out)).rel.running := by
  rw [finishRecov_eq]
  have htidy := ledger_recovTidied (recovDone s r (staysAway r out)) r (staysAway r out)
  generalize recovTidied _ _ _ = t at htidy
  obtain ⟨l, n, h⟩ := ledger_addRecord t.stamp.2 r (if staysAway r out then 1 else 0) t.stamp.1 us
  have hstamp := rel_of_ledger ((ledger_stamp t).trans htidy)
  have hrel := congrArg Prod.fst h
  simp only [ledger_mk] at hrel
  dsimp only
  generalize addRecord t.stamp.2 r (if staysAway r out then 1 else 0) t.stamp.1 us = v at hrel ⊢
  have hv : v.rel.units = (recovDone s r (staysAway r out)).rel.units ∧ v.rel.running = (recovDone s r (staysAway r out)).rel.running := by
    rw [show v.rel = _ from hrel, hstamp]
    exact ⟨rfl, rfl⟩
  split
  · obtain ⟨h1, h2⟩ := units_checkDies (tearDownNoFit v)
    rw [h1, h2, rel_of_ledger (ledger_tearDownNoFit v)]
    exact hv
  · rw [rel_of_ledger (ledger_offerCores v)]
    exact hv

theorem finishRecov_spec (s : State) (r : Recov) (out : Bool) (us : W32) :
    unitSt (finishRecov s r out us) r.dom r.unit = (if staysAway r out then .outOfService else .inService) ∧
      r ∉ (finishRecov s r out us).rel.running := by
  obtain ⟨hunits, hrun⟩ := finishRecov_keeps s r out us
  constructor
  · rw [unitSt_of_units hunits, recovDone, unitSt_setUnit, if_pos rfl]
  · rw [hrun]
    intro h
    have := (List.mem_filter.1 h).2
    simp at this

/-- R464, R466: a recovery that ends gives its unit its state. -/
theorem recoveryComplete_ends (hr : s.rel.running.find? (fun r => r.dom == d && r.unit == u.toNat) = some r) (hd : d ≠ .module)
    (hok : d ∈ [Domain.port, .core, .cluster] → ok = true) :
    ∃ t, exec (.recoveryComplete d u ok us) s = .next t ∧
      unitSt t d u.toNat = (if staysOut s r d u.toNat ok then .outOfService else .inService) ∧ r ∉ t.rel.running := by
  rw [show exec (.recoveryComplete d u ok us) s = execRecoveryComplete d u ok us s from rfl]
  have hname := List.find?_some hr
  simp only [Bool.and_eq_true, beq_iff_eq] at hname
  obtain ⟨rfl, hu⟩ := hname
  have hend : ∀ out, staysAway r out = staysOut s r r.dom u.toNat ok → unitSt (finishRecov s r out us) r.dom u.toNat =
      (if staysOut s r r.dom u.toNat ok then .outOfService else .inService) ∧ r ∉ (finishRecov s r out us).rel.running := fun out h => by
    rw [← h, ← hu]
    exact finishRecov_spec s r out us
  simp only [execRecoveryComplete, hr]
  generalize hdom : r.dom = d at *
  cases d with
  | module => exact absurd rfl hd
  | port =>
    rw [hok (by simp)] at hend ⊢
    exact ⟨_, rfl, hend _ (by simp [staysAway, staysOut, hdom])⟩
  | laneGroup => exact ⟨_, rfl, hend _ (by simp [staysAway, staysOut, hdom])⟩
  | core =>
    rw [hok (by simp)] at hend ⊢
    exact ⟨_, rfl, hend _ (by simp [staysAway, staysOut, hdom, Bool.or_comm])⟩
  | cluster =>
    rw [hok (by simp)] at hend ⊢
    exact ⟨_, rfl, hend _ (by simp [staysAway, staysOut, hdom, Bool.or_comm])⟩
  | channel => exact ⟨_, rfl, hend _ (by simp [staysAway, staysOut, hdom, Bool.or_comm])⟩
  | die => exact ⟨_, rfl, hend _ (by simp [staysAway, staysOut, hdom, Bool.or_comm])⟩

/-- R467: the failed reset of a core or a cluster escalates. -/
theorem recoveryComplete_escalates (hr : s.rel.running.find? (fun r => r.dom == d && r.unit == u.toNat) = some r)
    (hd : d ∈ [Domain.core, .cluster]) : exec (.recoveryComplete d u false us) s = .next (escalate s r) := by
  rw [show exec (.recoveryComplete d u false us) s = execRecoveryComplete d u false us s from rfl]
  simp only [execRecoveryComplete, hr]
  simp only [List.mem_cons, List.not_mem_nil, or_false] at hd
  rcases hd with rfl | rfl
  · rfl
  · rfl

theorem recoveryComplete_stays (hr : s.rel.running.find? (fun r => r.dom == d && r.unit == u.toNat) = some r)
    (hd : d = .module ∨ (d = .port ∧ ok = false)) : exec (.recoveryComplete d u ok us) s = .next s := by
  rw [show exec (.recoveryComplete d u ok us) s = execRecoveryComplete d u ok us s from rfl]
  simp only [execRecoveryComplete, hr]
  rcases hd with rfl | ⟨rfl, rfl⟩
  · rfl
  · rfl

theorem recoveryComplete_none (hr : s.rel.running.find? (fun r => r.dom == d && r.unit == u.toNat) = none) :
    exec (.recoveryComplete d u ok us) s = .next s := by
  rw [show exec (.recoveryComplete d u ok us) s = execRecoveryComplete d u ok us s from rfl]
  simp only [execRecoveryComplete, hr]

/-! Lost clocks, silent agents, UCIe modules. -/

theorem exec_agentSilent (d : Domain) (u : BitVec 10) (s : State) : exec (.agentSilentTimeout d u) s = .next
    (if d ∈ [Domain.core, .cluster, .die] ∧ unitExists d u.toNat = true then faultDetect s d u.toNat 0x0D else s) := by
  rw [show exec (.agentSilentTimeout d u) s = execAgentSilentTimeout d u s from rfl]
  simp only [execAgentSilentTimeout, List.mem_cons, List.not_mem_nil, or_false, Bool.and_eq_true, Bool.or_eq_true, beq_iff_eq, or_assoc]
  split
  · rfl
  · rfl

theorem exec_pllLossOfLock (n : Fin 40) (s : State) : exec (.pllLossOfLock n) s = .next
    (if bit (s.domain n.val) 31 = true ∨ ∃ r ∈ s.rel.running, (r.dom, r.unit) ∈ lockUnits n.val then
      faultTogether (lockLost s n.val) ((lockUnits n.val).map (fun u => ⟨u.1, u.2, 1⟩)) else s) := by
  rw [show exec (.pllLossOfLock n) s = execPllLossOfLock n s from rfl]
  simp only [execPllLossOfLock]
  by_cases h : bit (s.domain n.val) 31 = true ∨ ∃ r ∈ s.rel.running, (r.dom, r.unit) ∈ lockUnits n.val
  · have h' : ¬ (!bit (s.domain n.val) 31 && !s.rel.running.any (fun r => (lockUnits n.val).contains (r.dom, r.unit))) = true := by
      simpa only [Bool.and_eq_true, Bool.not_eq_true', Bool.not_eq_true, Classical.not_and_iff_not_or_not, Bool.not_eq_false, List.any_eq_true, List.contains_iff_mem]
        using h
    rw [if_neg h', if_pos h]
    rfl
  · have h' : (!bit (s.domain n.val) 31 && !s.rel.running.any (fun r => (lockUnits n.val).contains (r.dom, r.unit))) = true := by
      rw [not_or] at h
      simpa only [Bool.and_eq_true, Bool.not_eq_true', Bool.not_eq_true, ← Bool.not_eq_true (List.any _ _), List.any_eq_true, List.contains_iff_mem]
        using h
    rw [if_pos h', if_neg h]

theorem exec_linkReplayComplete (i : Fin 4) (s : State) : exec (.linkReplayComplete i) s = .next
    (if tget LinkState.inUse s.mem.cdcd i.val = .replaying then { s with mem := { s.mem with cdcd := tput s.mem.cdcd i.val .lost } } else s) := by
  rw [show exec (.linkReplayComplete i) s = execLinkReplayComplete i s from rfl]
  simp only [execLinkReplayComplete]
  split
  · rfl
  · rfl

/-! What a fault leaves of the state of the module and of the UCIe modules that are out. -/

/-- The state of the module, and the UCIe modules that are out. -/
def standing (s : State) : ModState × List (Nat × Nat) := (s.rel.modState, s.mem.ucieOut)

theorem standing_of_ledger {s t : State} (h : ledger t = ledger s) : standing t = standing s :=
  congrArg (fun x : Rel × List (Nat × Nat) => (x.1.modState, x.2)) h

theorem standing_addRecord (s : State) (r : Recov) (action : Nat) (fin : W64) (us : W32) : standing (addRecord s r action fin us) = standing s := by
  obtain ⟨l, n, h⟩ := ledger_addRecord s r action fin us
  exact (standing_of_ledger h).trans rfl

theorem standing_failTest (s : State) (t : Test) : standing (failTest s t) = standing s := by
  obtain ⟨l, n, y, z, hrel, hmem⟩ := failTest_frame s t
  simp only [standing, hrel, hmem]

theorem standing_beginRecov (hd : r.dom ≠ .module) : standing (beginRecov s r) = standing s := by
  rw [beginRecov_unit hd]
  have hinner := foldl_keeps (P := fun t : State => standing t = standing s)
    (f := fun s x => addRecord (setUnit (dropRecov s x) x.dom x.unit x.was) x 3 0 0) (fun t x ht => (standing_addRecord _ x 3 0 0).trans ht)
    (s.rel.running.filter (fun x => encloses r.dom r.unit x.dom x.unit)) rfl
  generalize (s.rel.running.filter _).foldl _ s = v at hinner
  have htests := foldl_keeps (P := fun t : State => standing t = standing s) (f := failTest) (fun t x ht => (standing_failTest t x).trans ht)
    (endedTests v r.dom r.unit) hinner
  exact (standing_of_ledger ((ledger_offerCores _).trans (ledger_startEffects ..))).trans htests

theorem standing_newChain {d : Domain} {u cause : Nat} {st : W64} (hd : d ≠ .module) : standing (newChain s d u cause st) = standing s := by
  rw [newChain_eq, standing_beginRecov hd]
  rfl

theorem standing_absorb (s : State) (r : Recov) (d : Domain) (u cause : Nat) : standing (absorb s r d u cause) = standing s :=
  (standing_addRecord ..).trans (standing_of_ledger (ledger_stamp s))

/-- A unit that no test names has a fault, which no recovery escalates. -/
theorem standing_faultDetect {d : Domain} {u cause : Nat} (hd : d ≠ .module) (hm : s.rel.modState ≠ .moduleRecovery)
    (ht : s.rel.testing.find? (testNames d u) = none) (h2 : s.rel.running.find? (fun r => isSecond r d u cause) = none) :
    standing (faultDetect s d u cause) = standing s := by
  simp only [faultDetect]
  have ht' : (countFault s d u).rel.testing.find? (testNames d u) = none := ht
  have h2' : (countFault s d u).rel.running.find? (fun r => isSecond r d u cause) = none := h2
  have hm' : (countFault s d u).rel.modState ≠ .moduleRecovery := hm
  split
  · rfl
  rw [ht', h2']
  dsimp only
  split
  · rfl
  split
  · exact standing_absorb ..
  · exact (standing_newChain hd).trans
      (show standing (countFault s d u).stamp.2 = standing (countFault s d u) from standing_of_ledger (ledger_stamp _))

theorem find?_testNames_die (l : List Test) (d : Nat) : l.find? (testNames .die d) = none :=
  List.find?_eq_none.2 fun t _ => by
    simp only [testNames]
    split
    · simp
    · simp
    · simp
    · simp

/-- The lane groups of a UCIe module have no test. -/
theorem find?_testNames_lane (l : List Test) {u : Nat} (h : 128 ≤ u) : l.find? (testNames .laneGroup u) = none :=
  List.find?_eq_none.2 fun t _ => by
    simp only [testNames]
    split
    · simp
    · simp
    · simp
      omega
    · simp

section
variable {l : DieLink} {m : Fin 16}

/-- The fault of a UCIe module's lanes (R470). -/
def moduleLane (l : DieLink) (m : Fin 16) : FaultIn := ⟨.laneGroup, 0x200 + 16 * linkNum l + m.val, 2⟩

/-- The faults that a UCIe module brings which has gone out of service, and the replay of its link (R13, R14). -/
def moduleFaults (s : State) (l : DieLink) (m : Fin 16) : State :=
  if !linkLost s (linkNum l) then faultTogether s [moduleLane l m]
  else match l with
    | .hub d => faultTogether s [⟨.die, d.val, 3⟩, moduleLane l m]
    | .ring i =>
      let s := faultTogether s [moduleLane l m]
      { s with mem := { s.mem with cdcd := tput s.mem.cdcd i.val .replaying } }

theorem exec_ucieOut (h1 : m.val < linkModules l) (h2 : (linkNum l, m.val) ∉ s.mem.ucieOut) :
    exec (.ucieModuleOutOfService l m) s = .next (moduleFaults (moduleOut s l m) l m) := by
  rw [show exec (.ucieModuleOutOfService l m) s = execUcieModuleOutOfService l m s from rfl]
  have h : ¬ (linkModules l ≤ m.val ∨ s.mem.ucieOut.contains (linkNum l, m.val) = true) := by
    rw [List.contains_iff_mem]
    exact not_or.2 ⟨Nat.not_le.2 h1, h2⟩
  refine (if_neg h).trans ?_
  rw [moduleFaults.eq_def, apply_ite Host.Outcome.next]
  cases l with
  | hub d => rfl
  | ring i => rfl

theorem exec_ucieOut_none (h : linkModules l ≤ m.val ∨ (linkNum l, m.val) ∈ s.mem.ucieOut) : exec (.ucieModuleOutOfService l m) s = .next s := by
  rw [show exec (.ucieModuleOutOfService l m) s = execUcieModuleOutOfService l m s from rfl]
  have h' : linkModules l ≤ m.val ∨ s.mem.ucieOut.contains (linkNum l, m.val) = true := by rwa [List.contains_iff_mem]
  exact if_pos h'

theorem quiet_standing_lane (hq : Quiet s) : standing (faultTogether s [moduleLane l m]) = standing s := by
  rw [faultTogether_one _ hq.1]
  refine standing_faultDetect (by simp [moduleLane]) (fun h => hq.2 (by rw [h]; decide)) (find?_testNames_lane _ ?_) ?_
  · simp only [moduleLane]
    omega
  · rw [hq.1, List.find?_nil]

/-- Only a die recovers after its fault in a quiet module. -/
theorem running_dieFault (hq : Quiet s) {d : Nat} (hd : d < 4) : ∀ r ∈ (faultDetect s .die d 3).rel.running, r.dom = .die := by
  by_cases hp : Powered s
  · obtain ⟨-, -, hrun, -⟩ := faultDetect_begins (u := d) (cause := 3) (by simp) (by simp [unitExists, hd]) hp (find?_testNames_die _ _) hq
    rw [hrun]
    intro r hr
    rw [List.mem_singleton.1 hr]
  · have hno : faultDetect s .die d 3 = s := if_pos (Classical.not_not.1 (fun h => hp (powered_iff.2 h)))
    rw [hno, hq.1]
    intro r hr
    cases hr

/-- R468: the die's fault comes first, then that of the lanes. -/
theorem faultTogether_dieLane (hq : Quiet s) {d : Nat} (hd : d < 4) : faultTogether s [⟨.die, d, 3⟩, moduleLane l m] =
    faultDetect (faultDetect s .die d 3) .laneGroup (moduleLane l m).unit 2 := by
  have hthird : ∀ f, thirdEscalation s f = false := fun f => by simp only [thirdEscalation, hq.1, List.find?_nil]
  have horder : faultOrder s [⟨.die, d, 3⟩, moduleLane l m] = [⟨.die, d, 3⟩, moduleLane l m] := by
    simp [faultOrder, List.partition_eq_filter_filter, hthird, moduleLane, domCode]
  have hnone : (faultDetect s .die d 3).rel.running.find? (fun r => (!([] : List Recov).contains r &&
      ((r.dom == (moduleLane l m).dom && r.unit == (moduleLane l m).unit) || encloses r.dom r.unit (moduleLane l m).dom (moduleLane l m).unit)) ||
      (r.dom == .module && s.rel.modState != .moduleRecovery)) = none :=
    List.find?_eq_none.2 fun r hr => by simp [running_dieFault hq hd r hr, moduleLane, encloses]
  simp only [faultTogether, horder, List.foldl_cons, List.foldl_nil, hq.1, List.find?_nil, hnone]
  rfl

theorem quiet_standing_dieLane (hq : Quiet s) {d : Nat} (hd : d < 4) : standing (faultTogether s [⟨.die, d, 3⟩, moduleLane l m]) = standing s := by
  rw [faultTogether_dieLane hq hd]
  have hm : s.rel.modState ≠ .moduleRecovery := fun h => hq.2 (by rw [h]; decide)
  have hdie : standing (faultDetect s .die d 3) = standing s :=
    standing_faultDetect (by simp) hm (find?_testNames_die _ _) (by rw [hq.1, List.find?_nil])
  refine (standing_faultDetect (by simp) ?_ (find?_testNames_lane _ ?_) ?_).trans hdie
  · exact fun h => hm ((congrArg Prod.fst hdie).symm.trans h)
  · simp only [moduleLane]
    omega
  · exact List.find?_eq_none.2 fun r hr => by simp [isSecond, running_dieFault hq hd r hr]

theorem ucieOut_quiet (h1 : m.val < linkModules l) (h2 : (linkNum l, m.val) ∉ s.mem.ucieOut) (hq : Quiet s) :
    ∃ t, exec (.ucieModuleOutOfService l m) s = .next t ∧ (linkNum l, m.val) ∈ t.mem.ucieOut := by
  rw [exec_ucieOut h1 h2, moduleFaults.eq_def]
  have hmem : (linkNum l, m.val) ∈ (moduleOut s l m).mem.ucieOut := by simp [moduleOut]
  have hq' : Quiet (moduleOut s l m) := hq
  have hin : ∀ t, standing t = standing (moduleOut s l m) → (linkNum l, m.val) ∈ t.mem.ucieOut := fun t ht => by
    rw [show t.mem.ucieOut = _ from congrArg Prod.snd ht]
    exact hmem
  refine ⟨_, rfl, ?_⟩
  split
  · exact hin _ (quiet_standing_lane hq')
  · cases l with
    | hub d => exact hin _ (quiet_standing_dieLane hq' d.isLt)
    | ring i => exact hin _ (quiet_standing_lane hq')

end
end
end Sys2Proof.Machine

end

section
namespace Sys2Proof.Machine

/-! Ways and frames that errors retire, and uncorrectable errors (R297 to R300, R473 to R475). -/

section
variable {s : State} {st : WayStruct} {u w : Nat}

/-! Ways. -/

@[simp] theorem getWays_putWays (s : State) (st : WayStruct) (u : Nat) (x : Ways) : getWays (putWays s st u x) st u = x := by
  cases st with
  | l1 => simp [putWays, getWays, core_updL1]
  | l2 => simp [putWays, getWays, State.updL2]
  | dir => simp [putWays, getWays]

@[simp] theorem getWays_bumpDie (s : State) (st : WayStruct) (u d ev um n : Nat) : getWays (s.bumpDie d ev um n) st u = getWays s st u := by
  cases st with
  | l1 => rfl
  | l2 => rfl
  | dir => rfl

theorem rel_putWays (s : State) (st : WayStruct) (u : Nat) (x : Ways) : (putWays s st u x).rel = s.rel := by
  cases st with
  | l1 => rfl
  | l2 => rfl
  | dir => rfl

@[simp] theorem getWays_addWayRec (s : State) (st : WayStruct) (u way action count window : Nat) :
    getWays (addWayRec s st u way action count window) st u = getWays s st u := by
  have hcores : (addWayRec s st u way action count window).cores = s.cores := by
    simp only [addWayRec, State.stamp, State.bumpHub, State.bump]
  have hmem : (addWayRec s st u way action count window).mem = s.mem := by
    simp only [addWayRec, stamp_mem]
  cases st with
  | l1 => simp only [getWays, State.core, hcores]
  | l2 => simp only [getWays, State.cluster, hmem]
  | dir => simp only [getWays, State.home, hmem]

/-- A corrected error is counted against its way (R298). -/
def errorCounted (s : State) (st : WayStruct) (u way : Nat) : State :=
  (putWays s st u { getWays s st u with errs := tput (getWays s st u).errs way (holdInc 255 (tget 0 (getWays s st u).errs way)) }).bumpDie
    (dieOfStruct st u) 7 (eccBit st) 1

theorem getWays_errorCounted (s : State) (st : WayStruct) (u way : Nat) : getWays (errorCounted s st u way) st u =
    { getWays s st u with errs := tput (getWays s st u).errs way (holdInc 255 (tget 0 (getWays s st u).errs way)) } := by
  rw [errorCounted, getWays_bumpDie, getWays_putWays]

theorem winStart_errorCounted (s : State) (st : WayStruct) (u way : Nat) : (errorCounted s st u way).rel.winStart = s.rel.winStart := by
  have h : (errorCounted s st u way).rel = (putWays s st u { getWays s st u with
    errs := tput (getWays s st u).errs way (holdInc 255 (tget 0 (getWays s st u).errs way)) }).rel := rfl
  rw [h, rel_putWays]

/-- A way that is leaving counts on (R300). -/
theorem wayError_leaving {c x : Nat} (h : tfind (getWays s st u).leaving w = some (c, x)) : wayError s st u w =
    if x = s.rel.winStart.toNat then putWays (errorCounted s st u w) st u { getWays (errorCounted s st u w) st u with
        leaving := tput (getWays s st u).leaving w (holdInc 255 (tget 0 (getWays s st u).errs w), s.rel.winStart.toNat) }
      else errorCounted s st u w := by
  simp only [wayError, h, ← winStart_errorCounted s st u w]
  rfl

theorem wayError_stays (h : tfind (getWays s st u).leaving w = none)
    (hn : holdInc 255 (tget 0 (getWays s st u).errs w) ≠ 17 ∨ w ∈ (getWays s st u).out) : wayError s st u w = errorCounted s st u w := by
  have hn' : holdInc 255 (tget 0 (getWays s st u).errs w) ≠ 17 ∨ (getWays s st u).out.contains w = true := by rwa [List.contains_iff_mem]
  simp only [wayError, h, if_pos hn']
  rfl

section
variable (h : tfind (getWays s st u).leaving w = none) (hn : holdInc 255 (tget 0 (getWays s st u).errs w) = 17)
  (hout : w ∉ (getWays s st u).out)
include h hn hout

theorem wayError_leaves (hroom : wayFloor st + (getWays s st u).out.length + (getWays s st u).leaving.length + 1 ≤ wayCount st) :
    wayError s st u w = putWays (errorCounted s st u w) st u { getWays (errorCounted s st u w) st u with
      leaving := tput (getWays s st u).leaving w (17, s.rel.winStart.toNat) } := by
  have hn' : ¬ (holdInc 255 (tget 0 (getWays s st u).errs w) ≠ 17 ∨ (getWays s st u).out.contains w = true) := by
    rw [List.contains_iff_mem]
    exact not_or.2 ⟨Classical.not_not.2 hn, hout⟩
  simp only [wayError, h, if_neg hn', if_neg (Nat.not_lt.2 hroom), ← winStart_errorCounted s st u w]
  simp only [errorCounted, hn]

theorem wayError_faults (hroom : wayCount st < wayFloor st + (getWays s st u).out.length + (getWays s st u).leaving.length + 1) :
    wayError s st u w = faultDetect (addWayRec (errorCounted s st u w) st u w 1 17 s.rel.winStart.toNat) (structDomain st) u 0x0A := by
  have hn' : ¬ (holdInc 255 (tget 0 (getWays s st u).errs w) ≠ 17 ∨ (getWays s st u).out.contains w = true) := by
    rw [List.contains_iff_mem]
    exact not_or.2 ⟨Classical.not_not.2 hn, hout⟩
  simp only [wayError, h, if_neg hn', if_pos hroom, ← winStart_errorCounted s st u w]
  simp only [errorCounted, hn]

end

/-- R298, R299: a corrected error counts, and its way stays, is out already, or is leaving. -/
theorem wayError_counts (x : Ways) (hx : x = getWays s st u)
    (hn : holdInc 255 (tget 0 x.errs w) ≠ 17 ∨ w ∈ x.out ∨ tfind x.leaving w ≠ none) :
    (getWays (wayError s st u w) st u).out = x.out ∧
      (getWays (wayError s st u w) st u).errs = tput x.errs w (holdInc 255 (tget 0 x.errs w)) ∧
      (tfind x.leaving w = none → (getWays (wayError s st u w) st u).leaving = x.leaving) := by
  subst hx
  cases hl : tfind (getWays s st u).leaving w with
  | none =>
    rw [hl] at hn
    rw [wayError_stays hl (hn.imp_right fun h => h.resolve_right fun h => h rfl), getWays_errorCounted]
    exact ⟨rfl, rfl, fun _ => rfl⟩
  | some y =>
    rw [wayError_leaving hl]
    split
    · rw [getWays_putWays, getWays_errorCounted]
      exact ⟨rfl, rfl, fun h => nomatch h⟩
    · rw [getWays_errorCounted]
      exact ⟨rfl, rfl, fun h => nomatch h⟩

theorem exec_wayError {u : Fin 256} {w : Fin 16} (hu : u.val < wayUnits st) (hw : w.val < wayCount st) :
    exec (.correctedError (.way st u w)) s = .next (wayError s st u.val w.val) :=
  (show exec (.correctedError (.way st u w)) s = execCorrectedError (.way st u w) s from rfl).trans
    (if_neg (not_or.2 ⟨Nat.not_le.2 hu, Nat.not_le.2 hw⟩))

theorem exec_wayError_none {u : Fin 256} {w : Fin 16} (h : wayUnits st ≤ u.val ∨ wayCount st ≤ w.val) :
    exec (.correctedError (.way st u w)) s = .next s :=
  (show exec (.correctedError (.way st u w)) s = execCorrectedError (.way st u w) s from rfl).trans (if_pos h)

/-- R298: a way that is empty is out of service. -/
theorem exec_wayOut {u : Fin 256} {w : Fin 16} {x : Nat × Nat} (hu : u.val < wayUnits st) (hx : tfind (getWays s st u.val).leaving w.val = some x)
    (he : wayEmpty (emptyWay s st u.val w.val) st u.val w.val = true) :
    ∃ t, exec (.wayOutOfService st u w) s = .next t ∧ w.val ∈ (getWays t st u.val).out ∧
      (getWays t st u.val).leaving = tdel (getWays (emptyWay s st u.val w.val) st u.val).leaving w.val := by
  rw [show exec (.wayOutOfService st u w) s = execWayOutOfService st u w s from rfl]
  have hc : ¬ (decide (wayUnits st ≤ u.val) || !wayEmpty (emptyWay s st u.val w.val) st u.val w.val) = true := by simp [he, hu]
  simp only [execWayOutOfService, hx, if_neg hc]
  refine ⟨_, rfl, ?_⟩
  rw [getWays_addWayRec, getWays_putWays]
  exact ⟨List.mem_cons_self, rfl⟩

theorem exec_wayOut_waits {u : Fin 256} {w : Fin 16} {x : Nat × Nat} (hx : tfind (getWays s st u.val).leaving w.val = some x)
    (he : wayEmpty (emptyWay s st u.val w.val) st u.val w.val = false) :
    exec (.wayOutOfService st u w) s = .next (emptyWay s st u.val w.val) := by
  rw [show exec (.wayOutOfService st u w) s = execWayOutOfService st u w s from rfl]
  have hc : (decide (wayUnits st ≤ u.val) || !wayEmpty (emptyWay s st u.val w.val) st u.val w.val) = true := by simp [he]
  simp only [execWayOutOfService, hx, if_pos hc]

theorem exec_wayOut_none {u : Fin 256} {w : Fin 16} (hx : tfind (getWays s st u.val).leaving w.val = none) :
    exec (.wayOutOfService st u w) s = .next s := by
  rw [show exec (.wayOutOfService st u w) s = execWayOutOfService st u w s from rfl]
  simp only [execWayOutOfService, hx]

/-! Frames. -/

@[simp] theorem ledger_cohZero (s : State) (lo hi : Nat) : ledger (cohZero s lo hi) = ledger s := by
  simp only [cohZero, ledger_mk, ledger_eta]

theorem frameRetired_retireFrame (s : State) (f : Nat) (unc : Bool) : FrameRetired (retireFrame s f unc) f := by
  simp only [retireFrame]
  split
  · next h =>
    simp only [Bool.or_eq_true, List.contains_iff_mem, List.any_eq_true, Bool.and_eq_true, beq_iff_eq] at h
    exact h
  · have hrel := rel_of_ledger ((ledger_stamp (cohZero s (f * 4096) ((f + 1) * 4096))).trans (ledger_cohZero s _ _))
    split
    · exact .inr ⟨⟨f / 2 ^ 24, f % 2 ^ 24, unc, (cohZero s (f * 4096) ((f + 1) * 4096)).stamp.1⟩,
        List.mem_append_right _ (List.mem_singleton.2 rfl), rfl, rfl⟩
    · exact .inl (List.mem_append_right _ (List.mem_singleton.2 rfl))

/-- What counts errors stays as a frame retires. -/
theorem retireFrame_counts (s : State) (f : Nat) (unc : Bool) :
    (retireFrame s f unc).rel.uncs = s.rel.uncs ∧ (retireFrame s f unc).mem.hbmErrs = s.mem.hbmErrs := by
  have hrel := rel_of_ledger ((ledger_stamp (cohZero s (f * 4096) ((f + 1) * 4096))).trans (ledger_cohZero s _ _))
  have hmem : (cohZero s (f * 4096) ((f + 1) * 4096)).stamp.2.mem.hbmErrs = s.mem.hbmErrs := by rw [stamp_mem]; rfl
  simp only [retireFrame]
  split
  · exact ⟨rfl, rfl⟩
  have huncs : (cohZero s (f * 4096) ((f + 1) * 4096)).stamp.2.rel.uncs = s.rel.uncs := congrArg Rel.uncs hrel
  split
  · exact ⟨huncs, hmem⟩
  · exact ⟨huncs, hmem⟩

/-- R298, R474: the fourth error of a window retires its frame. -/
theorem correctedError_frame (f : BitVec 27) (s : State) : ∃ t, exec (.correctedError (.frame f)) s = .next t ∧
    tget 0 t.mem.hbmErrs f.toNat = tget 0 s.mem.hbmErrs f.toNat + 1 ∧ (tget 0 s.mem.hbmErrs f.toNat = 3 → FrameRetired t f.toNat) := by
  rw [show exec (.correctedError (.frame f)) s = execCorrectedError (.frame f) s from rfl]
  simp only [execCorrectedError]
  refine ⟨_, rfl, ?_⟩
  split
  · refine ⟨?_, fun _ => frameRetired_retireFrame ..⟩
    rw [(retireFrame_counts ..).2]
    exact tget_tput_same ..
  · next h => exact ⟨tget_tput_same .., fun h3 => absurd (by omega) h⟩

/-! Uncorrectable errors. -/

/-- The sector of an uncorrectable error in HBM is poisoned, and its frame retired (R474). -/
def hbmLost (s : State) (q : BitVec 33) : State :=
  let t := setPoison s (q.toNat / 4) (q.toNat % 4) true
  retireFrame { t with rel := { t.rel with
    uncs := tput t.rel.uncs (channelOf (q.toNat / 4)) (tget 0 s.rel.uncs (channelOf (q.toNat / 4)) + 1) } } (q.toNat / 64) true

theorem hbmLost_spec (s : State) (q : BitVec 33) :
    tget 0 (hbmLost s q).rel.uncs (channelOf (q.toNat / 4)) = tget 0 s.rel.uncs (channelOf (q.toNat / 4)) + 1 ∧
      FrameRetired (hbmLost s q) (q.toNat / 64) := by
  refine ⟨?_, frameRetired_retireFrame ..⟩
  rw [hbmLost, (retireFrame_counts ..).1]
  exact tget_tput_same ..

theorem exec_hbmLost (q : BitVec 33) (s : State) : exec (.eccUncorrectable (.hbm q)) s =
    .next (if tget 0 s.rel.uncs (channelOf (q.toNat / 4)) + 1 = 8 then faultDetect (hbmLost s q) .channel (channelOf (q.toNat / 4)) 0x0C
      else hbmLost s q) := rfl

end
end Sys2Proof.Machine

end

section
open Sys2Proof Sys2Proof.Machine

/-- Settles O55: each command through the rule of its function. A recovery that begins keeps no more than its own entry because the module
runs none, and the tests that it ends have other units. -/
theorem reliabilityCommandsComplete : Obligations.ReliabilityCommandsComplete := by
  unfold Obligations.ReliabilityCommandsComplete
  refine ⟨?_, ?_, ?_, ?_, ?_, ?_, ?_, ?_, ?_, ?_, ?_, ?_, ?_, ?_, ?_, ?_, ?_, ?_⟩
  case refine_1 => exact fun d u cause also s => rfl
  case refine_2 =>
    intro d u cause s hex hp ht
    refine ⟨fun hd hq => ?_, fun hd hq => ?_, fun hh hrun => ?_⟩
    · obtain ⟨hunit, hchain, hrun, -⟩ := faultDetect_begins (cause := cause.toNat) hd hex hp ht hq
      exact ⟨_, exec_faultDetect_one cause hex hq.1, hunit, hchain, hrun⟩
    · subst hd
      obtain ⟨r, hdom, hcause, hmod, hpwr, hctx, hstarts, hrun⟩ := faultDetect_module (cause := cause.toNat) hp ht hq
      exact ⟨_, r, exec_faultDetect_one cause hex hq.1, hmod, hpwr, hctx, hstarts, hrun, hdom, hcause⟩
    · rw [exec_faultDetect_one cause hex hrun, faultDetect_halted hp ht hh]
  case refine_3 =>
    intro d u ok us s r hr
    refine ⟨recoveryComplete_ends hr, fun hd hok => ?_, recoveryComplete_stays hr⟩
    rw [hok]
    exact recoveryComplete_escalates hr hd
  case refine_4 => exact fun d u ok us s hr => recoveryComplete_none hr
  case refine_5 =>
    intro s r hm hr
    refine ⟨restartModule s, if_pos hm, ?_⟩
    split
    · next h3 => exact restartModule_again hr h3
    · next h3 => exact restartModule_halts hr h3
  case refine_6 => exact fun s hm => if_neg hm
  case refine_7 => exact exec_agentSilent
  case refine_8 => exact exec_pllLossOfLock
  case refine_9 =>
    intro l m s lane hlane
    subst hlane
    refine ⟨fun h1 h2 => ⟨fun hl => ?_, fun d hd hl => ?_, fun i hi hl => ?_, ucieOut_quiet h1 h2⟩, exec_ucieOut_none⟩
    · rw [exec_ucieOut h1 h2, moduleFaults.eq_def, hl]
      rfl
    · subst hd
      rw [exec_ucieOut h1 h2, moduleFaults.eq_def, hl]
      rfl
    · subst hi
      rw [exec_ucieOut h1 h2, moduleFaults.eq_def, hl]
      exact ⟨_, rfl, tget_tput_same ..⟩
  case refine_10 => exact exec_linkReplayComplete
  case refine_11 =>
    intro st u w s x n hx hn
    subst hx hn
    refine ⟨fun hu hw h => ?_, fun hu hw h17 hout hl => ⟨fun hroom => ?_, fun hroom => ?_⟩, exec_wayError_none⟩
    · exact ⟨_, exec_wayError hu hw, wayError_counts _ rfl h⟩
    · exact ⟨_, exec_wayError hu hw, by rw [wayError_leaves hl h17 hout hroom, getWays_putWays]⟩
    · refine ⟨_, (exec_wayError hu hw).trans (congrArg Host.Outcome.next (wayError_faults hl h17 hout hroom)), ?_⟩
      rw [getWays_addWayRec, getWays_errorCounted, h17]
  case refine_12 => exact correctedError_frame
  case refine_13 =>
    exact fun st u w s => ⟨fun x hu hx => ⟨exec_wayOut hu hx, exec_wayOut_waits hx⟩, exec_wayOut_none⟩
  case refine_14 => exact fun k i w q s => ⟨rfl, rfl⟩
  case refine_15 => exact fun c i w q s => ⟨rfl, rfl⟩
  case refine_16 => exact fun d k x y s => ⟨rfl, rfl, rfl⟩
  case refine_17 =>
    intro k c e i n v s
    refine ⟨⟨_, rfl, ?_⟩, ⟨_, rfl, ?_⟩, ⟨_, rfl, ?_⟩, ⟨_, rfl, ?_⟩⟩
    · simp
    · simp
    · simp [tget_tput_same]
    · simp
  case refine_18 =>
    intro q s n hn
    subst hn
    obtain ⟨hcount, hret⟩ := hbmLost_spec s q
    refine ⟨fun h8 => ⟨hbmLost s q, ?_, hcount, hret⟩, fun h8 => ⟨hbmLost s q, ?_, hcount.trans h8, hret⟩⟩
    · rw [exec_hbmLost, if_neg h8]
    · rw [exec_hbmLost, if_pos h8]

end

section
/-!
Host interface (16; O49).
-/
namespace Sys2Proof.Machine

/-! Resets of PCIe and of functions, and the training of the link (16 R407, R408; 21 R520, R522). -/

section
variable {s : State} {n f : Nat}

theorem host_startTeardown (s : State) (n c : Nat) : (startTeardown s n c).host = s.host := by
  simp only [startTeardown]
  split <;> rfl

theorem host_destroyCtxs (s : State) (p : Ctx → Bool) : (destroyCtxs s p).host = s.host :=
  foldl_keeps (P := fun u : State => u.host = s.host) (fun u n hu => by rw [host_startTeardown, hu]) _ rfl

theorem host_vfReset (s : State) (f : Nat) : (vfReset s f).fn f = resetFn (s.fn f) := by
  have hfn : (forgetDestroy (destroyCtxs s (fun x => x.fn.toNat == f)) (· == f)).fn f = s.fn f := by
    show tget HostFn.dflt (destroyCtxs s (fun x => x.fn.toNat == f)).host.fns f = _
    rw [host_destroyCtxs]
    rfl
  rw [vfReset, State.fn_setFn, if_pos rfl, hfn]

/-- A context that is alive is torn down where its entry is met (R408). -/
theorem destroyCtxs_alive {p : Ctx → Bool} (hp : p (s.ctx n) = true) (ha : (s.ctx n).st ∉ [CtxState.free, .dead]) :
    ((destroyCtxs s p).ctx n).st = .teardown := by
  have hmem : (n, s.ctx n) ∈ s.ctxs := by
    have h : s.ctx n = Ctx.dflt ∨ (n, s.ctx n) ∈ s.ctxs := tget_mem_or ..
    exact h.resolve_left fun h => ha (by rw [h]; simp [Ctx.dflt])
  have hl : n ∈ ((s.ctxs.filter (fun e => p e.2)).map Prod.fst) := List.mem_map.2 ⟨_, List.mem_filter.2 ⟨hmem, hp⟩, rfl⟩
  refine foldl_establishes (I := fun u : State => (u.ctx n).st ∉ [CtxState.free, .dead]) (P := fun u : State => (u.ctx n).st = .teardown)
    (f := fun s n => startTeardown s n 4) hl (fun u m hu => ?_) (fun u hu => (startTeardown_alive 4 hu).1) (fun u m hu => ?_) ha
  · rw [ctx_startTeardown]
    split
    · simp
    · exact hu
  · rw [ctx_startTeardown]
    split
    · rfl
    · exact hu

/-- A context whose commands of CTX_DESTROY are forgotten. -/
def Ctx.forgotten (p : Nat → Bool) (x : Ctx) : Ctx := { x with destroyReq := x.destroyReq.filter (fun d => !p d.1) }

theorem ctx_forgetDestroy (s : State) (p : Nat → Bool) (n : Nat) : (forgetDestroy s p).ctx n = (s.ctx n).forgotten p :=
  tget_map Ctx.dflt (Ctx.forgotten p) s.ctxs n

theorem ctx_vfReset (s : State) (f n : Nat) : (vfReset s f).ctx n =
    (forgetDestroy (destroyCtxs s (fun x => x.fn.toNat == f)) (· == f)).ctx n := rfl

theorem vfFunction_self {v : Byte} (h : v ≠ 0) : vfFunction v.toNat = v.toNat := by
  have : v.toNat ≠ 0 := fun h' => h (BitVec.eq_of_toNat_eq h')
  simp only [vfFunction, firstVfOffset, vfStride]
  omega

/-- R408: the reset of a virtual function. -/
theorem exec_vfFlr {vf : Byte} (hvf : vf ≠ 0) (s : State) : ∃ t, exec (.vfFlr vf) s = .next t ∧
    t.fn vf.toNat = { HostFn.dflt with dropped := (s.fn vf.toNat).dropped } ∧
    (∀ n, (s.ctx n).fn = vf → (s.ctx n).st ∉ [CtxState.free, .dead] →
      (t.ctx n).st = .teardown ∧ (∀ d ∈ (t.ctx n).destroyReq, d.1 ≠ vf.toNat)) := by
  rw [show exec (.vfFlr vf) s = execVfFlr vf s from rfl, execVfFlr, if_neg hvf, vfFunction_self hvf]
  refine ⟨_, rfl, host_vfReset s vf.toNat, fun n hfn ha => ?_⟩
  rw [ctx_vfReset, ctx_forgetDestroy]
  refine ⟨destroyCtxs_alive (p := fun x => x.fn.toNat == vf.toNat) (by simp [hfn]) ha, fun d hd => ?_⟩
  have := (List.mem_filter.1 hd).2
  simpa using this

/-- R408: the reset of the physical function, and with it of every function. -/
theorem pfReset_spec (s : State) : (pfReset s).host.vfEnable = false ∧
    (∀ f, (pfReset s).fn f = { HostFn.dflt with dropped := (s.fn f).dropped }) ∧
    (∀ n, (s.ctx n).st ∉ [CtxState.free, .dead] → ((pfReset s).ctx n).st = .teardown) ∧ (pfReset s).host.perst = s.host.perst ∧
    (pfReset s).host.refSel = s.host.refSel := by
  have hhost : (forgetDestroy (destroyCtxs s (fun _ => true)) (fun _ => true)).host = s.host := host_destroyCtxs ..
  have hperst : (forgetDestroy (destroyCtxs s (fun _ => true)) (fun _ => true)).host.perst = s.host.perst := congrArg HostIf.perst hhost
  have hsel : (forgetDestroy (destroyCtxs s (fun _ => true)) (fun _ => true)).host.refSel = s.host.refSel := congrArg HostIf.refSel hhost
  refine ⟨rfl, fun f => ?_, fun n ha => ?_, hperst, hsel⟩
  · show tget HostFn.dflt ((forgetDestroy (destroyCtxs s (fun _ => true)) (fun _ => true)).host.fns.map (fun e => (e.1, resetFn e.2))) f = _
    rw [hhost]
    exact tget_map HostFn.dflt resetFn s.host.fns f
  · show ((forgetDestroy (destroyCtxs s (fun _ => true)) (fun _ => true)).ctx n).st = _
    rw [ctx_forgetDestroy]
    exact destroyCtxs_alive (p := fun _ => true) rfl ha

theorem exec_perstAssert (h : s.host.perst = false) : ∃ t, exec .perstAssert s = .next t ∧ t.host.perst = true ∧ t.host.speed = 0 ∧
    t.host.width = 0 ∧ t.host.ide = [] ∧ t.host.vfEnable = false ∧ t.host.refForce = (s.host.refSel == 1) := by
  obtain ⟨-, -, -, -, href⟩ := pfReset_spec s
  have hc : ¬ s.host.perst = true := by simp [h]
  exact ⟨_, if_neg hc, rfl, rfl, rfl, rfl, rfl, congrArg (· == 1) href⟩

theorem exec_hotReset (s : State) : ∃ t, exec .hotReset s = .next t ∧ t.host.perst = s.host.perst ∧ t.host.speed = 0 ∧ t.host.width = 0 ∧
    t.host.ide = [] ∧ t.host.vfEnable = false ∧ t.sec.session = false := by
  obtain ⟨-, -, -, hperst, -⟩ := pfReset_spec s
  exact ⟨_, rfl, hperst, rfl, rfl, rfl, rfl, rfl⟩

/-- R406, R407, R520: the link trains to a mode, or goes down. -/
theorem exec_pcieLinkRetrain {sp : BitVec 4} {w : BitVec 5} {fl : Bool} (h : LinkMayTrain s) (h1 : 1 ≤ sp.toNat) (h7 : sp.toNat ≤ 7)
    (hw : w.toNat ∈ [1, 2, 4, 8, 16]) : ∃ t, exec (.pcieLinkRetrain sp w fl) s = .next t ∧ t.host = { s.host with
      speed := sp, width := w, flit := fl || decide (6 ≤ sp.toNat), retrains := holdInc 255 s.host.retrains
      posted := if s.host.speed = 0 then s.host.posted ++ [.ready] else s.host.posted } := by
  obtain ⟨hperst, h10, h12⟩ := h
  rw [show exec (.pcieLinkRetrain sp w fl) s = execPcieLinkRetrain sp w fl s from rfl]
  have hc1 : ¬ (s.host.perst || decide (s.pwr.start.toNat < 10) || decide (0x0C < s.pwr.start.toNat)) = true := by
    simp only [hperst, Bool.or_eq_true, decide_eq_true_eq, Bool.false_eq_true, false_or]
    omega
  have hc2 : ¬ (sp = 0 ∧ w = 0) := fun ⟨hsp, _⟩ => by simp [hsp] at h1
  have hc3 : ¬ (!linkMode sp w) = true := by
    simp only [linkMode, Bool.not_eq_true', Bool.not_eq_false, Bool.and_eq_true, decide_eq_true_eq, List.contains_iff_mem]
    exact ⟨⟨h1, h7⟩, hw⟩
  simp only [execPcieLinkRetrain, if_neg hc1, if_neg hc2, if_neg hc3]
  refine ⟨_, rfl, ?_⟩
  simp only [linkUp]
  by_cases h0 : s.host.speed = 0
  · simp only [if_pos h0, post]
  · simp only [if_neg h0]

theorem exec_pcieLinkDown (fl : Bool) (h : LinkMayTrain s) :
    exec (.pcieLinkRetrain 0 0 fl) s = .next { s with host := { s.host with speed := 0, width := 0, flit := false } } := by
  obtain ⟨hperst, h10, h12⟩ := h
  rw [show exec (.pcieLinkRetrain 0 0 fl) s = execPcieLinkRetrain 0 0 fl s from rfl]
  have hc1 : ¬ (s.host.perst || decide (s.pwr.start.toNat < 10) || decide (0x0C < s.pwr.start.toNat)) = true := by
    simp only [hperst, Bool.or_eq_true, decide_eq_true_eq, Bool.false_eq_true, false_or]
    omega
  simp only [execPcieLinkRetrain, if_neg hc1]
  rfl

end

/-! Submissions and their records (16 R414 to R417). -/

section
variable {s : State} {n : BitVec 12} {h e : List W64}

theorem any_ne_zero_iff (l : List W64) : l.any (· != 0) = true ↔ ∃ w ∈ l, w ≠ 0 := by
  simp only [List.any_eq_true, bne_iff_ne]

/-- A core of the context starts its kernel (R416). -/
def startOn (n : Nat) (e : List W64) (s : State) (h : Nat × Nat) : State :=
  s.updCore h.1 (fun x => startKernel x (e.getD 1 0) (e.getD 2 0) h.2 (s.ctx n).width)

/-- A LAUNCH begins a kernel on the cores of its context (R416). -/
def launched (s : State) (n : Nat) (e : List W64) : State :=
  let t := (takeEntry s n).setCtx n { (takeEntry s n).ctx n with kernel := some (e.headD 0) }
  let v := (heldCores t n).foldl (startOn n e) t
  v.emit 4 5 ((v.ctx n).cores.headD 0) n (fld (e.headD 0) 31 0) (e.getD 1 0) 0

theorem exec_launch_good (hm : mayTake (s.ctx n.toNat) = true) (he : sqEntry s n.toNat h = some e) (h1 : fld (e.headD 0) 63 56 = 1)
    (hrsv : fld (e.headD 0) 55 33 = 0) (hz : ∀ w ∈ e.drop 3, w = 0) : exec (.launch n h) s = .next (launched s n.toNat e) := by
  rw [show exec (.launch n h) s = execLaunch n h s from rfl]
  have h2 : ¬ fld (e.headD 0) 63 56 = 2 := by omega
  have hbad : ¬ (fld (e.headD 0) 63 56 ≠ 1 ∨ fld (e.headD 0) 55 33 ≠ 0 ∨ (e.drop 3).any (· != 0) = true) := by
    rw [any_ne_zero_iff]
    rintro (hb | hb | ⟨w, hw, hw0⟩)
    · exact hb h1
    · exact hb hrsv
    · exact hw0 (hz w hw)
  simp only [execLaunch, hm, he, Bool.not_true, Bool.false_eq_true, if_false, if_neg h2, if_neg hbad]
  rfl

/-- A core that starts a kernel (R416). -/
structure Launched (c : Core) (e : List W64) (i w : Nat) : Prop where
  pc : c.pc = e.getD 1 0
  arg : c.sreg 1 = e.getD 2 0
  index : c.sreg 2 = BitVec.ofNat 64 i
  width : c.sreg 3 = BitVec.ofNat 64 w
  kend : c.kend = 0

theorem launched_startKernel (c : Core) (e : List W64) (i w : Nat) : Launched (startKernel c (e.getD 1 0) (e.getD 2 0) i w) e i w where
  pc := rfl
  arg := by simp [startKernel, Core.setSreg, Core.sreg, tget_tset]
  index := by simp [startKernel, Core.setSreg, Core.sreg, tget_tset]
  width := by simp [startKernel, Core.setSreg, Core.sreg, tget_tset]
  kend := rfl

theorem startOn_core {t : State} {m w : Nat} (hw : (t.ctx m).width = w) (y : Nat × Nat) (k : Nat) : (startOn m e t y).core k =
    if k = y.1 then startKernel (t.core k) (e.getD 1 0) (e.getD 2 0) y.2 w else t.core k := by
  rw [startOn, State.core_updCore, hw]
  split
  · next hk => rw [hk]
  · rfl

/-- Cores start in turn, and the one that holds a place starts with its number. -/
theorem launched_foldl {k i w m : Nat} {l : List (Nat × Nat)} (hin : (k, i) ∈ l) (honly : ∀ j, (k, j) ∈ l → j = i) {t : State}
    (hw : (t.ctx m).width = w) : Launched ((l.foldl (startOn m e) t).core k) e i w := by
  have hkeep : ∀ r : List (Nat × Nat), (∀ j, (k, j) ∈ r → j = i) → ∀ u : State, (u.ctx m).width = w → Launched (u.core k) e i w →
      Launched ((r.foldl (startOn m e) u).core k) e i w := fun r hr u hu hl => by
    refine (List.foldlRecOn (motive := fun v : State => (v.ctx m).width = w ∧ Launched (v.core k) e i w) r (startOn m e) ⟨hu, hl⟩
      fun v ⟨hv, hlv⟩ y hy => ⟨hv, ?_⟩).2
    rw [startOn_core hv]
    split
    · next hk =>
      subst hk
      rw [← hr y.2 hy]
      exact launched_startKernel ..
    · exact hlv
  induction l generalizing t with
  | nil => cases hin
  | cons y r ih =>
    have hrest : ∀ j, (k, j) ∈ r → j = i := fun j hj => honly j (List.mem_cons_of_mem _ hj)
    obtain rfl | hr := List.mem_cons.1 hin
    · refine hkeep r hrest _ hw ?_
      rw [startOn_core hw, if_pos rfl]
      exact launched_startKernel ..
    · exact ih hr hrest hw

theorem ctx_foldl_startOn (m j : Nat) (l : List (Nat × Nat)) (t : State) : (l.foldl (startOn m e) t).ctx j = t.ctx j :=
  foldl_keeps (P := fun u : State => u.ctx j = t.ctx j) (f := startOn m e) (fun _ _ hu => hu) l rfl

theorem ctx_emit (s : State) (b kind unit ctx info : Nat) (a0 a1 : W64) (n : Nat) : (s.emit b kind unit ctx info a0 a1).ctx n = s.ctx n := by
  obtain ⟨g, hg⟩ := emit_frame s b kind unit ctx info a0 a1
  rw [hg]
  rfl

theorem launched_spec (s : State) (m : Nat) (e : List W64) : ((launched s m e).ctx m).kernel = some (e.headD 0) ∧
    ((launched s m e).ctx m).sqHead = ((s.ctx m).sqHead + 1) % sqSize (s.ctx m) ∧
    (∀ k i, (k, i) ∈ heldCores s m → (∀ j, (k, j) ∈ heldCores s m → j = i) → Launched ((launched s m e).core k) e i (s.ctx m).width) := by
  have hctx : ((takeEntry s m).setCtx m { (takeEntry s m).ctx m with kernel := some (e.headD 0) }).ctx m =
      { (takeEntry s m).ctx m with kernel := some (e.headD 0) } := by simp
  have htake : (takeEntry s m).ctx m =
      { s.ctx m with sqHead := ((s.ctx m).sqHead + 1) % sqSize (s.ctx m), consumed := ((s.ctx m).consumed + 1) % 65536 } := by
    simp [takeEntry]
  have hlast : (launched s m e).ctx m = { (takeEntry s m).ctx m with kernel := some (e.headD 0) } := by
    simp only [launched]
    rw [ctx_emit]
    exact (ctx_foldl_startOn m m _ _).trans hctx
  rw [hlast, htake]
  refine ⟨rfl, rfl, fun k i hin honly => ?_⟩
  simp only [launched, core_emit]
  refine launched_foldl (l := heldCores s m) hin honly ?_
  rw [hctx, htake]
  rfl

/-- A reserved entry is a fault of its context (R416). -/
theorem exec_launch_bad (hm : mayTake (s.ctx n.toNat) = true) (he : sqEntry s n.toNat h = some e) (h2 : fld (e.headD 0) 63 56 ≠ 2)
    (hbad : fld (e.headD 0) 63 56 ≠ 1 ∨ fld (e.headD 0) 55 33 ≠ 0 ∨ (∃ w ∈ e.drop 3, w ≠ 0)) :
    exec (.launch n h) s = .next (ctxFault (takeEntry s n.toNat) n.toNat 1 0) := by
  rw [show exec (.launch n h) s = execLaunch n h s from rfl]
  rw [← any_ne_zero_iff] at hbad
  simp only [execLaunch, hm, he, Bool.not_true, Bool.false_eq_true, if_false, if_neg h2, if_pos hbad]

theorem exec_nop_bad (hm : mayTake (s.ctx n.toNat) = true) (he : sqEntry s n.toNat h = some e) (h2 : fld (e.headD 0) 63 56 = 2)
    (hbad : fld (e.headD 0) 55 33 ≠ 0 ∨ (∃ w ∈ e.drop 3, w ≠ 0)) :
    exec (.submissionNop n h) s = .next (ctxFault (takeEntry s n.toNat) n.toNat 1 0) := by
  rw [show exec (.submissionNop n h) s = execSubmissionNop n h s from rfl]
  rw [← any_ne_zero_iff] at hbad
  simp only [execSubmissionNop, hm, he, Bool.not_true, Bool.false_eq_true, if_false, if_neg (Classical.not_not.2 h2), if_pos hbad]

/-- What a good NOP does, by the room for its record (R414, R416). -/
theorem exec_nop_good (hm : mayTake (s.ctx n.toNat) = true) (he : sqEntry s n.toNat h = some e) (h2 : fld (e.headD 0) 63 56 = 2)
    (hrsv : fld (e.headD 0) 55 33 = 0) (hz : ∀ w ∈ e.drop 3, w = 0) : exec (.submissionNop n h) s =
      match cqRoom s n.toNat false with
        | none => .next (cqFault s n.toNat)
        | some false => .next (cqProbe s n.toNat false)
        | some true =>
          match writeRecord (takeEntry s n.toNat) n.toNat 2 0 (fld (e.headD 0) 31 0) (bit (e.headD 0) 32) with
          | some (u, _) => .next (settleCtx u n.toNat)
          | none => .next (cqFault s n.toNat) := by
  rw [show exec (.submissionNop n h) s = execSubmissionNop n h s from rfl]
  have hbad : ¬ (fld (e.headD 0) 55 33 ≠ 0 ∨ (e.drop 3).any (· != 0) = true) := by
    rw [any_ne_zero_iff]
    rintro (hb | ⟨w, hw, hw0⟩)
    · exact hb hrsv
    · exact hw0 (hz w hw)
  simp only [execSubmissionNop, hm, he, Bool.not_true, Bool.false_eq_true, if_false, if_neg (Classical.not_not.2 h2), if_neg hbad] <;> rfl

/-- The record of a kernel that has ended on every core (R417). -/
theorem exec_kernelDone {w0 : W64} (hk : (s.ctx n.toNat).kernel = some w0) (hst : (s.ctx n.toNat).st ∈ [CtxState.running, .holding])
    (hheld : heldCores s n.toNat ≠ []) (hend : ∀ e ∈ heldCores s n.toNat, (s.core e.1).kend = 2) : exec (.kernelDoneRecord n) s =
      match cqRoom s n.toNat false with
      | none => .next (cqFault s n.toNat)
      | some false => .next (cqProbe (offerCores (s.setCtx n.toNat { s.ctx n.toNat with st := .holding })) n.toNat false)
      | some true =>
        match writeRecord s n.toNat 1 0 (fld w0 31 0) (bit w0 32) with
        | none => .next (cqFault s n.toNat)
        | some (u, st) => .next (settleCtx ((u.setCtx n.toNat { u.ctx n.toNat with kernel := none, st := .running }).emit 4 6
            ((s.ctx n.toNat).cores.headD 0) n.toNat (fld w0 31 0) st 0) n.toNat) := by
  rw [show exec (.kernelDoneRecord n) s = execKernelDoneRecord n s from rfl]
  have hc : ¬ (!((s.ctx n.toNat).st == .running || (s.ctx n.toNat).st == .holding) || (heldCores s n.toNat).isEmpty ||
      !((heldCores s n.toNat).all (fun h => (s.core h.1).kend == 2))) = true := by
    have hall : (heldCores s n.toNat).all (fun h => (s.core h.1).kend == 2) = true := List.all_eq_true.2 fun x hx => by simp [hend x hx]
    simp only [List.mem_cons, List.not_mem_nil, or_false] at hst
    simp [hheld, hall]
    exact fun h => hst.resolve_left h
  simp only [execKernelDoneRecord, hk, if_neg hc] <;> rfl

/-- R419: a vector that may go out is posted, and any other is pending. -/
theorem msix_spec (s : State) {f v : Nat} (h : v < msixTable f) :
    (msixOpen s f v = true → (msix s f v).host.posted = s.host.posted ++ [.msix f v ((s.fn f).vec v).addr ((s.fn f).vec v).data]) ∧
      (msixOpen s f v = false → (msix s f v).host.posted = s.host.posted ∧ v ∈ ((msix s f v).fn f).pba) := by
  simp only [msix, if_neg (Nat.not_le.2 h)]
  refine ⟨fun ho => ?_, fun ho => ?_⟩
  · rw [if_pos ho]
    rfl
  · rw [if_neg (by simp [ho])]
    refine ⟨rfl, ?_⟩
    rw [State.fn_setFn, if_pos rfl]
    dsimp only
    split
    · next hc => exact List.contains_iff_mem.1 hc
    · exact List.mem_append_right _ (List.mem_singleton.2 rfl)

/-- R419: the coalescing timer raises the vector of its context. -/
theorem exec_coalesceTimer {f v : Nat} (ht : (s.ctx n.toNat).timer = true) (h0 : (s.ctx n.toNat).sinceIrq ≠ 0)
    (hf : f = (s.ctx n.toNat).fn.toNat) (hv : v = fld ((s.ctx n.toNat).word 7) 42 32) :
    ∃ t, exec (.coalesceTimerExpiry n) s = .next t ∧ t.ctx n.toNat = { s.ctx n.toNat with sinceIrq := 0, timer := false } ∧
      (v < msixTable f → msixOpen s f v = true → t.host.posted = s.host.posted ++ [.msix f v ((s.fn f).vec v).addr ((s.fn f).vec v).data]) ∧
      (v < msixTable f → msixOpen s f v = false → t.host.posted = s.host.posted ∧ v ∈ (t.fn f).pba) := by
  subst hf hv
  rw [show exec (.coalesceTimerExpiry n) s = execCoalesceTimerExpiry n s from rfl]
  have hc : ¬ (!(s.ctx n.toNat).timer || (s.ctx n.toNat).sinceIrq == 0) = true := by simp [ht, h0]
  simp only [execCoalesceTimerExpiry, if_neg hc]
  have hctx : ∀ t : State, (msix t (s.ctx n.toNat).fn.toNat (fld ((s.ctx n.toNat).word 7) 42 32)).ctx n.toNat = t.ctx n.toNat := fun t =>
    ctx_of_owned (owned_msix t _ _) _
  have hspec := fun hlt => msix_spec (s.setCtx n.toNat { s.ctx n.toNat with sinceIrq := 0, timer := false })
    (f := (s.ctx n.toNat).fn.toNat) (v := fld ((s.ctx n.toNat).word 7) 42 32) hlt
  refine ⟨_, rfl, ?_, fun hlt => (hspec hlt).1, fun hlt => (hspec hlt).2⟩
  rw [hctx, State.ctx_setCtx, if_pos rfl]

/-! The answers to host reads (10 R251). -/

section
variable {tag : W16} {d : List Byte} {r : HostRead} (hr : s.mem.hostRd.find? (fun r => r.tag == tag.toNat) = some r)
include hr

theorem exec_pcieCompletion_access {k id k2 : Nat} {a : Access} (ho : r.owner = .access k id) (ha : accOf s [k] id = some (k2, a)) :
    exec (.pcieCompletion tag d) s = .next (deliver (readAnswered s r d.length) k2 a (leNat (d.take a.size)) false) := by
  rw [show exec (.pcieCompletion tag d) s = execPcieCompletion tag d s from rfl]
  have ha' : accOf (readAnswered s r d.length) [k] id = some (k2, a) := ha
  simp only [execPcieCompletion, hr, ho]
  rw [readAnswered] at ha' ⊢
  simp only [ha']

theorem exec_pcieCompletion_dma {k seq e : Nat} {q : DmaCmd} {x : Nat × Nat × Nat × Bool} (ho : r.owner = .dma k seq e)
    (hq : dmaFind s k seq = some q) (hx : q.reqs.find? (fun x => x.1 == e) = some x) :
    exec (.pcieCompletion tag d) s = .next (dmaAnswer (readAnswered s r d.length) k seq e (fun o => d.getD (o - x.2.2.1) 0) 0) := by
  rw [show exec (.pcieCompletion tag d) s = execPcieCompletion tag d s from rfl]
  have hq' : dmaFind (readAnswered s r d.length) k seq = some q := hq
  simp only [execPcieCompletion, hr, ho]
  rw [readAnswered] at hq' ⊢
  simp only [hq', Option.bind_some, hx, Option.map_some, Option.getD_some]

theorem exec_pcieCompletion_other :
    (∀ k face id, r.owner = .fence k face id → exec (.pcieCompletion tag d) s = .next (fenceBack (readAnswered s r d.length) k face id)) ∧
    (∀ k seq, r.owner = .dmaFence k seq →
      exec (.pcieCompletion tag d) s = .next (wakeCore (retryFence (retryWb (readAnswered s r d.length) k) k) k)) ∧
    (∀ n i, r.owner = .cq n i →
      exec (.pcieCompletion tag d) s = .next (cqRead (readAnswered s r d.length) n i (leNat (d.take 8)) false)) := by
  rw [show exec (.pcieCompletion tag d) s = execPcieCompletion tag d s from rfl]
  refine ⟨fun k face id ho => ?_, fun k seq ho => ?_, fun n i ho => ?_⟩
  · simp only [execPcieCompletion, hr, ho] <;> rfl
  · simp only [execPcieCompletion, hr, ho] <;> rfl
  · simp only [execPcieCompletion, hr, ho] <;> rfl

end

end
end Sys2Proof.Machine

end

section
open Sys2Proof Sys2Proof.Machine

/-- Settles O49: each command through the rule of its function. -/
theorem hostCommandsComplete : Obligations.HostCommandsComplete := by
  unfold Obligations.HostCommandsComplete
  refine ⟨?_, ?_, ?_, ?_, ?_, ?_, ?_, ?_, ?_, ?_, ?_, ?_, ?_, ?_, ?_, ?_, ?_, ?_⟩
  case refine_1 => exact fun s h => exec_perstAssert h
  case refine_2 => exact fun s => rfl
  case refine_3 => exact exec_hotReset
  case refine_4 => exact fun vf s h => exec_vfFlr h s
  case refine_5 =>
    intro s
    obtain ⟨hvf, hfn, hctx, -⟩ := pfReset_spec s
    exact ⟨_, rfl, hvf, hfn, hctx⟩
  case refine_6 =>
    intro n h e s hm he h1 hrsv hz
    obtain ⟨hkernel, hhead, hcores⟩ := launched_spec s n.toNat e
    refine ⟨_, exec_launch_good hm he h1 hrsv hz, hkernel, hhead, fun k i hin honly => ?_⟩
    obtain ⟨hpc, harg, hindex, hwidth, hkend⟩ := hcores k i hin honly
    exact ⟨hpc, harg, hindex, hwidth, hkend⟩
  case refine_7 => exact fun n h e s hm he => ⟨exec_launch_bad hm he, exec_nop_bad hm he⟩
  case refine_8 =>
    intro n h e s hm he h2 hrsv hz
    refine ⟨fun u st hroom hrec => ?_, fun hroom => ?_, fun hroom => ?_⟩
    · rw [exec_nop_good hm he h2 hrsv hz, hroom]
      simp only [hrec]
    · rw [exec_nop_good hm he h2 hrsv hz, hroom]
    · rw [exec_nop_good hm he h2 hrsv hz, hroom]
  case refine_9 =>
    intro n s w0 hk hst hheld hend
    refine ⟨fun u st hroom hrec => ?_, fun hroom => ?_, fun hroom => ?_⟩
    · rw [exec_kernelDone hk hst hheld hend, hroom]
      simp only [hrec]
    · rw [exec_kernelDone hk hst hheld hend, hroom]
    · rw [exec_kernelDone hk hst hheld hend, hroom]
  case refine_10 => exact fun n s f v => exec_coalesceTimer
  case refine_11 => exact fun s => rfl
  case refine_12 => exact fun s => rfl
  case refine_13 =>
    intro s b hb
    subst hb
    rfl
  case refine_14 => exact fun n a s hses ha => if_pos ⟨hses, ha⟩
  case refine_15 => exact fun n j k s hses hn => ⟨if_pos ⟨hses, hn⟩, if_pos ⟨hses, hn⟩⟩
  case refine_16 => exact fun n s => rfl
  case refine_17 => exact fun sp w f s h => ⟨exec_pcieLinkRetrain h, exec_pcieLinkDown f h⟩
  case refine_18 =>
    intro tag d s r hr
    obtain ⟨hfence, hdma, hcq⟩ := exec_pcieCompletion_other (d := d) hr
    exact ⟨fun k id k2 a => exec_pcieCompletion_access hr, fun k seq e q x => exec_pcieCompletion_dma hr, hfence, hdma, hcq⟩

end

section
/-!
The Kedal dictionary (17; O50).
-/
namespace Sys2Proof.Machine

/-! Requests that reach the dictionary (17 R430 to R438). -/

section
variable {s : State} {q : KReq}

theorem kedalRequest_submitted (s : State) (q : KReq) : Submitted (.next (kedalRequest s q)) s q := by
  refine ⟨fun hk hlt => ?_, fun hk hge => ?_, fun a hk => ?_⟩
  · simp only [kedalRequest, hk, submit, if_neg (Nat.not_le.2 hlt)]
  · simp only [kedalRequest, hk, submit, if_pos hge]
  · simp only [kedalRequest, hk]

theorem exec_fieldFrame (src : W64) (node : BitVec 20) (et : W16) (b : Bool) (f : List Byte) (hup : kedalUp s = true)
    (hq : q = ⟨.field, src, f.take (32 + frBodyLen f), setBit src 56 true, false⟩) : exec (.kedalFrameArrival .field ⟨src, node, et⟩ b f) s =
      if et.toNat ≠ etherType s ∨ frOp q.frame = 4 ∨ (b ∧ !(frOp q.frame == 1 && inR (frIndex q.frame) 0x1000 0x10FF)) then .next s
      else .next (kedalRequest s q) := by
  rw [show exec (.kedalFrameArrival .field ⟨src, node, et⟩ b f) s = execKedalFrameArrival .field ⟨src, node, et⟩ b f s from rfl]
  subst hq
  simp only [execKedalFrameArrival, hup, Bool.not_true, Bool.false_eq_true, if_false] <;> rfl

theorem exec_fabricFrame (src : W64) (node : BitVec 20) (et : W16) (b : Bool) (f : List Byte) (hup : kedalUp s = true)
    (hq : q = ⟨.fabric, if 2 ^ 60 ≤ src.toNat then src else node.setWidth 64, f.take (32 + frBodyLen f), node.setWidth 64, false⟩) :
    exec (.kedalFrameArrival .fabric ⟨src, node, et⟩ b f) s =
      if frOp q.frame = 4 ∨ fmAdmits s q = false then .next s else .next (kedalRequest s q) := by
  rw [show exec (.kedalFrameArrival .fabric ⟨src, node, et⟩ b f) s = execKedalFrameArrival .fabric ⟨src, node, et⟩ b f s from rfl]
  subst hq
  simp only [execKedalFrameArrival, hup, Bool.not_true, Bool.false_eq_true, if_false] <;> rfl

theorem setWidth64_inj {x y : BitVec 20} (h : x.setWidth 64 = y.setWidth 64) : x = y := by
  have h' := congrArg BitVec.toNat h
  simp only [BitVec.toNat_setWidth] at h'
  exact BitVec.eq_of_toNat_eq (by omega)

/-- R438: the fabric manager's node is admitted, or any where none is named. -/
theorem fmAdmits_fabric {node : BitVec 20} (hp : q.path = .fabric) (hn : q.sender = node.setWidth 64) :
    fmAdmits s q = true ↔ s.fab.fmNode = 0xFFFFF#20 ∨ node = s.fab.fmNode := by
  simp only [fmAdmits, hp, hn, Bool.or_eq_true, beq_iff_eq]
  exact or_congr_right ⟨setWidth64_inj, fun h => by rw [h]⟩

/-! The window (R437). -/

theorem kslot_setKslot (s : State) (k j : Nat) (x : KSlot) : (s.setKslot k x).kslot j = if j = k then x else s.kslot j :=
  tget_tput _ _ _ _ _

theorem kedal_msix (s : State) (f v : Nat) : (msix s f v).kedal = s.kedal := by
  obtain ⟨h, g, e⟩ := hostOnly_msix s f v
  rw [e]

/-- The window's slot takes its answer. -/
theorem sendResponse_window (s : State) (k : Fin 16) (src : W64) (et : Nat) (rsp : List Byte) :
    (sendResponse s (.window k) src et rsp).kedal =
      (s.setKslot k.val { s.kslot k.val with rsp := rsp, ctrl := setBit (setBit (s.kslot k.val).ctrl 30 false) 29 true }).kedal := by
  simp only [sendResponse]
  split
  · exact kedal_msix ..
  · rfl

theorem bit30_setBit29 (v : W32) : bit (setBit v 29 true) 30 = bit v 30 := by
  have h1 : 29 + 1 - 29 = 1 := rfl
  have hv := v.isLt
  have hl : bit v 30 = decide (v.toNat / 2 ^ 30 % 2 = 1) := by
    rw [bit, BitVec.getLsbD, Nat.testBit_eq_decide_div_mod_eq]
  rw [hl]
  simp only [bit, setBit, setFld, BitVec.getLsbD_ofNat, h1, if_true, Nat.testBit_eq_decide_div_mod_eq, Nat.pow_one]
  simp only [show (30 < 32) = True by simp, decide_true, Bool.true_and, decide_eq_decide]
  omega

/-- GO of a slot that takes its request and is BUSY. -/
def slotBusy (s : State) (k : Fin 16) (x : List Byte) : State :=
  (s.setKslot k.val { s.kslot k.val with req := x }).setKslot k.val
    { req := x, rsp := (s.kslot k.val).rsp, ctrl := setBit (s.kslot k.val).ctrl 30 true }

def slotRequest (k : Fin 16) (x : List Byte) : KReq :=
  ⟨.window k, 0, (x ++ List.replicate 288 0#8).take (32 + min 256 (frBodyLen x)), 0, false⟩

theorem exec_kdSlotGo {k : Fin 16} {f x : List Byte} {st : Option (Fin 9)} (hx : x = (f ++ List.replicate 288 0#8).take 288)
    (ht : hostTakes s 0 st = true) (hup : kedalUp s = true) (hs : s.pwr.start ≠ 0) (hb : bit (s.kslot k.val).ctrl 30 = false) :
    exec (.kdSlotGo ⟨k, st⟩ f) s = .next (submit (slotBusy s k x) (slotRequest k x)) := by
  rw [show exec (.kdSlotGo ⟨k, st⟩ f) s = execKdSlotGo ⟨k, st⟩ f s from rfl]
  have hc : ¬ (!hostTakes s 0 st || !kedalUp s || s.pwr.start == 0 || bit (s.kslot k.val).ctrl 30) = true := by
    rw [ht, hup, hb, beq_eq_false_iff_ne.2 hs]
    decide
  subst hx
  rw [execKdSlotGo, if_neg hc]
  simp only [slotGo, kslot_setKslot, if_true, hb, Bool.false_eq_true, if_false]
  rfl

theorem kslot_slotBusy (s : State) (k : Fin 16) (x : List Byte) : (slotBusy s k x).kslot k.val =
    { req := x, rsp := (s.kslot k.val).rsp, ctrl := setBit (s.kslot k.val).ctrl 30 true } := by
  rw [slotBusy, kslot_setKslot, if_pos rfl]

/-- A slot that is answered: its request stays, and it is READY and BUSY no longer. -/
theorem respond_slot (s : State) (k : Fin 16) (x rsp : List Byte) :
    ((respond s (slotRequest k x) rsp).kslot k.val).req = (s.kslot k.val).req ∧
      bit ((respond s (slotRequest k x) rsp).kslot k.val).ctrl 30 = false ∧
      bit ((respond s (slotRequest k x) rsp).kslot k.val).ctrl 29 = true ∧
      (respond s (slotRequest k x) rsp).kedal.queue = s.kedal.queue := by
  have hkedal : (respond s (slotRequest k x) rsp).kedal =
      (s.setKslot k.val { s.kslot k.val with rsp := rsp, ctrl := setBit (setBit (s.kslot k.val).ctrl 30 false) 29 true }).kedal :=
    sendResponse_window s k 0 (etherType s) rsp
  have hslot : (respond s (slotRequest k x) rsp).kslot k.val =
      { s.kslot k.val with rsp := rsp, ctrl := setBit (setBit (s.kslot k.val).ctrl 30 false) 29 true } := by
    rw [State.kslot, hkedal]
    exact (kslot_setKslot ..).trans (if_pos rfl)
  rw [hslot, hkedal]
  exact ⟨rfl, (bit30_setBit29 _).trans (bit_setBit_false _ _), bit_setBit_true _ (by decide), rfl⟩

theorem submit_slot (s : State) (k : Fin 16) (x : List Byte) : ((submit (slotBusy s k x) (slotRequest k x)).kslot k.val).req = x ∧
      (s.kedal.queue.length < 64 → bit ((submit (slotBusy s k x) (slotRequest k x)).kslot k.val).ctrl 30 = true ∧
        (submit (slotBusy s k x) (slotRequest k x)).kedal.queue = s.kedal.queue ++ [slotRequest k x]) ∧
      (64 ≤ s.kedal.queue.length → bit ((submit (slotBusy s k x) (slotRequest k x)).kslot k.val).ctrl 30 = false ∧
        bit ((submit (slotBusy s k x) (slotRequest k x)).kslot k.val).ctrl 29 = true ∧
        (submit (slotBusy s k x) (slotRequest k x)).kedal.queue = s.kedal.queue) := by
  by_cases hfull : 64 ≤ s.kedal.queue.length
  · have hsub : submit (slotBusy s k x) (slotRequest k x) = respond (kdStat (slotBusy s k x) (.window k) 2) (slotRequest k x)
      (response (slotRequest k x).frame 0x0B 0 []) := if_pos hfull
    obtain ⟨hreq, h30, h29, hqueue⟩ := respond_slot (kdStat (slotBusy s k x) (.window k) 2) k x (response (slotRequest k x).frame 0x0B 0 [])
    rw [hsub]
    exact ⟨hreq.trans (congrArg KSlot.req (kslot_slotBusy s k x)), fun h => absurd hfull (Nat.not_le.2 h), fun _ => ⟨h30, h29, hqueue⟩⟩
  · have hsub : submit (slotBusy s k x) (slotRequest k x) = { slotBusy s k x with kedal := { (slotBusy s k x).kedal with
      queue := (slotBusy s k x).kedal.queue ++ [slotRequest k x] } } := if_neg hfull
    have hslot : (submit (slotBusy s k x) (slotRequest k x)).kslot k.val = (slotBusy s k x).kslot k.val := by
      rw [hsub]
      rfl
    rw [hslot, kslot_slotBusy]
    refine ⟨rfl, fun _ => ⟨bit_setBit_true _ (by decide), ?_⟩, fun h => absurd h hfull⟩
    rw [hsub]
    rfl

/-! The head of the queue (R427 to R441). -/

/-- A request that the command does not take, or of a node that is not the fabric manager's, is not served. -/
theorem serveHead_at {r : List KReq} {mine : List Byte → Bool} {f : State → KReq → State} (h : AtHead s q r) (hm : mine q.frame = true) :
    serveHead s mine f = .next (f (unqueued s r) q) := by
  obtain ⟨hq, hup, hfm⟩ := h
  simp only [serveHead, hq, hm, hup, hfm, Bool.and_self, Bool.not_true, Bool.false_eq_true, if_false]
  rfl

theorem serveHead_leaves {r : List KReq} {mine : List Byte → Bool} {f : State → KReq → State} (hq : s.kedal.queue = q :: r)
    (hup : kedalUp s = true) (hfm : fmAdmits s q = false) (hm : mine q.frame = true) : serveHead s mine f = .next (unqueued s r) := by
  simp only [serveHead, hq, hm, hup, hfm, Bool.and_self, Bool.not_true, Bool.not_false, Bool.false_eq_true, if_false, if_true]
  rfl

/-- A WRITE or a CWRITE by the answer of the object's rules (step 9 of R429). -/
theorem serveValue_served (u : State) (q : KReq) (o : Obj) : ValueServed (.next (serveValue u q o)) u q o := by
  intro t st hw
  have hserve : serveValue u q o = if st = kDone ∧ o.kept ∧ u.kedal.flashBad then kRefuse u q 0x10
      else if st ≠ kDone ∧ st ≠ kDeferred then kRefuse t q st else valueAnswered u t q o st := by
    simp only [serveValue, hw]
    rfl
  rw [hserve]
  refine ⟨fun h => ?_, fun h0 hk hf => ?_, fun h0 hF => ?_⟩
  · rw [if_neg, if_neg]
    · simp only [kDone, kDeferred]
      omega
    · rintro ⟨h0, hk, hf⟩
      rcases h with h | ⟨-, h | h⟩
      · rw [h] at h0
        exact absurd h0 (by decide)
      · rw [h] at hk
        exact absurd hk (by decide)
      · rw [h] at hf
        exact absurd hf (by decide)
  · rw [if_pos ⟨h0, hk, hf⟩]
  · rw [if_neg (fun h => h0 h.1), if_pos ⟨h0, hF⟩]

/-- A command of the queue's head, and the operations that it takes (R427, R429, R441, R462). -/
theorem mine_cwrite {s : State} {f : List Byte} (h3 : frOp f = 3) (h : frIndex f ≠ 0x1020 ∨ s.sec.fw ≠ .verifying) :
    (frOp f == 3 && !(frIndex f == 0x1020 && decide (s.sec.fw = .verifying))) = true := by
  simp only [h3, beq_self_eq_true, Bool.true_and, Bool.not_eq_true', Bool.and_eq_false_iff, beq_eq_false_iff_ne, decide_eq_false_iff_not]
  exact h

/-- What each command of the queue's head does. -/
theorem exec_kHead (s : State) :
    exec .kRead s = serveHead s (fun f => frOp f != 2 && frOp f != 3) serveRead ∧
    exec .kWrite s = serveHead s (fun f => frOp f == 2) serveWrite ∧
    exec .kCwrite s = serveHead s (fun f => frOp f == 3 && !(frIndex f == 0x1020 && decide (s.sec.fw = .verifying))) serveCwrite :=
  ⟨rfl, rfl, rfl⟩

theorem exec_kHead_refuses {e : Instr × Nat} (he : e ∈ [(Instr.kRead, 1), (Instr.kWrite, 2), (Instr.kCwrite, 3)]) {r : List KReq} {st : Nat}
    (h : AtHead s q r) (hop : frOp q.frame = e.2) (hres : frIndex q.frame ≠ 0x1020 ∨ s.sec.fw ≠ .verifying)
    (hc : kCheck (unqueued s r) q = .inl st) : exec e.1 s = .next (kRefuse (unqueued s r) q st) := by
  obtain ⟨hread, hwrite, hcwrite⟩ := exec_kHead s
  simp only [List.mem_cons, List.not_mem_nil, or_false] at he
  rcases he with rfl | rfl | rfl
  · rw [hread, serveHead_at h (by simp [hop])]
    simp only [serveRead, hc]
  · rw [hwrite, serveHead_at h (by simp [hop])]
    simp only [serveWrite, hc]
  · rw [hcwrite, serveHead_at h (mine_cwrite hop hres)]
    simp only [serveCwrite, hc]

theorem exec_kHead_leaves {e : Instr × Nat} (he : e ∈ [(Instr.kRead, 1), (Instr.kWrite, 2), (Instr.kCwrite, 3)]) {r : List KReq}
    (hq : s.kedal.queue = q :: r) (hup : kedalUp s = true) (hfm : fmAdmits s q = false) (hop : frOp q.frame = e.2)
    (hres : frIndex q.frame ≠ 0x1020 ∨ s.sec.fw ≠ .verifying) : exec e.1 s = .next (unqueued s r) := by
  obtain ⟨hread, hwrite, hcwrite⟩ := exec_kHead s
  simp only [List.mem_cons, List.not_mem_nil, or_false] at he
  rcases he with rfl | rfl | rfl
  · rw [hread, serveHead_leaves hq hup hfm (by simp [hop])]
  · rw [hwrite, serveHead_leaves hq hup hfm (by simp [hop])]
  · rw [hcwrite, serveHead_leaves hq hup hfm (mine_cwrite hop hres)]

/-! Node ID and route commits (R346, R347). -/

theorem exec_routeCommit {e : W64 → Instr} (he : e ∈ [Instr.routeCommit, Instr.routeCommitCancel]) (v : W64) (s : State) :
    exec (e v) s = .next (routeCommit s v).1 := by
  simp only [List.mem_cons, List.not_mem_nil, or_false] at he
  rcases he with rfl | rfl
  · rfl
  · rfl

theorem routeCommit_fresh {v : W64} (h0 : fld v 23 9 = 0) (h8 : bit v 8 = false) (hst : s.fab.commit.status ≠ 1) :
    (routeCommit s v).1 = { s with fab := { s.fab with commit := ⟨BitVec.ofNat 40 (fld v 63 24),
      if bcnAhead s.bcn.num (BitVec.ofNat 40 (fld v 63 24)) then (if shadowBad s then 4 else 1) else 3⟩ } } := by
  have hpend : (s.fab.commit.status == 1#8) = false := beq_eq_false_iff_ne.2 hst
  simp only [routeCommit, h0, h8, hpend, ne_eq, not_true_eq_false, if_false, Bool.false_eq_true]
  cases bcnAhead s.bcn.num (BitVec.ofNat 40 (fld v 63 24)) with
  | false => rfl
  | true =>
    cases shadowBad s with
    | false => rfl
    | true => rfl

theorem routeCommit_pending {v : W64} (h0 : fld v 23 9 = 0) (h8 : bit v 8 = false) (hst : s.fab.commit.status = 1) :
    (routeCommit s v).1 = if bcnAhead s.bcn.num (BitVec.ofNat 40 (fld v 63 24)) then
        { s with fab := { s.fab with commit := ⟨BitVec.ofNat 40 (fld v 63 24), 1⟩ } } else s := by
  have hpend : (s.fab.commit.status == 1#8) = true := beq_iff_eq.2 hst
  simp only [routeCommit, h0, h8, hpend, ne_eq, not_true_eq_false, if_false, Bool.false_eq_true, if_true]
  split
  · rfl
  · rfl

theorem routeCommit_cancel {v : W64} (h0 : fld v 23 9 = 0) (h8 : bit v 8 = true) :
    (routeCommit s v).1 = if s.fab.commit.status = 1 then { s with fab := { s.fab with commit := ⟨s.fab.commit.target, 5⟩ } } else s := by
  simp only [routeCommit, h0, h8, ne_eq, not_true_eq_false, if_false, if_true]
  by_cases hst : s.fab.commit.status = 1
  · have hpend : (s.fab.commit.status == 1#8) = true := beq_iff_eq.2 hst
    rw [if_pos hpend, if_pos hst]
  · have hpend : ¬ (s.fab.commit.status == 1#8) = true := fun h => hst (beq_iff_eq.1 h)
    rw [if_neg hpend, if_neg hst]

end
end Sys2Proof.Machine

end

section
open Sys2Proof Sys2Proof.Machine

/-- Settles O50: a frame through the queue's rules, the queue's head through the checks of R429 and the object's rules, the writes of the
node ID and of a route commit by their cases. -/
theorem dictionaryCommandsComplete : Obligations.DictionaryCommandsComplete := by
  unfold Obligations.DictionaryCommandsComplete
  refine ⟨?_, ?_, ?_, ?_, ?_, ?_, ?_, ?_, ?_, ?_⟩
  case refine_1 =>
    intro src node et b f s q hup hq
    rw [exec_fieldFrame src node et b f hup hq]
    refine ⟨fun het hop hb => ?_, fun h => ?_⟩
    · rw [if_neg]
      · exact kedalRequest_submitted s q
      · rintro (h | h | ⟨hb1, h⟩)
        · exact h het
        · exact hop h
        · obtain hb0 | ⟨h1, hlo, hhi⟩ := hb
          · exact absurd hb1 (by simp [hb0])
          · simp [h1, inR, hlo, hhi] at h
    · refine if_pos (h.imp_right (Or.imp_right fun ⟨hb, h1⟩ => ⟨hb, ?_⟩))
      simp [h1]
  case refine_2 =>
    intro src node et b f s q hup hq
    rw [exec_fabricFrame src node et b f hup hq]
    have hadmit := fmAdmits_fabric (s := s) (q := q) (node := node) (by rw [hq]) (by rw [hq])
    refine ⟨fun hop hn => ?_, fun h => ?_⟩
    · rw [if_neg]
      · exact kedalRequest_submitted s q
      · rintro (h | h)
        · exact hop h
        · rw [hadmit.2 hn] at h
          cases h
    · refine if_pos (h.imp_right fun h => ?_)
      rw [← Bool.not_eq_true, hadmit, not_or]
      exact h
  case refine_3 =>
    intro k f x st s hx ht hup hs hb
    exact ⟨_, exec_kdSlotGo hx ht hup hs hb, submit_slot s k x⟩
  case refine_4 =>
    intro s w q r o v h h2 h3 hc hw hv
    subst hw hv
    rw [(exec_kHead s).1, serveHead_at h (by simp [h2, h3])]
    refine ⟨fun hq => ?_, fun hq => ?_⟩
    · simp only [serveRead, hc, hq, Bool.false_eq_true, if_false] <;> rfl
    · simp only [serveRead, hc, hq, if_true] <;> rfl
  case refine_5 =>
    intro s q r o h h2 hc
    rw [(exec_kHead s).2.1, serveHead_at h (by simp [h2])]
    have hserve : serveWrite (unqueued s r) q = serveValue (unqueued s r) q o := by simp only [serveWrite, hc]
    rw [hserve]
    exact serveValue_served _ q o
  case refine_6 =>
    intro s q r o h h3 hres hc
    rw [(exec_kHead s).2.2, serveHead_at h (mine_cwrite h3 hres)]
    refine ⟨fun hz => ?_, fun hz => ?_⟩
    · have hserve : serveCwrite (unqueued s r) q = serveValue ((blockWrite (unqueued s r)).setKeySlot (frKey q.frame)
          { (unqueued s r).keySlot (frKey q.frame) with counter := BitVec.ofNat 64 (frArg q.frame) }) q o := by
        simp only [serveCwrite, hc, hz, ne_eq, not_true_eq_false, if_false]
      rw [hserve]
      exact serveValue_served _ q o
    · simp only [serveCwrite, hc, if_pos hz]
  case refine_7 => exact fun e he s q r st => exec_kHead_refuses he
  case refine_8 => exact fun e he s q r => exec_kHead_leaves he
  case refine_9 =>
    intro v s
    refine ⟨fun h1 h2 h3 => ?_, fun h => ?_⟩
    · have hc : ¬ (s.fab.node ≠ 0xFFFFF#20 ∨ s.fab.nodeNew.isSome ∨ 0xFFFFD < v.toNat) := by
        rintro (h | h | h)
        · exact h h1
        · simp [h2] at h
        · omega
      exact congrArg (fun x : State × Nat => Host.Outcome.next x.1) (if_neg hc)
    · exact congrArg (fun x : State × Nat => Host.Outcome.next x.1) (if_pos h)
  case refine_10 =>
    intro e he v s
    rw [exec_routeCommit he]
    refine ⟨fun h0 => ?_, fun h0 h8 hst => ?_, fun h0 h8 hst => ?_, fun h0 h8 => ?_⟩
    · rw [show routeCommit s v = (s, kRefused) from if_pos h0]
    · rw [routeCommit_fresh h0 h8 hst]
    · rw [routeCommit_pending h0 h8 hst]
    · rw [routeCommit_cancel h0 h8]

end

section
/-!
Keys, quotes and firmware (18; O51).
-/
namespace Sys2Proof.Machine

/-! Keys, quotes and firmware (18 R449 to R461). -/

section
variable {s : State} {c : KeyCmd}

theorem keySlot_setKeySlot (s : State) (k j : Nat) (x : KeySlot) : (s.setKeySlot k x).keySlot j = if j = k then x else s.keySlot j :=
  tget_tput _ _ _ _ _

theorem bank_setBank (s : State) (k j : Nat) (x : Bank) : (s.setBank k x).bank j = if j = k then x else s.bank j := tget_tput _ _ _ _ _

/-- A command whose slot has changed, and no other. -/
def SlotSet (t s : State) (k : Nat) (x : KeySlot) : Prop := t.keySlot k = x ∧ ∀ j, j ≠ k → t.keySlot j = s.keySlot j

/-- A slot is written in the block of R449. -/
def slotWritten (s : State) (k : Nat) (x : KeySlot) : State := (keyResult ((blockWrite s).setKeySlot k x) 0).1

theorem slotSet_slotWritten (s : State) (k : Nat) (x : KeySlot) : SlotSet (slotWritten s k x) s k x := by
  have hslot : ∀ j, (slotWritten s k x).keySlot j = if j = k then x else s.keySlot j := fun j => keySlot_setKeySlot (blockWrite s) k j x
  exact ⟨(hslot k).trans (if_pos rfl), fun j hj => (hslot j).trans (if_neg hj)⟩

theorem keyStatus_slotWritten (s : State) (k : Nat) (x : KeySlot) : (slotWritten s k x).sec.keyStatus = 0 := rfl

/-- What every key command leaves: its status is 0, or nothing but the status has changed (R455). -/
def StatusOnly (s t : State) : Prop := t.sec.keyStatus ≠ 0 → t = { s with sec := { s.sec with keyStatus := t.sec.keyStatus } }

theorem statusOnly_keyResult (s : State) (st : Nat) : StatusOnly s (keyResult s st).1 := fun _ => rfl

theorem statusOnly_done (s t : State) : StatusOnly s (keyResult t 0).1 := fun h => absurd rfl h

theorem statusOnly_establish (s : State) (c : KeyCmd) (claim : Bool) : StatusOnly s (keyEstablish s c claim).1 := by
  simp only [keyEstablish]
  split
  · exact statusOnly_keyResult s _
  split
  · exact statusOnly_keyResult s _
  split
  · exact statusOnly_keyResult s _
  split
  · exact statusOnly_keyResult s _
  split
  · exact statusOnly_keyResult s _
  split
  · exact statusOnly_keyResult s _
  split
  · exact statusOnly_keyResult s _
  split
  · exact statusOnly_keyResult s _
  split
  · exact statusOnly_keyResult s _
  · exact statusOnly_done s _

theorem statusOnly_generate (s : State) (c : KeyCmd) : StatusOnly s (keyGenerate s c).1 := by
  simp only [keyGenerate]
  split
  · exact statusOnly_keyResult s _
  split
  · exact statusOnly_keyResult s _
  split
  · exact statusOnly_keyResult s _
  · exact statusOnly_done s _

theorem statusOnly_retire (s : State) (c : KeyCmd) : StatusOnly s (keyRetire s c).1 := by
  simp only [keyRetire]
  split
  · exact statusOnly_keyResult s _
  split
  · exact statusOnly_keyResult s _
  split
  · exact statusOnly_keyResult s _
  split
  · exact statusOnly_keyResult s _
  split
  · exact statusOnly_keyResult s _
  · exact statusOnly_done s _

/-- R453, R454: an ESTABLISH or a claim whose checks pass stores its key. -/
theorem keyEstablish_good {claim : Bool} {ct key : List Byte} (hkey : key = derivedKey s c.slot.toNat c.principal.toNat c.digest ct)
    (hrsv : c.rsv = 0) (hlo : 0x40 ≤ c.slot.toNat) (hhi : c.slot.toNat ≤ 0x4F) (hfree : (s.keySlot c.slot.toNat).inUse = false)
    (hct : stagedText s = some ct) (hdig : digOf (sha256 ct) = c.digest)
    (hproof : keyProof s c.slot.toNat c.principal.toNat c.digest key = c.proof.toNat) (hpr : c.principal ∈ [1#2, 2#2])
    (hsig : c.principal.toNat = princCode c.signer) (hflash : s.kedal.flashBad = false)
    (hclaim : claim = true → c.path = .field ∧ ∀ x ∈ s.sec.slots, isDictSlot x.1 = true → x.2.inUse = true → x.2.principal ≠ c.principal) :
    (keyEstablish s c claim).1 = slotWritten s c.slot.toNat ⟨true, c.principal, BitVec.ofNat 512 (leNat key), 0⟩ := by
  have h1 : ¬ (c.rsv ≠ 0 ∨ (!isDictSlot c.slot.toNat) = true ∨ c.principal.toNat = 0 ∨ c.principal.toNat = 3) := by
    simp only [List.mem_cons, List.not_mem_nil, or_false] at hpr
    rintro (h | h | h)
    · exact h hrsv
    · simp [isDictSlot, hlo, hhi] at h
    · rcases hpr with hp | hp
      · simp [hp] at h
      · simp [hp] at h
  have h2 : ¬ (claim && s.sec.slots.any (fun e => isDictSlot e.1 && e.2.inUse && e.2.principal == c.principal)) = true := by
    rw [Bool.and_eq_true, List.any_eq_true]
    rintro ⟨hc, x, hx, hx'⟩
    rw [Bool.and_eq_true, Bool.and_eq_true, beq_iff_eq] at hx'
    exact (hclaim hc).2 x hx hx'.1.1 hx'.1.2 hx'.2
  have h3 : ¬ (claim && c.path != .field) = true := by
    rw [Bool.and_eq_true, bne_iff_ne]
    exact fun ⟨hc, hp⟩ => hp (hclaim hc).1
  subst hkey
  simp only [keyEstablish, if_neg h1, if_neg h2, hfree, Bool.false_eq_true, if_false, hct, if_neg (Classical.not_not.2 hdig), if_neg (Classical.not_not.2 hproof),
    if_neg (Classical.not_not.2 hsig), if_neg h3, hflash] <;> rfl

theorem keyGenerate_good (hplain : keyPlain c = true) (hmem : isMemSlot c.slot.toNat = true) (hfree : (s.keySlot c.slot.toNat).inUse = false)
    (hflash : s.kedal.flashBad = false) : (keyGenerate s c).1 =
      slotWritten (drawBytes s).2 c.slot.toNat ⟨true, 0, Config.drbg s.sec.seeds s.sec.drawn, 0⟩ := by
  simp only [keyGenerate, hplain, hmem, hfree, hflash, Bool.not_true, Bool.or_self, Bool.false_eq_true, if_false] <;> rfl

theorem isMemSlot_of_isDictSlot {n : Nat} (h : isDictSlot n = true) : isMemSlot n = false := by
  simp only [isDictSlot, isMemSlot, Bool.and_eq_true, decide_eq_true_eq, Bool.and_eq_false_iff, decide_eq_false_iff_not] at h ⊢
  omega

theorem isDictSlot_of_isMemSlot {n : Nat} (h : isMemSlot n = true) : isDictSlot n = false := by
  simp only [isDictSlot, isMemSlot, Bool.and_eq_true, decide_eq_true_eq, Bool.and_eq_false_iff, decide_eq_false_iff_not] at h ⊢
  omega

theorem keyRetire_good (hplain : keyPlain c = true) (huse : (s.keySlot c.slot.toNat).inUse = true) (hflash : s.kedal.flashBad = false)
    (h : (isDictSlot c.slot.toNat = true ∧ (s.keySlot c.slot.toNat).principal.toNat = princCode c.signer) ∨
      (isMemSlot c.slot.toNat = true ∧ boundPart s c.slot.toNat = none)) :
    (keyRetire s c).1 = slotWritten s c.slot.toNat KeySlot.dflt := by
  rcases h with ⟨hd, hp⟩ | ⟨hm, hb⟩
  · simp only [keyRetire, hplain, hd, isMemSlot_of_isDictSlot hd, huse, hflash, hp, bne_self_eq_false, Bool.and_false, Bool.false_and,
      Bool.not_true, Bool.or_true, Bool.or_self, Bool.false_eq_true, if_false] <;> rfl
  · simp only [keyRetire, hplain, hm, isDictSlot_of_isMemSlot hm, huse, hflash, hb, Option.isSome_none, Bool.and_false, Bool.false_and,
      Bool.not_true, Bool.true_or, Bool.or_self, Bool.false_eq_true, if_false] <;> rfl

/-! Quotes (R459, R460). -/

section
variable {who : Principal} {kind : Byte} {part : BitVec 5} {rsv : BitVec 3} {nonce : BitVec 256}

/-- A tenant asks of a kind or a partition that is not its own. -/
def foreignQuote (s : State) (q : Quote) : Bool :=
  match q.who with
  | .tenant v => q.kind != 2 || !(bit (binding s v.toNat) 7) || fld (binding s v.toNat) 4 0 != q.part
  | _ => false

theorem quoteReq_eq (s : State) (q : Quote) (rsv : BitVec 3) : quoteReq s q rsv =
    if foreignQuote s q then (s, 0x02)
    else if rsv ≠ 0 ∨ (q.kind ≠ 1 ∧ q.kind ≠ 2) then (s, kRefused)
    else if (s.sec.quotes.any (fun x => x.who == q.who) || s.sec.quoteBusy.map Prod.fst == some q.who) || decide (16 ≤ s.sec.quotes.length) then
      (s, kBusy)
    else if s.sec.quoteBusy.isNone then (startQuote s q, kDone)
    else ({ s with sec := { s.sec with quotes := s.sec.quotes ++ [q] } }, kDone) := rfl

theorem quoteAllowed_iff : QuoteAllowed s who kind part ↔
    ¬ foreignQuote s ⟨who, kind, part.toNat, nonce⟩ = true ∧ ¬ (kind ≠ 1 ∧ kind ≠ 2) := by
  have hk : kind ∈ [1#8, 2#8] ↔ ¬ (kind ≠ 1 ∧ kind ≠ 2) := by
    simp only [List.mem_cons, List.not_mem_nil, or_false, Classical.not_and_iff_not_or_not, Classical.not_not]
    rfl
  rw [QuoteAllowed, hk, and_comm]
  refine and_congr_left fun _ => ?_
  cases who with
  | fm => simp [foreignQuote]
  | ha => simp [foreignQuote]
  | tenant v =>
    simp only [foreignQuote, Principal.tenant.injEq, forall_eq', Bool.or_eq_true, bne_iff_ne, Bool.not_eq_true', not_or, Classical.not_not,
      Bool.not_eq_false, and_assoc]

theorem quoteBusy_iff : QuoteBusy s who ↔ ((s.sec.quotes.any (fun x => x.who == who) || s.sec.quoteBusy.map Prod.fst == some who) ||
    decide (16 ≤ s.sec.quotes.length)) = true := by
  simp only [QuoteBusy, Bool.or_eq_true, List.any_eq_true, beq_iff_eq, decide_eq_true_eq, or_assoc]

theorem exec_quoteReq : exec (.quoteReq who kind part rsv nonce) s = .next (quoteReq s ⟨who, kind, part.toNat, nonce⟩ rsv).1 := rfl

theorem quoteReq_taken (hr : rsv = 0) (ha : QuoteAllowed s who kind part) (hb : ¬ QuoteBusy s who) :
    quoteReq s ⟨who, kind, part.toNat, nonce⟩ rsv = if s.sec.quoteBusy.isNone then (startQuote s ⟨who, kind, part.toNat, nonce⟩, kDone)
      else ({ s with sec := { s.sec with quotes := s.sec.quotes ++ [⟨who, kind, part.toNat, nonce⟩] } }, kDone) := by
  obtain ⟨hf, hk⟩ := (quoteAllowed_iff (nonce := nonce)).1 ha
  rw [quoteBusy_iff] at hb
  rw [quoteReq_eq, if_neg hf, if_neg (not_or.2 ⟨Classical.not_not.2 hr, hk⟩), if_neg hb]

theorem quoteReq_left (h : rsv ≠ 0 ∨ ¬ QuoteAllowed s who kind part ∨ QuoteBusy s who) :
    (quoteReq s ⟨who, kind, part.toNat, nonce⟩ rsv).1 = s := by
  rw [quoteReq_eq]
  split
  · rfl
  next hf =>
  split
  · rfl
  next hk =>
  split
  · rfl
  next hb =>
  obtain ⟨hr, hk⟩ := not_or.1 hk
  rcases h with h | h | h
  · exact absurd h hr
  · exact absurd (quoteAllowed_iff.2 ⟨hf, hk⟩) h
  · exact absurd (quoteBusy_iff.1 h) hb

theorem sec_stamp (s : State) : s.stamp.2.sec = s.sec := by simp only [State.stamp, State.bumpHub, State.bump]

/-- R460: a quote that reaches the engine takes its stamp. -/
theorem startQuote_spec (s : State) (q : Quote) : (startQuote s q).sec.quotes = s.sec.quotes ∧
    (startQuote s q).sec.quoteBusy = some (q.who, quoteBytes s.stamp.2 q s.stamp.1) := by
  simp only [startQuote, sec_stamp] <;> trivial

end

/-! Firmware updates (R461). -/

section
variable {c : FwCmd}

theorem not_busy_fw (h : s.sec.fw ∉ [FwState.receiving, .verifying]) : ¬ (s.sec.fw = .receiving ∨ s.sec.fw = .verifying) := by
  simpa only [List.mem_cons, List.not_mem_nil, or_false] using h

/-- What the update commands do where their reserved fields are zero. -/
structure FwCommands (s : State) (c : FwCmd) : Prop where
  begins : c.len.toNat ≤ 2 ^ 23 → s.sec.fw ∉ [FwState.receiving, .verifying] → ∃ t, exec (.fwBegin c) s = .next t ∧ t.sec.fw = .receiving ∧
    t.sec.received = 0 ∧ t.bank (idleBank s) = Bank.dflt
  commits : s.sec.fw = .receiving → exec (.fwCommit c) s = .next { s with sec := { s.sec with fw := .verifying, fwDigest := c.digest } }
  aborts : s.sec.fw = .receiving → ∃ t, exec (.fwAbort c) s = .next t ∧ t.sec.fw = .idle ∧
    t.bank (idleBank s) = { s.bank (idleBank s) with valid := false }
  minSvn : c.svn.toNat ≤ (s.bank s.sec.running).svn.toNat → s.sec.minSvn.toNat ≤ c.svn.toNat →
    ∃ t, exec (.setMinSvn c) s = .next t ∧ t.sec = { s.sec with minSvn := c.svn, blockWrites := s.sec.blockWrites + 1 }
  noBegin : 2 ^ 23 < c.len.toNat ∨ s.sec.fw ∈ [FwState.receiving, .verifying] → exec (.fwBegin c) s = .next s
  noEnd : s.sec.fw ≠ .receiving → exec (.fwCommit c) s = .next s ∧ exec (.fwAbort c) s = .next s
  noMinSvn : (s.bank s.sec.running).svn.toNat < c.svn.toNat ∨ c.svn.toNat < s.sec.minSvn.toNat → exec (.setMinSvn c) s = .next s

theorem fwCommands (h1 : c.rsv = 0) (h2 : c.rsv2 = 0) : FwCommands s c where
  begins := fun hlen hfw => by
    rw [show exec (.fwBegin c) s = .next (fwBegin s c).1 from rfl, fwBegin, if_neg, if_neg (not_busy_fw hfw)]
    · exact ⟨_, rfl, rfl, rfl, (bank_setBank ..).trans (if_pos rfl)⟩
    · exact not_or.2 ⟨Classical.not_not.2 h1, not_or.2 ⟨Classical.not_not.2 h2, Nat.not_lt.2 hlen⟩⟩
  commits := fun hfw => by
    rw [show exec (.fwCommit c) s = .next (fwCommit s c).1 from rfl, fwCommit, if_neg (not_or.2 ⟨Classical.not_not.2 h1, Classical.not_not.2 h2⟩), if_neg,
      if_neg (Classical.not_not.2 hfw)]
    rw [hfw]
    decide
  aborts := fun hfw => by
    rw [show exec (.fwAbort c) s = .next (fwAbort s c).1 from rfl, fwAbort, if_neg]
    · exact ⟨_, rfl, rfl, (bank_setBank ..).trans (if_pos rfl)⟩
    · exact not_or.2 ⟨Classical.not_not.2 h1, not_or.2 ⟨Classical.not_not.2 h2, Classical.not_not.2 hfw⟩⟩
  minSvn := fun hrun hmin => by
    rw [show exec (.setMinSvn c) s = .next (setMinSvn s c).1 from rfl, setMinSvn, if_neg]
    · exact ⟨_, rfl, rfl⟩
    · exact not_or.2 ⟨Classical.not_not.2 h1, not_or.2 ⟨Classical.not_not.2 h2, not_or.2 ⟨Nat.not_lt.2 hrun, Nat.not_lt.2 hmin⟩⟩⟩
  noBegin := fun h => by
    rw [show exec (.fwBegin c) s = .next (fwBegin s c).1 from rfl, fwBegin]
    split
    · rfl
    next hc =>
    split
    · rfl
    next hfw =>
    rcases h with h | h
    · exact absurd (.inr (.inr h)) hc
    · exact absurd (by simpa only [List.mem_cons, List.not_mem_nil, or_false] using h) hfw
  noEnd := fun h => by
    refine ⟨?_, ?_⟩
    · rw [show exec (.fwCommit c) s = .next (fwCommit s c).1 from rfl, fwCommit, if_neg (not_or.2 ⟨Classical.not_not.2 h1, Classical.not_not.2 h2⟩), if_pos h]
      split
      · rfl
      · rfl
    · rw [show exec (.fwAbort c) s = .next (fwAbort s c).1 from rfl, fwAbort, if_pos (.inr (.inr h))]
  noMinSvn := fun h => by
    rw [show exec (.setMinSvn c) s = .next (setMinSvn s c).1 from rfl, setMinSvn, if_pos (.inr (.inr h))]

theorem exec_fwChunk {d : List Byte} (hfw : s.sec.fw = .receiving) (h9 : 9 ≤ d.length) (h256 : d.length ≤ 256)
    (hlen : leNat (d.take 8) + (d.length - 8) ≤ s.sec.fwLen) : ∃ t, exec (.fwChunk d) s = .next t ∧ t.sec.fw = .receiving ∧
      t.sec.received = max s.sec.received (leNat (d.take 8) + (d.length - 8)) ∧
      t.bank (idleBank s) = { s.bank (idleBank s) with image := mwriteBytes (s.bank (idleBank s)).image (leNat (d.take 8)) (d.drop 8) } := by
  have hc : ¬ (s.sec.fw ≠ .receiving ∨ (d.drop 8).isEmpty = true ∨ 248 < (d.drop 8).length ∨
      s.sec.fwLen < leNat (d.take 8) + (d.drop 8).length) := by
    rw [List.isEmpty_iff_length_eq_zero, List.length_drop]
    rintro (h | h | h | h)
    · exact h hfw
    · omega
    · omega
    · omega
  rw [show exec (.fwChunk d) s = .next (fwChunk s d).1 from rfl, fwChunk, if_neg hc]
  refine ⟨_, rfl, hfw, ?_, (bank_setBank ..).trans (if_pos rfl)⟩
  rw [List.length_drop]
  rfl

theorem exec_fwChunk_none {d : List Byte} (h : s.sec.fw ≠ .receiving ∨ d.length < 9 ∨ 256 < d.length ∨
    s.sec.fwLen < leNat (d.take 8) + (d.length - 8)) : exec (.fwChunk d) s = .next s := by
  have hc : s.sec.fw ≠ .receiving ∨ (d.drop 8).isEmpty = true ∨ 248 < (d.drop 8).length ∨
      s.sec.fwLen < leNat (d.take 8) + (d.drop 8).length := by
    rw [List.isEmpty_iff_length_eq_zero, List.length_drop]
    rcases h with h | h | h | h
    · exact .inl h
    · exact .inr (.inl (by omega))
    · exact .inr (.inr (.inl (by omega)))
    · exact .inr (.inr (.inr h))
  rw [show exec (.fwChunk d) s = .next (fwChunk s d).1 from rfl, fwChunk, if_pos hc]

/-- R461: the check of a COMMIT. -/
theorem exec_fwVerifyDone {m : Memory} (hfw : s.sec.fw = .verifying) (hm : m = (s.bank (idleBank s)).image) :
    ∃ t, exec .fwVerifyDone s = .next t ∧
      (if digOf (sha256 (mbytes m 0 s.sec.fwLen)) = s.sec.fwDigest ∧ imageValid m = true ∧ s.sec.minSvn.toNat ≤ mread m 8 4 then
        t.sec.fw = .pending ∧ (t.bank (idleBank s)).valid = true ∧ (t.bank (idleBank s)).pending = true ∧
          (t.bank (idleBank s)).svn = BitVec.ofNat 32 (mread m 8 4)
       else t.sec.fw = .failed ∧ (t.bank (idleBank s)).valid = false) := by
  subst hm
  rw [show exec .fwVerifyDone s = execFwVerifyDone s from rfl, execFwVerifyDone, if_neg (Classical.not_not.2 hfw)]
  have hbank : ∀ x st, (setFw (s.setBank (idleBank s) x) st).bank (idleBank s) = x := fun x st => (bank_setBank ..).trans (if_pos rfl)
  have hiff : (digOf (sha256 (mbytes (s.bank (idleBank s)).image 0 s.sec.fwLen)) == s.sec.fwDigest &&
      imageValid (s.bank (idleBank s)).image && decide (s.sec.minSvn.toNat ≤ mread (s.bank (idleBank s)).image 8 4)) = true ↔
      digOf (sha256 (mbytes (s.bank (idleBank s)).image 0 s.sec.fwLen)) = s.sec.fwDigest ∧ imageValid (s.bank (idleBank s)).image = true ∧
        s.sec.minSvn.toNat ≤ mread (s.bank (idleBank s)).image 8 4 := by
    rw [Bool.and_eq_true, Bool.and_eq_true, beq_iff_eq, decide_eq_true_eq, and_assoc]
  split
  · next hok =>
    have hok' := hiff.2 hok
    refine ⟨_, if_pos hok', rfl, ?_⟩
    rw [hbank]
    exact ⟨rfl, rfl, rfl⟩
  · next hok =>
    refine ⟨_, if_neg (fun h => hok (hiff.1 h)), rfl, ?_⟩
    rw [hbank]

end

end
end Sys2Proof.Machine

end

section
open Sys2Proof Sys2Proof.Machine

/-- Settles O51: keys by the slot that is written, quotes by the checks of R459, updates by the states of R461. -/
theorem keysAndFirmwareComplete : Obligations.KeysAndFirmwareComplete := by
  unfold Obligations.KeysAndFirmwareComplete
  refine ⟨?_, ?_, ?_, ?_, ?_, ?_, ?_, ?_, ?_⟩
  case refine_1 =>
    intro e he c s ct key hkey hrsv hlo hhi hfree hct hdig hproof hpr hsig hflash hclaim
    have hexec : exec (e.1 c) s = .next (keyEstablish s c e.2).1 := by
      simp only [List.mem_cons, List.not_mem_nil, or_false] at he
      rcases he with rfl | rfl
      · rfl
      · rfl
    rw [hexec, keyEstablish_good hkey hrsv hlo hhi hfree hct hdig hproof hpr hsig hflash hclaim]
    obtain ⟨hset, hother⟩ := slotSet_slotWritten s c.slot.toNat ⟨true, c.principal, BitVec.ofNat 512 (leNat key), 0⟩
    exact ⟨_, rfl, keyStatus_slotWritten .., hset, hother⟩
  case refine_2 =>
    intro c s hplain hmem hfree hflash
    rw [show exec (.keyGenerate c) s = .next (keyGenerate s c).1 from rfl, keyGenerate_good hplain hmem hfree hflash]
    obtain ⟨hset, hother⟩ := slotSet_slotWritten (drawBytes s).2 c.slot.toNat ⟨true, 0, Config.drbg s.sec.seeds s.sec.drawn, 0⟩
    exact ⟨_, rfl, keyStatus_slotWritten .., hset, rfl, hother⟩
  case refine_3 =>
    intro c s hplain huse hflash h
    rw [show exec (.keyRetire c) s = .next (keyRetire s c).1 from rfl, keyRetire_good hplain huse hflash h]
    obtain ⟨hset, hother⟩ := slotSet_slotWritten s c.slot.toNat KeySlot.dflt
    exact ⟨_, rfl, keyStatus_slotWritten .., hset, hother⟩
  case refine_4 =>
    intro e he c s
    simp only [List.mem_cons, List.not_mem_nil, or_false] at he
    rcases he with rfl | rfl | rfl | rfl
    · exact ⟨_, rfl, statusOnly_establish s c false⟩
    · exact ⟨_, rfl, statusOnly_establish s c true⟩
    · exact ⟨_, rfl, statusOnly_generate s c⟩
    · exact ⟨_, rfl, statusOnly_retire s c⟩
  case refine_5 =>
    intro who kind part rsv nonce s
    refine ⟨fun hr ha hb => ⟨fun hnone => ?_, fun hsome => ?_⟩, fun h => ?_⟩
    · rw [exec_quoteReq, quoteReq_taken hr ha hb, if_pos (by rw [hnone]; rfl)]
      exact ⟨_, rfl, startQuote_spec s _⟩
    · rw [exec_quoteReq, quoteReq_taken hr ha hb, if_neg (by rwa [Option.isNone_iff_eq_none])]
    · rw [exec_quoteReq, quoteReq_left h]
  case refine_6 =>
    intro s u who bs hbusy hu
    subst hu
    rw [show exec .quoteSigned s = execQuoteSigned s from rfl]
    refine ⟨fun hq => ?_, fun q r hq => ?_⟩
    · simp only [execQuoteSigned, hbusy, hq]
    · simp only [execQuoteSigned, hbusy, hq]
  case refine_7 =>
    intro c s h1 h2
    obtain ⟨hbegin, hcommit, habort, hmin, hnoBegin, hnoEnd, hnoMin⟩ := fwCommands (s := s) h1 h2
    exact ⟨hbegin, hcommit, habort, hmin, hnoBegin, hnoEnd, hnoMin⟩
  case refine_8 => exact fun d s => ⟨exec_fwChunk, exec_fwChunk_none⟩
  case refine_9 => exact fun s m => exec_fwVerifyDone

end

section
/-!
Self-tests (19; O54).
-/
namespace Sys2Proof.Machine

/-! Self-tests (19 R478 to R481). -/

section
variable {s : State} {c : TestCmd}

/-- The request that a SELFTEST_CMD makes. -/
def testOf (s : State) (op : Nat) (c : TestCmd) : Test :=
  ⟨op, if op = 4 ∧ c.start = 0 then { c with start := s.bcn.num + 1 } else c, .inService⟩

/-- A good SELFTEST_CMD starts, waits or is refused as the queue is full (R478). -/
theorem selfTest_good {op : Nat} (hrsv : c.rsv = 0) (hfl : fld c.flags 7 1 = 0) (h5 : op ≠ 5) (hall : testAllowed op c = true)
    (hst : op = 4 → c.start ≠ 0 → bcnAhead s.bcn.num c.start = true) : (selfTest s op c).1 =
      if op ≠ 4 && testReady s (testOf s op c) then testAnswers (beginTest s (testOf s op c)) 0
      else if 64 ≤ s.rel.tests.length then testAnswers s 2
      else testAnswers { s with rel := { s.rel with tests := s.rel.tests ++ [testOf s op c] } } 0 := by
  have h1 : ¬ (c.rsv ≠ 0 ∨ fld c.flags 7 1 ≠ 0) := not_or.2 ⟨Classical.not_not.2 hrsv, Classical.not_not.2 hfl⟩
  have h2 : ¬ (!testAllowed op c) = true := by simp [hall]
  have h4 : ¬ (op = 4 ∧ c.start ≠ 0 ∧ (!bcnAhead s.bcn.num c.start) = true) := fun ⟨h, hs, hb⟩ => by simp [hst h hs] at hb
  simp only [selfTest, if_neg h1, if_neg h5, if_neg h2, if_neg h4]
  rw [apply_ite Prod.fst, apply_ite Prod.fst]
  rfl

theorem selfTest_late {op : Nat} (hop : op = 4) (hrsv : c.rsv = 0) (hfl : fld c.flags 7 1 = 0) (hall : testAllowed op c = true)
    (hst : c.start ≠ 0) (hb : bcnAhead s.bcn.num c.start = false) : (selfTest s op c).1 = testAnswers s 4 := by
  have h1 : ¬ (c.rsv ≠ 0 ∨ fld c.flags 7 1 ≠ 0) := not_or.2 ⟨Classical.not_not.2 hrsv, Classical.not_not.2 hfl⟩
  have h2 : ¬ (!testAllowed op c) = true := by simp [hall]
  have h4 : op = 4 ∧ c.start ≠ 0 ∧ (!bcnAhead s.bcn.num c.start) = true := ⟨hop, hst, by simp [hb]⟩
  have h5 : ¬ op = 5 := by omega
  simp only [selfTest, if_neg h1, if_neg h5, if_neg h2, if_pos h4] <;> rfl

theorem selfTest_bad {op : Nat} (h : c.rsv ≠ 0 ∨ fld c.flags 7 1 ≠ 0 ∨ (op ≠ 5 ∧ testAllowed op c = false)) :
    (selfTest s op c).1 = testAnswers s 1 := by
  by_cases h1 : c.rsv ≠ 0 ∨ fld c.flags 7 1 ≠ 0
  · simp only [selfTest, if_pos h1] <;> rfl
  · rw [← or_assoc] at h
    obtain ⟨h5, hall⟩ := h.resolve_left h1
    have h2 : (!testAllowed op c) = true := by simp [hall]
    simp only [selfTest, if_neg h1, if_neg h5, if_pos h2] <;> rfl

/-! Results (R481). -/

theorem getLast?_drop_append {α : Type} (l : List α) (x : α) : ((l ++ [x]).drop ((l ++ [x]).length - 64)).getLast? = some x := by
  rw [List.getLast?_drop, if_neg (by simp only [List.length_append, List.length_singleton]; omega), List.getLast?_append]
  rfl

/-- The result that a test leaves (R481). -/
theorem results_addResult (s : State) (t : Test) (res : Nat) : (addResult s t res).rel.results.getLast? =
    some ⟨t.cmd.tag, t.op, t.cmd.target.toNat, t.cmd.unit.toNat, res, s.stamp.1⟩ := getLast?_drop_append ..

/-- A request leaves the queue. -/
def dequeued (s : State) (x : Test) : State := { s with rel := { s.rel with tests := s.rel.tests.filter (· != x) } }

theorem stamp_dequeued (s : State) (x : Test) : (dequeued s x).stamp.1 = s.stamp.1 := by
  simp only [dequeued, State.stamp]

theorem selfTest_cancel {x : Test} (hrsv : c.rsv = 0) (hfl : fld c.flags 7 1 = 0) (hx : s.rel.tests.find? (fun t => t.cmd.tag == c.tag) = some x) :
    (selfTest s 5 c).1 = testAnswers (addResult (dequeued s x) x 2) 0 := by
  have h1 : ¬ (c.rsv ≠ 0 ∨ fld c.flags 7 1 ≠ 0) := not_or.2 ⟨Classical.not_not.2 hrsv, Classical.not_not.2 hfl⟩
  simp only [selfTest, if_neg h1, hx] <;> rfl

theorem rel_testAnswers (s : State) (n : Byte) : (testAnswers s n).rel = { s.rel with testStatus := n } := rfl

/-- What a test that is taken out of the queue leaves (R481). -/
theorem cancelled_spec (s : State) (x : Test) : (testAnswers (addResult (dequeued s x) x 2) 0).rel.testStatus = 0 ∧
    (testAnswers (addResult (dequeued s x) x 2) 0).rel.tests = s.rel.tests.filter (· != x) ∧
    (testAnswers (addResult (dequeued s x) x 2) 0).rel.results.getLast? =
      some ⟨x.cmd.tag, x.op, x.cmd.target.toNat, x.cmd.unit.toNat, 2, s.stamp.1⟩ := by
  obtain ⟨l, n, hrel, -⟩ := addResult_frame (dequeued s x) x 2
  have hres := results_addResult (dequeued s x) x 2
  rw [stamp_dequeued] at hres
  rw [rel_testAnswers]
  exact ⟨rfl, congrArg Rel.tests hrel, hres⟩

theorem selfTest_cancel_none (hrsv : c.rsv = 0) (hfl : fld c.flags 7 1 = 0) (hx : s.rel.tests.find? (fun t => t.cmd.tag == c.tag) = none) :
    (selfTest s 5 c).1 = testAnswers s 3 := by
  have h1 : ¬ (c.rsv ≠ 0 ∨ fld c.flags 7 1 ≠ 0) := not_or.2 ⟨Classical.not_not.2 hrsv, Classical.not_not.2 hfl⟩
  simp only [selfTest, if_neg h1, hx] <;> rfl

/-! The end of a test (R479 to R481). -/

theorem testing_retireFrame (s : State) (f : Nat) (unc : Bool) : (retireFrame s f unc).rel.testing = s.rel.testing := by
  have hrel := rel_of_ledger ((ledger_stamp (cohZero s (f * 4096) ((f + 1) * 4096))).trans (ledger_cohZero s _ _))
  have htest : (cohZero s (f * 4096) ((f + 1) * 4096)).stamp.2.rel.testing = s.rel.testing := congrArg Rel.testing hrel
  simp only [retireFrame]
  split
  · rfl
  split
  · exact htest
  · exact htest

theorem testing_unretire (s : State) (f : Nat) : (unretire s f).rel.testing = s.rel.testing := by
  simp only [unretire]
  split
  · rfl
  · rfl

theorem testing_endUnitTest (s : State) (t : Test) (fs ps : List Nat) : (endUnitTest s t fs ps).rel.testing = s.rel.testing := by
  have hzero : (cohZero s (t.cmd.unit.toNat * 2 ^ 30) ((t.cmd.unit.toNat + 1) * 2 ^ 30)).rel.testing = s.rel.testing := rfl
  have hfail : ∀ (l : List Nat) (v : State), (l.foldl (fun s f => retireFrame s f true) v).rel.testing = v.rel.testing := fun l v =>
    foldl_keeps (P := fun u : State => u.rel.testing = v.rel.testing) (fun u f hu => by rw [testing_retireFrame, hu]) l rfl
  have hpass : ∀ (l : List Nat) (p : Nat → Bool) (v : State),
      (l.foldl (fun s f => if p f then unretire s f else s) v).rel.testing = v.rel.testing := fun l p v =>
    foldl_keeps (P := fun u : State => u.rel.testing = v.rel.testing) (fun u f hu => by
      split
      · rw [testing_unretire, hu]
      · exact hu) l rfl
  simp only [endUnitTest]
  split
  · exact (hpass ps _ _).trans ((hfail _ _).trans hzero)
  · exact (hfail _ _).trans hzero

section
variable {tag : W32} {pass : Bool} {fs ps : List Nat} {x : Test} (hx : s.rel.testing.find? (fun t => t.cmd.tag == tag) = some x)
include hx

theorem selftestEnd_port {u : Nat} (hu : testUnit x = some (.port, u)) : exec (.selftestEnd tag pass fs ps) s =
    .next (calEnded (addResult (setUnit (untested s x) .port u .inService) x (b2n !pass)) x) := by
  rw [show exec (.selftestEnd tag pass fs ps) s = execSelftestEnd tag pass fs ps s from rfl]
  simp only [execSelftestEnd, hx, hu] <;> rfl

theorem selftestEnd_hbm (hu : testUnit x = none) : exec (.selftestEnd tag pass fs ps) s =
    .next (addResult (endUnitTest (untested s x) x fs ps) x (b2n !pass)) := by
  rw [show exec (.selftestEnd tag pass fs ps) s = execSelftestEnd tag pass fs ps s from rfl]
  simp only [execSelftestEnd, hx, hu] <;> rfl

theorem selftestEnd_unit {d : Domain} {u : Nat} (hu : testUnit x = some (d, u)) (hd : d ≠ .port) : exec (.selftestEnd tag pass fs ps) s =
    .next (addResult (setUnit (untested s x) d u (if pass then afterPass (untested s x) x else .outOfService)) x (b2n !pass)) := by
  rw [show exec (.selftestEnd tag pass fs ps) s = execSelftestEnd tag pass fs ps s from rfl]
  cases d with
  | port => exact absurd rfl hd
  | laneGroup => simp only [execSelftestEnd, hx, hu] <;> rfl
  | core => simp only [execSelftestEnd, hx, hu] <;> rfl
  | cluster => simp only [execSelftestEnd, hx, hu] <;> rfl
  | channel => simp only [execSelftestEnd, hx, hu] <;> rfl
  | die => simp only [execSelftestEnd, hx, hu] <;> rfl
  | module => simp only [execSelftestEnd, hx, hu] <;> rfl

/-- The end of a test of a core, a cluster or an HBM unit. -/
theorem selftestEnd_spec (hp : ∀ u, testUnit x ≠ some (.port, u)) : ∃ t r, exec (.selftestEnd tag pass fs ps) s = .next t ∧
    t.rel.testing = s.rel.testing.filter (· != x) ∧ t.rel.results.getLast? = some r ∧ r.tag = x.cmd.tag ∧ r.op = x.op ∧
    r.target = x.cmd.target.toNat ∧ r.unit = x.cmd.unit.toNat ∧ r.res = b2n !pass ∧
    ∀ d u, testUnit x = some (d, u) → unitSt t d u = (if pass then afterPass (untested s x) x else .outOfService) := by
  cases hu : testUnit x with
  | none =>
    obtain ⟨l, n, hrel, -⟩ := addResult_frame (endUnitTest (untested s x) x fs ps) x (b2n !pass)
    refine ⟨_, _, selftestEnd_hbm hx hu, ?_, results_addResult .., rfl, rfl, rfl, rfl, rfl, fun d u h => nomatch h⟩
    exact (congrArg Rel.testing hrel).trans (testing_endUnitTest (untested s x) x fs ps)
  | some w =>
    obtain ⟨d, u⟩ := w
    have hd : d ≠ .port := fun h => hp u (by rw [hu, h])
    obtain ⟨l, n, hrel, -⟩ := addResult_frame (setUnit (untested s x) d u (if pass then afterPass (untested s x) x else .outOfService)) x
      (b2n !pass)
    refine ⟨_, _, selftestEnd_unit hx hu hd, congrArg Rel.testing hrel, results_addResult .., rfl, rfl, rfl, rfl, rfl, fun e v h => ?_⟩
    cases h
    have hunits := congrArg Rel.units hrel
    exact (unitSt_of_units hunits d u).trans ((unitSt_setUnit ..).trans (if_pos rfl))

end

end
end Sys2Proof.Machine

end

section
open Sys2Proof Sys2Proof.Machine

/-- Settles O54: a request by the checks of R478 in their order, a test's end by its unit. -/
theorem selfTestsComplete : Obligations.SelfTestsComplete := by
  unfold Obligations.SelfTestsComplete
  refine ⟨?_, ?_, ?_, ?_, ?_, ?_, ?_, ?_⟩
  case refine_1 =>
    intro e he c s hrsv hfl hall
    have hexec : exec (e.1 c) s = .next (selfTest s e.2 c).1 ∧ e.2 ≠ 4 ∧ e.2 ≠ 5 := by
      simp only [List.mem_cons, List.not_mem_nil, or_false] at he
      rcases he with rfl | rfl | rfl
      · exact ⟨rfl, by decide, by decide⟩
      · exact ⟨rfl, by decide, by decide⟩
      · exact ⟨rfl, by decide, by decide⟩
    obtain ⟨hexec, h4, h5⟩ := hexec
    have htest : testOf s e.2 c = ⟨e.2, c, .inService⟩ := by rw [testOf, if_neg (fun h => h4 h.1)]
    rw [hexec, selfTest_good hrsv hfl h5 hall (fun h => absurd h h4), htest]
    have hne : decide (e.2 ≠ 4) = true := decide_eq_true h4
    refine ⟨fun hr => ?_, fun hr hlt => ?_, fun hr hge => ?_⟩
    · rw [if_pos (by rw [hne, hr]; rfl)]
    · rw [if_neg (by rw [hne, hr]; decide), if_neg (Nat.not_le.2 hlt)]
    · rw [if_neg (by rw [hne, hr]; decide), if_pos hge]
  case refine_2 =>
    intro c s hrsv hfl hall
    have htest : testOf s 4 c = ⟨4, if c.start = 0 then { c with start := s.bcn.num + 1 } else c, .inService⟩ := by
      simp only [testOf, true_and]
    rw [show exec (.testOpticalCal c) s = .next (selfTest s 4 c).1 from rfl, ← htest]
    have hne : ¬ (decide ((4 : Nat) ≠ 4) && testReady s (testOf s 4 c)) = true := by simp
    refine ⟨fun hst hlt => ?_, fun hst hge => ?_, fun hst hb => ?_⟩
    · rw [selfTest_good hrsv hfl (by decide) hall (fun _ => hst), if_neg hne, if_neg (Nat.not_le.2 hlt)]
    · rw [selfTest_good hrsv hfl (by decide) hall (fun _ => hst), if_neg hne, if_pos hge]
    · rw [selfTest_late rfl hrsv hfl hall hst hb]
  case refine_3 =>
    intro c s hrsv hfl
    rw [show exec (.testCancel c) s = .next (selfTest s 5 c).1 from rfl]
    refine ⟨fun x hx => ?_, fun hx => ?_⟩
    · rw [selfTest_cancel hrsv hfl hx]
      exact ⟨_, rfl, cancelled_spec s x⟩
    · rw [selfTest_cancel_none hrsv hfl hx]
  case refine_4 =>
    intro e he c s h
    have hexec : exec (e.1 c) s = .next (selfTest s e.2 c).1 := by
      simp only [List.mem_cons, List.not_mem_nil, or_false] at he
      rcases he with rfl | rfl | rfl | rfl | rfl
      · rfl
      · rfl
      · rfl
      · rfl
      · rfl
    rw [hexec, selfTest_bad h]
  case refine_5 =>
    intro tag s x hx
    rw [show exec (.selftestStart tag) s = execSelftestStart tag s from rfl]
    simp only [execSelftestStart, hx]
    split
    · rfl
    · rfl
  case refine_6 =>
    intro tag s hx
    rw [show exec (.selftestStart tag) s = execSelftestStart tag s from rfl]
    simp only [execSelftestStart, hx]
  case refine_7 => exact fun tag pass fs ps s x hx => ⟨fun u hu => selftestEnd_port hx hu, selftestEnd_spec hx⟩
  case refine_8 =>
    intro tag pass fs ps s hx
    rw [show exec (.selftestEnd tag pass fs ps) s = execSelftestEnd tag pass fs ps s from rfl]
    simp only [execSelftestEnd, hx]

end

section
/-!
Counters, trace and debug (20; O56).
-/
namespace Sys2Proof.Machine

/-! Counters, the freeze and trace buffers (20 R484 to R499). -/

section
variable {s : State} {b : Nat}

theorem buf_setBuf (s : State) (b j : Nat) (x : TraceBuf) : (s.setBuf b x).buf j = if j = b then x else s.buf j := by
  by_cases h : j = b
  · rw [if_pos h, h]
    exact tget_tput_same ..
  · rw [if_neg h]
    exact tget_tput_ne _ _ _ h

theorem buf_setBuf_same (s : State) (b : Nat) (x : TraceBuf) : (s.setBuf b x).buf b = x := (buf_setBuf ..).trans (if_pos rfl)

theorem buf_stamp (s : State) (b : Nat) : s.stamp.2.buf b = s.buf b := by
  simp only [State.buf, State.stamp, State.bumpHub, State.bump]

/-- Drops are counted, and nothing else of the buffer changes (R498). -/
theorem buf_countDrops (s : State) (b n : Nat) : (s.countDrops b n).buf b =
    { s.buf b with dropped := if n = 0 then (s.buf b).dropped else min 0xFFFFFFFF ((s.buf b).dropped + n) } := by
  simp only [State.countDrops]
  split
  · rfl
  · exact buf_setBuf_same ..

/-! Freeze and counters (R484, R487, R488). -/

/-- The status of a freeze trigger (R488). -/
theorem freezeWrite_bad {v : W64} (h : fld v 16 0 ≠ 0 ∨ 3 < fld v 23 20 ∨ 4 < fld v 19 17) : (freezeWrite s v).1 = dbgAnswers s 1 := by
  simp only [freezeWrite, if_pos h] <;> rfl

theorem freezeWrite_late {v : W64} (h1 : fld v 16 0 = 0) (h3 : fld v 19 17 ≤ 4) (hs : fld v 23 20 = 1) (hb : bcnAhead s.bcn.num (BitVec.ofNat 40 (fld v 63 24)) = false) :
    (freezeWrite s v).1 = dbgAnswers s 2 := by
  have hbad : ¬ (fld v 16 0 ≠ 0 ∨ 3 < fld v 23 20 ∨ 4 < fld v 19 17) := by omega
  have hlate : fld v 23 20 = 1 ∧ (!bcnAhead s.bcn.num (BitVec.ofNat 40 (fld v 63 24))) = true := ⟨hs, by simp [hb]⟩
  simp only [freezeWrite, if_neg hbad, if_pos hlate] <;> rfl

section
variable {v : W64} (h1 : fld v 16 0 = 0) (h2 : fld v 23 20 ≤ 3) (h3 : fld v 19 17 ≤ 4)
include h1 h2 h3

theorem freezeWrite_good (ha : fld v 23 20 = 1 → bcnAhead s.bcn.num (BitVec.ofNat 40 (fld v 63 24)) = true) (hf : s.dbg.freezeSt ≠ 2) :
    (freezeWrite s v).1 = { s with dbg := { s.dbg with
      result := 0, freezeTrig := v, freezeSt := if fld v 23 20 = 0 then 0 else 1, trigHit := [] } } := by
  have hbad : ¬ (fld v 16 0 ≠ 0 ∨ 3 < fld v 23 20 ∨ 4 < fld v 19 17) := by omega
  have hlate : ¬ (fld v 23 20 = 1 ∧ (!bcnAhead s.bcn.num (BitVec.ofNat 40 (fld v 63 24))) = true) := fun ⟨hs, hb⟩ => by simp [ha hs] at hb
  simp only [freezeWrite, if_neg hbad, if_neg hlate, if_neg hf] <;> rfl

theorem freezeWrite_held (ha : fld v 23 20 = 1 → bcnAhead s.bcn.num (BitVec.ofNat 40 (fld v 63 24)) = true) (hf : s.dbg.freezeSt = 2) :
    (freezeWrite s v).1 = dbgAnswers s 3 := by
  have hbad : ¬ (fld v 16 0 ≠ 0 ∨ 3 < fld v 23 20 ∨ 4 < fld v 19 17) := by omega
  have hlate : ¬ (fld v 23 20 = 1 ∧ (!bcnAhead s.bcn.num (BitVec.ofNat 40 (fld v 63 24))) = true) := fun ⟨hs, hb⟩ => by simp [ha hs] at hb
  simp only [freezeWrite, if_neg hbad, if_neg hlate, if_pos hf] <;> rfl

end

theorem freezeRelease_eq (s : State) (v : Byte) : (freezeRelease s v).1 =
    if v = 1 ∧ s.dbg.freezeSt = 2 then { s with dbg := { s.dbg with freezeSt := 0 } } else s := by
  simp only [freezeRelease]
  by_cases hv : v = 1
  · by_cases hf : s.dbg.freezeSt = 2
    · rw [if_neg (Classical.not_not.2 hv), if_pos hf, if_pos ⟨hv, hf⟩]
    · rw [if_neg (Classical.not_not.2 hv), if_neg hf, if_neg (fun h => hf h.2)]
  · rw [if_pos hv, if_neg (fun h => hv h.1)]

theorem ctr_setCtr_same (s : State) (n : Nat) (c : Counter) : (s.setCtr n c).ctr n = c := tget_tput_same ..

theorem counterWrite_good {w : CtrWrite} (hn : w.n.toNat ≤ 6015) (hrsv : w.rsv = 0) (hres : w.ctl &&& ctlReserved w.n.toNat = 0)
    (hok : ctrFixed w.n.toNat = true ∨ ctlOk w.n.toNat w.ctl = true) : (counterWrite s w).1.ctr w.n.toNat = { s.ctr w.n.toNat with
      ctl := ctlAfter w.n.toNat (s.ctr w.n.toNat).ctl w.ctl
      count := if w.setCount then w.count else (s.ctr w.n.toNat).count } := by
  have hok' : (ctrFixed w.n.toNat || ctlOk w.n.toNat w.ctl) = true := by rwa [Bool.or_eq_true]
  have hc : ¬ (6015 < w.n.toNat ∨ w.rsv ≠ 0 ∨ w.ctl &&& ctlReserved w.n.toNat ≠ 0 ∨ (!(ctrFixed w.n.toNat || ctlOk w.n.toNat w.ctl)) = true) := by
    rintro (h | h | h | h)
    · omega
    · exact h hrsv
    · exact h hres
    · simp [hok'] at h
  have hctl : (writeCtl s w.n.toNat w.ctl).ctr w.n.toNat =
      { s.ctr w.n.toNat with ctl := ctlAfter w.n.toNat (s.ctr w.n.toNat).ctl w.ctl } := by
    rw [writeCtl, if_pos hok']
    exact ctr_setCtr_same ..
  rw [counterWrite, if_neg hc]
  dsimp only
  split
  · rw [ctr_setCtr_same, hctl]
  · exact hctl

theorem counterWrite_bad {w : CtrWrite} (h : 6015 < w.n.toNat ∨ w.rsv ≠ 0 ∨ w.ctl &&& ctlReserved w.n.toNat ≠ 0 ∨
    (ctrFixed w.n.toNat = false ∧ ctlOk w.n.toNat w.ctl = false)) : (counterWrite s w).1 = s := by
  have hc : 6015 < w.n.toNat ∨ w.rsv ≠ 0 ∨ w.ctl &&& ctlReserved w.n.toNat ≠ 0 ∨ (!(ctrFixed w.n.toNat || ctlOk w.n.toNat w.ctl)) = true :=
    h.imp_right (Or.imp_right (Or.imp_right fun ⟨h1, h2⟩ => by simp [h1, h2]))
  rw [counterWrite, if_pos hc]

/-! Trace control (R490, R491, R505). -/

section
variable {v : W64}

theorem trcCtrl_enables (hoff : bit (s.buf b).ctrl 63 = false) (h1 : fld v 7 0 = 0) (h2 : fld v 62 61 ≠ 3) (h3 : 24 ≤ fld v 60 56)
    (h4 : fld v 60 56 ≤ 30) : (trcCtrlWrite s b v).1 = if bit v 63 = false then s.setBuf b { s.buf b with ctrl := v }
      else if trcMayEnable s v (s.buf b).base = false then s else s.setBuf b ((s.buf b).begin v) := by
  have hc : ¬ (fld v 7 0 ≠ 0 ∨ fld v 62 61 = 3 ∨ fld v 60 56 < 24 ∨ 30 < fld v 60 56) := by omega
  simp only [trcCtrlWrite, hoff, Bool.false_eq_true, if_false, if_neg hc, Bool.not_eq_true']
  rw [apply_ite Prod.fst, apply_ite Prod.fst]

theorem trcCtrl_bad (hoff : bit (s.buf b).ctrl 63 = false) (h : fld v 7 0 ≠ 0 ∨ fld v 62 61 = 3 ∨ fld v 60 56 < 24 ∨ 30 < fld v 60 56 ∨
    (bit v 63 = true ∧ trcMayEnable s v (s.buf b).base = false)) : (trcCtrlWrite s b v).1 = s := by
  by_cases hc : fld v 7 0 ≠ 0 ∨ fld v 62 61 = 3 ∨ fld v 60 56 < 24 ∨ 30 < fld v 60 56
  · simp only [trcCtrlWrite, hoff, Bool.false_eq_true, if_false, if_pos hc]
  · have hen : bit v 63 = true ∧ trcMayEnable s v (s.buf b).base = false := by
      rcases h with h | h | h | h | h
      · exact absurd (.inl h) hc
      · exact absurd (.inr (.inl h)) hc
      · exact absurd (.inr (.inr (.inl h))) hc
      · exact absurd (.inr (.inr (.inr h))) hc
      · exact h
    rw [trcCtrl_enables hoff (by omega) (by omega) (by omega) (by omega), if_neg (by simp [hen.1]), if_pos hen.2]

theorem trcCtrl_stops (hon : bit (s.buf b).ctrl 63 = true) (hv : v = setBit (s.buf b).ctrl 63 false) :
    ((trcCtrlWrite s b v).1.buf b).state = 0 ∧ ((trcCtrlWrite s b v).1.buf b).dieQ = [] ∧ ((trcCtrlWrite s b v).1.buf b).port = [] ∧
      ((trcCtrlWrite s b v).1.buf b).ctrl = v ∧ ((trcCtrlWrite s b v).1.buf b).next = (s.buf b).next := by
  have hstop : (trcCtrlWrite s b v).1 = (s.setBuf b ((s.buf b).finish v)).countDrops b
      (State.queuedEvents (s.buf b).dieQ + State.queuedEvents (s.buf b).port) := by
    simp only [trcCtrlWrite, hon, if_true, if_pos hv]
  rw [hstop, buf_countDrops, buf_setBuf_same]
  exact ⟨rfl, rfl, rfl, rfl, rfl⟩

theorem trcCtrl_locked (hon : bit (s.buf b).ctrl 63 = true) (hv : v ≠ setBit (s.buf b).ctrl 63 false) : (trcCtrlWrite s b v).1 = s := by
  simp only [trcCtrlWrite, hon, if_true, if_neg hv]

end

/-! Events on their way to the sink (R495 to R498). -/

/-- A trigger that meets its event changes no queue, and stops no buffer (R497). -/
structure Triggered (s t : State) (b : Nat) : Prop where
  dieQ : (t.buf b).dieQ = (s.buf b).dieQ
  port : (t.buf b).port = (s.buf b).port
  dropped : (t.buf b).dropped = (s.buf b).dropped
  after : (t.buf b).after = (s.buf b).after
  next : (t.buf b).next = (s.buf b).next
  stopped : (t.buf b).state = 3 ↔ (s.buf b).state = 3
  mem : t.mem = s.mem

theorem triggered_refl (s : State) (b : Nat) : Triggered s s b := ⟨rfl, rfl, rfl, rfl, rfl, .rfl, rfl⟩

/-- The freeze that a buffer's trigger is the source of is marked (R488). -/
def freezeMarked (s : State) (b : Nat) : State :=
  if !(fld s.dbg.freezeTrig 23 20 == 2 && fld s.dbg.freezeTrig 19 17 == b) then s
  else if s.dbg.freezeSt = 2 then { s with dbg := { s.dbg with missed := holdInc 255 s.dbg.missed } }
  else { s with dbg := { s.dbg with trigHit := if s.dbg.trigHit.contains b then s.dbg.trigHit else s.dbg.trigHit ++ [b] } }

theorem freezeMarked_keeps (s : State) (b : Nat) : (freezeMarked s b).dbg.bufs = s.dbg.bufs ∧ (freezeMarked s b).mem = s.mem := by
  simp only [freezeMarked]
  split
  · exact ⟨rfl, rfl⟩
  split
  · exact ⟨rfl, rfl⟩
  · exact ⟨rfl, rfl⟩

/-- A buffer whose trigger has met its event (R497). -/
def metTrigger (t : TraceBuf) : TraceBuf := { t with matched := true, state := if t.state = 1 then 2 else t.state, trigOpen := t.state == 1 }

theorem testTrig_eq (s : State) (b : Nat) (w0 : W64) : s.testTrig b w0 =
    if (s.buf b).matched || !State.trigMatch (s.buf b).trigger w0 then (s, false)
    else (freezeMarked (s.setBuf b (metTrigger (s.buf b))) b, true) := rfl

theorem triggered_testTrig (s : State) (b : Nat) (w0 : W64) : Triggered s (s.testTrig b w0).1 b := by
  rw [testTrig_eq]
  split
  · exact triggered_refl s b
  · obtain ⟨hbufs, hmem⟩ := freezeMarked_keeps (s.setBuf b (metTrigger (s.buf b))) b
    have hbuf : (freezeMarked (s.setBuf b (metTrigger (s.buf b))) b).buf b = metTrigger (s.buf b) := by
      rw [State.buf, hbufs]
      exact buf_setBuf_same ..
    have hstate : (metTrigger (s.buf b)).state = 3 ↔ (s.buf b).state = 3 := by
      simp only [metTrigger]
      split
      · omega
      · rfl
    exact ⟨by rw [hbuf]; rfl, by rw [hbuf]; rfl, by rw [hbuf]; rfl, by rw [hbuf]; rfl, by rw [hbuf]; rfl, by rw [hbuf]; exact hstate, hmem⟩

/-- The oldest event of a buffer with its stamp and its trigger's test. -/
def eventTested (s : State) (b : Nat) (e : TraceEnt) (r : List TraceItem) : State × Bool :=
  (s.stamp.2.setBuf b { s.stamp.2.buf b with dieQ := r }).testTrig b e.w0

theorem eventTested_spec (s : State) (b : Nat) (e : TraceEnt) (r : List TraceItem) :
    Triggered (s.setBuf b { s.buf b with dieQ := r }) (eventTested s b e r).1 b := by
  have h := triggered_testTrig (s.stamp.2.setBuf b { s.stamp.2.buf b with dieQ := r }) b e.w0
  rw [buf_stamp] at h
  obtain ⟨h1, h2, h3, h4, h5, h6, h7⟩ := h
  rw [buf_setBuf_same] at h1 h2 h3 h4 h5 h6
  have hmem : (s.stamp.2.setBuf b { s.buf b with dieQ := r }).mem = (s.setBuf b { s.buf b with dieQ := r }).mem := stamp_mem s
  have hev : eventTested s b e r = (s.stamp.2.setBuf b { s.buf b with dieQ := r }).testTrig b e.w0 := by rw [eventTested, buf_stamp]
  rw [hev]
  exact ⟨by rw [h1, buf_setBuf_same], by rw [h2, buf_setBuf_same], by rw [h3, buf_setBuf_same], by rw [h4, buf_setBuf_same],
    by rw [h5, buf_setBuf_same], by rw [h6, buf_setBuf_same], h7.trans hmem⟩

/-- The event at the head of a queue arrives by the buffer's state and the port's room. -/
theorem portArrival_event {e : TraceEnt} {g : Bool} {r : List TraceItem} (hq : (s.buf b).dieQ = .event e g :: r) : portArrival s b =
    let u := eventTested s b e r
    let t := u.1.buf b
    if t.state = 3 then u.1.setBuf b { t with after := holdInc 0xFFFFFFFF t.after }
    else if 1024 ≤ State.queuedEvents t.port then
      (u.1.setBuf b { t with port := State.loseEvent t.port (u.2 && t.trigOpen) }).countDrops b 1
    else u.1.setBuf b { t with port := t.port ++ [.event { e with stamp := s.stamp.1 } (u.2 && t.trigOpen)] } := by
  simp only [portArrival, hq] <;> rfl

/-- An event with no loss behind it arrives alone. -/
theorem exec_traceEvent {b : Fin 5} {n : BitVec 11} (h : ∀ m x r, (portArrival s b.val |>.buf b.val).dieQ ≠ .lost m x :: r) :
    exec (.traceEvent ⟨b, n⟩) s = .next ((List.range n.toNat).foldl (fun s _ => sinkStep s b.val) (portArrival s b.val)) := by
  rw [show exec (.traceEvent ⟨b, n⟩) s = execTraceEvent ⟨b, n⟩ s from rfl]
  rcases hq : ((portArrival s b.val).buf b.val).dieQ with _ | ⟨_ | ⟨m, x⟩, r⟩
  · simp only [execTraceEvent, hq]
  · simp only [execTraceEvent, hq]
  · exact absurd hq (h m x r)

section
variable {e : TraceEnt} {g : Bool} {r : List TraceItem} (hq : (s.buf b).dieQ = .event e g :: r)
include hq

theorem portArrival_taken (hst : (s.buf b).state ≠ 3) (hroom : State.queuedEvents (s.buf b).port < 1024) : ∃ h,
    ((portArrival s b).buf b).dieQ = r ∧ ((portArrival s b).buf b).port = (s.buf b).port ++ [.event { e with stamp := s.stamp.1 } h] := by
  obtain ⟨h1, h2, h3, h4, h5, h6, h7⟩ := eventTested_spec s b e r
  rw [buf_setBuf_same] at h1 h2 h3 h4 h5 h6
  refine ⟨(eventTested s b e r).2 && ((eventTested s b e r).1.buf b).trigOpen, ?_⟩
  rw [portArrival_event hq]
  dsimp only
  rw [if_neg (fun h => hst (h6.1 h)), if_neg (by rw [h2]; exact Nat.not_le.2 hroom), buf_setBuf_same]
  exact ⟨h1, by rw [h2]⟩

theorem portArrival_dropped (hst : (s.buf b).state ≠ 3) (hfull : 1024 ≤ State.queuedEvents (s.buf b).port) :
    ((portArrival s b).buf b).dieQ = r ∧ ((portArrival s b).buf b).dropped = min 0xFFFFFFFF ((s.buf b).dropped + 1) := by
  obtain ⟨h1, h2, h3, h4, h5, h6, h7⟩ := eventTested_spec s b e r
  rw [buf_setBuf_same] at h1 h2 h3 h4 h5 h6
  rw [portArrival_event hq]
  dsimp only
  rw [if_neg (fun h => hst (h6.1 h)), if_pos (by rw [h2]; exact hfull), buf_countDrops, buf_setBuf_same]
  exact ⟨h1, by rw [← h3]; rfl⟩

theorem portArrival_late (hst : (s.buf b).state = 3) : ((portArrival s b).buf b).dieQ = r ∧
    ((portArrival s b).buf b).after = holdInc 0xFFFFFFFF (s.buf b).after ∧ ((portArrival s b).buf b).next = (s.buf b).next ∧
    (portArrival s b).mem = s.mem := by
  obtain ⟨h1, h2, h3, h4, h5, h6, h7⟩ := eventTested_spec s b e r
  rw [buf_setBuf_same] at h1 h2 h3 h4 h5 h6
  rw [portArrival_event hq]
  dsimp only
  rw [if_pos (h6.2 hst), buf_setBuf_same]
  exact ⟨h1, by rw [← h4], h5, h7⟩

end

/-- The sink writes the oldest event where none is lost before it (R492, R496). -/
theorem sinkStep_event {e : TraceEnt} {g : Bool} {r : List TraceItem} (hp : (s.buf b).port = .event e g :: r) (hd : (s.buf b).drops = 0)
    (hst : (s.buf b).state ≠ 3) : sinkStep s b = sinkEntry (s.setBuf b { s.buf b with port := r }) b e g := by
  have hgap : sinkGap (s.setBuf b { s.buf b with port := r }) b e.stamp = s.setBuf b { s.buf b with port := r } := by
    rw [sinkGap, buf_setBuf_same]
    exact if_pos hd
  simp only [sinkStep, hp, hgap, buf_setBuf_same]
  rw [if_neg hst]

theorem stopTrace_keeps (c : Bool) (t : TraceBuf) : (if c then stopTrace t else t).next = t.next ∧
    (if c then stopTrace t else t).lastStamp = t.lastStamp := by
  split
  · exact ⟨rfl, rfl⟩
  · exact ⟨rfl, rfl⟩

theorem sinkEntry_spec (s : State) (b : Nat) (e : TraceEnt) (g : Bool) : ((sinkEntry s b e g).buf b).next = (s.buf b).next + 1 ∧
    ((sinkEntry s b e g).buf b).lastStamp = e.stamp := by
  simp only [sinkEntry, buf_setBuf_same]
  exact stopTrace_keeps ..

end
end Sys2Proof.Machine

end

section
namespace Sys2Proof.Machine

/-! Drains, the wait-for graph and debug stops (20 R499 to R505). -/

section
variable {s : State} {b : Fin 5}

/-! Drains of a trace buffer (R499). -/

section
variable {bus : W64} {first count : BitVec 25} {rsv rsv2 : BitVec 7}

theorem exec_trcDrain : exec (.trcDrain b bus first rsv count rsv2) s =
    .next (trcDrain s b.val bus first.toNat rsv.toNat count.toNat rsv2.toNat).1 := rfl

theorem toNat_ne_zero {w : Nat} {x : BitVec w} : x.toNat ≠ 0 ↔ x ≠ 0 :=
  ⟨fun h h0 => h (by rw [h0]; exact BitVec.toNat_zero ..), fun h h0 => h (BitVec.eq_of_toNat_eq (h0.trans (BitVec.toNat_zero ..).symm))⟩

theorem trcDrain_begins (hd : (s.buf b.val).drainState ≠ 1) (h1 : rsv = 0) (h2 : rsv2 = 0) (h3 : bus.toNat % 4096 = 0) (h4 : count ≠ 0)
    (h5 : count.toNat ≤ trcCap (s.buf b.val).ctrl) (h6 : ideOk s bus (32 * count.toNat) = true) :
    exec (.trcDrain b bus first rsv count rsv2) s = .next (s.setBuf b.val { s.buf b.val with
      drainState := 1, drainN := 0, drainBus := bus, drainFirst := first.toNat, drainCount := count.toNat }) := by
  have hc : ¬ (rsv.toNat ≠ 0 ∨ rsv2.toNat ≠ 0 ∨ bus.toNat % 4096 ≠ 0 ∨ count.toNat = 0 ∨ trcCap (s.buf b.val).ctrl < count.toNat ∨
      (!ideOk s bus (32 * count.toNat)) = true) := by
    rw [toNat_ne_zero, toNat_ne_zero]
    rintro (h | h | h | h | h | h)
    · exact h h1
    · exact h h2
    · exact h h3
    · exact toNat_ne_zero.2 h4 h
    · omega
    · simp [h6] at h
  rw [exec_trcDrain, trcDrain, if_neg hd, if_neg hc]

theorem trcDrain_refused (hd : (s.buf b.val).drainState ≠ 1) (h : rsv ≠ 0 ∨ rsv2 ≠ 0 ∨ bus.toNat % 4096 ≠ 0 ∨ count = 0 ∨
    trcCap (s.buf b.val).ctrl < count.toNat ∨ ideOk s bus (32 * count.toNat) = false) :
    exec (.trcDrain b bus first rsv count rsv2) s = .next (s.setBuf b.val { s.buf b.val with drainState := 3, drainN := 0 }) := by
  have hc : rsv.toNat ≠ 0 ∨ rsv2.toNat ≠ 0 ∨ bus.toNat % 4096 ≠ 0 ∨ count.toNat = 0 ∨ trcCap (s.buf b.val).ctrl < count.toNat ∨
      (!ideOk s bus (32 * count.toNat)) = true := by
    rw [toNat_ne_zero, toNat_ne_zero]
    refine h.imp_right (Or.imp_right (Or.imp_right (Or.imp (fun h => ?_) (Or.imp_right fun h => ?_))))
    · rw [h]
      rfl
    · rw [h]
      rfl
  rw [exec_trcDrain, trcDrain, if_neg hd, if_pos hc]

theorem trcDrain_running (hd : (s.buf b.val).drainState = 1) : exec (.trcDrain b bus first rsv count rsv2) s = .next s := by
  rw [exec_trcDrain, trcDrain, if_pos hd]

end

/-- Writes to host memory in turn: each is posted, and no buffer and no byte that a read finds has changed. -/
structure Posted (s t : State) (l : List HostOut) : Prop where
  posted : t.host.posted = s.host.posted ++ l
  reads : ∀ off n, cohRead t off n = cohRead s off n
  buf : ∀ b, t.buf b = s.buf b

theorem posted_foldl (bus : W64) (at_ : Nat → Nat) (l : List Nat) (s : State) :
    Posted s (l.foldl (fun s i => hostWrite s 0 (bus + BitVec.ofNat 64 (32 * i)) (cohRead s (at_ i) 32)) s)
      (l.map (fun i => HostOut.write 0 (bus + BitVec.ofNat 64 (32 * i)) (cohRead s (at_ i) 32))) := by
  induction l generalizing s with
  | nil => exact ⟨(List.append_nil _).symm, fun _ _ => rfl, fun _ => rfl⟩
  | cons i r ih =>
    have hfirst : Posted s (hostWrite s 0 (bus + BitVec.ofNat 64 (32 * i)) (cohRead s (at_ i) 32))
        [HostOut.write 0 (bus + BitVec.ofNat 64 (32 * i)) (cohRead s (at_ i) 32)] := ⟨rfl, fun _ _ => rfl, fun _ => rfl⟩
    obtain ⟨hp, hr, hb⟩ := hfirst
    obtain ⟨hp', hr', hb'⟩ := ih (hostWrite s 0 (bus + BitVec.ofNat 64 (32 * i)) (cohRead s (at_ i) 32))
    refine ⟨?_, fun off n => (hr' off n).trans (hr off n), fun b => (hb' b).trans (hb b)⟩
    simp only [List.foldl_cons, List.map_cons]
    rw [hp', hp, List.append_assoc]
    simp only [hr, List.singleton_append]

theorem exec_trcDrainDone (hd : (s.buf b.val).drainState = 1)
    (hok : ideOk s (s.buf b.val).drainBus (32 * (s.buf b.val).drainCount) = true) :
    ∃ t, exec (.trcDrainDone b) s = .next t ∧ (t.buf b.val).drainState = 2 ∧ (t.buf b.val).drainN = (s.buf b.val).drainCount ∧
      t.host.posted = s.host.posted ++ (List.range (s.buf b.val).drainCount).map (fun i =>
        HostOut.write 0 ((s.buf b.val).drainBus + BitVec.ofNat 64 (32 * i))
          (cohRead s ((s.buf b.val).base.toNat + ((s.buf b.val).drainFirst + i) % trcCap (s.buf b.val).ctrl * 32) 32)) := by
  rw [show exec (.trcDrainDone b) s = execTrcDrainDone b s from rfl]
  have hok' : ¬ (!ideOk s (s.buf b.val).drainBus (32 * (s.buf b.val).drainCount)) = true := by simp [hok]
  simp only [execTrcDrainDone, if_neg (Classical.not_not.2 hd), if_neg hok']
  obtain ⟨hp, -, -⟩ := posted_foldl (s.buf b.val).drainBus
    (fun i => (s.buf b.val).base.toNat + ((s.buf b.val).drainFirst + i) % trcCap (s.buf b.val).ctrl * 32)
    (List.range (s.buf b.val).drainCount) s
  refine ⟨_, rfl, ?_, ?_, hp⟩
  · rw [buf_setBuf_same]
  · rw [buf_setBuf_same]

theorem exec_trcDrainDone_lost (hd : (s.buf b.val).drainState = 1)
    (hok : ideOk s (s.buf b.val).drainBus (32 * (s.buf b.val).drainCount) = false) :
    exec (.trcDrainDone b) s = .next (s.setBuf b.val { s.buf b.val with drainState := 3 }) := by
  rw [show exec (.trcDrainDone b) s = execTrcDrainDone b s from rfl]
  have hok' : (!ideOk s (s.buf b.val).drainBus (32 * (s.buf b.val).drainCount)) = true := by simp [hok]
  simp only [execTrcDrainDone, if_neg (Classical.not_not.2 hd), if_pos hok']

/-! The wait-for graph (R500 to R502). -/

/-- What is kept of the wait-for graph. -/
def graphOf (s : State) : Nat × Nat × List Edge × Option (BitVec 40) := (s.dbg.graphSt, s.dbg.graphId, s.dbg.graphNew, s.dbg.watchAt)

theorem graphOf_stamp (s : State) : graphOf s.stamp.2 = graphOf s := by simp only [graphOf, State.stamp, State.bumpHub, State.bump]

theorem graphOf_countDrops (s : State) (b n : Nat) : graphOf (s.countDrops b n) = graphOf s := by
  simp only [State.countDrops]
  split
  · rfl
  · rfl

theorem graphOf_emit (s : State) (b kind unit ctx info : Nat) (a0 a1 : W64) : graphOf (s.emit b kind unit ctx info a0 a1) = graphOf s := by
  simp only [State.emit]
  split
  · rfl
  split
  · exact graphOf_countDrops ..
  · rfl

theorem graphOf_postEvent (s : State) (kind p st peer : Nat) (w2 w3 : W64) : graphOf (postEvent s kind p st peer w2 w3) = graphOf s := by
  have hpost : ∀ (t : State) (e : EventRec), graphOf (postRec t e) = graphOf t := fun t e => by
    simp only [postRec, keepEvent]
    split
    · rfl
    split
    · rfl
    · rfl
  exact (hpost _ _).trans (graphOf_stamp s)

theorem beginGraph_spec (s : State) (sc id : Nat) : graphOf (beginGraph s sc id).1 = (1, (s.dbg.graphId + 1) % 65536,
    ((allEdges s.stamp.2).filter (inScope s.stamp.2 sc id)).map (fun e => { e with w3 := s.stamp.1 }), s.dbg.watchAt) := by
  simp only [beginGraph, graphOf] <;> rfl

theorem ctx_beginGraph (s : State) (sc id n : Nat) : (beginGraph s sc id).1.ctx n = s.ctx n := by
  simp only [beginGraph, State.ctx, State.stamp, State.bumpHub, State.bump]

theorem exec_graphRequest {sc : BitVec 2} {rsv : BitVec 6} {id : BitVec 12} (tag : W32) (h1 : sc.toNat < 3) (h2 : rsv = 0)
    (h3 : s.dbg.graphSt ≠ 1) : ∃ t, exec (.waitForGraphRequest sc rsv id tag) s = .next t ∧ t.dbg.graphSt = 1 ∧
      t.dbg.graphId = (s.dbg.graphId + 1) % 65536 ∧
      t.dbg.graphNew = ((allEdges s.stamp.2).filter (inScope s.stamp.2 sc.toNat id.toNat)).map (fun e => { e with w3 := s.stamp.1 }) := by
  have hc : ¬ (3 ≤ sc.toNat ∨ rsv.toNat ≠ 0) := by
    rw [toNat_ne_zero]
    rintro (h | h)
    · omega
    · exact h h2
  have hg := beginGraph_spec s sc.toNat id.toNat
  refine ⟨(beginGraph s sc.toNat id.toNat).1, ?_, congrArg Prod.fst hg, congrArg (fun x => x.2.1) hg, congrArg (fun x => x.2.2.1) hg⟩
  rw [show exec (.waitForGraphRequest sc rsv id tag) s = .next (graphRequest s sc.toNat rsv.toNat id.toNat).1 from rfl, graphRequest, if_neg hc,
    if_neg h3]

theorem exec_graphRequest_refused {sc : BitVec 2} {rsv : BitVec 6} {id : BitVec 12} (tag : W32)
    (h : 3 ≤ sc.toNat ∨ rsv ≠ 0 ∨ s.dbg.graphSt = 1) : exec (.waitForGraphRequest sc rsv id tag) s = .next s := by
  rw [show exec (.waitForGraphRequest sc rsv id tag) s = .next (graphRequest s sc.toNat rsv.toNat id.toNat).1 from rfl, graphRequest]
  by_cases hc : 3 ≤ sc.toNat ∨ rsv.toNat ≠ 0
  · rw [if_pos hc]
  · rw [toNat_ne_zero] at hc
    have hg := (or_assoc.2 h).resolve_left hc
    rw [← toNat_ne_zero] at hc
    rw [if_neg hc, if_pos hg]

/-! The watchdog (R500, R501, R505). -/

theorem watchBusy_iff (s : State) (n : Nat) : WatchBusy s n ↔ (decide (s.dbg.graphSt = 1) || s.dbg.watchAt == some s.bcn.num ||
    s.ctxs.any (fun e => decide (e.1 < n) && watchdogFires s e.2)) = true := by
  simp only [WatchBusy, Bool.or_eq_true, decide_eq_true_eq, beq_iff_eq, List.any_eq_true, Bool.and_eq_true, or_assoc]

/-- A context whose idle periods begin anew (log 50). -/
def idleAnew (s : State) (n : Nat) : State := s.setCtx n { s.ctx n with idlePeriods := 0 }

/-- The watchdog is only traced. -/
def watchTraced (s : State) (n : Nat) : State := s.stamp.2.emit 4 0x11 0 n s.dbg.graphId s.stamp.1 0

/-- The watchdog begins a graph of its context. -/
def watchGraphed (s : State) (n : Nat) : State :=
  let g := beginGraph { s with dbg := { s.dbg with watchAt := some s.bcn.num } } 2 n
  let t := postEvent g.1 0x0C 0 0 0 (at_ 32 g.1.dbg.graphId ||| at_ 0 n) g.2
  t.emit 4 0x11 0 n t.dbg.graphId g.2 0

theorem exec_watchdog (n : BitVec 12) (s : State) : exec (.watchdog n) s =
    if !watchdogFires s (s.ctx n.toNat) then .next s
    else if decide (s.dbg.graphSt = 1) || s.dbg.watchAt == some s.bcn.num ||
      s.ctxs.any (fun e => decide (e.1 < n.toNat) && watchdogFires s e.2) then .next (watchTraced (idleAnew s n.toNat) n.toNat)
    else .next (watchGraphed (idleAnew s n.toNat) n.toNat) := by
  rw [show exec (.watchdog n) s = execWatchdog n s from rfl]
  simp only [execWatchdog, watchTraced, watchGraphed, idleAnew]
  split
  · rfl
  split
  · rfl
  · rfl

theorem ctx_stamp (s : State) (n : Nat) : s.stamp.2.ctx n = s.ctx n := by
  simp only [State.ctx, State.stamp, State.bumpHub, State.bump]

theorem ctx_postEvent (s : State) (kind p st peer : Nat) (w2 w3 : W64) (n : Nat) : (postEvent s kind p st peer w2 w3).ctx n = s.ctx n := by
  have hpost : ∀ (t : State) (e : EventRec), (postRec t e).ctx n = t.ctx n := fun t e => by
    simp only [postRec, keepEvent]
    split
    · rfl
    split
    · rfl
    · rfl
  simp only [postEvent, hpost, ctx_stamp]

theorem watchTraced_spec (s : State) (n : Nat) : (watchTraced s n).ctx n = s.ctx n ∧ graphOf (watchTraced s n) = graphOf s :=
  ⟨(ctx_emit ..).trans (ctx_stamp s n), (graphOf_emit ..).trans (graphOf_stamp s)⟩

theorem watchGraphed_spec (s : State) (n : Nat) : (watchGraphed s n).ctx n = s.ctx n ∧ (watchGraphed s n).dbg.graphSt = 1 ∧
    (watchGraphed s n).dbg.graphId = (s.dbg.graphId + 1) % 65536 ∧ (watchGraphed s n).dbg.watchAt = some s.bcn.num := by
  have hg : graphOf (watchGraphed s n) = graphOf (beginGraph { s with dbg := { s.dbg with watchAt := some s.bcn.num } } 2 n).1 :=
    (graphOf_emit ..).trans (graphOf_postEvent ..)
  have hctx : (beginGraph { s with dbg := { s.dbg with watchAt := some s.bcn.num } } 2 n).1.ctx n = s.ctx n :=
    (ctx_beginGraph ..).trans (by simp only [State.ctx])
  have hfinal : (watchGraphed s n).ctx n = s.ctx n := by
    simp only [watchGraphed]
    rw [ctx_emit, ctx_postEvent, hctx]
  rw [beginGraph_spec] at hg
  exact ⟨hfinal, congrArg Prod.fst hg, congrArg (fun x => x.2.1) hg, congrArg (fun x => x.2.2.2) hg⟩

end
end Sys2Proof.Machine

end

section
namespace Sys2Proof.Machine

/-! The graph's second reading, and debug stops (20 R501, R503). -/

section
variable {s : State}

/-- What the second reading leaves of an edge (R501). -/
theorem confirmEdge_some {now : List Edge} {x e : Edge} (h : confirmEdge now x = some e) :
    ∃ y ∈ now, e.w0 = x.w0 ∧ e.w2 = x.w2 ∧ e.w3 = x.w3 ∧ y.w0 = x.w0 ∧ edgeObject y = edgeObject x := by
  simp only [confirmEdge] at h
  split at h
  · cases h
  next l hl =>
  obtain ⟨y, hy⟩ := List.exists_mem_of_ne_nil _ hl
  obtain ⟨hmem, hsame⟩ := List.mem_filter.1 hy
  rw [Bool.and_eq_true, beq_iff_eq, beq_iff_eq] at hsame
  obtain ⟨hw0, hobj⟩ := hsame
  split at h
  · cases h
  · cases h
    exact ⟨y, hmem, rfl, rfl, rfl, hw0, hobj⟩

theorem exec_graphPublish (h : s.dbg.graphSt = 1) : ∃ t, exec .graphPublish s = .next t ∧ t.dbg.graphSt = 2 ∧ t.dbg.graphNew = [] ∧
    t.dbg.graph = (s.dbg.graphNew.filterMap (confirmEdge (allEdges s))).take 131008 ∧
    ∀ e ∈ t.dbg.graph, ∃ x ∈ s.dbg.graphNew, ∃ y ∈ allEdges s, e.w0 = x.w0 ∧ e.w2 = x.w2 ∧ e.w3 = x.w3 ∧ y.w0 = x.w0 ∧
      edgeObject y = edgeObject x := by
  refine ⟨_, if_neg (Classical.not_not.2 h), rfl, rfl, rfl, fun e he => ?_⟩
  obtain ⟨x, hx, hc⟩ := List.mem_filterMap.1 (List.mem_of_mem_take he)
  obtain ⟨y, hy, hsame⟩ := confirmEdge_some hc
  exact ⟨x, hx, y, hy, hsame⟩

/-! Debug stops (R503). -/

section
variable {who : Principal} {rsv n : BitVec 12}

/-- Whether a principal may not command a context's debug stop. -/
def foreignStop (s : State) (who : Principal) (n : Nat) : Bool :=
  match who with
  | .fm => true
  | .ha => false
  | .tenant v => (s.ctx n).fn != v || (s.ctx n).st == .free

/-- The result of a DBG_CMD (R503). -/
def stopResult (s : State) (stop : Bool) (rsv n : Nat) : Nat :=
  if rsv ≠ 0 then 1 else if !(s.ctx n).debug then 2
  else if !(if stop then (s.ctx n).st == .running || (s.ctx n).st == .holding else (s.ctx n).st == .stopped) then 3 else 0

/-- The result of a DBG_CMD is kept. -/
def stopAnswers (s : State) (r : Byte) : State := { s with dbg := { s.dbg with dbgResult := r } }

theorem dbgCmd_eq (s : State) (stop : Bool) (who : Principal) (rsv n : Nat) : dbgCmd s stop who rsv n =
    if foreignStop s who n then (s, 0x02)
    else if stopResult s stop rsv n ≠ 0 then (stopAnswers s (BitVec.ofNat 8 (stopResult s stop rsv n)), kRefused)
    else if stop then (preempt (stopAnswers s (BitVec.ofNat 8 (stopResult s stop rsv n))) n true, kDone)
    else (offerCores ((stopAnswers s (BitVec.ofNat 8 (stopResult s stop rsv n))).setCtx n { s.ctx n with st := .waiting, resumed := true }),
      kDone) := by
  cases who <;> rfl

theorem foreignStop_own (h : who = .ha ∨ (who = .tenant (s.ctx n.toNat).fn ∧ (s.ctx n.toNat).st ≠ .free)) :
    ¬ foreignStop s who n.toNat = true := by
  rcases h with rfl | ⟨rfl, hst⟩
  · simp [foreignStop]
  · simp [foreignStop, hst]

theorem foreignStop_other (h : who = .fm ∨ (∃ v, who = .tenant v ∧ (v ≠ (s.ctx n.toNat).fn ∨ (s.ctx n.toNat).st = .free))) :
    foreignStop s who n.toNat = true := by
  rcases h with rfl | ⟨v, rfl, hv | hst⟩
  · rfl
  · simp [foreignStop, Ne.symm hv]
  · simp [foreignStop, hst]

theorem exec_dbgStop : exec (.dbgStop who rsv n) s = .next (dbgCmd s true who rsv.toNat n.toNat).1 := rfl

theorem exec_dbgResume : exec (.dbgResume who rsv n) s = .next (dbgCmd s false who rsv.toNat n.toNat).1 := rfl

/-- The cores of a context that stops take no instruction more (R393). -/
def stoppedCore (n : Nat) (c : Core) : Core := if c.ctx.map Prod.fst = some n then { c with stopped := true } else c

theorem preempt_running {m : Nat} (h : (s.ctx m).st ∈ [CtxState.running, .holding]) (halt : Bool) :
    ((preempt s m halt).ctx m).st = .saving ∧ ((preempt s m halt).ctx m).toStop = halt ∧
      ∀ k, (preempt s m halt).core k = stoppedCore m (s.core k) := by
  have h' : (s.ctx m).st = .running ∨ (s.ctx m).st = .holding := by
    simpa only [List.mem_cons, List.not_mem_nil, or_false] using h
  have hmap : s.cores.map (fun e => if e.2.ctx.map Prod.fst = some m then (e.1, { e.2 with stopped := true }) else e) =
      s.cores.map (fun e => (e.1, stoppedCore m e.2)) := List.map_congr_left fun e _ => by
    rw [stoppedCore]
    split
    · rfl
    · rfl
  have hpre : preempt s m halt = { s.setCtx m { s.ctx m with st := .saving, toStop := halt } with
      cores := s.cores.map (fun e => (e.1, stoppedCore m e.2)) } := by
    rw [← hmap]
    exact if_pos h'
  have hctx : (preempt s m halt).ctx m = { s.ctx m with st := .saving, toStop := halt } := by
    rw [hpre]
    exact (State.ctx_setCtx s m m _).trans (if_pos rfl)
  rw [hctx]
  refine ⟨rfl, rfl, fun k => ?_⟩
  rw [hpre]
  exact tget_map Core.dflt (stoppedCore m) s.cores k

section
variable (hown : who = .ha ∨ (who = .tenant (s.ctx n.toNat).fn ∧ (s.ctx n.toNat).st ≠ .free))
include hown

/-- A command of a principal that may give it is refused with its result. -/
theorem dbgCmd_refused {stop : Bool} (h : stopResult s stop rsv.toNat n.toNat ≠ 0) : (dbgCmd s stop who rsv.toNat n.toNat).1 =
    stopAnswers s (BitVec.ofNat 8 (stopResult s stop rsv.toNat n.toNat)) := by
  rw [dbgCmd_eq, if_neg (foreignStop_own hown), if_pos h]

theorem dbgCmd_taken {stop : Bool} (h : stopResult s stop rsv.toNat n.toNat = 0) : (dbgCmd s stop who rsv.toNat n.toNat).1 =
    if stop then preempt (stopAnswers s 0) n.toNat true
    else offerCores ((stopAnswers s 0).setCtx n.toNat { s.ctx n.toNat with st := .waiting, resumed := true }) := by
  rw [dbgCmd_eq, if_neg (foreignStop_own hown), if_neg (Classical.not_not.2 h), apply_ite Prod.fst, h]
  rfl

theorem dbgCmd_bad {stop : Bool} (h : rsv ≠ 0 ∨ (s.ctx n.toNat).debug = false) : (dbgCmd s stop who rsv.toNat n.toNat).1 =
    stopAnswers s (if rsv ≠ 0 then 1 else 2) := by
  have hres : stopResult s stop rsv.toNat n.toNat = if rsv ≠ 0 then 1 else 2 := by
    by_cases hr : rsv = 0
    · rw [stopResult, if_neg (fun h => toNat_ne_zero.1 h hr), if_pos (by rw [h.resolve_left (fun h => h hr)]; rfl), if_neg (Classical.not_not.2 hr)]
    · rw [stopResult, if_pos (toNat_ne_zero.2 hr), if_pos hr]
  have hne : stopResult s stop rsv.toNat n.toNat ≠ 0 := by
    rw [hres]
    split
    · decide
    · decide
  rw [dbgCmd_refused hown hne, hres]
  split
  · rfl
  · rfl

section
variable (hr : rsv = 0) (hd : (s.ctx n.toNat).debug = true)
include hr hd

theorem stopResult_good (stop : Bool) : stopResult s stop rsv.toNat n.toNat =
    if !(if stop then (s.ctx n.toNat).st == .running || (s.ctx n.toNat).st == .holding else (s.ctx n.toNat).st == .stopped) then 3 else 0 := by
  rw [stopResult, if_neg (fun h => toNat_ne_zero.1 h hr), if_neg (by simp [hd])]

/-- A STOP of a context that runs saves it (R503). -/
theorem exec_dbgStop_taken (hst : (s.ctx n.toNat).st ∈ [CtxState.running, .holding]) : ∃ t, exec (.dbgStop who rsv n) s = .next t ∧
    t.dbg.dbgResult = 0 ∧ (t.ctx n.toNat).st = .saving ∧ (t.ctx n.toNat).toStop = true ∧
    (∀ k i, (s.core k).ctx = some (n.toNat, i) → (t.core k).stopped = true) := by
  have hst' : (s.ctx n.toNat).st = .running ∨ (s.ctx n.toNat).st = .holding := by
    simpa only [List.mem_cons, List.not_mem_nil, or_false] using hst
  have hres : stopResult s true rsv.toNat n.toNat = 0 := by
    rw [stopResult_good hown hr hd]
    simp
    exact fun h => hst'.resolve_left h
  obtain ⟨hsave, hstop, hcores⟩ := preempt_running (s := stopAnswers s 0) hst true
  obtain ⟨cs, xs, hframe⟩ := preempt_frame (stopAnswers s 0) n.toNat true
  rw [exec_dbgStop, dbgCmd_taken hown hres, if_pos rfl]
  refine ⟨_, rfl, by rw [hframe]; rfl, hsave, hstop, fun k i hk => ?_⟩
  have hk' : ((stopAnswers s 0).core k).ctx.map Prod.fst = some n.toNat := congrArg (Option.map Prod.fst) hk
  rw [hcores, stoppedCore, if_pos hk']

theorem exec_dbgStop_refused (hst : (s.ctx n.toNat).st ∉ [CtxState.running, .holding]) :
    exec (.dbgStop who rsv n) s = .next { s with dbg := { s.dbg with dbgResult := 3 } } := by
  simp only [List.mem_cons, List.not_mem_nil, or_false, not_or] at hst
  have hres : stopResult s true rsv.toNat n.toNat = 3 := by
    rw [stopResult_good hown hr hd]
    simp [hst.1, hst.2]
  rw [exec_dbgStop, dbgCmd_refused hown (by rw [hres]; decide), hres]
  rfl

theorem exec_dbgResume_taken (hst : (s.ctx n.toNat).st = .stopped) : exec (.dbgResume who rsv n) s = .next (offerCores
    ({ s with dbg := { s.dbg with dbgResult := 0 } }.setCtx n.toNat { s.ctx n.toNat with st := .waiting, resumed := true })) := by
  have hres : stopResult s false rsv.toNat n.toNat = 0 := by
    rw [stopResult_good hown hr hd]
    simp [hst]
  rw [exec_dbgResume, dbgCmd_taken hown hres]
  rfl

theorem exec_dbgResume_refused (hst : (s.ctx n.toNat).st ≠ .stopped) :
    exec (.dbgResume who rsv n) s = .next { s with dbg := { s.dbg with dbgResult := 3 } } := by
  have hres : stopResult s false rsv.toNat n.toNat = 3 := by
    rw [stopResult_good hown hr hd]
    simp [hst]
  rw [exec_dbgResume, dbgCmd_refused hown (by rw [hres]; decide), hres]
  rfl

end

end

end

end
end Sys2Proof.Machine

end

section
open Sys2Proof Sys2Proof.Machine

/-- Settles O56: each command through the rule of its function; an event by the buffer's state and the port's room; the watchdog and
the graph by what is kept of it. -/
theorem debugCommandsComplete : Obligations.DebugCommandsComplete := by
  unfold Obligations.DebugCommandsComplete
  refine ⟨?_, ?_, ?_, ?_, ?_, ?_, ?_, ?_, ?_, ?_, ?_, ?_, ?_, ?_⟩
  case refine_1 =>
    intro v s
    rw [show exec (.freezeTriggerWrite v) s = .next (freezeWrite s v).1 from rfl]
    refine ⟨fun h1 h2 h3 => ⟨fun ha hf => ?_, fun hs hb => ?_, fun ha hf => ?_⟩, fun h => ?_⟩
    · rw [freezeWrite_good h1 h2 h3 ha hf]
    · rw [freezeWrite_late h1 h3 hs hb]
    · rw [freezeWrite_held h1 h2 h3 ha hf]
    · rw [freezeWrite_bad h]
  case refine_2 => exact fun v s => congrArg Host.Outcome.next (freezeRelease_eq s v)
  case refine_3 =>
    exact fun w s => ⟨fun hn hrsv hres hok => ⟨_, rfl, counterWrite_good hn hrsv hres hok⟩,
      fun h => congrArg Host.Outcome.next (counterWrite_bad h)⟩
  case refine_4 =>
    intro b v s hoff
    rw [show exec (.trcCtrlWrite b v) s = .next (trcCtrlWrite s b.val v).1 from rfl]
    refine ⟨fun h1 h2 h3 h4 => ⟨fun hen hmay => ?_, fun hen => ?_⟩, fun h => ?_⟩
    · rw [trcCtrl_enables hoff h1 h2 h3 h4, if_neg (by simp [hen]), if_neg (by simp [hmay])]
      refine ⟨_, rfl, ?_⟩
      rw [buf_setBuf_same]
      exact ⟨rfl, rfl, rfl, rfl, rfl, rfl⟩
    · rw [trcCtrl_enables hoff h1 h2 h3 h4, if_pos hen]
    · rw [trcCtrl_bad hoff h]
  case refine_5 =>
    intro b v s hon
    exact ⟨fun hv => ⟨_, rfl, trcCtrl_stops hon hv⟩, fun hv => congrArg Host.Outcome.next (trcCtrl_locked hon hv)⟩
  case refine_6 => exact fun b n s => ⟨_, rfl, rfl⟩
  case refine_7 =>
    intro b s e g r hq hlost
    have hexec : ((portArrival s b.val).buf b.val).dieQ = r → exec (.traceEvent ⟨b, 0⟩) s = .next (portArrival s b.val) := fun hr =>
      exec_traceEvent (n := 0) fun m x l hl => hlost m x (by rw [← hr, hl]; rfl)
    refine ⟨fun hst hroom => ?_, fun hst hfull => ?_, fun hst => ?_⟩
    · obtain ⟨h, hdie, hport⟩ := portArrival_taken hq hst hroom
      exact ⟨_, h, hexec hdie, hdie, hport⟩
    · obtain ⟨hdie, hdrop⟩ := portArrival_dropped hq hst hfull
      exact ⟨_, hexec hdie, hdie, hdrop⟩
    · obtain ⟨hdie, hafter, hnext, hmem⟩ := portArrival_late hq hst
      exact ⟨_, hexec hdie, hdie, hafter, hnext, hmem⟩
  case refine_8 =>
    intro b s e g r hq hp hd hst
    have hnone : portArrival s b.val = s := by simp only [portArrival, hq]
    have hexec : exec (.traceEvent ⟨b, 1⟩) s = .next (sinkStep s b.val) := by
      rw [exec_traceEvent (fun m x l hl => by rw [hnone, hq] at hl; cases hl), hnone]
      rfl
    obtain ⟨hnext, hstamp⟩ := sinkEntry_spec (s.setBuf b.val { s.buf b.val with port := r }) b.val e g
    rw [buf_setBuf_same] at hnext
    rw [hexec, sinkStep_event hp hd hst]
    exact ⟨_, rfl, rfl, hnext, hstamp⟩
  case refine_9 => exact fun b bus first count rsv rsv2 s => ⟨trcDrain_begins, trcDrain_refused, trcDrain_running⟩
  case refine_10 => exact fun b s => ⟨exec_trcDrainDone, exec_trcDrainDone_lost, fun h => if_pos h⟩
  case refine_11 => exact fun sc rsv id tag s => ⟨exec_graphRequest tag, exec_graphRequest_refused tag⟩
  case refine_12 =>
    intro n s
    have hidle : ((idleAnew s n.toNat).ctx n.toNat).idlePeriods = 0 := by simp [idleAnew]
    refine ⟨fun hf hb => ?_, fun hf hb => ?_, fun hf => ?_⟩
    · rw [exec_watchdog, if_neg (by simp [hf]), if_neg (fun h => hb ((watchBusy_iff ..).2 h))]
      obtain ⟨hctx, hst, hid, hat⟩ := watchGraphed_spec (idleAnew s n.toNat) n.toNat
      exact ⟨_, rfl, by rw [hctx, hidle], hst, hid, hat⟩
    · rw [exec_watchdog, if_neg (by simp [hf]), if_pos ((watchBusy_iff ..).1 hb)]
      obtain ⟨hctx, hg⟩ := watchTraced_spec (idleAnew s n.toNat) n.toNat
      exact ⟨_, rfl, by rw [hctx, hidle], congrArg Prod.fst hg, congrArg (fun x => x.2.2.1) hg, congrArg (fun x => x.2.1) hg⟩
    · rw [exec_watchdog, if_pos (by simp [hf])]
  case refine_13 => exact fun s => ⟨exec_graphPublish, fun h => if_pos h⟩
  case refine_14 =>
    intro who rsv n s
    refine ⟨fun hown => ⟨fun hr hd => ⟨exec_dbgStop_taken hown hr hd, exec_dbgResume_taken hown hr hd, exec_dbgStop_refused hown hr hd,
      exec_dbgResume_refused hown hr hd⟩, fun stop h => ?_⟩, fun hother => ?_⟩
    · have hbad := fun st : Bool => dbgCmd_bad (stop := st) hown h
      cases stop with
      | true => exact congrArg Host.Outcome.next (hbad true)
      | false => exact congrArg Host.Outcome.next (hbad false)
    · rw [exec_dbgStop, exec_dbgResume, dbgCmd_eq, dbgCmd_eq, if_pos (foreignStop_other hother), if_pos (foreignStop_other hother)]
      exact ⟨rfl, rfl⟩

end

section
/-!
Library calls (22; O57).
-/
namespace Sys2Proof.Machine

/-- The device's tiling record stands when the two tests of a call pass. -/
theorem recordStands_iff (c : CallOpt) (op : Nat) (ts : List Tensor) (d : Device)
    (h : c.fixedTiling = false → tilingOk c op d.members.length d.width = true) :
    RecordStands c op ts d ↔
      (c.fixedTiling && !(tilingOk c op d.members.length d.width && tilingMine c ts)) = false := by
  unfold RecordStands
  cases hf : c.fixedTiling with
  | false => simp [h hf]
  | true => simp

/-- Every member of this module finds cores exactly when no local member is left without a placement. -/
theorem membersFit_iff (s : State) (c : CallOpt) (d : Device) :
    MembersFit s c d ↔ ((d.members.filter (localMember s)).any (fun m =>
      (placements (pinMembers s c d.members) ((pinMembers s c d.members).ctx m.ctx)
        (coreIn (pinMembers s c d.members))).isEmpty)) = false := by
  simp [MembersFit, List.any_eq_false]

section
variable {s : State} {c : CallOpt} {op : Nat} {ts : List Tensor} {run : CallOpt → CallRes} {d : Device}

theorem thCall_noDevice (h : tfind s.lib.devs c.dev = none) : thCall s c op ts run = .next s := by
  simp only [thCall, h]

theorem thCall_torn {x : Nat} (h : tfind s.lib.devs c.dev = some d) (ht : tornMember s c d = some x) :
    thCall s c op ts run = .next (returnCall s 6 [] 0 x) := by
  simp only [thCall, h, ht]

theorem thCall_notChosen (h : tfind s.lib.devs c.dev = some d) (ht : tornMember s c d = none)
    (hf : c.fixedTiling = false) (hok : tilingOk c op d.members.length d.width = false) :
    thCall s c op ts run = .next s := by
  simp [thCall, h, ht, hf, hok]

variable (h : tfind s.lib.devs c.dev = some d) (ht : tornMember s c d = none)
  (hok : c.fixedTiling = false → tilingOk c op d.members.length d.width = true)
include h ht hok

theorem thCall_status {st : Nat} (hr : run (effOpt c) = .inl st) :
    thCall s c op ts run = .next (returnCall s st [] 0 0) := by
  have hgo : (!c.fixedTiling && !tilingOk c op d.members.length d.width) = false := by
    cases hf : c.fixedTiling <;> simp [hok, hf]
  simp [thCall, h, ht, hgo, hr]

/-- A call whose rules give outputs: the record, the cores, then the room for them. -/
theorem thCall_outputs {out : List Tensor} {fl : Flags} (hr : run (effOpt c) = .inr (out, fl)) :
    thCall s c op ts run =
      if c.fixedTiling && !(tilingOk c op d.members.length d.width && tilingMine c ts) then .next (returnCall s 3 [] 0 0)
      else if (d.members.filter (localMember s)).any (fun m =>
        (placements (pinMembers s c d.members) ((pinMembers s c d.members).ctx m.ctx)
          (coreIn (pinMembers s c d.members))).isEmpty) then .next (returnCall s 4 [] 0 0)
      else if !placesOk s c d out then .next (returnCall s 7 [] 0 0)
      else .next (returnCall (storeShares (pinMembers s c d.members) c d out) 0 out fl 0) := by
  have hgo : (!c.fixedTiling && !tilingOk c op d.members.length d.width) = false := by
    cases hf : c.fixedTiling <;> simp [hok, hf]
  simp only [thCall, h, ht, hgo, hr, Bool.false_eq_true, if_false]

end

/-- A call on a device answers as R526, R534, R536, R538 and R539 give, with what the operator's rules give. -/
theorem callAnswers_thCall (s : State) (c : CallOpt) (op : Nat) (ts : List Tensor) (run : CallOpt → CallRes) :
    CallAnswers (thCall s c op ts run) s c op ts (run (effOpt c)) := by
  refine ⟨thCall_noDevice, fun d hd => ⟨fun x hx => thCall_torn hd hx, fun ht hf hok => thCall_notChosen hd ht hf hok,
    fun ht hok => ⟨fun st hr => thCall_status hd ht hok hr, fun out fl hr => ?_⟩⟩⟩
  rw [thCall_outputs hd ht hok hr, recordStands_iff c op ts d hok, membersFit_iff s c d]
  refine ⟨fun hrec => ?_, fun hrec hfit => ?_, fun hrec hfit hpl => ?_, fun hrec hfit hpl => ?_⟩
  · exact if_pos (Bool.of_not_eq_false hrec)
  · simp only [hrec, Bool.of_not_eq_false hfit, Bool.false_eq_true, if_false, if_true]
  · simp only [hrec, hfit, hpl, Bool.false_eq_true, if_false, Bool.not_false, if_true]
  · simp only [hrec, hfit, hpl, Bool.false_eq_true, if_false, Bool.not_true]

/-- An instruction that is such a call answers so. -/
theorem callAnswers_of_eq {ans : Out} {s : State} {c : CallOpt} {op : Nat} {ts : List Tensor} {run : CallOpt → CallRes}
    (h : ans = thCall s c op ts run) : CallAnswers ans s c op ts (run (effOpt c)) :=
  h ▸ callAnswers_thCall s c op ts run

/-- The exchange is a call on the state in which its polls and pushes have been recorded with the device. -/
theorem callAnswers_thExchange (c : CallOpt) (op : ExchOp) (xs : List Tensor) (late : Nat) (s : State) (d : Device)
    (h : tfind s.lib.devs c.dev = some d) :
    CallAnswers (exec (.thExchange c op xs late) s)
      { s with lib := { s.lib with devs := tput s.lib.devs c.dev { d with late := d.late + late, pushes := pushesOf d c op } } }
      c 12 xs (exchange d.members.length (effOpt c) op xs) := by
  rw [show exec (.thExchange c op xs late) s = execThExchange c op xs late s from rfl]
  simp only [execThExchange, h]
  exact callAnswers_thCall _ c 12 xs (fun o => exchange d.members.length o op xs)

theorem thExchange_noDevice {c : CallOpt} {op : ExchOp} {xs : List Tensor} {late : Nat} {s : State}
    (h : tfind s.lib.devs c.dev = none) : exec (.thExchange c op xs late) s = .next s := by
  rw [show exec (.thExchange c op xs late) s = execThExchange c op xs late s from rfl]
  simp only [execThExchange, h]

end Sys2Proof.Machine

end

section
namespace Sys2Proof.Machine

section
variable {dev : Nat} {ms : List MemberIn} {b : W64} {s : State}

theorem thOpen_closed {x : Nat} (h : ms.findSome? (memberClosed s) = some x) :
    exec (.thOpen dev ms b) s = .next (returnCall s 6 [] 0 x) := by
  rw [show exec (.thOpen dev ms b) s = execThOpen dev ms b s from rfl]
  simp only [execThOpen, h]

/-- The test of an open's members and area size is R524's and R525's. -/
theorem openFits_iff (s : State) (ms : List MemberIn) (n : Nat) :
    OpenFits s ms n ↔ ((ms.map (memberOf s)).isEmpty ||
      !ms.all (fun m => memberShape s m == (ms.head?.map (memberShape s)).getD (0, false)) ||
      !exchBytesOk (ms.map (memberOf s)).length n) = false := by
  simp [OpenFits, Bool.or_eq_false_iff, and_assoc]

theorem areasFit_iff (s : State) (ms : List MemberIn) (n : Nat) :
    AreasFit s ms n ↔ (ms.any (fun m => m.area.toNat % 2 ^ 21 != 0 ||
      (m.node == s.fab.node && !withinPart s (memberOf s m).part m.area.toNat n))) = false := by
  simp [AreasFit, List.any_eq_false]

theorem areasReached_iff (s : State) (ms : List MemberIn) (n : Nat) :
    AreasReached s ms n ↔ ¬ (2 ≤ (ms.map (memberOf s)).length ∧
      (!ms.all (fun m => m.reached && (m.node != s.fab.node ||
        exportsArea s (memberOf s m) m.area.toNat n (ms.map (memberOf s))))) = true) := by
  have hall : (ms.all (fun m => m.reached && (m.node != s.fab.node ||
        exportsArea s (memberOf s m) m.area.toNat n (ms.map (memberOf s))))) = true ↔
      ∀ m ∈ ms, m.reached = true ∧ (m.node = s.fab.node →
        exportsArea s (memberOf s m) m.area.toNat n (ms.map (memberOf s)) = true) := by
    simp [List.all_eq_true, Decidable.or_iff_not_imp_left]
  rw [AreasReached, ← hall, Classical.not_and_iff_not_or_not, List.length_map, Nat.not_le, Bool.not_eq_true', Bool.not_eq_false]

/-- An open whose members are there: their shapes and the area size, then the areas, then their reach. -/
theorem thOpen_open (h : ms.findSome? (memberClosed s) = none) :
    exec (.thOpen dev ms b) s =
      if (ms.map (memberOf s)).isEmpty || !ms.all (fun m => memberShape s m == (ms.head?.map (memberShape s)).getD (0, false)) ||
          !exchBytesOk (ms.map (memberOf s)).length b.toNat then .next (returnCall s.free.2 (s.free.1.toNat % 7 + 1) [] 0 0)
      else if ms.any (fun m => m.area.toNat % 2 ^ 21 != 0 ||
        (m.node == s.fab.node && !withinPart s (memberOf s m).part m.area.toNat b.toNat)) then .next (returnCall s 7 [] 0 0)
      else if 2 ≤ (ms.map (memberOf s)).length ∧ (!ms.all (fun m => m.reached && (m.node != s.fab.node ||
        exportsArea s (memberOf s m) m.area.toNat b.toNat (ms.map (memberOf s))))) = true then .next (returnCall s 5 [] 0 0)
      else .next { s with lib :=
        { devs := tput s.lib.devs dev ⟨ms.map (memberOf s), ((ms.head?.map (memberShape s)).getD (0, false)).1, b.toNat, ms.map (fun m => m.area.toNat), [], 0⟩
          last := ⟨0, [], 0, 0⟩ } } := by
  rw [show exec (.thOpen dev ms b) s = execThOpen dev ms b s from rfl]
  simp only [execThOpen, h]
  rfl

/-- An open for whose refusal R539 has no code answers one of the codes, freely chosen. -/
theorem returnCall_free (s : State) : ∃ st, (returnCall s.free.2 (s.free.1.toNat % 7 + 1) [] 0 0).lib.devs = s.lib.devs ∧
    (returnCall s.free.2 (s.free.1.toNat % 7 + 1) [] 0 0).lib.last = ⟨st, [], 0, 0⟩ ∧ 1 ≤ st.toNat ∧ st.toNat ≤ 7 := by
  refine ⟨BitVec.ofNat 8 (s.free.1.toNat % 7 + 1), ?_, rfl, ?_, ?_⟩
  · simp only [returnCall, State.free]
  all_goals
    rw [BitVec.toNat_ofNat, Nat.mod_eq_of_lt (by omega)]
    omega

end

/-- The five answers of DEVICE_OPEN, in the order of its tests. -/
theorem deviceOpen_answers (dev : Nat) (ms : List MemberIn) (b : W64) (s : State)
    (h : ms.findSome? (memberClosed s) = none) :
    (¬ OpenFits s ms b.toNat → ∃ t st, exec (.thOpen dev ms b) s = .next t ∧ t.lib.devs = s.lib.devs ∧ t.lib.last = ⟨st, [], 0, 0⟩ ∧
      1 ≤ st.toNat ∧ st.toNat ≤ 7) ∧
    (OpenFits s ms b.toNat → ¬ AreasFit s ms b.toNat → exec (.thOpen dev ms b) s = .next (returnCall s 7 [] 0 0)) ∧
    (OpenFits s ms b.toNat → AreasFit s ms b.toNat → ¬ AreasReached s ms b.toNat → exec (.thOpen dev ms b) s = .next (returnCall s 5 [] 0 0)) ∧
    (OpenFits s ms b.toNat → AreasFit s ms b.toNat → AreasReached s ms b.toNat → exec (.thOpen dev ms b) s = .next { s with lib :=
      { devs := tput s.lib.devs dev ⟨ms.map (memberOf s), ((ms.head?.map (memberShape s)).getD (0, false)).1, b.toNat, ms.map (fun m => m.area.toNat), [], 0⟩
        last := ⟨0, [], 0, 0⟩ } }) := by
  rw [thOpen_open h, openFits_iff, areasFit_iff, areasReached_iff]
  refine ⟨fun hfit => ?_, fun hfit harea => ?_, fun hfit harea hreach => ?_, fun hfit harea hreach => ?_⟩
  · obtain ⟨st, hst⟩ := returnCall_free s
    exact ⟨_, st, if_pos (Bool.of_not_eq_false hfit), hst⟩
  · rw [if_neg (Bool.eq_false_iff.mp hfit), if_pos (Bool.of_not_eq_false harea)]
  · rw [if_neg (Bool.eq_false_iff.mp hfit), if_neg (Bool.eq_false_iff.mp harea), if_pos (Classical.not_not.mp hreach)]
  · rw [if_neg (Bool.eq_false_iff.mp hfit), if_neg (Bool.eq_false_iff.mp harea), if_neg hreach]

end Sys2Proof.Machine

open Sys2Proof Sys2Proof.Machine

/-- Settles O57: an open is the order of its tests, and each operator is `thCall` with its own rules. -/
theorem libraryCallsComplete : Obligations.LibraryCallsComplete := by
  unfold Obligations.LibraryCallsComplete
  refine ⟨fun dev ms b s => ⟨fun x hx => thOpen_closed hx, deviceOpen_answers dev ms b s⟩,
    fun c a b z s => ?matmul, fun c es s => ?batched, fun c x w g s => ?conv, fun c q k v sc m s => ?attention,
    fun c op x ax s => ?reduce, fun c i x ax s => ?scan, fun c fs x xs s => ?elementwise, fun c i x y s => ?fft,
    fun c x os ws s => ?stencil, fun c x i s => ?gather, fun c x i y acc s => ?scatter, fun c x s => ?convert,
    callAnswers_thExchange, fun c op xs late s h => ?noDevice⟩
  case matmul => exact callAnswers_of_eq (run := (fun o => matmul o a b z)) rfl
  case batched =>
    rw [show exec (.thBatched c es) s = execThBatched c es s from rfl, execThBatched]
    exact callAnswers_thCall ..
  case conv => exact callAnswers_of_eq (run := (fun o => conv o x w g)) rfl
  case attention => exact callAnswers_of_eq (run := (fun o => attention o q k v sc m)) rfl
  case reduce => exact callAnswers_of_eq (run := (fun o => reduce o op x ax)) rfl
  case scan => exact callAnswers_of_eq (run := (fun o => scan o i x ax)) rfl
  case elementwise => exact callAnswers_of_eq (run := (fun o => elementwise o fs (x :: xs))) rfl
  case fft => exact callAnswers_of_eq (run := (fun o => fft o i x y)) rfl
  case stencil => exact callAnswers_of_eq (run := (fun o => stencil o x os ws)) rfl
  case gather => exact callAnswers_of_eq (run := (fun o => gather o x i)) rfl
  case scatter => exact callAnswers_of_eq (run := (fun o => scatter o x i y acc)) rfl
  case convert => exact callAnswers_of_eq (run := (fun o => convert o x)) rfl
  case noDevice => exact thExchange_noDevice h

end
